-- ==== Sys2Proof/Word.lean ====
section
/-! DEFINITION. Words, and finite maps from numbers with a value at every unlisted key. -/
namespace Sys2Proof

/-- A 64-bit word. -/
abbrev Word := BitVec 64
/-- A byte of memory. -/
abbrev Byte := BitVec 8

/-- A finite map keyed by Nat: keys rise strictly, the first entry of a key counts. -/
abbrev Map (α : Type) := List (Nat × α)

/-- The entry of a key, if it is listed. -/
def Map.get? {α : Type} : Map α → Nat → Option α
  | [], _ => none
  | (k, v) :: r, j => if k = j then some v else Map.get? r j

/-- The entry of a key, or the value that unlisted keys have. -/
def Map.getD {α : Type} (m : Map α) (k : Nat) (d : α) : α := (Map.get? m k).getD d

/-- Write the entry of a key, keeping the keys in rising order. -/
def Map.set {α : Type} : Map α → Nat → α → Map α
  | [], j, x => [(j, x)]
  | (k, v) :: r, j, x =>
    if j < k then (j, x) :: (k, v) :: r
    else if k = j then (j, x) :: r
    else (k, v) :: Map.set r j x

/-- Remove the entry of a key. -/
def Map.del {α : Type} : Map α → Nat → Map α
  | [], _ => []
  | (k, v) :: r, j => if k = j then r else (k, v) :: Map.del r j

end Sys2Proof
end

