-- ==== Sys2Proof/Syntax.lean ====
section
/-! DEFINITION. The steps of the MQ-4800: one constructor per row of the opcode table, encoded instructions first in
the table's order and, among them and after them, the events of the part's other agents.

Fields of an encoded instruction keep the letters of R53: `p` the predicate of kind P, `d` the destination code, `a`, `b`,
`c` the source codes, `sc` the stall count S. An event has no encoding: its arguments say which agent or object moves. -/
namespace Sys2Proof

/-- Who makes a Vale system call (R390, R391): a context that executed cfgwr or cfgrd, or the tenant's control program on the
control cluster (R14), which hands its argument and the words of its descriptor. -/
inductive Caller where
  | context (core level : Nat)
  | control (asid : Nat) (arg : BitVec 64) (desc : List (BitVec 64))
deriving DecidableEq, Repr

/-- A register without a row of its own that an agent other than a core's mtc writes (R8, R389): by Vale over the privileged
path, or by a steward. -/
inductive RegSel where
  /-- a register of an edge slice at an offset: KVTICK, PRIVCH, REFREC0, REFREC1 (R335, R340) -/
  | slice (n off : Nat)
  /-- SNAPCTL.ALLOW of a core, set by its steward (R240) -/
  | snapAllow (core : Nat)
  /-- word w (0 to 3) of a root descriptor (R152) -/
  | rootWord (asid root w : Nat)
  /-- a word of a control record of a root's header table: 0 holds ENABLE and THRESH, 1 holds NPAGES (R324) -/
  | controlRecord (asid root w : Nat)
  /-- registration of a root's header table with the slices that home its headers (R328) -/
  | registerTable (asid root : Nat)
  /-- the gang time slice, in units of 0.1 ms (R44) -/
  | slicePeriod
  /-- MODPOWER, from the power and temperature sensors (R401) -/
  | modPower
  /-- a control register of a core, by number, as mtc of its level would write it (R67) -/
  | control (core level num : Nat)
deriving DecidableEq, Repr

/-- A steward's finding at a stopped core (R233): 0 for no fault, 1 for one failed bank, 2 for a fault that no bank repair covers. -/
structure StewardFinding where
  core : Nat
  kind : Nat
deriving DecidableEq, Repr

/-- A 1588 message (R386): Sync 0, Follow_Up 1, Delay_Req 2, Delay_Resp 3; the time that it brings, or at which it is stamped. -/
structure PtpMsg where
  kind : Nat
  time : Nat
deriving DecidableEq, Repr

/-- A piece of an engine operation's work (R192, R217): which operation, and how many elements of its unit; 0 for all that are left. -/
structure UnitStep where
  idx : Nat
  elems : Nat
deriving DecidableEq, Repr

/-- A link flit (R383) but for its CRC. -/
structure WireFlit where
  header : BitVec 64
  payload : BitVec 512
deriving DecidableEq, Repr

/-- What a block finds at its calibration (R398): whether it failed, and which channels of a slice failed to train. -/
structure Trained where
  failed : Bool
  channels : BitVec 2
deriving DecidableEq, Repr

/-- A completion of a ring (R388): the entry, and where in BAR2 it goes. -/
structure RingCompletion where
  ring : Nat
  off : Nat
  entry : BitVec 64
deriving DecidableEq, Repr

/-- Frequency in MHz and voltage in mV of an island (R401). -/
structure DvfsPoint where
  mhz : Nat
  mv : Nat
deriving DecidableEq, Repr

/-- The instructions and events of the opcode table. -/
inductive Instr where
  /-- ADD: Adds two scalar registers modulo 2^64 under a predicate (R87). -/
  | add (p : BitVec 3) (d a b : BitVec 5) (sc : BitVec 3)
  /-- SUB: Subtracts scalar register b from a modulo 2^64 under a predicate (R87). -/
  | sub (p : BitVec 3) (d a b : BitVec 5) (sc : BitVec 3)
  /-- MUL: Writes the low 64 bits of the product of two scalar registers (R87). -/
  | mul (p : BitVec 3) (d a b : BitVec 5) (sc : BitVec 3)
  /-- MULH: Writes bits 127:64 of the signed 128-bit product (R87). -/
  | mulh (p : BitVec 3) (d a b : BitVec 5) (sc : BitVec 3)
  /-- MULH_N: Writes bits 127:64 of the unsigned 128-bit product (R87). -/
  | mulhN (p : BitVec 3) (d a b : BitVec 5) (sc : BitVec 3)
  /-- DIV: Signed division truncating towards zero, never trapping (R88). -/
  | div (p : BitVec 3) (d a b : BitVec 5) (sc : BitVec 3)
  /-- DIV_N: Unsigned division, never trapping (R88). -/
  | divN (p : BitVec 3) (d a b : BitVec 5) (sc : BitVec 3)
  /-- REM: Signed remainder with the sign of the dividend (R88). -/
  | rem (p : BitVec 3) (d a b : BitVec 5) (sc : BitVec 3)
  /-- REM_N: Unsigned remainder (R88). -/
  | remN (p : BitVec 3) (d a b : BitVec 5) (sc : BitVec 3)
  /-- AND: Bitwise AND of two scalar registers (R87). -/
  | and (p : BitVec 3) (d a b : BitVec 5) (sc : BitVec 3)
  /-- OR: Bitwise OR of two scalar registers (R87). -/
  | or (p : BitVec 3) (d a b : BitVec 5) (sc : BitVec 3)
  /-- XOR: Bitwise XOR of two scalar registers (R87). -/
  | xor (p : BitVec 3) (d a b : BitVec 5) (sc : BitVec 3)
  /-- ANDN: Writes a AND NOT b (R87). -/
  | andn (p : BitVec 3) (d a b : BitVec 5) (sc : BitVec 3)
  /-- MIN: Writes the signed smaller of two registers (R87). -/
  | min (p : BitVec 3) (d a b : BitVec 5) (sc : BitVec 3)
  /-- MAX: Writes the signed larger of two registers (R87). -/
  | max (p : BitVec 3) (d a b : BitVec 5) (sc : BitVec 3)
  /-- MIN_N: Writes the unsigned smaller of two registers (R87). -/
  | minN (p : BitVec 3) (d a b : BitVec 5) (sc : BitVec 3)
  /-- MAX_N: Writes the unsigned larger of two registers (R87). -/
  | maxN (p : BitVec 3) (d a b : BitVec 5) (sc : BitVec 3)
  /-- SHL: Shifts left by b[5:0] (R87). -/
  | shl (p : BitVec 3) (d a b : BitVec 5) (sc : BitVec 3)
  /-- SHR: Shifts right by b[5:0], filling with zeros (R87). -/
  | shr (p : BitVec 3) (d a b : BitVec 5) (sc : BitVec 3)
  /-- SRA: Shifts right by b[5:0], filling with the sign bit (R87). -/
  | sra (p : BitVec 3) (d a b : BitVec 5) (sc : BitVec 3)
  /-- ROT: Rotates right by b[5:0] (R87). -/
  | rot (p : BitVec 3) (d a b : BitVec 5) (sc : BitVec 3)
  /-- CLZ: Counts leading zero bits (R87). -/
  | clz (p : BitVec 3) (d a : BitVec 5) (sc : BitVec 3)
  /-- CTZ: Counts trailing zero bits (R87). -/
  | ctz (p : BitVec 3) (d a : BitVec 5) (sc : BitVec 3)
  /-- POPC: Counts one bits (R87). -/
  | popc (p : BitVec 3) (d a : BitVec 5) (sc : BitVec 3)
  /-- TAZ: Builds the depth-24 tree address of a row and column in root 0 (R95). -/
  | taz (p : BitVec 3) (d a b : BitVec 5) (sc : BitVec 3)
  /-- TAX: Extracts row and column from a tree address (R95). -/
  | tax (p : BitVec 3) (d a : BitVec 5) (sc : BitVec 3)
  /-- TADEPTH: Writes the canonical depth of a tree address (R95). -/
  | tadepth (p : BitVec 3) (d a : BitVec 5) (sc : BitVec 3)
  /-- TANB: Writes the neighbouring block of the same depth with a carry bit (R96). -/
  | tanb (p : BitVec 3) (d a b : BitVec 5) (sc : BitVec 3)
  /-- TAUP: Removes digits from a tree address, register form (R95). -/
  | taup (p : BitVec 3) (d a b : BitVec 5) (sc : BitVec 3)
  /-- TADOWN: Appends a digit to a tree address, register form (R95). -/
  | tadown (p : BitVec 3) (d a b : BitVec 5) (sc : BitVec 3)
  /-- SEL: Selects a or b by bit 0 of a predicate (R90). -/
  | sel (d a b : BitVec 5) (k sc : BitVec 3)
  /-- CMP_EQ: Writes 1 when a equals b (R89). -/
  | cmpEq (p : BitVec 3) (d a b : BitVec 5) (sc : BitVec 3)
  /-- CMP_NE: Writes 1 when a differs from b (R89). -/
  | cmpNe (p : BitVec 3) (d a b : BitVec 5) (sc : BitVec 3)
  /-- CMP_LT: Writes 1 when a is signed less than b (R89). -/
  | cmpLt (p : BitVec 3) (d a b : BitVec 5) (sc : BitVec 3)
  /-- CMP_GE: Writes 1 when a is signed at least b (R89). -/
  | cmpGe (p : BitVec 3) (d a b : BitVec 5) (sc : BitVec 3)
  /-- CMP_LTU: Writes 1 when a is unsigned less than b (R89). -/
  | cmpLtu (p : BitVec 3) (d a b : BitVec 5) (sc : BitVec 3)
  /-- CMP_GEU: Writes 1 when a is unsigned at least b (R89). -/
  | cmpGeu (p : BitVec 3) (d a b : BitVec 5) (sc : BitVec 3)
  /-- CMP_ANY: Writes 1 when a AND b is non-zero (R89). -/
  | cmpAny (p : BitVec 3) (d a b : BitVec 5) (sc : BitVec 3)
  /-- CMP_NONE: Writes 1 when a AND b is zero (R89). -/
  | cmpNone (p : BitVec 3) (d a b : BitVec 5) (sc : BitVec 3)
  /-- ADD_IMM12: Adds a signed 12-bit immediate (R87). -/
  | addImm12 (d a : BitVec 5) (i : BitVec 12) (sc : BitVec 3)
  /-- AND_IMM: ANDs with a sign-extended 8-bit immediate (R87). -/
  | andImm (d a : BitVec 5) (i : BitVec 8) (sc : BitVec 3)
  /-- OR_IMM: ORs with a sign-extended 8-bit immediate (R87). -/
  | orImm (d a : BitVec 5) (i : BitVec 8) (sc : BitVec 3)
  /-- XOR_IMM: XORs with a sign-extended 8-bit immediate (R87). -/
  | xorImm (d a : BitVec 5) (i : BitVec 8) (sc : BitVec 3)
  /-- ANDN_IMM: Writes a AND NOT the immediate (R87). -/
  | andnImm (d a : BitVec 5) (i : BitVec 8) (sc : BitVec 3)
  /-- SHL_IMM: Shifts left by an immediate 0-63 (R87). -/
  | shlImm (d a : BitVec 5) (i : BitVec 6) (sc : BitVec 3)
  /-- SHR_IMM: Shifts right logically by an immediate (R87). -/
  | shrImm (d a : BitVec 5) (i : BitVec 6) (sc : BitVec 3)
  /-- SRA_IMM: Shifts right arithmetically by an immediate (R87). -/
  | sraImm (d a : BitVec 5) (i : BitVec 6) (sc : BitVec 3)
  /-- ROT_IMM: Rotates right by an immediate (R87). -/
  | rotImm (d a : BitVec 5) (i : BitVec 6) (sc : BitVec 3)
  /-- MUL_IMM: Multiplies by a sign-extended 8-bit immediate (R87). -/
  | mulImm (d a : BitVec 5) (i : BitVec 8) (sc : BitVec 3)
  /-- MIN_IMM: Signed minimum with an immediate (R87). -/
  | minImm (d a : BitVec 5) (i : BitVec 8) (sc : BitVec 3)
  /-- MAX_IMM: Signed maximum with an immediate (R87). -/
  | maxImm (d a : BitVec 5) (i : BitVec 8) (sc : BitVec 3)
  /-- MIN_N_IMM: Unsigned minimum with a zero-extended immediate (R87). -/
  | minNImm (d a : BitVec 5) (i : BitVec 8) (sc : BitVec 3)
  /-- MAX_N_IMM: Unsigned maximum with a zero-extended immediate (R87). -/
  | maxNImm (d a : BitVec 5) (i : BitVec 8) (sc : BitVec 3)
  /-- TAUP_IMM: Removes an immediate number of digits from a tree address (R95). -/
  | taupImm (d a : BitVec 5) (i : BitVec 8) (sc : BitVec 3)
  /-- TADOWN_IMM: Appends an immediate digit to a tree address (R95). -/
  | tadownImm (d a : BitVec 5) (i : BitVec 2) (sc : BitVec 3)
  /-- FSH: Funnel-shifts the 128-bit join of a and b right (R92). -/
  | fsh (d a b c : BitVec 5) (sc : BitVec 3)
  /-- BFX: Extracts a zero-extended bit field, register form (R93). -/
  | bfx (d a b c : BitVec 5) (sc : BitVec 3)
  /-- BFXS: Extracts a sign-extended bit field (R93). -/
  | bfxs (d a b c : BitVec 5) (sc : BitVec 3)
  /-- BFI: Inserts a bit field into d (R93). -/
  | bfi (d a b c : BitVec 5) (sc : BitVec 3)
  /-- BFX_IMM: Extracts a bit field with immediate offset and width (R94). -/
  | bfxImm (d a : BitVec 5) (w o : BitVec 6) (sc : BitVec 3)
  /-- LUI: Writes a biased upper immediate (R91). -/
  | lui (d : BitVec 5) (i : BitVec 17) (sc : BitVec 3)
  /-- B: Branches PC-relative (R102). -/
  | bra (o : BitVec 22) (sc : BitVec 3)
  /-- CALL: Writes the return address to s1 and branches (R102). -/
  | call (o : BitVec 22) (sc : BitVec 3)
  /-- BC_EQ: Branches when a equals b (R102). -/
  | bcEq (a b : BitVec 5) (o : BitVec 9) (sc : BitVec 3)
  /-- BC_NE: Branches when a differs from b (R102). -/
  | bcNe (a b : BitVec 5) (o : BitVec 9) (sc : BitVec 3)
  /-- BC_LT: Branches when a is signed less than b (R102). -/
  | bcLt (a b : BitVec 5) (o : BitVec 9) (sc : BitVec 3)
  /-- BC_GE: Branches when a is signed at least b (R102). -/
  | bcGe (a b : BitVec 5) (o : BitVec 9) (sc : BitVec 3)
  /-- BC_LTU: Branches when a is unsigned less than b (R102). -/
  | bcLtu (a b : BitVec 5) (o : BitVec 9) (sc : BitVec 3)
  /-- BC_GEU: Branches when a is unsigned at least b (R102). -/
  | bcGeu (a b : BitVec 5) (o : BitVec 9) (sc : BitVec 3)
  /-- BC_ANY: Branches when a AND b is non-zero (R102). -/
  | bcAny (a b : BitVec 5) (o : BitVec 9) (sc : BitVec 3)
  /-- BC_NONE: Branches when a AND b is zero (R102). -/
  | bcNone (a b : BitVec 5) (o : BitVec 9) (sc : BitVec 3)
  /-- LOOP: Opens a counted hardware loop at a nesting level, skipping the body for zero trips (R106). -/
  | loop (a : BitVec 5) (l : BitVec 2) (e : BitVec 12) (sc : BitVec 3)
  /-- RET: Branches through a register, or ends the routine for target 0 (R103). -/
  | ret (a : BitVec 5) (sc : BitVec 3)
  /-- CALLR: Writes the return address to d and branches through a register (R103). -/
  | callr (d a : BitVec 5) (sc : BitVec 3)
  /-- JT: Branches through a length-checked table of 32-bit targets (R104). -/
  | jt (a b : BitVec 5) (sc : BitVec 3)
  /-- ISYNC: Waits for earlier stores and discards the instruction buffer (R109). -/
  | isync (sc : BitVec 3)
  /-- HALT: Ends the routine after pending writes and engine operations finish (R110). -/
  | halt (sc : BitVec 3)
  /-- RFT: Returns from a trap handler to TRAPPC and clears TD (R110). -/
  | rft (sc : BitVec 3)
  /-- ALIGN: Stalls to merge fetch with the cluster's other contexts (R40). -/
  | align (k : BitVec 8) (sc : BitVec 3)
  /-- PRIO: Sets PRIO to the smaller of the immediate and the level (R111). -/
  | prio (c : BitVec 2) (sc : BitVec 3)
  /-- TRAP: Raises BREAK precisely with TRAPVAL k (R111). -/
  | trap (k : BitVec 8) (sc : BitVec 3)
  /-- MFC: Reads a control register (R69). -/
  | mfc (d : BitVec 5) (n : BitVec 12) (sc : BitVec 3)
  /-- MTC: Writes a control register (R69). -/
  | mtc (a : BitVec 5) (n : BitVec 12) (sc : BitVec 3)
  /-- MXC: Exchanges a control register with a scalar register (R69). -/
  | mxc (d a : BitVec 5) (n : BitVec 12) (sc : BitVec 3)
  /-- MOV: 16-bit register copy (R60). -/
  | mov (d a : BitVec 5)
  /-- ADD_16: 16-bit d := d + a (R60). -/
  | add16 (d a : BitVec 5)
  /-- SUB_16: 16-bit d := d - a (R60). -/
  | sub16 (d a : BitVec 5)
  /-- AND_16: 16-bit d := d AND a (R60). -/
  | and16 (d a : BitVec 5)
  /-- OR_16: 16-bit d := d OR a (R60). -/
  | or16 (d a : BitVec 5)
  /-- XOR_16: 16-bit d := d XOR a (R60). -/
  | xor16 (d a : BitVec 5)
  /-- LI: 16-bit load of a signed 5-bit immediate (R60). -/
  | li (d i : BitVec 5)
  /-- ADD_IMM5: 16-bit add of a signed 5-bit immediate (R60). -/
  | addImm5 (d i : BitVec 5)
  /-- SHL_16: 16-bit shift left by imm5 (R60). -/
  | shl16 (d i : BitVec 5)
  /-- SHR_16: 16-bit logical shift right by imm5 (R60). -/
  | shr16 (d i : BitVec 5)
  /-- SRA_16: 16-bit arithmetic shift right by imm5 (R60). -/
  | sra16 (d i : BitVec 5)
  /-- RET_16: 16-bit return through register a (R60). -/
  | ret16 (a : BitVec 5)
  /-- NOP: 16-bit instruction with no effect (R60). -/
  | nop
  /-- HALT_16: 16-bit halt (R60). -/
  | halt16
  /-- BBINIT: Starts a bit stream between two cluster addresses (R99). -/
  | bbinit (a b : BitVec 5) (sc : BitVec 3)
  /-- BBPEEK: Reads up to 64 bits of the bit buffer without consuming them (R99). -/
  | bbpeek (d a : BitVec 5) (sc : BitVec 3)
  /-- BBTAKE: Reads and consumes up to 64 bits of the bit buffer (R99). -/
  | bbtake (d a : BitVec 5) (sc : BitVec 3)
  /-- BBSKIP: Skips a count of bits of the stream (R99). -/
  | bbskip (a : BitVec 5) (sc : BitVec 3)
  /-- BBFILL: Refills the bit buffer from cluster memory (R98). -/
  | bbfill (sc : BitVec 3)
  /-- LD: Zero-extending load from cluster memory (R179). -/
  | ld (d a : BitVec 5) (z : BitVec 2) (o : BitVec 10) (sc : BitVec 3)
  /-- LD_SX: Sign-extending load from cluster memory (R179). -/
  | ldSx (d a : BitVec 5) (z : BitVec 2) (o : BitVec 10) (sc : BitVec 3)
  /-- ST: Store to cluster memory (R179). -/
  | st (d a : BitVec 5) (z : BitVec 2) (o : BitVec 10) (sc : BitVec 3)
  /-- LD_ACQ: Acquiring load at a scope (R180). -/
  | ldAcq (d a : BitVec 5) (c : BitVec 3) (z : BitVec 2) (o : BitVec 6) (sc : BitVec 3)
  /-- ST_REL: Releasing store at a scope (R180). -/
  | stRel (d a : BitVec 5) (c : BitVec 3) (z : BitVec 2) (o : BitVec 6) (sc : BitVec 3)
  /-- VLD: Loads VL bytes into a vector register tagged RAW (R181). -/
  | vld (d a : BitVec 5) (o : BitVec 10) (sc : BitVec 3)
  /-- VST: Stores VL bytes of a vector register (R181). -/
  | vst (d a : BitVec 5) (o : BitVec 10) (sc : BitVec 3)
  /-- VLDT_RAW: Reads a headed map's stored codes and page header (R186). -/
  | vldtRaw (d a b : BitVec 5) (k : BitVec 4) (sc : BitVec 3)
  /-- LDT_MAP: Loads one tree element through a tensor map (R183). -/
  | ldtMap (d a b : BitVec 5) (k : BitVec 4) (sc : BitVec 3)
  /-- LDT_TA: Loads one tree element by raw tree address (R183). -/
  | ldtTa (d a : BitVec 5) (sc : BitVec 3)
  /-- STT_MAP: Stores one tree element through a tensor map (R183). -/
  | sttMap (d a b : BitVec 5) (k : BitVec 4) (sc : BitVec 3)
  /-- STT_TA: Stores one tree element by raw tree address (R183). -/
  | sttTa (d a : BitVec 5) (sc : BitVec 3)
  /-- VLDT_MAP: Loads a strip of elements through a tensor map (R184). -/
  | vldtMap (d a b : BitVec 5) (k : BitVec 4) (sc : BitVec 3)
  /-- VLDT_TA: Loads VL bytes of a block by raw tree address (R184). -/
  | vldtTa (d a : BitVec 5) (sc : BitVec 3)
  /-- VSTT_MAP: Stores a strip through a tensor map, headed maps by write requests (R184). -/
  | vsttMap (d a b : BitVec 5) (k : BitVec 4) (sc : BitVec 3)
  /-- VSTT_TA: Stores VL bytes into a block by raw tree address (R184). -/
  | vsttTa (d a : BitVec 5) (sc : BitVec 3)
  /-- BCOPY: Registers ranges and starts a copy-engine block copy (R191). -/
  | bcopy (d a b : BitVec 5) (sc : BitVec 3)
  /-- BFILL: Starts an engine fill of a block with a pattern (R191). -/
  | bfill (d a b : BitVec 5) (sc : BitVec 3)
  /-- BZERO: Starts an engine zeroing of a block (R191). -/
  | bzero (d a b : BitVec 5) (sc : BitVec 3)
  /-- PFT_LIFT: Starts lifting the capacity-tier pages of a block into HBM (R197). -/
  | pftLift (d a b : BitVec 5) (sc : BitVec 3)
  /-- PFT_DROP: Starts dropping lifted pages of a block back to the capacity tier (R197). -/
  | pftDrop (d a b : BitVec 5) (sc : BitVec 3)
  /-- FSHIP: Ships a read-modify-write to the base-die processor of the target (R202). -/
  | fship (d a b : BitVec 5) (sc : BitVec 3)
  /-- VGATH: Gathers elements through a map by index lanes (R187). -/
  | vgath (p : BitVec 3) (d a : BitVec 5) (b : BitVec 4) (sc : BitVec 3)
  /-- VSCAT: Scatters elements through a map by index lanes (R187). -/
  | vscat (p : BitVec 3) (d a : BitVec 5) (b : BitVec 4) (sc : BitVec 3)
  /-- GUARD: Sets the guard bits of a run of granules (R198). -/
  | guard (a b : BitVec 5) (sc : BitVec 3)
  /-- UNGUARD: Clears the guard bits of a run of granules (R198). -/
  | unguard (a b : BitVec 5) (sc : BitVec 3)
  /-- TMLD: Loads and validates a tensor-map image (R188). -/
  | tmld (d : BitVec 4) (a : BitVec 5) (sc : BitVec 3)
  /-- TMST: Stores a tensor map's image (R188). -/
  | tmst (d : BitVec 4) (a : BitVec 5) (sc : BitVec 3)
  /-- SEND: Injects an active message, optionally with release (R118). -/
  | send (r : BitVec 1) (a b : BitVec 5) (c : BitVec 8) (n sc : BitVec 3)
  /-- DEPOSIT: Reads a descriptor and injects a deposit with data flits (R121). -/
  | deposit (a b : BitVec 5) (sc : BitVec 3)
  /-- DSET: Binds or invalidates a class's dispatch entry, releasing parked messages (R125). -/
  | dset (r : BitVec 1) (a b : BitVec 5) (l : BitVec 2) (sc : BitVec 3)
  /-- DGET: Reads a dispatch entry (R126). -/
  | dget (d a : BitVec 5) (sc : BitVec 3)
  /-- MBXCFG: Sets the mailbox size (R127). -/
  | mbxcfg (a : BitVec 5) (sc : BitVec 3)
  /-- AMO_ADD: Atomic add at the owning core (R123). -/
  | amoAdd (d a b : BitVec 5) (z : BitVec 1) (sc : BitVec 3)
  /-- AMO_MIN: Atomic signed minimum (R123). -/
  | amoMin (d a b : BitVec 5) (z : BitVec 1) (sc : BitVec 3)
  /-- AMO_MAX: Atomic signed maximum (R123). -/
  | amoMax (d a b : BitVec 5) (z : BitVec 1) (sc : BitVec 3)
  /-- AMO_AND: Atomic AND (R123). -/
  | amoAnd (d a b : BitVec 5) (z : BitVec 1) (sc : BitVec 3)
  /-- AMO_OR: Atomic OR (R123). -/
  | amoOr (d a b : BitVec 5) (z : BitVec 1) (sc : BitVec 3)
  /-- AMO_XOR: Atomic XOR (R123). -/
  | amoXor (d a b : BitVec 5) (z : BitVec 1) (sc : BitVec 3)
  /-- AMO_SWAP: Atomic swap (R123). -/
  | amoSwap (d a b : BitVec 5) (z : BitVec 1) (sc : BitVec 3)
  /-- AMO_CAS: Atomic compare and swap (R123). -/
  | amoCas (d a b : BitVec 5) (z : BitVec 1) (sc : BitVec 3)
  /-- AMO_MIN_N: Atomic unsigned minimum (R123). -/
  | amoMinN (d a b : BitVec 5) (z : BitVec 1) (sc : BitVec 3)
  /-- AMO_MAX_N: Atomic unsigned maximum (R123). -/
  | amoMaxN (d a b : BitVec 5) (z : BitVec 1) (sc : BitVec 3)
  /-- SALLOC: Allocates the lowest free sync slot or returns FULL (R130). -/
  | salloc (d : BitVec 5) (sc : BitVec 3)
  /-- SFREE: Returns a sync slot to the free set (R130). -/
  | sfree (a : BitVec 5) (sc : BitVec 3)
  /-- BAR: Arrives at a barrier and waits for its generation (R131). -/
  | bar (d a b : BitVec 5) (sc : BitVec 3)
  /-- BARRIVE: Arrives at a barrier without waiting (R132). -/
  | barrive (a b : BitVec 5) (sc : BitVec 3)
  /-- BCANCEL: Cancels a barrier generation, releasing waiters as CANCELLED (R133). -/
  | bcancel (a : BitVec 5) (sc : BitVec 3)
  /-- LOCK: Takes a lock or queues for it (R134). -/
  | lock (a : BitVec 5) (sc : BitVec 3)
  /-- UNLOCK: Passes a held lock to the head of its queue or frees it (R134). -/
  | unlock (a : BitVec 5) (sc : BitVec 3)
  /-- WAITV: Waits until a word differs from a value (R135). -/
  | waitv (a b : BitVec 5) (sc : BitVec 3)
  /-- PHOPEN: Opens a phase on this core (R137). -/
  | phopen (a : BitVec 5) (sc : BitVec 3)
  /-- PHSET: Sets the context's PHASE (R137). -/
  | phset (a : BitVec 5) (sc : BitVec 3)
  /-- PHEND: Ends a phase on this core, arming it when all cores have ended (R137). -/
  | phend (a : BitVec 5) (sc : BitVec 3)
  /-- PHWAIT: Waits until the phase is closed on this core (R137). -/
  | phwait (a : BitVec 5) (sc : BitVec 3)
  /-- STV: Creates a version of a word with a release (R141). -/
  | stv (d a b : BitVec 5) (sc : BitVec 3)
  /-- LDV: Reads a version of a word, waiting until it is created (R141). -/
  | ldv (d a b : BitVec 5) (sc : BitVec 3)
  /-- RECL: Retires the versions of a word up to a number (R141). -/
  | recl (a b : BitVec 5) (sc : BitVec 3)
  /-- FENCE_LD: Waits for earlier loads to bind (R144). -/
  | fenceLd (c sc : BitVec 3)
  /-- FENCE_ST: Waits for earlier stores to be visible at a scope (R144). -/
  | fenceSt (c sc : BitVec 3)
  /-- FENCE_ALL: Waits for loads, stores and message acceptance or refusal (R144). -/
  | fenceAll (c sc : BitVec 3)
  /-- VADD: Element-wise add with the major's rounding (R270). -/
  | vadd (p : BitVec 3) (d a b : BitVec 5) (m : BitVec 2) (sc : BitVec 3)
  /-- VSUB: Element-wise subtract (R270). -/
  | vsub (p : BitVec 3) (d a b : BitVec 5) (m : BitVec 2) (sc : BitVec 3)
  /-- VMUL: Element-wise multiply (R270). -/
  | vmul (p : BitVec 3) (d a b : BitVec 5) (m : BitVec 2) (sc : BitVec 3)
  /-- VFMA: Element-wise fused multiply-add into d (R270). -/
  | vfma (p : BitVec 3) (d a b : BitVec 5) (m : BitVec 2) (sc : BitVec 3)
  /-- VFMS: Element-wise fused d minus product (R270). -/
  | vfms (p : BitVec 3) (d a b : BitVec 5) (m : BitVec 2) (sc : BitVec 3)
  /-- VDIV: Element-wise divide (R270). -/
  | vdiv (p : BitVec 3) (d a b : BitVec 5) (m : BitVec 2) (sc : BitVec 3)
  /-- VSQRT: Element-wise square root (R270). -/
  | vsqrt (p : BitVec 3) (d a : BitVec 5) (m : BitVec 2) (sc : BitVec 3)
  /-- VADD_SAT: Saturating element-wise add (R270). -/
  | vaddSat (p : BitVec 3) (d a b : BitVec 5) (m : BitVec 2) (sc : BitVec 3)
  /-- VSUB_SAT: Saturating element-wise subtract (R270). -/
  | vsubSat (p : BitVec 3) (d a b : BitVec 5) (m : BitVec 2) (sc : BitVec 3)
  /-- VMUL_SAT: Saturating element-wise multiply (R270). -/
  | vmulSat (p : BitVec 3) (d a b : BitVec 5) (m : BitVec 2) (sc : BitVec 3)
  /-- VFMA_SAT: Saturating fused multiply-add (R270). -/
  | vfmaSat (p : BitVec 3) (d a b : BitVec 5) (m : BitVec 2) (sc : BitVec 3)
  /-- VADD_N_SAT: Unsigned saturating integer add (R270). -/
  | vaddNSat (p : BitVec 3) (d a b : BitVec 5) (m : BitVec 2) (sc : BitVec 3)
  /-- VSUB_N_SAT: Unsigned saturating integer subtract (R270). -/
  | vsubNSat (p : BitVec 3) (d a b : BitVec 5) (m : BitVec 2) (sc : BitVec 3)
  /-- VMIN: Element-wise minimum (R271). -/
  | vmin (p : BitVec 3) (d a b : BitVec 5) (sc : BitVec 3)
  /-- VMAX: Element-wise maximum (R271). -/
  | vmax (p : BitVec 3) (d a b : BitVec 5) (sc : BitVec 3)
  /-- VMIN_N: Element-wise unsigned minimum (R271). -/
  | vminN (p : BitVec 3) (d a b : BitVec 5) (sc : BitVec 3)
  /-- VMAX_N: Element-wise unsigned maximum (R271). -/
  | vmaxN (p : BitVec 3) (d a b : BitVec 5) (sc : BitVec 3)
  /-- VABS: Element-wise absolute value (R271). -/
  | vabs (p : BitVec 3) (d a : BitVec 5) (sc : BitVec 3)
  /-- VNEG: Element-wise negation (R271). -/
  | vneg (p : BitVec 3) (d a : BitVec 5) (sc : BitVec 3)
  /-- VAND: Element-wise AND (R271). -/
  | vand (p : BitVec 3) (d a b : BitVec 5) (sc : BitVec 3)
  /-- VOR: Element-wise OR (R271). -/
  | vor (p : BitVec 3) (d a b : BitVec 5) (sc : BitVec 3)
  /-- VXOR: Element-wise XOR (R271). -/
  | vxor (p : BitVec 3) (d a b : BitVec 5) (sc : BitVec 3)
  /-- VSHL: Element-wise shift left (R271). -/
  | vshl (p : BitVec 3) (d a b : BitVec 5) (sc : BitVec 3)
  /-- VSHR: Element-wise logical shift right (R271). -/
  | vshr (p : BitVec 3) (d a b : BitVec 5) (sc : BitVec 3)
  /-- VSRA: Element-wise arithmetic shift right (R271). -/
  | vsra (p : BitVec 3) (d a b : BitVec 5) (sc : BitVec 3)
  /-- VMOV: Copies active elements with the source tag (R271). -/
  | vmov (p : BitVec 3) (d a : BitVec 5) (sc : BitVec 3)
  /-- VTAG: Copies a RAW register and gives it a tag (R272). -/
  | vtag (d a t : BitVec 5) (sc : BitVec 3)
  /-- VBCAST: Broadcasts a scalar to active elements with a tag (R272). -/
  | vbcast (p : BitVec 3) (d a t : BitVec 5) (sc : BitVec 3)
  /-- VCMP_EQ: Compares elements for equality into a predicate (R273). -/
  | vcmpEq (p : BitVec 3) (d a b : BitVec 5) (sc : BitVec 3)
  /-- VCMP_NE: Compares elements for inequality (R273). -/
  | vcmpNe (p : BitVec 3) (d a b : BitVec 5) (sc : BitVec 3)
  /-- VCMP_LT: Compares elements for less than (R273). -/
  | vcmpLt (p : BitVec 3) (d a b : BitVec 5) (sc : BitVec 3)
  /-- VCMP_GE: Compares elements for greater or equal (R273). -/
  | vcmpGe (p : BitVec 3) (d a b : BitVec 5) (sc : BitVec 3)
  /-- VCMP_LE: Compares elements for less or equal (R273). -/
  | vcmpLe (p : BitVec 3) (d a b : BitVec 5) (sc : BitVec 3)
  /-- VCMP_GT: Compares elements for greater than (R273). -/
  | vcmpGt (p : BitVec 3) (d a b : BitVec 5) (sc : BitVec 3)
  /-- VCMP_UN: Tests elements for unordered (R273). -/
  | vcmpUn (p : BitVec 3) (d a b : BitVec 5) (sc : BitVec 3)
  /-- VCMP_ORD: Tests elements for ordered (R273). -/
  | vcmpOrd (p : BitVec 3) (d a b : BitVec 5) (sc : BitVec 3)
  /-- VCMP_LT_N: Unsigned less-than comparison (R273). -/
  | vcmpLtN (p : BitVec 3) (d a b : BitVec 5) (sc : BitVec 3)
  /-- VCMP_GE_N: Unsigned greater-or-equal comparison (R273). -/
  | vcmpGeN (p : BitVec 3) (d a b : BitVec 5) (sc : BitVec 3)
  /-- VCMP_LE_N: Unsigned less-or-equal comparison (R273). -/
  | vcmpLeN (p : BitVec 3) (d a b : BitVec 5) (sc : BitVec 3)
  /-- VCMP_GT_N: Unsigned greater-than comparison (R273). -/
  | vcmpGtN (p : BitVec 3) (d a b : BitVec 5) (sc : BitVec 3)
  /-- VCVT: Converts elements to a target tag under a rounding mode (R274). -/
  | vcvt (p : BitVec 3) (d a : BitVec 5) (m : BitVec 3) (t : BitVec 5) (sc : BitVec 3)
  /-- VRED_SUM: Sums present lanes by the fixed tree into a scalar (R276). -/
  | vredSum (p : BitVec 3) (d a : BitVec 5) (sc : BitVec 3)
  /-- VRED_MIN: Minimum of present lanes (R276). -/
  | vredMin (p : BitVec 3) (d a : BitVec 5) (sc : BitVec 3)
  /-- VRED_MAX: Maximum of present lanes (R276). -/
  | vredMax (p : BitVec 3) (d a : BitVec 5) (sc : BitVec 3)
  /-- VRED_AND: AND of present lanes (R276). -/
  | vredAnd (p : BitVec 3) (d a : BitVec 5) (sc : BitVec 3)
  /-- VRED_OR: OR of present lanes (R276). -/
  | vredOr (p : BitVec 3) (d a : BitVec 5) (sc : BitVec 3)
  /-- VRED_MIN_N: Unsigned minimum of present lanes (R276). -/
  | vredMinN (p : BitVec 3) (d a : BitVec 5) (sc : BitVec 3)
  /-- VRED_MAX_N: Unsigned maximum of present lanes (R276). -/
  | vredMaxN (p : BitVec 3) (d a : BitVec 5) (sc : BitVec 3)
  /-- VPERM: Permutes elements by an index register (R277). -/
  | vperm (p : BitVec 3) (d a b : BitVec 5) (sc : BitVec 3)
  /-- VSLIDE: Slides elements by a signed scalar count (R277). -/
  | vslide (p : BitVec 3) (d a b : BitVec 5) (sc : BitVec 3)
  /-- VCOMPRESS: Packs active elements to the low end (R277). -/
  | vcompress (p : BitVec 3) (d a : BitVec 5) (sc : BitVec 3)
  /-- VGL: Grants a vector length of min(request, 256) (R277). -/
  | vgl (p : BitVec 3) (d a : BitVec 5) (sc : BitVec 3)
  /-- VSEL: Selects elements of a or b by predicate (R277). -/
  | vsel (d a b : BitVec 5) (k sc : BitVec 3)
  /-- VCX: One bitonic compare-exchange stage on key and payload lanes (R279). -/
  | vcx (d j k : BitVec 5) (sc : BitVec 3)
  /-- VDIST_DOT: Accumulates segment dot products into lanes (R281). -/
  | vdistDot (d a b : BitVec 5) (q sc : BitVec 3)
  /-- VDIST_L2: Accumulates segment squared distances into lanes (R281). -/
  | vdistL2 (d a b : BitVec 5) (q sc : BitVec 3)
  /-- VCHOL8: Cholesky-factors an 8 x 8 FP32 matrix with pivot flags (R283). -/
  | vchol8 (d a : BitVec 5) (k sc : BitVec 3)
  /-- VTRS8: Forward substitution on 8 x 8 FP32 matrices (R284). -/
  | vtrs8 (d a b : BitVec 5) (sc : BitVec 3)
  /-- PAND: Predicate AND (R278). -/
  | pand (d a b : BitVec 5) (sc : BitVec 3)
  /-- POR: Predicate OR (R278). -/
  | por (d a b : BitVec 5) (sc : BitVec 3)
  /-- PXOR: Predicate XOR (R278). -/
  | pxor (d a b : BitVec 5) (sc : BitVec 3)
  /-- PNOT: Predicate NOT (R278). -/
  | pnot (d a : BitVec 5) (sc : BitVec 3)
  /-- PCNT: Counts set predicate bits below VL (R278). -/
  | pcnt (d a : BitVec 5) (sc : BitVec 3)
  /-- PFIRST: Finds the lowest set predicate bit below VL (R278). -/
  | pfirst (d a : BitVec 5) (sc : BitVec 3)
  /-- XREQ: Offers a request to the cluster's XU or answers BUSY (R287). -/
  | xreq (d a b : BitVec 5) (sc : BitVec 3)
  /-- XGET: Takes the context's oldest XU place and its results (R288). -/
  | xget (d : BitVec 5) (sc : BitVec 3)
  /-- KINIT: Binds and resets a top-k instance (R290). -/
  | kinit (d a b : BitVec 5) (sc : BitVec 3)
  /-- KADD: Offers active key/payload lanes to the bound top-k instance (R291). -/
  | kadd (p : BitVec 3) (d a b : BitVec 5) (sc : BitVec 3)
  /-- KDRAIN: Registers a range and drains the top-k list to memory (R292). -/
  | kdrain (d a b : BitVec 5) (sc : BitVec 3)
  /-- MLEASE: Requests the quad's array lease (R313). -/
  | mlease (sc : BitVec 3)
  /-- MFREE: Marks the lease to be released when the command queue empties (R314). -/
  | mfree (sc : BitVec 3)
  /-- MSTAT: Returns the array status word (R320). -/
  | mstat (d : BitVec 5) (sc : BitVec 3)
  /-- MCHECK: Waits for, resumes or discards the command queue (R321). -/
  | mcheck (d a : BitVec 5) (sc : BitVec 3)
  /-- MLOAD: Queues a weight-tile load into the shadow plane (R315). -/
  | mload (d : BitVec 5) (a : BitVec 4) (sc : BitVec 3)
  /-- MSCALE: Queues a scale-set push into the scale queue (R316). -/
  | mscale (d : BitVec 5) (a : BitVec 4) (sc : BitVec 3)
  /-- MSWAP: Queues an exchange of live and shadow planes (R317). -/
  | mswap (sc : BitVec 3)
  /-- MMUL: Queues a product macro-operation into an accumulator plane (R318). -/
  | mmul (p : BitVec 2) (d : BitVec 5) (a : BitVec 4) (sc : BitVec 3)
  /-- MDRAIN: Queues conversion and store of an accumulator plane (R319). -/
  | mdrain (p : BitVec 1) (d : BitVec 5) (a : BitVec 4) (sc : BitVec 3)
  /-- NALLOC: Takes a node from the free list and marks it HELD (R357). -/
  | nalloc (d : BitVec 5) (sc : BitVec 3)
  /-- NFREE: Turns a node into a forwarder with targets (R358). -/
  | nfree (a b : BitVec 5) (sc : BitVec 3)
  /-- NLD: Reads a word of a node (R359). -/
  | nld (d a : BitVec 5) (w : BitVec 2) (sc : BitVec 3)
  /-- NST: Writes a word of a node (R359). -/
  | nst (d a : BitVec 5) (w : BitVec 2) (sc : BitVec 3)
  /-- LINK: Joins two ports through forwarders, pushing an active pair when both are principal (R360). -/
  | link (a b : BitVec 5) (sc : BitVec 3)
  /-- NRUN: Retires the last pair, pops the next entry and enters its rule (R364). -/
  | nrun (sc : BitVec 3)
  /-- NPUSH: Pushes an entry into the issuing core's churn (R366). -/
  | npush (a b : BitVec 5) (sc : BitVec 3)
  /-- NMOVE: Migrates an entry to a named core (R368). -/
  | nmove (d a : BitVec 5) (sc : BitVec 3)
  /-- NBAL: Makes one balancing exchange now (R369). -/
  | nbal (d : BitVec 5) (sc : BitVec 3)
  /-- SNAP: Issues a snapshot trigger or counts it as missed (R241). -/
  | snap (d a : BitVec 5) (sc : BitVec 3)
  /-- ERET: Returns from a trap handler to a chosen address or ends the routine (R229). -/
  | eret (a : BitVec 5) (sc : BitVec 3)
  /-- CFGRD: Reads a configuration register or makes a system call with argument 0 (R389). -/
  | cfgrd (d a : BitVec 5) (sc : BitVec 3)
  /-- CFGWR: Makes a system call with an argument (R389). -/
  | cfgwr (d a b : BitVec 5) (sc : BitVec 3)
  /-- SLEEP: Consumes the wake token or waits for it or a deadline (R400). -/
  | sleep (d a : BitVec 5) (sc : BitVec 3)
  /-- WAKE: Sets a context's wake token with release (R400). -/
  | wake (a : BitVec 5) (sc : BitVec 3)
  /-- SOPEN: Arms a stream port towards a core (R380). -/
  | sopen (a : BitVec 5) (b : BitVec 2) (sc : BitVec 3)
  /-- SCLOSE: Closes a stream port, queuing a close marker (R380). -/
  | sclose (b : BitVec 2) (sc : BitVec 3)
  /-- ALIGN_TIMEOUT: An align stall ends after k x 8 cycles (R40). -/
  | alignTimeout (core level : Nat)
  /-- WAITV_WAKE: A write to a watched word wakes the waiting context to compare again (R135). -/
  | waitvWake (core level : Nat)
  /-- XU_COMPUTE: The XU computes one accepted request into its place (R288). -/
  | xuCompute (cluster : Nat)
  /-- KU_TAKE_PAIR: The instance takes a buffered pair into its list or rejects it (R291). -/
  | kuTakePair (cluster inst : Nat)
  /-- KDRAIN_WRITE: Once the input buffer is empty, the list is written and the range released (R292). -/
  | kdrainWrite (core level : Nat)
  /-- SLEEP_DEADLINE: CYCLE reaches a sleeping context's deadline and it resumes with status 1 (R400). -/
  | sleepDeadline (core level : Nat)
  /-- CLOSE_MARKER_ARRIVAL: A close marker releases channels and is consumed at the destination (R380). -/
  | closeMarkerArrival (core dir : Nat)
  /-- RAW_WORD_ARRIVAL: A raw link word lands in an inbound queue (R66). -/
  | rawWordArrival (core dir : Nat)
  /-- INSTRUCTION_FETCH: The cluster fetch port serves a 64-byte read to requesting cores (R39). -/
  | instructionFetch (cluster base : Nat)
  /-- RESULT_LANDS: A variable-latency result is written to its register (R63). -/
  | resultLands (core level idx : Nat)
  /-- MESSAGE_ARRIVAL: A message head flit reaches its receiver, which accepts it into the mailbox or refuses it (R22). -/
  | messageArrival (idx : Nat)
  /-- ACCEPTANCE: An acceptance flit reaches the sender and lowers its outstanding count (R29). -/
  | acceptance (idx : Nat)
  /-- REFUSAL: A refused message returns to the sender's refusal queue (R30). -/
  | refusal (idx : Nat)
  /-- DEPOSIT_DATA_WRITE: The receiver writes an accepted deposit's data, stamps a version, and makes it pending (R122). -/
  | depositDataWrite (core idx : Nat)
  /-- DISPATCH: A pending message, refusal, notice or close starts a handler at its level (R23). -/
  | dispatch (core : Nat)
  /-- RETIREMENT: A completion acknowledgement decrements the phase counter at the sending router (R136). -/
  | retirement (idx : Nat)
  /-- PHASE_CLOSE: An armed phase closes when every router reads 0 (R138). -/
  | phaseClose (gang phase : Nat)
  /-- PHASE_CLOSE_DELIVERY: Class 0xFC reaches a core, sets CLOSED and releases phwait (R28). -/
  | phaseCloseDelivery (idx : Nat)
  /-- FAULT_NOTICE: A fault notice reaches a core's notice queue (R235). -/
  | faultNotice (idx : Nat)
  /-- AMO_REQUEST: The owner's system sequencer executes an amo atomically (R123). -/
  | amoRequest (core : Nat)
  /-- AMO_RESULT: An amo result is written to the issuer's destination register (R28). -/
  | amoResult (idx : Nat)
  /-- NODE_STEP: A node read, write or exchange is executed at the owner (R349). -/
  | nodeStep (core level : Nat)
  /-- CHURN_PUSH: An entry enters the churn of P's owner, waiting if full (R362). -/
  | churnPush (core level : Nat)
  /-- AUTO_BALANCE: An INTERVAL expiry makes an automatic balancing exchange (R369). -/
  | autoBalance (core : Nat)
  /-- TRAP_ENTRY: A context takes a precise or pending imprecise trap at TVEC (R227). -/
  | trapEntry (core level : Nat)
  /-- STEWARD_RECORD: The steward saves a stopped core's state and self-tests it (R233). -/
  | stewardRecord (r : StewardFinding)
  /-- CORE_RESUME: The steward writes back the recorded state and resumes the core (R233). -/
  | coreResume (core : Nat)
  /-- CORE_RESTART: The steward restarts the core with every context IDLE (R233). -/
  | coreRestart (core : Nat)
  /-- SPARE_COLUMN_REMAP: A spare column replaces a logical column while gangs are parked (R234). -/
  | spareColumnRemap (col : Nat)
  /-- MARK_BANK_FAILED: A steward marks a local-memory bank failed (R174). -/
  | markBankFailed (core bank : Nat)
  /-- GANG_ALLOCATION: The gang allocator takes the oldest eligible record that fits (R44). -/
  | gangAllocation
  /-- BAND_PROMOTION: A record waiting 8 slice periods rises one band (R44). -/
  | bandPromotion (asid queue idx : Nat)
  /-- GANG_START: A cluster streams the object, writes dispatch tables and loads level-0 banks (R47). -/
  | gangStart (gang cluster : Nat)
  /-- SEGMENT_ARRIVAL: A code segment arrives and wakes contexts waiting on it (R396). -/
  | segmentArrival (cluster : Nat)
  /-- LAUNCH_CONTEXT_START: Every level-0 context of the gang becomes READY (R47). -/
  | launchContextStart (gang : Nat)
  /-- GANG_COMPLETION: A gang completes, discarding parked messages (R48). -/
  | gangCompletion (gang : Nat)
  /-- PREEMPTION_REQUEST: Vale or the schedule requests pre-emption of a gang (R49). -/
  | preemptionRequest (gang : Nat)
  /-- PREEMPT_DISTRIBUTION: The request reaches a core, which halts non-RTC contexts and dispatches nothing (R236). -/
  | preemptDistribution (core : Nat)
  /-- RTC_LATE_HALT: An RTC routine still running 0.40 us after distribution halts (R236). -/
  | rtcLateHalt (core : Nat)
  /-- IMAGE_WRITE: After all traffic resolves, the gang image is written and Vale told (R237). -/
  | imageWrite (gang : Nat)
  /-- GANG_RESTORE: Vale restores a gang onto a free rectangle and resumes it (R239). -/
  | gangRestore (gang cx cy : Nat)
  /-- TIME_SLICE_SWITCH: At a scheduled 1588 instant, pre-emption requests of a switch are issued (R386). -/
  | timeSliceSwitch (instant : Nat) (gangs : List Nat)
  /-- PTP_MESSAGE: A 1588 timing message is timestamped at a scale-out port (R386). -/
  | ptpMessage (port : Nat) (m : PtpMsg)
  /-- ENGINE_UNIT: An engine operation translates and processes one sub-block unit (R192). -/
  | engineUnit (u : UnitStep)
  /-- PFT_NOTICE_INJECTION: A pft completion notice is injected once its frame quota allows (R197). -/
  | pftNoticeInjection (idx : Nat)
  /-- TRANSLATION_WALK: A walker completes a translation miss (R167). -/
  | translationWalk (slice : Nat)
  /-- LEASE_GRANT: The array lease is granted to the head of the queue (R298). -/
  | leaseGrant (quad : Nat)
  /-- LEASE_LIMIT: COMMANDS or CYCLES reaches a limit, restarting or expiring the lease (R299). -/
  | leaseLimit (quad : Nat)
  /-- LEASE_HANDOVER: An expiring lease passes at a boundary with no command left (R299). -/
  | leaseHandover (quad : Nat)
  /-- SUSPENSION_TIMEOUT: A suspended queue of an expiring lease is discarded after 65,536 cycles (R299). -/
  | suspensionTimeout (quad : Nat)
  /-- LEASE_RELEASE: A freeing or ended lease is released when the queue is empty (R314). -/
  | leaseRelease (quad : Nat)
  /-- MATRIX_STEP: The sequencer runs one step of a queued command (R306). -/
  | matrixStep (quad : Nat) (lane : Nat) (first : List (Nat × BitVec 32)) (second : List (Nat × BitVec 32))
  /-- MSWAP_EFFECT: A queued mswap exchanges the planes at a boundary (R317). -/
  | mswapEffect (quad : Nat)
  /-- KV_WRITE_REQUEST: A home slice applies a write request to a headed page (R326). -/
  | kvWriteRequest (slice idx : Nat)
  /-- RELAYOUT_SLOT_GRANT: A waiting re-layout receives a returned FP8 slot (R333). -/
  | relayoutSlotGrant (slice : Nat)
  /-- RELAYOUT_DEQUANTISE: The page is dequantised into the new FP8 slot (R332). -/
  | relayoutDequantise (slice idx : Nat)
  /-- RELAYOUT_APPLY: The triggering write is applied to the new slot (R332). -/
  | relayoutApply (slice idx : Nat)
  /-- RELAYOUT_FLIP: The page flips to FP8 and queued requests are served (R332). -/
  | relayoutFlip (slice idx : Nat)
  /-- KV_READ_REQUEST: A home slice serves a read of a headed page under one generation (R327). -/
  | kvReadRequest (slice idx : Nat)
  /-- KV_TICK: Each TICK the slice ages its STABLE pages (R328). -/
  | kvTick (slice : Nat)
  /-- SKIMMER_BEGIN: The skimmer takes slots and marks a candidate CONVERTING (R330). -/
  | skimmerBegin (slice : Nat)
  /-- SKIMMER_QUANTISE: The skimmer requantises the page into the new slots (R330). -/
  | skimmerQuantise (slice : Nat)
  /-- SKIMMER_FLIP: The page flips to MX4 if no write arrived (R330). -/
  | skimmerFlip (slice : Nat)
  /-- FSHIP_PERFORM: A base-die processor performs a shipped primitive on its target (R337). -/
  | fshipPerform (bdp idx : Nat)
  /-- BANK_REFRESH: A bank of a normal channel is refreshed at its layer's rate (R339). -/
  | bankRefresh (slice channel bank : Nat)
  /-- LAYER_OVERHEAT: A layer above 105 C is reported and its channels slowed (R339). -/
  | layerOverheat (stack layer temp : Nat)
  /-- REFRESH_DUE: A privileged channel's 1.95 us interval raises the refresh debt (R340). -/
  | refreshDue (slice channel : Nat)
  /-- ALL_BANK_REFRESH: A privileged channel performs an all-bank refresh (R340). -/
  | allBankRefresh (slice channel : Nat)
  /-- REMAP_TABLE_ERROR: An uncorrectable row-remap table error stalls the channel (R341). -/
  | remapTableError (slice channel : Nat)
  /-- REMAP_RELOAD: The remap table is reloaded from the golden copy and the channel resumes (R341). -/
  | remapReload (slice channel : Nat) (goldenBad : Bool)
  /-- FRAME_START: A new frame reduces each quota count (R378). -/
  | frameStart
  /-- FLIT_FORWARD: A router output or slice queue serves its oldest flit (R379). -/
  | flitForward (router dir : Nat)
  /-- LINK_FLIT_RECEIVE: A scale-out flit arrives and is checked by CRC (R383). -/
  | linkFlitReceive (port : Nat) (flit : WireFlit) (crc : BitVec 32) (badLanes : BitVec 8)
  /-- REPLAY_REQUEST: A replay request makes the sender resend from sequence n (R384). -/
  | replayRequest (port seq : Nat)
  /-- LANE_REPAIR: A lane with 16 errors in 1 ms is removed and the port narrows (R384). -/
  | laneRepair (port lane : Nat) (replayFails : Bool)
  /-- SNAPSHOT_TRIGGER: A trigger reaches the fabric, scheduling a latch or counting MISSED (R240). -/
  | snapshotTrigger (source : Nat) (word : BitVec 64)
  /-- SNAPSHOT_LATCH: Every block latches its snapshot registers at counter c + 512 (R240). -/
  | snapshotLatch
  /-- SNAPSHOT_RELEASE: A steward releases the held snapshot (R240). -/
  | snapshotRelease
  /-- SNAPIN: A rising edge on SNAPIN is a common trigger (R387). -/
  | snapin
  /-- PERST: PERST# resets the PCIe host link (R387). -/
  | perst
  /-- PWRGOOD: PWRGOOD rises and bring-up starts with clock lock (R398). -/
  | pwrgood
  /-- BLOCK_CALIBRATION: A block finishes self-calibration and sets READY, with FAIL if it failed (R398). -/
  | blockCalibration (block : Nat) (found : Trained)
  /-- FIRMWARE_VERIFY: The boot ROM verifies firmware, extends MEAS0 and sets FWOK or FWFAIL (R399). -/
  | firmwareVerify (image : List (BitVec 8)) (version : Nat)
  /-- VALE_LOAD: Firmware verifies and starts Vale, extending MEAS1 (R398). -/
  | valeLoad (image : List (BitVec 8)) (version : Nat)
  /-- DOORBELL: A host doorbell write hands a ring command to Vale as an acquire (R388). -/
  | doorbell (ring : Nat)
  /-- COMPLETION_ENTRY: Vale writes a completion entry and raises the ring's MSI-X vector (R388). -/
  | completionEntry (c : RingCompletion)
  /-- ATTESTATION_QUOTE: The module signs a quote over the nonce and measurements (R399). -/
  | attestationQuote (nonce : BitVec 512)
  /-- ISLAND_DVFS: An island sets voltage and frequency from monitors and the 1 ms power average (R401). -/
  | islandDvfs (island : Nat) (point : DvfsPoint) (watts : Nat) (temp : Nat)
  /-- THERMTRIP: The cold plate exceeds 95 C, THERMTRIP asserts and the module stops (R401). -/
  | thermtrip (temp : Nat)
  /-- SYSTEM_CALL_RETURN: Vale answers a system call and the context resumes with the status (R390). -/
  | systemCallReturn (core level : Nat)
  /-- TIME: Vale call returning IEEE 1588 time in ns (R391). -/
  | time (c : Caller)
  /-- POST: Vale call validating and posting a launch record (R394). -/
  | post (c : Caller)
  /-- WAITJOB: Vale call waiting for a job and returning its status (R391). -/
  | waitjob (c : Caller)
  /-- XUTABLE: Vale call loading an XU table image into the caller's cluster (R391). -/
  | xutable (c : Caller)
  /-- ROUTINE: Vale call binding a routine slot in every BDP (R338). -/
  | routine (c : Caller)
  /-- MAP: Vale call making a page entry in a non-headed root (R402). -/
  | map (c : Caller)
  /-- MAP_SUB: Vale call setting presence bits of a block's sub-blocks (R164). -/
  | mapSub (c : Caller)
  /-- UNMAP_SUB: Vale call clearing presence bits of a block's sub-blocks (R164). -/
  | unmapSub (c : Caller)
  /-- REALLOC: Vale call incrementing a root's BVER (R172). -/
  | realloc (c : Caller)
  /-- KVALLOC: Vale call allocating a headed page and its entry (R402). -/
  | kvalloc (c : Caller)
  /-- KVFREE: Vale call freeing a headed page (R325). -/
  | kvfree (c : Caller)
  /-- KVSLOTS: Vale call adding slots to an edge slice's pools (R402). -/
  | kvslots (c : Caller)
  /-- POOLADD: Vale call adding slots to the residency pool (R402). -/
  | pooladd (c : Caller)
  /-- UNASSIGNED_CALL: A system call with an unassigned number returns UNKNOWN (R390). -/
  | unassignedCall (c : Caller)
  /-- REGISTER_WRITE: A write to a register with no row of its own, under its access code (R8). -/
  | registerWrite (r : RegSel) (v : BitVec 64)
  /-- HOST_BAR_ACCESS: A host read or write over the host link to BAR0 or BAR2, which reads as all ones and is dropped before MODREADY.PKG is set (R388). -/
  | hostBarAccess (write : Bool) (bar off : Nat) (v : BitVec 64)
deriving DecidableEq, Repr

/-- What moves next: one cycle of a core, one event, or an upset of a stored bit. -/
inductive Turn where
  | core (id : Nat)
  | event (i : Instr)
  /-- byte `lane` of the words in a row of one of the 18 banks of a core's slice becomes wrong (R174); its bank flags it or not -/
  | symbolUpset (core row bank lane : Nat) (flagged : Bool)
  /-- a granule of 32 bytes of physical memory becomes uncorrectable (R334) -/
  | granuleUpset (n : Nat)
deriving DecidableEq, Repr, Inhabited

end Sys2Proof
end

