-- ==== Sys2Proof/WellFormed.lean ====
section
/-! DEFINITION. Which terms of `Instr` are instructions: the restrictions that R54 to R60 and the chapters' field tables put on
fields beyond their widths. An encoding that breaks one raises ILLEGAL (R57). For an event, the ranges of what it names. -/
namespace Sys2Proof.WellFormed

/-- A register code that is not a link (R54). -/
def noLink (r : BitVec 5) : Bool := r.toNat < 28
/-- A register field of a 16-bit instruction (R60). -/
def reg16 (r : BitVec 5) : Bool := r.toNat < 28
/-- The first of a pair: the second is no link either (R189, R269). -/
def pairFirst (r : BitVec 5) : Bool := r.toNat < 27
/-- The operand pair of fship, or 0 for none (R201, R189). -/
def operandPair (r : BitVec 5) : Bool := r.toNat < 27
/-- The targets b to b + 2 of nfree (R356). -/
def targetTriple (r : BitVec 5) : Bool := r.toNat < 26
/-- A 5-bit field that names a predicate (R54). -/
def predicateCode (r : BitVec 5) : Bool := r.toNat < 8
/-- The tag field of vtag and vbcast (R269). -/
def tagCode (t : BitVec 5) : Bool := t.toNat < 14
/-- The target field of vcvt (R269). -/
def targetCode (t : BitVec 5) : Bool := t.toNat < 16
/-- An MX4 or DS8 target of vcvt writes v(d+1) too (R269). -/
def targetPair (t d : BitVec 5) : Bool := !(t.toNat == 10 || t.toNat == 11) || decide (d.toNat < 27)
/-- The stage of vcx (R269): j below k, k from 1 to 6, j at most 5. -/
def stageFits (j k : BitVec 5) : Bool := decide (j.toNat < k.toNat) && decide (k.toNat ≤ 6)
/-- A loop body holds an instruction (R105). -/
def loopEnd (e : BitVec 12) : Bool := 3 ≤ e.toNat
/-- A loop level (R106). -/
def loopLevel (l : BitVec 2) : Bool := l.toNat < 3
/-- An immediate bit field lies within 64 bits (R94). -/
def fieldFits (o w : BitVec 6) : Bool := o.toNat + w.toNat ≤ 64
/-- mfc and mxc have a destination: d = 0 is mtc (R69). -/
def destGiven (d : BitVec 5) : Bool := d.toNat != 0
/-- mxc has a source: a = 0 is mfc (R69). -/
def sourceGiven (a : BitVec 5) : Bool := a.toNat != 0
/-- The control-register numbers of R67. -/
def knownRegister (n : BitVec 12) : Bool :=
  let k := n.toNat
  decide (k ≤ 5) || (decide (8 ≤ k) && decide (k ≤ 12)) || (decide (16 ≤ k) && decide (k ≤ 23))
    || (decide (32 ≤ k) && decide (k ≤ 40)) || (decide (48 ≤ k) && decide (k ≤ 52))
    || [0x40, 0x48, 0x49, 0x50, 0x51, 0x58, 0x59, 0x60, 0x70, 0x100, 0x101, 0x102, 0x110].contains k
/-- ld.sx has no 64-bit form (R59). -/
def signedSize (z : BitVec 2) : Bool := z.toNat != 3
/-- A scope of R53. -/
def scopeKnown (c : BitVec 3) : Bool := c.toNat ≤ 4
/-- The payload registers of send (R118). -/
def payloadFits (n : BitVec 3) (b : BitVec 5) : Bool :=
  if n.toNat = 0 then b.toNat == 0 else b.toNat + n.toNat ≤ 28
/-- dset.rtc names a level (R117). -/
def levelGiven (r : BitVec 1) (l : BitVec 2) : Bool := !(r.toNat == 1 && l.toNat == 0)
/-- Two different registers (R356). -/
def distinct (a b : BitVec 5) : Bool := a != b
/-- A core of the module (00: 6,144 cores). -/
def coreId (c : Nat) : Bool := c < 6144
/-- A priority level (R14). -/
def levelId (l : Nat) : Bool := l < 4
/-- A cluster of the module. -/
def clusterId (c : Nat) : Bool := c < 768
/-- An edge slice. -/
def sliceId (n : Nat) : Bool := n < 256
/-- An array quad. -/
def quadId (q : Nat) : Bool := q < 192
/-- A direction N, E, S, W as 0 to 3; 4 names the local output of a router. -/
def dirId (d : Nat) : Bool := d < 8
/-- An output of a router, or its message channel of a traffic class (R375): 0 to 3 for N, E, S, W and 4, 5 for the pass channels, plus 8 for
each class. -/
def channelId (d : Nat) : Bool := d % 8 < 6 && d / 8 < 4
/-- A phase (R136). -/
def phaseId (p : Nat) : Bool := p < 16
/-- A base-die processor (R336). -/
def bdpId (b : Nat) : Bool := b < 128
/-- A scale-out port (R383). -/
def portId (p : Nat) : Bool := p < 16
/-- A local-memory bank: 16 data and 2 check banks (R174). -/
def bankId (b : Nat) : Bool := b < 18

end Sys2Proof.WellFormed

namespace Sys2Proof
open WellFormed

/-- The restrictions on each constructor's fields. -/
def Instr.wf : Instr → Bool
  | .add _ _ _ _ _ => true
  | .sub _ _ _ _ _ => true
  | .mul _ _ _ _ _ => true
  | .mulh _ _ _ _ _ => true
  | .mulhN _ _ _ _ _ => true
  | .div _ _ _ _ _ => true
  | .divN _ _ _ _ _ => true
  | .rem _ _ _ _ _ => true
  | .remN _ _ _ _ _ => true
  | .and _ _ _ _ _ => true
  | .or _ _ _ _ _ => true
  | .xor _ _ _ _ _ => true
  | .andn _ _ _ _ _ => true
  | .min _ _ _ _ _ => true
  | .max _ _ _ _ _ => true
  | .minN _ _ _ _ _ => true
  | .maxN _ _ _ _ _ => true
  | .shl _ _ _ _ _ => true
  | .shr _ _ _ _ _ => true
  | .sra _ _ _ _ _ => true
  | .rot _ _ _ _ _ => true
  | .clz _ _ _ _ => true
  | .ctz _ _ _ _ => true
  | .popc _ _ _ _ => true
  | .taz _ _ _ _ _ => true
  | .tax _ _ _ _ => true
  | .tadepth _ _ _ _ => true
  | .tanb _ _ _ _ _ => true
  | .taup _ _ _ _ _ => true
  | .tadown _ _ _ _ _ => true
  | .sel _ _ _ _ _ => true
  | .cmpEq _ _ _ _ _ => true
  | .cmpNe _ _ _ _ _ => true
  | .cmpLt _ _ _ _ _ => true
  | .cmpGe _ _ _ _ _ => true
  | .cmpLtu _ _ _ _ _ => true
  | .cmpGeu _ _ _ _ _ => true
  | .cmpAny _ _ _ _ _ => true
  | .cmpNone _ _ _ _ _ => true
  | .addImm12 _ _ _ _ => true
  | .andImm _ _ _ _ => true
  | .orImm _ _ _ _ => true
  | .xorImm _ _ _ _ => true
  | .andnImm _ _ _ _ => true
  | .shlImm _ _ _ _ => true
  | .shrImm _ _ _ _ => true
  | .sraImm _ _ _ _ => true
  | .rotImm _ _ _ _ => true
  | .mulImm _ _ _ _ => true
  | .minImm _ _ _ _ => true
  | .maxImm _ _ _ _ => true
  | .minNImm _ _ _ _ => true
  | .maxNImm _ _ _ _ => true
  | .taupImm _ _ _ _ => true
  | .tadownImm _ _ _ _ => true
  | .fsh _ _ _ _ _ => true
  | .bfx _ _ _ _ _ => true
  | .bfxs _ _ _ _ _ => true
  | .bfi d _ _ _ _ => noLink d
  | .bfxImm _ _ w o _ => fieldFits o w
  | .lui _ _ _ => true
  | .bra _ _ => true
  | .call _ _ => true
  | .bcEq _ _ _ _ => true
  | .bcNe _ _ _ _ => true
  | .bcLt _ _ _ _ => true
  | .bcGe _ _ _ _ => true
  | .bcLtu _ _ _ _ => true
  | .bcGeu _ _ _ _ => true
  | .bcAny _ _ _ _ => true
  | .bcNone _ _ _ _ => true
  | .loop _ l e _ => loopEnd e && loopLevel l
  | .ret _ _ => true
  | .callr _ _ _ => true
  | .jt _ _ _ => true
  | .isync _ => true
  | .halt _ => true
  | .rft _ => true
  | .align _ _ => true
  | .prio _ _ => true
  | .trap _ _ => true
  | .mfc d n _ => destGiven d && knownRegister n
  | .mtc _ n _ => knownRegister n
  | .mxc d a n _ => destGiven d && sourceGiven a && knownRegister n
  | .mov d a => reg16 a && reg16 d
  | .add16 d a => reg16 a && reg16 d
  | .sub16 d a => reg16 a && reg16 d
  | .and16 d a => reg16 a && reg16 d
  | .or16 d a => reg16 a && reg16 d
  | .xor16 d a => reg16 a && reg16 d
  | .li d _ => reg16 d
  | .addImm5 d _ => reg16 d
  | .shl16 d _ => reg16 d
  | .shr16 d _ => reg16 d
  | .sra16 d _ => reg16 d
  | .ret16 a => reg16 a
  | .nop => true
  | .halt16 => true
  | .bbinit _ _ _ => true
  | .bbpeek _ _ _ => true
  | .bbtake _ _ _ => true
  | .bbskip _ _ => true
  | .bbfill _ => true
  | .ld _ _ _ _ _ => true
  | .ldSx _ _ z _ _ => signedSize z
  | .st _ _ _ _ _ => true
  | .ldAcq _ _ c _ _ _ => scopeKnown c
  | .stRel _ _ c _ _ _ => scopeKnown c
  | .vld _ _ _ _ => true
  | .vst _ _ _ _ => true
  | .vldtRaw d _ _ _ _ => pairFirst d
  | .ldtMap _ _ _ _ _ => true
  | .ldtTa _ _ _ => true
  | .sttMap _ _ _ _ _ => true
  | .sttTa _ _ _ => true
  | .vldtMap _ _ _ _ _ => true
  | .vldtTa _ _ _ => true
  | .vsttMap _ _ _ _ _ => true
  | .vsttTa _ _ _ => true
  | .bcopy d a b _ => noLink d && pairFirst a && noLink b
  | .bfill d a b _ => noLink d && pairFirst a && noLink b
  | .bzero d a b _ => noLink d && pairFirst a && noLink b
  | .pftLift d a b _ => noLink d && pairFirst a && noLink b
  | .pftDrop d a b _ => noLink d && pairFirst a && noLink b
  | .fship d a b _ => noLink d && pairFirst a && operandPair b
  | .vgath _ _ _ _ _ => true
  | .vscat _ _ _ _ _ => true
  | .guard a b _ => noLink a && noLink b
  | .unguard a b _ => noLink a && noLink b
  | .tmld _ a _ => noLink a
  | .tmst _ a _ => noLink a
  | .send _ _ b _ n _ => payloadFits n b
  | .deposit a b _ => noLink a && noLink b
  | .dset r a b l _ => levelGiven r l && noLink a && noLink b
  | .dget d a _ => noLink d && noLink a
  | .mbxcfg a _ => noLink a
  | .amoAdd d a b _ _ => noLink d && noLink a && noLink b
  | .amoMin d a b _ _ => noLink d && noLink a && noLink b
  | .amoMax d a b _ _ => noLink d && noLink a && noLink b
  | .amoAnd d a b _ _ => noLink d && noLink a && noLink b
  | .amoOr d a b _ _ => noLink d && noLink a && noLink b
  | .amoXor d a b _ _ => noLink d && noLink a && noLink b
  | .amoSwap d a b _ _ => noLink d && noLink a && noLink b
  | .amoCas d a b _ _ => noLink d && noLink a && noLink b
  | .amoMinN d a b _ _ => noLink d && noLink a && noLink b
  | .amoMaxN d a b _ _ => noLink d && noLink a && noLink b
  | .salloc d _ => noLink d
  | .sfree a _ => noLink a
  | .bar d a b _ => noLink d && noLink a && noLink b
  | .barrive a b _ => noLink a && noLink b
  | .bcancel a _ => noLink a
  | .lock a _ => noLink a
  | .unlock a _ => noLink a
  | .waitv a b _ => noLink a && noLink b
  | .phopen a _ => noLink a
  | .phset a _ => noLink a
  | .phend a _ => noLink a
  | .phwait a _ => noLink a
  | .stv d a b _ => noLink d && noLink a && noLink b
  | .ldv d a b _ => noLink d && noLink a && noLink b
  | .recl a b _ => noLink a && noLink b
  | .fenceLd c _ => scopeKnown c
  | .fenceSt c _ => scopeKnown c
  | .fenceAll c _ => scopeKnown c
  | .vadd _ _ _ _ _ _ => true
  | .vsub _ _ _ _ _ _ => true
  | .vmul _ _ _ _ _ _ => true
  | .vfma _ d _ _ _ _ => noLink d
  | .vfms _ d _ _ _ _ => noLink d
  | .vdiv _ _ _ _ _ _ => true
  | .vsqrt _ _ _ _ _ => true
  | .vaddSat _ _ _ _ _ _ => true
  | .vsubSat _ _ _ _ _ _ => true
  | .vmulSat _ _ _ _ _ _ => true
  | .vfmaSat _ d _ _ _ _ => noLink d
  | .vaddNSat _ _ _ _ _ _ => true
  | .vsubNSat _ _ _ _ _ _ => true
  | .vmin _ _ _ _ _ => true
  | .vmax _ _ _ _ _ => true
  | .vminN _ _ _ _ _ => true
  | .vmaxN _ _ _ _ _ => true
  | .vabs _ _ _ _ => true
  | .vneg _ _ _ _ => true
  | .vand _ _ _ _ _ => true
  | .vor _ _ _ _ _ => true
  | .vxor _ _ _ _ _ => true
  | .vshl _ _ _ _ _ => true
  | .vshr _ _ _ _ _ => true
  | .vsra _ _ _ _ _ => true
  | .vmov _ _ _ _ => true
  | .vtag _ _ t _ => tagCode t
  | .vbcast _ _ _ t _ => tagCode t
  | .vcmpEq _ d _ _ _ => predicateCode d
  | .vcmpNe _ d _ _ _ => predicateCode d
  | .vcmpLt _ d _ _ _ => predicateCode d
  | .vcmpGe _ d _ _ _ => predicateCode d
  | .vcmpLe _ d _ _ _ => predicateCode d
  | .vcmpGt _ d _ _ _ => predicateCode d
  | .vcmpUn _ d _ _ _ => predicateCode d
  | .vcmpOrd _ d _ _ _ => predicateCode d
  | .vcmpLtN _ d _ _ _ => predicateCode d
  | .vcmpGeN _ d _ _ _ => predicateCode d
  | .vcmpLeN _ d _ _ _ => predicateCode d
  | .vcmpGtN _ d _ _ _ => predicateCode d
  | .vcvt _ d _ _ t _ => targetCode t && targetPair t d
  | .vredSum _ _ _ _ => true
  | .vredMin _ _ _ _ => true
  | .vredMax _ _ _ _ => true
  | .vredAnd _ _ _ _ => true
  | .vredOr _ _ _ _ => true
  | .vredMinN _ _ _ _ => true
  | .vredMaxN _ _ _ _ => true
  | .vperm _ _ _ _ _ => true
  | .vslide _ _ _ _ _ => true
  | .vcompress _ _ _ _ => true
  | .vgl _ _ _ _ => true
  | .vsel _ _ _ _ _ => true
  | .vcx d j k _ => pairFirst d && stageFits j k
  | .vdistDot d _ _ _ _ => noLink d
  | .vdistL2 d _ _ _ _ => noLink d
  | .vchol8 _ _ _ _ => true
  | .vtrs8 _ _ _ _ => true
  | .pand d a b _ => predicateCode d && predicateCode a && predicateCode b
  | .por d a b _ => predicateCode d && predicateCode a && predicateCode b
  | .pxor d a b _ => predicateCode d && predicateCode a && predicateCode b
  | .pnot d a _ => predicateCode d && predicateCode a
  | .pcnt _ a _ => predicateCode a
  | .pfirst _ a _ => predicateCode a
  | .xreq _ _ _ _ => true
  | .xget _ _ => true
  | .kinit _ _ _ _ => true
  | .kadd _ _ _ _ _ => true
  | .kdrain _ _ _ _ => true
  | .mlease _ => true
  | .mfree _ => true
  | .mstat d _ => noLink d
  | .mcheck d _ _ => noLink d
  | .mload d _ _ => noLink d
  | .mscale d _ _ => noLink d
  | .mswap _ => true
  | .mmul _ d _ _ => noLink d
  | .mdrain _ d _ _ => noLink d
  | .nalloc d _ => noLink d
  | .nfree a b _ => targetTriple b && noLink a && noLink b
  | .nld d a _ _ => noLink d && noLink a
  | .nst d a _ _ => noLink d && noLink a
  | .link a b _ => distinct a b && noLink a && noLink b
  | .nrun _ => true
  | .npush a b _ => distinct a b && noLink a && noLink b
  | .nmove d a _ => noLink d && noLink a
  | .nbal d _ => noLink d
  | .snap d a _ => noLink d && noLink a
  | .eret a _ => noLink a
  | .cfgrd d a _ => noLink d && noLink a
  | .cfgwr d a b _ => noLink d && noLink a && noLink b
  | .sleep d a _ => noLink d && noLink a
  | .wake a _ => noLink a
  | .sopen a _ _ => noLink a
  | .sclose _ _ => true
  | .alignTimeout core level => coreId core && levelId level
  | .waitvWake core level => coreId core && levelId level
  | .xuCompute cluster => clusterId cluster
  | .kuTakePair cluster _ => clusterId cluster
  | .kdrainWrite core level => coreId core && levelId level
  | .sleepDeadline core level => coreId core && levelId level
  | .closeMarkerArrival core dir => coreId core && dirId dir
  | .rawWordArrival core dir => coreId core && dirId dir
  | .instructionFetch cluster _ => clusterId cluster
  | .resultLands core level _ => coreId core && levelId level
  | .messageArrival _ => true
  | .acceptance _ => true
  | .refusal _ => true
  | .depositDataWrite core _ => coreId core
  | .dispatch core => coreId core
  | .retirement _ => true
  | .phaseClose _ phase => phaseId phase
  | .phaseCloseDelivery _ => true
  | .faultNotice _ => true
  | .amoRequest core => coreId core
  | .amoResult _ => true
  | .nodeStep core level => coreId core && levelId level
  | .churnPush core level => coreId core && levelId level
  | .autoBalance core => coreId core
  | .trapEntry core level => coreId core && levelId level
  | .stewardRecord r => coreId r.core
  | .coreResume core => coreId core
  | .coreRestart core => coreId core
  | .spareColumnRemap _ => true
  | .markBankFailed core bank => coreId core && bankId bank
  | .gangAllocation => true
  | .bandPromotion _ _ _ => true
  | .gangStart _ cluster => clusterId cluster
  | .segmentArrival cluster => clusterId cluster
  | .launchContextStart _ => true
  | .gangCompletion _ => true
  | .preemptionRequest _ => true
  | .preemptDistribution core => coreId core
  | .rtcLateHalt core => coreId core
  | .imageWrite _ => true
  | .gangRestore _ _ _ => true
  | .timeSliceSwitch _ _ => true
  | .ptpMessage port _ => portId port
  | .engineUnit _ => true
  | .pftNoticeInjection _ => true
  | .translationWalk slice => sliceId slice
  | .leaseGrant quad => quadId quad
  | .leaseLimit quad => quadId quad
  | .leaseHandover quad => quadId quad
  | .suspensionTimeout quad => quadId quad
  | .leaseRelease quad => quadId quad
  | .matrixStep quad _ _ _ => quadId quad
  | .mswapEffect quad => quadId quad
  | .kvWriteRequest slice _ => sliceId slice
  | .relayoutSlotGrant slice => sliceId slice
  | .relayoutDequantise slice _ => sliceId slice
  | .relayoutApply slice _ => sliceId slice
  | .relayoutFlip slice _ => sliceId slice
  | .kvReadRequest slice _ => sliceId slice
  | .kvTick slice => sliceId slice
  | .skimmerBegin slice => sliceId slice
  | .skimmerQuantise slice => sliceId slice
  | .skimmerFlip slice => sliceId slice
  | .fshipPerform bdp _ => bdpId bdp
  | .bankRefresh slice _ _ => sliceId slice
  | .layerOverheat _ _ _ => true
  | .refreshDue slice _ => sliceId slice
  | .allBankRefresh slice _ => sliceId slice
  | .remapTableError slice _ => sliceId slice
  | .remapReload slice _ _ => sliceId slice
  | .frameStart => true
  | .flitForward _ dir => channelId dir
  | .linkFlitReceive port _ _ _ => portId port
  | .replayRequest port _ => portId port
  | .laneRepair port _ _ => portId port
  | .snapshotTrigger _ _ => true
  | .snapshotLatch => true
  | .snapshotRelease => true
  | .snapin => true
  | .perst => true
  | .pwrgood => true
  | .blockCalibration _ _ => true
  | .firmwareVerify _ _ => true
  | .valeLoad _ _ => true
  | .doorbell _ => true
  | .completionEntry _ => true
  | .attestationQuote _ => true
  | .islandDvfs _ _ _ _ => true
  | .thermtrip _ => true
  | .systemCallReturn core level => coreId core && levelId level
  | .time _ => true
  | .post _ => true
  | .waitjob _ => true
  | .xutable _ => true
  | .routine _ => true
  | .map _ => true
  | .mapSub _ => true
  | .unmapSub _ => true
  | .realloc _ => true
  | .kvalloc _ => true
  | .kvfree _ => true
  | .kvslots _ => true
  | .pooladd _ => true
  | .unassignedCall _ => true
  | .registerWrite _ _ => true
  | .hostBarAccess _ _ _ _ => true

end Sys2Proof
end

