-- ==== Sys2Proof/Decode.lean ====
section
/-! DEFINITION. The decoder (R50 to R60) and, after it, the encoder. A field is taken from the instruction's bits read as one
number, bit 0 the least significant bit of the first halfword. -/
namespace Sys2Proof

/-- Why bits are no instruction (R57): every reason raises ILLEGAL. -/
inductive DecodeError where
  /-- fewer bytes than the length bit asks for -/
  | truncated
  /-- a major shown as reserved in R59, or major 0x3F (R58) -/
  | reservedMajor (m : Nat)
  /-- a function value that the opcode map does not list -/
  | unassigned (major fn : Nat)
  /-- a 16-bit operation that R60 does not list -/
  | unassigned16 (op : Nat)
  /-- a field that must be zero is not -/
  | nonZeroField
  /-- a field value that the entry excludes (Instr.wf) -/
  | restricted
deriving DecidableEq, Repr

namespace Decode

/-- Bits lo to lo + n − 1 of a number. -/
def fld (w lo n : Nat) : Nat := w / 2 ^ lo % 2 ^ n

/-- The same bits as a bit vector. -/
def bits (w lo n : Nat) : BitVec n := BitVec.ofNat n (w / 2 ^ lo)

/-- An instruction whose fixed fields are as the entry states, or the refusal of R57. -/
def must (c : Prop) [Decidable c] (i : Instr) : Except DecodeError Instr :=
  if c then .ok i else .error .nonZeroField

/-- Major 0x00 of the opcode map (R59). -/
def major00 (w : Nat) : Except DecodeError Instr :=
  match fld w 28 4 with
  | 0 => .ok (.add (bits w 25 3) (bits w 10 5) (bits w 15 5) (bits w 20 5) (bits w 1 3))
  | 1 => .ok (.sub (bits w 25 3) (bits w 10 5) (bits w 15 5) (bits w 20 5) (bits w 1 3))
  | 2 => .ok (.mul (bits w 25 3) (bits w 10 5) (bits w 15 5) (bits w 20 5) (bits w 1 3))
  | 3 => .ok (.mulh (bits w 25 3) (bits w 10 5) (bits w 15 5) (bits w 20 5) (bits w 1 3))
  | 4 => .ok (.mulhN (bits w 25 3) (bits w 10 5) (bits w 15 5) (bits w 20 5) (bits w 1 3))
  | 5 => .ok (.div (bits w 25 3) (bits w 10 5) (bits w 15 5) (bits w 20 5) (bits w 1 3))
  | 6 => .ok (.divN (bits w 25 3) (bits w 10 5) (bits w 15 5) (bits w 20 5) (bits w 1 3))
  | 7 => .ok (.rem (bits w 25 3) (bits w 10 5) (bits w 15 5) (bits w 20 5) (bits w 1 3))
  | 8 => .ok (.remN (bits w 25 3) (bits w 10 5) (bits w 15 5) (bits w 20 5) (bits w 1 3))
  | 9 => .ok (.and (bits w 25 3) (bits w 10 5) (bits w 15 5) (bits w 20 5) (bits w 1 3))
  | 10 => .ok (.or (bits w 25 3) (bits w 10 5) (bits w 15 5) (bits w 20 5) (bits w 1 3))
  | 11 => .ok (.xor (bits w 25 3) (bits w 10 5) (bits w 15 5) (bits w 20 5) (bits w 1 3))
  | 12 => .ok (.andn (bits w 25 3) (bits w 10 5) (bits w 15 5) (bits w 20 5) (bits w 1 3))
  | 13 => .ok (.min (bits w 25 3) (bits w 10 5) (bits w 15 5) (bits w 20 5) (bits w 1 3))
  | 14 => .ok (.max (bits w 25 3) (bits w 10 5) (bits w 15 5) (bits w 20 5) (bits w 1 3))
  | f => .error (.unassigned 0 f)

/-- Major 0x01 of the opcode map (R59). -/
def major01 (w : Nat) : Except DecodeError Instr :=
  match fld w 28 4 with
  | 0 => .ok (.minN (bits w 25 3) (bits w 10 5) (bits w 15 5) (bits w 20 5) (bits w 1 3))
  | 1 => .ok (.maxN (bits w 25 3) (bits w 10 5) (bits w 15 5) (bits w 20 5) (bits w 1 3))
  | 2 => .ok (.shl (bits w 25 3) (bits w 10 5) (bits w 15 5) (bits w 20 5) (bits w 1 3))
  | 3 => .ok (.shr (bits w 25 3) (bits w 10 5) (bits w 15 5) (bits w 20 5) (bits w 1 3))
  | 4 => .ok (.sra (bits w 25 3) (bits w 10 5) (bits w 15 5) (bits w 20 5) (bits w 1 3))
  | 5 => .ok (.rot (bits w 25 3) (bits w 10 5) (bits w 15 5) (bits w 20 5) (bits w 1 3))
  | 6 => must (fld w 20 5 = 0) (.clz (bits w 25 3) (bits w 10 5) (bits w 15 5) (bits w 1 3))
  | 7 => must (fld w 20 5 = 0) (.ctz (bits w 25 3) (bits w 10 5) (bits w 15 5) (bits w 1 3))
  | 8 => must (fld w 20 5 = 0) (.popc (bits w 25 3) (bits w 10 5) (bits w 15 5) (bits w 1 3))
  | 9 => .ok (.taz (bits w 25 3) (bits w 10 5) (bits w 15 5) (bits w 20 5) (bits w 1 3))
  | 10 => must (fld w 20 5 = 0) (.tax (bits w 25 3) (bits w 10 5) (bits w 15 5) (bits w 1 3))
  | 11 => must (fld w 20 5 = 0) (.tadepth (bits w 25 3) (bits w 10 5) (bits w 15 5) (bits w 1 3))
  | 12 => .ok (.tanb (bits w 25 3) (bits w 10 5) (bits w 15 5) (bits w 20 5) (bits w 1 3))
  | 13 => .ok (.taup (bits w 25 3) (bits w 10 5) (bits w 15 5) (bits w 20 5) (bits w 1 3))
  | 14 => .ok (.tadown (bits w 25 3) (bits w 10 5) (bits w 15 5) (bits w 20 5) (bits w 1 3))
  | 15 => .ok (.sel (bits w 10 5) (bits w 15 5) (bits w 20 5) (bits w 25 3) (bits w 1 3))
  | f => .error (.unassigned 1 f)

/-- Major 0x02 of the opcode map (R59). -/
def major02 (w : Nat) : Except DecodeError Instr :=
  match fld w 28 4 with
  | 0 => .ok (.cmpEq (bits w 25 3) (bits w 10 5) (bits w 15 5) (bits w 20 5) (bits w 1 3))
  | 1 => .ok (.cmpNe (bits w 25 3) (bits w 10 5) (bits w 15 5) (bits w 20 5) (bits w 1 3))
  | 2 => .ok (.cmpLt (bits w 25 3) (bits w 10 5) (bits w 15 5) (bits w 20 5) (bits w 1 3))
  | 3 => .ok (.cmpGe (bits w 25 3) (bits w 10 5) (bits w 15 5) (bits w 20 5) (bits w 1 3))
  | 4 => .ok (.cmpLtu (bits w 25 3) (bits w 10 5) (bits w 15 5) (bits w 20 5) (bits w 1 3))
  | 5 => .ok (.cmpGeu (bits w 25 3) (bits w 10 5) (bits w 15 5) (bits w 20 5) (bits w 1 3))
  | 6 => .ok (.cmpAny (bits w 25 3) (bits w 10 5) (bits w 15 5) (bits w 20 5) (bits w 1 3))
  | 7 => .ok (.cmpNone (bits w 25 3) (bits w 10 5) (bits w 15 5) (bits w 20 5) (bits w 1 3))
  | f => .error (.unassigned 2 f)

/-- Major 0x03 of the opcode map (R59). -/
def major03 (w : Nat) : Except DecodeError Instr :=
  .ok (.addImm12 (bits w 10 5) (bits w 15 5) (bits w 20 12) (bits w 1 3))

/-- Major 0x04 of the opcode map (R59). -/
def major04 (w : Nat) : Except DecodeError Instr :=
  match fld w 28 4 with
  | 0 => .ok (.andImm (bits w 10 5) (bits w 15 5) (bits w 20 8) (bits w 1 3))
  | 1 => .ok (.orImm (bits w 10 5) (bits w 15 5) (bits w 20 8) (bits w 1 3))
  | 2 => .ok (.xorImm (bits w 10 5) (bits w 15 5) (bits w 20 8) (bits w 1 3))
  | 3 => .ok (.andnImm (bits w 10 5) (bits w 15 5) (bits w 20 8) (bits w 1 3))
  | 4 => must (fld w 26 2 = 0) (.shlImm (bits w 10 5) (bits w 15 5) (bits w 20 6) (bits w 1 3))
  | 5 => must (fld w 26 2 = 0) (.shrImm (bits w 10 5) (bits w 15 5) (bits w 20 6) (bits w 1 3))
  | 6 => must (fld w 26 2 = 0) (.sraImm (bits w 10 5) (bits w 15 5) (bits w 20 6) (bits w 1 3))
  | 7 => must (fld w 26 2 = 0) (.rotImm (bits w 10 5) (bits w 15 5) (bits w 20 6) (bits w 1 3))
  | 8 => .ok (.mulImm (bits w 10 5) (bits w 15 5) (bits w 20 8) (bits w 1 3))
  | 9 => .ok (.minImm (bits w 10 5) (bits w 15 5) (bits w 20 8) (bits w 1 3))
  | 10 => .ok (.maxImm (bits w 10 5) (bits w 15 5) (bits w 20 8) (bits w 1 3))
  | 11 => .ok (.minNImm (bits w 10 5) (bits w 15 5) (bits w 20 8) (bits w 1 3))
  | 12 => .ok (.maxNImm (bits w 10 5) (bits w 15 5) (bits w 20 8) (bits w 1 3))
  | 13 => .ok (.taupImm (bits w 10 5) (bits w 15 5) (bits w 20 8) (bits w 1 3))
  | 14 => must (fld w 22 6 = 0) (.tadownImm (bits w 10 5) (bits w 15 5) (bits w 20 2) (bits w 1 3))
  | f => .error (.unassigned 4 f)

/-- Major 0x05 of the opcode map (R59). -/
def major05 (w : Nat) : Except DecodeError Instr :=
  match fld w 30 2 with
  | 0 => .ok (.fsh (bits w 10 5) (bits w 15 5) (bits w 20 5) (bits w 25 5) (bits w 1 3))
  | 1 => .ok (.bfx (bits w 10 5) (bits w 15 5) (bits w 20 5) (bits w 25 5) (bits w 1 3))
  | 2 => .ok (.bfxs (bits w 10 5) (bits w 15 5) (bits w 20 5) (bits w 25 5) (bits w 1 3))
  | 3 => .ok (.bfi (bits w 10 5) (bits w 15 5) (bits w 20 5) (bits w 25 5) (bits w 1 3))
  | f => .error (.unassigned 5 f)

/-- Major 0x06 of the opcode map (R59). -/
def major06 (w : Nat) : Except DecodeError Instr :=
  .ok (.bfxImm (bits w 10 5) (bits w 15 5) (bits w 26 6) (bits w 20 6) (bits w 1 3))

/-- Major 0x07 of the opcode map (R59). -/
def major07 (w : Nat) : Except DecodeError Instr :=
  .ok (.lui (bits w 10 5) (bits w 15 17) (bits w 1 3))

/-- Major 0x08 of the opcode map (R59). -/
def major08 (w : Nat) : Except DecodeError Instr :=
  .ok (.bra (bits w 10 22) (bits w 1 3))

/-- Major 0x09 of the opcode map (R59). -/
def major09 (w : Nat) : Except DecodeError Instr :=
  .ok (.call (bits w 10 22) (bits w 1 3))

/-- Major 0x0A of the opcode map (R59). -/
def major0A (w : Nat) : Except DecodeError Instr :=
  match fld w 20 3 with
  | 0 => .ok (.bcEq (bits w 10 5) (bits w 15 5) (bits w 23 9) (bits w 1 3))
  | 1 => .ok (.bcNe (bits w 10 5) (bits w 15 5) (bits w 23 9) (bits w 1 3))
  | 2 => .ok (.bcLt (bits w 10 5) (bits w 15 5) (bits w 23 9) (bits w 1 3))
  | 3 => .ok (.bcGe (bits w 10 5) (bits w 15 5) (bits w 23 9) (bits w 1 3))
  | 4 => .ok (.bcLtu (bits w 10 5) (bits w 15 5) (bits w 23 9) (bits w 1 3))
  | 5 => .ok (.bcGeu (bits w 10 5) (bits w 15 5) (bits w 23 9) (bits w 1 3))
  | 6 => .ok (.bcAny (bits w 10 5) (bits w 15 5) (bits w 23 9) (bits w 1 3))
  | 7 => .ok (.bcNone (bits w 10 5) (bits w 15 5) (bits w 23 9) (bits w 1 3))
  | f => .error (.unassigned 10 f)

/-- Major 0x0B of the opcode map (R59). -/
def major0B (w : Nat) : Except DecodeError Instr :=
  must (fld w 12 3 = 0) (.loop (bits w 15 5) (bits w 10 2) (bits w 20 12) (bits w 1 3))

/-- Major 0x0C of the opcode map (R59). -/
def major0C (w : Nat) : Except DecodeError Instr :=
  match fld w 28 4 with
  | 0 => must (fld w 10 5 = 0 ∧ fld w 20 8 = 0) (.ret (bits w 15 5) (bits w 1 3))
  | 1 => must (fld w 20 8 = 0) (.callr (bits w 10 5) (bits w 15 5) (bits w 1 3))
  | 2 => must (fld w 10 5 = 0 ∧ fld w 25 3 = 0) (.jt (bits w 15 5) (bits w 20 5) (bits w 1 3))
  | 3 => must (fld w 10 18 = 0) (.isync (bits w 1 3))
  | 4 => must (fld w 10 18 = 0) (.halt (bits w 1 3))
  | 5 => must (fld w 10 18 = 0) (.rft (bits w 1 3))
  | f => .error (.unassigned 12 f)

/-- Major 0x0D of the opcode map (R59). -/
def major0D (w : Nat) : Except DecodeError Instr :=
  match fld w 28 4 with
  | 0 => must (fld w 10 10 = 0) (.align (bits w 20 8) (bits w 1 3))
  | 1 => must (fld w 10 10 = 0 ∧ fld w 22 6 = 0) (.prio (bits w 20 2) (bits w 1 3))
  | 2 => must (fld w 10 10 = 0) (.trap (bits w 20 8) (bits w 1 3))
  | f => .error (.unassigned 13 f)

/-- Major 0x0F of the opcode map (R59). -/
def major0F (w : Nat) : Except DecodeError Instr :=
  if fld w 10 5 = 0 then .ok (.mtc (bits w 15 5) (bits w 20 12) (bits w 1 3))
  else if fld w 15 5 = 0 then .ok (.mfc (bits w 10 5) (bits w 20 12) (bits w 1 3))
  else .ok (.mxc (bits w 10 5) (bits w 15 5) (bits w 20 12) (bits w 1 3))

/-- Major 0x10 of the opcode map (R59). -/
def major10 (w : Nat) : Except DecodeError Instr :=
  .ok (.ld (bits w 10 5) (bits w 15 5) (bits w 30 2) (bits w 20 10) (bits w 1 3))

/-- Major 0x11 of the opcode map (R59). -/
def major11 (w : Nat) : Except DecodeError Instr :=
  .ok (.ldSx (bits w 10 5) (bits w 15 5) (bits w 30 2) (bits w 20 10) (bits w 1 3))

/-- Major 0x12 of the opcode map (R59). -/
def major12 (w : Nat) : Except DecodeError Instr :=
  .ok (.st (bits w 10 5) (bits w 15 5) (bits w 30 2) (bits w 20 10) (bits w 1 3))

/-- Major 0x13 of the opcode map (R59). -/
def major13 (w : Nat) : Except DecodeError Instr :=
  match fld w 31 1 with
  | 0 => .ok (.ldAcq (bits w 10 5) (bits w 15 5) (bits w 28 3) (bits w 26 2) (bits w 20 6) (bits w 1 3))
  | 1 => .ok (.stRel (bits w 10 5) (bits w 15 5) (bits w 28 3) (bits w 26 2) (bits w 20 6) (bits w 1 3))
  | f => .error (.unassigned 19 f)

/-- Major 0x14 of the opcode map (R59). -/
def major14 (w : Nat) : Except DecodeError Instr :=
  match fld w 30 2 with
  | 0 => .ok (.vld (bits w 10 5) (bits w 15 5) (bits w 20 10) (bits w 1 3))
  | 1 => .ok (.vst (bits w 10 5) (bits w 15 5) (bits w 20 10) (bits w 1 3))
  | f => .error (.unassigned 20 f)

/-- Major 0x15 of the opcode map (R59). -/
def major15 (w : Nat) : Except DecodeError Instr :=
  match fld w 30 2 with
  | 0 => must (fld w 29 1 = 0) (.vldtRaw (bits w 10 5) (bits w 15 5) (bits w 20 5) (bits w 25 4) (bits w 1 3))
  | f => .error (.unassigned 21 f)

/-- Major 0x16 of the opcode map (R59). -/
def major16 (w : Nat) : Except DecodeError Instr :=
  match fld w 29 3 with
  | 0 => .ok (.ldtMap (bits w 10 5) (bits w 15 5) (bits w 20 5) (bits w 25 4) (bits w 1 3))
  | 1 => must (fld w 20 9 = 0) (.ldtTa (bits w 10 5) (bits w 15 5) (bits w 1 3))
  | 2 => .ok (.sttMap (bits w 10 5) (bits w 15 5) (bits w 20 5) (bits w 25 4) (bits w 1 3))
  | 3 => must (fld w 20 9 = 0) (.sttTa (bits w 10 5) (bits w 15 5) (bits w 1 3))
  | 4 => .ok (.vldtMap (bits w 10 5) (bits w 15 5) (bits w 20 5) (bits w 25 4) (bits w 1 3))
  | 5 => must (fld w 20 9 = 0) (.vldtTa (bits w 10 5) (bits w 15 5) (bits w 1 3))
  | 6 => .ok (.vsttMap (bits w 10 5) (bits w 15 5) (bits w 20 5) (bits w 25 4) (bits w 1 3))
  | 7 => must (fld w 20 9 = 0) (.vsttTa (bits w 10 5) (bits w 15 5) (bits w 1 3))
  | f => .error (.unassigned 22 f)

/-- Major 0x17 of the opcode map (R59). -/
def major17 (w : Nat) : Except DecodeError Instr :=
  match fld w 28 4 with
  | 0 => must (fld w 25 3 = 0) (.bcopy (bits w 10 5) (bits w 15 5) (bits w 20 5) (bits w 1 3))
  | 1 => must (fld w 25 3 = 0) (.bfill (bits w 10 5) (bits w 15 5) (bits w 20 5) (bits w 1 3))
  | 2 => must (fld w 25 3 = 0) (.bzero (bits w 10 5) (bits w 15 5) (bits w 20 5) (bits w 1 3))
  | 3 => must (fld w 25 3 = 0) (.pftLift (bits w 10 5) (bits w 15 5) (bits w 20 5) (bits w 1 3))
  | 4 => must (fld w 25 3 = 0) (.pftDrop (bits w 10 5) (bits w 15 5) (bits w 20 5) (bits w 1 3))
  | 5 => must (fld w 25 3 = 0) (.fship (bits w 10 5) (bits w 15 5) (bits w 20 5) (bits w 1 3))
  | 6 => must (fld w 24 1 = 0) (.vgath (bits w 25 3) (bits w 10 5) (bits w 15 5) (bits w 20 4) (bits w 1 3))
  | 7 => must (fld w 24 1 = 0) (.vscat (bits w 25 3) (bits w 10 5) (bits w 15 5) (bits w 20 4) (bits w 1 3))
  | 8 => must (fld w 10 5 = 0 ∧ fld w 25 3 = 0) (.guard (bits w 15 5) (bits w 20 5) (bits w 1 3))
  | 9 => must (fld w 10 5 = 0 ∧ fld w 25 3 = 0) (.unguard (bits w 15 5) (bits w 20 5) (bits w 1 3))
  | 10 => must (fld w 14 1 = 0 ∧ fld w 20 8 = 0) (.tmld (bits w 10 4) (bits w 15 5) (bits w 1 3))
  | 11 => must (fld w 14 1 = 0 ∧ fld w 20 8 = 0) (.tmst (bits w 10 4) (bits w 15 5) (bits w 1 3))
  | f => .error (.unassigned 23 f)

/-- Major 0x18 of the opcode map (R59). -/
def major18 (w : Nat) : Except DecodeError Instr :=
  .ok (.send (bits w 31 1) (bits w 10 5) (bits w 15 5) (bits w 20 8) (bits w 28 3) (bits w 1 3))

/-- Major 0x19 of the opcode map (R59). -/
def major19 (w : Nat) : Except DecodeError Instr :=
  match fld w 28 4 with
  | 0 => must (fld w 10 5 = 0 ∧ fld w 25 3 = 0) (.deposit (bits w 15 5) (bits w 20 5) (bits w 1 3))
  | 1 => must (fld w 10 5 = 0) (.dset (bits w 27 1) (bits w 15 5) (bits w 20 5) (bits w 25 2) (bits w 1 3))
  | 2 => must (fld w 20 8 = 0) (.dget (bits w 10 5) (bits w 15 5) (bits w 1 3))
  | 3 => must (fld w 10 5 = 0 ∧ fld w 20 8 = 0) (.mbxcfg (bits w 15 5) (bits w 1 3))
  | f => .error (.unassigned 25 f)

/-- Major 0x1A of the opcode map (R59). -/
def major1A (w : Nat) : Except DecodeError Instr :=
  match fld w 28 4 with
  | 0 => must (fld w 26 2 = 0) (.amoAdd (bits w 10 5) (bits w 15 5) (bits w 20 5) (bits w 25 1) (bits w 1 3))
  | 1 => must (fld w 26 2 = 0) (.amoMin (bits w 10 5) (bits w 15 5) (bits w 20 5) (bits w 25 1) (bits w 1 3))
  | 2 => must (fld w 26 2 = 0) (.amoMax (bits w 10 5) (bits w 15 5) (bits w 20 5) (bits w 25 1) (bits w 1 3))
  | 3 => must (fld w 26 2 = 0) (.amoAnd (bits w 10 5) (bits w 15 5) (bits w 20 5) (bits w 25 1) (bits w 1 3))
  | 4 => must (fld w 26 2 = 0) (.amoOr (bits w 10 5) (bits w 15 5) (bits w 20 5) (bits w 25 1) (bits w 1 3))
  | 5 => must (fld w 26 2 = 0) (.amoXor (bits w 10 5) (bits w 15 5) (bits w 20 5) (bits w 25 1) (bits w 1 3))
  | 6 => must (fld w 26 2 = 0) (.amoSwap (bits w 10 5) (bits w 15 5) (bits w 20 5) (bits w 25 1) (bits w 1 3))
  | 7 => must (fld w 26 2 = 0) (.amoCas (bits w 10 5) (bits w 15 5) (bits w 20 5) (bits w 25 1) (bits w 1 3))
  | 8 => must (fld w 26 2 = 0) (.amoMinN (bits w 10 5) (bits w 15 5) (bits w 20 5) (bits w 25 1) (bits w 1 3))
  | 9 => must (fld w 26 2 = 0) (.amoMaxN (bits w 10 5) (bits w 15 5) (bits w 20 5) (bits w 25 1) (bits w 1 3))
  | f => .error (.unassigned 26 f)

/-- Major 0x1B of the opcode map (R59). -/
def major1B (w : Nat) : Except DecodeError Instr :=
  match fld w 28 4 with
  | 0 => must (fld w 15 13 = 0) (.salloc (bits w 10 5) (bits w 1 3))
  | 1 => must (fld w 10 5 = 0 ∧ fld w 20 8 = 0) (.sfree (bits w 15 5) (bits w 1 3))
  | 2 => must (fld w 25 3 = 0) (.bar (bits w 10 5) (bits w 15 5) (bits w 20 5) (bits w 1 3))
  | 3 => must (fld w 10 5 = 0 ∧ fld w 25 3 = 0) (.barrive (bits w 15 5) (bits w 20 5) (bits w 1 3))
  | 4 => must (fld w 10 5 = 0 ∧ fld w 20 8 = 0) (.bcancel (bits w 15 5) (bits w 1 3))
  | 5 => must (fld w 10 5 = 0 ∧ fld w 20 8 = 0) (.lock (bits w 15 5) (bits w 1 3))
  | 6 => must (fld w 10 5 = 0 ∧ fld w 20 8 = 0) (.unlock (bits w 15 5) (bits w 1 3))
  | 7 => must (fld w 10 5 = 0 ∧ fld w 25 3 = 0) (.waitv (bits w 15 5) (bits w 20 5) (bits w 1 3))
  | f => .error (.unassigned 27 f)

/-- Major 0x1C of the opcode map (R59). -/
def major1C (w : Nat) : Except DecodeError Instr :=
  match fld w 28 4 with
  | 0 => must (fld w 10 5 = 0 ∧ fld w 20 8 = 0) (.phopen (bits w 15 5) (bits w 1 3))
  | 1 => must (fld w 10 5 = 0 ∧ fld w 20 8 = 0) (.phset (bits w 15 5) (bits w 1 3))
  | 2 => must (fld w 10 5 = 0 ∧ fld w 20 8 = 0) (.phend (bits w 15 5) (bits w 1 3))
  | 3 => must (fld w 10 5 = 0 ∧ fld w 20 8 = 0) (.phwait (bits w 15 5) (bits w 1 3))
  | f => .error (.unassigned 28 f)

/-- Major 0x1D of the opcode map (R59). -/
def major1D (w : Nat) : Except DecodeError Instr :=
  match fld w 28 4 with
  | 0 => must (fld w 25 3 = 0) (.stv (bits w 10 5) (bits w 15 5) (bits w 20 5) (bits w 1 3))
  | 1 => must (fld w 25 3 = 0) (.ldv (bits w 10 5) (bits w 15 5) (bits w 20 5) (bits w 1 3))
  | 2 => must (fld w 10 5 = 0 ∧ fld w 25 3 = 0) (.recl (bits w 15 5) (bits w 20 5) (bits w 1 3))
  | f => .error (.unassigned 29 f)

/-- Major 0x1E of the opcode map (R59). -/
def major1E (w : Nat) : Except DecodeError Instr :=
  match fld w 28 4 with
  | 0 => must (fld w 10 15 = 0) (.fenceLd (bits w 25 3) (bits w 1 3))
  | 1 => must (fld w 10 15 = 0) (.fenceSt (bits w 25 3) (bits w 1 3))
  | 2 => must (fld w 10 15 = 0) (.fenceAll (bits w 25 3) (bits w 1 3))
  | f => .error (.unassigned 30 f)

/-- Major 0x20 of the opcode map (R59). -/
def major20 (w : Nat) : Except DecodeError Instr :=
  match fld w 28 4 with
  | 0 => .ok (.vadd (bits w 25 3) (bits w 10 5) (bits w 15 5) (bits w 20 5) (bits w 4 2) (bits w 1 3))
  | 1 => .ok (.vsub (bits w 25 3) (bits w 10 5) (bits w 15 5) (bits w 20 5) (bits w 4 2) (bits w 1 3))
  | 2 => .ok (.vmul (bits w 25 3) (bits w 10 5) (bits w 15 5) (bits w 20 5) (bits w 4 2) (bits w 1 3))
  | 3 => .ok (.vfma (bits w 25 3) (bits w 10 5) (bits w 15 5) (bits w 20 5) (bits w 4 2) (bits w 1 3))
  | 4 => .ok (.vfms (bits w 25 3) (bits w 10 5) (bits w 15 5) (bits w 20 5) (bits w 4 2) (bits w 1 3))
  | 5 => .ok (.vdiv (bits w 25 3) (bits w 10 5) (bits w 15 5) (bits w 20 5) (bits w 4 2) (bits w 1 3))
  | 6 => must (fld w 20 5 = 0) (.vsqrt (bits w 25 3) (bits w 10 5) (bits w 15 5) (bits w 4 2) (bits w 1 3))
  | 7 => .ok (.vaddSat (bits w 25 3) (bits w 10 5) (bits w 15 5) (bits w 20 5) (bits w 4 2) (bits w 1 3))
  | 8 => .ok (.vsubSat (bits w 25 3) (bits w 10 5) (bits w 15 5) (bits w 20 5) (bits w 4 2) (bits w 1 3))
  | 9 => .ok (.vmulSat (bits w 25 3) (bits w 10 5) (bits w 15 5) (bits w 20 5) (bits w 4 2) (bits w 1 3))
  | 10 => .ok (.vfmaSat (bits w 25 3) (bits w 10 5) (bits w 15 5) (bits w 20 5) (bits w 4 2) (bits w 1 3))
  | 11 => .ok (.vaddNSat (bits w 25 3) (bits w 10 5) (bits w 15 5) (bits w 20 5) (bits w 4 2) (bits w 1 3))
  | 12 => .ok (.vsubNSat (bits w 25 3) (bits w 10 5) (bits w 15 5) (bits w 20 5) (bits w 4 2) (bits w 1 3))
  | f => .error (.unassigned 32 f)

/-- Major 0x24 of the opcode map (R59). -/
def major24 (w : Nat) : Except DecodeError Instr :=
  match fld w 28 4 with
  | 0 => .ok (.vmin (bits w 25 3) (bits w 10 5) (bits w 15 5) (bits w 20 5) (bits w 1 3))
  | 1 => .ok (.vmax (bits w 25 3) (bits w 10 5) (bits w 15 5) (bits w 20 5) (bits w 1 3))
  | 2 => .ok (.vminN (bits w 25 3) (bits w 10 5) (bits w 15 5) (bits w 20 5) (bits w 1 3))
  | 3 => .ok (.vmaxN (bits w 25 3) (bits w 10 5) (bits w 15 5) (bits w 20 5) (bits w 1 3))
  | 4 => must (fld w 20 5 = 0) (.vabs (bits w 25 3) (bits w 10 5) (bits w 15 5) (bits w 1 3))
  | 5 => must (fld w 20 5 = 0) (.vneg (bits w 25 3) (bits w 10 5) (bits w 15 5) (bits w 1 3))
  | 6 => .ok (.vand (bits w 25 3) (bits w 10 5) (bits w 15 5) (bits w 20 5) (bits w 1 3))
  | 7 => .ok (.vor (bits w 25 3) (bits w 10 5) (bits w 15 5) (bits w 20 5) (bits w 1 3))
  | 8 => .ok (.vxor (bits w 25 3) (bits w 10 5) (bits w 15 5) (bits w 20 5) (bits w 1 3))
  | 9 => .ok (.vshl (bits w 25 3) (bits w 10 5) (bits w 15 5) (bits w 20 5) (bits w 1 3))
  | 10 => .ok (.vshr (bits w 25 3) (bits w 10 5) (bits w 15 5) (bits w 20 5) (bits w 1 3))
  | 11 => .ok (.vsra (bits w 25 3) (bits w 10 5) (bits w 15 5) (bits w 20 5) (bits w 1 3))
  | 12 => must (fld w 20 5 = 0) (.vmov (bits w 25 3) (bits w 10 5) (bits w 15 5) (bits w 1 3))
  | 13 => must (fld w 25 3 = 0) (.vtag (bits w 10 5) (bits w 15 5) (bits w 20 5) (bits w 1 3))
  | 14 => .ok (.vbcast (bits w 25 3) (bits w 10 5) (bits w 15 5) (bits w 20 5) (bits w 1 3))
  | f => .error (.unassigned 36 f)

/-- Major 0x25 of the opcode map (R59). -/
def major25 (w : Nat) : Except DecodeError Instr :=
  match fld w 28 4 with
  | 0 => .ok (.vcmpEq (bits w 25 3) (bits w 10 5) (bits w 15 5) (bits w 20 5) (bits w 1 3))
  | 1 => .ok (.vcmpNe (bits w 25 3) (bits w 10 5) (bits w 15 5) (bits w 20 5) (bits w 1 3))
  | 2 => .ok (.vcmpLt (bits w 25 3) (bits w 10 5) (bits w 15 5) (bits w 20 5) (bits w 1 3))
  | 3 => .ok (.vcmpGe (bits w 25 3) (bits w 10 5) (bits w 15 5) (bits w 20 5) (bits w 1 3))
  | 4 => .ok (.vcmpLe (bits w 25 3) (bits w 10 5) (bits w 15 5) (bits w 20 5) (bits w 1 3))
  | 5 => .ok (.vcmpGt (bits w 25 3) (bits w 10 5) (bits w 15 5) (bits w 20 5) (bits w 1 3))
  | 6 => .ok (.vcmpUn (bits w 25 3) (bits w 10 5) (bits w 15 5) (bits w 20 5) (bits w 1 3))
  | 7 => .ok (.vcmpOrd (bits w 25 3) (bits w 10 5) (bits w 15 5) (bits w 20 5) (bits w 1 3))
  | 8 => .ok (.vcmpLtN (bits w 25 3) (bits w 10 5) (bits w 15 5) (bits w 20 5) (bits w 1 3))
  | 9 => .ok (.vcmpGeN (bits w 25 3) (bits w 10 5) (bits w 15 5) (bits w 20 5) (bits w 1 3))
  | 10 => .ok (.vcmpLeN (bits w 25 3) (bits w 10 5) (bits w 15 5) (bits w 20 5) (bits w 1 3))
  | 11 => .ok (.vcmpGtN (bits w 25 3) (bits w 10 5) (bits w 15 5) (bits w 20 5) (bits w 1 3))
  | f => .error (.unassigned 37 f)

/-- Major 0x26 of the opcode map (R59). -/
def major26 (w : Nat) : Except DecodeError Instr :=
  match fld w 31 1 with
  | 0 => .ok (.vcvt (bits w 25 3) (bits w 10 5) (bits w 15 5) (bits w 28 3) (bits w 20 5) (bits w 1 3))
  | f => .error (.unassigned 38 f)

/-- Major 0x27 of the opcode map (R59). -/
def major27 (w : Nat) : Except DecodeError Instr :=
  match fld w 28 4 with
  | 0 => must (fld w 20 5 = 0) (.vredSum (bits w 25 3) (bits w 10 5) (bits w 15 5) (bits w 1 3))
  | 1 => must (fld w 20 5 = 0) (.vredMin (bits w 25 3) (bits w 10 5) (bits w 15 5) (bits w 1 3))
  | 2 => must (fld w 20 5 = 0) (.vredMax (bits w 25 3) (bits w 10 5) (bits w 15 5) (bits w 1 3))
  | 3 => must (fld w 20 5 = 0) (.vredAnd (bits w 25 3) (bits w 10 5) (bits w 15 5) (bits w 1 3))
  | 4 => must (fld w 20 5 = 0) (.vredOr (bits w 25 3) (bits w 10 5) (bits w 15 5) (bits w 1 3))
  | 5 => must (fld w 20 5 = 0) (.vredMinN (bits w 25 3) (bits w 10 5) (bits w 15 5) (bits w 1 3))
  | 6 => must (fld w 20 5 = 0) (.vredMaxN (bits w 25 3) (bits w 10 5) (bits w 15 5) (bits w 1 3))
  | 7 => .ok (.vperm (bits w 25 3) (bits w 10 5) (bits w 15 5) (bits w 20 5) (bits w 1 3))
  | 8 => .ok (.vslide (bits w 25 3) (bits w 10 5) (bits w 15 5) (bits w 20 5) (bits w 1 3))
  | 9 => must (fld w 20 5 = 0) (.vcompress (bits w 25 3) (bits w 10 5) (bits w 15 5) (bits w 1 3))
  | 10 => must (fld w 20 5 = 0) (.vgl (bits w 25 3) (bits w 10 5) (bits w 15 5) (bits w 1 3))
  | 11 => .ok (.vsel (bits w 10 5) (bits w 15 5) (bits w 20 5) (bits w 25 3) (bits w 1 3))
  | f => .error (.unassigned 39 f)

/-- Major 0x28 of the opcode map (R59). -/
def major28 (w : Nat) : Except DecodeError Instr :=
  match fld w 28 4 with
  | 0 => must (fld w 25 3 = 0) (.vcx (bits w 10 5) (bits w 15 5) (bits w 20 5) (bits w 1 3))
  | 1 => .ok (.vdistDot (bits w 10 5) (bits w 15 5) (bits w 20 5) (bits w 25 3) (bits w 1 3))
  | 2 => .ok (.vdistL2 (bits w 10 5) (bits w 15 5) (bits w 20 5) (bits w 25 3) (bits w 1 3))
  | f => .error (.unassigned 40 f)

/-- Major 0x29 of the opcode map (R59). -/
def major29 (w : Nat) : Except DecodeError Instr :=
  match fld w 28 4 with
  | 0 => must (fld w 20 5 = 0) (.vchol8 (bits w 10 5) (bits w 15 5) (bits w 25 3) (bits w 1 3))
  | 1 => must (fld w 25 3 = 0) (.vtrs8 (bits w 10 5) (bits w 15 5) (bits w 20 5) (bits w 1 3))
  | f => .error (.unassigned 41 f)

/-- Major 0x2A of the opcode map (R59). -/
def major2A (w : Nat) : Except DecodeError Instr :=
  match fld w 28 4 with
  | 0 => must (fld w 25 3 = 0) (.pand (bits w 10 5) (bits w 15 5) (bits w 20 5) (bits w 1 3))
  | 1 => must (fld w 25 3 = 0) (.por (bits w 10 5) (bits w 15 5) (bits w 20 5) (bits w 1 3))
  | 2 => must (fld w 25 3 = 0) (.pxor (bits w 10 5) (bits w 15 5) (bits w 20 5) (bits w 1 3))
  | 3 => must (fld w 20 8 = 0) (.pnot (bits w 10 5) (bits w 15 5) (bits w 1 3))
  | 4 => must (fld w 20 8 = 0) (.pcnt (bits w 10 5) (bits w 15 5) (bits w 1 3))
  | 5 => must (fld w 20 8 = 0) (.pfirst (bits w 10 5) (bits w 15 5) (bits w 1 3))
  | f => .error (.unassigned 42 f)

/-- Major 0x30 of the opcode map (R59). -/
def major30 (w : Nat) : Except DecodeError Instr :=
  match fld w 28 4 with
  | 0 => must (fld w 10 18 = 0) (.mlease (bits w 1 3))
  | 1 => must (fld w 10 18 = 0) (.mfree (bits w 1 3))
  | 2 => must (fld w 15 13 = 0) (.mstat (bits w 10 5) (bits w 1 3))
  | 3 => must (fld w 20 8 = 0) (.mcheck (bits w 10 5) (bits w 15 5) (bits w 1 3))
  | f => .error (.unassigned 48 f)

/-- Major 0x31 of the opcode map (R59). -/
def major31 (w : Nat) : Except DecodeError Instr :=
  match fld w 28 4 with
  | 0 => must (fld w 19 9 = 0) (.mload (bits w 10 5) (bits w 15 4) (bits w 1 3))
  | 1 => must (fld w 19 9 = 0) (.mscale (bits w 10 5) (bits w 15 4) (bits w 1 3))
  | 2 => must (fld w 10 18 = 0) (.mswap (bits w 1 3))
  | f => .error (.unassigned 49 f)

/-- Major 0x32 of the opcode map (R59). -/
def major32 (w : Nat) : Except DecodeError Instr :=
  match fld w 28 4 with
  | 0 => must (fld w 19 1 = 0 ∧ fld w 22 6 = 0) (.mmul (bits w 20 2) (bits w 10 5) (bits w 15 4) (bits w 1 3))
  | f => .error (.unassigned 50 f)

/-- Major 0x33 of the opcode map (R59). -/
def major33 (w : Nat) : Except DecodeError Instr :=
  match fld w 28 4 with
  | 0 => must (fld w 19 1 = 0 ∧ fld w 21 7 = 0) (.mdrain (bits w 20 1) (bits w 10 5) (bits w 15 4) (bits w 1 3))
  | f => .error (.unassigned 51 f)

/-- Major 0x36 of the opcode map (R59). -/
noncomputable def major36 (w : Nat) : Except DecodeError Instr :=
  match fld w 28 4 with
  | 0 => must (fld w 15 13 = 0) (.nalloc (bits w 10 5) (bits w 1 3))
  | 1 => must (fld w 10 5 = 0 ∧ fld w 25 3 = 0) (.nfree (bits w 15 5) (bits w 20 5) (bits w 1 3))
  | 2 => must (fld w 22 6 = 0) (.nld (bits w 10 5) (bits w 15 5) (bits w 20 2) (bits w 1 3))
  | 3 => must (fld w 22 6 = 0) (.nst (bits w 10 5) (bits w 15 5) (bits w 20 2) (bits w 1 3))
  | f => .error (.unassigned 54 f)

/-- Major 0x37 of the opcode map (R59). -/
noncomputable def major37 (w : Nat) : Except DecodeError Instr :=
  match fld w 28 4 with
  | 0 => must (fld w 10 5 = 0 ∧ fld w 25 3 = 0) (.link (bits w 15 5) (bits w 20 5) (bits w 1 3))
  | 1 => must (fld w 10 18 = 0) (.nrun (bits w 1 3))
  | 2 => must (fld w 10 5 = 0 ∧ fld w 25 3 = 0) (.npush (bits w 15 5) (bits w 20 5) (bits w 1 3))
  | 3 => must (fld w 20 8 = 0) (.nmove (bits w 10 5) (bits w 15 5) (bits w 1 3))
  | 4 => must (fld w 15 13 = 0) (.nbal (bits w 10 5) (bits w 1 3))
  | f => .error (.unassigned 55 f)

/-- Major 0x3A of the opcode map (R59). -/
def major3A (w : Nat) : Except DecodeError Instr :=
  match fld w 28 4 with
  | 0 => must (fld w 25 3 = 0) (.xreq (bits w 10 5) (bits w 15 5) (bits w 20 5) (bits w 1 3))
  | 1 => must (fld w 15 13 = 0) (.xget (bits w 10 5) (bits w 1 3))
  | f => .error (.unassigned 58 f)

/-- Major 0x3B of the opcode map (R59). -/
def major3B (w : Nat) : Except DecodeError Instr :=
  match fld w 28 4 with
  | 0 => must (fld w 25 3 = 0) (.kinit (bits w 10 5) (bits w 15 5) (bits w 20 5) (bits w 1 3))
  | 1 => .ok (.kadd (bits w 25 3) (bits w 10 5) (bits w 15 5) (bits w 20 5) (bits w 1 3))
  | 2 => must (fld w 25 3 = 0) (.kdrain (bits w 10 5) (bits w 15 5) (bits w 20 5) (bits w 1 3))
  | f => .error (.unassigned 59 f)

/-- Major 0x3C of the opcode map (R59). -/
def major3C (w : Nat) : Except DecodeError Instr :=
  match fld w 28 4 with
  | 0 => must (fld w 10 5 = 0 ∧ fld w 25 3 = 0) (.bbinit (bits w 15 5) (bits w 20 5) (bits w 1 3))
  | 1 => must (fld w 20 8 = 0) (.bbpeek (bits w 10 5) (bits w 15 5) (bits w 1 3))
  | 2 => must (fld w 20 8 = 0) (.bbtake (bits w 10 5) (bits w 15 5) (bits w 1 3))
  | 3 => must (fld w 10 5 = 0 ∧ fld w 20 8 = 0) (.bbskip (bits w 15 5) (bits w 1 3))
  | 4 => must (fld w 10 18 = 0) (.bbfill (bits w 1 3))
  | f => .error (.unassigned 60 f)

/-- Major 0x3E of the opcode map (R59). -/
noncomputable def major3E (w : Nat) : Except DecodeError Instr :=
  match fld w 28 4 with
  | 0 => must (fld w 20 8 = 0) (.snap (bits w 10 5) (bits w 15 5) (bits w 1 3))
  | 1 => must (fld w 10 5 = 0 ∧ fld w 20 8 = 0) (.eret (bits w 15 5) (bits w 1 3))
  | 2 => must (fld w 20 8 = 0) (.cfgrd (bits w 10 5) (bits w 15 5) (bits w 1 3))
  | 3 => must (fld w 25 3 = 0) (.cfgwr (bits w 10 5) (bits w 15 5) (bits w 20 5) (bits w 1 3))
  | 4 => must (fld w 20 8 = 0) (.sleep (bits w 10 5) (bits w 15 5) (bits w 1 3))
  | 5 => must (fld w 10 5 = 0 ∧ fld w 20 8 = 0) (.wake (bits w 15 5) (bits w 1 3))
  | 6 => must (fld w 10 5 = 0 ∧ fld w 22 6 = 7) (.sopen (bits w 15 5) (bits w 20 2) (bits w 1 3))
  | 7 => must (fld w 10 10 = 0 ∧ fld w 22 6 = 7) (.sclose (bits w 20 2) (bits w 1 3))
  | f => .error (.unassigned 62 f)

/-- The function and fields of a 32-bit instruction, by its major opcode (R53, R59). -/
noncomputable def decode32 (w : Nat) : Except DecodeError Instr :=
  match fld w 4 6 with
  | 0 => major00 w
  | 1 => major01 w
  | 2 => major02 w
  | 3 => major03 w
  | 4 => major04 w
  | 5 => major05 w
  | 6 => major06 w
  | 7 => major07 w
  | 8 => major08 w
  | 9 => major09 w
  | 10 => major0A w
  | 11 => major0B w
  | 12 => major0C w
  | 13 => major0D w
  | 15 => major0F w
  | 16 => major10 w
  | 17 => major11 w
  | 18 => major12 w
  | 19 => major13 w
  | 20 => major14 w
  | 21 => major15 w
  | 22 => major16 w
  | 23 => major17 w
  | 24 => major18 w
  | 25 => major19 w
  | 26 => major1A w
  | 27 => major1B w
  | 28 => major1C w
  | 29 => major1D w
  | 30 => major1E w
  | 32 => major20 w
  | 33 => major20 w
  | 34 => major20 w
  | 35 => major20 w
  | 36 => major24 w
  | 37 => major25 w
  | 38 => major26 w
  | 39 => major27 w
  | 40 => major28 w
  | 41 => major29 w
  | 42 => major2A w
  | 48 => major30 w
  | 49 => major31 w
  | 50 => major32 w
  | 51 => major33 w
  | 54 => major36 w
  | 55 => major37 w
  | 58 => major3A w
  | 59 => major3B w
  | 60 => major3C w
  | 62 => major3E w
  | m => .error (.reservedMajor m)

/-- A 16-bit instruction (R60). -/
def decode16 (w : Nat) : Except DecodeError Instr :=
  match fld w 1 5 with
  | 1 => .ok (.mov (bits w 6 5) (bits w 11 5))
  | 2 => .ok (.add16 (bits w 6 5) (bits w 11 5))
  | 3 => .ok (.sub16 (bits w 6 5) (bits w 11 5))
  | 4 => .ok (.and16 (bits w 6 5) (bits w 11 5))
  | 5 => .ok (.or16 (bits w 6 5) (bits w 11 5))
  | 6 => .ok (.xor16 (bits w 6 5) (bits w 11 5))
  | 7 => .ok (.li (bits w 6 5) (bits w 11 5))
  | 8 => .ok (.addImm5 (bits w 6 5) (bits w 11 5))
  | 9 => .ok (.shl16 (bits w 6 5) (bits w 11 5))
  | 10 => .ok (.shr16 (bits w 6 5) (bits w 11 5))
  | 11 => .ok (.sra16 (bits w 6 5) (bits w 11 5))
  | 12 => must (fld w 6 5 = 0) (.ret16 (bits w 11 5))
  | 13 => must (fld w 6 10 = 0) (.nop)
  | 14 => must (fld w 6 10 = 0) (.halt16)
  | o => .error (.unassigned16 o)

/-- The instruction must be well-formed (R57: decoding is complete before any operand is read). -/
def restrict : Except DecodeError Instr → Except DecodeError Instr
  | .ok i => if i.wf then .ok i else .error .restricted
  | .error e => .error e

/-- The number that little-endian bytes stand for (R4). -/
def leNat : List Byte → Nat
  | [] => 0
  | b :: r => b.toNat + 256 * leNat r

/-- n little-endian bytes of a number (R4). -/
def leBytes : Nat → Nat → List Byte
  | 0, _ => []
  | n + 1, w => BitVec.ofNat 8 w :: leBytes n (w / 256)

end Decode

open Decode

/-- The instruction whose bits are w, when it is 2 or 4 bytes long as its bit 0 says (R50). -/
noncomputable def decodeBits (w : Nat) : Except DecodeError Instr :=
  if w % 2 = 0 then restrict (decode16 (w % 2 ^ 16)) else restrict (decode32 (w % 2 ^ 32))

/-- Decode the instruction at the head of a list of bytes, and give the rest: total on any bytes. -/
noncomputable def decode : List Byte → Except DecodeError (Instr × List Byte)
  | b0 :: b1 :: rest =>
    if b0.toNat % 2 = 0 then
      (decodeBits (leNat [b0, b1])).map (·, rest)
    else
      match rest with
      | b2 :: b3 :: rest' => (decodeBits (leNat [b0, b1, b2, b3])).map (·, rest')
      | _ => .error .truncated
  | _ => .error .truncated

/-- The bits of an encoded instruction as one number, bit 0 lowest: the inverse of the decoder, written from the same tables
(R53, R59, R60 and each entry's encoding). An event has no encoding; it answers 0. -/
def Instr.word : Instr → Nat
  | .add p d a b sc => 0x1 + p.toNat * 0x2000000 + d.toNat * 0x400 + a.toNat * 0x8000 + b.toNat * 0x100000 + sc.toNat * 0x2
  | .sub p d a b sc => 0x10000001 + p.toNat * 0x2000000 + d.toNat * 0x400 + a.toNat * 0x8000 + b.toNat * 0x100000 + sc.toNat * 0x2
  | .mul p d a b sc => 0x20000001 + p.toNat * 0x2000000 + d.toNat * 0x400 + a.toNat * 0x8000 + b.toNat * 0x100000 + sc.toNat * 0x2
  | .mulh p d a b sc => 0x30000001 + p.toNat * 0x2000000 + d.toNat * 0x400 + a.toNat * 0x8000 + b.toNat * 0x100000 + sc.toNat * 0x2
  | .mulhN p d a b sc => 0x40000001 + p.toNat * 0x2000000 + d.toNat * 0x400 + a.toNat * 0x8000 + b.toNat * 0x100000 + sc.toNat * 0x2
  | .div p d a b sc => 0x50000001 + p.toNat * 0x2000000 + d.toNat * 0x400 + a.toNat * 0x8000 + b.toNat * 0x100000 + sc.toNat * 0x2
  | .divN p d a b sc => 0x60000001 + p.toNat * 0x2000000 + d.toNat * 0x400 + a.toNat * 0x8000 + b.toNat * 0x100000 + sc.toNat * 0x2
  | .rem p d a b sc => 0x70000001 + p.toNat * 0x2000000 + d.toNat * 0x400 + a.toNat * 0x8000 + b.toNat * 0x100000 + sc.toNat * 0x2
  | .remN p d a b sc => 0x80000001 + p.toNat * 0x2000000 + d.toNat * 0x400 + a.toNat * 0x8000 + b.toNat * 0x100000 + sc.toNat * 0x2
  | .and p d a b sc => 0x90000001 + p.toNat * 0x2000000 + d.toNat * 0x400 + a.toNat * 0x8000 + b.toNat * 0x100000 + sc.toNat * 0x2
  | .or p d a b sc => 0xa0000001 + p.toNat * 0x2000000 + d.toNat * 0x400 + a.toNat * 0x8000 + b.toNat * 0x100000 + sc.toNat * 0x2
  | .xor p d a b sc => 0xb0000001 + p.toNat * 0x2000000 + d.toNat * 0x400 + a.toNat * 0x8000 + b.toNat * 0x100000 + sc.toNat * 0x2
  | .andn p d a b sc => 0xc0000001 + p.toNat * 0x2000000 + d.toNat * 0x400 + a.toNat * 0x8000 + b.toNat * 0x100000 + sc.toNat * 0x2
  | .min p d a b sc => 0xd0000001 + p.toNat * 0x2000000 + d.toNat * 0x400 + a.toNat * 0x8000 + b.toNat * 0x100000 + sc.toNat * 0x2
  | .max p d a b sc => 0xe0000001 + p.toNat * 0x2000000 + d.toNat * 0x400 + a.toNat * 0x8000 + b.toNat * 0x100000 + sc.toNat * 0x2
  | .minN p d a b sc => 0x11 + p.toNat * 0x2000000 + d.toNat * 0x400 + a.toNat * 0x8000 + b.toNat * 0x100000 + sc.toNat * 0x2
  | .maxN p d a b sc => 0x10000011 + p.toNat * 0x2000000 + d.toNat * 0x400 + a.toNat * 0x8000 + b.toNat * 0x100000 + sc.toNat * 0x2
  | .shl p d a b sc => 0x20000011 + p.toNat * 0x2000000 + d.toNat * 0x400 + a.toNat * 0x8000 + b.toNat * 0x100000 + sc.toNat * 0x2
  | .shr p d a b sc => 0x30000011 + p.toNat * 0x2000000 + d.toNat * 0x400 + a.toNat * 0x8000 + b.toNat * 0x100000 + sc.toNat * 0x2
  | .sra p d a b sc => 0x40000011 + p.toNat * 0x2000000 + d.toNat * 0x400 + a.toNat * 0x8000 + b.toNat * 0x100000 + sc.toNat * 0x2
  | .rot p d a b sc => 0x50000011 + p.toNat * 0x2000000 + d.toNat * 0x400 + a.toNat * 0x8000 + b.toNat * 0x100000 + sc.toNat * 0x2
  | .clz p d a sc => 0x60000011 + p.toNat * 0x2000000 + d.toNat * 0x400 + a.toNat * 0x8000 + sc.toNat * 0x2
  | .ctz p d a sc => 0x70000011 + p.toNat * 0x2000000 + d.toNat * 0x400 + a.toNat * 0x8000 + sc.toNat * 0x2
  | .popc p d a sc => 0x80000011 + p.toNat * 0x2000000 + d.toNat * 0x400 + a.toNat * 0x8000 + sc.toNat * 0x2
  | .taz p d a b sc => 0x90000011 + p.toNat * 0x2000000 + d.toNat * 0x400 + a.toNat * 0x8000 + b.toNat * 0x100000 + sc.toNat * 0x2
  | .tax p d a sc => 0xa0000011 + p.toNat * 0x2000000 + d.toNat * 0x400 + a.toNat * 0x8000 + sc.toNat * 0x2
  | .tadepth p d a sc => 0xb0000011 + p.toNat * 0x2000000 + d.toNat * 0x400 + a.toNat * 0x8000 + sc.toNat * 0x2
  | .tanb p d a b sc => 0xc0000011 + p.toNat * 0x2000000 + d.toNat * 0x400 + a.toNat * 0x8000 + b.toNat * 0x100000 + sc.toNat * 0x2
  | .taup p d a b sc => 0xd0000011 + p.toNat * 0x2000000 + d.toNat * 0x400 + a.toNat * 0x8000 + b.toNat * 0x100000 + sc.toNat * 0x2
  | .tadown p d a b sc => 0xe0000011 + p.toNat * 0x2000000 + d.toNat * 0x400 + a.toNat * 0x8000 + b.toNat * 0x100000 + sc.toNat * 0x2
  | .sel d a b k sc => 0xf0000011 + d.toNat * 0x400 + a.toNat * 0x8000 + b.toNat * 0x100000 + k.toNat * 0x2000000 + sc.toNat * 0x2
  | .cmpEq p d a b sc => 0x21 + p.toNat * 0x2000000 + d.toNat * 0x400 + a.toNat * 0x8000 + b.toNat * 0x100000 + sc.toNat * 0x2
  | .cmpNe p d a b sc => 0x10000021 + p.toNat * 0x2000000 + d.toNat * 0x400 + a.toNat * 0x8000 + b.toNat * 0x100000 + sc.toNat * 0x2
  | .cmpLt p d a b sc => 0x20000021 + p.toNat * 0x2000000 + d.toNat * 0x400 + a.toNat * 0x8000 + b.toNat * 0x100000 + sc.toNat * 0x2
  | .cmpGe p d a b sc => 0x30000021 + p.toNat * 0x2000000 + d.toNat * 0x400 + a.toNat * 0x8000 + b.toNat * 0x100000 + sc.toNat * 0x2
  | .cmpLtu p d a b sc => 0x40000021 + p.toNat * 0x2000000 + d.toNat * 0x400 + a.toNat * 0x8000 + b.toNat * 0x100000 + sc.toNat * 0x2
  | .cmpGeu p d a b sc => 0x50000021 + p.toNat * 0x2000000 + d.toNat * 0x400 + a.toNat * 0x8000 + b.toNat * 0x100000 + sc.toNat * 0x2
  | .cmpAny p d a b sc => 0x60000021 + p.toNat * 0x2000000 + d.toNat * 0x400 + a.toNat * 0x8000 + b.toNat * 0x100000 + sc.toNat * 0x2
  | .cmpNone p d a b sc => 0x70000021 + p.toNat * 0x2000000 + d.toNat * 0x400 + a.toNat * 0x8000 + b.toNat * 0x100000 + sc.toNat * 0x2
  | .addImm12 d a i sc => 0x31 + d.toNat * 0x400 + a.toNat * 0x8000 + i.toNat * 0x100000 + sc.toNat * 0x2
  | .andImm d a i sc => 0x41 + d.toNat * 0x400 + a.toNat * 0x8000 + i.toNat * 0x100000 + sc.toNat * 0x2
  | .orImm d a i sc => 0x10000041 + d.toNat * 0x400 + a.toNat * 0x8000 + i.toNat * 0x100000 + sc.toNat * 0x2
  | .xorImm d a i sc => 0x20000041 + d.toNat * 0x400 + a.toNat * 0x8000 + i.toNat * 0x100000 + sc.toNat * 0x2
  | .andnImm d a i sc => 0x30000041 + d.toNat * 0x400 + a.toNat * 0x8000 + i.toNat * 0x100000 + sc.toNat * 0x2
  | .shlImm d a i sc => 0x40000041 + d.toNat * 0x400 + a.toNat * 0x8000 + i.toNat * 0x100000 + sc.toNat * 0x2
  | .shrImm d a i sc => 0x50000041 + d.toNat * 0x400 + a.toNat * 0x8000 + i.toNat * 0x100000 + sc.toNat * 0x2
  | .sraImm d a i sc => 0x60000041 + d.toNat * 0x400 + a.toNat * 0x8000 + i.toNat * 0x100000 + sc.toNat * 0x2
  | .rotImm d a i sc => 0x70000041 + d.toNat * 0x400 + a.toNat * 0x8000 + i.toNat * 0x100000 + sc.toNat * 0x2
  | .mulImm d a i sc => 0x80000041 + d.toNat * 0x400 + a.toNat * 0x8000 + i.toNat * 0x100000 + sc.toNat * 0x2
  | .minImm d a i sc => 0x90000041 + d.toNat * 0x400 + a.toNat * 0x8000 + i.toNat * 0x100000 + sc.toNat * 0x2
  | .maxImm d a i sc => 0xa0000041 + d.toNat * 0x400 + a.toNat * 0x8000 + i.toNat * 0x100000 + sc.toNat * 0x2
  | .minNImm d a i sc => 0xb0000041 + d.toNat * 0x400 + a.toNat * 0x8000 + i.toNat * 0x100000 + sc.toNat * 0x2
  | .maxNImm d a i sc => 0xc0000041 + d.toNat * 0x400 + a.toNat * 0x8000 + i.toNat * 0x100000 + sc.toNat * 0x2
  | .taupImm d a i sc => 0xd0000041 + d.toNat * 0x400 + a.toNat * 0x8000 + i.toNat * 0x100000 + sc.toNat * 0x2
  | .tadownImm d a i sc => 0xe0000041 + d.toNat * 0x400 + a.toNat * 0x8000 + i.toNat * 0x100000 + sc.toNat * 0x2
  | .fsh d a b c sc => 0x51 + d.toNat * 0x400 + a.toNat * 0x8000 + b.toNat * 0x100000 + c.toNat * 0x2000000 + sc.toNat * 0x2
  | .bfx d a b c sc => 0x40000051 + d.toNat * 0x400 + a.toNat * 0x8000 + b.toNat * 0x100000 + c.toNat * 0x2000000 + sc.toNat * 0x2
  | .bfxs d a b c sc => 0x80000051 + d.toNat * 0x400 + a.toNat * 0x8000 + b.toNat * 0x100000 + c.toNat * 0x2000000 + sc.toNat * 0x2
  | .bfi d a b c sc => 0xc0000051 + d.toNat * 0x400 + a.toNat * 0x8000 + b.toNat * 0x100000 + c.toNat * 0x2000000 + sc.toNat * 0x2
  | .bfxImm d a w o sc => 0x61 + d.toNat * 0x400 + a.toNat * 0x8000 + w.toNat * 0x4000000 + o.toNat * 0x100000 + sc.toNat * 0x2
  | .lui d i sc => 0x71 + d.toNat * 0x400 + i.toNat * 0x8000 + sc.toNat * 0x2
  | .bra o sc => 0x81 + o.toNat * 0x400 + sc.toNat * 0x2
  | .call o sc => 0x91 + o.toNat * 0x400 + sc.toNat * 0x2
  | .bcEq a b o sc => 0xa1 + a.toNat * 0x400 + b.toNat * 0x8000 + o.toNat * 0x800000 + sc.toNat * 0x2
  | .bcNe a b o sc => 0x1000a1 + a.toNat * 0x400 + b.toNat * 0x8000 + o.toNat * 0x800000 + sc.toNat * 0x2
  | .bcLt a b o sc => 0x2000a1 + a.toNat * 0x400 + b.toNat * 0x8000 + o.toNat * 0x800000 + sc.toNat * 0x2
  | .bcGe a b o sc => 0x3000a1 + a.toNat * 0x400 + b.toNat * 0x8000 + o.toNat * 0x800000 + sc.toNat * 0x2
  | .bcLtu a b o sc => 0x4000a1 + a.toNat * 0x400 + b.toNat * 0x8000 + o.toNat * 0x800000 + sc.toNat * 0x2
  | .bcGeu a b o sc => 0x5000a1 + a.toNat * 0x400 + b.toNat * 0x8000 + o.toNat * 0x800000 + sc.toNat * 0x2
  | .bcAny a b o sc => 0x6000a1 + a.toNat * 0x400 + b.toNat * 0x8000 + o.toNat * 0x800000 + sc.toNat * 0x2
  | .bcNone a b o sc => 0x7000a1 + a.toNat * 0x400 + b.toNat * 0x8000 + o.toNat * 0x800000 + sc.toNat * 0x2
  | .loop a l e sc => 0xb1 + a.toNat * 0x8000 + l.toNat * 0x400 + e.toNat * 0x100000 + sc.toNat * 0x2
  | .ret a sc => 0xc1 + a.toNat * 0x8000 + sc.toNat * 0x2
  | .callr d a sc => 0x100000c1 + d.toNat * 0x400 + a.toNat * 0x8000 + sc.toNat * 0x2
  | .jt a b sc => 0x200000c1 + a.toNat * 0x8000 + b.toNat * 0x100000 + sc.toNat * 0x2
  | .isync sc => 0x300000c1 + sc.toNat * 0x2
  | .halt sc => 0x400000c1 + sc.toNat * 0x2
  | .rft sc => 0x500000c1 + sc.toNat * 0x2
  | .align k sc => 0xd1 + k.toNat * 0x100000 + sc.toNat * 0x2
  | .prio c sc => 0x100000d1 + c.toNat * 0x100000 + sc.toNat * 0x2
  | .trap k sc => 0x200000d1 + k.toNat * 0x100000 + sc.toNat * 0x2
  | .mfc d n sc => 0xf1 + d.toNat * 0x400 + n.toNat * 0x100000 + sc.toNat * 0x2
  | .mtc a n sc => 0xf1 + a.toNat * 0x8000 + n.toNat * 0x100000 + sc.toNat * 0x2
  | .mxc d a n sc => 0xf1 + d.toNat * 0x400 + a.toNat * 0x8000 + n.toNat * 0x100000 + sc.toNat * 0x2
  | .mov d a => 0x2 + d.toNat * 0x40 + a.toNat * 0x800
  | .add16 d a => 0x4 + d.toNat * 0x40 + a.toNat * 0x800
  | .sub16 d a => 0x6 + d.toNat * 0x40 + a.toNat * 0x800
  | .and16 d a => 0x8 + d.toNat * 0x40 + a.toNat * 0x800
  | .or16 d a => 0xa + d.toNat * 0x40 + a.toNat * 0x800
  | .xor16 d a => 0xc + d.toNat * 0x40 + a.toNat * 0x800
  | .li d i => 0xe + d.toNat * 0x40 + i.toNat * 0x800
  | .addImm5 d i => 0x10 + d.toNat * 0x40 + i.toNat * 0x800
  | .shl16 d i => 0x12 + d.toNat * 0x40 + i.toNat * 0x800
  | .shr16 d i => 0x14 + d.toNat * 0x40 + i.toNat * 0x800
  | .sra16 d i => 0x16 + d.toNat * 0x40 + i.toNat * 0x800
  | .ret16 a => 0x18 + a.toNat * 0x800
  | .nop => 0x1a
  | .halt16 => 0x1c
  | .bbinit a b sc => 0x3c1 + a.toNat * 0x8000 + b.toNat * 0x100000 + sc.toNat * 0x2
  | .bbpeek d a sc => 0x100003c1 + d.toNat * 0x400 + a.toNat * 0x8000 + sc.toNat * 0x2
  | .bbtake d a sc => 0x200003c1 + d.toNat * 0x400 + a.toNat * 0x8000 + sc.toNat * 0x2
  | .bbskip a sc => 0x300003c1 + a.toNat * 0x8000 + sc.toNat * 0x2
  | .bbfill sc => 0x400003c1 + sc.toNat * 0x2
  | .ld d a z o sc => 0x101 + d.toNat * 0x400 + a.toNat * 0x8000 + z.toNat * 0x40000000 + o.toNat * 0x100000 + sc.toNat * 0x2
  | .ldSx d a z o sc => 0x111 + d.toNat * 0x400 + a.toNat * 0x8000 + z.toNat * 0x40000000 + o.toNat * 0x100000 + sc.toNat * 0x2
  | .st d a z o sc => 0x121 + d.toNat * 0x400 + a.toNat * 0x8000 + z.toNat * 0x40000000 + o.toNat * 0x100000 + sc.toNat * 0x2
  | .ldAcq d a c z o sc => 0x131 + d.toNat * 0x400 + a.toNat * 0x8000 + c.toNat * 0x10000000 + z.toNat * 0x4000000 + o.toNat * 0x100000 + sc.toNat * 0x2
  | .stRel d a c z o sc => 0x80000131 + d.toNat * 0x400 + a.toNat * 0x8000 + c.toNat * 0x10000000 + z.toNat * 0x4000000 + o.toNat * 0x100000 + sc.toNat * 0x2
  | .vld d a o sc => 0x141 + d.toNat * 0x400 + a.toNat * 0x8000 + o.toNat * 0x100000 + sc.toNat * 0x2
  | .vst d a o sc => 0x40000141 + d.toNat * 0x400 + a.toNat * 0x8000 + o.toNat * 0x100000 + sc.toNat * 0x2
  | .vldtRaw d a b k sc => 0x151 + d.toNat * 0x400 + a.toNat * 0x8000 + b.toNat * 0x100000 + k.toNat * 0x2000000 + sc.toNat * 0x2
  | .ldtMap d a b k sc => 0x161 + d.toNat * 0x400 + a.toNat * 0x8000 + b.toNat * 0x100000 + k.toNat * 0x2000000 + sc.toNat * 0x2
  | .ldtTa d a sc => 0x20000161 + d.toNat * 0x400 + a.toNat * 0x8000 + sc.toNat * 0x2
  | .sttMap d a b k sc => 0x40000161 + d.toNat * 0x400 + a.toNat * 0x8000 + b.toNat * 0x100000 + k.toNat * 0x2000000 + sc.toNat * 0x2
  | .sttTa d a sc => 0x60000161 + d.toNat * 0x400 + a.toNat * 0x8000 + sc.toNat * 0x2
  | .vldtMap d a b k sc => 0x80000161 + d.toNat * 0x400 + a.toNat * 0x8000 + b.toNat * 0x100000 + k.toNat * 0x2000000 + sc.toNat * 0x2
  | .vldtTa d a sc => 0xa0000161 + d.toNat * 0x400 + a.toNat * 0x8000 + sc.toNat * 0x2
  | .vsttMap d a b k sc => 0xc0000161 + d.toNat * 0x400 + a.toNat * 0x8000 + b.toNat * 0x100000 + k.toNat * 0x2000000 + sc.toNat * 0x2
  | .vsttTa d a sc => 0xe0000161 + d.toNat * 0x400 + a.toNat * 0x8000 + sc.toNat * 0x2
  | .bcopy d a b sc => 0x171 + d.toNat * 0x400 + a.toNat * 0x8000 + b.toNat * 0x100000 + sc.toNat * 0x2
  | .bfill d a b sc => 0x10000171 + d.toNat * 0x400 + a.toNat * 0x8000 + b.toNat * 0x100000 + sc.toNat * 0x2
  | .bzero d a b sc => 0x20000171 + d.toNat * 0x400 + a.toNat * 0x8000 + b.toNat * 0x100000 + sc.toNat * 0x2
  | .pftLift d a b sc => 0x30000171 + d.toNat * 0x400 + a.toNat * 0x8000 + b.toNat * 0x100000 + sc.toNat * 0x2
  | .pftDrop d a b sc => 0x40000171 + d.toNat * 0x400 + a.toNat * 0x8000 + b.toNat * 0x100000 + sc.toNat * 0x2
  | .fship d a b sc => 0x50000171 + d.toNat * 0x400 + a.toNat * 0x8000 + b.toNat * 0x100000 + sc.toNat * 0x2
  | .vgath p d a b sc => 0x60000171 + p.toNat * 0x2000000 + d.toNat * 0x400 + a.toNat * 0x8000 + b.toNat * 0x100000 + sc.toNat * 0x2
  | .vscat p d a b sc => 0x70000171 + p.toNat * 0x2000000 + d.toNat * 0x400 + a.toNat * 0x8000 + b.toNat * 0x100000 + sc.toNat * 0x2
  | .guard a b sc => 0x80000171 + a.toNat * 0x8000 + b.toNat * 0x100000 + sc.toNat * 0x2
  | .unguard a b sc => 0x90000171 + a.toNat * 0x8000 + b.toNat * 0x100000 + sc.toNat * 0x2
  | .tmld d a sc => 0xa0000171 + d.toNat * 0x400 + a.toNat * 0x8000 + sc.toNat * 0x2
  | .tmst d a sc => 0xb0000171 + d.toNat * 0x400 + a.toNat * 0x8000 + sc.toNat * 0x2
  | .send r a b c n sc => 0x181 + r.toNat * 0x80000000 + a.toNat * 0x400 + b.toNat * 0x8000 + c.toNat * 0x100000 + n.toNat * 0x10000000 + sc.toNat * 0x2
  | .deposit a b sc => 0x191 + a.toNat * 0x8000 + b.toNat * 0x100000 + sc.toNat * 0x2
  | .dset r a b l sc => 0x10000191 + r.toNat * 0x8000000 + a.toNat * 0x8000 + b.toNat * 0x100000 + l.toNat * 0x2000000 + sc.toNat * 0x2
  | .dget d a sc => 0x20000191 + d.toNat * 0x400 + a.toNat * 0x8000 + sc.toNat * 0x2
  | .mbxcfg a sc => 0x30000191 + a.toNat * 0x8000 + sc.toNat * 0x2
  | .amoAdd d a b z sc => 0x1a1 + d.toNat * 0x400 + a.toNat * 0x8000 + b.toNat * 0x100000 + z.toNat * 0x2000000 + sc.toNat * 0x2
  | .amoMin d a b z sc => 0x100001a1 + d.toNat * 0x400 + a.toNat * 0x8000 + b.toNat * 0x100000 + z.toNat * 0x2000000 + sc.toNat * 0x2
  | .amoMax d a b z sc => 0x200001a1 + d.toNat * 0x400 + a.toNat * 0x8000 + b.toNat * 0x100000 + z.toNat * 0x2000000 + sc.toNat * 0x2
  | .amoAnd d a b z sc => 0x300001a1 + d.toNat * 0x400 + a.toNat * 0x8000 + b.toNat * 0x100000 + z.toNat * 0x2000000 + sc.toNat * 0x2
  | .amoOr d a b z sc => 0x400001a1 + d.toNat * 0x400 + a.toNat * 0x8000 + b.toNat * 0x100000 + z.toNat * 0x2000000 + sc.toNat * 0x2
  | .amoXor d a b z sc => 0x500001a1 + d.toNat * 0x400 + a.toNat * 0x8000 + b.toNat * 0x100000 + z.toNat * 0x2000000 + sc.toNat * 0x2
  | .amoSwap d a b z sc => 0x600001a1 + d.toNat * 0x400 + a.toNat * 0x8000 + b.toNat * 0x100000 + z.toNat * 0x2000000 + sc.toNat * 0x2
  | .amoCas d a b z sc => 0x700001a1 + d.toNat * 0x400 + a.toNat * 0x8000 + b.toNat * 0x100000 + z.toNat * 0x2000000 + sc.toNat * 0x2
  | .amoMinN d a b z sc => 0x800001a1 + d.toNat * 0x400 + a.toNat * 0x8000 + b.toNat * 0x100000 + z.toNat * 0x2000000 + sc.toNat * 0x2
  | .amoMaxN d a b z sc => 0x900001a1 + d.toNat * 0x400 + a.toNat * 0x8000 + b.toNat * 0x100000 + z.toNat * 0x2000000 + sc.toNat * 0x2
  | .salloc d sc => 0x1b1 + d.toNat * 0x400 + sc.toNat * 0x2
  | .sfree a sc => 0x100001b1 + a.toNat * 0x8000 + sc.toNat * 0x2
  | .bar d a b sc => 0x200001b1 + d.toNat * 0x400 + a.toNat * 0x8000 + b.toNat * 0x100000 + sc.toNat * 0x2
  | .barrive a b sc => 0x300001b1 + a.toNat * 0x8000 + b.toNat * 0x100000 + sc.toNat * 0x2
  | .bcancel a sc => 0x400001b1 + a.toNat * 0x8000 + sc.toNat * 0x2
  | .lock a sc => 0x500001b1 + a.toNat * 0x8000 + sc.toNat * 0x2
  | .unlock a sc => 0x600001b1 + a.toNat * 0x8000 + sc.toNat * 0x2
  | .waitv a b sc => 0x700001b1 + a.toNat * 0x8000 + b.toNat * 0x100000 + sc.toNat * 0x2
  | .phopen a sc => 0x1c1 + a.toNat * 0x8000 + sc.toNat * 0x2
  | .phset a sc => 0x100001c1 + a.toNat * 0x8000 + sc.toNat * 0x2
  | .phend a sc => 0x200001c1 + a.toNat * 0x8000 + sc.toNat * 0x2
  | .phwait a sc => 0x300001c1 + a.toNat * 0x8000 + sc.toNat * 0x2
  | .stv d a b sc => 0x1d1 + d.toNat * 0x400 + a.toNat * 0x8000 + b.toNat * 0x100000 + sc.toNat * 0x2
  | .ldv d a b sc => 0x100001d1 + d.toNat * 0x400 + a.toNat * 0x8000 + b.toNat * 0x100000 + sc.toNat * 0x2
  | .recl a b sc => 0x200001d1 + a.toNat * 0x8000 + b.toNat * 0x100000 + sc.toNat * 0x2
  | .fenceLd c sc => 0x1e1 + c.toNat * 0x2000000 + sc.toNat * 0x2
  | .fenceSt c sc => 0x100001e1 + c.toNat * 0x2000000 + sc.toNat * 0x2
  | .fenceAll c sc => 0x200001e1 + c.toNat * 0x2000000 + sc.toNat * 0x2
  | .vadd p d a b m sc => 0x201 + p.toNat * 0x2000000 + d.toNat * 0x400 + a.toNat * 0x8000 + b.toNat * 0x100000 + m.toNat * 0x10 + sc.toNat * 0x2
  | .vsub p d a b m sc => 0x10000201 + p.toNat * 0x2000000 + d.toNat * 0x400 + a.toNat * 0x8000 + b.toNat * 0x100000 + m.toNat * 0x10 + sc.toNat * 0x2
  | .vmul p d a b m sc => 0x20000201 + p.toNat * 0x2000000 + d.toNat * 0x400 + a.toNat * 0x8000 + b.toNat * 0x100000 + m.toNat * 0x10 + sc.toNat * 0x2
  | .vfma p d a b m sc => 0x30000201 + p.toNat * 0x2000000 + d.toNat * 0x400 + a.toNat * 0x8000 + b.toNat * 0x100000 + m.toNat * 0x10 + sc.toNat * 0x2
  | .vfms p d a b m sc => 0x40000201 + p.toNat * 0x2000000 + d.toNat * 0x400 + a.toNat * 0x8000 + b.toNat * 0x100000 + m.toNat * 0x10 + sc.toNat * 0x2
  | .vdiv p d a b m sc => 0x50000201 + p.toNat * 0x2000000 + d.toNat * 0x400 + a.toNat * 0x8000 + b.toNat * 0x100000 + m.toNat * 0x10 + sc.toNat * 0x2
  | .vsqrt p d a m sc => 0x60000201 + p.toNat * 0x2000000 + d.toNat * 0x400 + a.toNat * 0x8000 + m.toNat * 0x10 + sc.toNat * 0x2
  | .vaddSat p d a b m sc => 0x70000201 + p.toNat * 0x2000000 + d.toNat * 0x400 + a.toNat * 0x8000 + b.toNat * 0x100000 + m.toNat * 0x10 + sc.toNat * 0x2
  | .vsubSat p d a b m sc => 0x80000201 + p.toNat * 0x2000000 + d.toNat * 0x400 + a.toNat * 0x8000 + b.toNat * 0x100000 + m.toNat * 0x10 + sc.toNat * 0x2
  | .vmulSat p d a b m sc => 0x90000201 + p.toNat * 0x2000000 + d.toNat * 0x400 + a.toNat * 0x8000 + b.toNat * 0x100000 + m.toNat * 0x10 + sc.toNat * 0x2
  | .vfmaSat p d a b m sc => 0xa0000201 + p.toNat * 0x2000000 + d.toNat * 0x400 + a.toNat * 0x8000 + b.toNat * 0x100000 + m.toNat * 0x10 + sc.toNat * 0x2
  | .vaddNSat p d a b m sc => 0xb0000201 + p.toNat * 0x2000000 + d.toNat * 0x400 + a.toNat * 0x8000 + b.toNat * 0x100000 + m.toNat * 0x10 + sc.toNat * 0x2
  | .vsubNSat p d a b m sc => 0xc0000201 + p.toNat * 0x2000000 + d.toNat * 0x400 + a.toNat * 0x8000 + b.toNat * 0x100000 + m.toNat * 0x10 + sc.toNat * 0x2
  | .vmin p d a b sc => 0x241 + p.toNat * 0x2000000 + d.toNat * 0x400 + a.toNat * 0x8000 + b.toNat * 0x100000 + sc.toNat * 0x2
  | .vmax p d a b sc => 0x10000241 + p.toNat * 0x2000000 + d.toNat * 0x400 + a.toNat * 0x8000 + b.toNat * 0x100000 + sc.toNat * 0x2
  | .vminN p d a b sc => 0x20000241 + p.toNat * 0x2000000 + d.toNat * 0x400 + a.toNat * 0x8000 + b.toNat * 0x100000 + sc.toNat * 0x2
  | .vmaxN p d a b sc => 0x30000241 + p.toNat * 0x2000000 + d.toNat * 0x400 + a.toNat * 0x8000 + b.toNat * 0x100000 + sc.toNat * 0x2
  | .vabs p d a sc => 0x40000241 + p.toNat * 0x2000000 + d.toNat * 0x400 + a.toNat * 0x8000 + sc.toNat * 0x2
  | .vneg p d a sc => 0x50000241 + p.toNat * 0x2000000 + d.toNat * 0x400 + a.toNat * 0x8000 + sc.toNat * 0x2
  | .vand p d a b sc => 0x60000241 + p.toNat * 0x2000000 + d.toNat * 0x400 + a.toNat * 0x8000 + b.toNat * 0x100000 + sc.toNat * 0x2
  | .vor p d a b sc => 0x70000241 + p.toNat * 0x2000000 + d.toNat * 0x400 + a.toNat * 0x8000 + b.toNat * 0x100000 + sc.toNat * 0x2
  | .vxor p d a b sc => 0x80000241 + p.toNat * 0x2000000 + d.toNat * 0x400 + a.toNat * 0x8000 + b.toNat * 0x100000 + sc.toNat * 0x2
  | .vshl p d a b sc => 0x90000241 + p.toNat * 0x2000000 + d.toNat * 0x400 + a.toNat * 0x8000 + b.toNat * 0x100000 + sc.toNat * 0x2
  | .vshr p d a b sc => 0xa0000241 + p.toNat * 0x2000000 + d.toNat * 0x400 + a.toNat * 0x8000 + b.toNat * 0x100000 + sc.toNat * 0x2
  | .vsra p d a b sc => 0xb0000241 + p.toNat * 0x2000000 + d.toNat * 0x400 + a.toNat * 0x8000 + b.toNat * 0x100000 + sc.toNat * 0x2
  | .vmov p d a sc => 0xc0000241 + p.toNat * 0x2000000 + d.toNat * 0x400 + a.toNat * 0x8000 + sc.toNat * 0x2
  | .vtag d a t sc => 0xd0000241 + d.toNat * 0x400 + a.toNat * 0x8000 + t.toNat * 0x100000 + sc.toNat * 0x2
  | .vbcast p d a t sc => 0xe0000241 + p.toNat * 0x2000000 + d.toNat * 0x400 + a.toNat * 0x8000 + t.toNat * 0x100000 + sc.toNat * 0x2
  | .vcmpEq p d a b sc => 0x251 + p.toNat * 0x2000000 + d.toNat * 0x400 + a.toNat * 0x8000 + b.toNat * 0x100000 + sc.toNat * 0x2
  | .vcmpNe p d a b sc => 0x10000251 + p.toNat * 0x2000000 + d.toNat * 0x400 + a.toNat * 0x8000 + b.toNat * 0x100000 + sc.toNat * 0x2
  | .vcmpLt p d a b sc => 0x20000251 + p.toNat * 0x2000000 + d.toNat * 0x400 + a.toNat * 0x8000 + b.toNat * 0x100000 + sc.toNat * 0x2
  | .vcmpGe p d a b sc => 0x30000251 + p.toNat * 0x2000000 + d.toNat * 0x400 + a.toNat * 0x8000 + b.toNat * 0x100000 + sc.toNat * 0x2
  | .vcmpLe p d a b sc => 0x40000251 + p.toNat * 0x2000000 + d.toNat * 0x400 + a.toNat * 0x8000 + b.toNat * 0x100000 + sc.toNat * 0x2
  | .vcmpGt p d a b sc => 0x50000251 + p.toNat * 0x2000000 + d.toNat * 0x400 + a.toNat * 0x8000 + b.toNat * 0x100000 + sc.toNat * 0x2
  | .vcmpUn p d a b sc => 0x60000251 + p.toNat * 0x2000000 + d.toNat * 0x400 + a.toNat * 0x8000 + b.toNat * 0x100000 + sc.toNat * 0x2
  | .vcmpOrd p d a b sc => 0x70000251 + p.toNat * 0x2000000 + d.toNat * 0x400 + a.toNat * 0x8000 + b.toNat * 0x100000 + sc.toNat * 0x2
  | .vcmpLtN p d a b sc => 0x80000251 + p.toNat * 0x2000000 + d.toNat * 0x400 + a.toNat * 0x8000 + b.toNat * 0x100000 + sc.toNat * 0x2
  | .vcmpGeN p d a b sc => 0x90000251 + p.toNat * 0x2000000 + d.toNat * 0x400 + a.toNat * 0x8000 + b.toNat * 0x100000 + sc.toNat * 0x2
  | .vcmpLeN p d a b sc => 0xa0000251 + p.toNat * 0x2000000 + d.toNat * 0x400 + a.toNat * 0x8000 + b.toNat * 0x100000 + sc.toNat * 0x2
  | .vcmpGtN p d a b sc => 0xb0000251 + p.toNat * 0x2000000 + d.toNat * 0x400 + a.toNat * 0x8000 + b.toNat * 0x100000 + sc.toNat * 0x2
  | .vcvt p d a m t sc => 0x261 + p.toNat * 0x2000000 + d.toNat * 0x400 + a.toNat * 0x8000 + m.toNat * 0x10000000 + t.toNat * 0x100000 + sc.toNat * 0x2
  | .vredSum p d a sc => 0x271 + p.toNat * 0x2000000 + d.toNat * 0x400 + a.toNat * 0x8000 + sc.toNat * 0x2
  | .vredMin p d a sc => 0x10000271 + p.toNat * 0x2000000 + d.toNat * 0x400 + a.toNat * 0x8000 + sc.toNat * 0x2
  | .vredMax p d a sc => 0x20000271 + p.toNat * 0x2000000 + d.toNat * 0x400 + a.toNat * 0x8000 + sc.toNat * 0x2
  | .vredAnd p d a sc => 0x30000271 + p.toNat * 0x2000000 + d.toNat * 0x400 + a.toNat * 0x8000 + sc.toNat * 0x2
  | .vredOr p d a sc => 0x40000271 + p.toNat * 0x2000000 + d.toNat * 0x400 + a.toNat * 0x8000 + sc.toNat * 0x2
  | .vredMinN p d a sc => 0x50000271 + p.toNat * 0x2000000 + d.toNat * 0x400 + a.toNat * 0x8000 + sc.toNat * 0x2
  | .vredMaxN p d a sc => 0x60000271 + p.toNat * 0x2000000 + d.toNat * 0x400 + a.toNat * 0x8000 + sc.toNat * 0x2
  | .vperm p d a b sc => 0x70000271 + p.toNat * 0x2000000 + d.toNat * 0x400 + a.toNat * 0x8000 + b.toNat * 0x100000 + sc.toNat * 0x2
  | .vslide p d a b sc => 0x80000271 + p.toNat * 0x2000000 + d.toNat * 0x400 + a.toNat * 0x8000 + b.toNat * 0x100000 + sc.toNat * 0x2
  | .vcompress p d a sc => 0x90000271 + p.toNat * 0x2000000 + d.toNat * 0x400 + a.toNat * 0x8000 + sc.toNat * 0x2
  | .vgl p d a sc => 0xa0000271 + p.toNat * 0x2000000 + d.toNat * 0x400 + a.toNat * 0x8000 + sc.toNat * 0x2
  | .vsel d a b k sc => 0xb0000271 + d.toNat * 0x400 + a.toNat * 0x8000 + b.toNat * 0x100000 + k.toNat * 0x2000000 + sc.toNat * 0x2
  | .vcx d j k sc => 0x281 + d.toNat * 0x400 + j.toNat * 0x8000 + k.toNat * 0x100000 + sc.toNat * 0x2
  | .vdistDot d a b q sc => 0x10000281 + d.toNat * 0x400 + a.toNat * 0x8000 + b.toNat * 0x100000 + q.toNat * 0x2000000 + sc.toNat * 0x2
  | .vdistL2 d a b q sc => 0x20000281 + d.toNat * 0x400 + a.toNat * 0x8000 + b.toNat * 0x100000 + q.toNat * 0x2000000 + sc.toNat * 0x2
  | .vchol8 d a k sc => 0x291 + d.toNat * 0x400 + a.toNat * 0x8000 + k.toNat * 0x2000000 + sc.toNat * 0x2
  | .vtrs8 d a b sc => 0x10000291 + d.toNat * 0x400 + a.toNat * 0x8000 + b.toNat * 0x100000 + sc.toNat * 0x2
  | .pand d a b sc => 0x2a1 + d.toNat * 0x400 + a.toNat * 0x8000 + b.toNat * 0x100000 + sc.toNat * 0x2
  | .por d a b sc => 0x100002a1 + d.toNat * 0x400 + a.toNat * 0x8000 + b.toNat * 0x100000 + sc.toNat * 0x2
  | .pxor d a b sc => 0x200002a1 + d.toNat * 0x400 + a.toNat * 0x8000 + b.toNat * 0x100000 + sc.toNat * 0x2
  | .pnot d a sc => 0x300002a1 + d.toNat * 0x400 + a.toNat * 0x8000 + sc.toNat * 0x2
  | .pcnt d a sc => 0x400002a1 + d.toNat * 0x400 + a.toNat * 0x8000 + sc.toNat * 0x2
  | .pfirst d a sc => 0x500002a1 + d.toNat * 0x400 + a.toNat * 0x8000 + sc.toNat * 0x2
  | .xreq d a b sc => 0x3a1 + d.toNat * 0x400 + a.toNat * 0x8000 + b.toNat * 0x100000 + sc.toNat * 0x2
  | .xget d sc => 0x100003a1 + d.toNat * 0x400 + sc.toNat * 0x2
  | .kinit d a b sc => 0x3b1 + d.toNat * 0x400 + a.toNat * 0x8000 + b.toNat * 0x100000 + sc.toNat * 0x2
  | .kadd p d a b sc => 0x100003b1 + p.toNat * 0x2000000 + d.toNat * 0x400 + a.toNat * 0x8000 + b.toNat * 0x100000 + sc.toNat * 0x2
  | .kdrain d a b sc => 0x200003b1 + d.toNat * 0x400 + a.toNat * 0x8000 + b.toNat * 0x100000 + sc.toNat * 0x2
  | .mlease sc => 0x301 + sc.toNat * 0x2
  | .mfree sc => 0x10000301 + sc.toNat * 0x2
  | .mstat d sc => 0x20000301 + d.toNat * 0x400 + sc.toNat * 0x2
  | .mcheck d a sc => 0x30000301 + d.toNat * 0x400 + a.toNat * 0x8000 + sc.toNat * 0x2
  | .mload d a sc => 0x311 + d.toNat * 0x400 + a.toNat * 0x8000 + sc.toNat * 0x2
  | .mscale d a sc => 0x10000311 + d.toNat * 0x400 + a.toNat * 0x8000 + sc.toNat * 0x2
  | .mswap sc => 0x20000311 + sc.toNat * 0x2
  | .mmul p d a sc => 0x321 + p.toNat * 0x100000 + d.toNat * 0x400 + a.toNat * 0x8000 + sc.toNat * 0x2
  | .mdrain p d a sc => 0x331 + p.toNat * 0x100000 + d.toNat * 0x400 + a.toNat * 0x8000 + sc.toNat * 0x2
  | .nalloc d sc => 0x361 + d.toNat * 0x400 + sc.toNat * 0x2
  | .nfree a b sc => 0x10000361 + a.toNat * 0x8000 + b.toNat * 0x100000 + sc.toNat * 0x2
  | .nld d a w sc => 0x20000361 + d.toNat * 0x400 + a.toNat * 0x8000 + w.toNat * 0x100000 + sc.toNat * 0x2
  | .nst d a w sc => 0x30000361 + d.toNat * 0x400 + a.toNat * 0x8000 + w.toNat * 0x100000 + sc.toNat * 0x2
  | .link a b sc => 0x371 + a.toNat * 0x8000 + b.toNat * 0x100000 + sc.toNat * 0x2
  | .nrun sc => 0x10000371 + sc.toNat * 0x2
  | .npush a b sc => 0x20000371 + a.toNat * 0x8000 + b.toNat * 0x100000 + sc.toNat * 0x2
  | .nmove d a sc => 0x30000371 + d.toNat * 0x400 + a.toNat * 0x8000 + sc.toNat * 0x2
  | .nbal d sc => 0x40000371 + d.toNat * 0x400 + sc.toNat * 0x2
  | .snap d a sc => 0x3e1 + d.toNat * 0x400 + a.toNat * 0x8000 + sc.toNat * 0x2
  | .eret a sc => 0x100003e1 + a.toNat * 0x8000 + sc.toNat * 0x2
  | .cfgrd d a sc => 0x200003e1 + d.toNat * 0x400 + a.toNat * 0x8000 + sc.toNat * 0x2
  | .cfgwr d a b sc => 0x300003e1 + d.toNat * 0x400 + a.toNat * 0x8000 + b.toNat * 0x100000 + sc.toNat * 0x2
  | .sleep d a sc => 0x400003e1 + d.toNat * 0x400 + a.toNat * 0x8000 + sc.toNat * 0x2
  | .wake a sc => 0x500003e1 + a.toNat * 0x8000 + sc.toNat * 0x2
  | .sopen a b sc => 0x61c003e1 + a.toNat * 0x8000 + b.toNat * 0x100000 + sc.toNat * 0x2
  | .sclose b sc => 0x71c003e1 + b.toNat * 0x100000 + sc.toNat * 0x2
  | .alignTimeout _ _ => 0
  | .waitvWake _ _ => 0
  | .xuCompute _ => 0
  | .kuTakePair _ _ => 0
  | .kdrainWrite _ _ => 0
  | .sleepDeadline _ _ => 0
  | .closeMarkerArrival _ _ => 0
  | .rawWordArrival _ _ => 0
  | .instructionFetch _ _ => 0
  | .resultLands _ _ _ => 0
  | .messageArrival _ => 0
  | .acceptance _ => 0
  | .refusal _ => 0
  | .depositDataWrite _ _ => 0
  | .dispatch _ => 0
  | .retirement _ => 0
  | .phaseClose _ _ => 0
  | .phaseCloseDelivery _ => 0
  | .faultNotice _ => 0
  | .amoRequest _ => 0
  | .amoResult _ => 0
  | .nodeStep _ _ => 0
  | .churnPush _ _ => 0
  | .autoBalance _ => 0
  | .trapEntry _ _ => 0
  | .stewardRecord _ => 0
  | .coreResume _ => 0
  | .coreRestart _ => 0
  | .spareColumnRemap _ => 0
  | .markBankFailed _ _ => 0
  | .gangAllocation => 0
  | .bandPromotion _ _ _ => 0
  | .gangStart _ _ => 0
  | .segmentArrival _ => 0
  | .launchContextStart _ => 0
  | .gangCompletion _ => 0
  | .preemptionRequest _ => 0
  | .preemptDistribution _ => 0
  | .rtcLateHalt _ => 0
  | .imageWrite _ => 0
  | .gangRestore _ _ _ => 0
  | .timeSliceSwitch _ _ => 0
  | .ptpMessage _ _ => 0
  | .engineUnit _ => 0
  | .pftNoticeInjection _ => 0
  | .translationWalk _ => 0
  | .leaseGrant _ => 0
  | .leaseLimit _ => 0
  | .leaseHandover _ => 0
  | .suspensionTimeout _ => 0
  | .leaseRelease _ => 0
  | .matrixStep _ _ _ _ => 0
  | .mswapEffect _ => 0
  | .kvWriteRequest _ _ => 0
  | .relayoutSlotGrant _ => 0
  | .relayoutDequantise _ _ => 0
  | .relayoutApply _ _ => 0
  | .relayoutFlip _ _ => 0
  | .kvReadRequest _ _ => 0
  | .kvTick _ => 0
  | .skimmerBegin _ => 0
  | .skimmerQuantise _ => 0
  | .skimmerFlip _ => 0
  | .fshipPerform _ _ => 0
  | .bankRefresh _ _ _ => 0
  | .layerOverheat _ _ _ => 0
  | .refreshDue _ _ => 0
  | .allBankRefresh _ _ => 0
  | .remapTableError _ _ => 0
  | .remapReload _ _ _ => 0
  | .frameStart => 0
  | .flitForward _ _ => 0
  | .linkFlitReceive _ _ _ _ => 0
  | .replayRequest _ _ => 0
  | .laneRepair _ _ _ => 0
  | .snapshotTrigger _ _ => 0
  | .snapshotLatch => 0
  | .snapshotRelease => 0
  | .snapin => 0
  | .perst => 0
  | .pwrgood => 0
  | .blockCalibration _ _ => 0
  | .firmwareVerify _ _ => 0
  | .valeLoad _ _ => 0
  | .doorbell _ => 0
  | .completionEntry _ => 0
  | .attestationQuote _ => 0
  | .islandDvfs _ _ _ _ => 0
  | .thermtrip _ => 0
  | .systemCallReturn _ _ => 0
  | .time _ => 0
  | .post _ => 0
  | .waitjob _ => 0
  | .xutable _ => 0
  | .routine _ => 0
  | .map _ => 0
  | .mapSub _ => 0
  | .unmapSub _ => 0
  | .realloc _ => 0
  | .kvalloc _ => 0
  | .kvfree _ => 0
  | .kvslots _ => 0
  | .pooladd _ => 0
  | .unassignedCall _ => 0
  | .registerWrite _ _ => 0
  | .hostBarAccess _ _ _ _ => 0

/-- Bytes of an encoded instruction (R50); 0 for an event. -/
def Instr.len : Instr → Nat
  | .add _ _ _ _ _ => 4
  | .sub _ _ _ _ _ => 4
  | .mul _ _ _ _ _ => 4
  | .mulh _ _ _ _ _ => 4
  | .mulhN _ _ _ _ _ => 4
  | .div _ _ _ _ _ => 4
  | .divN _ _ _ _ _ => 4
  | .rem _ _ _ _ _ => 4
  | .remN _ _ _ _ _ => 4
  | .and _ _ _ _ _ => 4
  | .or _ _ _ _ _ => 4
  | .xor _ _ _ _ _ => 4
  | .andn _ _ _ _ _ => 4
  | .min _ _ _ _ _ => 4
  | .max _ _ _ _ _ => 4
  | .minN _ _ _ _ _ => 4
  | .maxN _ _ _ _ _ => 4
  | .shl _ _ _ _ _ => 4
  | .shr _ _ _ _ _ => 4
  | .sra _ _ _ _ _ => 4
  | .rot _ _ _ _ _ => 4
  | .clz _ _ _ _ => 4
  | .ctz _ _ _ _ => 4
  | .popc _ _ _ _ => 4
  | .taz _ _ _ _ _ => 4
  | .tax _ _ _ _ => 4
  | .tadepth _ _ _ _ => 4
  | .tanb _ _ _ _ _ => 4
  | .taup _ _ _ _ _ => 4
  | .tadown _ _ _ _ _ => 4
  | .sel _ _ _ _ _ => 4
  | .cmpEq _ _ _ _ _ => 4
  | .cmpNe _ _ _ _ _ => 4
  | .cmpLt _ _ _ _ _ => 4
  | .cmpGe _ _ _ _ _ => 4
  | .cmpLtu _ _ _ _ _ => 4
  | .cmpGeu _ _ _ _ _ => 4
  | .cmpAny _ _ _ _ _ => 4
  | .cmpNone _ _ _ _ _ => 4
  | .addImm12 _ _ _ _ => 4
  | .andImm _ _ _ _ => 4
  | .orImm _ _ _ _ => 4
  | .xorImm _ _ _ _ => 4
  | .andnImm _ _ _ _ => 4
  | .shlImm _ _ _ _ => 4
  | .shrImm _ _ _ _ => 4
  | .sraImm _ _ _ _ => 4
  | .rotImm _ _ _ _ => 4
  | .mulImm _ _ _ _ => 4
  | .minImm _ _ _ _ => 4
  | .maxImm _ _ _ _ => 4
  | .minNImm _ _ _ _ => 4
  | .maxNImm _ _ _ _ => 4
  | .taupImm _ _ _ _ => 4
  | .tadownImm _ _ _ _ => 4
  | .fsh _ _ _ _ _ => 4
  | .bfx _ _ _ _ _ => 4
  | .bfxs _ _ _ _ _ => 4
  | .bfi _ _ _ _ _ => 4
  | .bfxImm _ _ _ _ _ => 4
  | .lui _ _ _ => 4
  | .bra _ _ => 4
  | .call _ _ => 4
  | .bcEq _ _ _ _ => 4
  | .bcNe _ _ _ _ => 4
  | .bcLt _ _ _ _ => 4
  | .bcGe _ _ _ _ => 4
  | .bcLtu _ _ _ _ => 4
  | .bcGeu _ _ _ _ => 4
  | .bcAny _ _ _ _ => 4
  | .bcNone _ _ _ _ => 4
  | .loop _ _ _ _ => 4
  | .ret _ _ => 4
  | .callr _ _ _ => 4
  | .jt _ _ _ => 4
  | .isync _ => 4
  | .halt _ => 4
  | .rft _ => 4
  | .align _ _ => 4
  | .prio _ _ => 4
  | .trap _ _ => 4
  | .mfc _ _ _ => 4
  | .mtc _ _ _ => 4
  | .mxc _ _ _ _ => 4
  | .mov _ _ => 2
  | .add16 _ _ => 2
  | .sub16 _ _ => 2
  | .and16 _ _ => 2
  | .or16 _ _ => 2
  | .xor16 _ _ => 2
  | .li _ _ => 2
  | .addImm5 _ _ => 2
  | .shl16 _ _ => 2
  | .shr16 _ _ => 2
  | .sra16 _ _ => 2
  | .ret16 _ => 2
  | .nop => 2
  | .halt16 => 2
  | .bbinit _ _ _ => 4
  | .bbpeek _ _ _ => 4
  | .bbtake _ _ _ => 4
  | .bbskip _ _ => 4
  | .bbfill _ => 4
  | .ld _ _ _ _ _ => 4
  | .ldSx _ _ _ _ _ => 4
  | .st _ _ _ _ _ => 4
  | .ldAcq _ _ _ _ _ _ => 4
  | .stRel _ _ _ _ _ _ => 4
  | .vld _ _ _ _ => 4
  | .vst _ _ _ _ => 4
  | .vldtRaw _ _ _ _ _ => 4
  | .ldtMap _ _ _ _ _ => 4
  | .ldtTa _ _ _ => 4
  | .sttMap _ _ _ _ _ => 4
  | .sttTa _ _ _ => 4
  | .vldtMap _ _ _ _ _ => 4
  | .vldtTa _ _ _ => 4
  | .vsttMap _ _ _ _ _ => 4
  | .vsttTa _ _ _ => 4
  | .bcopy _ _ _ _ => 4
  | .bfill _ _ _ _ => 4
  | .bzero _ _ _ _ => 4
  | .pftLift _ _ _ _ => 4
  | .pftDrop _ _ _ _ => 4
  | .fship _ _ _ _ => 4
  | .vgath _ _ _ _ _ => 4
  | .vscat _ _ _ _ _ => 4
  | .guard _ _ _ => 4
  | .unguard _ _ _ => 4
  | .tmld _ _ _ => 4
  | .tmst _ _ _ => 4
  | .send _ _ _ _ _ _ => 4
  | .deposit _ _ _ => 4
  | .dset _ _ _ _ _ => 4
  | .dget _ _ _ => 4
  | .mbxcfg _ _ => 4
  | .amoAdd _ _ _ _ _ => 4
  | .amoMin _ _ _ _ _ => 4
  | .amoMax _ _ _ _ _ => 4
  | .amoAnd _ _ _ _ _ => 4
  | .amoOr _ _ _ _ _ => 4
  | .amoXor _ _ _ _ _ => 4
  | .amoSwap _ _ _ _ _ => 4
  | .amoCas _ _ _ _ _ => 4
  | .amoMinN _ _ _ _ _ => 4
  | .amoMaxN _ _ _ _ _ => 4
  | .salloc _ _ => 4
  | .sfree _ _ => 4
  | .bar _ _ _ _ => 4
  | .barrive _ _ _ => 4
  | .bcancel _ _ => 4
  | .lock _ _ => 4
  | .unlock _ _ => 4
  | .waitv _ _ _ => 4
  | .phopen _ _ => 4
  | .phset _ _ => 4
  | .phend _ _ => 4
  | .phwait _ _ => 4
  | .stv _ _ _ _ => 4
  | .ldv _ _ _ _ => 4
  | .recl _ _ _ => 4
  | .fenceLd _ _ => 4
  | .fenceSt _ _ => 4
  | .fenceAll _ _ => 4
  | .vadd _ _ _ _ _ _ => 4
  | .vsub _ _ _ _ _ _ => 4
  | .vmul _ _ _ _ _ _ => 4
  | .vfma _ _ _ _ _ _ => 4
  | .vfms _ _ _ _ _ _ => 4
  | .vdiv _ _ _ _ _ _ => 4
  | .vsqrt _ _ _ _ _ => 4
  | .vaddSat _ _ _ _ _ _ => 4
  | .vsubSat _ _ _ _ _ _ => 4
  | .vmulSat _ _ _ _ _ _ => 4
  | .vfmaSat _ _ _ _ _ _ => 4
  | .vaddNSat _ _ _ _ _ _ => 4
  | .vsubNSat _ _ _ _ _ _ => 4
  | .vmin _ _ _ _ _ => 4
  | .vmax _ _ _ _ _ => 4
  | .vminN _ _ _ _ _ => 4
  | .vmaxN _ _ _ _ _ => 4
  | .vabs _ _ _ _ => 4
  | .vneg _ _ _ _ => 4
  | .vand _ _ _ _ _ => 4
  | .vor _ _ _ _ _ => 4
  | .vxor _ _ _ _ _ => 4
  | .vshl _ _ _ _ _ => 4
  | .vshr _ _ _ _ _ => 4
  | .vsra _ _ _ _ _ => 4
  | .vmov _ _ _ _ => 4
  | .vtag _ _ _ _ => 4
  | .vbcast _ _ _ _ _ => 4
  | .vcmpEq _ _ _ _ _ => 4
  | .vcmpNe _ _ _ _ _ => 4
  | .vcmpLt _ _ _ _ _ => 4
  | .vcmpGe _ _ _ _ _ => 4
  | .vcmpLe _ _ _ _ _ => 4
  | .vcmpGt _ _ _ _ _ => 4
  | .vcmpUn _ _ _ _ _ => 4
  | .vcmpOrd _ _ _ _ _ => 4
  | .vcmpLtN _ _ _ _ _ => 4
  | .vcmpGeN _ _ _ _ _ => 4
  | .vcmpLeN _ _ _ _ _ => 4
  | .vcmpGtN _ _ _ _ _ => 4
  | .vcvt _ _ _ _ _ _ => 4
  | .vredSum _ _ _ _ => 4
  | .vredMin _ _ _ _ => 4
  | .vredMax _ _ _ _ => 4
  | .vredAnd _ _ _ _ => 4
  | .vredOr _ _ _ _ => 4
  | .vredMinN _ _ _ _ => 4
  | .vredMaxN _ _ _ _ => 4
  | .vperm _ _ _ _ _ => 4
  | .vslide _ _ _ _ _ => 4
  | .vcompress _ _ _ _ => 4
  | .vgl _ _ _ _ => 4
  | .vsel _ _ _ _ _ => 4
  | .vcx _ _ _ _ => 4
  | .vdistDot _ _ _ _ _ => 4
  | .vdistL2 _ _ _ _ _ => 4
  | .vchol8 _ _ _ _ => 4
  | .vtrs8 _ _ _ _ => 4
  | .pand _ _ _ _ => 4
  | .por _ _ _ _ => 4
  | .pxor _ _ _ _ => 4
  | .pnot _ _ _ => 4
  | .pcnt _ _ _ => 4
  | .pfirst _ _ _ => 4
  | .xreq _ _ _ _ => 4
  | .xget _ _ => 4
  | .kinit _ _ _ _ => 4
  | .kadd _ _ _ _ _ => 4
  | .kdrain _ _ _ _ => 4
  | .mlease _ => 4
  | .mfree _ => 4
  | .mstat _ _ => 4
  | .mcheck _ _ _ => 4
  | .mload _ _ _ => 4
  | .mscale _ _ _ => 4
  | .mswap _ => 4
  | .mmul _ _ _ _ => 4
  | .mdrain _ _ _ _ => 4
  | .nalloc _ _ => 4
  | .nfree _ _ _ => 4
  | .nld _ _ _ _ => 4
  | .nst _ _ _ _ => 4
  | .link _ _ _ => 4
  | .nrun _ => 4
  | .npush _ _ _ => 4
  | .nmove _ _ _ => 4
  | .nbal _ _ => 4
  | .snap _ _ _ => 4
  | .eret _ _ => 4
  | .cfgrd _ _ _ => 4
  | .cfgwr _ _ _ _ => 4
  | .sleep _ _ _ => 4
  | .wake _ _ => 4
  | .sopen _ _ _ => 4
  | .sclose _ _ => 4
  | .alignTimeout _ _ => 0
  | .waitvWake _ _ => 0
  | .xuCompute _ => 0
  | .kuTakePair _ _ => 0
  | .kdrainWrite _ _ => 0
  | .sleepDeadline _ _ => 0
  | .closeMarkerArrival _ _ => 0
  | .rawWordArrival _ _ => 0
  | .instructionFetch _ _ => 0
  | .resultLands _ _ _ => 0
  | .messageArrival _ => 0
  | .acceptance _ => 0
  | .refusal _ => 0
  | .depositDataWrite _ _ => 0
  | .dispatch _ => 0
  | .retirement _ => 0
  | .phaseClose _ _ => 0
  | .phaseCloseDelivery _ => 0
  | .faultNotice _ => 0
  | .amoRequest _ => 0
  | .amoResult _ => 0
  | .nodeStep _ _ => 0
  | .churnPush _ _ => 0
  | .autoBalance _ => 0
  | .trapEntry _ _ => 0
  | .stewardRecord _ => 0
  | .coreResume _ => 0
  | .coreRestart _ => 0
  | .spareColumnRemap _ => 0
  | .markBankFailed _ _ => 0
  | .gangAllocation => 0
  | .bandPromotion _ _ _ => 0
  | .gangStart _ _ => 0
  | .segmentArrival _ => 0
  | .launchContextStart _ => 0
  | .gangCompletion _ => 0
  | .preemptionRequest _ => 0
  | .preemptDistribution _ => 0
  | .rtcLateHalt _ => 0
  | .imageWrite _ => 0
  | .gangRestore _ _ _ => 0
  | .timeSliceSwitch _ _ => 0
  | .ptpMessage _ _ => 0
  | .engineUnit _ => 0
  | .pftNoticeInjection _ => 0
  | .translationWalk _ => 0
  | .leaseGrant _ => 0
  | .leaseLimit _ => 0
  | .leaseHandover _ => 0
  | .suspensionTimeout _ => 0
  | .leaseRelease _ => 0
  | .matrixStep _ _ _ _ => 0
  | .mswapEffect _ => 0
  | .kvWriteRequest _ _ => 0
  | .relayoutSlotGrant _ => 0
  | .relayoutDequantise _ _ => 0
  | .relayoutApply _ _ => 0
  | .relayoutFlip _ _ => 0
  | .kvReadRequest _ _ => 0
  | .kvTick _ => 0
  | .skimmerBegin _ => 0
  | .skimmerQuantise _ => 0
  | .skimmerFlip _ => 0
  | .fshipPerform _ _ => 0
  | .bankRefresh _ _ _ => 0
  | .layerOverheat _ _ _ => 0
  | .refreshDue _ _ => 0
  | .allBankRefresh _ _ => 0
  | .remapTableError _ _ => 0
  | .remapReload _ _ _ => 0
  | .frameStart => 0
  | .flitForward _ _ => 0
  | .linkFlitReceive _ _ _ _ => 0
  | .replayRequest _ _ => 0
  | .laneRepair _ _ _ => 0
  | .snapshotTrigger _ _ => 0
  | .snapshotLatch => 0
  | .snapshotRelease => 0
  | .snapin => 0
  | .perst => 0
  | .pwrgood => 0
  | .blockCalibration _ _ => 0
  | .firmwareVerify _ _ => 0
  | .valeLoad _ _ => 0
  | .doorbell _ => 0
  | .completionEntry _ => 0
  | .attestationQuote _ => 0
  | .islandDvfs _ _ _ _ => 0
  | .thermtrip _ => 0
  | .systemCallReturn _ _ => 0
  | .time _ => 0
  | .post _ => 0
  | .waitjob _ => 0
  | .xutable _ => 0
  | .routine _ => 0
  | .map _ => 0
  | .mapSub _ => 0
  | .unmapSub _ => 0
  | .realloc _ => 0
  | .kvalloc _ => 0
  | .kvfree _ => 0
  | .kvslots _ => 0
  | .pooladd _ => 0
  | .unassignedCall _ => 0
  | .registerWrite _ _ => 0
  | .hostBarAccess _ _ _ _ => 0

/-- The bytes of an encoded instruction, as memory holds them (R50). (DESIGN CHOICE, log 77.) -/
def encode (i : Instr) : List Byte := leBytes i.len i.word

/-- Whether a constructor is an encoded instruction, not an event. -/
def Instr.encoded (i : Instr) : Bool := i.len != 0

/-- What the decoder reads from an instruction whose bits are w, numbered as the opcode table numbers them: the bytes are laid
out little-endian as the hardware stores them, bits above nbits zero. (DESIGN CHOICE, log 77.) -/
noncomputable def decodeTableWord (nbits w : Nat) : Option Instr :=
  match decode (leBytes 4 (w % 2 ^ nbits)) with
  | .ok (i, _) => some i
  | .error _ => none

end Sys2Proof
end

