-- ==== Sys2Proof/Config.lean ====
section
/-! DEFINITION. What is fixed for the part (sizes the spec states), and the free values: constants without a body for what the
spec leaves open, so that nothing proved can rest on a value of theirs. -/
namespace Sys2Proof.Config

/-- Cores of the module (00, "Organisation at a glance"). -/
def numCores : Nat := 6144
/-- Bytes of a cluster memory: 4 MiB (R173). -/
def clusterBytes : Nat := 2 ^ 22
/-- Outstanding acknowledgements of a core at most (R29). -/
def maxAcks : Nat := 16
/-- Instructions a run-to-completion routine may issue (R31). -/
def rtcBudget : Nat := 512
/-- Entries of a churn, and those of them on chip (R354). -/
def churnMax : Nat := 1280
/-- On-chip churn entries (R354). -/
def churnChip : Nat := 256
/-- Entries of a cluster's range-lock table (R218). -/
def rangeMax : Nat := 64
/-- XU places of a cluster (R287). -/
def xuPlaces : Nat := 16
/-- Entries of a core's version store (R140). -/
def versionMax : Nat := 4096
/-- Commands of an array's queue (R296). -/
def commandMax : Nat := 16
/-- Commands after which a lease is at a limit (R299). -/
def leaseCommands : Nat := 64
/-- Array cycles after which a lease is at a limit (R299). -/
def leaseCycles : Nat := 65536
/-- Blocks that carry READY and FAIL bits (R398). -/
def numBlocks : Nat := 7162
/-- Page and block entries of a slice's translation cache (R165). -/
def cacheMax : Nat := 2048
/-- Table entries of a slice's translation cache (R165). -/
def tableCacheMax : Nat := 256
/-- Walkers of a slice (R165). -/
def walkerMax : Nat := 8
/-- Entries of a slice's miss queue (R165). -/
def missMax : Nat := 64
/-- Counts of the frame counter in a frame (R377). -/
def frameCounts : Nat := 8192
/-- Counts from a trigger to the latch (R240). -/
def latchDelay : Nat := 512

/-! ### Free values

None of these has a body. A claim about a run holds whatever they are. -/

/-- The schedule once the agenda is empty: which agent moves at a step (R7, R10: any order the rules allow). (DESIGN CHOICE, log 4.) -/
opaque nextTurn : Nat → Turn
/-- Bits of a link word that an instruction with a link destination does not write (R66, R267: the spec states none). (DESIGN CHOICE, log 22.) -/
opaque linkRest : Nat → BitVec 2048
/-- Bits that a read gives for uncorrectable data that it tags POISON or copies (R175, R184, R192: the spec states none). (DESIGN CHOICE, log 20.)
(DESIGN CHOICE, log 21.) -/
opaque uncorrectable : Nat → BitVec 2048
/-- How far into its frame, in ns, a call of TIME is answered (R391). (DEDUCED, log 63.) -/
opaque time1588 : Nat → Nat
/-- Bytes of an entry of a code object's segment table (R395 gives no byte layout). (DESIGN CHOICE, log 47.) -/
opaque segmentEntryBytes : Fin 64
/-- Cluster address, length and object offset of an entry, from the bytes of the segment table and the entry's number. (DESIGN CHOICE, log 47.) -/
opaque segmentEntry : List Byte → Nat → Nat × Nat × Nat
/-- The dispatch entry of a class that a code object's `.dispatch` directives give, from the bytes of its segment 0 (R47, R79: no byte layout is given).
(DESIGN CHOICE, log 47.) -/
opaque objectDispatch : List Byte → Nat → BitVec 32
/-- Whether Vale keeps a mapping across a reallocation of its root (R172), by the entry's key. (DESIGN CHOICE, log 95.) -/
opaque keepsMapping : Nat → Nat → Bool
/-- Whether Vale has memory for one launch record more than it holds (R391: NO_MEMORY; the spec gives no size). (DEDUCED, log 64.) -/
opaque recordRoom : Nat → Bool
/-- The bytes that an image write stores (R237, R238: no layout is given). -/
opaque imageBytes : Nat → List Byte
/-- Whether an image's RSASSA-PSS signature verifies under the fused key (R399). (DESIGN CHOICE, log 74.) -/
opaque signatureOk : List Byte → Bool
/-- An RSASSA-PSS signature with the module's identity key (R399). (DESIGN CHOICE, log 74.) -/
opaque identitySign : BitVec 512 → BitVec 4096
/-- The 16 bits of the type of a flit that carries a payload (R383 gives the header a type and no code of one). (DESIGN CHOICE, log 75.) -/
opaque flitType : BitVec 16
/-- The check byte of each lane, lane 0 lowest, of a flit on a number of lanes: header, payload, CRC (R383). (DESIGN CHOICE, log 75.) -/
opaque laneChecks : Nat → BitVec 64 → BitVec 512 → BitVec 32 → BitVec 64
/-- What a host read of BAR0 or BAR2 returns where the spec names no register (R387). (DESIGN CHOICE, log 73.) -/
opaque hostRead : Nat → Nat → Nat → BitVec 64

end Sys2Proof.Config
end

