-- ==== Sys2Proof/Machine/State.lean ====
section
/-! DEFINITION. The state of the module: everything the spec gives it, as plain data.

Maps hold the reset value at every unlisted key. Cores are keyed by their module coordinates (y × 128 + x), clusters by
(y / 2) × 32 + x / 4, array quads by R296, edge slices by R166. Cluster memory is one list of cells keyed by
cluster × 2^22 + cluster address; physical memory is keyed by physical address (R154). -/
namespace Sys2Proof.Machine

/-- Format tags (R70). Tag 14 is never produced. -/
inductive Tag where
  | raw | int8 | int16 | int32 | int64 | fp32 | fp16 | bf16 | e4m3 | e5m2 | mx4 | ds8 | int4 | e8m0 | poison
deriving DecidableEq, Repr

/-- A vector register: 2048 bits and a tag (R65). -/
structure VReg where
  val : BitVec 2048 := 0
  tag : Tag := .raw
deriving DecidableEq, Repr

/-- A tensor-map register: 256 bits and a tag (R65, R160). -/
structure MapReg where
  val : BitVec 256 := 0
  tag : Tag := .raw
deriving DecidableEq, Repr

/-- A trap cause (R224): code, detail (R158) and TRAPVAL. `event` is the cluster address of the uncorrectable read that raised it, which
the slice's core counts (R174, R240). -/
structure TrapInfo where
  cause : Nat
  detail : Nat := 0
  val : Word := 0
  event : Option Nat := none
deriving DecidableEq, Repr

/-- The states of a context (R18) that it has of its own: it is PARKED while its gang is parked, and STOPPED while its core holds a
stop. -/
inductive CtxState where
  | idle | ready | running | waiting
deriving DecidableEq, Repr

/-- The event a WAITING context waits for (R18, R19), with the register code its instruction writes when the event happens. -/
inductive Wait where
  | none
  /-- bar at the gang barrier (R131) -/
  | gangBar (d : Nat)
  /-- bar at a handle barrier of the cluster, by object key (R131) -/
  | bar (obj d : Nat)
  /-- lock, by object key (R134) -/
  | lock (obj : Nat)
  /-- waitv on a word until it differs from a value (R135) -/
  | waitv (addr : Nat) (v : Word)
  /-- ldv of a version not yet made (R141) -/
  | ldv (addr n d : Nat)
  /-- phwait (R137) -/
  | phwait (p : Nat)
  /-- sleep until the token or the deadline (R400) -/
  | sleep (t : Word) (d : Nat)
  /-- mlease (R313) -/
  | lease
  /-- mcheck action 0 (R321) -/
  | mcheck (d : Nat)
  /-- a code segment that has not arrived (R42, R396) -/
  | segment (addr : Nat)
deriving DecidableEq, Repr

/-- A register that a pending result will be written to. -/
inductive Dest where
  | scalar (r : Nat)
  | vector (r : Nat)
  | pred (r : Nat)
deriving DecidableEq, Repr

/-- A pending write of a context (R62, R63). `ready` is the cycle from which a fixed-latency result is readable; none marks a
variable-latency result. `open_` counts the answers it still waits for (page requests, the XU, an amo result). -/
structure Pend where
  id : Nat
  dest : Dest
  val : BitVec 2048
  tag : Tag := .raw
  ready : Option Nat
  open_ : Nat := 0
deriving DecidableEq, Repr

/-- The router and phase whose counter a routine's end moves (R21, R136). -/
structure Retire where
  router : Nat
  phase : Nat
deriving DecidableEq, Repr

/-- A churn entry (R354): `counter` is the core whose router counts it. -/
structure ChurnEntry where
  phase : Nat
  counter : Nat
  pra : Word
  prb : Word
  /-- the level whose nrun has begun with it (R364) -/
  taken : Option Nat := none
deriving DecidableEq, Repr

/-- The part of link that its next node step belongs to (R360). -/
inductive LinkPart where
  | lookThrough | qSide | pSide | rewriteQ | cleanup1 | cleanup2 | push
deriving DecidableEq, Repr

/-- A link in progress (R360): the ports reached, the register of Q, hops, the values exchanged out, and whether a crossing link has
pushed the pair (R362). -/
structure LinkOp where
  part : LinkPart := .lookThrough
  p : Word
  q : Word
  b : Nat
  h : Nat := 0
  o1 : Word := 0
  o2 : Word := 0
  dup : Bool := false
deriving DecidableEq, Repr

/-- A node instruction whose next step is at another core (R349, R350). -/
inductive NodeOp where
  | nld (d : Nat) (pr : Word) (w : Nat)
  | nst (pr : Word) (w : Nat) (v : Word)
  | nfree (pr t0 t1 t2 : Word)
  | link (l : LinkOp)
  /-- nrun with its entry removed, at its header reads; the first header once it is read -/
  | nrun (e : ChurnEntry) (first : Option Word)
deriving DecidableEq, Repr

/-- An instruction that has begun and not completed: its context is READY but not eligible. -/
inductive Op where
  | none
  | node (n : NodeOp)
  /-- a Vale system call (R390) and its answer -/
  | call (k : Nat) (arg : Word) (d : Nat) (answer : Option Word)
  /-- kdrain waiting for its instance's input buffer to empty (R292) -/
  | kdrain (addr : Nat) (release : Bool) (d lockId : Nat)
  /-- a precise trap raised, whose entry waits for the context's pending writes (R64); `kept` when its instruction's partial effects
  stay -/
  | trap (t : TrapInfo) (kept : Bool)
deriving DecidableEq, Repr

/-- One bank of registers and the routine it holds (R65, R67, R18). -/
structure Ctx where
  st : CtxState := .idle
  wait : Wait := .none
  op : Op := .none
  pc : BitVec 22 := 0
  td : Bool := false
  rtc : Bool := false
  sbc : Bool := false
  prio : Nat := 0
  vl : Nat := 0
  trappc : BitVec 22 := 0
  trapcause : BitVec 16 := 0
  trapval : Word := 0
  tvec : BitVec 22 := 0
  trapprog : Word := 0
  mb : Map Word := []
  msghdr : Word := 0
  lc : Map Word := []
  ls : Map (BitVec 22) := []
  le : Map (BitVec 22) := []
  bblo : Word := 0
  bbhi : Word := 0
  bbpos : Nat := 0
  bbptr : BitVec 22 := 0
  bbend : BitVec 22 := 0
  phase : BitVec 4 := 0
  choleps : BitVec 32 := 0
  cholreg : BitVec 32 := 0
  s : Map Word := []
  v : Map VReg := []
  p : Map (BitVec 256) := []
  m : Map MapReg := []
  rtcCount : Nat := 0
  handler : BitVec 22 := 0
  nextIssue : Nat := 0
  pend : List Pend := []
  pendTraps : List TrapInfo := []
  /-- scalar registers whose next read raises POISON imprecisely, with the TA (R202) -/
  poisoned : Map Word := []
  /-- the cycle at which an align stall times out (R40) -/
  alignUntil : Option Nat := none
  /-- the last align executed: its k and PC (R40) -/
  aligned : Option (Nat × BitVec 22) := none
  /-- found not eligible in the present core cycle (R18) -/
  tried : Bool := false
  token : Bool := false
  started : Option Retire := none
  popped : Option ChurnEntry := none
  /-- cluster addresses of the nodes that nalloc took and the context may still hold (R352) -/
  holds : List Nat := []
  /-- phase counts of stopped engine operations, held until R195 retires them -/
  held : List Nat := []
deriving DecidableEq, Repr

/-- A shipped function on its way to, or in the queue of, a base-die processor (R202, R337). -/
structure Ship where
  core : Nat
  level : Nat
  asid : Nat
  ta : Word
  phys : Nat
  op1 : Word
  op2 : Word
  slot : Nat
  /-- W of the slot at issue, in bits (R202, R338) -/
  width : Nat
  /-- the pending result of an fship with d ≠ 0 -/
  id : Option Nat
  /-- MSG = 1: receiver, class and phase (R202) -/
  msg : Option (Nat × Nat × Nat)
  /-- position in the order of issue (R203), and frame number of its injection (R377) -/
  seq : Nat := 0
  frame : Nat := 0
deriving DecidableEq, Repr

/-- One page's part of a vldt, vldt.raw or vstt through a headed map (R326, R327): element numbers in the page (64r + c) and, for
a read, the element index of the strip; for a write, the E4M3 codes. `vl` is VL.BYTES of a vldt.raw, whose second register has the pending
result after `id`. -/
structure PageReq where
  page : Nat
  write : Bool
  raw : Bool := false
  core : Nat
  level : Nat
  id : Nat
  fmt : Tag := .raw
  vl : Nat := 0
  elems : List (Nat × Nat)
  /-- of a vldt.raw: the map's starting column, and the row in the page -/
  col : Nat := 0
  row : Nat := 0
  /-- frame number of its injection (R377) -/
  frame : Nat := 0
deriving DecidableEq, Repr

/-- An amo waiting in its owner's system sequencer (R123, R28). -/
structure AmoReq where
  core : Nat
  level : Nat
  id : Option Nat
  addr : Nat
  size : Nat
  fn : Nat
  y : Word
  c : Word
  pc : BitVec 22
deriving DecidableEq, Repr

/-- What a flit brings that is no message for a mailbox. -/
inductive Load where
  /-- to an edge slice (R376): a request for a headed page -/
  | page (q : PageReq)
  /-- to an edge slice: an fship for the base-die processor that it reaches -/
  | ship (q : Ship)
  /-- an amo request, class 0xF0 (R28) -/
  | amo (q : AmoReq)
  /-- an amo result, class 0xF1: the issuer's level, the number of its pending write, the value -/
  | result (level id : Nat) (v : Word)
  /-- an acceptance flit (R22) -/
  | accept
  /-- a refused message on its way back; source and destination of the flit are those of this way (R22) -/
  | refused
deriving DecidableEq, Repr

/-- A message: header (R113), payload words, data flits of a deposit, and where its flit is (R376, R377). Every other flit that the spec routes
travels as one too: a request to an edge slice, to the end router of the slice's column, and the answers between cores. -/
structure Msg where
  hdr : Word
  w : List Word
  data : List Byte := []
  src : Nat
  dst : Nat
  level : Nat := 0
  retire : Retire
  pos : Nat
  frame : Nat := 0
  tc : Nat := 0
  /-- position in the order of injection -/
  seq : Nat := 0
  load : Option Load := none
  /-- the input of the router at `pos` that it came by: 0 to 3 N, E, S, W, 4 and 5 the pass channels from the west and the east, 6 the
  router's own core (R379) -/
  input : Nat := 6
deriving DecidableEq, Repr

/-- A mailbox entry (R22, R23): `written` once it may become pending. Of a deposit, the data flits in place, and whether a suppressed
store of it has been recorded (R122). -/
structure MailEntry where
  msg : Msg
  written : Bool
  flits : List Nat := []
  noted : Bool := false
deriving DecidableEq, Repr

/-- A link word or one flit of a vector (R66), or the close marker of a stream (R380), with the core and inbound direction that
it travels to. -/
structure LinkFlit where
  data : BitVec 512
  vtag : Option Tag := none
  marker : Bool := false
  stream : Bool := false
  dst : Nat
  inDir : Nat
deriving DecidableEq, Repr

/-- A stream port (R380). -/
inductive Port where
  | closed
  | armed (id : Nat)
  | open (id : Nat)
deriving DecidableEq, Repr

/-- The version record of a word (R140): live versions oldest first. -/
structure Version where
  h : Nat
  f : Nat
  live : List (Nat × Word)
deriving DecidableEq, Repr

/-- What a stop gives the steward (R230). -/
structure StopRec where
  level : Nat
  info : TrapInfo
  pc : BitVec 22
  /-- its column was replaced by a spare one since (R234) -/
  remap : Bool := false
deriving DecidableEq, Repr

/-- A wrong symbol of a slice (R174): byte `lane` of the word at a row of one of the 18 banks (16 and 17 are the check banks), and whether its
bank flags it. Slices go by their core. -/
structure SymErr where
  core : Nat
  row : Nat
  bank : Nat
  lane : Nat
  flagged : Bool
deriving DecidableEq, Repr

/-- A trigger word under way to the trigger fabric (R240), with the pending result of the snap that sent it (core, level, number). -/
structure SnapWord where
  /-- 0 a steward, 1 the pin, 2 a core stop, 3 snap: the order of words that reach the fabric at one counter value -/
  source : Nat
  answer : Option (Nat × Nat × Nat) := none
deriving DecidableEq, Repr

/-- The snapshot registers of a core (R240): PC, STATUS and trap registers of each bank, CYCLE, symbol events, GUARDREC, and its router's
phase counters and frame number. -/
structure CoreSnap where
  banks : List (BitVec 22 × Word × BitVec 22 × BitVec 16 × Word × BitVec 22)
  cycle : Nat
  corrected : Nat
  uncorrectable : Nat
  guardrec : Word
  phases : Map Nat
  frame : Nat
deriving DecidableEq, Repr

/-- A steward's record of a stopped core (R233), and what its self-test found: 0 no fault, 1 one failed bank, 2 a fault that no bank repair
covers. -/
structure StewardRec where
  banks : Map Ctx
  inq : Map (List LinkFlit)
  outq : Map (List LinkFlit)
  mailbox : List MailEntry
  refusals : List Msg
  notices : List (Word × Word × Word)
  stop : StopRec
  regs : CoreSnap
  finding : Nat
  /-- the failed bank has been marked (R174) -/
  marked : Bool := false
deriving DecidableEq, Repr

/-- A core: its four contexts and what they share (R14, R67). (DESIGN CHOICE, log 37.) (DEDUCED, log 57.) -/
structure Core where
  gang : Option Nat := none
  cycle : Nat := 0
  ctx : Map Ctx := []
  /-- the instruction buffer (R41): its address, its bytes, and which of them were read uncorrectable (R175) -/
  ibuf : Option (Nat × List Byte × List Nat) := none
  inq : Map (List LinkFlit) := []
  outq : Map (List LinkFlit) := []
  ports : Map Port := []
  dispatch : Map (BitVec 32) := []
  dispbase : BitVec 22 := 0
  mbxcfg : Nat := 64
  rulebase : Word := 0
  mailbox : List MailEntry := []
  refusals : List Msg := []
  notices : List (Word × Word × Word) := []
  closes : List Nat := []
  acks : Nat := 0
  frameCount : Map Nat := []
  frameq : Word := 0
  sysq : List AmoReq := []
  ended : BitVec 16 := BitVec.allOnes 16
  closed : BitVec 16 := 0
  phaseCount : Map Nat := []
  versions : Map Version := []
  /-- the most recent entry first -/
  churn : List ChurnEntry := []
  freeHead : Nat := 0
  freeLen : Nat := 0
  balInterval : Nat := 2048
  balThreshold : Nat := 16
  balNext : Option Nat := none
  guardrec : Word := 0
  rowprog : Word := 0
  /-- ROW of the compute command that runs or last ran (R307) -/
  computeRow : Nat := 0
  snapAllow : Bool := false
  corrected : Nat := 0
  uncorrectable : Nat := 0
  failedBanks : List Nat := []
  stop : Option StopRec := none
  /-- the steward's record of the stopped core (R233) -/
  record : Option StewardRec := none
  /-- the cycle at which a pre-emption request reached the core (R236), or its island last changed its clock after that -/
  halting : Option Nat := none
  /-- picoseconds of the 0.40 µs of R236 that are left at that cycle -/
  haltLeft : Nat := 400000
  /-- its run-to-completion routine halts too (R236) -/
  lateHalt : Bool := false
  snap : Option CoreSnap := none
deriving DecidableEq, Repr

/-- A range-lock entry (R218): `id` names the operation that releases it, `place` its place in the table. -/
structure RangeLock where
  id : Nat
  place : Nat := 0
  dest : Bool
  tree : Bool
  core : Nat
  level : Nat
  ta : Word := 0
  addr : Nat := 0
  len : Nat := 0
deriving DecidableEq, Repr

/-- A place of the XU (R287, R288). `taken` holds the pending result an xget left behind. -/
structure XuPlace where
  core : Nat
  level : Nat
  sel : Nat
  vl : Nat
  x : VReg
  result : Option (BitVec 2048) := none
  taken : Option Nat := none
deriving DecidableEq, Repr

/-- A table TBLn (R285). -/
structure XuTable where
  lo : BitVec 32
  hi : BitVec 32
  extrap : Bool
  knots : List (BitVec 32)
deriving DecidableEq, Repr

/-- A top-k instance (R290, R291): pairs of key and payload. -/
structure Ku where
  owner : Option (Nat × Nat) := none
  k : Nat := 0
  key : Nat := 0
  thr : Bool := false
  theta : BitVec 32 := 0
  list : List (BitVec 32 × BitVec 32) := []
  buf : List (BitVec 32 × BitVec 32) := []
deriving DecidableEq, Repr

/-- The fields of a Cheob header that stay in force in a cluster (R395), and the routine extents of its routine table (first address,
length). -/
structure CodeHdr where
  entry : BitVec 22 := 0
  dispoff : Nat := 0x6C000
  mboxoff : Nat := 0x6D000
  ringoff : Nat := 0x68000
  table : Nat := 0x64000
  nseg : Nat := 1
  tables : Nat := 0
  tmask : BitVec 16 := 0
  rtab : Nat := 0
  nrtn : Nat := 0
  routines : List (Nat × Nat) := []
deriving DecidableEq, Repr

/-- A streaming segment (R396). -/
structure Segment where
  addr : Nat
  bytes : List Byte
deriving DecidableEq, Repr

/-- A cluster of eight cores (R14). Sync objects are keyed 0 to 63 for slots and 64 + address for memory objects (R128). (DEDUCED, log 94.) -/
structure Cluster where
  hdr : CodeHdr := {}
  segments : List Segment := []
  slots : Map (Word × Word) := []
  barQ : Map (List (Nat × Nat × Nat)) := []
  lockQ : Map (List (Nat × Nat)) := []
  ranges : List RangeLock := []
  tables : Map XuTable := []
  places : List XuPlace := []
  ku : Map Ku := []
  /-- the latched range-lock table: the two words of each valid entry by its place (R218, R240) -/
  snapRanges : Map (Word × Word) := []
  snapSlots : Map (Word × Word) := []
deriving DecidableEq, Repr

/-- A weight plane: tag and codes at key 256k + j (R296), and the checksum sums c_k of its rows (R309, R315). -/
structure Plane where
  tag : Tag := .e4m3
  codes : Map Nat := []
  sums : Map (BitVec 32) := []
deriving DecidableEq, Repr

/-- The operand and result state of an array (R296, R300). Scales at 256b + j, accumulators at 65536P + 256i + j. -/
structure ArrayState where
  live : Plane := {}
  shadow : Plane := {}
  scales : Map Nat := []
  scaleQ : List (Map Nat) := []
  acc : Map (BitVec 32) := []
deriving DecidableEq, Repr

/-- The matrix commands (R303): codes of ROWPROG.OP, and mswap. -/
inductive MOp where
  | mload | mscale | mmul | mdrain | mswap
deriving DecidableEq, Repr

/-- A queued command (R303, R306). `row` is the next row; `stopped` marks the command that suspended the queue (R308). -/
structure MCmd where
  op : MOp
  map : MapReg := {}
  plane : Nat := 0
  row : Nat := 0
  seq : Nat := 0
  lockId : Nat := 0
  started : Bool := false
  stopped : Bool := false
deriving DecidableEq, Repr

/-- What a gang image holds of the array of a saved holder (R310). -/
structure SavedArray where
  arr : ArrayState
  cmds : List MCmd
  accepted : Nat
  suspended : Bool
  freeing : Bool
deriving DecidableEq, Repr

/-- A request for a lease (R298); a restored holder brings its saved array (R310). -/
structure LeaseReq where
  core : Nat
  level : Nat
  saved : Option SavedArray := none
deriving DecidableEq, Repr

/-- An array quad (R296 to R299). -/
structure Quad where
  arr : ArrayState := {}
  holder : Option (Nat × Nat) := none
  /-- the last holder: gang, core, level (R300) -/
  last : Option (Nat × Nat × Nat) := none
  queue : List LeaseReq := []
  cmds : List MCmd := []
  accepted : Nat := 0
  commands : Nat := 0
  cycles : Nat := 0
  expiring : Bool := false
  freeing : Bool := false
  suspended : Bool := false
  suspCycles : Nat := 0
  rerunsGrant : Nat := 0
  reruns : Nat := 0
  checks : Nat := 0
  snapCounts : Nat × Nat × Word := (0, 0, 0)
deriving DecidableEq, Repr

/-- The life of a gang (R47 to R49). A restored gang of an XGANG job waits for the others of its job (R17). -/
inductive GangState where
  | allocated | running | preempting | parked | restored
deriving DecidableEq, Repr

/-- The functions of the copy engine and the prefetcher (R189). -/
inductive EngFn where
  | bcopy | bfill | bzero | lift | drop
deriving DecidableEq, Repr

/-- An engine operation in progress (R191 to R197). -/
structure EngineOp where
  id : Nat
  core : Nat
  level : Nat
  fn : EngFn
  src : Word
  dst : Word := 0
  pattern : Word := 0
  ctrl : Word
  clip : Option (BitVec 256) := none
  unit : Nat := 0
  /-- elements of the present unit that are written already (R217) -/
  part : Nat := 0
  flipped : Nat := 0
  notice : Word := 0
  noticePhase : Nat := 0
  phase : Option Nat := none
deriving DecidableEq, Repr

/-- A pft notice or fship result that waits for its frame quota (R197, R378). -/
structure Notice where
  core : Nat
  level : Nat
  word : Word
  cls : Nat
  tc : Nat
  dst : Nat
  phase : Nat
  w : List Word
deriving DecidableEq, Repr

/-- What the image of a gang holds (R145, R238): its cores and clusters by their index in the rectangle, cluster memory and guard
bits by that index too, lease requests with arrays, engine operations, notices not yet injected and open stream routes. Its cores
are named 8192 × (gang + 1) + index wherever a core is named. (DESIGN CHOICE, log 49.) -/
structure Image where
  cores : List (Nat × Core)
  clusters : List (Nat × Cluster)
  mem : List Host.Cell
  guards : List Nat
  leases : List LeaseReq
  engines : List EngineOp
  outbox : List Notice
  routes : List (Nat × Nat × Nat)
deriving DecidableEq, Repr

/-- A gang (R14). The barrier keeps indices of cores within the gang. (DESIGN CHOICE, log 49.) -/
structure Gang where
  st : GangState := .allocated
  job : Nat := 0
  index : Nat := 0
  ngang : Nat := 1
  asid : Nat := 0
  xgang : Bool := false
  width : Nat := 1
  height : Nat := 1
  lx : Nat := 0
  ly : Nat := 0
  px : Nat := 0
  py : Nat := 0
  begun : List Nat := []
  hdr : CodeHdr := {}
  args : List Word := []
  frameq : Word := 0
  poolOff : Nat := 0
  poolN : Nat := 0
  xumask : BitVec 16 := 0
  code : Word := 0
  imageTA : Word := 0
  armed : BitVec 16 := 0
  barGen : Nat := 0
  barArrived : List Nat := []
  barWait : List (Nat × Nat) := []
  image : Option Image := none
deriving DecidableEq, Repr

/-- The state of a key-value page (R325). -/
inductive PageState where
  | stable | converting | relayout
deriving DecidableEq, Repr

/-- A page header (R325): slots by physical address, 0 for none. -/
structure PageHdr where
  gen : Nat := 0
  age : Nat := 0
  pscale : Nat := 0
  noconv : Bool := false
  state : PageState := .stable
  mx4 : Bool := false
  slot : Nat := 0
  sslot : Nat := 0
  nslot : Nat := 0
  nsslot : Nat := 0
  /-- steps of a re-layout done: 0 begun, 1 slot taken, 2 dequantised, 3 applied (R332); of a conversion: 0 begun, 2 quantised
  (R330) -/
  step : Nat := 0
deriving DecidableEq, Repr

/-- A pool of slots of one size: free slots, addresses of returned ones, and for a residency pool the granules of HBM that it holds, as first
granule and number. -/
structure Pool where
  free : Nat := 0
  back : List Nat := []
  runs : List (Nat × Nat) := []
deriving DecidableEq, Repr

/-- The refresh record of a channel (R340). -/
structure Refresh where
  debt : Int := 0
  count : Nat := 0
  forced : Nat := 0
  maxPost : Nat := 0
  maxPull : Nat := 0
deriving DecidableEq, Repr

/-- A translation miss of a slice (R165, R167): the address space, the page or block of the entry it needs, the frame of its request. -/
structure WalkReq where
  asid : Nat
  ta : Word
  frame : Nat
deriving DecidableEq, Repr

/-- An edge slice (17). -/
structure Slice where
  tick : Nat := 1000
  fp8 : Pool := {}
  mx4 : Pool := {}
  sc : Pool := {}
  tables : List Nat := []
  reqs : List PageReq := []
  /-- the input that its queue served last: the slice of the issuing column (R379) -/
  lastIn : Nat := 255
  /-- pages whose tick waits for the channel of their header (R328, R341) -/
  lateTicks : List Nat := []
  waiting : List Nat := []
  conv : Option Nat := none
  skimPos : Nat × Nat := (0, 0)
  converted : Nat := 0
  aborted : Nat := 0
  relayouts : Nat := 0
  abandoned : Nat := 0
  /-- PRIVCH, and the channels for which it is in force (R340) -/
  priv : BitVec 2 := 0
  privOn : BitVec 2 := 0
  refresh : Map Refresh := []
  banks : Map Nat := []
  reloads : Map Nat := []
  retired : List Nat := []
  stalled : List Nat := []
  macFail : Nat := 0
  transFault : Nat := 0
  dropped : Nat := 0
  /-- misses that a walker serves, and the miss queue (R165, R167) -/
  walkers : List WalkReq := []
  misses : List WalkReq := []
  /-- the translation cache (R165): page and block entries, and table entries, by address space and block; the latest first -/
  cached : List (Nat × Word) := []
  cachedTables : List (Nat × Word) := []
  snap : List Nat := []
deriving DecidableEq, Repr

/-- A launch record's fields (R392) and where it stands in its queue. -/
structure Job where
  asid : Nat
  queue : Nat
  band : Nat
  diemask : Nat
  xgang : Bool
  ngang : Nat
  height : Nat
  width : Nat
  xumask : BitVec 16
  code : Word
  imageTA : Word
  poolOff : Nat
  poolN : Nat
  frameq : Word
  args : List Word
  need : List (Nat × Nat)
  doneCtr : Nat
  hdr : CodeHdr
  /-- gangs not yet allocated -/
  toPlace : Nat
  /-- gangs not yet complete -/
  live : Nat
  parked : Nat := 0
  fault : Bool := false
  /-- none while running; 0 OK, 1 PARKED_RESIDUE, 2 NOFIT, 3 FAULT (R391) -/
  status : Option Nat := none
  /-- frame counter at posting, and at the last promotion (R44) -/
  posted : Nat := 0
  promoted : Nat := 0
  /-- place in the order of posting (R44). (DEDUCED, log 98.) -/
  order : Nat := 0
deriving DecidableEq, Repr

/-- Vale and its tables (22, 08). (DESIGN CHOICE, log 66.) -/
structure Vale where
  jobs : Map Job := []
  /-- queued jobs, oldest first -/
  queue : List Nat := []
  nextJob : Nat := 16
  nextGang : Nat := 0
  nextId : Nat := 1
  seq : Nat := 0
  counters : Map Nat := []
  pool : Map Pool := []
  slotHome : Map Nat := []
  routines : Map Word := []
  control : Map (Word × Word) := []
  /-- allocation points: 16 KiB granules of HBM and of the capacity tier, 2 KiB tables, slots of a slice's channels -/
  hbm : Nat := 1
  cxl : Nat := 0
  tablesUsed : Nat := 1
  slotsUsed : Map Nat := []
  period : Nat := 10
  /-- calls not answered yet with their numbers, in arrival order (R390) -/
  calls : List (Caller × Nat) := []
  answer : Option Word := none
  doorbells : List Nat := []
  completions : List Nat := []
  msix : List Nat := []
  reports : List (Nat × Nat × Word × BitVec 22 × Nat) := []
  told : List Nat := []
  /-- what units reported to it: retired channels (kind 0: slice, channel), ports down (1: port, 0) -/
  notified : List (Nat × Nat × Nat) := []
deriving DecidableEq, Repr

/-- A link flit as a scale-out port sends it (R383): header, payload, CRC, and the 8-bit check of each lane, lane 0 lowest. -/
structure SentFlit where
  header : BitVec 64
  payload : BitVec 512
  crc : BitVec 32
  checks : BitVec 64
deriving DecidableEq, Repr

/-- A scale-out port (R383 to R385), and the instants of its last 1588 exchange (R386). -/
structure SoPort where
  width : Nat := 8
  bad : BitVec 8 := 0
  replays : Nat := 0
  crcerr : Nat := 0
  expect : Nat := 0
  nextSeq : Nat := 0
  /-- the replay buffer: flits sent and not yet acknowledged, oldest first, with number, type and payload (R384) -/
  unacked : List (Nat × BitVec 16 × BitVec 512) := []
  /-- everything it has sent, replays too -/
  wire : List SentFlit := []
  /-- frame-counter values of the errors attributed to each lane -/
  laneErrs : Map (List Nat) := []
  /-- lanes whose repair is due -/
  due : List Nat := []
  /-- the first and the last flit of a replay that is not yet acknowledged -/
  replaying : Option (Nat × Nat) := none
  /-- flits delivered, with number, type and payload; replay requests sent; and the flit that the last of them asks for, until it is
  delivered -/
  delivered : List (Nat × BitVec 16 × BitVec 512) := []
  asked : List Nat := []
  awaited : Option Nat := none
  /-- t1 to t4 of the delay mechanism, in ns -/
  times : Nat × Nat × Nat × Nat := (0, 0, 0, 0)
  /-- the latched status register (R240) -/
  snap : Word := 0
deriving DecidableEq, Repr

/-- The flits in flight, and what reaches cores without one of the four message channels (02, 06). -/
structure Net where
  msgs : List Msg := []
  retires : List Retire := []
  closes : List (Nat × Nat) := []
  notices : List (Nat × Word × Word × Word) := []
  outbox : List Notice := []
  /-- stream routes that hold their channels: source core, direction, destination core (R381) -/
  routes : List (Nat × Nat × Nat) := []
  /-- the input that each output of a router served last (R379) -/
  lastIn : Map Nat := []
deriving DecidableEq, Repr

/-- The module's own registers (22, R240, R377). -/
structure Module where
  powered : Bool := false
  locked : Bool := false
  ready : List Nat := []
  fails : List Nat := []
  fwok : Bool := false
  fwfail : Bool := false
  vale : Bool := false
  fuse : Nat := 0
  meas : Map (BitVec 512) := []
  power : Word := 0
  frame : Nat := 0
  /-- the module's 1588 clock in ns: its offset from the frame counter, and the last time it gave (R386) -/
  timeOffset : Int := 0
  time : Nat := 0
  /-- MHz and mV of each island (R401) -/
  islands : Map (Nat × Nat) := []
  temps : Map Nat := []
  slowed : List Nat := []
  spares : Map Nat := []
  therm : Bool := false
  pcieResets : Nat := 0
  snapHeld : Bool := false
  snapMissed : Nat := 0
  snapSeq : Nat := 0
  snapDue : Option Nat := none
  /-- trigger words that have not reached the fabric yet -/
  snapWords : List SnapWord := []
  quote : Option (BitVec 4096) := none
  bar0 : Map Word := []
  bar2 : Map Word := []
  lastHostRead : Word := 0
deriving DecidableEq, Repr

/-- The whole machine. (DESIGN CHOICE, log 7.) -/
structure State where
  cores : Map Core := []
  clusters : Map Cluster := []
  quads : Map Quad := []
  slices : Map Slice := []
  gangs : Map Gang := []
  engines : List EngineOp := []
  bdps : Map (List Ship) := []
  net : Net := {}
  vale : Vale := {}
  mod : Module := {}
  ports : Map SoPort := []
  cmem : List Host.Cell := []
  guards : List Nat := []
  /-- the wrong symbols of cluster memory (R174) -/
  wrong : List SymErr := []
  /-- words of rows that hold wrong symbols, by core, row and data bank, whose codes a later write has restored (R175) -/
  restored : List (Nat × Nat × Nat) := []
  /-- the word that a context watches in waitv, by 4 × core + level, and whether a write has reached it since it last compared (R135) -/
  watch : Map (Nat × Bool) := []
  phys : List Host.Cell := []
  /-- uncorrectable 32-byte granules of physical memory (R334) -/
  badPhys : List Nat := []
  /-- MAC state of sectors of keyed roots: key and buffer version under which the sector was last written (R170) -/
  sectors : Map Nat := []
  roots : Map (Word × Word × Word × Word) := []
  entries : Map (Word × Word) := []
  headers : Map PageHdr := []
  /-- which context exec acts for: core and level -/
  cur : Nat × Nat := (0, 0)
  /-- which agents move next; when empty, the free schedule of Config at `ticks` does -/
  agenda : List Turn := []
  ticks : Nat := 0
  freeCtr : Nat := 0
deriving DecidableEq, Repr

/-- Why a step has no next state. -/
inductive Fault where
  /-- raised by `step` once THERMTRIP has been asserted and the module has stopped (R401); safe: nothing runs any more -/
  | moduleStopped
deriving DecidableEq, Repr

/-- Why a step is refused. -/
inductive Refusal where
  /-- raised by an arm of `exec` for an instruction without a meaning yet; safe: the machine does not go on -/
  | notModelled (mnemonic : String)
deriving DecidableEq, Repr

/-- The machine right after reset, before PWRGOOD rises: every register at its Reset value (R8), no gang resident, every memory
zero (R398 step 2). (DESIGN CHOICE, log 1.) -/
def State.reset : State := {}

/-- A core with no gang: every field at its start (R67). -/
def Core.idle : Core := {}

/-- A context at its start: PRIO is its level (R67). -/
def Ctx.start (level : Nat) : Ctx := { prio := level }

end Sys2Proof.Machine
end

