-- ==== Sys2Proof/Machine/Mem.lean ====
section
/-! DEFINITION. Memory as a canonical list of cells (addresses strictly rising, no cell equal to what an unlisted address reads
as), sorted sets of numbers, and little-endian access (R4). An unlisted byte reads 0: R398 zeroes every memory. -/
namespace Sys2Proof.Machine

/-- What an unlisted address reads as (R398 step 2, R11). (DESIGN CHOICE, log 6.) -/
def Mem.unlisted : Byte := 0

/-- Read one byte. (DESIGN CHOICE, log 6.) -/
def Mem.read : List Host.Cell → Nat → Byte
  | [], _ => Mem.unlisted
  | (k, v) :: r, a => if k = a then v else Mem.read r a

/-- A cell list with the cell of a put in front, unless it is what an unlisted address reads as. (DESIGN CHOICE, log 6.) -/
def Mem.put (a : Nat) (b : Byte) (r : List Host.Cell) : List Host.Cell :=
  if b = Mem.unlisted then r else (a, b) :: r

/-- Write one byte, keeping the canonical form. -/
def Mem.write : List Host.Cell → Nat → Byte → List Host.Cell
  | [], a, b => Mem.put a b []
  | (k, v) :: r, a, b =>
    if a < k then Mem.put a b ((k, v) :: r)
    else if k = a then Mem.put a b r
    else (k, v) :: Mem.write r a b

/-- The canonical form: addresses above a bound, strictly rising, no unlisted value. -/
def Mem.wfFrom : Nat → List Host.Cell → Bool
  | _, [] => true
  | lo, (k, v) :: r => decide (lo ≤ k) && decide (v ≠ Mem.unlisted) && Mem.wfFrom (k + 1) r

/-- The canonical form of a memory. (DESIGN CHOICE, log 6.) -/
def Mem.wf (m : List Host.Cell) : Bool := Mem.wfFrom 0 m

/-- n bytes from an address, as a number, little-endian (R4). -/
def Mem.readN (m : List Host.Cell) (a : Nat) : Nat → Nat
  | 0 => 0
  | n + 1 => (Mem.read m a).toNat + 256 * Mem.readN m (a + 1) n

/-- Write the n low bytes of a number, little-endian. -/
def Mem.writeN (m : List Host.Cell) (a : Nat) : Nat → Nat → List Host.Cell
  | 0, _ => m
  | n + 1, x => Mem.writeN (Mem.write m a (BitVec.ofNat 8 x)) (a + 1) n (x / 256)

/-- Write a list of bytes. -/
def Mem.writeBytes (m : List Host.Cell) (a : Nat) : List Byte → List Host.Cell
  | [] => m
  | b :: r => Mem.writeBytes (Mem.write m a b) (a + 1) r

/-- n bytes from an address, as a list. -/
def Mem.readBytes (m : List Host.Cell) (a : Nat) : Nat → List Byte
  | 0 => []
  | n + 1 => Mem.read m a :: Mem.readBytes m (a + 1) n

/-- Membership in a sorted set. -/
def NatSet.mem (l : List Nat) (x : Nat) : Bool := l.contains x

/-- Insert into a sorted set. -/
def NatSet.insert : List Nat → Nat → List Nat
  | [], x => [x]
  | y :: r, x => if x < y then x :: y :: r else if x = y then y :: r else y :: NatSet.insert r x

/-- Remove from a set. -/
def NatSet.erase (l : List Nat) (x : Nat) : List Nat := l.filter (· ≠ x)

/-- The first n numbers from a start. -/
def count (start : Nat) : Nat → List Nat
  | 0 => []
  | n + 1 => start :: count (start + 1) n

/-- The first index from i at which a list's element meets a test. -/
def findIdxFrom {α : Type} (p : α → Bool) : List α → Nat → Option Nat
  | [], _ => none
  | x :: r, i => if p x then some i else findIdxFrom p r (i + 1)

/-- A list without the element at an index. -/
def removeAt {α : Type} (l : List α) (i : Nat) : List α := l.take i ++ l.drop (i + 1)

/-- Bytes of a number, lowest first. -/
def bytesOf (x : Nat) : Nat → List Byte
  | 0 => []
  | n + 1 => BitVec.ofNat 8 x :: bytesOf (x / 256) n

/-- The bytes of a list as a number, lowest first. -/
def ofBytes : List Byte → Nat
  | [] => 0
  | b :: r => b.toNat + 256 * ofBytes r

end Sys2Proof.Machine
end

