-- ==== Sys2Proof/Machine/Ops.lean ====
section
/-! DEFINITION. The named operations that every meaning is written with: where things are, the registers of the context that
`State.cur` names, links, the end of an instruction, taking a trap and returning from one, stops, the ends of waits and of routines. -/
namespace Sys2Proof.Machine

/-- The outcome of a step. -/
abbrev Outcome := Host.Outcome State Fault Refusal

/-! ### Places (R14, R166, R173, R296) -/

/-- Column of a core. -/
def coreX (c : Nat) : Nat := c % 128
/-- Row of a core. -/
def coreY (c : Nat) : Nat := c / 128
/-- The cluster of a core. -/
def clusterOf (c : Nat) : Nat := coreY c / 2 * 32 + coreX c / 4
/-- The cluster core number (R67). -/
def clusterCore (c : Nat) : Nat := coreX c % 4 + 4 * (coreY c % 2)
/-- The core of a cluster with a cluster core number. -/
def coreIn (k i : Nat) : Nat := (k / 32 * 2 + i / 4) * 128 + (k % 32 * 4 + i % 4)
/-- The array quad of a core (R296). -/
def quadOf (c : Nat) : Nat := coreY c / 4 * 16 + coreX c / 8
/-- The die of a core: columns 32n to 32n + 31. -/
def dieOf (c : Nat) : Nat := coreX c / 32
/-- The core next to a core in direction 0 N, 1 E, 2 S, 3 W (R375). -/
def neighbour (c dir : Nat) : Option Nat :=
  match dir with
  | 0 => if coreY c = 0 then none else some (c - 128)
  | 1 => if coreX c = 127 then none else some (c + 1)
  | 2 => if coreY c = 47 then none else some (c + 128)
  | 3 => if coreX c = 0 then none else some (c - 1)
  | _ => none
/-- The opposite direction. -/
def opposite (dir : Nat) : Nat := (dir + 2) % 4

/-! ### Access to the state -/

/-- A core. -/
def State.core (s : State) (c : Nat) : Core := Map.getD s.cores c Core.idle
/-- Put a core. -/
def State.setCore (s : State) (c : Nat) (k : Core) : State := { s with cores := Map.set s.cores c k }
/-- Change a core. -/
def State.modCore (s : State) (c : Nat) (f : Core → Core) : State := s.setCore c (f (s.core c))
/-- A context of a core. -/
def Core.bank (k : Core) (l : Nat) : Ctx := Map.getD k.ctx l (Ctx.start l)
/-- Put a context of a core. -/
def Core.setBank (k : Core) (l : Nat) (x : Ctx) : Core := { k with ctx := Map.set k.ctx l x }
/-- A context. -/
def State.ctx (s : State) (c l : Nat) : Ctx := (s.core c).bank l
/-- Put a context. -/
def State.setCtx (s : State) (c l : Nat) (x : Ctx) : State := s.modCore c (fun k => k.setBank l x)
/-- Change a context. -/
def State.modCtx (s : State) (c l : Nat) (f : Ctx → Ctx) : State := s.setCtx c l (f (s.ctx c l))
/-- A cluster. -/
def State.cluster (s : State) (k : Nat) : Cluster := Map.getD s.clusters k {}
/-- Change a cluster. -/
def State.modCluster (s : State) (k : Nat) (f : Cluster → Cluster) : State :=
  { s with clusters := Map.set s.clusters k (f (s.cluster k)) }
/-- An array quad. -/
def State.quad (s : State) (q : Nat) : Quad := Map.getD s.quads q {}
/-- Change an array quad. -/
def State.modQuad (s : State) (q : Nat) (f : Quad → Quad) : State :=
  { s with quads := Map.set s.quads q (f (s.quad q)) }
/-- An edge slice. -/
def State.slice (s : State) (n : Nat) : Slice := Map.getD s.slices n {}
/-- Change an edge slice. -/
def State.modSlice (s : State) (n : Nat) (f : Slice → Slice) : State :=
  { s with slices := Map.set s.slices n (f (s.slice n)) }
/-- A scale-out port. -/
def State.soPort (s : State) (p : Nat) : SoPort := Map.getD s.ports p {}
/-- Change a scale-out port. -/
def State.modPort (s : State) (p : Nat) (f : SoPort → SoPort) : State :=
  { s with ports := Map.set s.ports p (f (s.soPort p)) }
/-- Change a gang that exists. -/
def State.modGang (s : State) (g : Nat) (f : Gang → Gang) : State :=
  match Map.get? s.gangs g with
  | some x => { s with gangs := Map.set s.gangs g (f x) }
  | none => s
/-- The gang that holds a core (R16). -/
def State.gangOf (s : State) (c : Nat) : Option Gang :=
  match (s.core c).gang with
  | some g => Map.get? s.gangs g
  | none => none
/-- Change the messages and answers in flight. -/
def State.modNet (s : State) (f : Net → Net) : State := { s with net := f s.net }
/-- Change Vale's tables. -/
def State.modVale (s : State) (f : Vale → Vale) : State := { s with vale := f s.vale }
/-- Change the module's registers. -/
def State.modMod (s : State) (f : Module → Module) : State := { s with mod := f s.mod }

/-! ### Gangs: rectangles and logical ids (R16, R239) -/

/-- Whether a core lies in the gang's present rectangle. -/
def Gang.holds (g : Gang) (c : Nat) : Bool :=
  decide (g.px ≤ coreX c) && decide (coreX c < g.px + 4 * g.width) && decide (g.py ≤ coreY c)
    && decide (coreY c < g.py + 2 * g.height) && decide (c < Config.numCores)
/-- The logical id of a core of the gang. -/
def Gang.toLog (g : Gang) (c : Nat) : Nat := (coreY c - g.py + g.ly) * 128 + (coreX c - g.px + g.lx)
/-- The core that holds a logical id, if the gang has it. -/
def Gang.toPhys (g : Gang) (id : Nat) : Option Nat :=
  if decide (g.lx ≤ coreX id) && decide (coreX id < g.lx + 4 * g.width) && decide (g.ly ≤ coreY id)
      && decide (coreY id < g.ly + 2 * g.height)
  then some ((coreY id - g.ly + g.py) * 128 + (coreX id - g.lx + g.px)) else none
/-- The index of a core in the rectangle, row by row. -/
def Gang.indexOf (g : Gang) (c : Nat) : Nat := (coreY c - g.py) * (4 * g.width) + (coreX c - g.px)
/-- The core with an index in the rectangle. -/
def Gang.coreAt (g : Gang) (i : Nat) : Nat := (g.py + i / (4 * g.width)) * 128 + (g.px + i % (4 * g.width))
/-- The cores of the gang. -/
def Gang.cores (g : Gang) : List Nat := (count 0 (8 * g.width * g.height)).map g.coreAt
/-- The clusters of the gang. -/
def Gang.clusters (g : Gang) : List Nat :=
  (count 0 (g.width * g.height)).map fun i => (g.py / 2 + i / g.width) * 32 + (g.px / 4 + i % g.width)
/-- COREID of a core: its logical id, or its coordinates when no gang holds it (R67). -/
def State.coreId (s : State) (c : Nat) : Nat :=
  match s.gangOf c with
  | some g => g.toLog c
  | none => c

/-! ### The monad of an instruction -/

/-- How an instruction ends without completing. -/
inductive Exc where
  /-- a precise trap: no effect (R9) -/
  | trap (t : TrapInfo)
  /-- a precise trap that keeps the effects its entry lists (R100, R363, R365) -/
  | trapKeep (t : TrapInfo)
  /-- the read of the result of a failed fship (R202): the mark of a scalar register is cleared and the trap taken -/
  | poisonRead (r : Nat) (t : TrapInfo)
  /-- a precise trap of a translation fault, which the slice of the issuing column counts (R165, R240) -/
  | treeTrap (slice : Nat) (t : TrapInfo)
  /-- a precise trap of a read whose sector's MAC fails, which the home slice counts (R171) -/
  | macTrap (slice : Nat) (t : TrapInfo)
  /-- READY but not eligible: no effect, it issues again (R18, R63) -/
  | stall
  /-- the context becomes WAITING; effects so far stay (R19) -/
  | block (w : Wait)
  /-- the context becomes WAITING for a code segment, with no effect, and the instruction issues again (R42, R396) -/
  | await (addr : Nat)
deriving DecidableEq, Repr

/-- An instruction's work on the state. -/
abbrev M := EStateM Exc State

/-- Trap codes (R224). -/
def cILLEGAL : Nat := 0x01
/-- PRIV. -/
def cPRIV : Nat := 0x02
/-- FORMAT. -/
def cFORMAT : Nat := 0x03
/-- STALL_SHORT. -/
def cSTALL_SHORT : Nat := 0x04
/-- ALIGN. -/
def cALIGN : Nat := 0x05
/-- LOCAL_RANGE. -/
def cLOCAL_RANGE : Nat := 0x06
/-- GUARD. -/
def cGUARD : Nat := 0x07
/-- TREE_UNMAPPED. -/
def cTREE_UNMAPPED : Nat := 0x08
/-- TREE_PROT. -/
def cTREE_PROT : Nat := 0x09
/-- RANGE_LOCKED. -/
def cRANGE_LOCKED : Nat := 0x0A
/-- JT_FETCH. -/
def cJT_FETCH : Nat := 0x0B
/-- RTC_OVERRUN. -/
def cRTC_OVERRUN : Nat := 0x0C
/-- ENGINE. -/
def cENGINE : Nat := 0x0D
/-- ARRAY_CHECK. -/
def cARRAY_CHECK : Nat := 0x0E
/-- LEASE. -/
def cLEASE : Nat := 0x0F
/-- POISON. -/
def cPOISON : Nat := 0x10
/-- LINK_CHAIN. -/
def cLINK_CHAIN : Nat := 0x11
/-- NO_RULE. -/
def cNO_RULE : Nat := 0x12
/-- SYNC_INVALID. -/
def cSYNC_INVALID : Nat := 0x13
/-- VERSION. -/
def cVERSION : Nat := 0x14
/-- BREAK. -/
def cBREAK : Nat := 0x16

/-- Raise a precise trap (R73). -/
def raise {α : Type} (cause : Nat) (val : Word) : M α := throw (.trap { cause := cause, val := val })
/-- Raise a precise trap with a detail code (R158). -/
def raiseTree {α : Type} (cause detail : Nat) (val : Word) : M α :=
  throw (.trap { cause := cause, detail := detail, val := val })
/-- The issuing core. -/
def myCore : M Nat := do return (← get).cur.1
/-- The issuing level. -/
def myLevel : M Nat := do return (← get).cur.2
/-- The bank of the issuing context. -/
def State.me (s : State) : Ctx := s.ctx s.cur.1 s.cur.2
/-- The issuing core's record. -/
def State.here (s : State) : Core := s.core s.cur.1
/-- The issuing cluster's record. -/
def State.home (s : State) : Cluster := s.cluster (clusterOf s.cur.1)
/-- Change the bank of the issuing context. -/
def modMe (f : Ctx → Ctx) : M Unit := modify fun s => s.modCtx s.cur.1 s.cur.2 f
/-- Change the issuing core. -/
def modHere (f : Core → Core) : M Unit := modify fun s => s.modCore s.cur.1 f
/-- Change the issuing cluster. -/
def modHome (f : Cluster → Cluster) : M Unit := modify fun s => s.modCluster (clusterOf s.cur.1) f
/-- A number that names an operation. -/
def freshId : M Nat := do
  let s ← get
  set { s with vale := { s.vale with nextId := s.vale.nextId + 1 } }
  return s.vale.nextId

/-! ### Links (R66, R380) -/

/-- The direction of the last hop of the route of R376. -/
def lastDir (src dst : Nat) : Nat :=
  if coreY src < coreY dst then 2 else if coreY dst < coreY src then 0
  else if coreX src < coreX dst then 1 else 3

/-- Where a word pushed towards a direction goes: core, inbound direction, whether along a stream. An armed or open port of the direction
takes it, whether or not a neighbour lies there. (DEDUCED, log 81.) -/
def State.linkTarget (s : State) (c dir : Nat) : Option (Nat × Nat × Bool) :=
  match Map.getD (s.core c).ports dir .closed with
  | .closed =>
    match neighbour c dir, s.gangOf c with
    | some n, some g => if g.holds n then some (n, opposite dir, false) else none
    | _, _ => none
  | .armed id | .open id =>
    match s.gangOf c with
    | some g => (g.toPhys id).map fun n => (n, opposite (lastDir c n), true)
    | none => none

/-- Whether a pop that finds too few flits waits for more (R66): a core of the gang lies in the direction, or a stream port is open in
it. (DEDUCED, log 81.) -/
def State.popWaits (s : State) (c dir : Nat) : Bool :=
  (match Map.getD (s.core c).ports dir .closed with
    | .open _ => true
    | _ => false)
    || (match neighbour c dir, s.gangOf c with
        | some m, some g => g.holds m
        | _, _ => false)

/-- Pop n flits of a direction (R66): waits while there are fewer; TREE_PROT where none can come. (DEDUCED, log 81.) -/
def popFlits (dir n : Nat) : M (List LinkFlit) := do
  let s ← get
  let q := Map.getD s.here.inq dir []
  if n ≤ q.length then
    modHere fun k => { k with inq := Map.set k.inq dir (q.drop n) }
    return q.take n
  else if s.popWaits s.cur.1 dir then throw .stall
  else raiseTree cTREE_PROT 0 (BitVec.ofNat 64 (28 + dir))

/-- Push flits towards a direction (R66): waits while the outbound queue has too little space. -/
def pushFlits (dir : Nat) (data : List (BitVec 512)) (vtag : Option Tag) : M Unit := do
  let s ← get
  match s.linkTarget s.cur.1 dir with
  | none => raiseTree cTREE_PROT 0 (BitVec.ofNat 64 (28 + dir))
  | some (dst, inDir, stream) =>
    let q := Map.getD s.here.outq dir []
    if q.length + data.length ≤ 16 then
      let fs := data.map fun x => { data := x, vtag := vtag, stream := stream, dst := dst, inDir := inDir : LinkFlit }
      modHere fun k =>
        { k with
          outq := Map.set k.outq dir (q ++ fs)
          ports := match Map.getD k.ports dir .closed with
            | .armed id => Map.set k.ports dir (.open id)
            | _ => k.ports }
    else throw .stall

/-- The tag a popped vector takes (R66). -/
def flitsTag : List LinkFlit → Tag
  | [] => .raw
  | f :: r => match f.vtag with
    | some t => t
    | none => flitsTag r

/-- The four 64-byte chunks of a vector, lowest first. -/
def chunks (x : BitVec 2048) : List (BitVec 512) :=
  [x.extractLsb' 0 512, x.extractLsb' 512 512, x.extractLsb' 1024 512, x.extractLsb' 1536 512]
/-- A vector from its chunks. -/
def joinChunks : List LinkFlit → Nat
  | [] => 0
  | f :: r => f.data.toNat + 2 ^ 512 * joinChunks r

/-! ### Registers (R65, R69, R73) -/

/-- The pending write to a destination, if any. -/
def Ctx.pendingTo (x : Ctx) (d : Dest) : Option Pend := x.pend.find? fun q => decide (q.dest = d)

/-- Class and code of a destination, as STALL_SHORT reports them (R63). -/
def Dest.code : Dest → Nat
  | .scalar r => r
  | .vector r => 32 + r
  | .pred r => 64 + r

/-- The scoreboard at a read (R63): interlock on a variable-latency result; on a fixed-latency one STALL_SHORT when STATUS.SBC is
set, the old value otherwise. In a core's cycle an instruction comes here only once nothing holds it back (`State.heldBack`), so a
STALL_SHORT never overtakes a wait. -/
def readReady (d : Dest) : M Unit := do
  let s ← get
  match s.me.pendingTo d with
  | none => pure ()
  | some q =>
    match q.ready with
    | none => throw .stall
    | some _ => if s.me.sbc then raise cSTALL_SHORT (BitVec.ofNat 64 d.code) else pure ()

/-- The scoreboard at a write: writes to one register land in issue order (R63). -/
def writeReady (d : Dest) : M Unit := do
  match (← get).me.pendingTo d with
  | none => pure ()
  | some _ => throw .stall

/-- A scalar register of a bank: s0 reads 0 (R65). -/
def Ctx.sreg (x : Ctx) (r : Nat) : Word := if r = 0 then 0 else Map.getD x.s r 0
/-- A bank with a scalar register written: s0 ignores writes (R65). -/
def Ctx.setSreg (x : Ctx) (r : Nat) (v : Word) : Ctx := if r = 0 then x else { x with s := Map.set x.s r v }
/-- A vector register of a bank. -/
def Ctx.vreg (x : Ctx) (r : Nat) : VReg := Map.getD x.v r {}
/-- A bank with a vector register written. -/
def Ctx.setVreg (x : Ctx) (r : Nat) (v : VReg) : Ctx := { x with v := Map.set x.v r v }
/-- A predicate register: p0 reads all ones (R65). -/
def Ctx.preg (x : Ctx) (r : Nat) : BitVec 256 := if r = 0 then BitVec.allOnes 256 else Map.getD x.p r 0
/-- A bank with a predicate register written: p0 ignores writes (R65). -/
def Ctx.setPreg (x : Ctx) (r : Nat) (v : BitVec 256) : Ctx := if r = 0 then x else { x with p := Map.set x.p r v }
/-- A tensor-map register. -/
def Ctx.mreg (x : Ctx) (r : Nat) : MapReg := Map.getD x.m r {}

/-- ReadS (R73): a scalar operand; a link code pops one word (R66). The mark of a failed fship raises POISON imprecisely (R202): in a trap
handler it becomes pending, and the read goes on (R228). (DEDUCED, log 82.) -/
def readS (r : BitVec 5) : M Word := do
  if r.toNat < 28 then
    readReady (.scalar r.toNat)
    let x := (← get).me
    match Map.get? x.poisoned r.toNat with
    | some ta =>
      let t : TrapInfo := { cause := cPOISON, val := ta }
      if x.td then
        modMe fun y => { y with poisoned := Map.del y.poisoned r.toNat, pendTraps := y.pendTraps ++ [t] }
        return x.sreg r.toNat
      else throw (.poisonRead r.toNat t)
    | none => return x.sreg r.toNat
  else
    let fs ← popFlits (r.toNat - 28) 1
    return BitVec.ofNat 64 (joinChunks fs)

/-- SetS (R73): write a scalar operand at once; a link code pushes the word (R66). -/
def writeS (r : BitVec 5) (v : Word) : M Unit := do
  if r.toNat < 28 then
    if r.toNat = 0 then pure ()
    else
      writeReady (.scalar r.toNat)
      modMe fun x => { x.setSreg r.toNat v with poisoned := Map.del x.poisoned r.toNat }
  else
    pushFlits (r.toNat - 28) [v.setWidth 512] none

/-- Add a pending write. -/
def addPend (d : Dest) (v : BitVec 2048) (t : Tag) (ready : Option Nat) (waitsFor : Nat) : M Nat := do
  writeReady d
  let i ← freshId
  modMe fun x => { x with pend := x.pend ++ [{ id := i, dest := d, val := v, tag := t, ready := ready, open_ := waitsFor }] }
  return i

/-- Write a scalar result of fixed latency L (R62). -/
def writeSL (r : BitVec 5) (v : Word) (lat : Nat) : M Unit := do
  if lat ≤ 1 ∨ r.toNat = 0 ∨ 28 ≤ r.toNat then writeS r v
  else
    let c := (← get).here.cycle
    let _ ← addPend (.scalar r.toNat) (v.setWidth 2048) .raw (some (c + lat)) 0
    pure ()

/-- A link destination must name a core of the gang or an open stream (R66). (DEDUCED, log 81.) -/
def linkExists (r : BitVec 5) : M Unit := do
  let s ← get
  if 28 ≤ r.toNat ∧ (s.linkTarget s.cur.1 (r.toNat - 28)).isNone then raiseTree cTREE_PROT 0 (BitVec.ofNat 64 r.toNat)
  else pure ()

/-- Leave a variable-latency scalar result behind, waiting for n answers (R63, R66); 0 when there is no register to write. -/
def deferS (r : BitVec 5) (v : Word) (n : Nat) : M Nat := do
  if r.toNat = 0 then return 0
  else
    linkExists r
    addPend (.scalar r.toNat) (v.setWidth 2048) .raw none n

/-- ReadV (R73): a vector operand with its tag; a link code pops four flits as one unit (R66). -/
def readV (r : BitVec 5) : M VReg := do
  if r.toNat < 28 then
    readReady (.vector r.toNat)
    return (← get).me.vreg r.toNat
  else
    let fs ← popFlits (r.toNat - 28) 4
    return { val := BitVec.ofNat 2048 (joinChunks fs), tag := flitsTag fs }

/-- SetV (R73) with a result of fixed latency L; a link code pushes four flits. -/
def writeVL (r : BitVec 5) (v : VReg) (lat : Nat) : M Unit := do
  if r.toNat < 28 then
    if lat ≤ 1 then
      writeReady (.vector r.toNat)
      modMe fun x => x.setVreg r.toNat v
    else
      let c := (← get).here.cycle
      let _ ← addPend (.vector r.toNat) v.val v.tag (some (c + lat)) 0
      pure ()
  else pushFlits (r.toNat - 28) (chunks v.val) (some v.tag)

/-- Leave a variable-latency vector result behind, waiting for n answers. -/
def deferV (r : BitVec 5) (v : VReg) (n : Nat) : M Nat := do
  linkExists r
  addPend (.vector r.toNat) v.val v.tag none n

/-- The old bits of a vector destination, which an instruction keeps where it writes none; a link word has none, so they are a free
value (R267). (DESIGN CHOICE, log 22.) -/
def oldV (r : BitVec 5) : M (BitVec 2048) := do
  let s ← get
  if r.toNat < 28 then return (s.me.vreg r.toNat).val
  else
    set { s with freeCtr := s.freeCtr + 1 }
    return Config.linkRest s.freeCtr

/-- A predicate register as a source. -/
def readP (r : Nat) : M (BitVec 256) := do
  if r = 0 then return BitVec.allOnes 256
  else
    readReady (.pred r)
    return (← get).me.preg r

/-- Write a predicate register with a result of fixed latency; p0 discards it. -/
def writePL (r : Nat) (v : BitVec 256) (lat : Nat) : M Unit := do
  if r = 0 then pure ()
  else
    let c := (← get).here.cycle
    let _ ← addPend (.pred r) (v.setWidth 2048) .raw (some (c + lat)) 0
    pure ()

/-- Write a predicate register, latency 2 (R62). -/
def writeP (r : Nat) (v : BitVec 256) : M Unit := writePL r v 2

/-- Bit of a predicate (R73). -/
def predBit (v : BitVec 256) (lane : Nat) : Bool := v.getLsbD lane

/-- A tensor map as a source. -/
def readM (r : Nat) : M MapReg := do return (← get).me.mreg r

/-- A scalar instruction of kind P (R55, R56): its body only when bit 0 of the predicate is 1. -/
def guardP (p : BitVec 3) (body : M Unit) : M Unit := do
  let v ← readP p.toNat
  if predBit v 0 then body else pure ()

/-! ### The instruction buffer (R41) -/

/-- Whether the buffer holds an address. -/
def Core.buffered (k : Core) (pc : BitVec 22) : Bool :=
  match k.ibuf with
  | some (b, _, _) => decide (b ≤ pc.toNat) && decide (pc.toNat < b + 64)
  | none => false
/-- A transfer to an address: the buffer is discarded when the target lies outside it. -/
def Core.transfer (k : Core) (pc : BitVec 22) : Core := if k.buffered pc then k else { k with ibuf := none }

/-! ### The end of an instruction -/

/-- One level of the end check (R107): the bank and the next address. -/
def endLevel (k : Nat) (xn : Ctx × BitVec 22) : Ctx × BitVec 22 :=
  let x := xn.1
  if Map.getD x.lc k 0 ≠ 0 ∧ xn.2 = Map.getD x.le k 0 then
    let n := Map.getD x.lc k 0 - 1
    ({ x with lc := Map.set x.lc k n }, if n ≠ 0 then Map.getD x.ls k 0 else xn.2)
  else xn

/-- The end check (R107): levels 2, 1, 0, then PC := next. -/
def endCheck (x : Ctx) (next : BitVec 22) : Ctx :=
  let r := endLevel 0 (endLevel 1 (endLevel 2 (x, next)))
  { r.1 with pc := r.2 }

/-- A context goes on at `next` after the end check (R107), with its next issue from a cycle on (R61). -/
def State.goOnAt (s : State) (c l : Nat) (next : BitVec 22) (issue : Nat) : State :=
  let k := s.core c
  let x := k.bank l
  let x' := endCheck { x with st := .ready, wait := .none, op := .none, nextIssue := issue, rtcCount := x.rtcCount + 1,
                              alignUntil := none } next
  let k' := k.setBank l x'
  s.setCore c (if x'.pc = next then k' else k'.transfer x'.pc)

/-- A context goes on at `next` after the end check, its next issue no earlier than S + 1 cycles later (R61, R107). -/
def State.goOn (s : State) (c l : Nat) (next : BitVec 22) (sc : Nat) : State := s.goOnAt c l next ((s.core c).cycle + sc + 1)

/-- A context goes on at the target of a taken transfer: no end check (R101, R107). An earlier bound on its next issue stays (R61). -/
def State.jumpTo (s : State) (c l : Nat) (target : BitVec 22) (sc : Nat) : State :=
  let k := s.core c
  let x := k.bank l
  let x' := { x with st := .ready, wait := .none, op := .none, pc := target, nextIssue := max x.nextIssue (k.cycle + sc + 1)
                     rtcCount := x.rtcCount + 1 }
  s.setCore c ((k.setBank l x').transfer target)

/-- The waiting or unfinished instruction of a context completes (R19). Its stall count runs from its issue (R61). -/
def State.finishWait (s : State) (c l : Nat) : State :=
  s.goOnAt c l ((s.ctx c l).pc + 4) (max (s.ctx c l).nextIssue ((s.core c).cycle + 1))

/-- Give a waiting context the result of its instruction: a register, or for a link code a word that is pushed when it lands (R66). -/
def State.giveS (s : State) (c l d : Nat) (v : Word) : State :=
  if d < 28 then s.modCtx c l fun x => { x.setSreg d v with poisoned := Map.del x.poisoned d }
  else
    { s.modCtx c l fun x =>
        { x with pend := x.pend ++ [{ id := s.vale.nextId, dest := .scalar d, val := v.setWidth 2048, ready := none }] } with
      vale := { s.vale with nextId := s.vale.nextId + 1 } }

/-! ### Snapshots and stops (R230 to R232, R240) -/

/-- A trigger word sets out for the fabric (R240). -/
def State.sendTrigger (s : State) (w : SnapWord) : State := s.modMod fun m => { m with snapWords := m.snapWords ++ [w] }

/-- A trigger reaches the fabric (R240, R241): counted in MISSED while a snapshot is held. (DEDUCED, log 60.) -/
def State.trigger (s : State) : State :=
  s.modMod fun m =>
    if m.snapHeld then { m with snapMissed := min (m.snapMissed + 1) 0xFFFF }
    else { m with snapHeld := true, snapDue := some (m.frame + Config.latchDelay) }

/-- mb0 of a fault notice (R235). -/
def noticeWord (kind cause detail core : Nat) : Word :=
  BitVec.ofNat 64 (kind + cause % 256 * 2 ^ 8 + detail % 256 * 2 ^ 16 + core % 8192 * 2 ^ 32)

/-- A fault notice sent to every core of a core's gang (R235). -/
def State.notifyGang (s : State) (c : Nat) (w0 w1 w2 : Word) : State :=
  match s.gangOf c with
  | none => s
  | some g => s.modNet fun n => { n with notices := n.notices ++ g.cores.map fun k => (k, w0, w1, w2) }

/-- The array of a stopped core's lease (R231, R302): queued commands are suspended. (DEDUCED, log 35.) -/
def Quad.stopped (q : Quad) (c : Nat) : Quad :=
  match q.holder with
  | some (h, _) => if h = c ∧ q.cmds ≠ [] then { q with suspended := true } else q
  | none => q

/-- Code of a tag (R70). -/
def Tag.code : Tag → Nat
  | .raw => 0 | .int8 => 1 | .int16 => 2 | .int32 => 3 | .int64 => 4 | .fp32 => 5 | .fp16 => 6 | .bf16 => 7
  | .e4m3 => 8 | .e5m2 => 9 | .mx4 => 10 | .ds8 => 11 | .int4 => 12 | .e8m0 => 13 | .poison => 15

/-! ### What a context learns of its array (R299, R320, R321) -/

/-- Whether a context holds the array's lease. -/
def Quad.holds (q : Quad) (c l : Nat) : Bool := decide (q.holder = some (c, l))

/-- Whether a held lease is at a limit (R299). -/
def Quad.atLimit (q : Quad) : Bool :=
  q.holder.isSome && !q.expiring && (decide (Config.leaseCommands ≤ q.commands) || decide (Config.leaseCycles ≤ q.cycles))

/-- What happens at a limit (R299): the counts restart while no request waits; otherwise the lease becomes expiring. -/
def Quad.limit (q : Quad) : Quad :=
  if q.queue.isEmpty then { q with commands := 0, cycles := 0 } else { q with expiring := true, suspCycles := 0 }

/-- The status word of mstat for the lease holder (R320). -/
def State.mstatWord (s : State) (c l : Nat) : Word :=
  let q := s.quad (quadOf c)
  if q.holds c l then
    BitVec.ofNat 64 (2 ^ 63 + (if q.expiring then 2 ^ 62 else 0) + (if q.suspended then 2 ^ 61 else 0) + (if q.cmds.isEmpty then 0 else 2 ^ 60)
      + min q.cmds.length 16 * 2 ^ 55 + min q.rerunsGrant 255 * 2 ^ 40 + min q.arr.scaleQ.length 2 * 2 ^ 36
      + q.arr.live.tag.code * 2 ^ 32 + q.arr.shadow.tag.code * 2 ^ 28 + (s.core c).rowprog.toNat % 2 ^ 24)
  else 0

/-- A context that waits in mcheck action 0 goes on once the queue is empty or suspended (R321). (DEDUCED, log 35.) -/
def State.notifyCheck (s : State) (n : Nat) : State :=
  let q := s.quad n
  match q.holder with
  | none => s
  | some (c, l) =>
    match (s.ctx c l).st, (s.ctx c l).wait with
    | .waiting, .mcheck d => if q.cmds.isEmpty || q.suspended then (s.giveS c l d (s.mstatWord c l)).finishWait c l else s
    | _, _ => s

/-- A stop (R230, R231): the trap is not entered; its cause, TRAPVAL and TRAPPC go to the steward's record; the core issues nothing
more, and the steps of the unfinished instruction that trapped are over. A wait for the suspension of the array's queue ends (R321). The stop is a common trigger (R232), and the gang's cores are notified
(R235). -/
def State.stopCore (s : State) (c l : Nat) (t : TrapInfo) (pc : BitVec 22) : State :=
  let s1 := ((s.modCore c fun k => { k.setBank l { k.bank l with op := .none } with stop := some { level := l, info := t, pc := pc } }).modQuad
    (quadOf c) fun q => q.stopped c)
  ((s1.notifyCheck (quadOf c)).sendTrigger { source := 2 }).notifyGang c (noticeWord 2 t.cause t.detail (s.coreId c)) t.val (pc.setWidth 64)

/-! ### Taking a trap and returning from one (R227, R229, R230, R110) -/

/-- The bank after trap entry (R227). -/
def Ctx.enterTrap (x : Ctx) (t : TrapInfo) (pc : BitVec 22) : Ctx :=
  { x with
    trappc := pc
    trapcause := BitVec.ofNat 16 (t.detail * 256 + t.cause)
    trapval := t.val
    td := true
    pc := x.tvec
    st := .ready
    wait := .none
    op := .none
    alignUntil := none }

/-- Whether a trap stops the core instead (R230). (DEDUCED, log 11.) -/
def Ctx.trapStops (x : Ctx) : Bool := x.td || x.rtc || decide (x.tvec = 0)

/-- Taking a trap (R227): TRAPPC, TRAPCAUSE, TRAPVAL and STATUS.TD are set, PC goes to TVEC, the buffer is discarded; or the core
stops (R230). It waits until every pending write of the context has landed (R64). A stall count that still runs holds for the handler's first
instruction (R61). (DEDUCED, log 11.) -/
def State.takeTrap (s : State) (c l : Nat) (t : TrapInfo) (pc : BitVec 22) : State :=
  let k := s.core c
  let x := k.bank l
  if x.trapStops then s.stopCore c l t pc
  else
    let x' := { x.enterTrap t pc with nextIssue := max x.nextIssue (k.cycle + 1), rtcCount := x.rtcCount + 1 }
    s.setCore c { k.setBank l x' with ibuf := none }

/-- Return from a trap handler (R110): PC := TRAPPC, STATUS.TD := 0, the buffer is discarded. -/
def State.returnFromTrap (s : State) (c l : Nat) (target : BitVec 22) (sc : Nat) : State :=
  let k := s.core c
  let x := k.bank l
  let x' := { x with td := false, pc := target, nextIssue := k.cycle + sc + 1, rtcCount := x.rtcCount + 1 }
  s.setCore c { k.setBank l x' with ibuf := none }

/-! ### Cluster memory by place -/

/-- The key of a byte of cluster memory in the list of cells. -/
def cellKey (k a : Nat) : Nat := k * Config.clusterBytes + a
/-- Read n bytes of a cluster. -/
def State.cread (s : State) (k a n : Nat) : Nat := Mem.readN s.cmem (cellKey k a) n
/-- Where the word at a cluster address lies in the slice of the core that owns it (R173, R174): core, row and data bank. -/
def wordPlace (k a : Nat) : Nat × Nat × Nat := (coreIn k (a / 2 ^ 19), a / 2 ^ 10 % 2 ^ 9 * 8 + a / 8 % 8, a / 2 ^ 6 % 16)
/-- Whether a symbol belongs to the word at a cluster address. -/
def SymErr.inWord (e : SymErr) (k a : Nat) : Bool := decide ((e.core, e.row, e.bank) = wordPlace k a)
/-- The addresses of the 64-bit words that n bytes meet. -/
def wordsOf (a n : Nat) : List Nat := if n = 0 then [] else (count (a / 8) ((a + n - 1) / 8 - a / 8 + 1)).map (8 * ·)
/-- The addresses of the words that n bytes hold whole. -/
def wholeWords (a n : Nat) : List Nat := (wordsOf a n).filter fun w => decide (a ≤ w) && decide (w + 8 ≤ a + n)

/-! ### The codewords of cluster memory (R174, R175) -/

/-- The symbols of a codeword that count as wrong: those of a bank marked failed are reconstructed. -/
def State.wrongIn (s : State) (c row lane : Nat) : List SymErr :=
  s.wrong.filter fun e => decide ((e.core, e.row, e.lane) = (c, row, lane)) && !(s.core c).failedBanks.contains e.bank
/-- Whether wrong symbols leave a codeword uncorrectable: two of them, or with a bank marked failed one that is not flagged. -/
def State.codeBad (s : State) (c row lane : Nat) : Bool :=
  match s.wrongIn c row lane with
  | [] => false
  | [e] => !(s.core c).failedBanks.isEmpty && !e.flagged
  | _ => true
/-- Whether the word at a cluster address reads uncorrectable: one of its eight codewords does, and no write of the whole word has restored
it (R175). -/
def State.wordBad (s : State) (k a : Nat) : Bool :=
  let (c, row, _) := wordPlace k a
  !s.restored.contains (wordPlace k a) && (count 0 8).any (s.codeBad c row)
/-- Whether a range of cluster bytes holds an uncorrectable word (R175). -/
def State.badLocal (s : State) (k a n : Nat) : Bool := decide (s.wrong ≠ []) && (wordsOf a n).any (s.wordBad k)
/-- Whether a read of the word at a cluster address corrects a symbol (R174). -/
def State.wordCorrects (s : State) (k a : Nat) : Bool :=
  let (c, row, _) := wordPlace k a
  (count 0 8).any fun l => !(s.wrongIn c row l).isEmpty && !s.codeBad c row l
/-- A read of the word at a cluster address corrects what can be corrected: its row is rewritten corrected, and a corrected event counts at the
core whose slice holds the word (R174). (DEDUCED, log 57.) -/
def State.scrubWord (s : State) (k a : Nat) : State :=
  if s.wordCorrects k a then
    let (c, row, _) := wordPlace k a
    { s with wrong := s.wrong.filter fun e => !(decide ((e.core, e.row) = (c, row)) && !s.codeBad c row e.lane) }.modCore c fun y =>
      { y with corrected := y.corrected + 1 }
  else s
/-- A read of n bytes corrects each word that it meets. -/
def State.scrub (s : State) (k a n : Nat) : State := if s.wrong = [] then s else (wordsOf a n).foldl (fun t w => t.scrubWord k w) s

/-- A write of whole 64-bit words restores their codes (R175): their own wrong symbols are gone, and a word that the other symbols of its row would
leave uncorrectable reads correct from now on. (DEDUCED, log 57.) -/
def State.heal (s : State) (k a n : Nat) : State :=
  if s.wrong = [] then s
  else
    let t := { s with wrong := s.wrong.filter fun e => !((wholeWords a n).any (e.inWord k)) }
    { t with restored := ((wholeWords a n).filter (t.wordBad k)).map (wordPlace k) ++ t.restored }

/-- A write reaches the words that contexts of the cluster watch (R135). (DEDUCED, log 29.) -/
def State.noteWrite (s : State) (k a n : Nat) : State :=
  if s.watch = [] then s
  else
    { s with
      watch := s.watch.map fun e =>
        if clusterOf (e.1 / 4) = k ∧ e.2.1 < a + n ∧ a < e.2.1 + 8 then (e.1, (e.2.1, true)) else e }

/-- Write n bytes of a cluster. -/
def State.cwrite (s : State) (k a n x : Nat) : State :=
  ({ s with cmem := Mem.writeN s.cmem (cellKey k a) n x }.heal k a n).noteWrite k a n

/-- Write a list of bytes into a cluster. -/
def State.cwriteBytes (s : State) (k a : Nat) (b : List Byte) : State :=
  ({ s with cmem := Mem.writeBytes s.cmem (cellKey k a) b }.heal k a b.length).noteWrite k a b.length

/-- A stored symbol of cluster memory becomes wrong (R174): words of its row whose codes a write had restored are uncorrectable again. (DEDUCED,
log 57.) (DEDUCED, log 57.) -/
def State.upsetSymbol (s : State) (e : SymErr) : State :=
  if Config.numCores ≤ e.core ∨ 4096 ≤ e.row ∨ 18 ≤ e.bank ∨ 8 ≤ e.lane
      ∨ (s.wrong.any fun q => decide ((q.core, q.row, q.bank, q.lane) = (e.core, e.row, e.bank, e.lane))) = true then s
  else { s with wrong := s.wrong ++ [e], restored := s.restored.filter fun q => decide ((q.1, q.2.1) ≠ (e.core, e.row)) }

/-- A granule of 32 bytes of HBM becomes uncorrectable (R334, R171). -/
def State.upsetGranule (s : State) (n : Nat) : State :=
  if n < 2 ^ 35 then { s with badPhys := NatSet.insert s.badPhys n } else s

/-! ### Sync objects (R128, R129): keyed 0 to 63 for slots, 64 + address for memory objects -/

/-- The two words of an object: the stored words, whether or not their granule is guarded or their codes are good. (DEDUCED, log 84.) -/
def State.obj (s : State) (k o : Nat) : Word × Word :=
  if o < 64 then Map.getD (s.cluster k).slots o (0, 0)
  else (BitVec.ofNat 64 (s.cread k (o - 64) 8), BitVec.ofNat 64 (s.cread k (o - 56) 8))
/-- Write the two words of an object, guarded or not. (DEDUCED, log 84.) -/
def State.setObj (s : State) (k o : Nat) (w : Word × Word) : State :=
  if o < 64 then s.modCluster k fun y => { y with slots := Map.set y.slots o w }
  else (s.cwrite k (o - 64) 8 w.1.toNat).cwrite k (o - 56) 8 w.2.toNat

/-- KIND of an object. -/
def objKind (w : Word × Word) : Nat := w.1.toNat / 2 ^ 48 % 4
/-- GEN. -/
def objGen (w : Word × Word) : Nat := w.1.toNat / 2 ^ 32 % 2 ^ 16
/-- EXPECT. -/
def objExpect (w : Word × Word) : Nat := w.1.toNat / 2 ^ 16 % 2 ^ 16
/-- ARRIVED. -/
def objArrived (w : Word × Word) : Nat := w.1.toNat % 2 ^ 16
/-- HELD. -/
def objHeld (w : Word × Word) : Bool := w.2.getLsbD 63
/-- Word 0 of an object: KIND, GEN, EXPECT, ARRIVED. -/
def objWord (kind gen expect arrived : Nat) : Word :=
  BitVec.ofNat 64 (kind % 4 * 2 ^ 48 + gen % 2 ^ 16 * 2 ^ 32 + expect % 2 ^ 16 * 2 ^ 16 + arrived % 2 ^ 16)
/-- Word 1 of a held lock: HELD, LEVEL, CORE. -/
def lockWord (level core : Nat) : Word := BitVec.ofNat 64 (2 ^ 63 + level % 4 * 2 ^ 13 + core % 2 ^ 13)

/-- Whether an object has arrivals, waiters or a holder. -/
def State.objBusy (s : State) (k o : Nat) : Bool :=
  let w := s.obj k o
  decide (objArrived w ≠ 0) || objHeld w || !(Map.getD (s.cluster k).barQ o []).isEmpty || !(Map.getD (s.cluster k).lockQ o []).isEmpty

/-! ### Barriers: completion (R131, R133) -/

/-- Release the waiters of a barrier generation with a status. -/
def State.releaseAll (s : State) (status : Word) : List (Nat × Nat × Nat) → State
  | [] => s
  | (c, l, d) :: r => (if (s.ctx c l).st = .waiting then (s.giveS c l d status).finishWait c l else s).releaseAll status r

/-- The present generation of a handle barrier ends with a status for its waiters (R131, R133). -/
def State.endBar (s : State) (k o : Nat) (status : Word) : State :=
  let w := s.obj k o
  let q := Map.getD (s.cluster k).barQ o []
  let s1 := s.setObj k o (objWord 1 (objGen w + 1) (objExpect w) 0, w.2)
  (s1.modCluster k fun y => { y with barQ := Map.del y.barQ o }).releaseAll status q

/-- An arrival at a handle barrier with an expected count (R131): none when it is refused; otherwise the state and whether the generation
completed. -/
def State.arrive (s : State) (k o n : Nat) : Option (State × Bool) :=
  let w := s.obj k o
  if objKind w = 2 ∧ s.objBusy k o then none
  else if objArrived w ≠ 0 ∧ objExpect w ≠ n then none
  else
    let a := objArrived w + 1
    let s1 := s.setObj k o (objWord 1 (objGen w) n a, w.2)
    if a = n then some (s1.endBar k o 0, true) else some (s1, false)

/-- Whether the level-0 context of a core has halted: a restarted or ended one counts as arrived (R131, R233). -/
def State.halted0 (s : State) (c : Nat) : Bool := decide ((s.ctx c 0).st = .idle)

/-- The present generation of the gang barrier ends (R131, R133): waiters go on with the status. -/
def State.endGangBar (s : State) (gi : Nat) (status : Word) : State :=
  match Map.get? s.gangs gi with
  | none => s
  | some g =>
    let s1 := s.modGang gi fun x => { x with barGen := (x.barGen + 1) % 2 ^ 16, barArrived := [], barWait := [] }
    s1.releaseAll status (g.barWait.map fun w => (g.coreAt w.1, 0, w.2))

/-- Complete the gang barrier when every level-0 context that has not halted has arrived (R131). -/
def State.checkGangBar (s : State) (gi : Nat) : State :=
  match Map.get? s.gangs gi with
  | none => s
  | some g =>
    if g.barArrived ≠ [] ∧ (g.cores.all fun c => s.halted0 c || g.barArrived.contains (g.indexOf c)) = true
    then s.endGangBar gi 0 else s

/-! ### Phase counters (R136) -/

/-- A router's counter of a phase. -/
def State.phaseOf (s : State) (c p : Nat) : Nat := Map.getD (s.core c).phaseCount p 0
/-- Add to a router's counter, 24 bits. -/
def State.countUp (s : State) (c p : Nat) : State :=
  s.modCore c fun k => { k with phaseCount := Map.set k.phaseCount p ((Map.getD k.phaseCount p 0 + 1) % 2 ^ 24) }
/-- Subtract from a router's counter. -/
def State.countDown (s : State) (c p : Nat) : State :=
  s.modCore c fun k => { k with phaseCount := Map.set k.phaseCount p (Map.getD k.phaseCount p 0 - 1) }
/-- Send a retirement to a router (R136): the completion acknowledgement is itself never counted. -/
def State.sendRetire (s : State) (r : Retire) : State := s.modNet fun n => { n with retires := n.retires ++ [r] }
/-! ### The end of a routine (R21, R64, R194, R228) -/

/-- Whether an engine operation of a context still runs. -/
def State.engineRuns (s : State) (c l : Nat) : Bool := s.engines.any fun e => decide (e.core = c) && decide (e.level = l)

/-- Whether the context holds its quad's lease with commands left (R228, R302). -/
def State.commandsLeft (s : State) (c l : Nat) : Bool :=
  let q := s.quad (quadOf c)
  (decide (q.holder = some (c, l)) && !q.cmds.isEmpty)
    || (q.queue.any fun r => decide (r.core = c) && decide (r.level = l) &&
        (match r.saved with
         | some v => !v.cmds.isEmpty
         | none => false))

/-- Whether a flit is a memory request of its source: to an edge slice, or an amo. -/
def Msg.request (m : Msg) : Bool :=
  match m.load with
  | some (.page _) | some (.ship _) | some (.amo _) => true
  | _ => false

/-- Whether a flit leaves the mesh towards an edge slice (R376). -/
def Msg.toSlice (m : Msg) : Bool :=
  match m.load with
  | some (.page _) | some (.ship _) => true
  | _ => false

/-- Whether a memory request of a context is under way (R376). -/
def State.loadsTravel (s : State) (c l : Nat) : Bool :=
  s.net.msgs.any fun m => m.request && decide (m.src = c) && decide (m.level = l)

/-- The amo that a message brings. -/
def Msg.amo (m : Msg) : Option AmoReq :=
  match m.load with
  | some (.amo q) => some q
  | _ => none

/-- Every amo that is not performed yet: in its owner's system sequencer, or on its way there. -/
def State.amos (s : State) : List AmoReq := (s.cores.map fun e => e.2.sysq).flatten ++ s.net.msgs.filterMap Msg.amo

/-- The shipped function that a message brings. -/
def Msg.ship (m : Msg) : Option Ship :=
  match m.load with
  | some (.ship q) => some q
  | _ => none

/-- Every shipped function that is not performed yet: at its processor, or on its way there. -/
def State.ships (s : State) : List Ship := (s.bdps.map fun e => e.2).flatten ++ s.net.msgs.filterMap Msg.ship

/-- Whether every memory access that a context has issued has its place in the order of its location: none is on its way or
waits at a base-die processor or a system sequencer. A request in the queue of a headed page has it, since every later access to the page is
served behind it (R208, R220). (DEDUCED, log 70.) (DEDUCED, log 71.) -/
def State.performed (s : State) (c l : Nat) : Bool :=
  !(s.bdps.any fun e => e.2.any fun q => decide (q.core = c) && decide (q.level = l))
    && !(s.cores.any fun e => e.2.sysq.any fun q => decide (q.core = c) && decide (q.level = l))
    && !s.loadsTravel c l

/-- Whether a core's system sequencer queue, which requests, results and link steps share, has a free entry (R28). (DEDUCED, log 91.) -/
def Core.sysqRoom (k : Core) : Bool := decide (k.sysq.length < 16)

/-- Wait at a release until every earlier access of the context has been performed (R211). (DEDUCED, log 70.) -/
def releasePoint : M Unit := do
  let s ← get
  if s.performed s.cur.1 s.cur.2 then pure () else throw .stall

/-- Whether nothing holds back the end of the context's routine: pending writes, engine operations, matrix commands, accesses not yet
performed (R213). -/
def State.mayEnd (s : State) (c l : Nat) : Bool :=
  (s.ctx c l).pend.isEmpty && !s.engineRuns c l && !s.commandsLeft c l && s.performed c l

/-- Clear CLAIMED, CCORE and CLEVEL (bits 28:13), or HELD and HLEVEL (bits 31:29), of a node header (R346). -/
def headerWithout (w : Word) (claim hold : Bool) : Word :=
  let w1 := if claim then w &&& BitVec.ofNat 64 (0xFFFFFFFF_FFFFFFFF - 0x1FFFE000) else w
  if hold then w1 &&& BitVec.ofNat 64 (0xFFFFFFFF_FFFFFFFF - 0xE0000000) else w1

/-- CLAIMED (R346). -/
def claimedBit (w : Word) : Bool := w.getLsbD 13
/-- HELD (R346). -/
def heldBit (w : Word) : Bool := w.getLsbD 29
/-- The claimant's core and level (R346). -/
def claimant (w : Word) : Nat × Nat := (w.toNat / 2 ^ 14 % 2 ^ 13, w.toNat / 2 ^ 27 % 4)

/-! ### Marks on nodes (R347, R352) -/

/-- CORE of a port reference. -/
def prCore (pr : Word) : Nat := pr.toNat / 2 ^ 22 % 2 ^ 13
/-- Cluster address of the node of a port reference. -/
def prNode (pr : Word) : Nat := pr.toNat / 2 ^ 5 % 2 ^ 17 * 32
/-- PORT of a port reference. -/
def prPort (pr : Word) : Nat := pr.toNat % 4
/-- The core that owns a port reference used by a core of the same gang. -/
def State.prOwner (s : State) (c : Nat) (pr : Word) : Option Nat :=
  match s.gangOf c with
  | some g => g.toPhys (prCore pr)
  | none => none
/-- Word w of the node of a port reference at its owner. -/
def State.nodeWord (s : State) (owner : Nat) (pr : Word) (w : Nat) : Word :=
  BitVec.ofNat 64 (s.cread (clusterOf owner) (prNode pr + 8 * w) 8)
/-- The first failing check of a port reference (R348) for a core; `port` says that it names a port. -/
def State.prFault (s : State) (c : Nat) (pr : Word) (port : Bool) : Option TrapInfo :=
  let bad : Option TrapInfo := some { cause := cSYNC_INVALID, val := pr }
  if pr.toNat / 2 ^ 35 ≠ 0 ∨ pr.toNat / 4 % 8 ≠ 0 ∨ (port ∧ (pr = 0 ∨ prPort pr = 3)) then bad
  else
    match s.prOwner c pr with
    | none => some { cause := cTREE_PROT, val := pr }
    | some o => if prNode pr = 0 ∨ prNode pr / 2 ^ 19 ≠ clusterCore o then bad else none
/-- A word of a node as core c reaches it; 0 where the reference reaches no node. (DEDUCED, log 40.) -/
def State.nword (s : State) (c : Nat) (pr : Word) (w : Nat) : Word :=
  match s.prFault c pr false, s.prOwner c pr with
  | none, some o => s.nodeWord o pr w
  | _, _ => 0
/-- FWD. -/
def fwdBit (h : Word) : Bool := h.getLsbD 8
/-- Whether a header is claimed by another context. -/
def claimedByOther (h : Word) (who : Nat × Nat) : Bool := claimedBit h && decide (claimant h ≠ who)
/-- Whether a context's link waits on a claim, and has written no end (R360, R363). -/
def State.claimWait (s : State) (c l : Nat) : Bool :=
  match (s.ctx c l).op with
  | .node (.link k) =>
    let h := s.nword c k.q 0
    decide (k.part = .qSide) && !fwdBit h && claimedByOther h (s.coreId c, l)
  | _ => false
/-- Write word w of a node at its owner. -/
def State.setNodeWord (s : State) (owner : Nat) (pr : Word) (w : Nat) (v : Word) : State :=
  s.cwrite (clusterOf owner) (prNode pr + 8 * w) 8 v.toNat

/-- End a context's claim on a node, if it has one. -/
def State.endClaim (s : State) (c l : Nat) (pr : Word) : State :=
  match s.prOwner c pr with
  | none => s
  | some o =>
    let w := s.nodeWord o pr 0
    if claimedBit w && decide (claimant w = (s.coreId c, l)) then s.setNodeWord o pr 0 (headerWithout w true false) else s

/-- End a context's holds. -/
def State.endHolds (s : State) (c l : Nat) : List Nat → State
  | [] => s
  | a :: r =>
    let w := s.cread (clusterOf c) a 8
    let s1 := if heldBit (BitVec.ofNat 64 w) && decide (w / 2 ^ 30 % 4 = l)
      then s.cwrite (clusterOf c) a 8 (headerWithout (BitVec.ofNat 64 w) false true).toNat else s
    s1.endHolds c l r

/-- Whether two port references name one node. -/
def sameNode (a b : Word) : Bool := decide (a.toNat / 32 = b.toNat / 32)

/-- The nodes that a context may have claimed: those of its popped pair, and of the pair that its unfinished nrun takes. -/
def Ctx.claims (x : Ctx) : List Word :=
  (match x.popped with
    | some e => [e.pra, e.prb]
    | none => []) ++
  (match x.op with
    | .node (.nrun e _) => [e.pra, e.prb]
    | _ => [])

/-- End every claim of a context but on the nodes of a list, and every hold (R352). -/
def State.endMarksBut (s : State) (c l : Nat) (keep : List Word) : State :=
  let x := s.ctx c l
  let s1 := (x.claims.filter fun p => !keep.any (sameNode p)).foldl (fun t p => t.endClaim c l p) s
  (s1.endHolds c l x.holds).modCtx c l fun y => { y with holds := [] }

/-- End every claim and hold of a context (R352). -/
def State.endMarks (s : State) (c l : Nat) : State := s.endMarksBut c l []

/-- Give back the churn entry that a level's unfinished nrun has taken. -/
def Core.giveBack (k : Core) (l : Nat) : Core :=
  { k with churn := k.churn.map fun e => if e.taken = some l then { e with taken := none } else e }

/-- Retire the popped pair that a context holds (R366). -/
def State.retirePair (s : State) (c l : Nat) : State :=
  match (s.ctx c l).popped with
  | some e => (s.sendRetire { router := e.counter, phase := e.phase }).modCtx c l fun y => { y with popped := none }
  | none => s

/-! ### The end of a routine, continued -/

/-- Retire counts of phases at a core's own router. -/
def State.countsDown (s : State) (c : Nat) : List Nat → State
  | [] => s
  | p :: r => (s.countDown c p).countsDown c r

/-- Retire held engine counts (R195). -/
def State.retireHeld (s : State) (c l : Nat) : State :=
  (s.countsDown c (s.ctx c l).held).modCtx c l fun y => { y with held := [] }

/-- Retire the message whose handler a context ran (R136). -/
def State.retireStarted (s : State) (c l : Nat) : State :=
  match (s.ctx c l).started with
  | some r => (s.sendRetire r).modCtx c l fun y => { y with started := none }
  | none => s

/-- Free the XU places of a context that no xget took (R289); one that an xget took keeps its place in the computing order (R288). And unbind its top-k instance (R293). -/
def Cluster.dropContext (k : Cluster) (c l : Nat) : Cluster :=
  { k with
    places := k.places.filter fun q => !(decide (q.core = c) && decide (q.level = l) && decide (q.taken = none))
    ku := k.ku.map fun e => if e.2.owner = some (c, l) then (e.1, { e.2 with owner := none, list := [], buf := [] }) else e }

/-- A lease held by a context whose routine ends is released once its queue is empty (R302). (DEDUCED, log 33.) -/
def Quad.dropContext (q : Quad) (c l : Nat) : Quad :=
  { q with
    freeing := q.freeing || decide (q.holder = some (c, l))
    queue := q.queue.filter fun r => !(decide (r.core = c) && decide (r.level = l)) }

/-- What a restart leaves of an unfinished instruction: a link that has written its first end always runs to completion (R363). -/
def Op.left : Op → Op
  | .node (.link l) => if l.part = .lookThrough ∨ l.part = .qSide then .none else .node (.link l)
  | _ => .none

/-- The bank after the end of its routine: IDLE, loops inactive (R108). An imprecise trap that is still pending, because the routine ends in a trap
handler, goes with it. (DESIGN CHOICE, log 106.) -/
def Ctx.ended (x : Ctx) : Ctx :=
  { x with st := .idle, wait := .none, op := x.op.left, rtc := false, lc := [], pendTraps := [], poisoned := [], alignUntil := none,
           aligned := none }

/-- The end of a routine (R21): counts retire, marks, places, binding and lease end, the buffer is discarded (R41), and a launch
context counts as arrived at the gang barrier (R131). -/
def State.endRoutine (s : State) (c l : Nat) : State :=
  let s1 := ((((s.endMarks c l).retirePair c l).retireHeld c l).retireStarted c l).modCluster (clusterOf c) fun k => k.dropContext c l
  let s2 := s1.modQuad (quadOf c) fun q => q.dropContext c l
  let s3 := s2.modCore c fun k => { (k.giveBack l).setBank l (k.bank l).ended with ibuf := none }
  match (s.core c).gang with
  | some g => if l = 0 then s3.checkGangBar g else s3
  | none => s3

/-! ### Leaving a wait without its event (R19, R228) -/

/-- The pending imprecise trap of a context that may be taken now, if any. -/
def Ctx.takeable (x : Ctx) : Option TrapInfo :=
  if x.td then none
  else
    match x.pendTraps with
    | [] => none
    | t :: _ => some t

/-- Withdraw the request of a WAITING context; the array of a restored holder keeps its place in the lease queue (R310). (DEDUCED, log 33.) -/
def State.withdraw (s : State) (c l : Nat) : State :=
  let k := clusterOf c
  let s1 := match (s.ctx c l).wait with
    | .gangBar _ =>
      match (s.core c).gang, s.gangOf c with
      | some gi, some g =>
        s.modGang gi fun y =>
          { y with
            barArrived := NatSet.erase y.barArrived (g.indexOf c)
            barWait := y.barWait.filter fun w => decide (w.1 ≠ g.indexOf c) }
      | _, _ => s
    | .bar o _ =>
      let w := s.obj k o
      (s.setObj k o (objWord (objKind w) (objGen w) (objExpect w) (objArrived w - 1), w.2)).modCluster k fun y =>
        { y with barQ := Map.set y.barQ o ((Map.getD y.barQ o []).filter fun w => !(decide (w.1 = c) && decide (w.2.1 = l))) }
    | .lock o =>
      s.modCluster k fun y =>
        { y with lockQ := Map.set y.lockQ o ((Map.getD y.lockQ o []).filter fun w => !(decide (w.1 = c) && decide (w.2 = l))) }
    | .lease =>
      s.modQuad (quadOf c) fun q =>
        { q with queue := q.queue.filter fun r => !(decide (r.core = c) && decide (r.level = l) && decide (r.saved = none)) }
    | _ => s
  s1.modCtx c l fun x => { x with st := .ready, wait := .none }

/-! ### How an instruction ends -/

/-- Where a completed instruction goes on. -/
inductive Flow where
  /-- at the next instruction, after the end check -/
  | seq
  /-- at the target of a taken transfer -/
  | goto (t : BitVec 22)
  /-- at the address a loop instruction chose, after the end check (R106) -/
  | loop (next : BitVec 22)
  /-- at the next instruction, after the end check; a loop register is written only then (R112) -/
  | loopReg (n : Nat) (v : Word)
  /-- the body has placed the context itself -/
  | stay
deriving DecidableEq, Repr

/-- An uncorrectable read of cluster memory counts at the core whose slice holds the address (R174, R240). (DEDUCED, log 57.) -/
def State.countBad (s : State) (k a : Nat) : State :=
  s.modCore (coreIn k (a / 2 ^ 19)) fun y => { y with uncorrectable := y.uncorrectable + 1 }

/-- A read of n bytes counts every uncorrectable word that it meets outside guarded granules, each at the core whose slice holds the word (R174).
(DEDUCED, log 57.) -/
def State.countRead (s : State) (k a n : Nat) : State :=
  ((wordsOf a n).filter fun w => s.wordBad k w && !NatSet.mem s.guards (cellKey k w / 64)).foldl (fun t w => t.countBad k w) s

/-- A precise trap of the current context: entered once its pending writes have landed (R64, R227), a stop at once (R230). (DEDUCED, log 11.) -/
def State.afterTrap (s0 : State) (t : TrapInfo) (kept : Bool := false) : State :=
  let s := match t.event with
    | some a => s0.countBad (clusterOf s0.cur.1) a
    | none => s0
  if s.me.pend.isEmpty || s.me.trapStops then s.takeTrap s.cur.1 s.cur.2 t s.me.pc
  else s.modCtx s.cur.1 s.cur.2 fun x => { x with op := .trap t kept }

/-- A bank with LC, LS or LE written (R105). -/
def Ctx.setLoop (x : Ctx) (n : Nat) (v : Word) : Ctx :=
  if n < 0x23 then { x with lc := Map.set x.lc (n - 0x20) v }
  else if n < 0x26 then { x with ls := Map.set x.ls (n - 0x23) (BitVec.ofNat 22 (v.toNat / 2 * 2)) }
  else { x with le := Map.set x.le (n - 0x26) (BitVec.ofNat 22 (v.toNat / 2 * 2)) }

/-- The current context turns out not to be eligible in this cycle: it is READY, and its instruction has not issued (R18). -/
def State.notEligible (s : State) : State :=
  s.modCtx s.cur.1 s.cur.2 fun x => { x with tried := true, st := if x.st = .running then .ready else x.st }

/-- The next state after an instruction's work: `len` its length and `sc` its stall count. The next address is a 22-bit sum: behind the last
word of cluster memory it is 0. (DEDUCED, log 83.) -/
def settle (len : BitVec 22) (sc : Nat) (s : State) : EStateM.Result Exc State Flow → State
  | .ok .seq s1 => s1.goOn s.cur.1 s.cur.2 (s.me.pc + len) sc
  | .ok (.goto t) s1 => s1.jumpTo s.cur.1 s.cur.2 t sc
  | .ok (.loop n) s1 => (s1.goOn s.cur.1 s.cur.2 n sc).modCore s.cur.1 fun k => k.transfer (k.bank s.cur.2).pc
  | .ok (.loopReg n v) s1 =>
    (s1.goOn s.cur.1 s.cur.2 (s.me.pc + len) sc).modCtx s.cur.1 s.cur.2 fun x => x.setLoop n v
  | .ok .stay s1 => s1
  | .error (.trap t) _ => s.afterTrap t
  | .error (.trapKeep t) s1 => s1.afterTrap t true
  | .error (.poisonRead r t) _ => (s.modCtx s.cur.1 s.cur.2 fun x => { x with poisoned := Map.del x.poisoned r }).afterTrap t true
  | .error (.treeTrap n t) _ => (s.modSlice n fun y => { y with transFault := y.transFault + 1 }).afterTrap t
  | .error (.macTrap n t) _ => (s.modSlice n fun y => { y with macFail := y.macFail + 1 }).afterTrap t
  | .error .stall _ => s.notEligible
  | .error (.block w) s1 =>
    s1.modCtx s.cur.1 s.cur.2 fun x => { x with st := .waiting, wait := w, nextIssue := (s.core s.cur.1).cycle + sc + 1 }
  | .error (.await a) _ => s.modCtx s.cur.1 s.cur.2 fun x => { x with st := .waiting, wait := .segment a }

/-- Run a 32-bit instruction that may transfer control. -/
def instrJ (sc : BitVec 3) (body : M Flow) (s : State) : Outcome := .next (settle 4 sc.toNat s (body s))
/-- Run a 32-bit instruction. -/
def instr (sc : BitVec 3) (body : M Unit) (s : State) : Outcome := instrJ sc (do body; return .seq) s
/-- Run a 16-bit instruction (R60). -/
def instr16 (body : M Unit) (s : State) : Outcome := .next (settle 2 0 s ((do body; return .seq : M Flow) s))
/-- Run a 16-bit instruction that may transfer control. -/
def instr16J (body : M Flow) (s : State) : Outcome := .next (settle 2 0 s (body s))

/-- Leave an instruction unfinished: its context is READY but not eligible until events complete it. -/
def leaveOp (sc : BitVec 3) (o : Op) : M Flow := do
  let s ← get
  modMe fun x => { x with st := .ready, op := o, nextIssue := (s.core s.cur.1).cycle + sc.toNat + 1 }
  return .stay

/-- An event that may change the state: it does so when it is enabled, and otherwise nothing happens. (DESIGN CHOICE, log 8.) -/
def happen (s : State) : Option State → Outcome
  | some t => .next t
  | none => .next s

end Sys2Proof.Machine
end

