-- ==== Sys2Proof/Machine/Fetch.lean ====
section
/-! DEFINITION. One cycle of a core up to the instruction it issues: results that land, traps that are due, the choice of the context
(R32 to R38) and the fetch of its instruction (R39 to R42, R50, R51). -/
namespace Sys2Proof.Machine

/-! ### Landing of results -/

/-- A bank with a result written to its register. -/
def Ctx.land (x : Ctx) (q : Pend) : Ctx :=
  match q.dest with
  | .scalar r => { x.setSreg r (q.val.setWidth 64) with poisoned := Map.del x.poisoned r }
  | .vector r => x.setVreg r { val := q.val, tag := q.tag }
  | .pred r => x.setPreg r (q.val.setWidth 256)

/-- Whether a pending result is of fixed latency and readable from this cycle on (R62). -/
def Pend.due (q : Pend) (cycle : Nat) : Bool :=
  match q.ready with
  | some n => decide (n ≤ cycle)
  | none => false

/-- Land the due results of a list, in issue order. -/
def Ctx.landAll (x : Ctx) : List Pend → Ctx
  | [] => x
  | q :: r => (x.land q).landAll r

/-- A bank at the start of a core cycle: fixed-latency results land (R62, R63). -/
def Ctx.atCycle (x : Ctx) (cycle : Nat) : Ctx :=
  let y := x.landAll (x.pend.filter fun q => q.due cycle)
  { y with pend := x.pend.filter fun q => !q.due cycle, tried := false, st := if x.st = .running then .ready else x.st }

/-- Whether CYCLE counts: the core's gang has started and is resident (R68). -/
def State.counting (s : State) (c : Nat) : Bool :=
  match s.gangOf c with
  | some g => decide (g.st = .running) || decide (g.st = .preempting)
  | none => false

/-- A cycle of the island of a core: an array and the cores of its quad share an island, so that the cycles of the holder's core are those of
the array (R6, R299). A lease at a limit has the limit's effect first. (DESIGN CHOICE, log 92.) -/
def Quad.tick (q0 : Quad) (c : Nat) : Quad :=
  let q := if q0.atLimit then q0.limit else q0
  match q.holder with
  | some (h, _) =>
    if h = c then
      { q with
        cycles := min (q.cycles + 1) Config.leaseCycles
        suspCycles := if q.suspended && q.expiring then q.suspCycles + 1 else q.suspCycles }
    else q
  | none => q

/-- The core at its next cycle. -/
def State.nextCycle (s : State) (c : Nat) : State :=
  let k := s.core c
  let n := k.cycle + 1
  (s.setCore c { k with cycle := n, ctx := k.ctx.map fun e => (e.1, e.2.atCycle n) }).modQuad (quadOf c) fun q => q.tick c

/-! ### Traps that are due -/


/-- Whether a core's contexts may issue at a level while a pre-emption request has reached the core (R236). -/
def Core.mayIssue (k : Core) (l : Nat) : Bool :=
  match k.halting with
  | none => true
  | some _ => (k.bank l).rtc && !k.lateHalt

/-- The trap that a context takes before it issues (R64, R228): a raised precise one once its pending writes have landed, or a
pending imprecise one at an instruction boundary, in a wait, in a link that waits on a claim (`claim`), or in place of a precise one whose
instruction then has not issued. `held` says that pre-emption has halted the context, whose imprecise traps stay pending (R236). -/
def Ctx.dueTrap (x : Ctx) (held claim : Bool) : Option (TrapInfo × Bool) :=
  let late := if held then none else x.takeable.map fun t => (t, true)
  if !x.pend.isEmpty then none
  else
    match x.op with
    | .trap t kept => if kept || late.isNone then some (t, false) else late
    | .none => if x.st = .ready ∨ x.st = .running ∨ x.st = .waiting then late else none
    | .node _ => if claim then late else none
    | _ => none

/-- A link stopped where it waits on a claim (R363): register b holds the port reached. -/
def Ctx.stopLink (x : Ctx) : Ctx :=
  match x.op with
  | .node (.link l) => { x.setSreg l.b l.q with op := .none, poisoned := Map.del x.poisoned l.b }
  | _ => x

/-- Stop the link of a context if it waits on a claim (R363). (DEDUCED, log 40.) -/
def State.stopLink (s : State) (c l : Nat) : State := if s.claimWait c l then s.modCtx c l Ctx.stopLink else s

/-- Take the due trap of a context, if there is one. -/
def State.takeDue (s : State) (c l : Nat) : Option State :=
  match (s.ctx c l).dueTrap (!(s.core c).mayIssue l) (s.claimWait c l) with
  | none => none
  | some (t, imprecise) =>
    if imprecise then
      let s1 := s.withdraw c l
      let s2 := (s1.stopLink c l).modCtx c l fun x => { x with pendTraps := x.pendTraps.drop 1 }
      some (s2.takeTrap c l t (s.ctx c l).pc)
    else some (s.takeTrap c l t (s.ctx c l).pc)

/-! ### The choice of a context -/

/-- Whether a pending result of the context is a link word still to be pushed (R66). -/
def Ctx.pushing (x : Ctx) : Bool :=
  x.pend.any fun q =>
    match q.dest with
    | .scalar r => decide (28 ≤ r)
    | .vector r => decide (28 ≤ r)
    | .pred _ => false

/-- Whether a context is eligible in this cycle (R18, R61). -/
def Ctx.eligible (x : Ctx) (cycle : Nat) : Bool :=
  (decide (x.st = .ready) || decide (x.st = .running)) && decide (x.op = .none) && decide (x.alignUntil = none)
    && decide (x.nextIssue ≤ cycle) && !x.tried && !x.pushing && decide (x.takeable = none)

/-- The better of two levels by effective class, then level (R32). Effective class is PRIO: the participants of the gang barrier are
level-0 contexts (R131), whose class is 0, so R34 raises none. -/
def Core.better (k : Core) (a : Option Nat) (l : Nat) : Option Nat :=
  if (k.bank l).eligible k.cycle && k.mayIssue l then
    match a with
    | none => some l
    | some b => if (k.bank l).prio < (k.bank b).prio then some b else some l
  else a

/-- The level that issues in this cycle. (DEDUCED, log 12.) -/
def Core.choose (k : Core) : Option Nat := k.better (k.better (k.better (k.better none 0) 1) 2) 3

/-! ### Align (R40) -/

/-- The recorded extent of the routine that holds an address. -/
def CodeHdr.extentOf (h : CodeHdr) (pc : Nat) : Option (Nat × Nat) :=
  h.routines.find? fun e => decide (e.1 ≤ pc) && decide (pc < e.1 + e.2)

/-- Whether another context does not hold back an align k at pc. -/
def Ctx.alignedWith (x : Ctx) (h : CodeHdr) (k : Nat) (pc : BitVec 22) : Bool :=
  !(decide (x.st = .ready) || decide (x.st = .running) || decide (x.st = .waiting))
    || decide (x.aligned = some (k, pc))
    || (match h.extentOf pc.toNat with
        | some e => !(decide (e.1 ≤ x.pc.toNat) && decide (x.pc.toNat < e.1 + e.2))
        | none => true)

/-- Whether every other context at the level in the cluster and gang has reached the align; those of a stopped core are STOPPED (R18)
and hold nothing back. -/
def State.alignMet (s : State) (c l k : Nat) (pc : BitVec 22) : Bool :=
  (count 0 8).all fun i =>
    let o := coreIn (clusterOf c) i
    decide (o = c) || decide ((s.core o).gang ≠ (s.core c).gang) || (s.core o).stop.isSome || (s.ctx o l).alignedWith (s.cluster (clusterOf c)).hdr k pc

/-- End an align stall of a level when its condition holds. -/
def State.endAlign (s : State) (c l : Nat) : State :=
  let x := s.ctx c l
  match x.alignUntil, x.aligned with
  | some _, some (k, pc) => if s.alignMet c l k pc then s.finishWait c l else s
  | _, _ => s

/-! ### Fetch -/

/-- Whether a range of bytes of a cluster meets a mailbox area of it (R116). -/
def State.inMailbox (s : State) (k a n : Nat) : Bool :=
  let m := (s.cluster k).hdr.mboxoff
  decide (0 < n) && ((count 0 8).any fun i => decide (a < i * 2 ^ 19 + m + 4096) && decide (i * 2 ^ 19 + m < a + n))

/-- The segment, not yet arrived, that holds an address (R42, R396). -/
def State.absent (s : State) (k a : Nat) : Bool :=
  (s.cluster k).segments.any fun g => decide (g.addr ≤ a) && decide (a < g.addr + g.bytes.length)

/-- The first address of n bytes that lies in the first segment not arrived that they meet. -/
def State.firstAbsent (s : State) (k a n : Nat) : Option Nat :=
  ((s.cluster k).segments.find? fun g => decide (0 < n) && decide (g.addr < a + n) && decide (a < g.addr + g.bytes.length)).map fun g =>
    max a g.addr

/-- Fill the buffer with the 64 bytes from an address (R41); the read corrects what it can and marks uncorrectable bytes (R174, R175).
(DEDUCED, log 78.) -/
def State.fill (s : State) (c pc : Nat) : State :=
  let k := clusterOf c
  let bad := if s.badLocal k pc 64 then (count 0 64).filter fun i => s.badLocal k (pc + i) 1 else []
  (s.scrub k pc 64).modCore c fun y => { y with ibuf := some (pc, Mem.readBytes s.cmem (cellKey k pc) 64, bad) }

/-- n bytes of the buffer at an address, if it holds them all, and whether one of them was read uncorrectable. (DEDUCED, log 78.) -/
def Core.fromBuffer (k : Core) (pc n : Nat) : Option (List Byte × Bool) :=
  match k.ibuf with
  | some (b, bs, bad) =>
    if b ≤ pc ∧ pc + n ≤ b + bs.length then
      some ((bs.drop (pc - b)).take n, bad.any fun i => decide (pc ≤ b + i) && decide (b + i < pc + n))
    else none
  | none => none

/-- What a fetch gives. -/
inductive Fetched where
  | bytes (s : State) (b : List Byte)
  | trap (t : TrapInfo)
  | segment (a : Nat)

/-- n bytes at the PC, from the buffer or by filling it; POISON when one of them was read uncorrectable (R175). (DEDUCED, log 78.) -/
def State.fetchN (s : State) (c pc n : Nat) : Fetched :=
  let k := clusterOf c
  if Config.clusterBytes < pc + n then .trap { cause := cLOCAL_RANGE, val := BitVec.ofNat 64 pc }
  else if s.inMailbox k pc n then .trap { cause := cLOCAL_RANGE, val := BitVec.ofNat 64 pc }
  else
    let poison : Fetched := .trap { cause := cPOISON, val := BitVec.ofNat 64 pc, event := some pc }
    match s.firstAbsent k pc n, (s.core c).fromBuffer pc n with
    | some a, _ => .segment a
    | none, some (b, bad) => if bad then poison else .bytes s b
    | none, none =>
      if s.badLocal k pc n then poison else .bytes (s.fill c pc) (Mem.readBytes s.cmem (cellKey k pc) n)

/-- Whether a first byte begins a 32-bit instruction (R50). -/
def isLong (b : List Byte) : Bool :=
  match b with
  | x :: _ => x.getLsbD 0
  | [] => false

/-- The bytes of the instruction at the PC. -/
def State.fetch (s : State) (c pc : Nat) : Fetched :=
  match s.fetchN c pc 2 with
  | .bytes s1 b => if isLong b then s1.fetchN c pc 4 else .bytes s1 b
  | r => r

/-- What a core does in a cycle. -/
inductive Issue where
  /-- no instruction executes -/
  | idle (s : State)
  /-- an instruction executes for the context in `State.cur` -/
  | run (i : Instr) (s : State)

/-- Fetch and decode for the chosen context: a fetch trap, ILLEGAL (R57), RTC_OVERRUN (R31), a wait for a segment (R42), or the
instruction. (DEDUCED, log 12.) -/
noncomputable def State.issue (s : State) (c l : Nat) : Issue :=
  let s0 := { s.modCtx c l (fun x => { x with st := .running }) with cur := (c, l) }
  match s0.fetch c (s0.ctx c l).pc.toNat with
  | .trap t => .idle (s0.afterTrap t)
  | .segment a => .idle (s0.modCtx c l fun x => { x with st := .waiting, wait := .segment a })
  | .bytes s1 b =>
    match decode b with
    | .error _ => .idle (s1.afterTrap { cause := cILLEGAL, val := BitVec.ofNat 64 (Decode.leNat b) })
    | .ok (i, _) =>
      if s1.me.rtc && decide (Config.rtcBudget ≤ s1.me.rtcCount) then
        .idle (s1.afterTrap { cause := cRTC_OVERRUN, val := s1.me.handler.setWidth 64 })
      else .run i s1

/-- The next candidate of a core in this cycle. (DEDUCED, log 12.) -/
noncomputable def State.pick (s : State) (c : Nat) : Issue :=
  match (s.core c).choose with
  | some l => s.issue c l
  | none => .idle s

/-- The first level of a list with a due trap takes it. -/
def State.takeFirst (s : State) (c : Nat) : List Nat → Option State
  | [] => none
  | l :: r =>
    match s.takeDue c l with
    | some t => some t
    | none => s.takeFirst c r

/-- One cycle of a core up to its first candidate: cycles pass while its gang is resident (R68); a stopped core issues nothing
(R231); a due trap is taken in place of an instruction. -/
noncomputable def State.coreTurn (s : State) (c : Nat) : Issue :=
  if s.counting c then
    let s1 := s.nextCycle c
    if (s.core c).stop.isSome then .idle s1
    else
      let s2 := (((s1.endAlign c 3).endAlign c 2).endAlign c 1).endAlign c 0
      match s2.takeFirst c [3, 2, 1, 0] with
      | some t => .idle t
      | none => s2.pick c
  else .idle s

end Sys2Proof.Machine
end

