-- ==== Sys2Proof/Machine/Flags.lean ====
section
/-! DEFINITION. Conditions, signed and unsigned views, and format tags. The machine has no flag register: conditions are results (R89,
R102, R273). -/
namespace Sys2Proof.Machine

/-- A condition (R53, R86): eq, ne, lt, ge, ltu, geu, any, none. -/
inductive CondCode where
  | eq | ne | lt | ge | ltu | geu | any | none
deriving DecidableEq, Repr

/-- Cond(c, x, y) (R86). -/
def cond (c : CondCode) (x y : Word) : Bool :=
  match c with
  | .eq => decide (x = y)
  | .ne => decide (x ≠ y)
  | .lt => decide (x.toInt < y.toInt)
  | .ge => decide (y.toInt ≤ x.toInt)
  | .ltu => decide (x.toNat < y.toNat)
  | .geu => decide (y.toNat ≤ x.toNat)
  | .any => decide (x &&& y ≠ 0)
  | .none => decide (x &&& y = 0)

/-- Tag of a code; code 14 is never produced. -/
def Tag.ofCode (n : Nat) : Tag :=
  match n with
  | 0 => .raw | 1 => .int8 | 2 => .int16 | 3 => .int32 | 4 => .int64 | 5 => .fp32 | 6 => .fp16 | 7 => .bf16
  | 8 => .e4m3 | 9 => .e5m2 | 10 => .mx4 | 11 => .ds8 | 12 => .int4 | 13 => .e8m0 | _ => .poison

/-- Width of an element of a tag in bits; RAW lanes are bytes here, and operations that give RAW another width say so. -/
def Tag.width : Tag → Nat
  | .int16 | .fp16 | .bf16 => 16
  | .int32 | .fp32 => 32
  | .int64 => 64
  | .mx4 | .int4 => 4
  | _ => 8

/-- Integer tags (R70). -/
def Tag.isInt : Tag → Bool
  | .int8 | .int16 | .int32 | .int64 | .int4 => true
  | _ => false

/-- Floating-point tags (R70). -/
def Tag.isFloat : Tag → Bool
  | .fp32 | .fp16 | .bf16 | .e4m3 | .e5m2 | .mx4 | .ds8 | .e8m0 => true
  | _ => false

/-- FORMAT with the tags of the operands in TRAPVAL (R72). (DEDUCED, log 80.) -/
def raiseFormat {α : Type} (t1 t2 : Nat) : M α := raise cFORMAT (BitVec.ofNat 64 (t1 + 16 * t2))

/-- POISON with the PC in TRAPVAL (R72). -/
def raisePoison {α : Type} : M α := do raise cPOISON ((← get).me.pc.setWidth 64)

/-- Refuse a POISON operand (R72). -/
def notPoison (t : Tag) : M Unit := if t = .poison then raisePoison else pure ()

/-- Sign extension of the low n bits of a number, as an integer (R73). -/
def signedOf (n x : Nat) : Int := if x % 2 ^ n < 2 ^ (n - 1) then (x % 2 ^ n : Nat) else ((x % 2 ^ n : Nat) : Int) - (2 ^ n : Nat)

end Sys2Proof.Machine
end

