-- ==== Sys2Proof/Machine/Operands.lean ====
section
/-! DEFINITION. Operand forms: cluster-memory operands with their checks (R177, R178, R219), guard records (R199), tree-address arithmetic
(R86), transfer targets (R51). -/
namespace Sys2Proof.Machine

/-! ### Cluster-memory operands -/

/-- A word from a number. -/
def w64 (n : Nat) : Word := BitVec.ofNat 64 n

/-- Base plus a signed offset in units of a size. -/
def address {n : Nat} (base : Word) (off : BitVec n) (unit : Nat) : Word := base + BitVec.ofInt 64 (off.toInt * unit)

/-- Whether an access of a core to n bytes of its cluster meets a range that stops it (R219): a destination range, or for a store any
range. An access of no byte meets none. -/
def RangeLock.stops (r : RangeLock) (a n : Nat) (store : Bool) : Bool :=
  !r.tree && (r.dest || store) && decide (0 < n) && decide (r.addr < a + n) && decide (a < r.addr + r.len)

/-- The lowest place of a range-lock table that no entry takes, from n on. (DEDUCED, log 90.) -/
def freePlace (l : List RangeLock) : Nat → Nat → Nat
  | 0, n => n
  | f + 1, n => if l.any fun r => decide (r.place = n) then freePlace l f (n + 1) else n

/-- Register an entry in a cluster's table, at its lowest free place (R218). (DEDUCED, log 90.) -/
def Cluster.addRange (y : Cluster) (r : RangeLock) : Cluster :=
  { y with ranges := y.ranges ++ [{ r with place := freePlace y.ranges Config.rangeMax 0 }] }

/-- The two words of a valid entry (R218). -/
def RangeLock.words (r : RangeLock) : Word × Word :=
  (w64 (2 ^ 63 + (if r.dest then 2 ^ 62 else 0) + (if r.tree then 2 ^ 61 else 0) + clusterCore r.core * 2 ^ 58 + r.level % 4 * 2 ^ 56),
   if r.tree then r.ta else w64 (r.addr % 2 ^ 22 * 2 ^ 32 + r.len % 2 ^ 23))

/-- A cluster's range-lock table as the snapshot registers show it: the words of the valid entries by place (R218, R240). (DEDUCED, log 90.) -/
def Cluster.rangeTable (y : Cluster) : Map (Word × Word) := y.ranges.foldl (fun m r => Map.set m r.place r.words) []

/-- Whether an access to cluster memory is range-locked. -/
def State.lockedLocal (s : State) (k a n : Nat) (store : Bool) : Bool := (s.cluster k).ranges.any fun r => r.stops a n store

/-- Whether an amo of the issuing context that meets n bytes of its cluster waits to be performed (R209, R211). (DEDUCED, log 70.) -/
def State.ownAmo (s : State) (a n : Nat) : Bool :=
  s.amos.any fun q =>
    decide (q.core = s.cur.1) && decide (q.level = s.cur.2) && decide (q.addr < a + n) && decide (a < q.addr + q.size)

/-- An access waits for the context's own earlier amo to its bytes: accesses to one location take effect in program order (R211).
(DEDUCED, log 70.) -/
def afterOwnAmo (a n : Nat) : M Unit := do
  if (← get).ownAmo a n then throw .stall else pure ()

/-- The checks of R177 in order for an access of n bytes; the answer is the cluster address. -/
def checkRange (A : Word) (n align : Nat) (store : Bool) : M Nat := do
  let s ← get
  let k := clusterOf s.cur.1
  let a := A.toNat
  if Config.clusterBytes ≤ a then raise cLOCAL_RANGE A
  else if a % align ≠ 0 then raise cALIGN A
  else if Config.clusterBytes < a + n then raise cLOCAL_RANGE A
  else if s.inMailbox k a n then raise cLOCAL_RANGE A
  else if s.lockedLocal k a n store then raise cRANGE_LOCKED A
  else
    match s.firstAbsent k a n with
    | some x => throw (.await x)
    | none => return a

/-- The checks of R177, then the wait for the context's own amo to the same bytes. -/
def checkLocal (A : Word) (n align : Nat) (store : Bool) : M Nat := do
  let a ← checkRange A n align store
  afterOwnAmo a n
  return a

/-- Whether the granule of a cluster address is guarded (R176). -/
def State.guarded (s : State) (k a : Nat) : Bool := NatSet.mem s.guards (cellKey k a / 64)

/-- GUARDREC as a suppressed access leaves it (R199). -/
def guardRecord (old : Word) (store dep : Bool) (level a pc : Nat) : Word :=
  if old.getLsbD 63 then old ||| w64 (2 ^ 62)
  else
    w64 (2 ^ 63 + (if store then 2 ^ 61 else 0) + (if dep then 2 ^ 60 else 0) + level % 4 * 2 ^ 58 + a / 2 ^ 19 % 8 * 2 ^ 55
      + a / 2 ^ 6 % 16 * 2 ^ 51 + a % 2 ^ 19 * 2 ^ 32 + pc % 2 ^ 22)

/-- Record a suppressed access of the issuing context. -/
def noteGuard (store : Bool) (a : Nat) : M Unit := do
  let s ← get
  modHere fun k => { k with guardrec := guardRecord k.guardrec store false s.cur.2 a s.me.pc.toNat }

/-- Whether an address lies in the issuing core's home slice (R73, R173). -/
def State.inHome (s : State) (a : Nat) : Bool := decide (a / 2 ^ 19 = clusterCore s.cur.1)

/-- A scalar load of n bytes: 0 from a guarded granule (R178), POISON from an uncorrectable word (R175). (DESIGN CHOICE, log 3.) -/
def scalarLoad (a n : Nat) : M Nat := do
  let s ← get
  let k := clusterOf s.cur.1
  if s.guarded k a then
    noteGuard false a
    return 0
  else if s.badLocal k a n then throw (.trap { cause := cPOISON, val := w64 a, event := some a })
  else
    set (s.scrub k a n)
    return s.cread k a n

/-- A scalar store of n bytes; nothing is written into a guarded granule (R178). (DESIGN CHOICE, log 3.) -/
def scalarStore (a n x : Nat) : M Unit := do
  let s ← get
  let k := clusterOf s.cur.1
  if s.guarded k a then noteGuard true a
  else set (s.cwrite k a n x)

/-- Store bytes of a vector granule by granule, guarded granules skipped (R178, R181). `first` is the number of a granule. -/
def State.storeGranules (s : State) (k a n x : Nat) : Nat → State
  | 0 => s
  | f + 1 =>
    if n = 0 then s
    else
      let m := min n (64 - a % 64)
      let s1 := if s.guarded k a then s else s.cwrite k a m x
      s1.storeGranules k (a + m) (n - m) (x / 2 ^ (8 * m)) f

/-- Read bytes granule by granule, 0 from guarded ones. -/
def State.loadGranules (s : State) (k a n : Nat) : Nat → Nat
  | 0 => 0
  | f + 1 =>
    if n = 0 then 0
    else
      let m := min n (64 - a % 64)
      (if s.guarded k a then 0 else s.cread k a m) + 2 ^ (8 * m) * s.loadGranules k (a + m) (n - m) f

/-- The first guarded granule of a range, as an address in it. -/
def State.firstGuarded (s : State) (k a n : Nat) : Nat → Option Nat
  | 0 => none
  | f + 1 =>
    if n = 0 then none
    else if s.guarded k a then some a
    else s.firstGuarded k (a + min n (64 - a % 64)) (n - min n (64 - a % 64)) f

/-- Free bits, which the spec leaves open (R175, R184, R192). (DESIGN CHOICE, log 2.) (DESIGN CHOICE, log 21.) -/
def freshBits : M (BitVec 2048) := do
  let s ← get
  set { s with freeCtr := s.freeCtr + 1 }
  return Config.uncorrectable s.freeCtr

/-- The mask of the bytes of a range that lie in uncorrectable words outside guarded granules. -/
def State.badMask (s : State) (k a : Nat) : Nat → Nat
  | 0 => 0
  | n + 1 =>
    (if !s.guarded k a && s.badLocal k a 1 then 255 else 0) + 256 * s.badMask k (a + 1) n

/-- A number with the bits of a mask replaced by free ones, when there are any. (DESIGN CHOICE, log 21.) -/
def blur (x mask : Nat) : M Nat := do
  if mask = 0 then return x
  else
    let f ← freshBits
    return (x ||| mask) - ((x ||| mask) &&& mask) + (f.toNat &&& mask)

/-! ### Transfer targets (R51) -/

/-- A target from a PC-relative offset, as an exact integer. -/
def relTarget {n : Nat} (pc : BitVec 22) (off : BitVec n) : Int := pc.toNat + off.toInt * 2

/-- The check of a target that is an exact integer: outside 0 to 0x3F_FFFE is LOCAL_RANGE; an odd one is ALIGN. -/
def checkTarget (t : Int) : M (BitVec 22) := do
  if t < 0 ∨ 0x3FFFFE < t then raise cLOCAL_RANGE (BitVec.ofInt 64 t)
  else if t % 2 ≠ 0 then raise cALIGN (BitVec.ofInt 64 t)
  else return BitVec.ofInt 22 t

/-! ### Tree-address arithmetic (R86, R148 to R151) -/

/-- Interleave(r, c) over n digits. -/
def interN : Nat → Nat → Nat → Nat
  | 0, _, _ => 0
  | n + 1, r, c => c % 2 + 2 * (r % 2) + 4 * interN n (r / 2) (c / 2)
/-- Interleave(r, c): bit 2j + 1 is r[j] and bit 2j is c[j], for j = 0 to 23. -/
def interleave (r c : Nat) : Nat := interN 24 r c
/-- Column of a path, over n digits. -/
def colN : Nat → Nat → Nat
  | 0, _ => 0
  | n + 1, p => p % 2 + 2 * colN n (p / 4)
/-- ColOf(p). -/
def colOf (p : Nat) : Nat := colN 24 p
/-- RowOf(p). -/
def rowOf (p : Nat) : Nat := colN 24 (p / 2)

/-- ROOT of a tree address. -/
def taRoot (t : Word) : Nat := t.toNat / 2 ^ 56
/-- DEPTH of a tree address. -/
def taDepth (t : Word) : Nat := t.toNat / 2 ^ 51 % 32
/-- PATH of a tree address. -/
def taPath (t : Word) : Nat := t.toNat % 2 ^ 48
/-- A path with the digits below a depth cleared. -/
def cutPath (p dep : Nat) : Nat := p / 4 ^ (24 - dep) * 4 ^ (24 - dep)

/-- Canon(t): root, depth, path. -/
def canon (t : Word) : Nat × Nat × Nat :=
  let dep := min (taDepth t) 24
  (taRoot t, dep, cutPath (taPath t) dep)
/-- BlockRow(p, k). -/
def blockRow (p k : Nat) : Nat := rowOf p / 2 ^ (24 - k)
/-- BlockCol(p, k). -/
def blockCol (p k : Nat) : Nat := colOf p / 2 ^ (24 - k)
/-- MakeTA(root, k, br, bc), as a number. -/
def makeTA (root k br bc : Nat) : Nat := root * 2 ^ 56 + k * 2 ^ 51 + interleave (br * 2 ^ (24 - k)) (bc * 2 ^ (24 - k))
/-- The tree address of a depth and a path. -/
def taOf (root dep path : Nat) : Word := w64 (root * 2 ^ 56 + dep * 2 ^ 51 + path)

/-- The first failing check of a tree address (R149): its detail code. -/
def checkTA (t : Word) : Option Nat :=
  if t.toNat / 2 ^ 48 % 8 ≠ 0 then some 5
  else if 24 < taDepth t then some 4
  else if cutPath (taPath t) (taDepth t) ≠ taPath t then some 3
  else none

/-- Whether two blocks overlap: one root, and one contains the other (R218). -/
def taOverlap (a b : Word) : Bool :=
  decide (taRoot a = taRoot b)
    && (let d := min (taDepth a) (taDepth b)
        decide (cutPath (taPath a) d = cutPath (taPath b) d))

/-- The sub-block TA at depth 21 that holds an element (R157). -/
def subBlock (t : Word) : Word := taOf (taRoot t) 21 (cutPath (taPath t) 21)

end Sys2Proof.Machine
end

