-- ==== Sys2Proof/Machine/Control.lean ====
section
/-! DEFINITION. Control flow (R101 to R111), control registers (R67, R69, R112) and bit streams (R97 to R100). -/
namespace Sys2Proof.Machine

/-! ### Control registers (R67) -/

/-- LEASE (R301): the state of the core's context that holds or waits for the quad's lease. -/
def State.leaseWord (s : State) (c : Nat) : Word :=
  let q := s.quad (quadOf c)
  let held := match q.holder with
    | some (h, _) => decide (h = c)
    | none => false
  let ahead := findIdxFrom (fun r => decide (r.core = c)) q.queue 0
  let level := match q.queue.find? (fun r => decide (r.core = c)), q.holder with
    | _, some (h, l) => if h = c then l else ((q.queue.find? fun r => decide (r.core = c)).map (·.level)).getD 0
    | some r, none => r.level
    | none, none => 0
  w64 ((if held then 2 ^ 63 else 0) + (if ahead.isSome then 2 ^ 62 else 0) + (if held && q.expiring then 2 ^ 61 else 0)
    + (if held && q.freeing then 2 ^ 60 else 0) + level * 2 ^ 58 + min (ahead.getD 0) 127 * 2 ^ 51
    + (if held then min q.cycles 65536 * 2 ^ 7 + min q.commands 64 else 0))

/-- CHURNDEPTH (R355). -/
def Core.churnDepth (k : Core) : Word :=
  w64 (k.freeLen * 2 ^ 34 + (k.churn.length - Config.churnChip) * 2 ^ 16 + k.churn.length)

/-- SNAPCTL (R240). -/
def State.snapctl (s : State) (c : Nat) : Word :=
  w64 ((if s.mod.snapHeld then 2 ^ 63 else 0) + (if (s.core c).snapAllow then 2 ^ 62 else 0) + s.mod.snapMissed % 2 ^ 16 * 2 ^ 32
    + s.mod.snapSeq % 2 ^ 16)

/-- STATUS (R67). -/
def Ctx.status (x : Ctx) (l : Nat) : Word :=
  w64 ((if x.td then 16 else 0) + (if x.rtc then 8 else 0) + (if x.sbc then 4 else 0) + l % 4)

/-- GANG (R67). -/
def State.gangWord (s : State) (c : Nat) : Word :=
  match s.gangOf c with
  | some g => w64 (g.height * 2 ^ 24 + g.width * 2 ^ 16 + g.ly * 128 + g.lx)
  | none => 0

/-- CR(n): a control register of a context (R67). -/
def State.cr (s : State) (c l n : Nat) : Word :=
  let k := s.core c
  let x := k.bank l
  if n = 0x000 then x.status l
  else if n = 0x001 then w64 x.prio
  else if n = 0x002 then w64 x.vl
  else if n = 0x003 then w64 (s.coreId c)
  else if n = 0x004 then s.gangWord c
  else if n = 0x005 then w64 k.cycle
  else if n = 0x008 then x.trappc.setWidth 64
  else if n = 0x009 then x.trapcause.setWidth 64
  else if n = 0x00A then x.trapval
  else if n = 0x00B then x.tvec.setWidth 64
  else if n = 0x00C then x.trapprog
  else if 0x010 ≤ n ∧ n ≤ 0x016 then Map.getD x.mb (n - 0x010) 0
  else if n = 0x017 then x.msghdr
  else if 0x020 ≤ n ∧ n ≤ 0x022 then Map.getD x.lc (n - 0x020) 0
  else if 0x023 ≤ n ∧ n ≤ 0x025 then (Map.getD x.ls (n - 0x023) 0).setWidth 64
  else if 0x026 ≤ n ∧ n ≤ 0x028 then (Map.getD x.le (n - 0x026) 0).setWidth 64
  else if n = 0x030 then x.bblo
  else if n = 0x031 then x.bbhi
  else if n = 0x032 then w64 x.bbpos
  else if n = 0x033 then x.bbptr.setWidth 64
  else if n = 0x034 then x.bbend.setWidth 64
  else if n = 0x040 then x.phase.setWidth 64
  else if n = 0x048 then k.churnDepth
  else if n = 0x049 then w64 (k.balInterval * 2 ^ 16 + k.balThreshold)
  else if n = 0x050 then k.rowprog
  else if n = 0x051 then s.leaseWord c
  else if n = 0x058 then x.choleps.setWidth 64
  else if n = 0x059 then x.cholreg.setWidth 64
  else if n = 0x060 then k.guardrec
  else if n = 0x070 then k.frameq
  else if n = 0x100 then k.dispbase.setWidth 64
  else if n = 0x101 then w64 k.mbxcfg
  else if n = 0x102 then k.rulebase
  else if n = 0x110 then s.snapctl c
  else 0

/-- A bank register written (R67, R97, R225, R282): read-only fields and registers keep their value (R8). Loop registers are
`Ctx.setLoop`'s. (DEDUCED, log 96.) -/
def Ctx.setCr (x : Ctx) (l n : Nat) (v : Word) : Ctx :=
  if n = 0x000 then { x with sbc := v.getLsbD 2 }
  else if n = 0x001 then { x with prio := min (v.toNat % 4) l }
  else if n = 0x002 then { x with vl := min (v.toNat % 512) 256 }
  else if n = 0x008 then { x with trappc := BitVec.ofNat 22 (v.toNat / 2 * 2) }
  else if n = 0x009 then { x with trapcause := v.setWidth 16 }
  else if n = 0x00A then { x with trapval := v }
  else if n = 0x00B then { x with tvec := BitVec.ofNat 22 (v.toNat / 2 * 2) }
  else if n = 0x030 then { x with bblo := v }
  else if n = 0x031 then { x with bbhi := v }
  else if n = 0x032 then { x with bbpos := min (v.toNat % 256) 128 }
  else if n = 0x033 then { x with bbptr := v.setWidth 22 }
  else if n = 0x034 then { x with bbend := v.setWidth 22 }
  else if n = 0x040 then { x with phase := v.setWidth 4 }
  else if n = 0x058 then { x with choleps := v.setWidth 32 }
  else if n = 0x059 then { x with cholreg := v.setWidth 32 }
  else x

/-- BALCFG written: the next automatic exchange falls INTERVAL cycles later (R369). -/
def Core.setBalcfg (k : Core) (v : Word) : Core :=
  let i := v.toNat / 2 ^ 16 % 2 ^ 16
  { k with balInterval := i, balThreshold := v.toNat % 2 ^ 16, balNext := if i = 0 then none else some (k.cycle + i) }

/-- VALID and MORE of GUARDREC cleared by writing 1 (R199). -/
def Core.clearGuard (k : Core) (v : Word) : Core := { k with guardrec := k.guardrec &&& ~~~(v &&& w64 (2 ^ 63 + 2 ^ 62)) }

/-- CR(n) := v, loop registers apart. -/
def State.setCr (s : State) (c l n : Nat) (v : Word) : State :=
  if n = 0x049 then s.modCore c fun k => k.setBalcfg v
  else if n = 0x060 then s.modCore c fun k => k.clearGuard v
  else s.modCtx c l fun x => x.setCr l n v

/-- Write a control register at the end of an instruction (R112). -/
def writeCr (n : BitVec 12) (v : Word) : M Flow := do
  let s ← get
  if 0x020 ≤ n.toNat ∧ n.toNat ≤ 0x028 then return .loopReg n.toNat v
  else
    set (s.setCr s.cur.1 s.cur.2 n.toNat v)
    return .seq

/-- mfc (R69). -/
def execMfc (d : BitVec 5) (n : BitVec 12) (sc : BitVec 3) (s : State) : Outcome :=
  instr sc (writeSL d (s.cr s.cur.1 s.cur.2 n.toNat) 1) s

/-- mtc (R69). -/
def execMtc (a : BitVec 5) (n : BitVec 12) (sc : BitVec 3) (s : State) : Outcome :=
  instrJ sc (do
    let v ← readS a
    writeCr n v) s

/-- mxc (R69, R84): the source is read before the destination is written. (DEDUCED, log 72.) -/
def execMxc (d a : BitVec 5) (n : BitVec 12) (sc : BitVec 3) (s : State) : Outcome :=
  instrJ sc (do
    let v ← readS a
    writeSL d (s.cr s.cur.1 s.cur.2 n.toNat) 1
    writeCr n v) s

/-! ### Branches and calls -/

/-- A register target (R51). -/
def regTarget (t : Word) : M Flow := do return .goto (← checkTarget t.toNat)

/-- End the routine of the issuing context once nothing holds it back (R21, R64, R194, R228). The stall count runs on for the routine that
starts next in the bank (R61). -/
def endHere (sc : Nat) : M Flow := do
  let s ← get
  if s.mayEnd s.cur.1 s.cur.2 then
    set ((s.endRoutine s.cur.1 s.cur.2).modCtx s.cur.1 s.cur.2 fun x => { x with nextIssue := s.here.cycle + sc + 1 })
    return .stay
  else throw .stall

/-- b (R102). -/
def execBra (o : BitVec 22) (sc : BitVec 3) (s : State) : Outcome :=
  instrJ sc (do return .goto (← checkTarget (relTarget s.me.pc o))) s

/-- PC + 4 as call and callr save it, an exact sum (R9). -/
def returnAddress (s : State) : Word := w64 (s.me.pc.toNat + 4)

/-- call (R102). -/
def execCall (o : BitVec 22) (sc : BitVec 3) (s : State) : Outcome :=
  instrJ sc (do
    let t ← checkTarget (relTarget s.me.pc o)
    writeS 1 (returnAddress s)
    return .goto t) s

/-- bc.cond (R102): both operands are read, taken or not. -/
def branchIf (k : CondCode) (a b : BitVec 5) (o : BitVec 9) (sc : BitVec 3) (s : State) : Outcome :=
  instrJ sc (do
    let x ← readS a
    let y ← readS b
    if cond k x y then return .goto (← checkTarget (relTarget s.me.pc o)) else return .seq) s

/-- bc.eq. -/
def execBcEq (a b : BitVec 5) (o : BitVec 9) (sc : BitVec 3) (s : State) : Outcome := branchIf .eq a b o sc s
/-- bc.ne. -/
def execBcNe (a b : BitVec 5) (o : BitVec 9) (sc : BitVec 3) (s : State) : Outcome := branchIf .ne a b o sc s
/-- bc.lt. -/
def execBcLt (a b : BitVec 5) (o : BitVec 9) (sc : BitVec 3) (s : State) : Outcome := branchIf .lt a b o sc s
/-- bc.ge. -/
def execBcGe (a b : BitVec 5) (o : BitVec 9) (sc : BitVec 3) (s : State) : Outcome := branchIf .ge a b o sc s
/-- bc.ltu. -/
def execBcLtu (a b : BitVec 5) (o : BitVec 9) (sc : BitVec 3) (s : State) : Outcome := branchIf .ltu a b o sc s
/-- bc.geu. -/
def execBcGeu (a b : BitVec 5) (o : BitVec 9) (sc : BitVec 3) (s : State) : Outcome := branchIf .geu a b o sc s
/-- bc.any. -/
def execBcAny (a b : BitVec 5) (o : BitVec 9) (sc : BitVec 3) (s : State) : Outcome := branchIf .any a b o sc s
/-- bc.none. -/
def execBcNone (a b : BitVec 5) (o : BitVec 9) (sc : BitVec 3) (s : State) : Outcome := branchIf .none a b o sc s

/-- loop (R106). -/
def execLoop (a : BitVec 5) (l : BitVec 2) (e : BitVec 12) (sc : BitVec 3) (s : State) : Outcome :=
  instrJ sc (do
    let n ← readS a
    let le ← checkTarget (s.me.pc.toNat + e.toNat * 2)
    let ls := s.me.pc + 4
    modMe fun x =>
      { x with ls := Map.set x.ls l.toNat ls, le := Map.set x.le l.toNat le, lc := Map.set x.lc l.toNat n }
    return .loop (if n = 0 then le else ls)) s

/-- The work of ret (R103). -/
def retTo (a : BitVec 5) (sc : Nat) : M Flow := do
  let t ← readS a
  if t = 0 then endHere sc else regTarget t

/-- ret (R103). -/
def execRet (a : BitVec 5) (sc : BitVec 3) (s : State) : Outcome := instrJ sc (retTo a sc.toNat) s
/-- 16-bit ret (R60). -/
def execRet16 (a : BitVec 5) (s : State) : Outcome := instr16J (retTo a 0) s

/-- callr (R103): the register is written, then the target is checked. -/
def execCallr (d a : BitVec 5) (sc : BitVec 3) (s : State) : Outcome :=
  instrJ sc (do
    let t ← readS a
    writeS d (returnAddress s)
    regTarget t) s

/-- A table read of jt: any fault is JT_FETCH (R104), but one that touches a mailbox area is LOCAL_RANGE (R116), and one that meets a destination
range is RANGE_LOCKED (R219). (DEDUCED, log 86.) -/
def tableLoad (e : Nat) : M Nat := do
  let s ← get
  let mail := decide (e + 4 ≤ Config.clusterBytes) && s.inMailbox (clusterOf s.cur.1) e 4
  tryCatch (do
    let a ← checkLocal (w64 e) 4 4 false
    scalarLoad a 4) fun x =>
    match x with
    | .trap t => if mail || decide (t.cause = cRANGE_LOCKED) then throw (.trap t) else throw (.trap { cause := cJT_FETCH, val := w64 e, event := t.event })
    | y => throw y

/-- jt (R104). -/
def execJt (a b : BitVec 5) (sc : BitVec 3) (s : State) : Outcome :=
  instrJ sc (do
    let x ← readS a
    let i ← readS b
    let t := x.toNat % 2 ^ 22
    if t % 4 ≠ 0 then raise cJT_FETCH (w64 t)
    else
      let n ← tableLoad t
      if n ≤ i.toNat then return .seq
      else
        let v ← tableLoad (t + 4 + 4 * i.toNat)
        regTarget (w64 v)) s

/-- isync (R109): it waits for every earlier store to cluster memory; then the buffer is discarded. -/
def execIsync (sc : BitVec 3) (s : State) : Outcome :=
  instr sc (do
    releasePoint
    modHere fun k => { k with ibuf := none }) s

/-- halt (R110). -/
def execHalt (sc : BitVec 3) (s : State) : Outcome := instrJ sc (endHere sc.toNat) s
/-- 16-bit halt (R60). -/
def execHalt16 (s : State) : Outcome := instr16J (endHere 0) s

/-- Return from a trap handler (R110, R229): TD := 0, PC := the target, the buffer is discarded; it waits for pending writes (R64). -/
def leaveTrap (target : BitVec 22) (sc : BitVec 3) : M Flow := do
  let s ← get
  if s.me.pend.isEmpty then
    set (s.returnFromTrap s.cur.1 s.cur.2 target sc.toNat)
    return .stay
  else throw .stall

/-- rft (R110). -/
def execRft (sc : BitVec 3) (s : State) : Outcome :=
  instrJ sc (if s.me.td then leaveTrap s.me.trappc sc else raise cILLEGAL (w64 (Instr.word (.rft sc)))) s

/-- eret (R229). -/
def execEret (a : BitVec 5) (sc : BitVec 3) (s : State) : Outcome :=
  instrJ sc (do
    if s.me.td then
      let t ← readS a
      if t = 0 then
        modMe fun x => { x with td := false }
        endHere sc.toNat
      else
        let v ← checkTarget t.toNat
        leaveTrap v sc
    else raise cILLEGAL (w64 (0x100003E1 + a.toNat * 2 ^ 15 + sc.toNat * 2))) s

/-- align k (R40). -/
def execAlign (k : BitVec 8) (sc : BitVec 3) (s : State) : Outcome :=
  instrJ sc (do
    modMe fun x => { x with aligned := some (k.toNat, s.me.pc) }
    if k = 0 then return .seq
    else if s.alignMet s.cur.1 s.cur.2 k.toNat s.me.pc then return .seq
    else
      modMe fun x =>
        { x with st := .ready, alignUntil := some (s.here.cycle + 8 * k.toNat), nextIssue := s.here.cycle + sc.toNat + 1 }
      return .stay) s

/-- An align stall times out (R40). -/
def execAlignTimeout (core level : Nat) (s : State) : Outcome :=
  happen s (match (s.ctx core level).alignUntil with
    | some n => if n ≤ (s.core core).cycle then some (s.finishWait core level) else none
    | none => none)

/-- prio c (R111). -/
def execPrio (c : BitVec 2) (sc : BitVec 3) (s : State) : Outcome :=
  instr sc (modMe fun x => { x with prio := min c.toNat s.cur.2 }) s

/-- trap k (R111). -/
def execTrap (k : BitVec 8) (sc : BitVec 3) (s : State) : Outcome := instr sc (raise cBREAK (k.setWidth 64)) s

/-! ### Bit streams -/

/-- The 128-bit buffer. -/
def Ctx.bits (x : Ctx) : Nat := x.bblo.toNat + 2 ^ 64 * x.bbhi.toNat
/-- A bank with the 128-bit buffer and its count. -/
def Ctx.setBits (x : Ctx) (b pos : Nat) : Ctx :=
  { x with bblo := BitVec.ofNat 64 b, bbhi := BitVec.ofNat 64 (b / 2 ^ 64), bbpos := pos }

/-- A bank with one byte appended to the buffer (R98). -/
def Ctx.append (x : Ctx) (v : Nat) : Ctx :=
  let b := x.bits
  let low := b % 2 ^ x.bbpos
  let high := b / 2 ^ (x.bbpos + 8) * 2 ^ (x.bbpos + 8)
  { x.setBits (low + v * 2 ^ x.bbpos + high) (x.bbpos + 8) with bbptr := x.bbptr + 1 }

/-- The state in which a refill that traps leaves the machine: that before the instruction with the bytes appended so far (R100).
(DEDUCED, log 97.) -/
def State.keepBits (s t : State) : State :=
  (s.modCore s.cur.1 fun k => { k with guardrec := t.here.guardrec }).modCtx s.cur.1 s.cur.2 fun x =>
    { x with bblo := t.me.bblo, bbhi := t.me.bbhi, bbpos := t.me.bbpos, bbptr := t.me.bbptr }

/-- Refill() (R98); `s` is the state before the instruction. -/
def refill (s : State) : Nat → M Unit
  | 0 => pure ()
  | n + 1 => do
    let x := (← get).me
    if x.bbpos ≤ 120 ∧ x.bbptr.toNat < x.bbend.toNat then
      let v ← tryCatch (do
        let a ← checkLocal (x.bbptr.setWidth 64) 1 1 false
        scalarLoad a 1) fun e =>
        match e with
        | .trap t => do
          set (s.keepBits (← get))
          throw (.trapKeep t)
        | y => throw y
      modMe fun y => y.append v
      refill s n
    else pure ()

/-- Bits consumed from the buffer. -/
def Ctx.consume (x : Ctx) (n : Nat) : Ctx := x.setBits (x.bits / 2 ^ n) (x.bbpos - n)

/-- bbinit (R99). -/
def execBbinit (a b : BitVec 5) (sc : BitVec 3) (s : State) : Outcome :=
  instr sc (do
    let x ← readS a
    let y ← readS b
    modMe fun z => { z.setBits 0 0 with bbptr := x.setWidth 22, bbend := y.setWidth 22 }) s

/-- The work of bbpeek and bbtake (R99). -/
def peek (take : Bool) (d a : BitVec 5) (s : State) : M Unit := do
  let x ← readS a
  let n := min x.toNat 64
  if (← get).me.bbpos < n then refill s 17 else pure ()
  let y := (← get).me
  if take then modMe fun z => z.consume n else pure ()
  writeS d (w64 (y.bits % 2 ^ min n y.bbpos))

/-- bbpeek (R99). -/
def execBbpeek (d a : BitVec 5) (sc : BitVec 3) (s : State) : Outcome := instr sc (peek false d a s) s
/-- bbtake (R99). -/
def execBbtake (d a : BitVec 5) (sc : BitVec 3) (s : State) : Outcome := instr sc (peek true d a s) s

/-- bbskip (R99). (DEDUCED, log 97.) -/
def execBbskip (a : BitVec 5) (sc : BitVec 3) (s : State) : Outcome :=
  instr sc (do
    let x ← readS a
    let n := x.toNat
    let y := (← get).me
    if n ≤ y.bbpos then modMe fun z => z.consume n
    else
      let rest := n - y.bbpos
      modMe fun z => { z.setBits 0 0 with bbptr := BitVec.ofNat 22 (min (z.bbptr.toNat + rest / 8) z.bbend.toNat) }
      refill s 17
      modMe fun z => z.consume (rest % 8)) s

/-- bbfill (R98). -/
def execBbfill (sc : BitVec 3) (s : State) : Outcome := instr sc (refill s 17) s

end Sys2Proof.Machine
end

