-- ==== Sys2Proof/Machine/Fp.lean ====
section
/-! DEFINITION. Numeric values, formats, rounding and conversion (13). A value is exact: a sign, a natural number and a power of two.
Quotients and square roots carry one extra bit below their last that tells an inexact result from an exact one, so that the one
rounding of R256 sees on which side of every boundary the exact real lies. -/
namespace Sys2Proof.Machine

/-- A value (R244): (−1)^neg × mant × 2^exp when finite. -/
inductive Fp where
  | nan
  | inf (neg : Bool)
  | fin (neg : Bool) (mant : Nat) (exp : Int)
deriving DecidableEq, Repr

/-- Rounding modes (R250). -/
inductive RoundMode where
  | rne | rz | rd | ru
deriving DecidableEq, Repr

/-- The rounding mode of field m: by major 0x20 to 0x23, or by the low bits of vcvt's function. -/
def RoundMode.ofCode (n : Nat) : RoundMode :=
  match n % 4 with
  | 0 => .rne
  | 1 => .rz
  | 2 => .rd
  | _ => .ru

/-- A floating-point format (R245). -/
structure Fmt where
  /-- fraction bits -/
  m : Nat
  /-- exponent bits -/
  e : Nat
  bias : Int
  emin : Int
  /-- largest finite value: mant × 2^exp -/
  maxMant : Nat
  maxExp : Int
  /-- the exponent field of infinities and NaNs, where the format has them -/
  special : Option Nat
  nanCode : Nat
deriving DecidableEq, Repr

/-- FP32. -/
def fmtFp32 : Fmt :=
  { m := 23, e := 8, bias := 127, emin := -126, maxMant := 2 ^ 24 - 1, maxExp := 104, special := some 255, nanCode := 0x7FC00000 }
/-- FP16. -/
def fmtFp16 : Fmt :=
  { m := 10, e := 5, bias := 15, emin := -14, maxMant := 2047, maxExp := 5, special := some 31, nanCode := 0x7E00 }
/-- BF16. -/
def fmtBf16 : Fmt :=
  { m := 7, e := 8, bias := 127, emin := -126, maxMant := 255, maxExp := 120, special := some 255, nanCode := 0x7FC0 }
/-- E4M3. -/
def fmtE4m3 : Fmt := { m := 3, e := 4, bias := 7, emin := -6, maxMant := 14, maxExp := 5, special := none, nanCode := 0x7F }
/-- E5M2. -/
def fmtE5m2 : Fmt := { m := 2, e := 5, bias := 15, emin := -14, maxMant := 7, maxExp := 13, special := some 31, nanCode := 0x7E }
/-- E2M1; it has no NaN, and a NaN becomes +0 (R252). -/
def fmtE2m1 : Fmt := { m := 1, e := 2, bias := 1, emin := 0, maxMant := 3, maxExp := 1, special := none, nanCode := 0 }

/-- Floor(Log2) of a positive dyadic. -/
def flog2 (mant : Nat) (exp : Int) : Int := (Nat.log2 mant : Int) + exp

/-- mant × 2^k for k ≥ 0, floored for k < 0. -/
def scaleFloor (mant : Nat) (k : Int) : Nat := if 0 ≤ k then mant * 2 ^ k.toNat else mant / 2 ^ (-k).toNat

/-- RoundInt of (−1)^neg × mant × 2^k, as a magnitude (R250). -/
def roundMag (neg : Bool) (mant : Nat) (k : Int) (mode : RoundMode) : Nat :=
  if 0 ≤ k then mant * 2 ^ k.toNat
  else
    let d := 2 ^ (-k).toNat
    let q := mant / d
    let r := mant % d
    let up := match mode with
      | .rne => decide (d < 2 * r) || (decide (2 * r = d) && decide (q % 2 = 1))
      | .rz => false
      | .rd => neg && decide (r ≠ 0)
      | .ru => !neg && decide (r ≠ 0)
    if up then q + 1 else q

/-- Compare the magnitudes of two dyadics: a ≤ b. -/
def magLe (a : Nat) (ea : Int) (b : Nat) (eb : Int) : Bool :=
  let e := min ea eb
  decide (a * 2 ^ (ea - e).toNat ≤ b * 2 ^ (eb - e).toNat)

/-- The largest finite value of a format with a sign. -/
def Fmt.maxFin (f : Fmt) (neg : Bool) : Fp := .fin neg f.maxMant f.maxExp

/-- Whether the format is one of FP32, FP16, BF16. -/
def Fmt.ieee (f : Fmt) : Bool := decide (7 ≤ f.m)
/-- Whether the format is E2M1. -/
def Fmt.isE2m1 (f : Fmt) : Bool := decide (f.m = 1)

/-- Special(x, F, sat) for an infinity (R252). -/
def specialInf (f : Fmt) (neg sat : Bool) : Fp :=
  if f.isE2m1 then f.maxFin neg
  else if sat then f.maxFin neg
  else if f.special.isSome then .inf neg
  else .nan

/-- Special(NaN): the canonical NaN, +0 for E2M1 (R252). -/
def specialNan (f : Fmt) : Fp := if f.isE2m1 then .fin false 0 0 else .nan

/-- Overflow(x, F, mode, sat) (R252). -/
def overflow (f : Fmt) (neg : Bool) (mode : RoundMode) (sat : Bool) : Fp :=
  if f.isE2m1 || sat then f.maxFin neg
  else if f.ieee then
    match mode with
    | .rne => .inf neg
    | .rz => f.maxFin neg
    | .ru => if neg then f.maxFin true else .inf false
    | .rd => if neg then .inf true else f.maxFin false
  else .nan

/-- Round(x, F, mode, sat) (R251). -/
def round (x : Fp) (f : Fmt) (mode : RoundMode) (sat : Bool) : Fp :=
  match x with
  | .nan => specialNan f
  | .inf neg => specialInf f neg sat
  | .fin neg mant exp =>
    if mant = 0 then .fin neg 0 0
    else
      let e := max (flog2 mant exp) f.emin
      let q := e - f.m
      let n := roundMag neg mant (exp - q) mode
      if magLe n q f.maxMant f.maxExp then .fin neg n q else overflow f neg mode sat

/-- The code of a value of a format (R245). -/
def codeOf (f : Fmt) (x : Fp) : Nat :=
  let s := 2 ^ (f.m + f.e)
  match x with
  | .nan => f.nanCode
  | .inf neg => (if neg then s else 0) + (match f.special with
      | some k => k * 2 ^ f.m
      | none => 0)
  | .fin neg mant exp =>
    (if neg then s else 0)
      + (if mant = 0 then 0
         else
          let e := flog2 mant exp
          if e < f.emin then scaleFloor mant (exp - (f.emin - f.m))
          else (e + f.bias).toNat * 2 ^ f.m + (scaleFloor mant (exp - (e - f.m)) - 2 ^ f.m))

/-- Encode(x, F, mode, sat) (R251). -/
def encodeFp (x : Fp) (f : Fmt) (mode : RoundMode) (sat : Bool) : Nat := codeOf f (round x f mode sat)

/-- The value of a code (R245). -/
def valueOf (f : Fmt) (c : Nat) : Fp :=
  let frac := c % 2 ^ f.m
  let e := c / 2 ^ f.m % 2 ^ f.e
  let neg := decide (c / 2 ^ (f.m + f.e) % 2 = 1)
  if f.special = some e then (if frac = 0 then .inf neg else .nan)
  else if f.special = none ∧ ¬ f.isE2m1 ∧ e = 2 ^ f.e - 1 ∧ frac = 2 ^ f.m - 1 then .nan
  else if e = 0 then .fin neg frac (f.emin - f.m)
  else .fin neg (frac + 2 ^ f.m) ((e : Int) - f.bias - f.m)

/-! ### E8M0, DS8 (R247, R249, R254, R255) -/

/-- ScaleValue(c) (R247). -/
def scaleValue (c : Nat) : Fp := if c % 256 = 255 then .nan else .fin false 1 ((c % 256 : Nat) - 127)

/-- Conversion of a real to E8M0 (R254). -/
def encodeE8m0 (x : Fp) (mode : RoundMode) (sat : Bool) : Nat :=
  match x with
  | .nan => 0xFF
  | .inf neg => if neg then 0xFF else if sat then 0xFE else 0xFF
  | .fin neg mant exp =>
    if neg ∨ mant = 0 then 0xFF
    else
      let fl := flog2 mant exp
      let exact := decide (mant = 2 ^ Nat.log2 mant)
      let j : Int := match mode with
        | .ru => if exact then fl else fl + 1
        | .rne => if 3 * 2 ^ Nat.log2 mant ≤ 2 * mant then fl + 1 else fl
        | _ => fl
      let c := j + 127
      if c < 0 then 0 else if 254 < c then (if sat then 0xFE else 0xFF) else c.toNat

/-- T(s, k) in units of 2^−6 (R249). -/
def ds8Term (s k : Nat) : Int :=
  if k = 7 then 0 else if s = 1 then -((2 ^ (6 - k) : Nat) : Int) else ((2 ^ (6 - k) : Nat) : Int)
/-- DS8Value in units of 2^−6. -/
def ds8Units (c : Nat) : Int := ds8Term (c / 128 % 2) (c / 16 % 8) + ds8Term (c / 8 % 2) (c % 8)
/-- DS8Value(code) (R249): its zero has no sign. -/
def ds8Value (c : Nat) : Fp := .fin (decide (ds8Units c < 0)) (ds8Units c).natAbs (-6)

/-- The best code so far among 0 to 255: the distance and the code. -/
def ds8Best (x : Int) (unit : Nat) : Nat → Nat → Nat × Nat → Nat
  | 0, _, b => b.2
  | n + 1, c, b =>
    let d := (x - ds8Units c * unit).natAbs
    ds8Best x unit n (c + 1) (if d < b.1 then (d, c) else b)

/-- A finite value as an integer number of units 2^e, exact when e is at most its exponent. -/
def unitsAt (neg : Bool) (mant : Nat) (exp e : Int) : Int :=
  let n : Int := ((mant * 2 ^ (exp - e).toNat : Nat) : Int)
  if neg then -n else n

/-- EncodeDS8(x) (R255). -/
def encodeDs8 (x : Fp) : Nat :=
  match x with
  | .nan => 0x08
  | .inf neg => if neg then 0x88 else 0x00
  | .fin neg mant exp =>
    let e := min exp (-6)
    let v := unitsAt neg mant exp e
    let u := 2 ^ (-6 - e).toNat
    ds8Best v u 255 1 ((v - ds8Units 0 * u).natAbs, 0)

/-! ### Values of tagged codes and conversions (R248, R251 to R255) -/

/-- The format of a floating-point tag with one (R245); MX4 elements are E2M1 codes. -/
def Tag.fmt : Tag → Option Fmt
  | .fp32 => some fmtFp32
  | .fp16 => some fmtFp16
  | .bf16 => some fmtBf16
  | .e4m3 => some fmtE4m3
  | .e5m2 => some fmtE5m2
  | .mx4 => some fmtE2m1
  | _ => none

/-- A value from an integer. -/
def fpOfInt (n : Int) : Fp := .fin (decide (n < 0)) n.natAbs 0

/-- Value(bits, tag) (R262): integers signed. -/
def tagValue (t : Tag) (c : Nat) : Fp :=
  match t with
  | .e8m0 => scaleValue c
  | .ds8 => ds8Value c
  | t =>
    match t.fmt with
    | some f => valueOf f c
    | none => fpOfInt (signedOf t.width c)

/-- SatS(x, n) (R258). -/
def satS (x : Int) (n : Nat) : Int := max (-(2 ^ (n - 1) : Int)) (min x (2 ^ (n - 1) - 1))
/-- SatU(x, n) (R258). -/
def satU (x : Int) (n : Nat) : Int := max 0 (min x (2 ^ n - 1))
/-- Wrap(x, n) as a code (R258). -/
def wrap (x : Int) (n : Nat) : Nat := (x % (2 ^ n : Nat)).toNat

/-- RoundInt of a finite value. -/
def roundInt (neg : Bool) (mant : Nat) (exp : Int) (mode : RoundMode) : Int :=
  let n := roundMag neg mant exp mode
  if neg then -(n : Int) else (n : Int)

/-- Conversion of a floating-point value to an integer of n bits (R253). -/
def fpToInt (x : Fp) (n : Nat) (mode : RoundMode) : Nat :=
  match x with
  | .nan => 0
  | .inf neg => wrap (if neg then -(2 ^ (n - 1) : Int) else 2 ^ (n - 1) - 1) n
  | .fin neg mant exp => wrap (satS (roundInt neg mant exp mode) n) n

/-- Conversion of a value to the code of a floating-point or scale tag (R251, R254, R255). -/
def toFloatTag (x : Fp) (t : Tag) (mode : RoundMode) (sat : Bool) : Nat :=
  match t with
  | .e8m0 => encodeE8m0 x mode sat
  | .ds8 => encodeDs8 x
  | t =>
    match t.fmt with
    | some f => encodeFp x f mode sat
    | none => 0

/-- Conversion of one code (R251 to R255). -/
def convert (src dst : Tag) (c : Nat) (mode : RoundMode) (sat : Bool) : Nat :=
  if src.isInt then
    let v := signedOf src.width c
    if dst.isInt then
      if dst.width < src.width ∧ sat then wrap (satS v dst.width) dst.width else wrap v dst.width
    else toFloatTag (fpOfInt v) dst mode sat
  else if dst.isInt then fpToInt (tagValue src c) dst.width mode
  else toFloatTag (tagValue src c) dst mode sat

/-! ### Arithmetic (R256) -/

/-- Negation of a value. -/
def Fp.neg : Fp → Fp
  | .nan => .nan
  | .inf n => .inf (!n)
  | .fin n m e => .fin (!n) m e
/-- The sign of a value. -/
def Fp.isNeg : Fp → Bool
  | .nan => false
  | .inf n => n
  | .fin n _ _ => n
/-- Magnitude of a value. -/
def Fp.abs : Fp → Fp
  | .nan => .nan
  | .inf _ => .inf false
  | .fin _ m e => .fin false m e

/-- Exact sum; an exact zero from operands of unlike sign, or of non-zero operands, is −0 only under `.rd`. -/
def fpAdd (x y : Fp) (mode : RoundMode) : Fp :=
  match x, y with
  | .nan, _ => .nan
  | _, .nan => .nan
  | .inf a, .inf b => if a = b then .inf a else .nan
  | .inf a, _ => .inf a
  | _, .inf b => .inf b
  | .fin a m e, .fin b n f =>
    let g := min e f
    let v := unitsAt a m e g + unitsAt b n f g
    if v = 0 then
      if m = 0 ∧ n = 0 ∧ a = b then .fin a 0 0 else .fin (decide (mode = .rd)) 0 0
    else .fin (decide (v < 0)) v.natAbs g

/-- Exact product. -/
def fpMul (x y : Fp) : Fp :=
  match x, y with
  | .nan, _ => .nan
  | _, .nan => .nan
  | .inf a, .inf b => .inf (a != b)
  | .inf a, .fin b n _ => if n = 0 then .nan else .inf (a != b)
  | .fin a m _, .inf b => if m = 0 then .nan else .inf (a != b)
  | .fin a m e, .fin b n f => .fin (a != b) (m * n) (e + f)

/-- Quotient, with a last bit that marks an inexact one. -/
def fpDiv (x y : Fp) : Fp :=
  match x, y with
  | .nan, _ => .nan
  | _, .nan => .nan
  | .inf _, .inf _ => .nan
  | .inf a, .fin b _ _ => .inf (a != b)
  | .fin a _ _, .inf b => .fin (a != b) 0 0
  | .fin a m e, .fin b n f =>
    if n = 0 then (if m = 0 then .nan else .inf (a != b))
    else if m = 0 then .fin (a != b) 0 0
    else
      let k := Nat.log2 n + 64
      let q := m * 2 ^ k / n
      let r := m * 2 ^ k % n
      .fin (a != b) (2 * q + (if r = 0 then 0 else 1)) (e - f - k - 1)

/-- Square root, with a last bit that marks an inexact one. -/
def fpSqrt (x : Fp) : Fp :=
  match x with
  | .nan => .nan
  | .inf a => if a then .nan else .inf false
  | .fin a m e =>
    if m = 0 then .fin a 0 0
    else if a then .nan
    else
      let odd := decide (e % 2 ≠ 0)
      let m1 := (if odd then 2 * m else m) * 2 ^ 128
      let e1 := (if odd then e - 1 else e) - 128
      let r := Nat.sqrt m1
      .fin false (2 * r + (if r * r = m1 then 0 else 1)) (e1 / 2 - 1)

/-- Fused product and sum: a × b + c, exact (R256). -/
def fpFma (a b c : Fp) (mode : RoundMode) : Fp := fpAdd (fpMul a b) c mode

/-- Whether x < y (R257). -/
def fpLt (x y : Fp) : Bool :=
  match x, y with
  | .nan, _ => false
  | _, .nan => false
  | .inf a, .inf b => a && !b
  | .inf a, _ => a
  | _, .inf b => !b
  | .fin a m e, .fin b n f =>
    let g := min e f
    decide (unitsAt a m e g < unitsAt b n f g)

/-- Whether x = y (R257). -/
def fpEq (x y : Fp) : Bool :=
  match x, y with
  | .nan, _ => false
  | _, .nan => false
  | .inf a, .inf b => decide (a = b)
  | .inf _, _ => false
  | _, .inf _ => false
  | .fin a m e, .fin b n f =>
    let g := min e f
    decide (unitsAt a m e g = unitsAt b n f g)

/-- Whether either is NaN: the relation un (R257). -/
def fpUn (x y : Fp) : Bool := decide (x = .nan) || decide (y = .nan)

/-- Whether x comes before y as FMin orders them: smaller, or −0 before +0 (R257). -/
def fpBefore (x y : Fp) : Bool := fpLt x y || (fpEq x y && x.isNeg && !y.isNeg)
/-- FMin (R257). -/
def fMin (x y : Fp) : Fp := if fpUn x y then .nan else if fpBefore y x then y else x
/-- FMax (R257). -/
def fMax (x y : Fp) : Fp := if fpUn x y then .nan else if fpBefore x y then y else x

/-! ### FP32 operations, rounded once to nearest even -/

/-- Round to FP32, nearest even. -/
def r32 (x : Fp) : Fp := round x fmtFp32 .rne false
/-- FP32 code of a value. -/
def c32 (x : Fp) : Nat := codeOf fmtFp32 (r32 x)
/-- Value of an FP32 code. -/
def v32 (c : Nat) : Fp := valueOf fmtFp32 c
/-- FP32 sum. -/
def add32 (x y : Fp) : Fp := r32 (fpAdd x y .rne)
/-- FP32 product. -/
def mul32 (x y : Fp) : Fp := r32 (fpMul x y)
/-- FP32 difference. -/
def sub32 (x y : Fp) : Fp := r32 (fpAdd x y.neg .rne)

/-! ### Blocks (R260, R261) -/

/-- A finite value divided by 2^k. -/
def Fp.shift (x : Fp) (k : Int) : Fp :=
  match x with
  | .fin n m e => .fin n m (e - k)
  | y => y

/-- The largest magnitude of a list of finite values, as a dyadic; none if one is not finite. -/
def amax : List Fp → Option (Nat × Int)
  | [] => some (0, 0)
  | .fin _ m e :: r =>
    match amax r with
    | some (n, f) => if magLe m e n f then some (n, f) else some (m, e)
    | none => none
  | _ :: _ => none

/-- QuantMX4: the scale code and the codes (R260). -/
def quantMx4 (l : List Fp) : Nat × List Nat :=
  match amax l with
  | none => (0xFF, l.map fun _ => 0)
  | some (m, e) =>
    if m = 0 then (0x7F, l.map fun _ => 0)
    else
      let x := max (flog2 m e - 2) (-127)
      ((x + 127).toNat, l.map fun v => encodeFp (v.shift x) fmtE2m1 .rne true)

/-- QuantDS8: the scale code and the codes (R261). -/
def quantDs8 (l : List Fp) : Nat × List Nat :=
  match amax l with
  | none => (0xFF, l.map fun _ => 0x08)
  | some (m, e) =>
    if m = 0 then (0x7F, l.map fun _ => 0x08)
    else
      let x := max (flog2 m e) (-127)
      ((x + 127).toNat, l.map fun v => encodeDs8 (v.shift x))

/-! ### Lanes -/

/-- Lane k of width w of a register. -/
def lane (v : Nat) (w k : Nat) : Nat := v / 2 ^ (w * k) % 2 ^ w

/-- Lanes packed from lane 0 upwards. -/
def packLanes (w : Nat) : List Nat → Nat
  | [] => 0
  | c :: r => c % 2 ^ w + 2 ^ w * packLanes w r

/-- The lanes of a register of n bits. -/
def lanes (v w : Nat) : Nat → List Nat
  | 0 => []
  | n + 1 => v % 2 ^ w :: lanes (v / 2 ^ w) w n

end Sys2Proof.Machine
end

