-- ==== Sys2Proof/Machine/Sync.lean ====
section
/-! DEFINITION. Sync objects (R128 to R135), phases (R137), versioned words (R140, R141), fences (R144). -/
namespace Sys2Proof.Machine

/-- The object that a handle names in a cluster, if it names one (R128). -/
def State.handleKey (s : State) (k : Nat) (h : Word) : Option Nat :=
  let n := h.toNat
  if n < 64 then (if (Map.get? (s.cluster k).slots n).isSome then some n else none)
  else if h.getLsbD 31 ∧ n < 2 ^ 32 ∧ n / 2 ^ 22 % 2 ^ 9 = 0 ∧ n % 64 = 0 then some (64 + n % 2 ^ 22)
  else none

/-- The object of a handle; SYNC_INVALID when it names none. -/
def handle (h : Word) : M Nat := do
  let s ← get
  match s.handleKey (clusterOf s.cur.1) h with
  | some o => return o
  | none => raise cSYNC_INVALID h

/-- A destination that an instruction will write when its wait ends. -/
def claimDest (d : BitVec 5) : M Unit := do
  if d.toNat = 0 then pure ()
  else
    linkExists d
    writeReady (.scalar d.toNat)

/-- GUARD at bar and phwait (R200): the answer says whether it has been raised, the instruction then having no other effect. In a trap handler it
becomes pending (R228), and the handler goes on behind the instruction. (DEDUCED, log 82.) -/
def guardPoint : M Bool := do
  let s ← get
  let g := s.here.guardrec
  if g.getLsbD 63 then
    if s.me.td then
      modMe fun x => { x with pendTraps := x.pendTraps ++ [{ cause := cGUARD, val := g }] }
      return true
    else raise cGUARD g
  else return false

/-! ### Slots (R130) -/

/-- The lowest number from n on that a map does not list. -/
def lowestFree {α : Type} (m : Map α) : Nat → Nat → Option Nat
  | 0, _ => none
  | f + 1, n => if (Map.get? m n).isSome then lowestFree m f (n + 1) else some n

/-- salloc (R130): FULL, all ones, when no slot is free. -/
def execSalloc (d : BitVec 5) (sc : BitVec 3) (s : State) : Outcome :=
  instr sc (do
    match lowestFree s.home.slots 64 0 with
    | some n =>
      modHome fun k => { k with slots := Map.set k.slots n (0, 0) }
      let _ ← deferS d (w64 n) 0
      pure ()
    | none =>
      let _ ← deferS d (BitVec.allOnes 64) 0
      pure ()) s

/-- sfree (R130). -/
def execSfree (a : BitVec 5) (sc : BitVec 3) (s : State) : Outcome :=
  instr sc (do
    let h ← readS a
    let o ← handle h
    if s.objBusy (clusterOf s.cur.1) o then raise cSYNC_INVALID h
    else if o < 64 then modHome fun k => { k with slots := Map.del k.slots o }
    else pure ()) s

/-! ### Barriers (R131 to R133) -/

/-- The expected count of a handle barrier. -/
def expected (b : BitVec 5) : M Nat := do
  if b.toNat = 0 then return 8
  else
    let n ← readS b
    if n.toNat = 0 ∨ 65535 < n.toNat then raise cSYNC_INVALID n else return n.toNat

/-- An arrival of the issuing context at a handle barrier; whether it completed the generation. -/
def arriveAt (h : Word) (o n : Nat) : M Bool := do
  let s ← get
  let k := clusterOf s.cur.1
  let w := s.obj k o
  match s.arrive k o n with
  | some (t, done) =>
    set t
    return done
  | none => if objKind w = 2 ∧ s.objBusy k o then raise cSYNC_INVALID h else raise cSYNC_INVALID (w64 n)

/-- Whether every level-0 context of a gang that has not halted has arrived at the gang barrier (R131). -/
def State.gangBarDone (s : State) (g : Gang) : Bool := g.cores.all fun c => s.halted0 c || g.barArrived.contains (g.indexOf c)

/-- An arrival of the issuing context at the gang barrier; whether it completed the generation. (DEDUCED, log 28.) -/
def arriveGang : M Bool := do
  let s ← get
  if s.cur.2 ≠ 0 then raise cSYNC_INVALID 0
  else
    match s.here.gang, s.gangOf s.cur.1 with
    | some gi, some g =>
      let g1 := { g with barArrived := NatSet.insert g.barArrived (g.indexOf s.cur.1) }
      let s1 := s.modGang gi fun _ => g1
      if s1.gangBarDone g1 then
        set (s1.endGangBar gi 0)
        return true
      else
        set s1
        return false
    | _, _ => return true

/-- Wait at the gang barrier. -/
def waitGang (d : Nat) : M Unit := do
  let s ← get
  match s.here.gang, s.gangOf s.cur.1 with
  | some gi, some g =>
    set (s.modGang gi fun x => { x with barWait := x.barWait ++ [(g.indexOf s.cur.1, d)] })
    throw (.block (.gangBar d))
  | _, _ => pure ()

/-- Wait at a handle barrier. -/
def waitBar (o d : Nat) : M Unit := do
  let s ← get
  modHome fun k => { k with barQ := Map.set k.barQ o (Map.getD k.barQ o [] ++ [(s.cur.1, s.cur.2, d)]) }
  throw (.block (.bar o d))

/-- bar and phend end the claims and holds of the context (R352). -/
def endMyMarks : M Unit := modify fun s => s.endMarks s.cur.1 s.cur.2

/-- bar (R131): SYNC_INVALID in an RTC handler (R31), GUARD while a record is valid (R200). -/
def execBar (d a b : BitVec 5) (sc : BitVec 3) (s : State) : Outcome :=
  instr sc (do
    claimDest d
    if a.toNat = 0 then
      if s.me.rtc then raise cSYNC_INVALID 0
      else
        if ← guardPoint then pure ()
        else
          endMyMarks
          releasePoint
          let done ← arriveGang
          if done then
            let _ ← deferS d 0 0
            pure ()
          else waitGang d.toNat
    else
      let h ← readS a
      if s.me.rtc then raise cSYNC_INVALID h
      else
        if ← guardPoint then pure ()
        else
          endMyMarks
          let o ← handle h
          let n ← expected b
          releasePoint
          let done ← arriveAt h o n
          if done then
            let _ ← deferS d 0 0
            pure ()
          else waitBar o d.toNat) s

/-- barrive (R132). -/
def execBarrive (a b : BitVec 5) (sc : BitVec 3) (s : State) : Outcome :=
  instr sc (do
    releasePoint
    if a.toNat = 0 then
      let _ ← arriveGang
      pure ()
    else
      let h ← readS a
      let o ← handle h
      let n ← expected b
      let _ ← arriveAt h o n
      pure ()) s

/-- bcancel (R133): waiters go on with status 1. -/
def execBcancel (a : BitVec 5) (sc : BitVec 3) (s : State) : Outcome :=
  instr sc (do
    if a.toNat = 0 then
      match s.here.gang with
      | some gi => modify fun t => t.endGangBar gi 1
      | none => pure ()
    else
      let h ← readS a
      let o ← handle h
      let k := clusterOf s.cur.1
      if objKind (s.obj k o) = 2 ∧ s.objBusy k o then raise cSYNC_INVALID h
      else modify fun t => t.endBar k o 1) s

/-! ### Locks (R134) -/

/-- Whether a context holds a lock object. -/
def State.holdsLock (s : State) (k o c l : Nat) : Bool :=
  let w := (s.obj k o).2
  w.getLsbD 63 && decide (w.toNat % 2 ^ 13 = s.coreId c) && decide (w.toNat / 2 ^ 13 % 4 = l)

/-- lock (R134). -/
def execLock (a : BitVec 5) (sc : BitVec 3) (s : State) : Outcome :=
  instr sc (do
    let h ← readS a
    let o ← handle h
    let k := clusterOf s.cur.1
    let w := s.obj k o
    if objKind w = 1 ∧ s.objBusy k o then raise cSYNC_INVALID h
    else if objHeld w then
      if s.holdsLock k o s.cur.1 s.cur.2 ∨ s.me.rtc then raise cSYNC_INVALID h
      else
        modHome fun y => { y with lockQ := Map.set y.lockQ o (Map.getD y.lockQ o [] ++ [s.cur]) }
        throw (.block (.lock o))
    else modify fun t => t.setObj k o (objWord 2 (objGen w) (objExpect w) (objArrived w), lockWord s.cur.2 (s.coreId s.cur.1))) s

/-- unlock (R134): the head of the queue gets the lock, or it becomes free. -/
def execUnlock (a : BitVec 5) (sc : BitVec 3) (s : State) : Outcome :=
  instr sc (do
    let h ← readS a
    let o ← handle h
    let k := clusterOf s.cur.1
    let w := s.obj k o
    if objKind w ≠ 2 ∨ ¬ s.holdsLock k o s.cur.1 s.cur.2 then raise cSYNC_INVALID h
    else
      releasePoint
      match Map.getD s.home.lockQ o [] with
      | [] => modify fun t => t.setObj k o (w.1, 0)
      | (c, l) :: r =>
        modHome fun y => { y with lockQ := Map.set y.lockQ o r }
        modify fun t =>
          let u := t.setObj k o (w.1, lockWord l (t.coreId c))
          if (u.ctx c l).st = .waiting then u.finishWait c l else u) s

/-! ### waitv (R135) -/

/-- The key of a context in the record of watched words. -/
def watchKey (c l : Nat) : Nat := 4 * c + l

/-- A context begins to watch a word, or has compared it again (R135). (DEDUCED, log 29.) -/
def State.watchWord (s : State) (c l a : Nat) : State := { s with watch := Map.set s.watch (watchKey c l) (a, false) }

/-- waitv (R135). -/
def execWaitv (a b : BitVec 5) (sc : BitVec 3) (s : State) : Outcome :=
  instr sc (do
    let A ← readS a
    let v ← readS b
    if Config.clusterBytes ≤ A.toNat then raise cLOCAL_RANGE A
    else if A.toNat % 8 ≠ 0 then raise cALIGN A
    else if s.me.rtc then raise cSYNC_INVALID A
    else
      match s.firstAbsent (clusterOf s.cur.1) A.toNat 8 with
      | some x => throw (.await x)
      | none =>
        afterOwnAmo A.toNat 8
        let x ← scalarLoad A.toNat 8
        if w64 x = v then
          modify fun t => t.watchWord s.cur.1 s.cur.2 A.toNat
          throw (.block (.waitv A.toNat v))
        else pure ()) s

/-- LocalLoad(A, 8) of a context that watches a word (R135): suppressed and recorded in a guarded granule (R178), POISON on an uncorrectable
word (R175). -/
def State.watchLoad (s : State) (c l a : Nat) : Except TrapInfo (State × Word) :=
  let k := clusterOf c
  if s.guarded k a then
    .ok (s.modCore c fun y => { y with guardrec := guardRecord y.guardrec false false l a (s.ctx c l).pc.toNat }, 0)
  else if s.badLocal k a 8 then .error { cause := cPOISON, val := w64 a, event := some a }
  else .ok (s.scrub k a 8, w64 (s.cread k a 8))

/-- The load of a waitv raises a precise trap at its wake: the context waits no more. -/
def State.wakeTrap (s : State) (c l : Nat) (t : TrapInfo) : State :=
  { ({ s with cur := (c, l) }.modCtx c l fun x => { x with st := .ready, wait := .none }).afterTrap t with cur := s.cur }

/-- WAITV_WAKE (R135): a write has reached the word that a context watches, whether or not it changed it, and the context compares again.
(DEDUCED, log 29.) -/
def execWaitvWake (core level : Nat) (s : State) : Outcome :=
  happen s (
    let x := s.ctx core level
    match x.st, x.wait with
    | .waiting, .waitv a v =>
      if Map.get? s.watch (watchKey core level) ≠ some (a, true) ∨ x.takeable ≠ none ∨ (s.core core).halting ≠ none then none
      else
        match s.watchLoad core level a with
        | .ok (t, y) => some (if y = v then t.watchWord core level a else t.finishWait core level)
        | .error t => some (s.wakeTrap core level t)
    | _, _ => none)

/-! ### Phases (R136 to R138) -/

/-- A 16-bit set with one member set or cleared. -/
def putBit (x : BitVec 16) (p : Nat) (on : Bool) : BitVec 16 :=
  let m := BitVec.ofNat 16 (2 ^ p)
  if on then x ||| m else x &&& ~~~m

/-- phopen (R137): it waits for a close that has been decided and has not reached this core. -/
def execPhopen (a : BitVec 5) (sc : BitVec 3) (s : State) : Outcome :=
  instr sc (do
    let x ← readS a
    let p := x.toNat % 16
    if s.net.closes.contains (s.cur.1, p) then throw .stall
    else
      modHere fun k => { k with ended := putBit k.ended p false, closed := putBit k.closed p false }
      match s.here.gang with
      | some gi => modify fun t => t.modGang gi fun g => { g with armed := putBit g.armed p false }
      | none => pure ()) s

/-- phset (R137). -/
def execPhset (a : BitVec 5) (sc : BitVec 3) (s : State) : Outcome :=
  instr sc (do
    let x ← readS a
    modMe fun y => { y with phase := x.setWidth 4 }) s

/-- phend (R137): the phase is armed once every core of the gang has ended it. -/
def execPhend (a : BitVec 5) (sc : BitVec 3) (s : State) : Outcome :=
  instr sc (do
    let x ← readS a
    releasePoint
    endMyMarks
    let p := x.toNat % 16
    if s.here.ended.getLsbD p then pure ()
    else
      modHere fun k => { k with ended := putBit k.ended p true }
      let t ← get
      match t.here.gang, t.gangOf t.cur.1 with
      | some gi, some g =>
        if (g.cores.all fun c => (t.core c).ended.getLsbD p) = true then
          set (t.modGang gi fun y => { y with armed := putBit y.armed p true })
        else pure ()
      | _, _ => pure ()) s

/-- phwait (R137, R200, R31). -/
def execPhwait (a : BitVec 5) (sc : BitVec 3) (s : State) : Outcome :=
  instr sc (do
    let x ← readS a
    let p := x.toNat % 16
    if s.me.rtc then raise cSYNC_INVALID (w64 p)
    else
      if ← guardPoint then pure ()
      else if s.here.closed.getLsbD p then pure ()
      else throw (.block (.phwait p))) s

/-! ### Versioned words (R140, R141) -/

/-- The checks of an address and a version number that stv, ldv and recl share. -/
def versionAddr (A : Word) (n : Nat) : M Nat := do
  if Config.clusterBytes ≤ A.toNat ∨ A.toNat / 2 ^ 16 % 8 ≠ 7 then raise cVERSION A
  else if A.toNat % 8 ≠ 0 then raise cALIGN A
  else if n = 0 then raise cVERSION A
  else return A.toNat

/-- The core of a cluster that owns a cluster address (R173). -/
def ownerCore (k a : Nat) : Nat := coreIn k (a / 2 ^ 19)

/-- The record of a word at its owner: none while it has no live version. -/
def Core.version (k : Core) (a : Nat) : Option Version := Map.get? k.versions a

/-- Version entries in use at a core. -/
def Core.versionsUsed (k : Core) : Nat := (k.versions.map fun e => e.2.live.length).foldr (· + ·) 0

/-- Whether a version may be made now: three live versions at most, and a free entry. -/
def Core.versionRoom (k : Core) (a : Nat) : Bool :=
  decide (((k.version a).map (·.live.length)).getD 0 < 4) && decide (k.versionsUsed < Config.versionMax)

/-- A record with a version added. -/
def addVersion (r : Option Version) (n : Nat) (v : Word) : Version :=
  match r with
  | some x => { x with h := n, live := x.live ++ [(n, v)] }
  | none => { h := n, f := 0, live := [(n, v)] }

/-- The contexts of a list of cores that wait in ldv for a version go on with its value (R141). -/
def State.wakeLdv (s : State) (a n : Nat) (v : Word) : List (Nat × Nat) → State
  | [] => s
  | (c, l) :: r =>
    let s1 := match (s.ctx c l).st, (s.ctx c l).wait with
      | .waiting, .ldv b m d => if b = a ∧ m = n then (s.giveS c l d v).finishWait c l else s
      | _, _ => s
    s1.wakeLdv a n v r

/-- The contexts of a cluster. -/
def contextsOf (k : Nat) : List (Nat × Nat) := (count 0 32).map fun i => (coreIn k (i / 4), i % 4)

/-- Create version n of a word of a cluster (R141). -/
def State.makeVersion (s : State) (k a n : Nat) (v : Word) : State :=
  (s.modCore (ownerCore k a) fun y => { y with versions := Map.set y.versions a (addVersion (y.version a) n v) }).wakeLdv a n v (contextsOf k)

/-- stv (R141). -/
def execStv (d a b : BitVec 5) (sc : BitVec 3) (s : State) : Outcome :=
  instr sc (do
    let A ← readS a
    let v ← readS b
    let n := (← readS d).toNat % 2 ^ 32
    let addr ← versionAddr A n
    let k := clusterOf s.cur.1
    let o := s.core (ownerCore k addr)
    if (match o.version addr with
        | some r => decide (n ≤ r.h)
        | none => false) then raise cVERSION A
    else if !o.versionRoom addr then throw .stall
    else
      releasePoint
      modify fun t => t.makeVersion k addr n v
      scalarStore addr 8 v.toNat) s

/-- ldv (R141). -/
def execLdv (d a b : BitVec 5) (sc : BitVec 3) (s : State) : Outcome :=
  instr sc (do
    claimDest d
    let A ← readS a
    let n := (← readS b).toNat % 2 ^ 32
    let addr ← versionAddr A n
    let wait : M Unit := if s.me.rtc then raise cSYNC_INVALID A else throw (.block (.ldv addr n d.toNat))
    match (s.core (ownerCore (clusterOf s.cur.1) addr)).version addr with
    | some r =>
      match r.live.find? fun e => decide (e.1 = n) with
      | some e =>
        let _ ← deferS d e.2 0
        pure ()
      | none => if n ≤ r.f ∨ n ≤ r.h then raise cVERSION A else wait
    | none => wait) s

/-- recl (R141): a record left with no live version is dropped (R140). -/
def execRecl (a b : BitVec 5) (sc : BitVec 3) (s : State) : Outcome :=
  instr sc (do
    let A ← readS a
    let n := (← readS b).toNat % 2 ^ 32
    let addr ← versionAddr A n
    modify fun t => t.modCore (ownerCore (clusterOf s.cur.1) addr) fun k =>
      match k.version addr with
      | none => k
      | some r =>
        let live := r.live.filter fun e => decide (n < e.1)
        if live.isEmpty then { k with versions := Map.del k.versions addr }
        else { k with versions := Map.set k.versions addr { r with f := max r.f n, live := live } }) s

/-! ### Fences (R144) -/

/-- Whether a context still waits for a value that an earlier access has not bound. -/
def Ctx.unbound (x : Ctx) : Bool := x.pend.any fun q => decide (q.open_ ≠ 0)

/-- Whether a message brings a write request of a headed page. -/
def Msg.storeLoad (m : Msg) : Bool :=
  match m.load with
  | some (.page q) => q.write
  | _ => false

/-- Whether a context's writes are all visible: no write request of a headed page, posted fship or posted amo is left (R144, R203, R326). -/
def State.storesDone (s : State) (c l : Nat) : Bool :=
  !(s.slices.any fun e => e.2.reqs.any fun q => q.write && decide (q.core = c) && decide (q.level = l))
    && !(s.ships.any fun q => decide (q.core = c) && decide (q.level = l) && decide (q.id = none))
    && !(s.net.msgs.any fun m => m.storeLoad && decide (m.src = c) && decide (m.level = l))
    && !(s.amos.any fun q => decide (q.core = c) && decide (q.level = l) && decide (q.id = none))

/-- Whether a flit is a message of a context, on its way to its receiver or back. -/
def Msg.messageOf (m : Msg) (c l : Nat) : Bool :=
  match m.load with
  | none => decide (m.src = c) && decide (m.level = l)
  | some .refused => decide (m.dst = c) && decide (m.level = l)
  | _ => false

/-- Whether every message of a context has been accepted or has returned. -/
def State.messagesDone (s : State) (c l : Nat) : Bool := !(s.net.msgs.any fun m => m.messageOf c l)

/-- fence.ld (R144). -/
def execFenceLd (_c sc : BitVec 3) (s : State) : Outcome := instr sc (if s.me.unbound then throw .stall else pure ()) s
/-- fence.st (R144). -/
def execFenceSt (_c sc : BitVec 3) (s : State) : Outcome :=
  instr sc (if s.storesDone s.cur.1 s.cur.2 then pure () else throw .stall) s
/-- fence.all (R144). -/
def execFenceAll (_c sc : BitVec 3) (s : State) : Outcome :=
  instr sc (if s.me.unbound || !s.storesDone s.cur.1 s.cur.2 || !s.messagesDone s.cur.1 s.cur.2 then throw .stall else pure ()) s

end Sys2Proof.Machine
end

