-- ==== Sys2Proof/Machine/Message.lean ====
section
/-! DEFINITION. Messages: send (R118), deposit (R121), amo (R123), the dispatch store (R125, R126) and the mailbox size (R127). -/
namespace Sys2Proof.Machine

/-! ### Headers and destinations (R113, R16, R17) -/

/-- A message header (R113). -/
def msgHeader (dgang sgang flits n rel rtc dep level tc phase dst src cls : Nat) : Word :=
  w64 (dgang % 16 * 2 ^ 56 + sgang % 16 * 2 ^ 52 + flits % 16 * 2 ^ 48 + n % 8 * 2 ^ 45 + rel % 2 * 2 ^ 44 + rtc % 2 * 2 ^ 43
    + dep % 2 * 2 ^ 42 + level % 4 * 2 ^ 40 + tc % 4 * 2 ^ 38 + phase % 16 * 2 ^ 34 + dst % 2 ^ 13 * 2 ^ 21 + src % 2 ^ 13 * 2 ^ 8
    + cls % 256)

/-- CLASS of a header. -/
def hdrClass (h : Word) : Nat := h.toNat % 256
/-- PHASE of a header. -/
def hdrPhase (h : Word) : Nat := h.toNat / 2 ^ 34 % 16
/-- TC of a header. -/
def hdrTc (h : Word) : Nat := h.toNat / 2 ^ 38 % 4
/-- DEP of a header. -/
def hdrDep (h : Word) : Bool := h.getLsbD 42
/-- LEVEL of a header. -/
def hdrLevel (h : Word) : Nat := h.toNat / 2 ^ 40 % 4
/-- RTC of a header. -/
def hdrRtc (h : Word) : Bool := h.getLsbD 43
/-- FLITS of a header. -/
def hdrFlits (h : Word) : Nat := h.toNat / 2 ^ 48 % 16

/-- The gang of a job with an index in it. -/
def State.gangIn (s : State) (job index : Nat) : Option Gang :=
  (s.gangs.find? fun e => decide (e.2.job = job) && decide (e.2.index = index)).map (·.2)

/-- The receiving core that a destination word names (R16, R17), with the gang indices of the header; none when it is not deliverable. A gang of
the job that is not placed, or has ended, has no core. (DEDUCED, log 87.) -/
def State.receiver (s : State) (c : Nat) (dw : Word) : Option (Nat × Nat × Nat) :=
  match s.gangOf c with
  | none => none
  | some g =>
    let id := dw.toNat % 2 ^ 13
    if Config.numCores ≤ id then none
    else if g.xgang then
      let k := dw.toNat / 2 ^ 24 % 16
      match s.gangIn g.job k with
      | some r => (r.toPhys id).map fun p => (p, k, g.index)
      | none => none
    else (g.toPhys id).map fun p => (p, 0, 0)

/-- Quota of a traffic class (R378). -/
def frameQuota (q : Word) (tc : Nat) : Nat := q.toNat / 2 ^ (16 * tc) % 2 ^ 16

/-- Whether an injection of f flits proceeds under the frame quota (R378). -/
def Core.mayInject (k : Core) (tc f : Nat) : Bool :=
  let q := frameQuota k.frameq tc
  let n := Map.getD k.frameCount tc 0
  decide (q = 0) || decide (n + f ≤ q) || decide (n = 0)

/-- A core with f flits charged to a traffic class (R378). -/
def Core.charge (k : Core) (tc f : Nat) : Core :=
  { k with frameCount := Map.set k.frameCount tc (Map.getD k.frameCount tc 0 + f) }

/-- A message enters the network at its source (R376, R377). -/
def State.inject (s : State) (m : Msg) : State :=
  { s with
    net := { s.net with msgs := s.net.msgs ++ [{ m with frame := s.mod.frame / Config.frameCounts % 256, seq := s.vale.seq }] }
    vale := { s.vale with seq := s.vale.seq + 1 } }

/-- A flit that is no message for a mailbox sets out (R376): it counts towards no quota. All of them are of traffic class 0, since the spec gives
them none, but for the answers to a message, which are of its class. (DEDUCED, log 42.) -/
def State.sendLoad (s : State) (core level dst : Nat) (q : Load) (tc : Nat := 0) : State :=
  s.inject { hdr := 0, w := [], src := core, dst := dst, level := level, retire := { router := core, phase := 0 }, pos := core, tc := tc
             load := some q }

/-- Wait until a message may be injected (R29, R31, R378). -/
def waitInject (dw : Word) (tc f : Nat) : M Unit := do
  let s ← get
  if s.here.acks = Config.maxAcks then
    if s.me.rtc ∧ s.here.refusals ≠ [] then raise cSYNC_INVALID dw else throw .stall
  else if s.here.mayInject tc f then pure ()
  else throw .stall

/-- Inject a message of the issuing context: its acknowledgement, its phase count and its quota charge (R29, R136, R378). -/
def injectMine (hdr : Word) (w : List Word) (data : List Byte) (dst f : Nat) : M Unit := do
  let s ← get
  let c := s.cur.1
  let tc := hdrTc hdr
  let s1 := s.inject
    { hdr := hdr, w := w, data := data, src := c, dst := dst, level := s.cur.2, retire := { router := c, phase := hdrPhase hdr }
      pos := c, tc := tc }
  set ((s1.countUp c (hdrPhase hdr)).modCore c fun k => { k.charge tc f with acks := k.acks + 1 })

/-- The destination of a send or deposit: its core and gang indices; TREE_PROT when it is not deliverable. -/
def receiverOf (dw : Word) : M (Nat × Nat × Nat) := do
  let s ← get
  match s.receiver s.cur.1 dw with
  | some r => return r
  | none => raiseTree cTREE_PROT 0 (w64 (dw.toNat % 2 ^ 13))

/-- The payload registers b to b + n − 1, and zeros up to seven words. -/
def readPayload (b : Nat) : Nat → Nat → M (List Word)
  | 0, _ => return []
  | f + 1, n => do
    if n = 0 then
      let r ← readPayload b f 0
      return 0 :: r
    else
      let x ← readS (BitVec.ofNat 5 b)
      let r ← readPayload (b + 1) f (n - 1)
      return x :: r

/-- send (R118, R119). -/
def execSend (r : BitVec 1) (a b : BitVec 5) (c : BitVec 8) (n sc : BitVec 3) (s : State) : Outcome :=
  instr sc (do
    let dw ← readS a
    if 0xF0 ≤ c.toNat then raise cPRIV (w64 c.toNat)
    else
      let (dst, dg, sg) ← receiverOf dw
      let tc := dw.toNat / 2 ^ 16 % 4
      waitInject dw tc 1
      if r = 1 then releasePoint else pure ()
      let w ← readPayload b.toNat 7 n.toNat
      injectMine (msgHeader dg sg 0 n.toNat r.toNat 0 0 0 tc s.me.phase.toNat dw.toNat (s.coreId s.cur.1) c.toNat) w [] dst 1) s

/-! ### deposit (R120, R121) -/

/-- The lowest uncorrectable byte of a range of cluster memory. -/
def State.firstBad (s : State) (k a n : Nat) : Option Nat :=
  ((count a n).find? fun x => s.badLocal k x 1 && !s.guarded k x)

/-- POISON when a byte of a range is uncorrectable, with its address (R121). -/
def depositBad (a n : Nat) : M Unit := do
  let s ← get
  let k := clusterOf s.cur.1
  match (if s.badLocal k a n then s.firstBad k a n else none) with
  | some x => throw (.trap { cause := cPOISON, val := w64 x, event := some x })
  | none => pure ()

/-- A thread read of n bytes of a deposit, under steps 4 and 5 of R177, of which the first m are used at once; guarded granules read 0
and are recorded once. -/
def depositRead (a n m : Nat) : M Nat := do
  let s ← get
  let k := clusterOf s.cur.1
  if s.inMailbox k a n then raise cLOCAL_RANGE (w64 a)
  else if 0 < n ∧ s.lockedLocal k a n false then raise cRANGE_LOCKED (w64 a)
  else
    match s.firstAbsent k a n with
    | some x => throw (.await x)
    | none =>
      afterOwnAmo a n
      depositBad a m
      match s.firstGuarded k a n 16 with
      | some x => noteGuard false x
      | none => pure ()
      let t ← get
      set (t.scrub k a m)
      return s.loadGranules k a n 16

/-- HANDLER of a control word. -/
def cwHandler (w : Word) : Nat := w.toNat % 2 ^ 22
/-- DBLK of a control word. -/
def cwDblk (w : Word) : Nat := w.toNat / 2 ^ 22 % 2 ^ 16
/-- FLITS of a control word. -/
def cwFlits (w : Word) : Nat := w.toNat / 2 ^ 38 % 16
/-- LEVEL of a control word. -/
def cwLevel (w : Word) : Nat := w.toNat / 2 ^ 42 % 4
/-- RTC of a control word. -/
def cwRtc (w : Word) : Bool := w.getLsbD 44
/-- VSTAMP of a control word. -/
def cwVstamp (w : Word) : Bool := w.getLsbD 45
/-- CLASS of a control word. -/
def cwClass (w : Word) : Nat := w.toNat / 2 ^ 46 % 256

/-- Whether the descriptor checks of R121 and R116 fail. -/
def State.badDescriptor (s : State) (k : Nat) (cw sw : Word) : Bool :=
  decide (cw.toNat / 2 ^ 54 ≠ 0) || decide (sw.toNat / 2 ^ 22 ≠ 0) || decide (sw.toNat % 64 ≠ 0)
    || (decide (cwHandler cw ≠ 0) && (decide (cwLevel cw = 0) || decide (cwHandler cw % 2 = 1)))
    || (decide (cwHandler cw = 0) && (decide (cwLevel cw ≠ 0) || cwRtc cw))
    || (cwVstamp cw && decide (cwFlits cw = 0))
    || decide (Config.clusterBytes < sw.toNat % 2 ^ 22 + 64 * cwFlits cw)
    || decide (Config.clusterBytes < cwDblk cw * 64 + 64 * cwFlits cw)
    || s.inMailbox k (cwDblk cw * 64) (64 * cwFlits cw)

/-- deposit (R121). A stamped one waits until the context's earlier accesses are performed, since an ldv of its version is ordered after them
(R142). -/
def execDeposit (a b : BitVec 5) (sc : BitVec 3) (s : State) : Outcome :=
  instr sc (do
    let dw ← readS a
    let D ← readS b
    if Config.clusterBytes ≤ D.toNat then raise cLOCAL_RANGE D
    else if D.toNat % 64 ≠ 0 then raise cALIGN D
    else
      let head ← depositRead D.toNat 64 16
      let cw := w64 (mapWord' head 0)
      let sw := w64 (mapWord' head 1)
      if 0xF0 ≤ cwClass cw then raise cPRIV (w64 (cwClass cw))
      else if s.badDescriptor (clusterOf s.cur.1) cw sw then raise cSYNC_INVALID cw
      else
        let (dst, dg, sg) ← receiverOf dw
        let tc := dw.toNat / 2 ^ 16 % 4
        let f := cwFlits cw
        waitInject dw tc (1 + f)
        depositBad (D.toNat + 16) 48
        let data ← depositRead sw.toNat (64 * f) (64 * f)
        if cwVstamp cw then releasePoint else pure ()
        let hdr := msgHeader dg sg f 6 0 (if cwRtc cw then 1 else 0) 1 (cwLevel cw) tc s.me.phase.toNat dw.toNat (s.coreId s.cur.1)
          (cwClass cw)
        injectMine hdr [w64 (mapWord' head 2), w64 (mapWord' head 3), w64 (mapWord' head 4), w64 (mapWord' head 5), w64 (mapWord' head 6),
          w64 (mapWord' head 7), cw] (bytesOf data (64 * f)) dst (1 + f)) s
where
  /-- Word w of a descriptor. -/
  mapWord' (x w : Nat) : Nat := x / 2 ^ (64 * w) % 2 ^ 64

/-! ### The dispatch store and the mailbox size -/

/-- An entry of the dispatch store (R114). -/
def dispatchEntry (rtc : Bool) (level handler : Nat) : BitVec 32 :=
  BitVec.ofNat 32 (2 ^ 31 + (if rtc then 2 ^ 30 else 0) + level % 4 * 2 ^ 28 + handler % 2 ^ 22)

/-- dset (R125). -/
def execDset (r : BitVec 1) (a b : BitVec 5) (l : BitVec 2) (sc : BitVec 3) (s : State) : Outcome :=
  instr sc (do
    let k := (← readS a).toNat % 256
    let h ← readS b
    if 0xF0 ≤ k ∧ k ≠ 0xFC ∧ k ≠ 0xFD ∧ k ≠ 0xFE then raise cPRIV (w64 k)
    else if l = 0 then modHere fun x => { x with dispatch := Map.set x.dispatch k 0 }
    else if Config.clusterBytes ≤ h.toNat then raise cLOCAL_RANGE h
    else if h.toNat % 2 = 1 then raise cALIGN h
    else modHere fun x => { x with dispatch := Map.set x.dispatch k (dispatchEntry (decide (r = 1)) l.toNat h.toNat) }) s

/-- dget (R126). -/
def execDget (d a : BitVec 5) (sc : BitVec 3) (s : State) : Outcome :=
  instr sc (do
    let k := (← readS a).toNat % 256
    writeSL d ((Map.getD s.here.dispatch k 0).setWidth 64) 1) s

/-- mbxcfg (R127). -/
def execMbxcfg (a : BitVec 5) (sc : BitVec 3) (s : State) : Outcome :=
  instr sc (do
    let n ← readS a
    modHere fun k => { k with mbxcfg := min (max n.toNat 4) 64 }) s

/-! ### amo (R123, R124) -/

/-- The requests that hold a credit for a core's system sequencer (R28): those in its queue, and those on their way to it. (DEDUCED, log 91.) -/
def State.amoCredits (s : State) (o : Nat) : Nat :=
  (s.core o).sysq.length + (s.net.msgs.filter fun m => m.amo.isSome && decide (m.dst = o)).length

/-- Issue an amo: its checks, and its request to the owner's system sequencer once it has a credit for one of its 16 entries (R28). -/
def issueAmo (fn : Nat) (cas : Bool) (d a b : BitVec 5) (z : BitVec 1) : M Unit := do
  let A ← readS a
  let v ← readS b
  let c ← if cas then readS d else pure 0
  let n := if z = 0 then 8 else 4
  let addr ← checkRange A n n true
  let s ← get
  let o := ownerCore (clusterOf s.cur.1) addr
  if 16 ≤ s.amoCredits o then throw .stall
  else
    let id ← deferS d 0 1
    modify fun t => t.sendLoad s.cur.1 s.cur.2 o (.amo
      { core := s.cur.1, level := s.cur.2, id := if d.toNat = 0 then none else some id, addr := addr, size := n, fn := fn, y := v
        c := c, pc := s.me.pc })

/-- amo.add (R123). -/
def execAmoAdd (d a b : BitVec 5) (z : BitVec 1) (sc : BitVec 3) (s : State) : Outcome := instr sc (issueAmo 0 false d a b z) s
/-- amo.min. -/
def execAmoMin (d a b : BitVec 5) (z : BitVec 1) (sc : BitVec 3) (s : State) : Outcome := instr sc (issueAmo 1 false d a b z) s
/-- amo.max. -/
def execAmoMax (d a b : BitVec 5) (z : BitVec 1) (sc : BitVec 3) (s : State) : Outcome := instr sc (issueAmo 2 false d a b z) s
/-- amo.and. -/
def execAmoAnd (d a b : BitVec 5) (z : BitVec 1) (sc : BitVec 3) (s : State) : Outcome := instr sc (issueAmo 3 false d a b z) s
/-- amo.or. -/
def execAmoOr (d a b : BitVec 5) (z : BitVec 1) (sc : BitVec 3) (s : State) : Outcome := instr sc (issueAmo 4 false d a b z) s
/-- amo.xor. -/
def execAmoXor (d a b : BitVec 5) (z : BitVec 1) (sc : BitVec 3) (s : State) : Outcome := instr sc (issueAmo 5 false d a b z) s
/-- amo.swap. -/
def execAmoSwap (d a b : BitVec 5) (z : BitVec 1) (sc : BitVec 3) (s : State) : Outcome := instr sc (issueAmo 6 false d a b z) s
/-- amo.cas: register d holds the compare value. -/
def execAmoCas (d a b : BitVec 5) (z : BitVec 1) (sc : BitVec 3) (s : State) : Outcome := instr sc (issueAmo 7 true d a b z) s
/-- amo.min.n. -/
def execAmoMinN (d a b : BitVec 5) (z : BitVec 1) (sc : BitVec 3) (s : State) : Outcome := instr sc (issueAmo 8 false d a b z) s
/-- amo.max.n. -/
def execAmoMaxN (d a b : BitVec 5) (z : BitVec 1) (sc : BitVec 3) (s : State) : Outcome := instr sc (issueAmo 9 false d a b z) s

/-- The new value of an amo on n bytes (R123). -/
def amoNew (fn n old y c : Nat) : Nat :=
  let w := 8 * n
  match fn with
  | 0 => (old + y) % 2 ^ w
  | 1 => if signedOf w y < signedOf w old then y else old
  | 2 => if signedOf w old < signedOf w y then y else old
  | 3 => old &&& y
  | 4 => old ||| y
  | 5 => old ^^^ y
  | 6 => y
  | 7 => if old = c then y else old
  | 8 => min old y
  | _ => max old y

/-- An amo at its owner: the state and the old value. A guarded word keeps its value and reads 0 (R124); an uncorrectable one reads as
free bits. (DESIGN CHOICE, log 20.) -/
def State.performAmo (s : State) (q : AmoReq) : State × Nat :=
  let k := clusterOf q.core
  if s.guarded k q.addr then
    (s.modCore q.core fun x => { x with guardrec := guardRecord x.guardrec true false q.level q.addr q.pc.toNat }, 0)
  else
    let bad := s.badLocal k q.addr q.size
    let old := if bad then (Config.uncorrectable s.freeCtr).toNat % 2 ^ (8 * q.size) else s.cread k q.addr q.size
    let s0 := if bad then { s with freeCtr := s.freeCtr + 1 }.countBad k q.addr else s
    let new := amoNew q.fn q.size old (q.y.toNat % 2 ^ (8 * q.size)) (q.c.toNat % 2 ^ (8 * q.size))
    ((s0.scrub k q.addr q.size).cwrite k q.addr q.size new, old)

/-- AMO_REQUEST (R123): the owner's system sequencer executes its oldest request; its result travels back as class 0xF1. -/
def execAmoRequest (core : Nat) (s : State) : Outcome :=
  happen s (
    match (s.core core).sysq with
    | [] => none
    | q :: r =>
      let s1 := s.modCore core fun k => { k with sysq := r }
      let t := s1.performAmo q
      some (match q.id with
        | none => t.1
        | some i => t.1.sendLoad core q.level q.core (.result q.level i (w64 t.2))))

/-- A context with the result of a pending write, by its number, landed in its register. -/
def Ctx.landId (x : Ctx) (i : Nat) (v : Word) : Ctx :=
  match x.pend.find? fun q => decide (q.id = i) with
  | some q => { x.land { q with val := v.setWidth 2048 } with pend := x.pend.filter fun q => decide (q.id ≠ i) }
  | none => x

end Sys2Proof.Machine
end

