-- ==== Sys2Proof/Machine/LocalMem.lean ====
section
/-! DEFINITION. Cluster-memory instructions: ld, st and their ordered forms (R177 to R180), vld and vst (R181), guard bits (R198), tensor-map
transfer (R161, R188). -/
namespace Sys2Proof.Machine

/-- Sign extension of a loaded value of n bytes (R179). -/
def signLoad (n v : Nat) : Word := BitVec.ofInt 64 (signedOf (8 * n) v)

/-- A scalar load; `fixed` says that an address in the home slice has the fixed latency 4 (R62). -/
def loadTo {n : Nat} (signed fixed : Bool) (d a : BitVec 5) (z : BitVec 2) (o : BitVec n) : M Unit := do
  let x ← readS a
  let k := 2 ^ z.toNat
  let A := address x o k
  let addr ← checkLocal A k k false
  let v ← scalarLoad addr k
  let r := if signed then signLoad k v else w64 v
  if fixed && (← get).inHome addr then writeSL d r 4
  else
    let _ ← deferS d r 0
    pure ()

/-- A scalar store. -/
def storeFrom {n : Nat} (d a : BitVec 5) (z : BitVec 2) (o : BitVec n) : M Unit := do
  let x ← readS a
  let k := 2 ^ z.toNat
  let addr ← checkLocal (address x o k) k k true
  let v ← readS d
  scalarStore addr k (v.toNat % 2 ^ (8 * k))

/-- ld (R179). -/
def execLd (d a : BitVec 5) (z : BitVec 2) (o : BitVec 10) (sc : BitVec 3) (s : State) : Outcome :=
  instr sc (loadTo false true d a z o) s
/-- ld.sx (R179). -/
def execLdSx (d a : BitVec 5) (z : BitVec 2) (o : BitVec 10) (sc : BitVec 3) (s : State) : Outcome :=
  instr sc (loadTo true true d a z o) s
/-- st (R179). -/
def execSt (d a : BitVec 5) (z : BitVec 2) (o : BitVec 10) (sc : BitVec 3) (s : State) : Outcome := instr sc (storeFrom d a z o) s
/-- ld.acq at a scope (R180): variable latency wherever its address lies (R62). The model performs every access at once, so each
scope is met. -/
def execLdAcq (d a : BitVec 5) (_c : BitVec 3) (z : BitVec 2) (o : BitVec 6) (sc : BitVec 3) (s : State) : Outcome :=
  instr sc (loadTo false false d a z o) s
/-- st.rel at a scope (R180, R211): every earlier access has been performed. -/
def execStRel (d a : BitVec 5) (_c : BitVec 3) (z : BitVec 2) (o : BitVec 6) (sc : BitVec 3) (s : State) : Outcome :=
  instr sc (do
    storeFrom d a z o
    releasePoint) s

/-- Low n bytes of a new value over an old one. -/
def lowBytes (n new : Nat) (old : BitVec 2048) : BitVec 2048 :=
  BitVec.ofNat 2048 (old.toNat / 2 ^ (8 * n) * 2 ^ (8 * n) + new % 2 ^ (8 * n))

/-- vld (R181): an uncorrectable or guarded byte tags the register POISON; the bits of an uncorrectable word are free. -/
def execVld (d a : BitVec 5) (o : BitVec 10) (sc : BitVec 3) (s : State) : Outcome :=
  instr sc (do
    let x ← readS a
    let n := s.me.vl
    let addr ← checkLocal (address x o 256) n 64 false
    let k := clusterOf s.cur.1
    let g := s.firstGuarded k addr n 4
    match g with
    | some b => noteGuard false b
    | none => pure ()
    let old ← oldV d
    let t := if g.isSome || s.badLocal k addr n then Tag.poison else Tag.raw
    modify fun t => (t.countRead k addr n).scrub k addr n
    let got ← blur (s.loadGranules k addr n 4) (if s.badLocal k addr n then s.badMask k addr n else 0)
    let r : VReg := { val := lowBytes n got old, tag := t }
    if n = 0 ∨ (s.inHome addr ∧ s.inHome (addr + n - 1)) then writeVL d r 6
    else
      let _ ← deferV d r 0
      pure ()) s

/-- vst (R181, R178). -/
def execVst (d a : BitVec 5) (o : BitVec 10) (sc : BitVec 3) (s : State) : Outcome :=
  instr sc (do
    let x ← readS a
    let n := s.me.vl
    let addr ← checkLocal (address x o 256) n 64 true
    let v ← readV d
    notPoison v.tag
    let k := clusterOf s.cur.1
    match s.firstGuarded k addr n 4 with
    | some b => noteGuard true b
    | none => pure ()
    modify fun t => t.storeGranules k addr n v.val.toNat 4) s

/-- Set or clear guard bits of n granules from a granule on. -/
def setGuards (on : Bool) (g : Nat) (l : List Nat) : Nat → List Nat
  | 0 => l
  | n + 1 => setGuards on (g + 1) (if on then NatSet.insert l g else NatSet.erase l g) n

/-- The work of guard and unguard (R198, R116). -/
def guardRange (on : Bool) (a b : BitVec 5) : M Unit := do
  let A ← readS a
  let n ← readS b
  let s ← get
  if Config.clusterBytes ≤ A.toNat ∨ Config.clusterBytes < A.toNat + 64 * n.toNat then raise cLOCAL_RANGE A
  else if A.toNat % 64 ≠ 0 then raise cALIGN A
  else if s.inMailbox (clusterOf s.cur.1) A.toNat (64 * n.toNat) then raise cLOCAL_RANGE A
  else set { s with guards := setGuards on (cellKey (clusterOf s.cur.1) A.toNat / 64) s.guards n.toNat }

/-- guard (R198). -/
def execGuard (a b : BitVec 5) (sc : BitVec 3) (s : State) : Outcome := instr sc (guardRange true a b) s
/-- unguard (R198). -/
def execUnguard (a b : BitVec 5) (sc : BitVec 3) (s : State) : Outcome := instr sc (guardRange false a b) s

/-! ### Tensor maps in registers (R160, R161, R188) -/

/-- Word w of a map image. -/
def mapWord (x w : Nat) : Nat := x / 2 ^ (64 * w) % 2 ^ 64

/-- Whether an image is valid (R161). -/
def imageValid (x : Nat) : Bool :=
  let w0 := mapWord x 0
  let w1 := mapWord x 1
  let w2 := mapWord x 2
  let w3 := mapWord x 3
  let f := w0 / 2 ^ 52 % 16
  let fill := w3 / 2 ^ 32
  decide (w0 / 2 ^ 51 % 2 = 0) && decide (w2 / 2 ^ 48 % 256 = 0) && decide (f ≠ 4) && decide (f ≠ 14) && decide (f ≠ 15)
    && decide (w3 / 2 ^ 27 % 32 ≤ 24)
    && (decide (f = 0) || decide (fill < 2 ^ (Tag.ofCode f).width))
    && (decide (f = 10) || decide (f = 11) || decide (w2 = 0))
    && (decide (w1 / 2 ^ 48 ≠ 0) || decide (w3 % 2 ^ 27 = 0))

/-- The image that a map register stores: FORMAT is its tag. -/
def MapReg.image (m : MapReg) : Nat :=
  let x := m.val.toNat
  x - x / 2 ^ 52 % 16 * 2 ^ 52 + m.tag.code * 2 ^ 52

/-- tmld (R188). -/
def execTmld (d : BitVec 4) (a : BitVec 5) (sc : BitVec 3) (s : State) : Outcome :=
  instr sc (do
    let A ← readS a
    let addr ← checkLocal A 32 32 false
    let v ← scalarLoad addr 32
    if imageValid v then
      modMe fun x =>
        { x with m := Map.set x.m d.toNat { val := BitVec.ofNat 256 v, tag := Tag.ofCode (v / 2 ^ 52 % 16) } }
    else raise cFORMAT A) s

/-- tmst (R188). -/
def execTmst (d : BitVec 4) (a : BitVec 5) (sc : BitVec 3) (s : State) : Outcome :=
  instr sc (do
    let A ← readS a
    let addr ← checkLocal A 32 32 true
    let m ← readM d.toNat
    scalarStore addr 32 m.image) s

end Sys2Proof.Machine
end

