-- ==== Sys2Proof/Machine/Tree.lean ====
section
/-! DEFINITION. Tree memory: root descriptors and translation (R152 to R159), homes of pages (R166), elements through tensor maps (R160 to R163,
R182), range locks of tree blocks (R219), reading and writing elements with sector MACs (R170, R171) and retired channels (R342). -/
namespace Sys2Proof.Machine

/-! ### Roots -/

/-- A root descriptor (R152). -/
structure Root where
  w0 : Word
  w1 : Word
  w2 : Word
  w3 : Word
deriving DecidableEq, Repr

/-- The descriptor of a root of an address space. -/
def State.root (s : State) (asid r : Nat) : Root :=
  let d := Map.getD s.roots (asid * 256 + r) (0, 0, 0, 0)
  { w0 := d.1, w1 := d.2.1, w2 := d.2.2.1, w3 := d.2.2.2 }

/-- VALID. -/
def Root.valid (d : Root) : Bool := d.w0.getLsbD 63
/-- HEADED. -/
def Root.headed (d : Root) : Bool := d.w0.getLsbD 62
/-- ESIZE as its code. -/
def Root.esizeCode (d : Root) : Nat := d.w0.toNat / 2 ^ 60 % 4
/-- ESIZE in bits. -/
def Root.esize (d : Root) : Nat := 4 * 2 ^ d.esizeCode
/-- DFMT. -/
def Root.dfmt (d : Root) : Tag := Tag.ofCode (d.w0.toNat / 2 ^ 56 % 16)
/-- KEY. -/
def Root.key (d : Root) : Nat := d.w0.toNat / 2 ^ 44 % 2 ^ 12
/-- BVER. -/
def Root.bver (d : Root) : Nat := d.w0.toNat % 2 ^ 32
/-- What the sectors of a root are written under (R170): KEY and BVER, which enter their counters. (DESIGN CHOICE, log 74.) -/
def Root.ver (d : Root) : Nat := d.key * 2 ^ 32 + d.bver
/-- TBASE. -/
def Root.tbase (d : Root) : Nat := d.w1.toNat % 2 ^ 41
/-- HBASE. -/
def Root.hbase (d : Root) : Nat := d.w2.toNat % 2 ^ 41
/-- Reserved fields set, or HEADED with another ESIZE or a KEY (R152, R156). -/
def Root.malformed (d : Root) : Bool :=
  decide (d.w0.toNat / 2 ^ 32 % 2 ^ 12 ≠ 0) || decide (d.w1.toNat / 2 ^ 41 ≠ 0) || decide (d.w2.toNat / 2 ^ 41 ≠ 0)
    || decide (d.w3 ≠ 0) || (d.headed && (decide (d.esizeCode ≠ 1) || decide (d.key ≠ 0)))

/-- Whether a tag is compatible with an element size code (R153). -/
def compatible (t : Tag) (e : Nat) : Bool :=
  match t with
  | .raw => true
  | .int4 | .mx4 => decide (e = 0)
  | .int8 | .e4m3 | .e5m2 | .ds8 | .e8m0 => decide (e = 1)
  | .int16 | .fp16 | .bf16 => decide (e = 2)
  | .int32 | .fp32 => decide (e = 3)
  | .int64 | .poison => false

/-! ### Channels and homes (R154, R166, R341, R342) -/

/-- The HBM channel of a physical address; none for the capacity tier. (DEDUCED, log 68.) -/
def channelOf (a : Nat) : Option Nat := if a < 2 ^ 40 then some (a / 2 ^ 14 % 512) else none
/-- The home slice of a physical address. (DEDUCED, log 68.) -/
def homeSlice (a : Nat) : Nat := if a < 2 ^ 40 then a / 2 ^ 15 % 256 else a / 2 ^ 14 % 256
/-- The slice at which a core's tree accesses are translated (R165). -/
def sliceOfCore (c : Nat) : Nat := if coreY c ≤ 23 then coreX c else 128 + coreX c
/-- Whether the channel of an address is retired. -/
def State.retired (s : State) (a : Nat) : Bool :=
  match channelOf a with
  | some n => (s.slice (n / 2)).retired.contains (n % 2)
  | none => false
/-- Whether the channel of an address is stalled. -/
def State.stalledAt (s : State) (a : Nat) : Bool :=
  match channelOf a with
  | some n => (s.slice (n / 2)).stalled.contains (n % 2)
  | none => false

/-! ### Translation (R155, R156) -/

/-- A fault of translation: cause and detail (R158); POISON for an uncorrectable table read (R342). -/
structure TreeFault where
  cause : Nat
  detail : Nat
deriving DecidableEq, Repr

/-- A leaf entry found by a walk: its key, words and level. -/
structure Leaf where
  key : Nat
  w0 : Word
  w1 : Word
  level : Nat
deriving DecidableEq, Repr

/-- TYPE of an entry. -/
def entryType (w1 : Word) : Nat := w1.toNat / 2 ^ 62
/-- PBASE of an entry. -/
def entryBase (w1 : Word) : Nat := w1.toNat % 2 ^ 41
/-- Malformed(e, L, D) (R156). -/
def entryMalformed (w0 w1 : Word) (level : Nat) (d : Root) : Bool :=
  let t := entryType w1
  decide (w1.toNat / 2 ^ 41 % 256 ≠ 0)
    || (decide (t = 2) && decide (level = 6))
    || (decide (t = 3) && decide (level ≤ 5))
    || (decide (t = 1) && decide (w1.toNat / 2 ^ 41 % 2 ^ 21 ≠ 0))
    || ((decide (t = 1) || decide (t = 2)) && decide (w0 ≠ 0))
    || (decide (t = 3) && decide (w1.getLsbD 58 ≠ d.headed))
    || (decide (t = 2) && w1.getLsbD 58)

/-- The key of the entry of a table that a path selects at a level. -/
def entryKey (base path level : Nat) : Nat := base * 64 + path / 2 ^ (42 - 6 * (level - 1)) % 64

/-- The levels of a walk from a table on; `n` levels are left. (DESIGN CHOICE, log 102.) -/
def State.walkFrom (s : State) (d : Root) (path : Nat) : Nat → Nat → Except TreeFault Leaf
  | 0, _ => .error { cause := cTREE_PROT, detail := 6 }
  | n + 1, base =>
    let level := 6 - n
    let key := entryKey base path level
    if s.retired (key * 16 % 2 ^ 10 + base * 2048) then .error { cause := cPOISON, detail := 0 }
    else
      let e := Map.getD s.entries key (0, 0)
      if entryType e.2 = 0 then .error { cause := cTREE_UNMAPPED, detail := level }
      else if entryMalformed e.1 e.2 level d then .error { cause := cTREE_PROT, detail := 6 }
      else if entryType e.2 = 1 then s.walkFrom d path n (entryBase e.2)
      else .ok { key := key, w0 := e.1, w1 := e.2, level := level }

/-- Whether a walk from a table on reads an entry in a stalled channel (R341). -/
def State.walkStalls (s : State) (path : Nat) : Nat → Nat → Bool
  | 0, _ => false
  | n + 1, base =>
    let key := entryKey base path (6 - n)
    let a := key * 16 % 2 ^ 10 + base * 2048
    let e := Map.getD s.entries key (0, 0)
    s.stalledAt a || (!s.retired a && decide (entryType e.2 = 1) && s.walkStalls path n (entryBase e.2))

/-- Whether the translation of a tree address has to wait for a stalled channel (R341). -/
def State.walkWaits (s : State) (asid : Nat) (t : Word) : Bool :=
  let d := s.root asid (taRoot t)
  (checkTA t).isNone && d.valid && !d.malformed && s.walkStalls (taPath t) 6 d.tbase

/-- The walk of a tree address to its leaf entry (R156). -/
def State.walk (s : State) (asid : Nat) (t : Word) : Except TreeFault (Root × Leaf) :=
  match checkTA t with
  | some k => .error { cause := cTREE_PROT, detail := k }
  | none =>
    let d := s.root asid (taRoot t)
    if !d.valid then .error { cause := cTREE_UNMAPPED, detail := 7 }
    else if d.malformed then .error { cause := cTREE_PROT, detail := 6 }
    else
      match s.walkFrom d (taPath t) 6 d.tbase with
      | .ok e => .ok (d, e)
      | .error f => .error f

/-- Kinds of access (R156). -/
inductive Access where
  | read | write | both | residency
deriving DecidableEq, Repr

/-- ENCV of an entry. -/
def entryEncv (w1 : Word) : Nat := w1.toNat / 2 ^ 49 % 256

/-- The checks on a leaf (R156). -/
def leafFault (d : Root) (e : Leaf) (path : Nat) (k : Access) : Option TreeFault :=
  if entryEncv e.w1 ≠ d.bver % 256 then some { cause := cTREE_PROT, detail := 7 }
  else if (k = .read ∨ k = .both) ∧ e.w1.getLsbD 61 = false then some { cause := cTREE_PROT, detail := 1 }
  else if (k = .write ∨ k = .both) ∧ e.w1.getLsbD 60 = false then some { cause := cTREE_PROT, detail := 2 }
  else if entryType e.w1 = 3 ∧ k ≠ .residency ∧ e.w0.getLsbD (path / 64 % 64) = false then
    some { cause := cTREE_UNMAPPED, detail := 0 }
  else none

/-- Where an element lies: physical byte address and lowest bit in it; for a headed page, the key of its header (address / 64). -/
structure Loc where
  ta : Word
  /-- the page or block that its entry maps -/
  entry : Word
  phys : Nat
  lo : Nat
  w : Nat
  headed : Option Nat
  /-- the sector of a keyed root (R170) -/
  sector : Option Nat
  /-- key and buffer version of its root -/
  ver : Nat
deriving DecidableEq, Repr

/-- The place of an element within its leaf's backing. -/
def locate (asid : Nat) (d : Root) (e : Leaf) (t : Word) : Loc :=
  let m := taPath t
  let inside := if entryType e.w1 = 3 then m % 4096 else m % 4 ^ (24 - 3 * e.level)
  let sect := if d.key = 0 then none else some ((asid * 256 + taRoot t) * 2 ^ 41 + m * d.esize / 8 / 512)
  { ta := t, entry := taOf (taRoot t) (3 * e.level) (cutPath m (3 * e.level)), phys := entryBase e.w1 * 2048 + inside * d.esize / 8, lo := inside * d.esize % 8, w := d.esize
    headed := if e.w1.getLsbD 58 then some (d.hbase * 32 + entryBase e.w1) else none
    sector := sect, ver := d.ver }

/-- Translate(t, kind) of one element (R156). -/
def State.translate (s : State) (asid : Nat) (t : Word) (k : Access) : Except TreeFault Loc :=
  match s.walk asid t with
  | .error f => .error f
  | .ok (d, e) =>
    match leafFault d e (taPath t) k with
    | some f => .error f
    | none => .ok (locate asid d e t)

/-! ### Reading and writing elements -/

/-- Whether the MAC of an element's sector fails (R170 to R172): it was last written under another key or buffer version, or its stored form is
corrupt. (DESIGN CHOICE, log 74.) -/
def State.stale (s : State) (x : Loc) : Bool :=
  match x.sector with
  | some n => decide (Map.getD s.sectors n 0 ≠ x.ver) || s.badPhys.any fun g => decide (g / 16 = x.phys / 512)
  | none => false

/-- The sectors of a list of elements whose MAC fails, as physical addresses / 512. -/
def State.staleSectors (s : State) (l : List Loc) : List Nat :=
  (l.filter fun x => s.stale x && !s.retired x.phys).foldl (fun m x => NatSet.insert m (x.phys / 512)) []

/-- A read of elements: each sector whose MAC fails counts in its slice (R171). -/
def State.countMac (s : State) (l : List Loc) : State :=
  (s.staleSectors l).foldl (fun t n => t.modSlice (homeSlice (n * 512)) fun y => { y with macFail := y.macFail + 1 }) s

/-- Whether a read of an element is uncorrectable (R171, R334, R342). -/
def State.badLoc (s : State) (x : Loc) : Bool := s.badPhys.contains (x.phys / 32) || s.stale x || s.retired x.phys

/-- The code of an element. -/
def State.getLoc (s : State) (x : Loc) : Nat := Mem.readN s.phys x.phys ((x.w + 7) / 8) / 2 ^ x.lo % 2 ^ x.w

/-- The byte that holds a 4-bit element, with the element replaced (R183). -/
def mergeNibble (old lo v : Nat) : Nat := if lo = 0 then old / 16 * 16 + v % 16 else v % 16 * 16 + old % 16

/-- n zero bytes from a physical address. -/
def State.zeroPhys (s : State) (a n : Nat) : State := { s with phys := Mem.writeN s.phys a n 0 }

/-- A partial write of a sector whose MAC fails: every other byte becomes 0, the sector verifies again, and the failure counts (R170). -/
def State.freshSector (s : State) (x : Loc) : State :=
  match x.sector with
  | none => s
  | some n =>
    let s1 := if s.stale x then
        ({ s.zeroPhys (x.phys / 512 * 512) 512 with badPhys := s.badPhys.filter fun g => decide (g / 16 ≠ x.phys / 512) }).modSlice
          (homeSlice x.phys) fun y => { y with macFail := y.macFail + 1 }
      else s
    { s1 with sectors := Map.set s1.sectors n x.ver }

/-- Write the code of an element; a write to a retired channel is dropped and counted (R342). -/
def State.putLoc (s : State) (x : Loc) (v : Nat) : State :=
  if s.retired x.phys then s.modSlice (homeSlice x.phys) fun y => { y with dropped := y.dropped + 1 }
  else
    let s1 := s.freshSector x
    if x.w < 8 then
      { s1 with phys := Mem.writeN s1.phys x.phys 1 (mergeNibble (Mem.readN s1.phys x.phys 1) x.lo v) }
    else { s1 with phys := Mem.writeN s1.phys x.phys (x.w / 8) v }

/-- Whether a list of written elements covers a byte. -/
def covers (l : List (Loc × Nat)) (a : Nat) : Bool :=
  (l.any fun q => decide (q.1.phys ≤ a) && decide (a < q.1.phys + (q.1.w + 7) / 8) && decide (q.1.lo = 0))
    && (l.any fun q => decide (q.1.phys ≤ a) && decide (a < q.1.phys + (q.1.w + 7) / 8) && (decide (8 ≤ q.1.w) || decide (q.1.lo = 4)))

/-- Write a request's elements in order; a poisoned granule that it writes whole becomes correct (R334). -/
def State.putAll (s : State) (l : List (Loc × Nat)) : State :=
  let s1 := l.foldl (fun t q => t.putLoc q.1 q.2) s
  if s1.badPhys = [] then s1
  else { s1 with badPhys := s1.badPhys.filter fun g => !((count (g * 32) 32).all (covers l)) }

/-! ### Faults of thread accesses -/

/-- A translation fault of an engine operation or an array step counts in its slice (R240). -/
def State.countFault (s : State) (n : Nat) (f : TreeFault) : State :=
  if f.cause = cPOISON then s else s.modSlice n fun y => { y with transFault := y.transFault + 1 }

/-- Raise the fault of a translation with a TRAPVAL; the slice of the issuing column counts it. -/
def raiseWalk {α : Type} (f : TreeFault) (val : Word) : M α := do
  let c ← myCore
  throw (.treeTrap (sliceOfCore c) { cause := f.cause, detail := f.detail, val := val })

/-- TRAPVAL of a fault on a tree address (R149, R157, R342). -/
def faultVal (f : TreeFault) (t : Word) : Word :=
  if f.cause = cTREE_PROT ∧ 3 ≤ f.detail ∧ f.detail ≤ 5 then t
  else if f.cause = cPOISON then t
  else subBlock t

/-- The address space of the issuing core's gang. -/
def myAsid : M Nat := do
  let s ← get
  return ((s.gangOf s.cur.1).map (·.asid)).getD 0

/-- Whether a range-lock entry of the cluster stops an access to a tree block (R219). -/
def State.lockedTree (s : State) (k : Nat) (t : Word) (store : Bool) : Bool :=
  (s.cluster k).ranges.any fun r => r.tree && (r.dest || store) && taOverlap r.ta t

/-- The range-lock check of one element. -/
def checkLockTree (t : Word) (store : Bool) : M Unit := do
  let s ← get
  if s.lockedTree (clusterOf s.cur.1) t store then raise cRANGE_LOCKED t else pure ()

/-- Whether an fship of the issuing context to the page of an element waits to be performed (R203, R209). (DEDUCED, log 70.) (DEDUCED, log 71.) -/
def State.ownShip (s : State) (asid : Nat) (t : Word) : Bool :=
  s.ships.any fun q =>
    decide (q.core = s.cur.1) && decide (q.level = s.cur.2) && decide (q.asid = asid) && decide (taRoot q.ta = taRoot t)
      && decide (taPath q.ta / 4096 = taPath t / 4096)

/-- Whether an access to an element has to wait for a stalled channel (R341, R343): a headed page's own channels count at its slice. -/
def State.locStalled (s : State) (x : Loc) : Bool := x.headed.isNone && s.stalledAt x.phys

/-- Translate one element for a thread access; it waits while the channel of a table or of its backing is stalled (R341), and for the context's
own earlier fship to its page, since accesses to one location take effect in program order (R211). -/
def translateT (t : Word) (k : Access) : M Loc := do
  let s ← get
  let asid ← myAsid
  if s.walkWaits asid t then throw .stall
  else
    match s.translate asid t k with
    | .error f => raiseWalk f (faultVal f t)
    | .ok x => if s.locStalled x || s.ownShip asid t then throw .stall else return x

/-- Translate the target of an fship: fships of one core to one target keep their order by themselves (R203). -/
def translateShip (t : Word) (k : Access) : M Loc := do
  let s ← get
  let asid ← myAsid
  if s.walkWaits asid t then throw .stall
  else
    match s.translate asid t k with
    | .error f => raiseWalk f (faultVal f t)
    | .ok x => if s.locStalled x then throw .stall else return x

/-! ### Translation caches and walkers (R165, R167) -/

/-- The number of the current frame, as a flit carries it (R377). -/
def State.frameNo (s : State) : Nat := s.mod.frame / Config.frameCounts % 256

/-- A slice after a request for an entry (R167): none while its miss queue is full, since it accepts no request then. A hit changes nothing; a miss
joins the walk of its entry, takes a walker, or enters the miss queue. (DEDUCED, log 89.) -/
def Slice.lookUp (y : Slice) (q : WalkReq) : Option Slice :=
  let same (r : WalkReq) : Bool := decide (r.asid = q.asid) && decide (r.ta = q.ta)
  if Config.missMax ≤ y.misses.length then none
  else if y.cached.contains (q.asid, q.ta) || y.walkers.any same || y.misses.any same then some y
  else if y.walkers.length < Config.walkerMax then some { y with walkers := y.walkers ++ [q] }
  else some { y with misses := y.misses ++ [q] }

/-- A slice translates through an entry of an address space (R165); none while it accepts no request. (DEDUCED, log 89.) -/
def State.lookUp (s : State) (n asid : Nat) (entry : Word) : Option State :=
  ((s.slice n).lookUp { asid := asid, ta := entry, frame := s.frameNo }).map fun y => s.modSlice n fun _ => y

/-- The entries of a list, one after the other. -/
def State.lookUps (s : State) (n asid : Nat) : List Word → Option State
  | [] => some s
  | e :: r => (s.lookUp n asid e).bind fun t => t.lookUps n asid r

/-- The issuing column's slice translates an element (R165); the access waits in the network while its miss queue is full (R167).
(DEDUCED, log 89.) -/
def noteWalk (x : Loc) : M Unit := do
  let s ← get
  let a ← myAsid
  match s.lookUp (sliceOfCore s.cur.1) a x.entry with
  | some t => set t
  | none => throw .stall

/-- Every entry that an access needs, in the order of its elements; `last` is the one looked up just before. -/
def noteWalks (last : Option Word) : List (Nat × Loc) → M Unit
  | [] => pure ()
  | (_, x) :: r => do
    if last = some x.entry then pure () else noteWalk x
    noteWalks (some x.entry) r

/-- The oldest of the waiting misses, and in arrival order among equals, by its index (R167). -/
def oldestMiss (now : Nat) : List WalkReq → Nat → Option (Nat × Nat) → Option Nat
  | [], _, best => best.map (·.1)
  | q :: r, i, best =>
    let a := (now + 256 - q.frame % 256) % 256
    oldestMiss now r (i + 1) (match best with
      | some (_, b) => if b < a then some (i, a) else best
      | none => some (i, a))

/-- A list with an element in front, at most n long. -/
def pushFront {α : Type} [DecidableEq α] (n : Nat) (x : α) (l : List α) : List α := (x :: l.filter fun y => decide (y ≠ x)).take n

/-- The first walker of a slice is done (R165, R167): its entry and the tables above it are cached, and the oldest miss takes the walker. A walk
that found no entry caches none. (DEDUCED, log 89.) -/
def State.walkDone (s : State) (n : Nat) : Option State :=
  let y := s.slice n
  match y.walkers with
  | [] => none
  | q :: r =>
    let found := match s.walk q.asid q.ta with
      | .ok (_, e) => some e.level
      | .error _ => none
    let y1 := match found with
      | some l =>
        { y with
          cached := pushFront Config.cacheMax (q.asid, taOf (taRoot q.ta) (3 * l) (cutPath (taPath q.ta) (3 * l))) y.cached
          cachedTables := (count 1 (l - 1)).foldl (fun m k =>
            pushFront Config.tableCacheMax (q.asid, taOf (taRoot q.ta) (3 * k) (cutPath (taPath q.ta) (3 * k))) m) y.cachedTables }
      | none => y
    some (s.modSlice n fun _ =>
      match oldestMiss s.frameNo y.misses 0 none with
      | some i =>
        { y1 with
          walkers := r ++ ((y.misses.drop i).take 1)
          misses := removeAt y.misses i }
      | none => { y1 with walkers := r })

/-- A mapping changes (R164): every translation cache drops the entries of the block. (DEDUCED, log 89.) -/
def State.dropCached (s : State) (asid : Nat) (t : Word) : State :=
  let keep (q : Nat × Word) : Bool := decide (q.1 ≠ asid) || !taOverlap q.2 t
  { s with
    slices := s.slices.map fun e =>
      (e.1, { e.2 with cached := e.2.cached.filter keep, cachedTables := e.2.cachedTables.filter keep }) }

/-! ### Tensor maps (R160, R162, R163) -/

/-- The fields of a map image. -/
structure MapView where
  root : Nat
  kaxis : Bool
  raw : Bool
  headed : Bool
  row0 : Nat
  col0 : Nat
  planes : Nat
  rows : Nat
  cols : Nat
  sroot : Nat
  srow0 : Nat
  scol0 : Nat
  fill : Nat
  pdepth : Nat
  pstride : Nat
  tag : Tag
deriving DecidableEq, Repr

/-- The fields of a map register. -/
def MapReg.view (m : MapReg) : MapView :=
  let x := m.val.toNat
  let w0 := mapWord x 0
  let w1 := mapWord x 1
  let w2 := mapWord x 2
  let w3 := mapWord x 3
  { root := w0 / 2 ^ 56, kaxis := w0.testBit 50, raw := w0.testBit 49, headed := w0.testBit 48, row0 := w0 / 2 ^ 24 % 2 ^ 24
    col0 := w0 % 2 ^ 24, planes := w1 / 2 ^ 48 + 1, rows := w1 / 2 ^ 24 % 2 ^ 24 + 1, cols := w1 % 2 ^ 24 + 1
    sroot := w2 / 2 ^ 56, srow0 := w2 / 2 ^ 24 % 2 ^ 24, scol0 := w2 % 2 ^ 24, fill := w3 / 2 ^ 32, pdepth := w3 / 2 ^ 27 % 32
    pstride := w3 % 2 ^ 27, tag := m.tag }

/-- The origin TA of a map (R160). -/
def MapView.origin (v : MapView) : Word := w64 (makeTA v.root 24 v.row0 v.col0)

/-- Where an index pair of a map falls (R162). -/
inductive MapElem where
  | outside
  /-- TREE_PROT detail 8 -/
  | beyond
  | at (ta : Word)
deriving DecidableEq, Repr

/-- The Morton index of a row and column displaced by p planes. -/
def MapView.displaced (v : MapView) (r c p : Nat) : Nat := interleave r c + p * v.pstride * 4 ^ (24 - v.pdepth)

/-- The element of map row i and column j (R162). -/
def MapView.elem (v : MapView) (i j : Nat) : MapElem :=
  let p := i / v.rows
  let ir := i % v.rows
  if v.planes * v.rows ≤ i ∨ v.cols ≤ j then .outside
  else if 2 ^ 24 ≤ v.row0 + ir ∨ 2 ^ 24 ≤ v.col0 + j then .beyond
  else
    let m := v.displaced (v.row0 + ir) (v.col0 + j) p
    if 2 ^ 48 ≤ m then .beyond else .at (taOf v.root 24 m)

/-- The scale element of map row i and column j of an MX4 or DS8 map (R163). -/
def MapView.scale (v : MapView) (i j : Nat) : MapElem :=
  let p := i / v.rows
  let ir := i % v.rows
  let r := if v.kaxis then v.srow0 + ir else v.srow0 + ir / 16
  let c := if v.kaxis then v.scol0 + j / 16 else v.scol0 + j
  if 2 ^ 24 ≤ r ∨ 2 ^ 24 ≤ c then .beyond
  else
    let m := v.displaced r c p
    if 2 ^ 48 ≤ m then .beyond else .at (taOf v.sroot 24 m)

/-- TRAPVAL of detail 8: the map coordinates (R162). -/
def coordVal (i j : Nat) : Word := w64 (i % 2 ^ 40 * 2 ^ 24 + j % 2 ^ 24)

/-- The element width of an access through a map (R182). -/
def MapView.width (v : MapView) (d : Root) : Nat := if v.tag = .raw then d.esize else v.tag.width

/-- FILL as read: its low bits. -/
def MapView.fillCode (v : MapView) (w : Nat) : Nat := v.fill % 2 ^ w

/-- Whether a root exists and is well formed (R152). -/
def Root.sound (d : Root) : Bool := d.valid && !d.malformed

/-- FORMAT of a map at an access (R153, R182): a tag that its root's ESIZE does not allow, or a RAW map whose FILL has bits above the element
width, which is checked at use (R161). A root that does not exist or is malformed has no ESIZE to differ from: its elements fault when they
are translated. The answer is the map's root. (DEDUCED, log 88.) -/
def mapFormat (v : MapView) : M Root := do
  let s ← get
  let a ← myAsid
  let d := s.root a v.root
  if d.sound && !v.headed && (!compatible v.tag d.esizeCode || (decide (v.tag = .raw) && decide (2 ^ d.esize ≤ v.fill))) then
    raiseFormat v.tag.code d.esizeCode
  else return d

/-- The HEADED flag of a map against its root's (R182). -/
def mapHeaded (v : MapView) (d : Root) : M Unit := do
  if d.sound && v.headed != d.headed then raiseWalk { cause := cTREE_PROT, detail := 9 } v.origin else pure ()

/-- The range-lock check over the in-extent elements of an access, in its element order (R219). -/
def locksOver (v : MapView) (store : Bool) : List (Nat × Nat × Nat) → M Unit
  | [] => pure ()
  | (_, i, j) :: r => do
    match v.elem i j with
    | .at t => checkLockTree t store
    | _ => pure ()
    locksOver v store r

/-- Translate the scale element of an in-extent element (R163), with kind read whatever the access. (DEDUCED, log 15.) -/
def scaleOver (v : MapView) (i j : Nat) : M Unit := do
  if v.tag = .mx4 ∨ v.tag = .ds8 then
    match v.scale i j with
    | .at t => do
      let x ← translateT t .read
      noteWalk x
    | .beyond => raiseWalk { cause := cTREE_PROT, detail := 8 } (coordVal i j)
    | .outside => pure ()
  else pure ()

/-- Translate every in-extent element in element order (R159, R182); the answers keep the element numbers. -/
def translateOver (v : MapView) (k : Access) : List (Nat × Nat × Nat) → M (List (Nat × Loc))
  | [] => return []
  | (e, i, j) :: r => do
    match v.elem i j with
    | .outside => translateOver v k r
    | .beyond => raiseWalk { cause := cTREE_PROT, detail := 8 } (coordVal i j)
    | .at t => do
      let x ← translateT t k
      scaleOver v i j
      let rest ← translateOver v k r
      return (e, x) :: rest

/-- Every check of an access to elements through a map, in the order of R226: range locks, the HEADED flag, translation. The answers are the
elements' places; entries that it needs may miss in the slice. (DESIGN CHOICE, log 3.) (DEDUCED, log 15.) -/
def reachMap (v : MapView) (d : Root) (k : Access) (store : Bool) (l : List (Nat × Nat × Nat)) : M (List (Nat × Loc)) := do
  locksOver v store l
  mapHeaded v d
  let r ← translateOver v k l
  noteWalks none r
  return r

/-- The range-lock check over elements named by tree address. -/
def locksRaw (store : Bool) : List (Nat × Word) → M Unit
  | [] => pure ()
  | (_, t) :: r => do
    checkLockTree t store
    locksRaw store r

/-- Translate elements named by tree address, in order. -/
def translateRaw (k : Access) : List (Nat × Word) → M (List (Nat × Loc))
  | [] => return []
  | (e, t) :: r => do
    let x ← translateT t k
    let rest ← translateRaw k r
    return (e, x) :: rest

/-- Every check of an access to elements by raw tree address. (DESIGN CHOICE, log 3.) -/
def reachRaw (k : Access) (store : Bool) (l : List (Nat × Word)) : M (List (Nat × Loc)) := do
  locksRaw store l
  let r ← translateRaw k l
  noteWalks none r
  return r

/-- Codes packed from bit 0 upwards, element e at bit e × w. -/
def packAt (w : Nat) : List (Nat × Nat) → Nat
  | [] => 0
  | (e, c) :: r => c % 2 ^ w * 2 ^ (e * w) + packAt w r

/-- The mask of the elements of a list that are uncorrectable. -/
def State.badElems (s : State) (w : Nat) : List (Nat × Loc) → Nat
  | [] => 0
  | (e, x) :: r => (if s.badLoc x then (2 ^ w - 1) * 2 ^ (e * w) else 0) + s.badElems w r

/-- The codes of elements as a packed number. -/
def State.readElems (s : State) (w : Nat) (l : List (Nat × Loc)) : Nat := packAt w (l.map fun q => (q.1, s.getLoc q.2))

end Sys2Proof.Machine
end

