-- ==== Sys2Proof/Machine/TreeMem.lean ====
section
/-! DEFINITION. Tree accesses of a thread: ldt, stt (R183), vldt, vstt (R184), those through headed maps (R185, R186, R326, R327), vgath and vscat
(R187). -/
namespace Sys2Proof.Machine

/-- A number with the bits of a mask taken from another. -/
def overlay (old mask new : Nat) : Nat := (old ||| mask) - ((old ||| mask) &&& mask) + (new &&& mask)

/-- The mask of n elements of width w from bit 0. -/
def lowMask (n w : Nat) : Nat := 2 ^ (n * w) - 1

/-! ### Scalar forms (R183) -/

/-- Refuse a headed map (R183, R187). (DEDUCED, log 14.) -/
def notHeaded (v : MapView) : M Unit := if v.headed then raiseFormat v.tag.code 0 else pure ()

/-- The code of one in-extent element; POISON precisely when it is uncorrectable (R183), which counts in its slice where a MAC fails (R171). -/
def readOne (x : Loc) : M Nat := do
  let s ← get
  if s.badLoc x then
    if s.stale x && !s.retired x.phys then throw (.macTrap (homeSlice x.phys) { cause := cPOISON, val := x.ta }) else raise cPOISON x.ta
  else return s.getLoc x

/-- ldt, map form (R183). -/
def execLdtMap (d a b : BitVec 5) (k : BitVec 4) (sc : BitVec 3) (s : State) : Outcome :=
  instr sc (do
    let i ← readS a
    let j ← readS b
    let v := (← readM k.toNat).view
    notHeaded v
    let r ← mapFormat v
    let got ← reachMap v r .read false [(0, i.toNat, j.toNat)]
    let c ← match got with
      | q :: _ => readOne q.2
      | [] => pure (v.fillCode (v.width r))
    let _ ← deferS d (w64 c) 0
    pure ()) s

/-- The checks of a raw tree address (R149), and FORMAT for a headed root (R183, R325). The answer is the root. (DEDUCED, log 13.) -/
def rawRoot (t : Word) : M Root := do
  match checkTA t with
  | some n => raiseWalk { cause := cTREE_PROT, detail := n } t
  | none =>
    let a ← myAsid
    let r := (← get).root a (taRoot t)
    if r.sound && r.headed then raise cFORMAT t else return r

/-- ldt, raw form (R183). (DEDUCED, log 13.) -/
def execLdtTa (d a : BitVec 5) (sc : BitVec 3) (s : State) : Outcome :=
  instr sc (do
    let t ← readS a
    let _ ← rawRoot t
    if taDepth t ≠ 24 then raise cALIGN t
    else
      let got ← reachRaw .read false [(0, t)]
      match got with
      | q :: _ =>
        let c ← readOne q.2
        let _ ← deferS d (w64 c) 0
        pure ()
      | [] => pure ()) s

/-- stt, map form (R183): an out-of-extent write is dropped. -/
def execSttMap (d a b : BitVec 5) (k : BitVec 4) (sc : BitVec 3) (s : State) : Outcome :=
  instr sc (do
    let i ← readS a
    let j ← readS b
    let x ← readS d
    let v := (← readM k.toNat).view
    notHeaded v
    let r ← mapFormat v
    let got ← reachMap v r .write true [(0, i.toNat, j.toNat)]
    modify fun t => t.putAll (got.map fun q => (q.2, x.toNat % 2 ^ q.2.w))) s

/-- stt, raw form (R183). -/
def execSttTa (d a : BitVec 5) (sc : BitVec 3) (s : State) : Outcome :=
  instr sc (do
    let t ← readS a
    let x ← readS d
    let _ ← rawRoot t
    if taDepth t ≠ 24 then raise cALIGN t
    else
      let got ← reachRaw .write true [(0, t)]
      modify fun u => u.putAll (got.map fun q => (q.2, x.toNat % 2 ^ q.2.w))) s

/-! ### Strips (R184) -/

/-- The elements (e, i, j + e) of a strip of n elements. -/
def stripFrom (i j : Nat) (e : Nat) : Nat → List (Nat × Nat × Nat)
  | 0 => []
  | n + 1 => (e, i, j + e) :: stripFrom i j (e + 1) n

/-- Whether an element number is among those found in extent. -/
def inExtent (got : List (Nat × Loc)) (e : Nat) : Bool := got.any fun q => decide (q.1 = e)

/-- FILL for the elements of a strip that are out of extent. -/
def fillOut (got : List (Nat × Loc)) (f n : Nat) : List (Nat × Nat) :=
  ((count 0 n).filter fun e => !inExtent got e).map fun e => (e, f)

/-- The elements of a strip that a store writes, with their codes. -/
def storeElems (x w : Nat) (got : List (Nat × Loc)) : List (Loc × Nat) := got.map fun q => (q.2, x / 2 ^ (q.1 * w) % 2 ^ w)

/-- Finish a vector load from elements: `mask` covers the bits it writes. Sectors whose MAC fails count (R171). -/
def finishLoad (d : BitVec 5) (w : Nat) (got : List (Nat × Loc)) (fills : List (Nat × Nat)) (mask : Nat) (t : Tag) : M Unit := do
  let s ← get
  set (s.countMac (got.map fun q => q.2))
  let bad := s.badElems w got
  let x ← blur (s.readElems w got + packAt w fills) bad
  let old ← oldV d
  let _ ← deferV d { val := BitVec.ofNat 2048 (overlay old.toNat mask x), tag := if bad = 0 then t else .poison } 0
  pure ()

/-! ### Headed maps (R185, R186, R326, R327) -/

/-- The number of an element in its page: 64 × row + column. -/
def elemNo (t : Word) : Nat := 64 * (rowOf (taPath t) % 64) + colOf (taPath t) % 64

/-- The element numbers in one page with what belongs to each. -/
def ofPage (key : Nat) : List (Nat × Nat × Nat) → List (Nat × Nat)
  | [] => []
  | (k, e, x) :: r => if k = key then (e, x) :: ofPage key r else ofPage key r

/-- The pages of a list, in order of first occurrence. -/
def pagesOf (seen : List Nat) : List (Nat × Nat × Nat) → List Nat
  | [] => []
  | (k, _, _) :: r => if seen.contains k then pagesOf seen r else k :: pagesOf (k :: seen) r

/-- Requests by page. -/
def byPage (l : List (Nat × Nat × Nat)) : List (Nat × List (Nat × Nat)) := (pagesOf [] l).map fun k => (k, ofPage k l)

/-- The end router of a core's column, by which its requests reach the edge slices (R165, R376). -/
def endRouter (c : Nat) : Nat := if coreY c ≤ 23 then coreX c else 47 * 128 + coreX c

/-- Send a page request to the slice that homes the page's header (R322). -/
def State.sendPage (s : State) (q : PageReq) : State := s.sendLoad q.core q.level (endRouter q.core) (.page { q with frame := s.frameNo })

/-- Send page requests in order. -/
def State.sendPages (s : State) : List PageReq → State
  | [] => s
  | q :: r => (s.sendPage q).sendPages r

/-- The header of a page. -/
def State.header (s : State) (key : Nat) : PageHdr := Map.getD s.headers key {}

/-- Whether headed pages can be dequantised into a format (R185). -/
def computeFormat (t : Tag) : Bool :=
  match t with
  | .e4m3 | .e5m2 | .fp16 | .bf16 | .fp32 => true
  | _ => false

/-- vldt through a headed map with RAW = 0 (R185, R327): one read request a page; the register lands when all have answered. -/
def loadHeaded (d : BitVec 5) (v : MapView) (i j : Nat) : M Unit := do
  if computeFormat v.tag then
    let r ← mapFormat v
    let s ← get
    let w := v.tag.width
    let n := s.me.vl * 8 / w
    let got ← reachMap v r .read false (stripFrom i j 0 n)
    let reqs := byPage (got.map fun q => (q.2.headed.getD 0, elemNo q.2.ta, q.1))
    let old ← oldV d
    let x := overlay old.toNat (lowMask n w) (packAt w (fillOut got (v.fillCode w) n))
    let id ← deferV d { val := BitVec.ofNat 2048 x, tag := v.tag } reqs.length
    modify fun t => t.sendPages (reqs.map fun q =>
      { page := q.1, write := false, core := s.cur.1, level := s.cur.2, id := id, fmt := v.tag, elems := q.2 })
  else raiseFormat v.tag.code 0

/-- The number of codes that vldt.raw reads (R186): c is the map's starting column. (DEDUCED, log 14.) -/
def rawCount (vl w c : Nat) : Nat := min (vl * 8 / w) (64 - c % 64)

/-- A strip that meets no page (R186): both registers RAW and zero. -/
def loadNoPage (d : BitVec 5) (vl : Nat) : M Unit := do
  let old ← oldV d
  let _ ← deferV d { val := BitVec.ofNat 2048 (overlay old.toNat (lowMask vl 8) 0), tag := .raw } 0
  let _ ← deferV (d + 1) { val := 0, tag := .raw } 0
  pure ()

/-- The elements of a strip that lie in the page of a header, with their numbers in it. -/
def pageElems (key : Nat) (got : List (Nat × Loc)) : List (Nat × Nat) :=
  (got.filter fun q => decide (q.2.headed = some key)).map fun q => (elemNo q.2.ta, q.1)

/-- vldt.raw (R186): the page of element (i, j) answers with codes and header. Elements of the strip that a plane offset puts into another page
read as code 0. (DEDUCED, log 14.) -/
def loadStored (d : BitVec 5) (v : MapView) (i j : Nat) : M Unit := do
  if ¬ v.headed then raiseFormat v.tag.code 0
  else
    let r ← mapFormat v
    let vl := (← get).me.vl
    let c := v.col0 + j
    let first ← reachMap v r .read false [(0, i, j)]
    match first with
    | [] => loadNoPage d vl
    | q :: _ =>
      let s ← get
      let key := q.2.headed.getD 0
      let n := rawCount vl (if (s.header key).mx4 then 4 else 8) c
      let got ← reachMap v r .read false (stripFrom i j 0 n)
      let asid ← myAsid
      let more := ((stripFrom i j 0 (rawCount vl 4 c)).drop n).filterMap fun e =>
        match v.elem e.2.1 e.2.2 with
        | .at t =>
          match s.translate asid t .read with
          | .ok x => some (e.1, x)
          | .error _ => none
        | _ => none
      let old ← oldV d
      let id ← deferV d { val := BitVec.ofNat 2048 (overlay old.toNat (lowMask vl 8) 0), tag := .raw } 1
      let _ ← deferV (d + 1) { val := 0, tag := .raw } 1
      modify fun t => t.sendPage
        { page := key, write := false, raw := true, core := s.cur.1, level := s.cur.2, id := id, vl := vl
          elems := pageElems key (got ++ more), col := c, row := rowOf (taPath q.2.ta) % 64 }

/-- The E4M3 code of a value stored in a page with a page scale (R326). -/
def storeCode (t : Tag) (c pscale : Nat) : Nat :=
  encodeFp ((tagValue t c).shift ((pscale : Int) - 127)) fmtE4m3 .rne true

/-- vstt through a headed map (R326): one write request a page, in increasing element order. -/
def storeHeaded (v : MapView) (x : VReg) (i j : Nat) : M Unit := do
  if v.raw ∨ x.tag ≠ v.tag ∨ computeFormat v.tag = false then raiseFormat x.tag.code v.tag.code
  else
    let r ← mapFormat v
    let s ← get
    let w := v.tag.width
    let got ← reachMap v r .write true (stripFrom i j 0 (s.me.vl * 8 / w))
    let l := got.map fun q =>
      let key := q.2.headed.getD 0
      (key, elemNo q.2.ta, storeCode v.tag (x.val.toNat / 2 ^ (q.1 * w) % 2 ^ w) (s.header key).pscale)
    modify fun t => t.sendPages ((byPage l).map fun q =>
      { page := q.1, write := true, core := s.cur.1, level := s.cur.2, id := 0, elems := q.2 })

/-- vldt.raw (R186): a field d of 27 or a link code is ILLEGAL. -/
def execVldtRaw (d a b : BitVec 5) (k : BitVec 4) (sc : BitVec 3) (s : State) : Outcome :=
  instr sc (do
    if 27 ≤ d.toNat then raise cILLEGAL (w64 (Instr.word (.vldtRaw d a b k sc)))
    else
      let i ← readS a
      let j ← readS b
      let v := (← readM k.toNat).view
      loadStored d v i.toNat j.toNat) s

/-! ### vldt and vstt -/

/-- vldt, map form (R184, R185, R327). A headed map with RAW = 1 needs the register pair of vldt.raw, which only the map read here fixes: a d of
27 or a link code raises FORMAT (R269). (DEDUCED, log 80.) -/
def execVldtMap (d a b : BitVec 5) (k : BitVec 4) (sc : BitVec 3) (s : State) : Outcome :=
  instr sc (do
    let i ← readS a
    let j ← readS b
    let v := (← readM k.toNat).view
    if v.headed then
      if v.raw then
        if 27 ≤ d.toNat then raiseFormat v.tag.code 0 else loadStored d v i.toNat j.toNat
      else loadHeaded d v i.toNat j.toNat
    else
      let r ← mapFormat v
      let w := v.width r
      let n := s.me.vl * 8 / w
      let got ← reachMap v r .read false (stripFrom i.toNat j.toNat 0 n)
      finishLoad d w got (fillOut got (v.fillCode w) n) (lowMask n w) v.tag) s

/-- The elements, as tree addresses, that the first n bytes of a block take in, in root byte order (R184). (DESIGN CHOICE, log 103.) -/
def blockElems (t : Word) (w n : Nat) : List (Nat × Word) :=
  (count 0 (min ((n * 8 + w - 1) / w) (4 ^ (24 - taDepth t)))).map fun e => (e, taOf (taRoot t) 24 (taPath t + e))

/-- vldt, raw form (R184): bytes beyond the block read as 0. -/
def execVldtTa (d a : BitVec 5) (sc : BitVec 3) (s : State) : Outcome :=
  instr sc (do
    let t ← readS a
    let r ← rawRoot t
    let got ← reachRaw .read false (blockElems t r.esize s.me.vl)
    finishLoad d r.esize got [] (lowMask s.me.vl 8) r.dfmt) s

/-- vstt, map form (R184, R326). (DEDUCED, log 16.) -/
def execVsttMap (d a b : BitVec 5) (k : BitVec 4) (sc : BitVec 3) (s : State) : Outcome :=
  instr sc (do
    let i ← readS a
    let j ← readS b
    let x ← readV d
    let v := (← readM k.toNat).view
    notPoison x.tag
    if v.headed then storeHeaded v x i.toNat j.toNat
    else
      let r ← mapFormat v
      if x.tag ≠ v.tag ∧ v.tag ≠ .raw then raiseFormat x.tag.code v.tag.code
      else
        let w := v.width r
        let got ← reachMap v r .write true (stripFrom i.toNat j.toNat 0 (s.me.vl * 8 / w))
        modify fun t => t.putAll (storeElems x.val.toNat w got)) s

/-- The bits of an element that lie within the first n bytes of a strip, over the element's old bits: 0 where the MAC of its sector fails
(R170). -/
def partElem (s : State) (x : Loc) (new e n : Nat) : Nat :=
  let m := min x.w (n * 8 - e * x.w)
  (if s.stale x then 0 else s.getLoc x / 2 ^ m * 2 ^ m) + new % 2 ^ m

/-- vstt, raw form (R184): bytes beyond the block are not written. (DEDUCED, log 13.) -/
def execVsttTa (d a : BitVec 5) (sc : BitVec 3) (s : State) : Outcome :=
  instr sc (do
    let t ← readS a
    let x ← readV d
    let r ← rawRoot t
    notPoison x.tag
    if x.tag ≠ r.dfmt ∧ x.tag ≠ .raw then raiseFormat x.tag.code r.dfmt.code
    else
      let w := r.esize
      let n := s.me.vl
      let got ← reachRaw .write true (blockElems t w n)
      modify fun u => u.putAll (got.map fun q => (q.2, partElem u q.2 (x.val.toNat / 2 ^ (q.1 * w)) q.1 n))) s

/-! ### vgath and vscat (R187) -/

/-- The active index lanes of a gather or scatter: lane, map row and column. -/
def gatherLanes (x vl : Nat) (p : BitVec 256) : List (Nat × Nat × Nat) :=
  ((count 0 32).filter fun k => decide (8 * k < vl) && predBit p (8 * k)).map fun k =>
    let c := x / 2 ^ (64 * k) % 2 ^ 64
    (k, c / 2 ^ 24, c % 2 ^ 24)

/-- The checks that vgath and vscat share: the index tag, for vgath POISON among those that FORMAT refuses, and the map. The answer is the
map's root. (DEDUCED, log 80.) (DEDUCED, log 85.) -/
def gatherCheck (idx : Tag) (v : MapView) : M Root := do
  if idx ≠ .int64 ∨ v.headed ∨ v.tag = .mx4 ∨ v.tag = .ds8 then raiseFormat idx.code v.tag.code
  else mapFormat v

/-- FILL for the active lanes that are out of extent. -/
def gatherFill (l : List (Nat × Nat × Nat)) (got : List (Nat × Loc)) (f : Nat) : List (Nat × Nat) :=
  (l.filter fun e => !inExtent got e.1).map fun e => (e.1, f)

/-- vgath (R187). -/
def execVgath (p : BitVec 3) (d a : BitVec 5) (b : BitVec 4) (sc : BitVec 3) (s : State) : Outcome :=
  instr sc (do
    let pr ← readP p.toNat
    let idx ← readV a
    let v := (← readM b.toNat).view
    let r ← gatherCheck idx.tag v
    let w := v.width r
    let l := gatherLanes idx.val.toNat s.me.vl pr
    let got ← reachMap v r .read false l
    finishLoad d w got (gatherFill l got (v.fillCode w)) (packAt w (l.map fun e => (e.1, 2 ^ w - 1))) v.tag) s

/-- vscat (R187): lanes in ascending order, so that the higher lane's value remains. It is a store, so a POISON index or source raises POISON
(R72). (DEDUCED, log 16.) (DEDUCED, log 85.) -/
def execVscat (p : BitVec 3) (d a : BitVec 5) (b : BitVec 4) (sc : BitVec 3) (s : State) : Outcome :=
  instr sc (do
    let pr ← readP p.toNat
    let idx ← readV a
    let x ← readV d
    notPoison idx.tag
    notPoison x.tag
    let v := (← readM b.toNat).view
    let r ← gatherCheck idx.tag v
    if x.tag ≠ v.tag ∧ v.tag ≠ .raw then raiseFormat x.tag.code v.tag.code
    else
      let w := v.width r
      let got ← reachMap v r .write true (gatherLanes idx.val.toNat s.me.vl pr)
      modify fun t => t.putAll (storeElems x.val.toNat w got)) s

end Sys2Proof.Machine
end

