-- ==== Sys2Proof/Machine/Engine.lean ====
section
/-! DEFINITION. The copy engine and the prefetcher (R189 to R197), lifting and dropping of pages (R168), and fship (R201, R202). -/
namespace Sys2Proof.Machine

/-! ### The control word (R190) and TRAPPROG (R193) -/

/-- HANDLE. -/
def ctlHandle (w : Word) : Nat := w.toNat / 2 ^ 32
/-- COUNT. -/
def ctlCount (w : Word) : Nat := w.toNat / 2 ^ 8 % 2 ^ 16
/-- RESUME. -/
def ctlResume (w : Word) : Bool := w.getLsbD 7
/-- BIND. -/
def ctlBind (w : Word) : Nat := w.toNat / 2 ^ 5 % 4
/-- CLIP. -/
def ctlClip (w : Word) : Bool := w.getLsbD 4
/-- MAP. -/
def ctlMap (w : Word) : Nat := w.toNat % 16
/-- Bits 31:24, reserved. -/
def ctlReserved (w : Word) : Nat := w.toNat / 2 ^ 24 % 256

/-- OP of TRAPPROG (R193): 3 for lift and drop. -/
def EngFn.op : EngFn → Nat
  | .bcopy => 0
  | .bfill => 1
  | .bzero => 2
  | .lift => 3
  | .drop => 3

/-- Whether a function is a prefetcher move. -/
def EngFn.isPft : EngFn → Bool
  | .lift => true
  | .drop => true
  | _ => false

/-- TRAPPROG (R193). -/
def progWord (cause depth side op next : Nat) : Word :=
  w64 (cause % 256 * 2 ^ 56 + depth % 32 * 2 ^ 51 + side % 2 * 2 ^ 50 + op % 4 * 2 ^ 48 + next % 2 ^ 42)

/-- Units of a block of depth k (R192). (DEDUCED, log 25.) -/
def unitCount (k : Nat) : Nat := if k ≤ 21 then 4 ^ (21 - k) else 1

/-! ### Issue (R191) -/

/-- Whether the control word is malformed (R191). -/
def State.badControl (s : State) (k : Nat) (w : Word) : Bool :=
  decide (ctlReserved w ≠ 0)
    || (match ctlBind w with
        | 0 => decide (ctlHandle w ≠ 0) || decide (ctlCount w ≠ 0)
        | 1 => decide (ctlCount w = 0) || (s.handleKey k (w64 (ctlHandle w))).isNone
        | 2 => decide (16 ≤ ctlHandle w) || decide (ctlCount w ≠ 0)
        | _ => true)

/-- The check of a tree address (R149). -/
def checkAddr (t : Word) : M Unit := do
  match checkTA t with
  | some n => raiseWalk { cause := cTREE_PROT, detail := n } t
  | none => pure ()

/-- Whether a notice word breaks the rules of R197. -/
def badNotice (w : Word) : Bool :=
  decide (w.toNat / 2 ^ 28 ≠ 0) || decide (w.toNat / 2 ^ 18 % 4 ≠ 0) || decide (w.toNat / 2 ^ 13 % 8 ≠ 0)
    || decide (0xF0 ≤ w.toNat / 2 ^ 20 % 256)

/-- A message that an engine or a base-die processor will send counts as one of the issuing context from issue (R197, R202): its core must be
in the gang, and the issue waits while 16 acknowledgements are outstanding. -/
def reserveMessage (core : Nat) : M Unit := do
  let s ← get
  match s.gangOf s.cur.1 with
  | none => raiseTree cTREE_PROT 0 (w64 core)
  | some g =>
    if (g.toPhys core).isNone then raiseTree cTREE_PROT 0 (w64 core)
    else if s.here.acks = Config.maxAcks then throw .stall
    else pure ()

/-- Count a reserved message: outstanding acknowledgements and the counter of the context's phase. -/
def countMessage : M Unit := do
  let s ← get
  set ((s.countUp s.cur.1 s.me.phase.toNat).modCore s.cur.1 fun k => { k with acks := k.acks + 1 })

/-- The ranges that an operation registers (R191). -/
def engineRanges (id core level : Nat) (fn : EngFn) (src dst : Word) : List RangeLock :=
  match fn with
  | .bcopy =>
    [{ id := id, dest := true, tree := true, core := core, level := level, ta := dst },
     { id := id, dest := false, tree := true, core := core, level := level, ta := src }]
  | .bfill | .bzero => [{ id := id, dest := true, tree := true, core := core, level := level, ta := src }]
  | .lift | .drop => [{ id := id, dest := false, tree := true, core := core, level := level, ta := src }]

/-- Release the ranges of an operation (R191, R218). -/
def State.releaseRanges (s : State) (k id : Nat) : State :=
  s.modCluster k fun y => { y with ranges := y.ranges.filter fun r => decide (r.id ≠ id) }

/-- A list without the first occurrence of an element. -/
def dropOne (x : Nat) : List Nat → List Nat
  | [] => []
  | y :: r => if x = y then r else y :: dropOne x r

/-- The counts that an issue takes (R195): a resuming issue bound to a phase takes over a held count of that phase; every other held count
retires. (DEDUCED, log 24.) -/
def takeCounts (resume : Bool) (phase : Option Nat) : M Unit := do
  let s ← get
  let c := s.cur.1
  match phase with
  | some p =>
    if resume ∧ s.me.held.contains p then modMe fun x => { x with held := dropOne p x.held }
    else modify fun t => t.countUp c p
  | none => pure ()
  modify fun t => t.retireHeld c t.cur.2

/-- Issue an engine function (R191): its checks in order, then its ranges; status 0 when it starts, 1 (BUSY) when the table lacks room.
(DEDUCED, log 24.) (DEDUCED, log 100.) -/
def issueEngine (fn : EngFn) (d a b : BitVec 5) : M Unit := do
  let src ← readS a
  let second ← if fn = .bzero then pure 0 else readS (a + 1)
  let w ← readS b
  checkAddr src
  if fn = .bcopy then checkAddr second else pure ()
  let s ← get
  let k := clusterOf s.cur.1
  let asid ← myAsid
  let r1 := s.root asid (taRoot src)
  let r2 := s.root asid (taRoot second)
  let map := s.me.mreg (ctlMap w)
  if s.badControl k w then raise cSYNC_INVALID w
  else if ctlResume w ∧ (s.me.trapprog.toNat / 2 ^ 48 % 4 ≠ fn.op ∨ s.me.trapprog.toNat / 2 ^ 51 % 32 ≠ taDepth src) then
    raise cSYNC_INVALID w
  else if ctlClip w ∧ map.view.planes ≠ 1 then raise cFORMAT w
  else if fn = .bcopy ∧ (taDepth src ≠ taDepth second ∨ r1.esizeCode ≠ r2.esizeCode) then raise cFORMAT second
  else if ¬ fn.isPft ∧ r1.headed then raise cFORMAT src
  else if fn = .bcopy ∧ r2.headed then raise cFORMAT second
  else
    let notice := if fn.isPft then second else 0
    if notice ≠ 0 ∧ badNotice notice then raise cSYNC_INVALID notice
    else
      if notice ≠ 0 then reserveMessage (notice.toNat % 2 ^ 13) else pure ()
      let id ← freshId
      let ranges := engineRanges id s.cur.1 s.cur.2 fn src second
      if Config.rangeMax < s.home.ranges.length + ranges.length then
        let _ ← deferS d 1 0
        pure ()
      else
        releasePoint
        let phase := if ctlBind w = 2 then some (ctlHandle w % 16) else none
        takeCounts (ctlResume w) phase
        if notice ≠ 0 then countMessage else pure ()
        modHome fun y => ranges.foldl Cluster.addRange y
        modify fun t =>
          { t with
            engines := t.engines ++
              [{ id := id, core := s.cur.1, level := s.cur.2, fn := fn, src := src, dst := if fn = .bcopy then second else 0
                 pattern := if fn = .bfill then second else 0, ctrl := w, clip := if ctlClip w then some map.val else none
                 unit := if ctlResume w then s.me.trapprog.toNat % 2 ^ 42 else 0, notice := notice, noticePhase := s.me.phase.toNat
                 phase := phase }] }
        let _ ← deferS d 0 0
        pure ()

/-- bcopy (R189, R191). -/
def execBcopy (d a b : BitVec 5) (sc : BitVec 3) (s : State) : Outcome := instr sc (issueEngine .bcopy d a b) s
/-- bfill (R189, R191). -/
def execBfill (d a b : BitVec 5) (sc : BitVec 3) (s : State) : Outcome := instr sc (issueEngine .bfill d a b) s
/-- bzero (R189, R191). -/
def execBzero (d a b : BitVec 5) (sc : BitVec 3) (s : State) : Outcome := instr sc (issueEngine .bzero d a b) s
/-- pft.lift (R197). -/
def execPftLift (d a b : BitVec 5) (sc : BitVec 3) (s : State) : Outcome := instr sc (issueEngine .lift d a b) s
/-- pft.drop (R197). -/
def execPftDrop (d a b : BitVec 5) (sc : BitVec 3) (s : State) : Outcome := instr sc (issueEngine .drop d a b) s

/-! ### One unit (R192) -/

/-- How a unit ends. -/
inductive UnitEnd where
  | done (s : State) (flipped : Nat)
  /-- side 0 source, 1 destination; the address whose sub-block is reported -/
  | stop (s : State) (side : Nat) (f : TreeFault) (at_ : Word)
  /-- its channel is stalled (R341) -/
  | wait

/-- Whether an element lies within the clip. -/
def inClip (clip : Option (BitVec 256)) (p : Nat) : Bool :=
  match clip with
  | none => true
  | some m =>
    let v := ({ val := m, tag := .raw } : MapReg).view
    let r := rowOf p
    let c := colOf p
    decide (v.row0 ≤ r) && decide (r < v.row0 + v.rows) && decide (v.col0 ≤ c) && decide (c < v.col0 + v.cols)

/-- Whether a square of elements meets the clip. -/
def meetsClip (clip : Option (BitVec 256)) (p side : Nat) : Bool :=
  match clip with
  | none => true
  | some m =>
    let v := ({ val := m, tag := .raw } : MapReg).view
    let r := rowOf p
    let c := colOf p
    decide (r < v.row0 + v.rows) && decide (v.row0 < r + side) && decide (c < v.col0 + v.cols) && decide (v.col0 < c + side)

/-- The side of a unit of a block of depth k. -/
def unitSide (k : Nat) : Nat := if k ≤ 21 then 8 else 2 ^ (24 - k)

/-- The places of the elements of a unit that a test keeps, with their numbers in it; a sub-block has one translation. -/
def State.unitLocs (s : State) (asid : Nat) (t : Word) (keep : List Nat) (k : Access) : Except TreeFault (List (Nat × Loc)) :=
  match s.walk asid (taOf (taRoot t) 24 (taPath t)) with
  | .error f => .error f
  | .ok (d, e) =>
    match leafFault d e (taPath t) k with
    | some f => .error f
    | none => .ok (keep.map fun i => (i, locate asid d e (taOf (taRoot t) 24 (taPath t + i))))

/-- The tree address of unit u of a block: its first element. -/
def unitAt (t : Word) (u : Nat) : Word := taOf (taRoot t) 24 (taPath t + 64 * u)

/-- Up to n elements of a unit of bcopy, bfill or bzero from element `part` of its list on, 0 for all that are left (R192, R217): it is translated
through the issuing column's slice (R165) and its source read as it begins, and nothing is written when it stops. `flipped` of the end is
the number of elements left. (DEDUCED, log 25.) -/
def State.runUnit (s : State) (asid : Nat) (o : EngineOp) (n : Nat) : UnitEnd :=
  let k := taDepth o.src
  let size := 4 ^ (3 - (min k 24 - 21))
  let from_ := unitAt o.src o.unit
  if !meetsClip o.clip (taPath from_) (unitSide k) then .done s 0
  else
    let keep := ((count 0 size).filter fun i => inClip o.clip (taPath from_ + i)).drop o.part
    let to_ := if o.fn = .bcopy then unitAt o.dst o.unit else from_
    if (decide (o.fn = .bcopy) && s.walkWaits asid from_) || s.walkWaits asid to_ then .wait
    else
      match (if o.fn = .bcopy then s.unitLocs asid from_ keep .read else .ok []) with
      | .error f => .stop s 0 f from_
      | .ok src =>
        match s.unitLocs asid to_ keep .write with
        | .error f => .stop s 1 f to_
        | .ok dst =>
          let m := if n = 0 then keep.length else n
          if (src.any fun q => s.stalledAt q.2.phys) || (dst.any fun q => s.stalledAt q.2.phys) then .wait
          else if decide (o.part = 0) && src.any fun q => s.badLoc q.2 then
            .stop (s.countMac (src.map fun q => q.2)) 0 { cause := cPOISON, detail := 0 } from_
          else
            match (if o.part = 0 then s.lookUps (sliceOfCore o.core) asid ((src.take 1 ++ dst.take 1).map fun q => q.2.entry) else some s) with
            | none => .wait
            | some t =>
              if o.fn = .bcopy then
                .done (t.putAll (((dst.zip src).take m).map fun q => (q.1.2, s.getLoc q.2.2))) (keep.length - m)
              else .done (t.putAll ((dst.take m).map fun q => (q.2, o.pattern.toNat % 2 ^ q.2.w))) (keep.length - m)

/-! ### Pages of a lift or a drop (R168) -/

/-- The entry of a page with TIER, LIFTED and PBASE replaced. -/
def flipEntry (w1 : Word) (tier lifted base : Nat) : Word :=
  let n := w1.toNat
  w64 (n / 2 ^ 60 * 2 ^ 60 + tier % 2 * 2 ^ 59 + n / 2 ^ 58 % 2 * 2 ^ 58 + lifted % 2 * 2 ^ 57 + n / 2 ^ 41 % 2 ^ 16 * 2 ^ 41 + base % 2 ^ 41)

/-- Whether an engine is within a unit in a block: a sub-block is copied or filled wholly under one reading of its entry (R164). -/
def State.unitOpen (s : State) (asid : Nat) (t : Word) : Bool :=
  s.engines.any fun o =>
    decide (o.part ≠ 0) && decide (((s.gangOf o.core).map (·.asid)).getD 0 = asid)
      && (taOverlap (unitAt o.src o.unit) t || (decide (o.fn = .bcopy) && taOverlap (unitAt o.dst o.unit) t))

/-- Copy the present sub-blocks of a page of backing from one address to another, `sub` bytes each. -/
def copySubs (m : List Host.Cell) (presence : Word) (src dst sub : Nat) : Nat → List Host.Cell
  | 0 => m
  | n + 1 =>
    let m1 := copySubs m presence src dst sub n
    if presence.getLsbD n then Mem.writeN m1 (dst + n * sub) sub (Mem.readN m1 (src + n * sub) sub) else m1

/-- The first elements of the present sub-blocks of the page of an element. -/
def pageSubs (asid : Nat) (d : Root) (e : Leaf) (t : Word) : List Loc :=
  ((count 0 64).filter fun i => e.w0.getLsbD i).map fun i => locate asid d e (taOf (taRoot t) 24 (cutPath (taPath t) 18 + 64 * i))

/-- Whether a page's present sub-blocks hold an uncorrectable granule or a sector whose MAC fails (R171), or lie in a retired channel (R342). -/
def State.badPage (s : State) (asid : Nat) (d : Root) (e : Leaf) (t : Word) : Bool :=
  let base := entryBase e.w1 * 2048
  let sub := 8 * d.esize
  (s.retired base && decide (e.w0 ≠ 0)) || ((pageSubs asid d e t).any s.stale)
    || s.badPhys.any fun g => decide (base ≤ g * 32) && decide (g * 32 < base + 64 * sub) && e.w0.getLsbD ((g * 32 - base) / sub)

/-- A move stops at an uncorrectable page: the sectors whose MAC fails count (R171, R192). -/
def State.stopPage (s : State) (asid : Nat) (d : Root) (e : Leaf) (t : Word) : UnitEnd :=
  .stop (s.countMac (pageSubs asid d e t)) 0 { cause := cPOISON, detail := 0 } t

/-- The first granule of the runs of a residency pool that does not lie in a retired channel, with the runs left and the number of granules
that went; `n` bounds the search. -/
def State.takeRun (s : State) : Nat → List (Nat × Nat) → Nat → Option (Nat × List (Nat × Nat) × Nat)
  | 0, _, _ => none
  | _, [], _ => none
  | f + 1, (g, n) :: r, k =>
    if n = 0 then s.takeRun f r k
    else if s.retired (g * 2 ^ 14) then s.takeRun f ((g + 1, n - 1) :: r) (k + 1)
    else some (g, (g + 1, n - 1) :: r, k + 1)

/-- A free slot of a pool: one returned to it, or a fresh granule of those that it holds; none while the pool is empty. A slot in a retired
channel is never given (R342). (DESIGN CHOICE, log 26.) -/
def State.takeSlot (s : State) (p : Pool) : Option (Nat × Pool) :=
  match p.back.find? fun a => !s.retired a with
  | some a => some (a, { p with back := p.back.filter fun b => decide (b ≠ a) })
  | none =>
    match s.takeRun 1024 p.runs 0 with
    | some (g, l, k) => some (g * 2 ^ 14, { p with runs := l, free := p.free - k })
    | none => none

/-- Copy the present sub-blocks of a page; writes to a retired channel are dropped and counted (R342). (DEDUCED, log 32.) -/
def State.copyPage (s : State) (presence : Word) (src dst sub : Nat) : State :=
  if s.retired dst then s.modSlice (homeSlice dst) fun y => { y with dropped := y.dropped + 1 }
  else { s with phys := copySubs s.phys presence src dst sub 64 }

/-- The shipped functions for a page that moves go, in their order, to the processor of its new home (R169, R336). -/
def State.moveShips (s : State) (asid : Nat) (page : Word) (base dst : Nat) : State :=
  let mine (q : Ship) : Bool := decide (q.asid = asid) && taOverlap page q.ta
  let moved := ((s.bdps.map fun e => e.2.filter mine).flatten).map fun q => { q with phys := q.phys - base + dst }
  if moved = [] then s
  else
    let left := s.bdps.map fun e => (e.1, e.2.filter fun q => !mine q)
    { s with bdps := Map.set left (homeSlice dst / 2) (Map.getD left (homeSlice dst / 2) [] ++ moved) }

/-- A page's entry is flipped (R168): its translations are dropped (R164), and held base-die routines proceed at the new home (R169). -/
def State.flipPage (s : State) (asid : Nat) (page : Word) (e : Leaf) (tier lifted base dst : Nat) : State :=
  ({ s with entries := Map.set s.entries e.key (e.w0, flipEntry e.w1 tier lifted (dst / 2048)) }.dropCached asid page).moveShips asid page base dst

/-- Move one page of a lift or a drop (R168): a lift takes a slot, then the present sub-blocks are read. It waits for a stalled channel (R341). -/
def State.movePage (s : State) (asid : Nat) (lift : Bool) (t : Word) : UnitEnd :=
  let page := taOf (taRoot t) 18 (cutPath (taPath t) 18)
  if s.walkWaits asid t then .wait
  else
    match s.walk asid t with
    | .error f => if f.cause = cTREE_UNMAPPED ∧ f.detail ≠ 7 then .done s 0 else .stop s 0 f t
    | .ok (d, e) =>
      if entryEncv e.w1 ≠ d.bver % 256 then .stop s 0 { cause := cTREE_PROT, detail := 7 } t
      else if entryType e.w1 = 2 then .stop s 0 { cause := cTREE_PROT, detail := 11 } t
      else if e.w1.getLsbD 58 then .done s 0
      else
        let sub := 8 * d.esize
        let base := entryBase e.w1 * 2048
        let key := asid * 4 + d.esizeCode
        let p := Map.getD s.vale.pool key {}
        if lift then
          if e.w1.getLsbD 59 = false then .done s 0
          else
            match s.takeSlot p with
            | none => .stop s 0 { cause := cTREE_PROT, detail := 10 } t
            | some (a, p1) =>
              if s.stalledAt base || s.stalledAt a || s.unitOpen asid page then .wait
              else if s.badPage asid d e t then s.stopPage asid d e t
              else
                let s1 := (s.copyPage e.w0 base a sub).flipPage asid page e 0 1 base a
                .done
                  { s1 with
                    vale := { s1.vale with pool := Map.set s1.vale.pool key p1, slotHome := Map.set s1.vale.slotHome a base } } 1
        else
          if e.w1.getLsbD 57 = false then .done s 0
          else
            let home := Map.getD s.vale.slotHome base 0
            if s.stalledAt base || s.stalledAt home || s.unitOpen asid page then .wait
            else if s.badPage asid d e t then s.stopPage asid d e t
            else
              let s1 := (s.copyPage e.w0 base home sub).flipPage asid page e 1 0 base home
              .done
                { s1 with
                  vale :=
                    { s1.vale with
                      pool := Map.set s1.vale.pool key { p with back := p.back ++ [base] }
                      slotHome := Map.del s1.vale.slotHome base } } 1

/-- The state once the slice of an operation's column has translated a page (R165); none while it accepts no request. A walk that faults leaves
no entry. -/
def State.lookUpPage (s : State) (asid : Nat) (o : EngineOp) (page : Word) : Option State :=
  match s.walk asid page with
  | .ok (d, e) => s.lookUp (sliceOfCore o.core) asid (locate asid d e page).entry
  | .error _ => some s

/-- One page of a lift or a drop. (DEDUCED, log 25.) -/
def State.runPage (s : State) (asid : Nat) (o : EngineOp) : UnitEnd :=
  let t := unitAt o.src o.unit
  let page := taOf (taRoot t) 24 (cutPath (taPath t) 18)
  if !meetsClip o.clip (taPath page) 64 then .done s 0
  else
    match s.lookUpPage asid o page with
    | none => .wait
    | some s1 => s1.movePage asid (decide (o.fn = .lift)) page

/-! ### The end of an operation (R194, R195, R197) -/

/-- An operation that is no longer running: its ranges are released. -/
def State.dropEngine (s : State) (o : EngineOp) : State :=
  ({ s with engines := s.engines.filter fun q => decide (q.id ≠ o.id) }).releaseRanges (clusterOf o.core) o.id

/-- ENGINE becomes pending in the issuing context, with TRAPPROG written (R193, R194). -/
def State.engineTrap (s : State) (o : EngineOp) (prog : Word) (detail : Nat) (val : Word) : State :=
  s.modCtx o.core o.level fun x =>
    { x with trapprog := prog, pendTraps := x.pendTraps ++ [{ cause := cENGINE, detail := detail, val := val }] }

/-- Stop(u, side, cause, detail) (R194): counts of a bound phase and of a notice are held (R195, R197). -/
def State.stopEngine (s : State) (o : EngineOp) (side : Nat) (f : TreeFault) (t : Word) : State :=
  let s1 := (s.dropEngine o).engineTrap o (progWord f.cause (taDepth o.src) side o.fn.op o.unit) f.detail (subBlock t)
  let held := o.phase.toList ++ (if o.notice ≠ 0 then [o.noticePhase] else [])
  let s2 := (s1.modCtx o.core o.level fun x => { x with held := x.held ++ held }).countFault (sliceOfCore o.core) f
  if o.notice ≠ 0 then s2.modCore o.core fun k => { k with acks := k.acks - 1 } else s2

/-- The notice of a completed lift or drop (R197). -/
def pftNotice (o : EngineOp) (dst : Nat) : Notice :=
  { core := o.core, level := o.level, word := o.notice, cls := o.notice.toNat / 2 ^ 20 % 256, tc := o.notice.toNat / 2 ^ 16 % 4, dst := dst
    phase := o.noticePhase, w := [o.src, w64 o.flipped, if o.fn = .lift then 0 else 1, 0, 0, 0, 0] }

/-- Complete() (R192, R195): ranges released, then the arrival, the retirement and the notice. -/
def State.completeEngine (s : State) (o : EngineOp) : State :=
  let s1 := s.dropEngine o
  let s2 :=
    if ctlBind o.ctrl = 1 then
      let k := clusterOf o.core
      let h := w64 (ctlHandle o.ctrl)
      match (s1.handleKey k h).bind fun q => s1.arrive k q (ctlCount o.ctrl) with
      | some (t, _) => t
      | none => s1.engineTrap o (progWord cSYNC_INVALID (taDepth o.src) 0 o.fn.op (unitCount (taDepth o.src))) 0 h
    else s1
  let s3 := match o.phase with
    | some p => s2.countDown o.core p
    | none => s2
  if o.notice = 0 then s3
  else s3.modNet fun n => { n with outbox := n.outbox ++ [pftNotice o (o.notice.toNat % 2 ^ 13)] }

/-- Put an operation back with its progress. -/
def State.putEngine (s : State) (o : EngineOp) : State :=
  { s with engines := s.engines.map fun q => if q.id = o.id then o else q }

/-- The address space of an operation. -/
def State.engineAsid (s : State) (o : EngineOp) : Nat := ((s.gangOf o.core).map (·.asid)).getD 0

/-- Whether a running operation may go on: its gang is resident, and it is within a unit or the gang is not being saved (R196). -/
def State.engineMoves (s : State) (o : EngineOp) : Bool := s.counting o.core && (decide (o.part ≠ 0) || decide ((s.core o.core).halting = none))

/-- ENGINE_UNIT (R192): the next elements of the operation's present unit, all that are left for 0 (R217); its next page; or its completion
once every unit is done. (DEDUCED, log 25.) -/
def execEngineUnit (u : UnitStep) (s : State) : Outcome :=
  happen s (
    match s.engines[u.idx]? with
    | none => none
    | some o =>
      if !s.engineMoves o then none
      else if unitCount (taDepth o.src) ≤ o.unit then some (s.completeEngine o)
      else
        let asid := s.engineAsid o
        if o.fn.isPft then
          match s.runPage asid o with
          | .wait => none
          | .stop s1 side f t => some (s1.stopEngine o side f t)
          | .done s1 k => some (s1.putEngine { o with unit := o.unit + 64, flipped := o.flipped + k })
        else
          match s.runUnit asid o u.elems with
          | .wait => none
          | .stop s1 side f t => some (s1.stopEngine o side f t)
          | .done s1 0 => some (s1.putEngine { o with unit := o.unit + 1, part := 0 })
          | .done s1 _ => some (s1.putEngine { o with part := o.part + u.elems }))

/-- PFT_NOTICE_INJECTION (R197, R202, R378): a notice or fship result enters the network once its frame quota allows. -/
def execPftNoticeInjection (idx : Nat) (s : State) : Outcome :=
  happen s (
    match s.net.outbox[idx]? with
    | none => none
    | some q =>
      let c := q.core
      match (s.gangOf c).bind fun g => (g.toPhys q.dst).map fun p => (g, p) with
      | none => none
      | some (g, p) =>
        if (s.core c).mayInject q.tc 1 then
          let x := if g.xgang then g.index else 0
          let hdr := msgHeader x x 0 3 0 0 0 0 q.tc q.phase q.dst (s.coreId c) q.cls
          let s1 := s.modNet fun n => { n with outbox := removeAt n.outbox idx }
          some ((s1.inject
            { hdr := hdr, w := q.w, src := c, dst := p, level := q.level, retire := { router := c, phase := q.phase }, pos := c
              tc := q.tc }).modCore c fun k => k.charge q.tc 1)
        else none)

/-! ### fship (R201, R202, R204) -/

/-- Width in bits of a slot's target (R204, R205). -/
def slotWidth (slot : Word) : Nat :=
  let p := slot.toNat % 32
  if p = 18 then 128 else if p = 19 then 256 else if p = 20 then 32 else 8 * 2 ^ (slot.toNat / 2 ^ 6 % 4)

/-- PRIM of a slot. -/
def slotPrim (slot : Word) : Nat := slot.toNat % 32
/-- SHIFT. -/
def slotShift (slot : Word) : Nat := slot.toNat / 2 ^ 32 % 64
/-- NBM1. -/
def slotLast (slot : Word) : Nat := slot.toNat / 2 ^ 16 % 2 ^ 16
/-- The histogram's bin (R205, primitive 20), from the low 32 bits of the operand. -/
def slotBin (slot : Word) (op1 : Nat) : Nat := min (op1 % 2 ^ 32 / 2 ^ slotShift slot) (slotLast slot)
/-- The address of the element `bin` places after an element in Morton order, within its page (R205). -/
def counterAt (t : Word) (bin : Nat) : Word := taOf (taRoot t) 24 (taPath t / 4096 * 4096 + (taPath t + bin) % 4096)

/-- The place of a shipped function's target now: a page may have moved since its issue (R169). -/
def State.shipLoc (s : State) (q : Ship) : Loc :=
  match s.translate q.asid q.ta .both with
  | .ok x => x
  | .error _ => { ta := q.ta, entry := q.ta, phys := q.phys, lo := 0, w := 8, headed := none, sector := none, ver := 0 }

/-- Whether a slot is bound with a width that fits its primitive, for a root of an element size code (R202, R205). -/
def slotFits (slot : Word) (esize : Nat) : Bool :=
  let p := slot.toNat % 32
  let w := slot.toNat / 2 ^ 6 % 4
  slot.getLsbD 63
    && (if p = 15 ∨ p = 16 ∨ p = 17 ∨ p = 31 then decide (w = 2)
        else if p = 21 ∨ p = 22 then decide (w = 1)
        else if p = 23 ∨ p = 24 then decide (w = 3)
        else if p = 20 then decide (esize = 3)
        else true)

/-- The tree addresses of the elements that a target of n bits takes in. -/
def targetElems (t : Word) (n esize : Nat) : List (Nat × Word) :=
  (count 0 (max 1 (n / esize))).map fun e => (e, taOf (taRoot t) 24 (taPath t + e))

/-- Whether the control word of fship is refused (R202): a reserved bit, MSG with d ≠ 0 or with a system class. (DEDUCED, log 23.) -/
def badShip (w : Word) (d : Nat) : Bool :=
  decide (w.toNat / 2 ^ 29 ≠ 0) || w.getLsbD 7
    || (w.getLsbD 6 && (decide (d ≠ 0) || decide (0xF0 ≤ w.toNat / 2 ^ 8 % 256)))

/-- fship (R202): after its checks it sets out for the base-die processor of its target's home slice (R336). (DEDUCED, log 23.) -/
def execFship (d a b : BitVec 5) (sc : BitVec 3) (s : State) : Outcome :=
  instr sc (do
    let t ← readS a
    let w ← readS (a + 1)
    let x ← if b.toNat = 0 then pure 0 else readS b
    let y ← if b.toNat = 0 then pure 0 else readS (b + 1)
    checkAddr t
    let asid ← myAsid
    let r := s.root asid (taRoot t)
    let slot := Map.getD s.vale.routines (asid * 64 + w.toNat % 64) 0
    let n := slotWidth slot
    if r.sound && r.headed then raise cFORMAT t
    else if taDepth t ≠ 24 ∨ taPath t * r.esize % n ≠ 0 then raise cALIGN t
    else
      locksRaw true (targetElems t n r.esize ++ if slotPrim slot = 20 then [(0, counterAt t (slotBin slot x.toNat))] else [])
      let q ← translateShip t .both
      noteWalk q
      if !slotFits slot r.esizeCode || badShip w d.toNat then raise cSYNC_INVALID w
      else
        let msg := if w.getLsbD 6 then some (w.toNat / 2 ^ 16 % 2 ^ 13, w.toNat / 2 ^ 8 % 256, s.me.phase.toNat) else none
        match msg with
        | some m =>
          reserveMessage m.1
          countMessage
        | none => pure ()
        let id ← deferS d 0 1
        let seq ← freshId
        modify fun u => u.sendLoad u.cur.1 u.cur.2 (endRouter u.cur.1) (.ship
          { core := u.cur.1, level := u.cur.2, asid := asid, ta := t, phys := q.phys, op1 := x, op2 := y, slot := w.toNat % 64, width := n
            id := if d.toNat = 0 then none else some id, msg := msg, seq := seq, frame := u.frameNo })) s

end Sys2Proof.Machine
end

