-- ==== Sys2Proof/Machine/Kv.lean ====
section
/-! DEFINITION. Headed key-value pages at their home slices: requests (R220, R221, R326, R327), ageing and the skimmer (R328 to R331),
re-layout (R332 to R334). -/
namespace Sys2Proof.Machine

/-! ### Slots (R322) -/

/-- Add to a 16-bit counter that saturates. -/
def sat16 (n : Nat) : Nat := min (n + 1) 0xFFFF

/-- Free slots of a pool. -/
def Pool.count (p : Pool) : Nat := p.free + p.back.length

/-- The n-th 4 KiB of the two channels of a slice, from the top of HBM downwards. (DESIGN CHOICE, log 30.) -/
def slotAt (n k : Nat) : Nat := (2 ^ 17 - 1 - k / 8) * 2 ^ 23 + n * 2 ^ 15 + k % 8 * 4096

/-- The next unused piece of a slice's channels, from piece k on, that does not lie in a retired channel (R342). -/
def State.nextPiece (s : State) (n k : Nat) : Option Nat :=
  if !s.retired (slotAt n k) then some k
  else if !s.retired (slotAt n (k / 4 * 4 + 4)) then some (k / 4 * 4 + 4)
  else none

/-- A free slot of a slice's pool: one returned to it, or fresh memory of the slice's channels; none in a retired channel (R342).
(DESIGN CHOICE, log 30.) -/
def State.takeSliceSlot (s : State) (n : Nat) (p : Pool) : Option (Nat × Pool × State) :=
  match p.back.find? fun a => !s.retired a with
  | some a => some (a, { p with back := p.back.filter fun b => decide (b ≠ a) }, s)
  | none =>
    match decide (p.free ≠ 0), s.nextPiece n (Map.getD s.vale.slotsUsed n 0) with
    | true, some k => some (slotAt n k, { p with free := p.free - 1 }, s.modVale fun v => { v with slotsUsed := Map.set v.slotsUsed n (k + 1) })
    | _, _ => none

/-- A slot returned to a pool. -/
def Pool.give (p : Pool) (a : Nat) : Pool := { p with back := p.back ++ [a] }

/-! ### The contents of a page (R185, R322) -/

/-- Put the header of a page. -/
def State.setHeader (s : State) (key : Nat) (h : PageHdr) : State := { s with headers := Map.set s.headers key h }

/-- The byte that holds the code of element e. -/
def PageHdr.codeAddr (h : PageHdr) (e : Nat) : Nat := if h.mx4 then h.slot + e / 2 else h.slot + e
/-- The byte that holds the scale code of element e of an MX4 page. -/
def PageHdr.scaleAddr (h : PageHdr) (e : Nat) : Nat := h.sslot + e / 16
/-- The stored code of element e. -/
def State.pageCode (s : State) (h : PageHdr) (e : Nat) : Nat :=
  let b := (Mem.read s.phys (h.codeAddr e)).toNat
  if h.mx4 then b / 16 ^ (e % 2) % 16 else b
/-- The scale code of element e of an MX4 page. -/
def State.pageScale (s : State) (h : PageHdr) (e : Nat) : Nat := (Mem.read s.phys (h.scaleAddr e)).toNat
/-- The value of element e (R185). -/
def State.pageValue (s : State) (h : PageHdr) (e : Nat) : Fp :=
  if h.mx4 then fpMul (valueOf fmtE2m1 (s.pageCode h e)) (scaleValue (s.pageScale h e))
  else fpMul (valueOf fmtE4m3 (s.pageCode h e)) (scaleValue h.pscale)
/-- Whether a byte is uncorrectable (R334, R342). -/
def State.badByte (s : State) (a : Nat) : Bool := s.badPhys.contains (a / 32) || s.retired a
/-- Whether element e of a page is uncorrectable. -/
def State.badPageElem (s : State) (h : PageHdr) (e : Nat) : Bool :=
  s.badByte (h.codeAddr e) || (h.mx4 && s.badByte (h.scaleAddr e))
/-- Whether the channel of a page's header is stalled (R341). -/
def State.headerStalled (s : State) (key : Nat) : Bool := s.stalledAt (key * 64)
/-- Whether a channel that a read of a page needs is stalled (R341, R343): that of its header or of a slot it is stored in. -/
def State.pageStalled (s : State) (key : Nat) (h : PageHdr) : Bool :=
  s.headerStalled key || s.stalledAt h.slot || (decide (h.sslot ≠ 0) && s.stalledAt h.sslot)
/-- Whether a channel of the slots that a page is moving to is stalled (R341). -/
def State.newStalled (s : State) (h : PageHdr) : Bool :=
  (decide (h.nslot ≠ 0) && s.stalledAt h.nslot) || (decide (h.nsslot ≠ 0) && s.stalledAt h.nsslot)

/-- The 64-byte header as vldt.raw returns it (R325). -/
def PageHdr.image (h : PageHdr) : Nat :=
  let st := match h.state with
    | .stable => 0
    | .converting => 1
    | .relayout => 2
  h.gen * 2 ^ 48 + h.age * 2 ^ 32 + h.pscale * 2 ^ 24 + (if h.noconv then 2 ^ 23 else 0) + st * 2 ^ 16 + (if h.mx4 then 10 else 8)
    + 2 ^ 64 * (h.slot / 2 ^ 11) + 2 ^ 128 * (h.sslot / 2 ^ 8) + 2 ^ 192 * (h.nslot / 2 ^ 11) + 2 ^ 256 * (h.nsslot / 2 ^ 8)

/-- Write bytes of a page's slot, element number e at byte e; a retired channel drops the write and counts it (R342). A poisoned
granule that one request writes whole becomes correct (R334). (DEDUCED, log 32.) -/
def State.writeSlot (s : State) (slot : Nat) (l : List (Nat × Nat)) : State :=
  if s.retired slot then s.modSlice (homeSlice slot) fun y => { y with dropped := y.dropped + 1 }
  else
    let s1 := { s with phys := l.foldl (fun m q => Mem.writeN m (slot + q.1) 1 q.2) s.phys }
    if s1.badPhys = [] then s1
    else { s1 with badPhys := s1.badPhys.filter fun g => !((count (g * 32) 32).all fun a => l.any fun q => decide (slot + q.1 = a)) }

/-! ### Requests (R220) -/

/-- Age of a request at a frame number (R377). -/
def PageReq.age (q : PageReq) (now : Nat) : Nat := (now + 256 - q.frame % 256) % 256

/-- How far the input of a request, its issuing column's slice, lies behind the one that the queue served last (R379). -/
def PageReq.turn (q : PageReq) (last : Nat) : Nat := (sliceOfCore q.core + 511 - last) % 256

/-- Whether a request has to wait: for a re-layout of its page (R332), or for a stalled channel that it needs (R341, R343). A write that only begins
a re-layout needs the header alone. -/
def State.reqWaits (s : State) (q : PageReq) : Bool :=
  let h := s.header q.page
  decide (h.state = .relayout)
    || (if q.write then s.headerStalled q.page || (!h.mx4 && s.stalledAt h.slot) else s.pageStalled q.page h)

/-- The request that a slice's queue serves next, by its index: of those that need not wait and are the first for their page (R166), the oldest; of
equal ones that of the next input in turn; of one input the first to arrive (R379). (DEDUCED, log 42.) -/
def State.nextReq (s : State) (last : Nat) (seen : List Nat) : List PageReq → Nat → Option (Nat × Nat × Nat) → Option Nat
  | [], _, best => best.map fun b => b.1
  | q :: r, i, best =>
    let a := q.age s.frameNo
    let d := q.turn last
    s.nextReq last (q.page :: seen) r (i + 1)
      (if seen.contains q.page || s.reqWaits q then best
      else
        match best with
        | some (_, b, e) => if b < a ∨ (b = a ∧ d < e) then some (i, a, d) else best
        | none => some (i, a, d))

/-- The request at an index of a slice's queue, when its turn has come. -/
def State.turnOf (s : State) (n idx : Nat) : Option PageReq :=
  let y := s.slice n
  if s.nextReq y.lastIn [] y.reqs 0 none = some idx then y.reqs[idx]? else none

/-- Whether a write request to a page waits in its home slice: requests to a page are served in arrival order (R220). (DEDUCED, log 71.) -/
def State.writeQueued (s : State) (key : Nat) : Bool :=
  (s.slice (homeSlice (key * 64))).reqs.any fun q => q.write && decide (q.page = key)

/-- Remove the request at an index, which the queue has served. -/
def State.dropReq (s : State) (n idx : Nat) : State :=
  s.modSlice n fun y => { y with reqs := removeAt y.reqs idx, lastIn := ((y.reqs[idx]?).map fun q => sliceOfCore q.core).getD y.lastIn }

/-- Bits for a pending result: an answer has come; `mask` are bits that are uncorrectable, so free. (DESIGN CHOICE, log 21.) -/
def State.answerPend (s : State) (c l id bits mask : Nat) (t : Option Tag) : State :=
  let f := (Config.uncorrectable s.freeCtr).toNat &&& mask
  let s1 := if mask = 0 then s else { s with freeCtr := s.freeCtr + 1 }
  s1.modCtx c l fun x =>
    { x with
      pend := x.pend.map fun q =>
        if q.id = id then
          { q with
            val := q.val ||| BitVec.ofNat 2048 (bits ||| f)
            tag := if mask ≠ 0 then .poison else if q.tag = .poison then .poison else t.getD q.tag
            open_ := q.open_ - 1 }
        else q }

/-- Whether an element of a page is uncorrectable to a request: its own bytes are, or the page's header lies in a retired channel (R342). -/
def State.badReq (s : State) (key : Nat) (h : PageHdr) (e : Nat) : Bool := s.retired (key * 64) || s.badPageElem h e

/-- The mask of the uncorrectable elements of a request. -/
def State.badBits (s : State) (key : Nat) (h : PageHdr) (w : Nat) : List (Nat × Nat) → Nat
  | [] => 0
  | (e, k) :: r => (if s.badReq key h e then (2 ^ w - 1) * 2 ^ (k * w) else 0) + s.badBits key h w r

/-- The elements of a request that a mask of uncorrectable ones leaves. -/
def State.goodElems (s : State) (key : Nat) (h : PageHdr) (l : List (Nat × Nat)) : List (Nat × Nat) :=
  l.filter fun e => !s.badReq key h e.1

/-- Serve a dequantising read (R185): the codes of its elements in the map's format. -/
def State.servePlain (s : State) (h : PageHdr) (q : PageReq) : State :=
  let w := q.fmt.width
  let bits := packAt w ((s.goodElems q.page h q.elems).map fun e => (e.2, toFloatTag (s.pageValue h e.1) q.fmt .rne false))
  s.answerPend q.core q.level q.id bits (s.badBits q.page h w q.elems) none

/-- The bits of a vldt.raw's second register that are uncorrectable: the header's, or those of the row's scale codes (R342). -/
def State.badHeader (s : State) (h : PageHdr) (q : PageReq) : Nat :=
  if s.retired (q.page * 64) then 2 ^ 544 - 1
  else if h.mx4 && (count (h.sslot + 4 * q.row) 4).any s.badByte then (2 ^ 32 - 1) * 2 ^ 512
  else 0

/-- Serve a vldt.raw (R186): stored codes, header and the row's scale codes. -/
def State.serveRaw (s : State) (h : PageHdr) (q : PageReq) : State :=
  let w := if h.mx4 then 4 else 8
  let l := q.elems.filter fun e => decide (e.2 < rawCount q.vl w q.col)
  let bits := packAt w ((s.goodElems q.page h l).map fun e => (e.2, s.pageCode h e.1))
  let scales := if h.mx4 then Mem.readN s.phys (h.sslot + 4 * q.row) 4 else 0
  let m := s.badHeader h q
  let x := h.image + 2 ^ 512 * scales
  (s.answerPend q.core q.level q.id bits (s.badBits q.page h w l) (some (if h.mx4 then .mx4 else .e4m3))).answerPend q.core q.level (q.id + 1)
    ((x ||| m) - m) m none

/-- Serve a read under the header given. -/
def State.serve (s : State) (h : PageHdr) (q : PageReq) : State := if q.raw then s.serveRaw h q else s.servePlain h q

/-- KV_READ_REQUEST (R220, R327): a page that is not in RELAYOUT serves the read under its one generation. -/
def execKvReadRequest (slice idx : Nat) (s : State) : Outcome :=
  happen s (
    match s.turnOf slice idx with
    | none => none
    | some q =>
      if q.write then none else some ((s.dropReq slice idx).serve (s.header q.page) q))

/-- The header after a write was applied (R325, R328). -/
def PageHdr.written (h : PageHdr) : PageHdr := { h with age := 0, noconv := false }

/-- A conversion ends without a flip (R330): its new slots return to their pools. -/
def State.endConversion (s : State) (n key : Nat) : State :=
  let h := s.header key
  (s.setHeader key { h with state := .stable, nslot := 0, nsslot := 0, step := 0 }).modSlice n fun y =>
    { y with conv := none, mx4 := y.mx4.give h.nslot, sc := y.sc.give h.nsslot }

/-- An FP8 slot for a re-layout that has begun, if the pool has one (R332, R333). -/
def State.grantSlot (s : State) (n key : Nat) : Option State :=
  match s.takeSliceSlot n (s.slice n).fp8 with
  | none => none
  | some (a, p, s1) => some ((s1.setHeader key { s1.header key with nslot := a, step := 1 }).modSlice n fun y => { y with fp8 := p })

/-- A re-layout waits for an FP8 slot behind those that began before it; the empty pool is reported to Vale (R333). (DEDUCED, log 32.) -/
def State.waitSlot (s : State) (n key : Nat) : State :=
  (s.modSlice n fun y => { y with waiting := y.waiting ++ [key] }).modVale fun v => { v with notified := v.notified ++ [(2, n, 0)] }

/-- KV_WRITE_REQUEST (R220): applied to an FP8 slot, aborting a conversion; an MX4 page begins its re-layout, for which the request stays
queued; in RELAYOUT it waits. Where the header lies in a retired channel the write is dropped and counted (R342). -/
def execKvWriteRequest (slice idx : Nat) (s : State) : Outcome :=
  happen s (
    match s.turnOf slice idx with
    | none => none
    | some q =>
      let h := s.header q.page
      if !q.write then none
      else if s.retired (q.page * 64) then
        some ((s.dropReq slice idx).modSlice slice fun y => { y with dropped := y.dropped + 1 })
      else if h.mx4 then
        let s1 := s.setHeader q.page { h with state := .relayout, step := 0 }
        match (if (s.slice slice).waiting.isEmpty then s1.grantSlot slice q.page else none) with
        | some t => some t
        | none => some (s1.waitSlot slice q.page)
      else
        let s1 := if h.state = .converting then
            (s.endConversion slice q.page).modSlice slice fun y => { y with aborted := sat16 y.aborted }
          else s
        let s2 := (s1.dropReq slice idx).writeSlot h.slot q.elems
        some (s2.setHeader q.page (s2.header q.page).written))

/-! ### Re-layout (R332 to R334) -/

/-- RELAYOUT_SLOT_GRANT (R333): the re-layout that has waited longest takes a returned slot, once its header's channel is not stalled
(R341). -/
def execRelayoutSlotGrant (slice : Nat) (s : State) : Outcome :=
  happen s (
    match (s.slice slice).waiting with
    | [] => none
    | key :: r => if s.headerStalled key then none else (s.grantSlot slice key).map fun t => t.modSlice slice fun y => { y with waiting := r })

/-- The E4M3 code of an element of an MX4 page, its value divided by the page scale (R332). (DEDUCED, log 31.) -/
def State.relayoutCode (s : State) (h : PageHdr) (e : Nat) : Nat :=
  encodeFp ((s.pageValue h e).shift ((h.pscale : Int) - 127)) fmtE4m3 .rne false

/-- RELAYOUT_DEQUANTISE (R332 step 2, R334): the page, named by its header's key, is written into the new slot; what was uncorrectable
becomes a poisoned granule there. (DEDUCED, log 31.) -/
def execRelayoutDequantise (slice idx : Nat) (s : State) : Outcome :=
  happen s (
    let h := s.header idx
    if h.state ≠ .relayout ∨ h.step ≠ 1 ∨ homeSlice (idx * 64) ≠ slice ∨ s.pageStalled idx h ∨ s.newStalled h then none
    else
      let s1 := s.writeSlot h.nslot ((count 0 4096).map fun e => (e, s.relayoutCode h e))
      let bad := (count 0 128).filter fun g => (count (32 * g) 32).any fun e => s.badPageElem h e
      let s2 := { s1 with badPhys := bad.foldl (fun l g => NatSet.insert l (h.nslot / 32 + g)) s1.badPhys }
      some (s2.setHeader idx { h with step := 2 }))

/-- RELAYOUT_APPLY (R332 step 3): the write that caused the re-layout is applied to the new slot. -/
def execRelayoutApply (slice idx : Nat) (s : State) : Outcome :=
  happen s (
    let h := s.header idx
    if h.state ≠ .relayout ∨ h.step ≠ 2 ∨ s.headerStalled idx ∨ s.newStalled h then none
    else
      match findIdxFrom (fun r => decide (r.page = idx)) (s.slice slice).reqs 0 with
      | none => none
      | some i =>
        match (s.slice slice).reqs[i]? with
        | none => none
        | some q => some (((s.dropReq slice i).writeSlot h.nslot q.elems).setHeader idx { h.written with step := 3 }))

/-- RELAYOUT_FLIP (R332 step 4): the page is FP8 under a new generation; the old slots return to their pools. -/
def execRelayoutFlip (slice idx : Nat) (s : State) : Outcome :=
  happen s (
    let h := s.header idx
    if h.state ≠ .relayout ∨ h.step ≠ 3 ∨ homeSlice (idx * 64) ≠ slice ∨ s.headerStalled idx then none
    else
      let s1 := s.setHeader idx
        { h with gen := (h.gen + 1) % 2 ^ 16, mx4 := false, slot := h.nslot, sslot := 0, nslot := 0, state := .stable, step := 0 }
      some (s1.modSlice slice fun y =>
        { y with relayouts := sat16 y.relayouts, mx4 := y.mx4.give h.slot, sc := y.sc.give h.sslot }))

/-! ### Ageing and the skimmer (R328 to R331) -/

/-- The control record of a header table (R324). -/
def State.control (s : State) (hbase : Nat) : Word × Word := Map.getD s.vale.control hbase (0, 0)
/-- NPAGES of a table. -/
def State.npages (s : State) (hbase : Nat) : Nat := (s.control hbase).2.toNat % 2 ^ 32
/-- Whether a key names a header of a table. -/
def State.inTable (s : State) (hbase key : Nat) : Bool := decide (hbase * 32 < key) && decide (key ≤ hbase * 32 + s.npages hbase)

/-- Whether a page is STABLE and homed by a slice in a registered table. -/
def State.ages (s : State) (slice : Nat) (e : Nat × PageHdr) : Bool :=
  decide (e.2.state = .stable) && decide (homeSlice (e.1 * 64) = slice) && (s.slice slice).tables.any fun t => s.inTable t e.1

/-- The pages that a test names are one tick older. -/
def State.agePages (s : State) (p : Nat × PageHdr → Bool) : State :=
  { s with headers := s.headers.map fun e => if p e then (e.1, { e.2 with age := sat16 e.2.age }) else e }

/-- KV_TICK (R328): every STABLE page that the slice homes in a registered table is one tick older. The tick of a page whose header lies in a
stalled channel waits until the channel resumes (R341, R343). (DEDUCED, log 59.) -/
def execKvTick (slice : Nat) (s : State) : Outcome :=
  let held := (s.headers.filter fun e => s.ages slice e && s.headerStalled e.1).map fun e => e.1
  .next ((s.agePages fun e => s.ages slice e && !s.headerStalled e.1).modSlice slice fun y => { y with lateTicks := y.lateTicks ++ held })

/-- The ticks of a slice's pages that waited for a channel which has resumed (R341). (DEDUCED, log 59.) -/
def State.lateTick (s : State) (slice : Nat) : State :=
  let due := (s.slice slice).lateTicks.filter fun k => !s.headerStalled k
  (due.foldl (fun t k => t.agePages fun e => decide (e.1 = k) && s.ages slice e && !s.retired (k * 64)) s).modSlice slice fun y =>
    { y with lateTicks := y.lateTicks.filter s.headerStalled }

/-- Whether a page of a table is a candidate (R329); no page of a retired channel is one (R342). -/
def State.candidate (s : State) (n hbase : Nat) (key : Nat) (h : PageHdr) : Bool :=
  let thresh := (s.control hbase).1.toNat % 2 ^ 16
  decide (h.state = .stable) && !h.mx4 && !h.noconv && (s.control hbase).1.getLsbD 63 && decide (thresh ≠ 0) && decide (thresh ≤ h.age)
    && decide (0x0B ≤ h.pscale) && decide (h.pscale ≤ 0xF8) && decide (homeSlice (key * 64) = n) && !s.retired (key * 64)
    && !s.retired h.slot

/-- The candidates of a slice by order of table registration and header index: position, header key. -/
def State.candidates (s : State) (n : Nat) : List ((Nat × Nat) × Nat) :=
  ((count 0 (s.slice n).tables.length).map fun i =>
    match (s.slice n).tables[i]? with
    | none => []
    | some t =>
      (s.headers.filter fun e => s.inTable t e.1 && s.candidate n t e.1 e.2).map fun e => ((i, e.1 - t * 32), e.1)).flatten

/-- Whether a position comes after another. -/
def after (a b : Nat × Nat) : Bool := decide (b.1 < a.1) || (decide (a.1 = b.1) && decide (b.2 < a.2))

/-- SKIMMER_BEGIN (R330 step 1): the next candidate after the last page taken, in a round. -/
def execSkimmerBegin (slice : Nat) (s : State) : Outcome :=
  happen s (
    let y := s.slice slice
    let l := s.candidates slice
    let next := match l.find? fun e => after e.1 y.skimPos with
      | some e => some e
      | none => l.head?
    match next with
    | none => none
    | some (pos, key) =>
      if y.conv.isSome || !y.waiting.isEmpty || s.headerStalled key then none
      else
        match s.takeSliceSlot slice y.mx4 with
        | none => none
        | some (a, p, s1) =>
          match s1.takeSliceSlot slice y.sc with
          | none => none
          | some (b, r, s2) =>
            let h := s.header key
            some ((s2.setHeader key { h with state := .converting, nslot := a, nsslot := b, step := 0 }).modSlice slice fun z =>
              { z with mx4 := p, sc := r, conv := some key, skimPos := pos }))

/-- Quantise the block b of 16 elements of an FP8 page: scale code and codes (R330). -/
def State.quantBlock (s : State) (h : PageHdr) (b : Nat) : Nat × List Nat :=
  quantMx4 ((count (16 * b) 16).map fun e => s.pageValue h e)

/-- A conversion of a page whose header's channel has been retired (R342): the page is not converted, its header cannot be written, and the new slots
return to their pools. (DEDUCED, log 32.) -/
def State.dropConversion (s : State) (n key : Nat) : State :=
  let h := s.header key
  s.modSlice n fun y => { y with conv := none, mx4 := y.mx4.give h.nslot, sc := y.sc.give h.nsslot, dropped := y.dropped + 1 }

/-- The bytes of a row of codes: byte 8b + i from number b. -/
def codeBytes (b c : Nat) : List (Nat × Nat) := (count 0 8).map fun i => (8 * b + i, c / 256 ^ i % 256)

/-- SKIMMER_QUANTISE (R330 step 2, R334): codes and scales go to the new slots, or the conversion is abandoned. -/
def execSkimmerQuantise (slice : Nat) (s : State) : Outcome :=
  happen s (
    match (s.slice slice).conv with
    | none => none
    | some key =>
      let h := s.header key
      if h.state ≠ .converting ∨ h.step ≠ 0 ∨ s.pageStalled key h ∨ s.newStalled h then none
      else if s.retired (key * 64) then some (s.dropConversion slice key)
      else if (count 0 4096).any fun e => s.badPageElem h e || decide (s.pageCode h e % 128 = 127) then
        let s1 := s.endConversion slice key
        some ((s1.setHeader key { s1.header key with noconv := true }).modSlice slice fun y => { y with abandoned := sat16 y.abandoned })
      else
        let blocks := (count 0 256).map fun b => s.quantBlock h b
        let codes := (((count 0 256).zip blocks).map fun q => codeBytes q.1 (packLanes 4 q.2.2)).flatten
        let scales := ((count 0 256).zip blocks).map fun q => (q.1, q.2.1)
        some (((s.writeSlot h.nslot codes).writeSlot h.nsslot scales).setHeader key { h with step := 2 }))

/-- SKIMMER_FLIP (R330 step 3): the page is MX4 under a new generation; its FP8 slot returns to the pool. A write that has arrived aborts the
conversion instead when its turn comes. -/
def execSkimmerFlip (slice : Nat) (s : State) : Outcome :=
  happen s (
    match (s.slice slice).conv with
    | none => none
    | some key =>
      let h := s.header key
      if h.state ≠ .converting ∨ h.step ≠ 2 ∨ s.headerStalled key ∨ s.writeQueued key then none
      else if s.retired (key * 64) then some (s.dropConversion slice key)
      else
        let s1 := s.setHeader key
          { h with
            gen := (h.gen + 1) % 2 ^ 16, mx4 := true, slot := h.nslot, sslot := h.nsslot, nslot := 0, nsslot := 0, state := .stable
            step := 0 }
        some (s1.modSlice slice fun y => { y with conv := none, converted := sat16 y.converted, fp8 := y.fp8.give h.slot }))

end Sys2Proof.Machine
end

