-- ==== Sys2Proof/Machine/Matrix.lean ====
section
/-! DEFINITION. The matrix arrays (16): leases (R298 to R302, R313, R314), commands (R303 to R306, R315 to R319), stops and ROWPROG (R307,
R308), checksums (R309), mstat and mcheck (R320, R321). -/
namespace Sys2Proof.Machine

/-! ### Leases -/

/-- Whether another level of a core holds or waits for the lease (R298). -/
def Quad.otherLevel (q : Quad) (c l : Nat) : Bool :=
  (match q.holder with
   | some (h, k) => decide (h = c) && decide (k ≠ l)
   | none => false) || q.queue.any fun r => decide (r.core = c) && decide (r.level ≠ l)
/-- Whether a context's own request stands in the queue. -/
def Quad.queued (q : Quad) (c l : Nat) : Bool := q.queue.any fun r => decide (r.core = c) && decide (r.level = l)
/-- Whether a context is a restored holder that has not been granted again (R310). -/
def Quad.awaits (q : Quad) (c l : Nat) : Bool :=
  q.queue.any fun r => decide (r.core = c) && decide (r.level = l) && r.saved.isSome

/-- The state of an array after clearing (R300): zero codes with tag E4M3, live scales 0x7F, no scale sets, accumulators +0. -/
def ArrayState.cleared : ArrayState := {}

/-- A grant (R300, R310, R313): the counts restart; the array's state is cleared for a holder that is not the last one, and reloaded
for a restored one. -/
def Quad.grant (q : Quad) (gang : Nat) (r : LeaseReq) : Quad :=
  let who := some (gang, r.core, r.level)
  let q1 := { q with
    queue := q.queue.drop 1, holder := some (r.core, r.level), last := who, commands := 0, cycles := 0, expiring := false
    freeing := false, suspCycles := 0, rerunsGrant := 0 }
  match r.saved with
  | some v => { q1 with arr := v.arr, cmds := v.cmds, accepted := v.accepted, suspended := v.suspended, freeing := v.freeing }
  | none =>
    { q1 with arr := if q.last = who then q.arr else ArrayState.cleared, cmds := [], accepted := 0, suspended := false }

/-- Grant a free array to the head of its queue; a context that waits in mlease goes on. -/
def State.grantHead (s : State) (n : Nat) : Option State :=
  let q := s.quad n
  match q.holder, q.queue with
  | none, r :: _ =>
    let s1 := s.modQuad n fun y => y.grant ((s.core r.core).gang.getD 0) r
    some (if (s.ctx r.core r.level).wait = .lease ∧ r.saved = none then s1.finishWait r.core r.level else s1)
  | _, _ => none

/-- LEASE_GRANT (R298). -/
def execLeaseGrant (quad : Nat) (s : State) : Outcome := happen s (s.grantHead quad)

/-- LEASE_LIMIT (R299). -/
def execLeaseLimit (quad : Nat) (s : State) : Outcome :=
  happen s (if (s.quad quad).atLimit then some (s.modQuad quad Quad.limit) else none)

/-- The lease is released. -/
def Quad.release (q : Quad) : Quad := { q with holder := none, expiring := false, freeing := false, suspended := false }

/-- Whether the lease passes at a macro-operation boundary with no command left: it is expiring and a request waits, or the holder
has asked again (R299, R313). -/
def Quad.passes (q : Quad) : Bool :=
  match q.holder with
  | none => false
  | some (c, l) => q.cmds.isEmpty && !q.queue.isEmpty && (q.expiring || q.queued c l)

/-- LEASE_HANDOVER (R299). -/
def execLeaseHandover (quad : Nat) (s : State) : Outcome :=
  happen s (if (s.quad quad).passes then (s.modQuad quad Quad.release).grantHead quad else none)

/-- LEASE_RELEASE (R302, R314): a freeing lease ends once its queue is empty. -/
def execLeaseRelease (quad : Nat) (s : State) : Outcome :=
  happen s (
    let q := s.quad quad
    if q.holder.isSome && q.freeing && q.cmds.isEmpty then some (s.modQuad quad Quad.release) else none)

/-- A restored holder's matrix instructions wait until it is granted again (R310). (DEDUCED, log 33.) -/
def awaitRegrant : M Unit := do
  let s ← get
  if (s.quad (quadOf s.cur.1)).awaits s.cur.1 s.cur.2 then throw .stall else pure ()

/-- Change the issuing core's quad. -/
def modArray (f : Quad → Quad) : M Unit := modify fun s => s.modQuad (quadOf s.cur.1) f

/-- The effect of a limit that the lease has reached (R299). -/
def meetLimit : M Unit := do
  let s ← get
  if (s.quad (quadOf s.cur.1)).atLimit then modArray Quad.limit else pure ()

/-- mlease (R313): only a request that finds the array free and no other request waiting is granted at once (R298). (DEDUCED, log 33.) -/
def execMlease (sc : BitVec 3) (s : State) : Outcome :=
  instr sc (do
    awaitRegrant
    meetLimit
    let s ← get
    let (c, l) := s.cur
    let q := s.quad (quadOf c)
    if q.otherLevel c l then raise cSYNC_INVALID (s.leaseWord c)
    else if q.holds c l && !q.expiring && !q.freeing then pure ()
    else
      modArray fun y => { y with freeing := y.freeing && !y.holds c l, queue := y.queue ++ [{ core := c, level := l }] }
      let t ← get
      if q.holder.isNone && q.queue.isEmpty then
        modArray fun y => y.grant ((s.core c).gang.getD 0) { core := c, level := l }
      else if s.me.rtc then raise cSYNC_INVALID (t.leaseWord c)
      else throw (.block .lease)) s

/-- mfree (R314). -/
def execMfree (sc : BitVec 3) (s : State) : Outcome :=
  instr sc (do
    awaitRegrant
    let s ← get
    let (c, l) := s.cur
    if (s.quad (quadOf c)).holds c l then
      modArray fun y =>
        { y with freeing := true, queue := y.queue.filter fun r => !(decide (r.core = c) && decide (r.level = l)) }
    else raise cLEASE (s.leaseWord c)) s

/-! ### Discarding and resuming (R299, R308, R321) -/

/-- ROWPROG shows no stop any more: ROW is the compute command's (R307). -/
def State.clearRowprog (s : State) (c : Nat) : State := s.modCore c fun k => { k with rowprog := w64 k.computeRow }

/-- Release the ranges of commands. -/
def State.releaseCmds (s : State) (k : Nat) : List MCmd → State
  | [] => s
  | m :: r => (s.releaseRanges k m.lockId).releaseCmds k r

/-- Where the commands that action 2 discards begin: the stopped command, or the first when a core stop suspended the queue. (DEDUCED, log 35.) -/
def Quad.firstStopped (q : Quad) : Nat := (findIdxFrom (fun m => m.stopped) q.cmds 0).getD 0

/-- Discard the stopped command and every later one (R321). (DEDUCED, log 35.) -/
def State.discardCmds (s : State) (n : Nat) : State :=
  let q := s.quad n
  match q.holder with
  | none => s
  | some (c, _) =>
    let i := q.firstStopped
    let s1 := s.releaseCmds (clusterOf c) (q.cmds.drop i)
    ((s1.modQuad n fun y => { y with cmds := y.cmds.take i, suspended := false, suspCycles := 0 }).clearRowprog c).notifyCheck n

/-- SUSPENSION_TIMEOUT (R299). -/
def execSuspensionTimeout (quad : Nat) (s : State) : Outcome :=
  happen s (
    let q := s.quad quad
    if q.expiring && q.suspended && decide (Config.leaseCycles ≤ q.suspCycles) then some (s.discardCmds quad) else none)

/-- mstat (R320). -/
def execMstat (d : BitVec 5) (sc : BitVec 3) (s : State) : Outcome :=
  instr sc (do
    awaitRegrant
    let s ← get
    let _ ← deferS d (s.mstatWord s.cur.1 s.cur.2) 0
    pure ()) s

/-- mcheck action 0 (R321). -/
def checkWait (d : BitVec 5) : M Unit := do
  let s ← get
  let (c, l) := s.cur
  let q := s.quad (quadOf c)
  if !q.holds c l || q.cmds.isEmpty || q.suspended then
    let _ ← deferS d (s.mstatWord c l) 0
    pure ()
  else if s.me.rtc then raise cSYNC_INVALID 0
  else throw (.block (.mcheck d.toNat))

/-- mcheck action 1 (R321). -/
def checkResume (d : BitVec 5) : M Unit := do
  let s ← get
  let c := s.cur.1
  if (s.quad (quadOf c)).suspended then
    modArray fun y => { y with suspended := false, suspCycles := 0, cmds := y.cmds.map fun m => { m with stopped := false } }
    modify fun t => t.clearRowprog c
    let _ ← deferS d 0 0
    pure ()
  else
    let _ ← deferS d 1 0
    pure ()

/-- mcheck action 2 (R321). -/
def checkDiscard (d : BitVec 5) : M Unit := do
  let s ← get
  let n := quadOf s.cur.1
  let q := s.quad n
  if q.suspended then
    modify fun t => t.discardCmds n
    let _ ← deferS d (w64 (q.cmds.length - q.firstStopped)) 0
    pure ()
  else
    let _ ← deferS d 0 0
    pure ()

/-- mcheck (R321). -/
def execMcheck (d a : BitVec 5) (sc : BitVec 3) (s : State) : Outcome :=
  instr sc (do
    awaitRegrant
    claimDest d
    let x ← readS a
    let s ← get
    if 2 < x.toNat then raise cSYNC_INVALID x
    else if x = 0 then checkWait d
    else if !(s.quad (quadOf s.cur.1)).holds s.cur.1 s.cur.2 then raise cLEASE (s.leaseWord s.cur.1)
    else if x = 1 then checkResume d
    else checkDiscard d) s

/-! ### Issuing a command (R303) -/

/-- Tags accepted by a command (R315, R316, R318, R319). -/
def MOp.accepts (o : MOp) (t : Tag) : Bool :=
  match o with
  | .mload => [Tag.e4m3, .e5m2, .mx4, .ds8, .bf16, .fp16].contains t
  | .mscale => decide (t = .e8m0)
  | .mmul => [Tag.e4m3, .e5m2, .bf16, .fp16].contains t
  | .mdrain => [Tag.fp32, .bf16, .fp16, .e4m3, .e5m2].contains t
  | .mswap => true

/-- Whether a headed map is accepted (R305, R315). -/
def MOp.headed (o : MOp) (t : Tag) : Bool :=
  match o with
  | .mload | .mmul => computeFormat t
  | _ => false

/-- Rows that a command's map may have. -/
def MOp.maxRows (o : MOp) : Nat :=
  match o with
  | .mscale => 16
  | _ => 256

/-- Rows of a map: P × R. -/
def MapView.height (v : MapView) : Nat := v.planes * v.rows

/-- The tag of the live plane, that of the shadow plane and the scale sets queued once the queued commands have run. -/
def futureFrom (live shadow : Tag) (n : Nat) : List MCmd → Tag × Tag × Nat
  | [] => (live, shadow, n)
  | m :: r =>
    match m.op with
    | .mload => futureFrom live m.map.tag n r
    | .mscale => futureFrom live shadow (n + 1) r
    | .mswap => futureFrom shadow live (n - 1) r
    | _ => futureFrom live shadow n r

/-- What the live plane's tag and the scale queue will be for a new command. -/
def Quad.future (q : Quad) : Tag × Tag × Nat := futureFrom q.arr.live.tag q.arr.shadow.tag q.arr.scaleQ.length q.cmds

/-- Whether activations of a tag may meet a live plane of a tag (R297). -/
def pairOk (a w : Tag) : Bool :=
  match a with
  | .e4m3 | .e5m2 => [Tag.e4m3, .e5m2, .mx4, .ds8].contains w
  | .bf16 | .fp16 => [Tag.bf16, .fp16].contains w
  | _ => false

/-- The entry's own checks (R303 step 2). -/
def ownChecks (o : MOp) (v : MapView) (q : Quad) : M Unit := do
  let t := v.tag.code
  if !o.accepts v.tag || (v.headed && !o.headed v.tag) then raise cFORMAT (w64 t)
  else if o.maxRows < v.height ∨ 256 < v.cols then raise cFORMAT (w64 (t + 256))
  else if o = .mscale ∧ q.future.2.2 = 2 then raise cSYNC_INVALID 2
  else if o = .mmul ∧ ¬ pairOk v.tag q.future.1 then raiseFormat t q.future.1.code
  else pure ()

/-- The paths of the elements of a map that lie in the root. -/
def MapView.paths (v : MapView) : List Nat :=
  (((count 0 v.height).map fun i => (count 0 v.cols).map fun j =>
    match v.elem i j with
    | .at t => [taPath t]
    | _ => []).flatten).flatten

/-- The depth of the smallest block that holds two paths. -/
def commonDepth (a b : Nat) : Nat → Nat
  | 0 => 0
  | n + 1 => if cutPath a (n + 1) = cutPath b (n + 1) then n + 1 else commonDepth a b n

/-- The smallest block that contains every in-extent element of a map (R303). (DEDUCED, log 36.) -/
def MapView.block (v : MapView) : Word :=
  let l := v.paths
  let lo := l.foldl min (2 ^ 48 - 1)
  let hi := l.foldl max 0
  let d := commonDepth lo hi 24
  taOf v.root d (cutPath lo d)

/-- Whether the issuing context may command the array (R303 step 1): it holds the lease, neither expiring nor freeing. -/
def mayCommand : M Unit := do
  meetLimit
  let t ← get
  let q := t.quad (quadOf t.cur.1)
  if q.holds t.cur.1 t.cur.2 && !q.expiring && !q.freeing then pure ()
  else raise cLEASE (t.leaseWord t.cur.1)

/-- Append a command: it is accepted and counted. -/
def Quad.accept (q : Quad) (m : MCmd) : Quad :=
  { q with cmds := q.cmds ++ [{ m with seq := q.accepted % 64 }], accepted := q.accepted + 1, commands := q.commands + 1 }

/-- Issue a command with a map (R303). -/
def command (o : MOp) (d : BitVec 5) (a : BitVec 4) (plane : Nat) : M Unit := do
  awaitRegrant
  mayCommand
  let s ← get
  let map ← readM a.toNat
  let v := map.view
  let q := s.quad (quadOf s.cur.1)
  ownChecks o v q
  let r ← mapFormat v
  mapHeaded v r
  if Config.commandMax ≤ q.cmds.length then throw .stall
  else if Config.rangeMax ≤ s.home.ranges.length then
    let _ ← deferS d 1 0
    pure ()
  else
    releasePoint
    let id ← freshId
    modHome fun y =>
      y.addRange { id := id, dest := decide (o = .mdrain), tree := true, core := s.cur.1, level := s.cur.2, ta := v.block }
    modArray fun y => y.accept { op := o, map := map, plane := plane, lockId := id }
    let _ ← deferS d 0 0
    pure ()

/-- mload (R315). -/
def execMload (d : BitVec 5) (a : BitVec 4) (sc : BitVec 3) (s : State) : Outcome := instr sc (command .mload d a 0) s
/-- mscale (R316). -/
def execMscale (d : BitVec 5) (a : BitVec 4) (sc : BitVec 3) (s : State) : Outcome := instr sc (command .mscale d a 0) s
/-- mmul (R318). -/
def execMmul (p : BitVec 2) (d : BitVec 5) (a : BitVec 4) (sc : BitVec 3) (s : State) : Outcome :=
  instr sc (command .mmul d a p.toNat) s
/-- mdrain (R319). -/
def execMdrain (p : BitVec 1) (d : BitVec 5) (a : BitVec 4) (sc : BitVec 3) (s : State) : Outcome :=
  instr sc (command .mdrain d a p.toNat) s
/-- mswap (R317): no range and no status. -/
def execMswap (sc : BitVec 3) (s : State) : Outcome :=
  instr sc (do
    awaitRegrant
    mayCommand
    let s ← get
    if Config.commandMax ≤ (s.quad (quadOf s.cur.1)).cmds.length then throw .stall
    else
      releasePoint
      modArray fun y => y.accept { op := .mswap }) s

/-! ### Steps (R304 to R306) -/

/-- The lane of a command: 0 load, 1 compute; 2 for mswap. -/
def MOp.lane : MOp → Nat
  | .mload => 0
  | .mscale => 0
  | .mmul => 1
  | .mdrain => 1
  | .mswap => 2

/-- Whether a command may start behind the earlier ones (R304); none before it is of its own lane. -/
def canStart (m : MCmd) (earlier : List MCmd) : Bool :=
  !(earlier.any fun e => decide (e.op = .mswap))
    && (decide (m.op.lane = 1) || !(earlier.any fun e => decide (e.op = .mdrain) && taOverlap e.map.view.block m.map.view.block))

/-- The first command of a lane with its index. -/
def Quad.laneHead (q : Quad) (lane : Nat) : Option (Nat × MCmd) :=
  match findIdxFrom (fun m => decide (m.op.lane = lane)) q.cmds 0 with
  | none => none
  | some i => (q.cmds[i]?).map fun m => (i, m)

/-- Whether an array's sequencer runs: it has a holder whose core is resident and not STOPPED, its queue is not suspended (R302, R308), and no
pre-emption has reached the core of its holder or of a waiting context (R310). (DEDUCED, log 36.) -/
def State.arrayRuns (s : State) (n : Nat) : Bool :=
  match (s.quad n).holder with
  | none => false
  | some (c, _) =>
    s.counting c && decide ((s.core c).halting = none) && decide ((s.core c).stop = none) && !(s.quad n).suspended
      && (s.quad n).queue.all fun r => decide ((s.core r.core).halting = none)

/-- Why a step has no effect: its channel is stalled or its page in RELAYOUT, or it faults with TRAPVAL on a row; `mac` is the slice that counts
a failing MAC (R171). -/
inductive StepEnd where
  | wait
  | fault (f : TreeFault) (val : Word) (row : Nat) (mac : Option Nat := none)
deriving DecidableEq, Repr

/-- The slice that translates a row's elements for a quad (R305). -/
def arraySlice (n row : Nat) : Nat := (if n / 16 < 6 then 0 else 128) + 8 * (n % 16) + row % 8

/-- The place of a tree address that a step reaches for an element of a row. -/
def State.stepPlace (s : State) (asid : Nat) (k : Access) (i j : Nat) : MapElem → Except StepEnd (Option Loc)
  | .outside => .ok none
  | .beyond => .error (.fault { cause := cTREE_PROT, detail := 8 } (coordVal i j) i)
  | .at t =>
    if s.walkWaits asid t then .error .wait
    else
      match s.translate asid t k with
      | .error f => .error (.fault f (subBlock t) i)
      | .ok x => if s.locStalled x then .error .wait else .ok (some x)

/-- The place of an element for a step: none out of extent. mload does not read the scale plane of an MX4 or DS8 map (R315), and no other command
takes such a map. (DEDUCED, log 36.) -/
def State.stepLoc (s : State) (asid : Nat) (v : MapView) (k : Access) (i j : Nat) : Except StepEnd (Option Loc) :=
  s.stepPlace asid k i j (v.elem i j)

/-- The code of an operand element (R305): FILL out of extent, dequantised from a headed page. -/
def State.stepCode (s : State) (asid : Nat) (v : MapView) (i j : Nat) : Except StepEnd Nat :=
  match s.stepLoc asid v .read i j with
  | .error e => .error e
  | .ok none => .ok (v.fillCode v.tag.width)
  | .ok (some x) =>
    match x.headed with
    | none =>
      if s.badLoc x then
        .error (.fault { cause := cPOISON, detail := 0 } (subBlock x.ta) i
          (if s.stale x && !s.retired x.phys then some (homeSlice x.phys) else none))
      else .ok (s.getLoc x)
    | some key =>
      let h := s.header key
      let e := elemNo x.ta
      if s.pageStalled key h || decide (h.state = .relayout) || s.writeQueued key then .error .wait
      else if s.badReq key h e then .error (.fault { cause := cPOISON, detail := 0 } (subBlock x.ta) i)
      else .ok (toFloatTag (s.pageValue h e) v.tag .rne false)

/-- The codes of a list of elements in order, or the first fault. -/
def State.stepCodes (s : State) (asid : Nat) (v : MapView) : List (Nat × Nat) → Except StepEnd (List Nat)
  | [] => .ok []
  | (i, j) :: r =>
    match s.stepCode asid v i j with
    | .error e => .error e
    | .ok c =>
      match s.stepCodes asid v r with
      | .error e => .error e
      | .ok l => .ok (c :: l)

/-- The places of a list of elements in order, those out of extent left out. -/
def State.stepLocs (s : State) (asid : Nat) (v : MapView) (k : Access) : List (Nat × Nat) → Except StepEnd (List ((Nat × Nat) × Loc))
  | [] => .ok []
  | (i, j) :: r =>
    match s.stepLoc asid v k i j with
    | .error e => .error e
    | .ok x =>
      match s.stepLocs asid v k r with
      | .error e => .error e
      | .ok l =>
        match x with
        | some y => .ok (((i, j), y) :: l)
        | none => .ok l

/-- Index pairs in row order, then column order. -/
def grid (r0 rows cols : Nat) : List (Nat × Nat) := ((count r0 rows).map fun i => (count 0 cols).map fun j => (i, j)).flatten

/-- A map's entries with keys from lo to hi − 1 replaced by a list of values. -/
def spliceKeys {α : Type} (m : Map α) (lo : Nat) (vals : List α) : Map α :=
  m.filter (fun e => decide (e.1 < lo)) ++ (count lo vals.length).zip vals ++ m.filter fun e => decide (lo + vals.length ≤ e.1)

/-- The exact sum of the products of a K-block, times its scale (R263). (DESIGN CHOICE, log 104.) -/
def blockSum (ta tw : Tag) (a w : List Nat) (scale : Option Nat) : Fp :=
  let ps := (a.zip w).map fun q => fpMul (tagValue ta q.1) (tagValue tw q.2)
  let p := match ps with
    | [] => Fp.fin false 0 0
    | x :: r => r.foldl (fun acc y => fpAdd acc y .rne) x
  match scale with
  | none => p
  | some c => fpMul p (scaleValue c)

/-- One accumulator element after the K-blocks of a command, in increasing order, with one rounding each (R263). -/
def accumulate (arr : ArrayState) (ta : Tag) (a : List Nat) (j : Nat) (start : Nat) : Nat :=
  (count 0 16).foldl (fun c b =>
    let w := (count (16 * b) 16).map fun k => Map.getD arr.live.codes (256 * k + j) 0
    let sc := if arr.live.tag = .mx4 ∨ arr.live.tag = .ds8 then some (Map.getD arr.scales (256 * b + j) 0x7F) else none
    c32 (fpAdd (v32 c) (blockSum ta arr.live.tag ((a.drop (16 * b)).take 16) w sc) .rne)) start

/-- An accumulator. -/
def ArrayState.accAt (r : ArrayState) (plane i j : Nat) : Nat := (Map.getD r.acc (65536 * plane + 256 * i + j) 0).toNat

/-- The staged rows of an mmul step from its activations (R318). -/
def stageRows (arr : ArrayState) (v : MapView) (p r0 : Nat) (acts : List Nat) : Nat → List (BitVec 32)
  | 0 => []
  | n + 1 =>
    ((count 0 256).map fun j =>
      BitVec.ofNat 32 (accumulate arr v.tag (acts.take 256) j (if 2 ≤ p then 0 else arr.accAt (p % 2) r0 j)))
    ++ stageRows arr v p (r0 + 1) (acts.drop 256) n

/-- What a step leaves: the state and the next row. -/
abbrev StepDone := State × Nat

/-- Change an array's operand and result state. -/
def State.modArr (s : State) (n : Nat) (f : ArrayState → ArrayState) : State := s.modQuad n fun q => { q with arr := f q.arr }

/-- The exact sum of values. -/
def fpSum (l : List Fp) : Fp := l.foldl (fun x y => fpAdd x y .rne) (.fin false 0 0)

/-- The checksum sums of weight rows of 256 codes (R309, R315): each the sum of the row's values, rounded once to FP32. -/
def rowSums (t : Tag) (codes : List Nat) : Nat → List (BitVec 32)
  | 0 => []
  | n + 1 => BitVec.ofNat 32 (c32 (fpSum ((codes.take 256).map (tagValue t)))) :: rowSums t (codes.drop 256) n

/-- One step of mload (R315): 32 K rows of the shadow plane with their checksum sums; its tag with the last of them. -/
def State.stepMload (s : State) (n asid : Nat) (m : MCmd) : Except StepEnd StepDone :=
  match s.stepCodes asid m.map.view (grid m.row 32 256) with
  | .error e => .error e
  | .ok l =>
    let next := m.row + 32
    .ok (s.modArr n fun r =>
      { r with
        shadow :=
          { tag := if 256 ≤ next then m.map.tag else r.shadow.tag, codes := spliceKeys r.shadow.codes (256 * m.row) l
            sums := spliceKeys r.shadow.sums m.row (rowSums m.map.tag l 32) } }, next)

/-- The step of mscale (R316). -/
def State.stepMscale (s : State) (n asid : Nat) (m : MCmd) : Except StepEnd StepDone :=
  match s.stepCodes asid m.map.view (grid 0 16 256) with
  | .error e => .error e
  | .ok l => .ok (s.modArr n fun r => { r with scaleQ := r.scaleQ ++ [(count 0 4096).zip l] }, 16)

/-- The last row after a step of 32. -/
def stepEnd (row rows : Nat) : Nat := min (row + 32) rows

/-- The codes of the activations that a step of mmul reads. -/
def State.stepActs (s : State) (asid : Nat) (m : MCmd) : Except StepEnd (List Nat) :=
  s.stepCodes asid m.map.view (grid m.row (stepEnd m.row m.map.view.height - m.row) 256)

/-- One step of mmul (R318): 32 activation rows. -/
def State.stepMmul (s : State) (n asid : Nat) (m : MCmd) : Except StepEnd StepDone :=
  let v := m.map.view
  let next := stepEnd m.row v.height
  match s.stepActs asid m with
  | .error e => .error e
  | .ok l =>
    .ok (s.modArr n fun r =>
      { r with
        acc := spliceKeys r.acc (65536 * (m.plane % 2) + 256 * m.row) (stageRows r v m.plane m.row l (next - m.row)) }, next)

/-- The code that mdrain stores for an accumulator (R319). -/
def drainCode (t : Tag) (acc : Nat) : Nat :=
  if t = .fp32 then acc else toFloatTag (v32 acc) t .rne (decide (t = .e4m3) || decide (t = .e5m2))

/-- One step of mdrain (R319): 32 accumulator rows. -/
def State.stepMdrain (s : State) (n asid : Nat) (m : MCmd) : Except StepEnd StepDone :=
  let v := m.map.view
  let next := stepEnd m.row v.height
  match s.stepLocs asid v .write (grid m.row (next - m.row) v.cols) with
  | .error e => .error e
  | .ok l => .ok (s.putAll (l.map fun q => (q.2, drainCode v.tag ((s.quad n).arr.accAt m.plane q.1.1 q.1.2))), next)

/-- The elements that a command's next step needs, and the kind of its accesses (R315 to R319). -/
def MCmd.elems (m : MCmd) : List (Nat × Nat) × Access :=
  let v := m.map.view
  match m.op with
  | .mload => (grid m.row 32 256, .read)
  | .mscale => (grid 0 16 256, .read)
  | .mmul => (grid m.row (stepEnd m.row v.height - m.row) 256, .read)
  | .mdrain => (grid m.row (stepEnd m.row v.height - m.row) v.cols, .write)
  | .mswap => ([], .read)

/-- The entries that a step needs, each looked up at the slice of its element's row (R305); none while one of the slices accepts no request
(R167). `last` is the slice and the entry looked up just before. (DEDUCED, log 36.) -/
def State.stepLooks (s : State) (n asid : Nat) (v : MapView) (k : Access) (last : Nat × Word) : List (Nat × Nat) → Option State
  | [] => some s
  | (i, j) :: r =>
    match v.elem i j with
    | .at t =>
      match s.translate asid t k with
      | .ok x =>
        let key := (arraySlice n i, x.entry)
        if last = key then s.stepLooks n asid v k last r
        else (s.lookUp key.1 asid key.2).bind fun t => t.stepLooks n asid v k key r
      | .error _ => s.stepLooks n asid v k last r
    | _ => s.stepLooks n asid v k last r

/-- One step of a command. -/
def State.stepCmd (s : State) (n asid : Nat) (m : MCmd) : Except StepEnd StepDone :=
  match s.stepLooks n asid m.map.view m.elems.2 (256, 0) m.elems.1 with
  | none => .error .wait
  | some t =>
    match m.op with
    | .mload => t.stepMload n asid m
    | .mscale => t.stepMscale n asid m
    | .mmul => t.stepMmul n asid m
    | .mdrain => t.stepMdrain n asid m
    | .mswap => .error .wait

/-- Rows of a command: its steps end when they are done. -/
def MCmd.rows (m : MCmd) : Nat :=
  match m.op with
  | .mload => 256
  | .mscale => 16
  | _ => m.map.view.height

/-- ROWPROG.OP (R307). -/
def MOp.code : MOp → Nat
  | .mload => 0
  | .mscale => 1
  | .mmul => 2
  | .mdrain => 3
  | .mswap => 0

/-- ROWPROG of a stopped command (R307). (DEDUCED, log 36.) -/
def stopWord (m : MCmd) (cause : Nat) : Word :=
  w64 (cause % 256 * 2 ^ 56 + 2 ^ 55 + m.op.code * 2 ^ 53 + (if m.op = .mdrain then 2 ^ 52 else 0) + m.seq % 64 * 2 ^ 46 + m.row % 2 ^ 24)

/-- Put a command at an index of the queue. -/
def Quad.putCmd (q : Quad) (i : Nat) (m : MCmd) : Quad := { q with cmds := q.cmds.take i ++ m :: q.cmds.drop (i + 1) }

/-- A step stops its command (R308): ROWPROG, the suspended queue, the imprecise trap. (DEDUCED, log 35.) -/
def State.stopCmd (s : State) (n i : Nat) (m : MCmd) (c l : Nat) (cause : Nat) (t : TrapInfo) : State :=
  let s1 := s.modQuad n fun q => { q.putCmd i { m with stopped := true } with suspended := true, suspCycles := 0 }
  let s2 := s1.modCore c fun k => { k with rowprog := stopWord m cause }
  (s2.modCtx c l fun x => { x with pendTraps := x.pendTraps ++ [t] }).notifyCheck n

/-- A completed step: ROW rises; the last one takes the command off the queue and releases its range. -/
def State.endStep (s : State) (n i : Nat) (m : MCmd) (c : Nat) (next : Nat) : State :=
  let s1 := if m.op.lane = 1 then
      s.modCore c fun k => { k with computeRow := next, rowprog := w64 next }
    else s
  if next < m.rows then s1.modQuad n fun q => q.putCmd i { m with row := next }
  else
    ((s1.modQuad n fun q => { q with cmds := removeAt q.cmds i }).releaseRanges (clusterOf c) m.lockId).notifyCheck n

/-- TRAPVAL of ARRAY_CHECK (R309). (DEDUCED, log 36.) -/
def checkWord (n : Nat) (m : MCmd) (cols : BitVec 16) : Word :=
  w64 (n % 256 * 2 ^ 48 + m.seq % 64 * 2 ^ 40 + m.plane % 2 * 2 ^ 32 + m.row % 512 * 2 ^ 16 + cols.toNat)

/-- Count a rerun of a step (R309). -/
def Quad.rerun (q : Quad) : Quad := { q with reruns := q.reruns + 1, rerunsGrant := min (q.rerunsGrant + 1) 255 }

/-- The start of a command (R304, R307). -/
def State.startCmd (s : State) (n i : Nat) (m : MCmd) (c : Nat) : State :=
  let s1 := s.modQuad n fun q => q.putCmd i { m with started := true }
  if m.op.lane = 1 then s1.modCore c fun k => { k with computeRow := 0, rowprog := 0 } else s1

/-! ### Checksums (R309) -/

/-- The exact sum of the products of two lists of values. -/
def fpDot (a w : List Fp) : Fp := fpSum ((a.zip w).map fun q => fpMul q.1 q.2)

/-- Whether a comparison of a checksum with a sum of products fails: they differ by more than 2^−16 of the sum of the products' magnitudes; with a
NaN or an infinity it passes. -/
def compareFails (check sum size : Fp) : Bool :=
  match fpAdd check sum.neg .rne, size with
  | .fin n m e, .fin _ _ _ => fpLt (size.shift 16) (Fp.fin n m e).abs
  | _, _ => false

/-- A sum of products as the array forms it: what a disturbance makes of it, or the exact sum. -/
def measured (disturbed : List (Nat × BitVec 32)) (i : Nat) (exact : Fp) : Fp :=
  match disturbed.find? fun d => decide (d.1 = i) with
  | some d => v32 d.2.toNat
  | none => exact

/-- Row k of the live plane's values. -/
def Plane.row (p : Plane) (k : Nat) : List Fp := (count 0 256).map fun j => tagValue p.tag (Map.getD p.codes (256 * k + j) 0)
/-- Column j of them. -/
def Plane.col (p : Plane) (j : Nat) : List Fp := (count 0 256).map fun k => tagValue p.tag (Map.getD p.codes (256 * k + j) 0)

/-- The checksum column fails for row r of a step, whose activations are `a` (R309). -/
def Plane.rowFails (p : Plane) (a : List Fp) (r : Nat) (disturbed : List (Nat × BitVec 32)) : Bool :=
  let check := fpDot a ((count 0 256).map fun k => v32 (Map.getD p.sums k 0).toNat)
  let sum := fpDot a ((count 0 256).map fun k => fpSum (p.row k))
  let size := fpDot (a.map Fp.abs) ((count 0 256).map fun k => fpSum ((p.row k).map Fp.abs))
  compareFails check (measured disturbed (256 + r) sum) size

/-- The checksum row fails for column j of a step with activation rows `acts` (R309). -/
def Plane.colFails (p : Plane) (acts : List (List Fp)) (j : Nat) (disturbed : List (Nat × BitVec 32)) : Bool :=
  let across (f : Fp → Fp) : List Fp := (count 0 256).map fun k => fpSum (acts.map fun a => f (a.getD k (.fin false 0 0)))
  let check := fpDot (across id) (p.col j)
  let sum := fpSum (acts.map fun a => fpDot a (p.col j))
  let size := fpDot (across Fp.abs) ((p.col j).map Fp.abs)
  compareFails check (measured disturbed j sum) size

/-- The columns of a step whose comparison with the checksum row fails. -/
def Plane.badCols (p : Plane) (acts : List (List Fp)) (disturbed : List (Nat × BitVec 32)) : List Nat :=
  (count 0 256).filter fun j => p.colFails acts j disturbed

/-- The activation rows of a step from its codes. -/
def actRows (t : Tag) (codes : List Nat) : Nat → List (List Fp)
  | 0 => []
  | n + 1 => (codes.take 256).map (tagValue t) :: actRows t (codes.drop 256) n

/-- Whether a try of an mmul step fails a check, when its array disturbs the listed sums (R309). (DESIGN CHOICE, log 34.) -/
def Plane.tryFails (p : Plane) (acts : List (List Fp)) (disturbed : List (Nat × BitVec 32)) : Bool :=
  ((count 0 acts.length).zip acts).any (fun q => p.rowFails q.2 q.1 disturbed) || !(p.badCols acts disturbed).isEmpty

/-- What the checks of an mmul step that may run say (R309): none when its first try passes; otherwise whether the rerun fails too, and the groups of
16 columns in which its checksum row then failed. (DESIGN CHOICE, log 34.) -/
def State.stepChecks (s : State) (n asid : Nat) (m : MCmd) (first second : List (Nat × BitVec 32)) : Option (Bool × BitVec 16) :=
  match m.op, s.stepActs asid m with
  | .mmul, .ok l =>
    let p := (s.quad n).arr.live
    let acts := actRows m.map.tag l (stepEnd m.row m.map.view.height - m.row)
    if p.tryFails acts first then
      some (p.tryFails acts second, BitVec.ofNat 16 ((p.badCols acts second).foldl (fun w j => w ||| 2 ^ (j / 16)) 0))
    else none
  | _, _ => none

/-- MATRIX_STEP (R304, R306, R308, R309): a lane's next command starts, or its next step runs. `first` and `second` say what the array's faults
make of sums of products of an mmul step at its first and second try, as FP32 codes: entry j for column j, 256 + r for row r.
(DESIGN CHOICE, log 34.) -/
def execMatrixStep (quad lane : Nat) (first second : List (Nat × BitVec 32)) (s : State) : Outcome :=
  happen s (
    match (s.quad quad).laneHead lane, (s.quad quad).holder with
    | some (i, m), some (c, l) =>
      if !s.arrayRuns quad || decide (2 ≤ lane) then none
      else if !m.started then
        if canStart m ((s.quad quad).cmds.take i) then some (s.startCmd quad i m c) else none
      else
        let asid := ((s.gangOf c).map (·.asid)).getD 0
        match s.stepCmd quad asid m with
        | .error .wait => none
        | .error (.fault f val row mac) =>
          let s1 := match mac with
            | some h => s.modSlice h fun y => { y with macFail := y.macFail + 1 }
            | none => s.countFault (arraySlice quad row) f
          some (s1.stopCmd quad i m c l f.cause { cause := cENGINE, detail := f.detail, val := val })
        | .ok (t, next) =>
          match s.stepChecks quad asid m first second with
          | none => some (t.endStep quad i m c next)
          | some (false, _) => some ((t.modQuad quad Quad.rerun).endStep quad i m c next)
          | some (true, cols) =>
            some ((s.modQuad quad fun q => { q.rerun with checks := q.checks + 1 }).stopCmd quad i m c l cARRAY_CHECK
              { cause := cARRAY_CHECK, val := checkWord quad m cols })
    | _, _ => none)

/-- The exchange of mswap (R317). -/
def ArrayState.exchange (r : ArrayState) : ArrayState :=
  match r.scaleQ with
  | [] => { r with live := r.shadow, shadow := r.live }
  | x :: q => { r with live := r.shadow, shadow := r.live, scales := x, scaleQ := q }

/-- MSWAP_EFFECT (R304, R317): an mswap at the head of the queue takes effect. -/
def execMswapEffect (quad : Nat) (s : State) : Outcome :=
  happen s (
    match (s.quad quad).cmds with
    | m :: r =>
      if decide (m.op = .mswap) && s.arrayRuns quad then
        some ((s.modQuad quad fun q => { q with cmds := r, arr := q.arr.exchange }).notifyCheck quad)
      else none
    | [] => none)

end Sys2Proof.Machine
end

