-- ==== Sys2Proof/Machine/System.lean ====
section
/-! DEFINITION. Major 0x3E: snap (R241), cfgrd and cfgwr (R389, R390), sleep and wake (R400), stream ports and the raw words of links
(R66, R380, R381). -/
namespace Sys2Proof.Machine

/-- snap (R241): counted as missed while a snapshot is held, with status 1; else its trigger word sets out, and the status comes once the
fabric answers. -/
def execSnap (d a : BitVec 5) (sc : BitVec 3) (s : State) : Outcome :=
  instr sc (do
    claimDest d
    if s.here.snapAllow then
      let _ ← readS a
      if s.mod.snapHeld then
        modify fun t => t.trigger
        let _ ← deferS d 1 0
        pure ()
      else
        let id ← deferS d 0 1
        modify fun t => t.sendTrigger { source := 3, answer := if d.toNat = 0 then none else some (s.cur.1, s.cur.2, id) }
    else raise cPRIV 0) s

/-! ### Configuration registers (R389) -/

/-- REFREC of a channel (R340). -/
def Refresh.word (r : Refresh) (priv : Bool) : Word :=
  w64 (r.count % 2 ^ 32 * 2 ^ 32 + min r.forced 0xFFFF * 2 ^ 16 + r.maxPost % 16 * 2 ^ 12 + r.maxPull % 16 * 2 ^ 8
    + (if priv then (BitVec.ofInt 5 r.debt).toNat else 0))

/-- The registers of an edge slice by offset (R335, R340, R341). -/
def Slice.reg (y : Slice) (off : Nat) : Word :=
  if off = 0x00 then w64 (y.tick % 2 ^ 20)
  else if off = 0x08 then
    w64 (y.waiting.length % 2 ^ 16 * 2 ^ 48 + y.fp8.count % 2 ^ 16 * 2 ^ 32 + y.mx4.count % 2 ^ 16 * 2 ^ 16 + y.sc.count % 2 ^ 16)
  else if off = 0x10 then w64 (y.converted * 2 ^ 48 + y.aborted * 2 ^ 32 + y.relayouts * 2 ^ 16 + y.abandoned)
  else if off = 0x18 then y.priv.setWidth 64
  else if off = 0x20 then (Map.getD y.refresh 0 {}).word (y.privOn.getLsbD 0)
  else if off = 0x28 then (Map.getD y.refresh 1 {}).word (y.privOn.getLsbD 1)
  else if off = 0x30 then
    w64 ((if y.retired.contains 1 then 2 ^ 33 else 0) + (if y.retired.contains 0 then 2 ^ 32 else 0)
      + min (Map.getD y.reloads 1 0) 0xFFFF * 2 ^ 16 + min (Map.getD y.reloads 0 0) 0xFFFF)
  else 0

/-- The status register of a scale-out port (R385). -/
def SoPort.word (p : SoPort) : Word :=
  w64 (p.width % 16 * 2 ^ 60 + p.bad.toNat * 2 ^ 52 + min p.replays (2 ^ 20 - 1) * 2 ^ 32 + min p.crcerr (2 ^ 32 - 1))

/-- Whether MODREADY.PKG is set (R398 step 5): every READY bit and FWOK. -/
def Module.pkg (m : Module) : Bool := decide (Config.numBlocks ≤ m.ready.length) && m.fwok

/-- MODREADY (R398). -/
def Module.modready (m : Module) : Word :=
  w64 ((if m.pkg then 2 ^ 63 else 0) + (if m.fwok then 2 ^ 62 else 0) + (if m.vale then 2 ^ 61 else 0) + (if m.fwfail then 2 ^ 60 else 0)
    + min m.fails.length 255 * 2 ^ 32 + m.ready.length)

/-- A readable register of the configuration space; none for every other address (R389). (DEDUCED, log 41.) -/
def State.config (s : State) (x : Nat) : Option Word :=
  if 0x40000000 ≤ x ∧ x < 0x40010000 then some ((s.slice (x / 256 % 256)).reg (x % 256))
  else if 0x40010000 ≤ x ∧ x < 0x40011000 then some (if x % 256 = 0 then (s.soPort (x / 256 % 16)).word else 0)
  else if x = 0x40020000 then some s.mod.modready
  else if x = 0x40020008 then some s.mod.power
  else none

/-- The number of the system call at an address. -/
def callNumber (x : Nat) : Option Nat := if 0x80000000 ≤ x ∧ x < 0x80000100 then some (x % 256) else none

/-- A system call (R390): it queues at Vale, and its context waits, READY but not eligible. -/
def systemCall (k : Nat) (x arg : Word) (d : BitVec 5) (sc : BitVec 3) : M Flow := do
  let s ← get
  if s.me.rtc then raise cSYNC_INVALID x
  else
    releasePoint
    modify fun t => t.modVale fun v => { v with calls := v.calls ++ [(.context s.cur.1 s.cur.2, k)] }
    leaveOp sc (.call k arg d.toNat none)

/-- cfgrd (R389). -/
def execCfgrd (d a : BitVec 5) (sc : BitVec 3) (s : State) : Outcome :=
  instrJ sc (do
    claimDest d
    let x ← readS a
    match callNumber x.toNat with
    | some k => systemCall k x 0 d sc
    | none =>
      match s.config x.toNat with
      | some v =>
        let _ ← deferS d v 0
        return .seq
      | none => raise cPRIV 0) s

/-- cfgwr (R389). -/
def execCfgwr (d a b : BitVec 5) (sc : BitVec 3) (s : State) : Outcome :=
  instrJ sc (do
    claimDest d
    let x ← readS a
    let y ← readS b
    match callNumber x.toNat with
    | some k => systemCall k x y d sc
    | none => raise cPRIV 0) s

/-- SYSTEM_CALL_RETURN (R390): the answer is written, and the context goes on. -/
def execSystemCallReturn (core level : Nat) (s : State) : Outcome :=
  happen s (
    match (s.ctx core level).op with
    | .call _ _ d (some v) => some ((s.giveS core level d v).finishWait core level)
    | _ => none)

/-! ### Sleep and wake (R400) -/

/-- sleep (R400, R31). -/
def execSleep (d a : BitVec 5) (sc : BitVec 3) (s : State) : Outcome :=
  instr sc (do
    claimDest d
    let t ← readS a
    if s.me.token then
      modMe fun x => { x with token := false }
      let _ ← deferS d 0 0
      pure ()
    else if t ≠ 0 ∧ t.toNat ≤ s.here.cycle then
      let _ ← deferS d 1 0
      pure ()
    else if s.me.rtc then raise cSYNC_INVALID t
    else throw (.block (.sleep t d.toNat))) s

/-- SLEEP_DEADLINE (R400): CYCLE reaches the deadline of a sleeping context. -/
def execSleepDeadline (core level : Nat) (s : State) : Outcome :=
  happen s (
    match (s.ctx core level).wait with
    | .sleep t d => if t ≠ 0 ∧ t.toNat ≤ (s.core core).cycle then some ((s.giveS core level d 1).finishWait core level) else none
    | _ => none)

/-- Set a context's wake token; a sleeping context clears it and goes on with status 0. (DEDUCED, log 41.) -/
def State.wakeCtx (s : State) (c l : Nat) : State :=
  match (s.ctx c l).st, (s.ctx c l).wait with
  | .waiting, .sleep _ d => (s.giveS c l d 0).finishWait c l
  | _, _ => s.modCtx c l fun x => { x with token := true }

/-- wake (R400). -/
def execWake (a : BitVec 5) (sc : BitVec 3) (s : State) : Outcome :=
  instr sc (do
    let t ← readS a
    let id := t.toNat % 2 ^ 13
    match (s.gangOf s.cur.1).bind fun g => g.toPhys id with
    | none => raiseTree cTREE_PROT 0 (w64 id)
    | some c =>
      releasePoint
      modify fun u => u.wakeCtx c (t.toNat / 2 ^ 13 % 4)) s

/-! ### Stream ports (R380) -/

/-- sopen (R380). -/
def execSopen (a : BitVec 5) (b : BitVec 2) (sc : BitVec 3) (s : State) : Outcome :=
  instr sc (do
    let dw ← readS a
    let id := dw.toNat % 2 ^ 13
    if ((s.gangOf s.cur.1).bind fun g => g.toPhys id).isNone then raiseTree cTREE_PROT 0 (w64 id)
    else if id = s.coreId s.cur.1 ∨ Map.getD s.here.ports b.toNat .closed ≠ .closed then raise cSYNC_INVALID dw
    else modHere fun k => { k with ports := Map.set k.ports b.toNat (.armed id) }) s

/-- sclose (R380): the marker of an open port queues behind its words, and waits while the queue is full. -/
def execSclose (b : BitVec 2) (sc : BitVec 3) (s : State) : Outcome :=
  instr sc (do
    let dir := b.toNat
    match Map.getD s.here.ports dir .closed with
    | .closed => raise cSYNC_INVALID (w64 (28 + dir))
    | .armed _ => modHere fun k => { k with ports := Map.set k.ports dir .closed }
    | .open _ =>
      let q := Map.getD s.here.outq dir []
      if 16 ≤ q.length then throw .stall
      else
        let (dst, inDir) := match s.linkTarget s.cur.1 dir with
          | some (n, i, _) => (n, i)
          | none => (s.cur.1, 0)
        modHere fun k =>
          { k with
            outq := Map.set k.outq dir (q ++ [{ data := 0, marker := true, stream := true, dst := dst, inDir := inDir }])
            ports := Map.set k.ports dir .closed }) s

/-! ### Raw words on the mesh (R66, R376, R380, R381) -/

/-- The single hops of a route within a column. -/
def hopsY (x y y' : Nat) : Nat → List (Nat × Nat)
  | 0 => []
  | n + 1 =>
    if y < y' then (y * 128 + x, 2) :: hopsY x (y + 1) y' n
    else if y' < y then (y * 128 + x, 0) :: hopsY x (y - 1) y' n
    else []

/-- The channels of a route in a row: pass channels (4 east, 5 west) while the distance is 4 or more, then single hops. -/
def hopsX (x x' y : Nat) : Nat → List (Nat × Nat)
  | 0 => []
  | n + 1 =>
    if x + 4 ≤ x' then (y * 128 + x, 4) :: hopsX (x + 4) x' y n
    else if x' + 4 ≤ x then (y * 128 + x, 5) :: hopsX (x - 4) x' y n
    else if x < x' then (y * 128 + x, 1) :: hopsX (x + 1) x' y n
    else if x' < x then (y * 128 + x, 3) :: hopsX (x - 1) x' y n
    else []

/-- The raw channels of the route between two cores (R376). -/
def routeChannels (src dst : Nat) : List (Nat × Nat) :=
  hopsX (coreX src) (coreX dst) (coreY src) 64 ++ hopsY (coreX dst) (coreY src) (coreY dst) 64

/-- Whether an open stream holds a channel. -/
def State.channelHeld (s : State) (h : Nat × Nat) : Bool := s.net.routes.any fun r => (routeChannels r.1 r.2.2).contains h

/-- Whether a flit may travel: along its stream's open route, by opening one over free channels, or over the free link (R380, R381).
(DEDUCED, log 41.) -/
def State.mayTravel (s : State) (c dir : Nat) (f : LinkFlit) : Bool :=
  if f.stream then s.net.routes.contains (c, dir, f.dst) || (routeChannels c f.dst).all fun h => !s.channelHeld h
  else !s.channelHeld (c, dir)

/-- A stream's first word opens its route. -/
def State.openRoute (s : State) (c dir : Nat) (f : LinkFlit) : State :=
  if f.stream && !s.net.routes.contains (c, dir, f.dst) then s.modNet fun n => { n with routes := n.routes ++ [(c, dir, f.dst)] } else s

/-- RAW_WORD_ARRIVAL (R66): the oldest word of a core's outbound queue lands in an inbound queue with room. -/
def execRawWordArrival (core dir : Nat) (s : State) : Outcome :=
  happen s (
    match Map.getD (s.core core).outq dir [] with
    | [] => none
    | f :: r =>
      let inq := Map.getD (s.core f.dst).inq f.inDir []
      if f.marker || decide (16 ≤ inq.length) || !s.mayTravel core dir f then none
      else
        let s1 := (s.openRoute core dir f).modCore core fun k => { k with outq := Map.set k.outq dir r }
        some (s1.modCore f.dst fun k => { k with inq := Map.set k.inq f.inDir (inq ++ [f]) }))

/-- CLOSE_MARKER_ARRIVAL (R380): the route's channels are free; the destination consumes the marker. -/
def execCloseMarkerArrival (core dir : Nat) (s : State) : Outcome :=
  happen s (
    match Map.getD (s.core core).outq dir [] with
    | [] => none
    | f :: r =>
      if f.marker then
        some ((s.modCore core fun k => { k with outq := Map.set k.outq dir r }).modNet fun n =>
          { n with routes := n.routes.filter fun q => !(decide (q.1 = core) && decide (q.2.1 = dir)) })
      else none)

end Sys2Proof.Machine
end

