-- ==== Sys2Proof/Machine/Mesh.lean ====
section
/-! DEFINITION. The network and what it brings to a core: forwarding and frames (R376 to R379), arrival, acceptance and refusal (R22, R29,
R30), deposit data (R122, R143), dispatch (R20, R23 to R25, R403), retirement and phase closes (R136, R138), notices (R235), results that
land (R63, R66), fetch and translation (R39, R167). -/
namespace Sys2Proof.Machine

/-! ### Attachments and forwarding (R375 to R379) -/

/-- What a router attaches to beyond the mesh (R375). -/
inductive Attachment where
  | slice (n : Nat)
  /-- the left or the right I/O die -/
  | ioDie (right : Bool)
deriving DecidableEq, Repr

/-- The attachment of a router in a direction: edge slices north of row 0 and south of row 47, I/O dies west of column 0 and east of column 127. -/
def attachment (c dir : Nat) : Option Attachment :=
  match dir with
  | 0 => if coreY c = 0 then some (.slice (coreX c)) else none
  | 1 => if coreX c = 127 then some (.ioDie true) else none
  | 2 => if coreY c = 47 then some (.slice (128 + coreX c)) else none
  | 3 => if coreX c = 0 then some (.ioDie false) else none
  | _ => none

/-- The output of a router that a flit takes next from where it is (R375, R376). (DEDUCED, log 42.) -/
def Msg.nextChannel (m : Msg) : Option (Nat × Nat) := (routeChannels m.pos m.dst).head?

/-- The router at the other end of a channel. -/
def channelEnd (h : Nat × Nat) : Nat :=
  match h.2 with
  | 0 => h.1 - 128
  | 1 => h.1 + 1
  | 2 => h.1 + 128
  | 3 => h.1 - 1
  | 4 => h.1 + 4
  | _ => h.1 - 4

/-- The input of the next router by which a channel enters it. -/
def channelInput (dir : Nat) : Nat := if dir < 4 then opposite dir else dir

/-- Age of a flit (R377). -/
def Msg.age (m : Msg) (frame : Nat) : Nat := (frame / Config.frameCounts + 256 - m.frame % 256) % 256

/-- How far an input lies behind the one that a router's output served last (R379: round-robin). -/
def turnDistance (last input : Nat) : Nat := (input + 13 - last) % 7

/-- The flit that an output serves, by its index, of those that wait for it: the oldest, whatever their traffic classes; of equal ones that of
the next input in turn; of one input the one injected first (R376, R379). (DEDUCED, log 42.) -/
def oldestFor (waits : Nat → Msg → Bool) (frame last : Nat) : List Msg → Nat → Option (Nat × Nat × Nat) → Option (Nat × Nat × Nat)
  | [], _, best => best
  | m :: r, i, best =>
    let a := m.age frame
    let d := turnDistance last m.input
    oldestFor waits frame last r (i + 1)
      (if waits i m then
        match best with
        | some (_, b, e) => if b < a ∨ (b = a ∧ d < e) then some (i, a, d) else best
        | none => some (i, a, d)
      else best)

/-- The key of a router's output in the record of inputs served. -/
def outputKey (router dir : Nat) : Nat := router * 64 + dir

/-- FLIT_FORWARD (R379): a router's output, 0 to 3 for N, E, S, W and 4, 5 for the pass channels, serves its next flit. (DEDUCED, log 42.) -/
def execFlitForward (router dir : Nat) (s : State) : Outcome :=
  happen s (
    let key := outputKey router dir
    match oldestFor (fun _ m => decide (m.nextChannel = some (router, dir))) s.mod.frame (Map.getD s.net.lastIn key 6) s.net.msgs 0 none with
    | none => none
    | some (i, _) =>
      some (s.modNet fun n =>
        let l := (n.msgs.drop i).take 1
        { n with
          msgs := (n.msgs.take i) ++ l.map (fun m => { m with pos := channelEnd (router, dir), input := channelInput dir })
            ++ n.msgs.drop (i + 1)
          lastIn := l.foldl (fun t m => Map.set t key m.input) n.lastIn }))

/-- A waiting flit at a new frame number: its age stays at 127 or less (R377). -/
def Msg.atFrame (m : Msg) (frame : Nat) : Msg :=
  if 128 ≤ m.age frame then { m with frame := (frame / Config.frameCounts + 256 - 127) % 256 } else m

/-- The frame number of a waiting request at a new frame: its age stays at 127 or less (R377). -/
def cutAge (frame number : Nat) : Nat :=
  let now := frame / Config.frameCounts
  if 128 ≤ (now + 256 - number % 256) % 256 then (now + 256 - 127) % 256 else number

/-- A slice's queues at a new frame (R377). -/
def Slice.atFrame (y : Slice) (frame : Nat) : Slice :=
  { y with
    reqs := y.reqs.map fun q => { q with frame := cutAge frame q.frame }
    misses := y.misses.map fun q => { q with frame := cutAge frame q.frame } }

/-- A core's counts at the start of a frame (R378). -/
def Core.newFrame (k : Core) : Core :=
  { k with frameCount := k.frameCount.map fun e => (e.1, e.2 - frameQuota k.frameq e.1) }

/-- The counter value at which the next frame starts (R377). -/
def nextFrame (frame : Nat) : Nat := (frame / Config.frameCounts + 1) * Config.frameCounts

/-- FRAME_START (R377, R378): the counter reaches the next frame; a latch due before then comes first (R240). -/
def execFrameStart (s : State) : Outcome :=
  happen s (
    let n := nextFrame s.mod.frame
    if (match s.mod.snapDue with
        | some d => decide (d < n)
        | none => false) then none
    else
      some
        { s with
          mod := { s.mod with frame := n % 2 ^ 64 }
          cores := s.cores.map fun e => (e.1, e.2.newFrame)
          slices := s.slices.map fun e => (e.1, e.2.atFrame n)
          bdps := s.bdps.map fun e => (e.1, e.2.map fun q => { q with frame := cutAge n q.frame })
          net := { s.net with msgs := s.net.msgs.map fun m => m.atFrame n } })

/-! ### Arrival (R22, R26, R29) -/

/-- Whether an earlier flit of the same source, traffic class and destination is still under way (R26, R376): a core, or the edge slice behind
its router. (DEDUCED, log 42.) -/
def overtakes (m : Msg) (earlier : List Msg) : Bool :=
  earlier.any fun q =>
    decide (q.src = m.src) && decide (q.dst = m.dst) && decide (q.tc = m.tc) && decide (q.toSlice = m.toSlice)

/-- The slice that an end router attaches to. -/
def slicesAt (c : Nat) : Option Attachment := attachment c (if coreY c ≤ 23 then 0 else 2)

/-- Whether a flit may leave the mesh: it has reached its destination in order, and what it brings is taken there. A message is taken once the
receiving gang has started (R47), an amo result once the issuer's queue has a free entry (R28). (DEDUCED, log 91.) -/
def State.mayLeave (s : State) (idx : Nat) (m : Msg) : Bool :=
  decide (m.pos = m.dst) && !overtakes m (s.net.msgs.take idx)
    && (match m.load with
      | none => s.counting m.dst
      | some (.result _ _ _) => (s.core m.dst).sysqRoom
      | some (.page _) | some (.ship _) => (slicesAt m.dst).isSome
      | _ => true)

/-- The key of the output by which a flit leaves its last router: 6 to the core, 7 to the attachment. -/
def Msg.exitKey (m : Msg) : Nat := outputKey m.dst (if m.toSlice then 7 else 6)

/-- Whether a flit is the one that the output to its destination serves next (R379), of those that may leave. (DEDUCED, log 42.) -/
def State.leavesNext (s : State) (idx : Nat) (m : Msg) : Bool :=
  decide (((oldestFor (fun i q => decide (q.exitKey = m.exitKey) && s.mayLeave i q) s.mod.frame (Map.getD s.net.lastIn m.exitKey 6)
    s.net.msgs 0 none).map fun b => b.1) = some idx)

/-- The flit with an index, when it is the next to leave. -/
def State.leaving (s : State) (idx : Nat) : Option Msg :=
  match s.net.msgs[idx]? with
  | some m => if s.leavesNext idx m then some m else none
  | none => none

/-- A flit leaves the mesh. -/
def State.leave (s : State) (idx : Nat) (m : Msg) : State :=
  s.modNet fun n => { n with msgs := removeAt n.msgs idx, lastIn := Map.set n.lastIn m.exitKey m.input }

/-- A message for a mailbox at its receiver (R22): it takes a free entry, and an acceptance flit goes back; or it goes back itself, whole, a deposit
as its head flit. -/
def State.receive (s : State) (m : Msg) : State :=
  let k := s.core m.dst
  if k.mailbox.length < k.mbxcfg then
    (s.modCore m.dst fun y => { y with mailbox := y.mailbox ++ [{ msg := m, written := !hdrDep m.hdr : MailEntry }] }).sendLoad m.dst m.level
      m.src .accept m.tc
  else s.inject { m with data := [], src := m.dst, dst := m.src, pos := m.dst, input := 6, load := some .refused }

/-- MESSAGE_ARRIVAL (R22, R376): a message reaches its receiver; a request reaches the queue of the page's home slice, of the base-die processor that
serves the target's home (R166, R336), or of the owner's system sequencer (R28). (DEDUCED, log 42.) -/
def execMessageArrival (idx : Nat) (s : State) : Outcome :=
  happen s (
    match s.leaving idx with
    | none => none
    | some m =>
      let s1 := s.leave idx m
      match m.load with
      | none => some (s1.receive m)
      | some (.page q) => some (s1.modSlice (homeSlice (q.page * 64)) fun y => { y with reqs := y.reqs ++ [{ q with frame := m.frame }] })
      | some (.ship q) =>
        let x := s1.shipLoc q
        let p := homeSlice x.phys / 2
        some { s1 with bdps := Map.set s1.bdps p (Map.getD s1.bdps p [] ++ [{ q with phys := x.phys, frame := m.frame }]) }
      | some (.amo q) => some (s1.modCore m.dst fun k => { k with sysq := k.sysq ++ [q] })
      | _ => none)

/-- ACCEPTANCE (R29): the sender's count falls. -/
def execAcceptance (idx : Nat) (s : State) : Outcome :=
  happen s (
    match s.leaving idx with
    | none => none
    | some m => if m.load = some .accept then some ((s.leave idx m).modCore m.dst fun k => { k with acks := k.acks - 1 }) else none)

/-- A refused message as it was sent. -/
def Msg.back (m : Msg) : Msg := { m with src := m.dst, dst := m.src, load := none }

/-- REFUSAL (R29, R30): the refused message enters its sender's refusal queue. -/
def execRefusal (idx : Nat) (s : State) : Outcome :=
  happen s (
    match s.leaving idx with
    | none => none
    | some m =>
      if m.load = some .refused then some ((s.leave idx m).modCore m.dst fun k => { k with refusals := k.refusals ++ [m.back] }) else none)

/-- AMO_RESULT (R28, class 0xF1): the result is written to the issuer's register and its interlock cleared. (DEDUCED, log 91.) -/
def execAmoResult (idx : Nat) (s : State) : Outcome :=
  happen s (
    match s.leaving idx with
    | none => none
    | some m =>
      match m.load with
      | some (.result l i v) => some ((s.leave idx m).modCtx m.dst l fun x => x.landId i v)
      | _ => none)

/-! ### Deposit data and stamps (R122, R143) -/

/-- The control word of a deposit. -/
def Msg.cw (m : Msg) : Word := m.w.getD 6 0

/-- Flit i of a deposit's data written as a store at gang scope; a guarded granule drops it (R122). -/
def State.writeFlit (s : State) (k : Nat) (m : Msg) (i : Nat) : State :=
  let a := cwDblk m.cw * 64 + 64 * i
  if s.guarded k a then s else s.cwrite k a 64 (ofBytes ((m.data.drop (64 * i)).take 64))

/-- The data flits of a deposit that are not in place and whose range no lock holds back (R122). (DEDUCED, log 69.) -/
def State.freeFlits (s : State) (k : Nat) (e : MailEntry) : List Nat :=
  (count 0 (e.msg.data.length / 64)).filter fun i =>
    !e.flits.contains i && !s.lockedLocal k (cwDblk e.msg.cw * 64 + 64 * i) 64 true

/-- Write the flits of a list; the first suppressed store of the deposit is recorded. (DEDUCED, log 69.) -/
def State.writeFlits (s : State) (c : Nat) (e : MailEntry) (l : List Nat) : State × MailEntry :=
  let k := clusterOf c
  let a := cwDblk e.msg.cw * 64
  let s1 := l.foldl (fun t i => t.writeFlit k e.msg i) s
  let e1 := { e with flits := e.flits ++ l }
  match l.find? fun i => s.guarded k (a + 64 * i) with
  | some i =>
    if e.noted then (s1, e1)
    else (s1.modCore c fun y => { y with guardrec := guardRecord y.guardrec true true 0 (a + 64 * i) 0 }, { e1 with noted := true })
  | none => (s1, e1)

/-- The check of a stamp that fails, as stv would (R143). -/
def State.stampFault (s : State) (k : Nat) (a n : Nat) : Option Nat :=
  if a / 2 ^ 16 % 8 ≠ 7 then some cVERSION
  else if a % 8 ≠ 0 then some cALIGN
  else if n = 0 then some cVERSION
  else
    match (s.core (ownerCore k a)).version a with
    | some r => if n ≤ r.h then some cVERSION else none
    | none => none

/-- A store of 8 bytes by the device; a guarded granule drops it and is recorded as of a deposit. -/
def State.stampStore (s : State) (c a : Nat) (v : Word) : State :=
  let k := clusterOf c
  if s.guarded k a then s.modCore c fun y => { y with guardrec := guardRecord y.guardrec true true 0 a 0 }
  else s.cwrite k a 8 v.toNat

/-- The version that a stamped deposit makes (R143): none while no entry is free. (DEDUCED, log 69.) -/
def State.stamp (s : State) (c : Nat) (m : Msg) : Option State :=
  if !cwVstamp m.cw then some s
  else
    let k := clusterOf c
    let a := (m.w.getD 5 0).toNat % 2 ^ 22
    let n := (m.w.getD 4 0).toNat % 2 ^ 32
    let v := w64 (ofBytes (m.data.take 8))
    match s.stampFault k a n with
    | some cause =>
      some (s.modNet fun x => { x with notices := x.notices ++ [(c, noticeWord 1 cause 0 (m.hdr.toNat / 2 ^ 8 % 2 ^ 13), w64 a, 0)] })
    | none =>
      if (s.core (ownerCore k a)).versionRoom a then some ((s.makeVersion k a n v).stampStore c a v) else none

/-- Replace the mailbox entry at an index. -/
def Core.putEntry (k : Core) (idx : Nat) (e : MailEntry) : Core :=
  { k with mailbox := k.mailbox.take idx ++ e :: k.mailbox.drop (idx + 1) }

/-- A deposit whose data are in place becomes pending, or is released and retires when it has no handler (R122). -/
def State.deposited (s : State) (core idx : Nat) (e : MailEntry) : State :=
  if cwHandler e.msg.cw = 0 then
    (s.modCore core fun k => { k with mailbox := removeAt k.mailbox idx }).sendRetire e.msg.retire
  else s.modCore core fun k => k.putEntry idx { e with written := true }

/-- DEPOSIT_DATA_WRITE (R122, R143): the data flits that no lock holds back; then, when all are in place, the stamp, and the deposit is
pending. While no version entry is free it stays in its mailbox entry. (DEDUCED, log 69.) -/
def execDepositDataWrite (core idx : Nat) (s : State) : Outcome :=
  happen s (
    match (s.core core).mailbox[idx]? with
    | none => none
    | some e =>
      if e.written then none
      else
        let l := s.freeFlits (clusterOf core) e
        let (s1, e1) := s.writeFlits core e l
        let s2 := s1.modCore core fun k => k.putEntry idx e1
        if e1.flits.length < e.msg.data.length / 64 then if l = [] then none else some s2
        else
          match s2.stamp core e.msg with
          | some t => some (t.deposited core idx e1)
          | none => if l = [] then none else some s2)

/-! ### Dispatch (R20, R23, R24, R403) -/

/-- What may start a handler: its level, handler, rtc bit, payload, header and phase, and the count it retires. -/
structure Arrival where
  level : Nat
  handler : Nat
  rtc : Bool
  w : List Word
  hdr : Word
  phase : Nat
  retire : Option Retire
deriving DecidableEq, Repr

/-- The queues from which a handler starts, in the order of R24, with the position in them. -/
inductive From where
  | refusal
  | notice
  | close
  | mailbox (i : Nat)
deriving DecidableEq, Repr

/-- The valid dispatch entry of a class (R114): level, handler, rtc bit. -/
def Core.entry (k : Core) (cls : Nat) : Option (Nat × Nat × Bool) :=
  let e := Map.getD k.dispatch cls 0
  if e.getLsbD 31 then some (e.toNat / 2 ^ 28 % 4, e.toNat % 2 ^ 22, e.getLsbD 30) else none

/-- A message's handler (R23): deposits by their control word, others by their class entry. -/
def Core.arrivalOf (k : Core) (m : Msg) : Option Arrival :=
  if hdrDep m.hdr then
    some
      { level := hdrLevel m.hdr, handler := cwHandler m.cw, rtc := hdrRtc m.hdr, w := m.w, hdr := m.hdr, phase := hdrPhase m.hdr
        retire := some m.retire }
  else
    (k.entry (hdrClass m.hdr)).map fun e =>
      { level := e.1, handler := e.2.1, rtc := e.2.2, w := m.w, hdr := m.hdr, phase := hdrPhase m.hdr, retire := some m.retire }

/-- A header of a phase-close or fault-notice handler (R403). -/
def deviceHeader (cls phase n id : Nat) : Word := msgHeader 0 0 0 n 0 0 0 0 0 phase id id cls

/-- The handlers that a core's queues may start, in the order of R24 within a level. -/
def State.arrivals (s : State) (c : Nat) : List (From × Arrival) :=
  let k := s.core c
  let id := s.coreId c
  let r := match k.refusals.head?, k.entry 0xFE with
    | some m, some e =>
      [(From.refusal,
        { level := e.1, handler := e.2.1, rtc := e.2.2, w := m.w, hdr := m.hdr, phase := hdrPhase m.hdr, retire := some m.retire : Arrival })]
    | _, _ => []
  let n := match k.notices.head?, k.entry 0xFD with
    | some w, some e =>
      [(From.notice,
        { level := e.1, handler := e.2.1, rtc := e.2.2, w := [w.1, w.2.1, w.2.2], hdr := deviceHeader 0xFD 0 3 id, phase := 0
          retire := none : Arrival })]
    | _, _ => []
  let p := match k.closes.head?, k.entry 0xFC with
    | some x, some e =>
      [(From.close,
        { level := e.1, handler := e.2.1, rtc := e.2.2, w := [w64 x], hdr := deviceHeader 0xFC x 1 id, phase := x
          retire := none : Arrival })]
    | _, _ => []
  let m := ((count 0 k.mailbox.length).zip k.mailbox).filterMap fun q =>
    if q.2.written then (k.arrivalOf q.2.msg).map fun a => (From.mailbox q.1, a) else none
  r ++ n ++ p ++ m

/-- Whether a level of a core holds a READY or RUNNING context. -/
def Core.active (k : Core) (l : Nat) : Bool := decide ((k.bank l).st = .ready) || decide ((k.bank l).st = .running)

/-- Whether a core may start a handler at a level now (R23, R236). -/
def Core.mayStart (k : Core) (l : Nat) : Bool :=
  decide ((k.bank l).st = .idle) && decide ((k.bank l).op = .none) && decide (l ≠ 0) && !((count l (4 - l)).any k.active)
    && !((count 0 4).any fun i => k.active i && (k.bank i).rtc) && decide (k.stop = none) && decide (k.halting = none)

/-- The arrival that dispatches: of the highest level, then first in the order of R24. -/
def bestArrival : List (From × Arrival) → Option (From × Arrival) → Option (From × Arrival)
  | [], b => b
  | x :: r, none => bestArrival r (some x)
  | x :: r, some b => bestArrival r (if b.2.level < x.2.level then some x else some b)

/-- Take an arrival from its queue; a refusal that leaves lowers the count of outstanding acknowledgements (R29). -/
def Core.takeArrival (k : Core) : From → Core
  | .refusal => { k with refusals := k.refusals.drop 1, acks := k.acks - 1 }
  | .notice => { k with notices := k.notices.drop 1 }
  | .close => { k with closes := k.closes.drop 1 }
  | .mailbox i => { k with mailbox := removeAt k.mailbox i }

/-- The bank at the start of a handler (R20). -/
def Ctx.startHandler (x : Ctx) (a : Arrival) (cycle : Nat) : Ctx :=
  { x.setSreg 1 0 with
    mb := (count 0 7).map fun i => (i, a.w.getD i 0)
    msghdr := a.hdr
    rtc := a.rtc
    td := false
    prio := a.level
    phase := BitVec.ofNat 4 a.phase
    pc := BitVec.ofNat 22 a.handler
    handler := BitVec.ofNat 22 a.handler
    rtcCount := 0
    st := .ready
    wait := .none
    op := .none
    nextIssue := max x.nextIssue (cycle + 1)
    started := a.retire }

/-- DISPATCH (R20, R23): the best pending arrival whose level may start. -/
def execDispatch (core : Nat) (s : State) : Outcome :=
  happen s (
    let k := s.core core
    match bestArrival ((s.arrivals core).filter fun q => k.mayStart q.2.level) none with
    | none => none
    | some (f, a) =>
      if s.counting core then
        let k1 := k.takeArrival f
        some (s.setCore core { k1.setBank a.level ((k1.bank a.level).startHandler a k.cycle) with ibuf := none })
      else none)

/-! ### Phases (R136, R138) and notices (R235) -/

/-- RETIREMENT (R136): a completion acknowledgement reaches the sending core's router. -/
def execRetirement (idx : Nat) (s : State) : Outcome :=
  happen s (
    match s.net.retires[idx]? with
    | none => none
    | some r => some ((s.modNet fun n => { n with retires := removeAt n.retires idx }).countDown r.router r.phase))

/-- The close of an armed phase when every router of its gang reads 0 for it (R138): it is disarmed, and every core will be told. -/
def State.closePhase (s : State) (gang phase : Nat) : Option State :=
  match Map.get? s.gangs gang with
  | none => none
  | some g =>
    if g.armed.getLsbD phase && decide (phase < 16) && g.image.isNone && g.cores.all fun c => decide (s.phaseOf c phase = 0) then
      some ((s.modGang gang fun x => { x with armed := putBit x.armed phase false }).modNet fun n =>
        { n with closes := n.closes ++ g.cores.map fun c => (c, phase) })
    else none

/-- PHASE_CLOSE (R138). -/
def execPhaseClose (gang phase : Nat) (s : State) : Outcome := happen s (s.closePhase gang phase)

/-- Every close that is due, taken at once: a phase closes at the first instant at which it may (R138). -/
def State.closePhases (s : State) : State :=
  s.gangs.foldl (fun t e =>
    if e.2.armed = 0 then t else (count 0 16).foldl (fun u p => (u.closePhase e.1 p).getD u) t) s

/-- The contexts of a core that wait in phwait for a phase go on. -/
def State.wakePhase (s : State) (c p : Nat) : List Nat → State
  | [] => s
  | l :: r =>
    let s1 := if (s.ctx c l).st = .waiting ∧ (s.ctx c l).wait = .phwait p then s.finishWait c l else s
    s1.wakePhase c p r

/-- PHASE_CLOSE_DELIVERY (R28, class 0xFC): CLOSED is set, phwait released, and the bit left pending while a handler is bound.
(DESIGN CHOICE, log 99.) -/
def execPhaseCloseDelivery (idx : Nat) (s : State) : Outcome :=
  happen s (
    match s.net.closes[idx]? with
    | none => none
    | some (c, p) =>
      let s1 := s.modNet fun n => { n with closes := removeAt n.closes idx }
      let s2 := s1.modCore c fun k =>
        { k with
          closed := putBit k.closed p true
          closes := if (k.entry 0xFC).isSome && !k.closes.contains p then k.closes ++ [p] else k.closes }
      some (s2.wakePhase c p [0, 1, 2, 3]))

/-- FAULT_NOTICE (R235): a notice enters the 8-entry queue; it is held at its source while the queue is full or the gang is parked. -/
def execFaultNotice (idx : Nat) (s : State) : Outcome :=
  happen s (
    match s.net.notices[idx]? with
    | none => none
    | some (c, w) =>
      if c < Config.numCores ∧ (s.core c).notices.length < 8 then
        some ((s.modNet fun n => { n with notices := removeAt n.notices idx }).modCore c fun k => { k with notices := k.notices ++ [w] })
      else none)

/-! ### Results that land (R63, R66) -/

/-- Push flits of a landed result towards a direction; none while the queue is full or leads nowhere. -/
def State.pushLanded (s : State) (c dir : Nat) (data : List (BitVec 512)) (vtag : Option Tag) : Option State :=
  match s.linkTarget c dir with
  | none => none
  | some (dst, inDir, stream) =>
    let q := Map.getD (s.core c).outq dir []
    if q.length + data.length ≤ 16 then
      let fs := data.map fun x => { data := x, vtag := vtag, stream := stream, dst := dst, inDir := inDir : LinkFlit }
      some (s.modCore c fun k =>
        { k with
          outq := Map.set k.outq dir (q ++ fs)
          ports := match Map.getD k.ports dir .closed with
            | .armed id => Map.set k.ports dir (.open id)
            | _ => k.ports })
    else none

/-- The push of a pending result whose destination is a link; none for a register. -/
def State.landLink (s : State) (c : Nat) (q : Pend) : Option (Option State) :=
  match q.dest with
  | .scalar r => if r < 28 then none else some (s.pushLanded c (r - 28) [q.val.setWidth 512] none)
  | .vector r => if r < 28 then none else some (s.pushLanded c (r - 28) (chunks q.val) (some q.tag))
  | .pred _ => none

/-- RESULT_LANDS (R63): a variable-latency result that waits for no more answers is written to its register or pushed (R66). -/
def execResultLands (core level idx : Nat) (s : State) : Outcome :=
  happen s (
    match (s.ctx core level).pend[idx]? with
    | none => none
    | some q =>
      if q.ready.isSome || decide (q.open_ ≠ 0) then none
      else
        let drop (t : State) : State := t.modCtx core level fun x => { x with pend := removeAt x.pend idx }
        match s.landLink core q with
        | some (some t) => some (drop t)
        | some none => none
        | none => some (drop (s.modCtx core level fun x => x.land q)))

/-! ### Fetch and translation -/

/-- Whether a core's next context fetches from a block that its buffer does not hold. -/
def State.wantsBlock (s : State) (c base : Nat) : Option Nat :=
  let k := s.core c
  match k.choose with
  | none => none
  | some l =>
    let pc := (k.bank l).pc.toNat
    if s.counting c && decide (k.stop = none) && decide (pc / 64 * 64 = base) && !k.buffered (k.bank l).pc
        && !s.inMailbox (clusterOf c) pc 64 && !s.absent (clusterOf c) pc && !s.badLocal (clusterOf c) pc 64
        && decide (pc + 64 ≤ Config.clusterBytes)
    then some pc else none

/-- INSTRUCTION_FETCH (R39): the read of a 64-byte block reaches every core of the cluster that requests it. (DEDUCED, log 78.) -/
def execInstructionFetch (cluster base : Nat) (s : State) : Outcome :=
  happen s (some ((count 0 8).foldl (fun t i =>
    match s.wantsBlock (coreIn cluster i) base with
    | some pc => t.fill (coreIn cluster i) pc
    | none => t) s))

/-- TRANSLATION_WALK (R165, R167): a walker of a slice completes a walk. -/
def execTranslationWalk (slice : Nat) (s : State) : Outcome := happen s (s.walkDone slice)

end Sys2Proof.Machine
end

