-- ==== Sys2Proof/Machine/Rewrite.lean ====
section
/-! DEFINITION. The rewriting engine (19): nodes and their steps (R346 to R352), link (R360 to R363), the churn, nrun and npush (R353, R354,
R364 to R366), migration and balancing (R367 to R369). -/
namespace Sys2Proof.Machine

/-! ### Nodes and port references -/

/-- The check of a port reference. -/
def checkPr (pr : Word) (port : Bool) : M Unit := do
  let s ← get
  match s.prFault s.cur.1 pr port with
  | some t => throw (.trap t)
  | none => pure ()

/-- Write a word of a node. (DEDUCED, log 40.) -/
def State.setNword (s : State) (c : Nat) (pr : Word) (w : Nat) (v : Word) : State :=
  match s.prFault c pr false, s.prOwner c pr with
  | none, some o => s.setNodeWord o pr w v
  | _, _ => s
/-- Slot(p) (R347); a node has no port 3. (DEDUCED, log 40.) -/
def State.slot (s : State) (c : Nat) (pr : Word) : Word := if prPort pr = 3 then 0 else s.nword c pr (prPort pr + 1)
/-- Slot(p) := v. (DEDUCED, log 40.) -/
def State.setSlot (s : State) (c : Nat) (pr v : Word) : State := if prPort pr = 3 then s else s.setNword c pr (prPort pr + 1) v

/-- ARITY; 3 is never produced. -/
def nodeArity (h : Word) : Nat := min (h.toNat / 2 ^ 6 % 4) 2
/-- TYPE. -/
def nodeType (h : Word) : Nat := h.toNat % 64
/-- MIGR. -/
def nodeMigr (h : Word) : Nat := h.toNat / 2 ^ 11 % 4
/-- Bits 31:9 of a header, which belong to the engine (R346). -/
def engineBits : Word := w64 0xFFFFFE00
/-- A header as nld and nrun return it. -/
def plainHeader (h : Word) : Word := h &&& ~~~engineBits
/-- Who the issuing context is to the engine: its core id and level. -/
def State.whoAmI (s : State) : Nat × Nat := (s.coreId s.cur.1, s.cur.2)
/-- A port reference from a core id and a cluster address, port 0. -/
def makePr (id a : Nat) : Word := w64 (id % 2 ^ 13 * 2 ^ 22 + a)

/-! ### Free lists (R351) -/

/-- Take the head of a core's free list. -/
def State.popFree (s : State) (c : Nat) : Option (Nat × State) :=
  let k := s.core c
  if k.freeHead = 0 ∨ k.freeLen = 0 then none
  else
    let next := s.cread (clusterOf c) (k.freeHead + 8) 8 / 2 ^ 5 % 2 ^ 17 * 32
    some (k.freeHead, s.setCore c { k with freeHead := next, freeLen := k.freeLen - 1 })

/-- Whether every slot of a node up to its ARITY is 0. -/
def State.slotsClear (s : State) (c : Nat) (pr : Word) : Bool :=
  (count 0 (nodeArity (s.nword c pr 0) + 1)).all fun k => decide (s.nword c pr (k + 1) = 0)

/-- Recycle(n) (R351): a forwarder with clear slots returns to the head of its owner's list. -/
def State.recycle (s : State) (c : Nat) (pr : Word) : State :=
  match s.prOwner c pr with
  | none => s
  | some o =>
    if fwdBit (s.nword c pr 0) && s.slotsClear c pr then
      let head := (s.core o).freeHead
      ((s.setNword c pr 0 0).setNword c pr 1 (w64 head)).modCore o fun k =>
        { k with freeHead := prNode pr, freeLen := k.freeLen + 1 }
    else s

/-- nalloc (R357). -/
def execNalloc (d : BitVec 5) (sc : BitVec 3) (s : State) : Outcome :=
  instr sc (do
    let (c, l) := s.cur
    match s.popFree c with
    | none =>
      let _ ← deferS d 0 0
      pure ()
    | some (a, t) =>
      releasePoint
      let k := clusterOf c
      set ((((t.cwrite k a 8 (2 ^ 29 + l % 4 * 2 ^ 30)).cwrite k (a + 8) 8 0).cwrite k (a + 16) 8 0).cwrite k (a + 24) 8 0)
      modMe fun x => { x with holds := x.holds ++ [a] }
      let _ ← deferS d (makePr (s.coreId c) a) 0
      pure ()) s

/-! ### Node steps (R349, R350) -/

/-- What a node step leads to. -/
inductive NodeNext where
  | done
  | goto (t : BitVec 22)
  | more (o : NodeOp)
  /-- the step waits at its owner -/
  | wait
deriving DecidableEq, Repr

/-- The port reference whose owner performs the next step of an instruction. -/
def NodeOp.at : NodeOp → Word
  | .nld _ pr _ => pr
  | .nst pr _ _ => pr
  | .nfree pr _ _ _ => pr
  | .nrun e none => e.pra
  | .nrun e (some _) => e.prb
  | .link l =>
    match l.part with
    | .lookThrough => l.p
    | .qSide => l.q
    | .pSide => l.p
    | .rewriteQ => l.q
    | .cleanup1 => l.o1
    | .cleanup2 => l.o2
    | .push => l.p

/-- The step of nld (R359). -/
def stepNld (d : Nat) (pr : Word) (w : Nat) : M NodeNext := do
  let s ← get
  let x := s.nword s.cur.1 pr w
  let _ ← deferS (BitVec.ofNat 5 d) (if w = 0 then plainHeader x else x) 0
  return .done

/-- The step of nst (R359). -/
def stepNst (pr : Word) (w : Nat) (v : Word) : M NodeNext := do
  let s ← get
  let c := s.cur.1
  let h := s.nword c pr 0
  if fwdBit h then raise cSYNC_INVALID pr
  else if w = 0 then
    let kept := if claimedBit h && !claimedByOther h s.whoAmI then headerWithout h true false else h
    set (s.setNword c pr 0 ((v &&& ~~~engineBits) ||| (kept &&& engineBits)))
    return .done
  else
    set (s.setNword c pr w v)
    return .done

/-- Write the slots of a freed node up to its ARITY. -/
def State.freeSlots (s : State) (c : Nat) (pr : Word) : Nat → List Word → State
  | _, [] => s
  | k, t :: r => (s.setNword c pr (k + 1) t).freeSlots c pr (k + 1) r

/-- The step of nfree (R358). (DEDUCED, log 39.) -/
def stepNfree (pr t0 t1 t2 : Word) : M NodeNext := do
  let s ← get
  let c := s.cur.1
  let h := s.nword c pr 0
  if fwdBit h || claimedByOther h s.whoAmI then raise cSYNC_INVALID pr
  else
    let s1 := s.setNword c pr 0 ((h &&& ~~~w64 (2 ^ 13 + 2 ^ 29)) ||| w64 256)
    set ((s1.freeSlots c pr 0 ([t0, t1, t2].take (nodeArity h + 1))).recycle c pr)
    return .done

/-! ### link (R360 to R363) -/

/-- A trap on the Q side (R363): the hops stay cleared, and register b holds the port reached. -/
def linkTrap {α : Type} (l : LinkOp) (cause : Nat) : M α := do
  modMe fun x => { x.setSreg l.b l.q with poisoned := Map.del x.poisoned l.b }
  throw (.trapKeep { cause := cause, val := l.q })

/-- The part of a link that follows its exchanges (R360). -/
def LinkOp.afterCleanup1 (l : LinkOp) : NodeNext :=
  if l.o2 ≠ 0 ∧ l.o2 ≠ l.q then .more (.link { l with part := .cleanup2, h := 0 })
  else if prPort l.p = 0 ∧ prPort l.q = 0 ∧ l.dup = false then .more (.link { l with part := .push })
  else .done

/-- The part of a link that follows the exchange at P. -/
def LinkOp.afterExchange (l : LinkOp) : NodeNext :=
  if l.o1 ≠ 0 ∧ l.o1 ≠ l.p then .more (.link { l with part := .cleanup1, h := 0 }) else l.afterCleanup1

/-- The part of a link after its last cleanup. -/
def LinkOp.afterCleanup2 (l : LinkOp) : NodeNext :=
  if prPort l.p = 0 ∧ prPort l.q = 0 ∧ l.dup = false then .more (.link { l with part := .push }) else .done

/-- Look-through on P: nothing is cleared. -/
def stepLookThrough (l : LinkOp) : M NodeNext := do
  let s ← get
  let c := s.cur.1
  checkPr l.p true
  let h := s.nword c l.p 0
  if nodeArity h < prPort l.p then raise cSYNC_INVALID l.p
  else if fwdBit h then
    let t := s.slot c l.p
    if t = 0 ∨ l.h = 8 then raise cLINK_CHAIN (l.p + w64 (2 ^ 63))
    else return .more (.link { l with p := t, h := l.h + 1 })
  else return .more (.link { l with part := .qSide, h := 0 })

/-- One pass of the Q side. -/
def stepQ (l : LinkOp) : M NodeNext := do
  let s ← get
  let c := s.cur.1
  match s.prFault c l.q true with
  | some t => linkTrap l t.cause
  | none =>
    let h := s.nword c l.q 0
    if nodeArity h < prPort l.q then linkTrap l cSYNC_INVALID
    else if fwdBit h then
      let t := s.slot c l.q
      if t = 0 ∨ l.h = 8 then linkTrap l cLINK_CHAIN
      else
        set ((s.setSlot c l.q 0).recycle c l.q)
        return .more (.link { l with q := t, h := l.h + 1 })
    else if claimedByOther h s.whoAmI then
      if s.me.rtc then linkTrap l cSYNC_INVALID else return .wait
    else
      set (s.setSlot c l.q l.p)
      return .more (.link { l with part := .pSide, h := 0, o1 := s.slot c l.q })

/-- The P side: through a forwarder that P's node has become, then the exchange. -/
def stepP (l : LinkOp) : M NodeNext := do
  let s ← get
  let c := s.cur.1
  let h := s.nword c l.p 0
  if fwdBit h && decide (s.slot c l.p ≠ 0) && decide (l.h < 8) then
    return .more (.link { l with p := s.slot c l.p, h := l.h + 1 })
  else if l.h ≠ 0 then return .more (.link { l with part := .rewriteQ, h := 0 })
  else if claimedByOther h s.whoAmI then return .wait
  else
    let o2 := s.slot c l.p
    set (s.setSlot c l.p l.q)
    let dup := if l.q.toNat < l.p.toNat then decide (l.o1 = l.p) else decide (o2 = l.q)
    return LinkOp.afterExchange { l with o2 := o2, dup := dup }

/-- One pass of Cleanup(o, v) (R361): the next o, or the end. -/
def cleanupPass (o v : Word) (n : Nat) : M (Option Word) := do
  let s ← get
  let c := s.cur.1
  let t := s.slot c o
  if n < 8 ∧ fwdBit (s.nword c o 0) = true ∧ t ≠ 0 then
    set ((s.setSlot c o 0).recycle c o)
    return if t = v then none else some t
  else return none

/-! ### The churn and its spill ring (R354) -/

/-- Word 0 of an entry: PHASE, COUNTER and PRA. -/
def State.entryWord0 (s : State) (e : ChurnEntry) : Nat :=
  e.phase % 2 ^ 4 * 2 ^ 60 + s.coreId e.counter % 2 ^ 13 * 2 ^ 47 + e.pra.toNat % 2 ^ 35
/-- Word 1 of an entry: PRB. -/
def entryWord1 (e : ChurnEntry) : Nat := e.prb.toNat % 2 ^ 35
/-- The cluster address of a slot of a core's spill ring; RULEBASE.RING, bits 53:32, is 16 KiB-aligned (R353). (DESIGN CHOICE, log 37.) -/
def State.ringSlot (s : State) (o r : Nat) : Nat := (s.core o).rulebase.toNat / 2 ^ 46 % 2 ^ 8 * 2 ^ 14 + 16 * r
/-- Write an entry into a slot of a core's spill ring. -/
def State.writeRing (s : State) (o r : Nat) (e : ChurnEntry) : State :=
  (s.cwrite (clusterOf o) (s.ringSlot o r) 8 (s.entryWord0 e)).cwrite (clusterOf o) (s.ringSlot o r + 8) 8 (entryWord1 e)
/-- Write the ring slots from r on: they hold the entries that are not on chip, the oldest in slot 0. (DESIGN CHOICE, log 37.) -/
def State.spill (s : State) (o r : Nat) : State :=
  let l := (s.core o).churn
  (count r (l.length - Config.churnChip - r)).foldl (fun t i =>
    match l[l.length - 1 - i]? with
    | some e => t.writeRing o i e
    | none => t) s
/-- Put an entry at the head of a core's churn; the oldest of 257 on chip moves to the ring. (DESIGN CHOICE, log 37.) -/
def State.pushChurn (s : State) (o : Nat) (e : ChurnEntry) : State :=
  (s.modCore o fun k => { k with churn := e :: k.churn }).spill o ((s.core o).churn.length - Config.churnChip)
/-- Take the entry at a position of a core's churn: an entry of the ring returns to the chip, or those above it in the ring move down.
(DESIGN CHOICE, log 37.) -/
def State.dropChurn (s : State) (o i : Nat) : State :=
  (s.modCore o fun k => { k with churn := removeAt k.churn i }).spill o ((s.core o).churn.length - 1 - i)

/-- A push (R362, R366): none while the churn of P's owner is full. -/
def State.pushEntry (s : State) (c : Nat) (phase : Nat) (p q : Word) : Option State :=
  match s.prOwner c p with
  | none => some s
  | some o =>
    if Config.churnMax ≤ (s.core o).churn.length then none
    else
      some ((s.pushChurn o { phase := phase, counter := c, pra := p, prb := q }).countUp c phase)

/-- The push of a link. -/
def stepPush (l : LinkOp) : M NodeNext := do
  let s ← get
  match s.pushEntry s.cur.1 s.me.phase.toNat l.p l.q with
  | some t =>
    set t
    return .done
  | none => return .wait

/-- One step of a link. -/
def stepLink (l : LinkOp) : M NodeNext := do
  match l.part with
  | .lookThrough => stepLookThrough l
  | .qSide => stepQ l
  | .pSide => stepP l
  | .rewriteQ =>
    modify fun s => s.setSlot s.cur.1 l.q l.p
    return .more (.link { l with part := .pSide })
  | .cleanup1 =>
    match ← cleanupPass l.o1 l.p l.h with
    | some o => return .more (.link { l with o1 := o, h := l.h + 1 })
    | none => return l.afterCleanup1
  | .cleanup2 =>
    match ← cleanupPass l.o2 l.q l.h with
    | some o => return .more (.link { l with o2 := o, h := l.h + 1 })
    | none => return l.afterCleanup2
  | .push => stepPush l

/-! ### nrun (R364, R365) -/

/-- Read a header and claim its node for the issuing context. -/
def claimNode (pr : Word) : M Word := do
  let s ← get
  let c := s.cur.1
  let h := s.nword c pr 0
  let (id, l) := s.whoAmI
  set (s.setNword c pr 0 (headerWithout h true false ||| w64 (2 ^ 13 + id % 2 ^ 13 * 2 ^ 14 + l % 4 * 2 ^ 27)))
  return h

/-- End the claims of the issuing context on a popped entry. -/
def unclaim (e : ChurnEntry) : M Unit := modify fun s => (s.endClaim s.cur.1 s.cur.2 e.pra).endClaim s.cur.1 s.cur.2 e.prb

/-- The rule entry of a pair of types (R353). -/
def ruleEntry (lo hi : Nat) : M Nat := do
  let s ← get
  let a ← checkLocal (w64 (s.here.rulebase.toNat % 2 ^ 22 + 4 * (64 * lo + hi))) 4 4 false
  scalarLoad a 4

/-- The pop of the entry that the issuing context has taken (R364): the pair it held retires, its older claims and its holds end, the entry leaves
the churn, and PHASE and s20 to s23 are written. -/
def commitPop (e : ChurnEntry) (lo hi hlo hhi : Word) : M Unit := do
  modify fun s =>
    let (c, l) := s.cur
    let s1 := (s.endMarksBut c l [e.pra, e.prb]).retirePair c l
    match findIdxFrom (fun q : ChurnEntry => decide (q.taken = some l)) (s1.core c).churn 0 with
    | some i => s1.dropChurn c i
    | none => s1
  modMe fun x =>
    { ((((x.setSreg 20 lo).setSreg 21 hi).setSreg 22 (plainHeader hlo)).setSreg 23 (plainHeader hhi)) with
      popped := some { e with taken := none }
      phase := BitVec.ofNat 4 e.phase
      poisoned := Map.del (Map.del (Map.del (Map.del x.poisoned 20) 21) 22) 23 }

/-- The end of nrun once both headers are read: the rule entry, the pop, then the transfer or NO_RULE (R364, R365). A trap of the read, or of a
target that is not valid, comes before every effect (R9). (DEDUCED, log 40.) -/
def enterRule (e : ChurnEntry) (h1 h2 : Word) : M NodeNext := do
  let first := decide (nodeType h1 ≤ nodeType h2)
  let (lo, hi) := if first then (e.pra, e.prb) else (e.prb, e.pra)
  let (hlo, hhi) := if first then (h1, h2) else (h2, h1)
  let x ← ruleEntry (nodeType hlo) (nodeType hhi)
  let fwd := fwdBit h1 || fwdBit h2
  if fwd || !x.testBit 31 then
    commitPop e lo hi hlo hhi
    unclaim e
    throw (.trapKeep
      { cause := cNO_RULE, val := w64 (64 * nodeType hlo + nodeType hhi + (if fwd then 2 ^ 12 else 0)) })
  else
    let a ← checkTarget (x % 2 ^ 22 : Nat)
    commitPop e lo hi hlo hhi
    return .goto a

/-- An nrun that traps before its pop leaves nothing behind (R9): the claim that its first step made gives way to the header's former one, and the
entry is in the churn as before. (DEDUCED, log 40.) -/
def State.undoPop (s : State) (o : NodeOp) : State :=
  match o with
  | .nrun e first =>
    let s1 := match first with
      | some h => s.setNword s.cur.1 e.pra 0 ((s.nword s.cur.1 e.pra 0 &&& ~~~w64 0x1FFFE000) ||| (h &&& w64 0x1FFFE000))
      | none => s
    s1.modCore s.cur.1 fun k => k.giveBack s.cur.2
  | _ => s

/-- A header read of nrun. -/
def stepNrun (e : ChurnEntry) (first : Option Word) : M NodeNext := do
  match first with
  | none => return .more (.nrun e (some (← claimNode e.pra)))
  | some h1 => enterRule e h1 (← claimNode e.prb)

/-- One node step. -/
def nodeStep : NodeOp → M NodeNext
  | .nld d pr w => stepNld d pr w
  | .nst pr w v => stepNst pr w v
  | .nfree pr t0 t1 t2 => stepNfree pr t0 t1 t2
  | .link l => stepLink l
  | .nrun e first => stepNrun e first

/-- Whether the issuing core owns the node of the next step, or the reference reaches none (R349). -/
def State.stepIsLocal (s : State) (o : NodeOp) : Bool :=
  match s.prOwner s.cur.1 o.at with
  | some k => decide (k = s.cur.1)
  | none => true

/-- Perform the steps of a node instruction that the issuing core owns; the others are events at their owners. -/
def runNode (sc : BitVec 3) : Nat → NodeOp → M Flow
  | 0, o => leaveOp sc (.node o)
  | n + 1, o => do
    if (← get).stepIsLocal o then
      match ← nodeStep o with
      | .done => return .seq
      | .goto t => return .goto t
      | .more o' => runNode sc n o'
      | .wait => leaveOp sc (.node o)
    else leaveOp sc (.node o)

/-- Steps of one node instruction at most (R360, R361). -/
def nodeFuel : Nat := 64

/-- nfree (R358): its targets are read up to the node's ARITY, then checked, before any step. (DEDUCED, log 39.) -/
def execNfree (a b : BitVec 5) (sc : BitVec 3) (s : State) : Outcome :=
  instrJ sc (do
    let pr ← readS a
    checkPr pr false
    let n := nodeArity ((← get).nword s.cur.1 pr 0)
    let target (k : Nat) : M Word := do
      if b.toNat = 0 ∨ n < k then return 0
      else readS (b + BitVec.ofNat 5 k)
    let check (t : Word) : M Unit := if t = 0 then pure () else checkPr t true
    let t0 ← target 0
    let t1 ← target 1
    let t2 ← target 2
    check t0
    check t1
    check t2
    releasePoint
    runNode sc nodeFuel (.nfree pr t0 t1 t2)) s

/-- nld (R359). -/
def execNld (d a : BitVec 5) (w : BitVec 2) (sc : BitVec 3) (s : State) : Outcome :=
  instrJ sc (do
    claimDest d
    let pr ← readS a
    checkPr pr false
    releasePoint
    runNode sc nodeFuel (.nld d.toNat pr w.toNat)) s

/-- nst (R359). -/
def execNst (d a : BitVec 5) (w : BitVec 2) (sc : BitVec 3) (s : State) : Outcome :=
  instrJ sc (do
    let pr ← readS a
    let v ← readS d
    checkPr pr false
    if w = 0 ∧ fwdBit v then raise cSYNC_INVALID pr
    else
      releasePoint
      runNode sc nodeFuel (.nst pr w.toNat v)) s

/-- link (R360). -/
def execLink (a b : BitVec 5) (sc : BitVec 3) (s : State) : Outcome :=
  instrJ sc (do
    let p ← readS a
    let q ← readS b
    checkPr p true
    checkPr q true
    releasePoint
    runNode sc nodeFuel (.link { p := p, q := q, b := b.toNat })) s

/-- Whether a node is HELD by a context, one context apart (R352). -/
def State.heldByOther (s : State) (c : Nat) (pr : Word) (mine : Option Nat) : Bool :=
  let h := s.nword c pr 0
  heldBit h && !(decide (s.prOwner c pr = some c) && decide (mine = some (h.toNat / 2 ^ 30 % 4)))

/-- The position of the next entry of a core's churn (R354): the most recent that no unfinished nrun has taken and whose nodes are HELD by no
other context; with no context named, by none at all (R367). -/
def State.nextEntry (s : State) (c : Nat) (mine : Option Nat) : Option Nat :=
  findIdxFrom (fun e => decide (e.taken = none) && !s.heldByOther c e.pra mine && !s.heldByOther c e.prb mine) (s.core c).churn 0

/-- nrun (R364): the entry it takes stays in the churn, marked, until both headers and the rule entry are read. -/
def execNrun (sc : BitVec 3) (s : State) : Outcome :=
  instrJ sc (do
    if s.me.rtc then raise cSYNC_INVALID 0
    else
      writeReady (.scalar 20)
      writeReady (.scalar 21)
      writeReady (.scalar 22)
      writeReady (.scalar 23)
      releasePoint
      match (s.nextEntry s.cur.1 (some s.cur.2)).bind fun i => (s.here.churn[i]?).map fun e => (i, e) with
      | none =>
        modify fun t => (t.endMarks s.cur.1 s.cur.2).retirePair s.cur.1 s.cur.2
        writeS 20 (if s.here.closed.getLsbD s.me.phase.toNat then 1 else 0)
        return .seq
      | some (i, e) =>
        modHere fun k => { k with churn := k.churn.set i { e with taken := some s.cur.2 } }
        runNode sc nodeFuel (.nrun e none)) s

/-- npush (R366): a full churn makes it wait, or SYNC_INVALID in an RTC routine (R350). -/
def execNpush (a b : BitVec 5) (sc : BitVec 3) (s : State) : Outcome :=
  instr sc (do
    let p ← readS a
    let q ← readS b
    checkPr p true
    checkPr q true
    if prPort p ≠ 0 then raise cSYNC_INVALID p
    else if prPort q ≠ 0 then raise cSYNC_INVALID q
    else
      let c := s.cur.1
      if Config.churnMax ≤ s.here.churn.length then
        if s.me.rtc then raise cSYNC_INVALID p else throw .stall
      else
        modify fun t => (t.pushChurn c { phase := s.me.phase.toNat, counter := c, pra := p, prb := q }).countUp c s.me.phase.toNat) s

/-! ### Migration and balancing (R367 to R369) -/

/-- The header of a migrated node. -/
def migratedHeader (h : Word) : Word := (plainHeader h) ||| w64 ((nodeMigr h + 1) % 4 * 2 ^ 11)

/-- One node of a migrating entry: its copy, then its forwarder (R367 step 2). (DESIGN CHOICE, log 38.) -/
def State.moveNode (s : State) (c : Nat) (old new other : Word) : State :=
  let h := s.nword c old 0
  let aux (p : Nat) : Word := if p ≤ nodeArity h then s.nword c old (p + 1) else 0
  let s1 := (((s.setNword c new 0 (migratedHeader h)).setNword c new 1 other).setNword c new 2 (aux 1)).setNword c new 3 (aux 2)
  let fwd (p : Nat) : Word := if aux p = 0 then 0 else new + w64 p
  let s2 := (((s1.setNword c old 0 (h ||| w64 256)).setNword c old 1 0).setNword c old 2 (fwd 1)).setNword c old 3 (fwd 2)
  s2.recycle c old

/-- Whether a node lets its pair migrate: MIGR below 3, no tile agent (R367, R370). -/
def mayMigrate (h : Word) : Bool := decide (nodeMigr h ≠ 3) && decide (nodeType h < 48)

/-- A migration of the entry of R367 from a core to a receiver, if its conditions hold. (DESIGN CHOICE, log 38.) -/
def State.migrate (s : State) (c to_ : Nat) : Option State :=
  match s.nextEntry c none with
  | none => none
  | some i =>
    match (s.core c).churn[i]? with
    | none => none
    | some e =>
      if !mayMigrate (s.nword c e.pra 0) || !mayMigrate (s.nword c e.prb 0) || decide ((s.core to_).freeLen < 2)
          || decide (Config.churnMax ≤ (s.core to_).churn.length) then none
      else
        match s.popFree to_ with
        | none => none
        | some (a1, s1) =>
          match s1.popFree to_ with
          | none => none
          | some (a2, s2) =>
            let n1 := makePr (s.coreId to_) a1
            let n2 := makePr (s.coreId to_) a2
            let s3 := (s2.moveNode c e.pra n1 n2).moveNode c e.prb n2 n1
            some ((s3.dropChurn c i).pushChurn to_ { e with pra := n1, prb := n2 })

/-- The neighbour of a core within its gang in a direction. -/
def State.gangNeighbour (s : State) (c dir : Nat) : Option Nat :=
  match neighbour c dir, s.gangOf c with
  | some n, some g => if g.holds n then some n else none
  | _, _ => none

/-- The neighbour with the smallest depth, ties in the order N, E, S, W (R369). -/
def State.shallowest (s : State) (c : Nat) : Option Nat :=
  [0, 1, 2, 3].foldl (fun best dir =>
    match s.gangNeighbour c dir, best with
    | none, _ => best
    | some n, none => some n
    | some n, some b => if (s.core n).churn.length < (s.core b).churn.length then some n else some b) none

/-- A balancing exchange of a core (R369): the receiver and the state, when an entry migrates. -/
def State.exchange (s : State) (c : Nat) : Option (Nat × State) :=
  match s.shallowest c with
  | none => none
  | some n =>
    if (s.core n).churn.length + (s.core c).balThreshold < (s.core c).churn.length then (s.migrate c n).map fun t => (n, t) else none

/-- nmove (R368); no pair migrates once a pre-emption request has reached the core (R372). -/
def execNmove (d a : BitVec 5) (sc : BitVec 3) (s : State) : Outcome :=
  instr sc (do
    claimDest d
    let x ← readS a
    let t ← get
    let id := x.toNat % 2 ^ 13
    match (t.gangOf s.cur.1).bind fun g => g.toPhys id with
    | none => raiseTree cTREE_PROT 0 (w64 id)
    | some k =>
      if k = s.cur.1 then raise cSYNC_INVALID x
      else
        releasePoint
        match (if t.here.halting.isSome then none else t.migrate s.cur.1 k) with
        | some u =>
          set u
          let _ ← deferS d (w64 id) 0
          pure ()
        | none =>
          let _ ← deferS d (BitVec.allOnes 64) 0
          pure ()) s

/-- nbal (R369, R372). -/
def execNbal (d : BitVec 5) (sc : BitVec 3) (s : State) : Outcome :=
  instr sc (do
    claimDest d
    releasePoint
    match (if s.here.halting.isSome then none else s.exchange s.cur.1) with
    | some (n, t) =>
      set t
      let _ ← deferS d (w64 (s.coreId n)) 0
      pure ()
    | none =>
      let _ ← deferS d (BitVec.allOnes 64) 0
      pure ()) s

/-- AUTO_BALANCE (R369, R372): due every INTERVAL cycles; none once a pre-emption request or a stop has reached the core. -/
def execAutoBalance (core : Nat) (s : State) : Outcome :=
  happen s (
    let k := s.core core
    match k.balNext with
    | none => none
    | some n =>
      if n ≤ k.cycle ∧ k.halting = none ∧ k.stop = none ∧ s.counting core = true then
        let s1 := match s.exchange core with
          | some (_, t) => t
          | none => s
        some (s1.modCore core fun y => { y with balNext := some (n + y.balInterval) })
      else none)

/-! ### Steps at other owners -/

/-- Perform the next step of an unfinished node instruction of a context; none when it waits. A link that comes to wait on a claim under a
pre-emption stops there; one that a restart has left completes beneath the IDLE context (R363). (DEDUCED, log 40.) -/
def State.stepAt (s : State) (c l : Nat) (o : NodeOp) : Option State :=
  let s0 := { s with cur := (c, l) }
  match nodeStep o s0 with
  | .ok .done t =>
    some { (if (t.ctx c l).st = .idle then t.modCtx c l (fun x => { x with op := .none }) else t.finishWait c l) with cur := s.cur }
  | .ok (.goto a) t => some { t.jumpTo c l a 0 with cur := s.cur }
  | .ok (.more o') t => some { t.modCtx c l (fun x => { x with op := .node o' }) with cur := s.cur }
  | .ok .wait _ => if !(s.core c).mayIssue l && s.claimWait c l then some (s.stopLink c l) else none
  | .error (.trap t) _ => some { (s0.undoPop o).afterTrap t with cur := s.cur }
  | .error (.trapKeep t) u => some { u.afterTrap t true with cur := s.cur }
  | .error _ _ => none

/-- Whether the owner's system sequencer has an entry for a step that another core sends it (R28). (DEDUCED, log 91.) -/
def State.stepRoom (s : State) (c : Nat) (o : NodeOp) : Bool :=
  match s.prOwner c o.at with
  | some k => decide (k = c) || (s.core k).sysqRoom
  | none => true

/-- Whether a node operation is a link's push. -/
def NodeOp.isPush : NodeOp → Bool
  | .link l => decide (l.part = .push)
  | _ => false

/-- NODE_STEP (R349): the next read, write or exchange of an unfinished node instruction. -/
def execNodeStep (core level : Nat) (s : State) : Outcome :=
  happen s (
    match (s.ctx core level).op with
    | .node o => if o.isPush || !s.stepRoom core o then none else s.stepAt core level o
    | _ => none)

/-- CHURN_PUSH (R362): the push of a link enters the churn of P's owner once it has room. -/
def execChurnPush (core level : Nat) (s : State) : Outcome :=
  happen s (
    match (s.ctx core level).op with
    | .node o => if o.isPush && s.stepRoom core o then s.stepAt core level o else none
    | _ => none)

end Sys2Proof.Machine
end

