-- ==== Sys2Proof/Machine/Vector.lean ====
section
/-! DEFINITION. Vector and predicate instructions: majors 0x20 to 0x2A (R267 to R284). -/
namespace Sys2Proof.Machine

/-! ### Tags and elements (R267, R268) -/

/-- Class F: FP32, FP16, BF16, E4M3 and E5M2. -/
def Tag.inF : Tag → Bool
  | .fp32 | .fp16 | .bf16 | .e4m3 | .e5m2 => true
  | _ => false

/-- Class I: INT8, INT16, INT32 and INT64. -/
def Tag.inI : Tag → Bool
  | .int8 | .int16 | .int32 | .int64 => true
  | _ => false

/-- The format of a tag of class F. -/
def Tag.fmtF (t : Tag) : Fmt := t.fmt.getD fmtFp32

/-- First byte of element e of width w: b0(e). -/
def firstByte (w e : Nat) : Nat := e * w / 8

/-- Whether element e is active (R267). -/
def activeAt (vl : Nat) (p : BitVec 256) (w e : Nat) : Bool := decide (firstByte w e < vl) && predBit p (firstByte w e)

/-- A register of n elements of width w: f at the elements that a test keeps, the old ones elsewhere. -/
def mapElems (w n old : Nat) (keep : Nat → Bool) (f : Nat → Nat) : Nat :=
  packLanes w ((count 0 n).map fun e => if keep e then f e else lane old w e)

/-- A register written element by element under a predicate, with its tag. -/
def writeElems (d : BitVec 5) (p : BitVec 256) (w : Nat) (f : Nat → Nat) (old : BitVec 2048) (t : Tag) (lat : Nat) : M Unit := do
  let vl := (← get).me.vl
  writeVL d { val := BitVec.ofNat 2048 (mapElems w (2048 / w) old.toNat (activeAt vl p w) f), tag := t } lat

/-- Latency of an element-wise operation by tag (R62). (DEDUCED, log 17.) -/
def elemLatency (t : Tag) : Nat := if t.isFloat then 4 else 2

/-- Two vector sources with one tag that an instruction accepts; POISON before FORMAT (R72). -/
def twoVectors (ok : Tag → Bool) (a b : BitVec 5) : M (VReg × VReg) := do
  let x ← readV a
  let y ← readV b
  notPoison x.tag
  notPoison y.tag
  if x.tag = y.tag ∧ ok x.tag then return (x, y) else raiseFormat x.tag.code y.tag.code

/-- One vector source with a tag that an instruction accepts. -/
def oneVector (ok : Tag → Bool) (a : BitVec 5) : M VReg := do
  let x ← readV a
  notPoison x.tag
  if ok x.tag then return x else raiseFormat x.tag.code 0

/-! ### Element-wise arithmetic (R270) -/

/-- A function on element codes: tag, rounding mode, x, y, c. -/
abbrev ElemFn := Tag → RoundMode → Nat → Nat → Nat → Nat

/-- An element result: a floating-point value rounded once (R256), or an integer wrapped, saturated signed or saturated unsigned. -/
def elemResult (sat : Bool) (ff : RoundMode → Fp → Fp → Fp → Fp) (fi : Int → Int → Int → Int) : ElemFn :=
  fun t mode x y c =>
    if t.inF then encodeFp (ff mode (valueOf t.fmtF x) (valueOf t.fmtF y) (valueOf t.fmtF c)) t.fmtF mode sat
    else
      let w := t.width
      let r := fi (signedOf w x) (signedOf w y) (signedOf w c)
      if sat then wrap (satS r w) w else wrap r w

/-- x + y. -/
def elemAdd (sat : Bool) : ElemFn := elemResult sat (fun m x y _ => fpAdd x y m) (fun x y _ => x + y)
/-- x − y. -/
def elemSub (sat : Bool) : ElemFn := elemResult sat (fun m x y _ => fpAdd x y.neg m) (fun x y _ => x - y)
/-- x × y. -/
def elemMul (sat : Bool) : ElemFn := elemResult sat (fun _ x y _ => fpMul x y) (fun x y _ => x * y)
/-- x × y + c, rounded once. -/
def elemFma (sat : Bool) : ElemFn := elemResult sat (fun m x y c => fpAdd (fpMul x y) c m) (fun x y c => x * y + c)
/-- c − x × y, rounded once. -/
def elemFms : ElemFn := elemResult false (fun m x y c => fpAdd c (fpMul x y).neg m) (fun x y c => c - x * y)
/-- x / y: integers as R88, signed. -/
def elemDiv : ElemFn := elemResult false (fun _ x y _ => fpDiv x y) (fun x y _ => if y = 0 then -1 else x.tdiv y)
/-- The square root of x. -/
def elemSqrt : ElemFn := elemResult false (fun _ x _ _ => fpSqrt x) (fun x _ _ => x)
/-- Unsigned sum, saturated. -/
def elemAddN : ElemFn := fun t _ x y _ => wrap (satU (x + y : Nat) t.width) t.width
/-- Unsigned difference, saturated. -/
def elemSubN : ElemFn := fun t _ x y _ => wrap (satU ((x : Int) - (y : Int)) t.width) t.width

/-- Tags of classes F and I. -/
def Tag.inFI (t : Tag) : Bool := t.inF || t.inI

/-- A two-source element-wise instruction of majors 0x20 to 0x24. -/
def elemOp2 (ok : Tag → Bool) (f : ElemFn) (lat : Tag → Nat) (mode : RoundMode) (p : BitVec 3) (d a b : BitVec 5) : M Unit := do
  let pr ← readP p.toNat
  let (x, y) ← twoVectors ok a b
  let old ← oldV d
  let w := x.tag.width
  writeElems d pr w (fun e => f x.tag mode (lane x.val.toNat w e) (lane y.val.toNat w e) 0) old x.tag (lat x.tag)

/-- A three-source one, which reads d as well. -/
def elemOp3 (f : ElemFn) (mode : RoundMode) (p : BitVec 3) (d a b : BitVec 5) : M Unit := do
  let pr ← readP p.toNat
  let x ← readV a
  let y ← readV b
  let c ← readV d
  notPoison x.tag
  notPoison y.tag
  notPoison c.tag
  if x.tag = y.tag ∧ x.tag = c.tag ∧ x.tag.inFI then
    let w := x.tag.width
    writeElems d pr w (fun e => f x.tag mode (lane x.val.toNat w e) (lane y.val.toNat w e) (lane c.val.toNat w e)) c.val x.tag
      (elemLatency x.tag)
  else raiseFormat x.tag.code y.tag.code

/-- A one-source one. -/
def elemOp1 (ok : Tag → Bool) (f : ElemFn) (lat : Tag → Nat) (mode : RoundMode) (p : BitVec 3) (d a : BitVec 5) : M Unit := do
  let pr ← readP p.toNat
  let x ← oneVector ok a
  let old ← oldV d
  let w := x.tag.width
  writeElems d pr w (fun e => f x.tag mode (lane x.val.toNat w e) 0 0) old x.tag (lat x.tag)

/-- vadd (R270). -/
def execVadd (p : BitVec 3) (d a b : BitVec 5) (m : BitVec 2) (sc : BitVec 3) (s : State) : Outcome :=
  instr sc (elemOp2 Tag.inFI (elemAdd false) elemLatency (.ofCode m.toNat) p d a b) s
/-- vsub (R270). -/
def execVsub (p : BitVec 3) (d a b : BitVec 5) (m : BitVec 2) (sc : BitVec 3) (s : State) : Outcome :=
  instr sc (elemOp2 Tag.inFI (elemSub false) elemLatency (.ofCode m.toNat) p d a b) s
/-- vmul (R270). -/
def execVmul (p : BitVec 3) (d a b : BitVec 5) (m : BitVec 2) (sc : BitVec 3) (s : State) : Outcome :=
  instr sc (elemOp2 Tag.inFI (elemMul false) elemLatency (.ofCode m.toNat) p d a b) s
/-- vfma (R270). -/
def execVfma (p : BitVec 3) (d a b : BitVec 5) (m : BitVec 2) (sc : BitVec 3) (s : State) : Outcome :=
  instr sc (elemOp3 (elemFma false) (.ofCode m.toNat) p d a b) s
/-- vfms (R270). -/
def execVfms (p : BitVec 3) (d a b : BitVec 5) (m : BitVec 2) (sc : BitVec 3) (s : State) : Outcome :=
  instr sc (elemOp3 elemFms (.ofCode m.toNat) p d a b) s
/-- vdiv (R270). -/
def execVdiv (p : BitVec 3) (d a b : BitVec 5) (m : BitVec 2) (sc : BitVec 3) (s : State) : Outcome :=
  instr sc (elemOp2 Tag.inFI elemDiv (fun _ => 16) (.ofCode m.toNat) p d a b) s
/-- vsqrt (R270): F tags. -/
def execVsqrt (p : BitVec 3) (d a : BitVec 5) (m : BitVec 2) (sc : BitVec 3) (s : State) : Outcome :=
  instr sc (elemOp1 Tag.inF elemSqrt (fun _ => 16) (.ofCode m.toNat) p d a) s
/-- vadd.sat (R270). -/
def execVaddSat (p : BitVec 3) (d a b : BitVec 5) (m : BitVec 2) (sc : BitVec 3) (s : State) : Outcome :=
  instr sc (elemOp2 Tag.inFI (elemAdd true) elemLatency (.ofCode m.toNat) p d a b) s
/-- vsub.sat (R270). -/
def execVsubSat (p : BitVec 3) (d a b : BitVec 5) (m : BitVec 2) (sc : BitVec 3) (s : State) : Outcome :=
  instr sc (elemOp2 Tag.inFI (elemSub true) elemLatency (.ofCode m.toNat) p d a b) s
/-- vmul.sat (R270). -/
def execVmulSat (p : BitVec 3) (d a b : BitVec 5) (m : BitVec 2) (sc : BitVec 3) (s : State) : Outcome :=
  instr sc (elemOp2 Tag.inFI (elemMul true) elemLatency (.ofCode m.toNat) p d a b) s
/-- vfma.sat (R270). -/
def execVfmaSat (p : BitVec 3) (d a b : BitVec 5) (m : BitVec 2) (sc : BitVec 3) (s : State) : Outcome :=
  instr sc (elemOp3 (elemFma true) (.ofCode m.toNat) p d a b) s
/-- vadd.n.sat (R270): I tags. -/
def execVaddNSat (p : BitVec 3) (d a b : BitVec 5) (m : BitVec 2) (sc : BitVec 3) (s : State) : Outcome :=
  instr sc (elemOp2 Tag.inI elemAddN elemLatency (.ofCode m.toNat) p d a b) s
/-- vsub.n.sat (R270): I tags. -/
def execVsubNSat (p : BitVec 3) (d a b : BitVec 5) (m : BitVec 2) (sc : BitVec 3) (s : State) : Outcome :=
  instr sc (elemOp2 Tag.inI elemSubN elemLatency (.ofCode m.toNat) p d a b) s

/-! ### Minimum, maximum, logic, moves and tags (R271, R272) -/

/-- Smaller or larger of two elements. -/
def elemPick (ff : Fp → Fp → Fp) (fi : Int → Int → Int) : ElemFn := elemResult false (fun _ x y _ => ff x y) (fun x y _ => fi x y)
/-- |x|: a NaN gives the canonical NaN. -/
def elemAbs : ElemFn := elemResult false (fun _ x _ _ => x.abs) (fun x _ _ => (x.natAbs : Int))
/-- −x. -/
def elemNeg : ElemFn := elemResult false (fun _ x _ _ => x.neg) (fun x _ _ => -x)

/-- Tags that logic and shifts accept: I, INT4, RAW. -/
def Tag.inLogic (t : Tag) : Bool := t.inI || decide (t = .int4) || decide (t = .raw)

/-- Arithmetic right shift of a code of width w. -/
def shiftSigned (w x y : Nat) : Nat := wrap (signedOf w x / (2 ^ min y w : Nat)) w

/-- vmin (R271). -/
def execVmin (p : BitVec 3) (d a b : BitVec 5) (sc : BitVec 3) (s : State) : Outcome :=
  instr sc (elemOp2 Tag.inFI (elemPick fMin min) elemLatency .rne p d a b) s
/-- vmax (R271). -/
def execVmax (p : BitVec 3) (d a b : BitVec 5) (sc : BitVec 3) (s : State) : Outcome :=
  instr sc (elemOp2 Tag.inFI (elemPick fMax max) elemLatency .rne p d a b) s
/-- vmin.n (R271). -/
def execVminN (p : BitVec 3) (d a b : BitVec 5) (sc : BitVec 3) (s : State) : Outcome :=
  instr sc (elemOp2 Tag.inI (fun _ _ x y _ => min x y) elemLatency .rne p d a b) s
/-- vmax.n (R271). -/
def execVmaxN (p : BitVec 3) (d a b : BitVec 5) (sc : BitVec 3) (s : State) : Outcome :=
  instr sc (elemOp2 Tag.inI (fun _ _ x y _ => max x y) elemLatency .rne p d a b) s
/-- vabs (R271). -/
def execVabs (p : BitVec 3) (d a : BitVec 5) (sc : BitVec 3) (s : State) : Outcome :=
  instr sc (elemOp1 Tag.inFI elemAbs elemLatency .rne p d a) s
/-- vneg (R271). -/
def execVneg (p : BitVec 3) (d a : BitVec 5) (sc : BitVec 3) (s : State) : Outcome :=
  instr sc (elemOp1 Tag.inFI elemNeg elemLatency .rne p d a) s
/-- vand (R271). -/
def execVand (p : BitVec 3) (d a b : BitVec 5) (sc : BitVec 3) (s : State) : Outcome :=
  instr sc (elemOp2 Tag.inLogic (fun _ _ x y _ => x &&& y) elemLatency .rne p d a b) s
/-- vor (R271). -/
def execVor (p : BitVec 3) (d a b : BitVec 5) (sc : BitVec 3) (s : State) : Outcome :=
  instr sc (elemOp2 Tag.inLogic (fun _ _ x y _ => x ||| y) elemLatency .rne p d a b) s
/-- vxor (R271). -/
def execVxor (p : BitVec 3) (d a b : BitVec 5) (sc : BitVec 3) (s : State) : Outcome :=
  instr sc (elemOp2 Tag.inLogic (fun _ _ x y _ => x ^^^ y) elemLatency .rne p d a b) s
/-- vshl (R271): a count of the width or more gives 0. -/
def execVshl (p : BitVec 3) (d a b : BitVec 5) (sc : BitVec 3) (s : State) : Outcome :=
  instr sc (elemOp2 Tag.inLogic (fun t _ x y _ => if y < t.width then x * 2 ^ y % 2 ^ t.width else 0) elemLatency .rne p d a b) s
/-- vshr (R271). -/
def execVshr (p : BitVec 3) (d a b : BitVec 5) (sc : BitVec 3) (s : State) : Outcome :=
  instr sc (elemOp2 Tag.inLogic (fun t _ x y _ => if y < t.width then x / 2 ^ y else 0) elemLatency .rne p d a b) s
/-- vsra (R271): a count of the width or more gives copies of the sign bit. -/
def execVsra (p : BitVec 3) (d a b : BitVec 5) (sc : BitVec 3) (s : State) : Outcome :=
  instr sc (elemOp2 Tag.inLogic (fun t _ x y _ => shiftSigned t.width x y) elemLatency .rne p d a b) s

/-- vmov (R271): it carries POISON (R268). -/
def execVmov (p : BitVec 3) (d a : BitVec 5) (sc : BitVec 3) (s : State) : Outcome :=
  instr sc (do
    let pr ← readP p.toNat
    let x ← readV a
    let old ← oldV d
    let w := x.tag.width
    writeElems d pr w (fun e => lane x.val.toNat w e) old x.tag (elemLatency x.tag)) s

/-- vtag (R272): all 256 bytes, whatever VL; only from RAW. -/
def execVtag (d a t : BitVec 5) (sc : BitVec 3) (s : State) : Outcome :=
  instr sc (do
    let x ← oneVector (fun k => decide (k = .raw)) a
    writeVL d { val := x.val, tag := Tag.ofCode t.toNat } 2) s

/-- vbcast (R272). -/
def execVbcast (p : BitVec 3) (d a t : BitVec 5) (sc : BitVec 3) (s : State) : Outcome :=
  instr sc (do
    let pr ← readP p.toNat
    let x ← readS a
    let old ← oldV d
    let k := Tag.ofCode t.toNat
    writeElems d pr k.width (fun _ => x.toNat % 2 ^ k.width) old k 3) s

/-! ### Comparison (R273) -/

/-- Relations of vcmp. -/
inductive VRel where
  | eq | ne | lt | ge | le | gt | un | ord | ltN | geN | leN | gtN
deriving DecidableEq, Repr

/-- The tags a relation accepts. -/
def VRel.accepts (r : VRel) (t : Tag) : Bool :=
  match r with
  | .un | .ord => t.inF
  | .ltN | .geN | .leN | .gtN => t.inI
  | _ => t.inFI

/-- A relation on floating-point values (R257). -/
def VRel.onFp (r : VRel) (x y : Fp) : Bool :=
  match r with
  | .eq => fpEq x y
  | .ne => !fpEq x y
  | .lt => fpLt x y
  | .ge => fpLt y x || fpEq x y
  | .le => fpLt x y || fpEq x y
  | .gt => fpLt y x
  | .un => fpUn x y
  | _ => !fpUn x y

/-- A relation on integer codes of width w. -/
def VRel.onInt (r : VRel) (w x y : Nat) : Bool :=
  match r with
  | .eq => decide (x = y)
  | .ne => decide (x ≠ y)
  | .lt => decide (signedOf w x < signedOf w y)
  | .ge => decide (signedOf w y ≤ signedOf w x)
  | .le => decide (signedOf w x ≤ signedOf w y)
  | .gt => decide (signedOf w y < signedOf w x)
  | .ltN => decide (x < y)
  | .geN => decide (y ≤ x)
  | .leN => decide (x ≤ y)
  | _ => decide (y < x)

/-- The bits of the first bytes of the elements that a test keeps. -/
def firstBits (w : Nat) (keep : Nat → Bool) : Nat → Nat
  | 0 => 0
  | n + 1 => firstBits w keep n + (if keep n then 2 ^ firstByte w n else 0)

/-- vcmp: the first byte's bit of each active element for which the relation holds; every other bit is 0. -/
def compare (r : VRel) (p : BitVec 3) (d a b : BitVec 5) : M Unit := do
  let pr ← readP p.toNat
  let (x, y) ← twoVectors r.accepts a b
  let vl := (← get).me.vl
  let w := x.tag.width
  let holds := fun e =>
    let u := lane x.val.toNat w e
    let v := lane y.val.toNat w e
    if x.tag.inF then r.onFp (valueOf x.tag.fmtF u) (valueOf x.tag.fmtF v) else r.onInt w u v
  writeP d.toNat (BitVec.ofNat 256 (firstBits w (fun e => activeAt vl pr w e && holds e) (2048 / w)))

/-- vcmp.eq (R273). -/
def execVcmpEq (p : BitVec 3) (d a b : BitVec 5) (sc : BitVec 3) (s : State) : Outcome := instr sc (compare .eq p d a b) s
/-- vcmp.ne. -/
def execVcmpNe (p : BitVec 3) (d a b : BitVec 5) (sc : BitVec 3) (s : State) : Outcome := instr sc (compare .ne p d a b) s
/-- vcmp.lt. -/
def execVcmpLt (p : BitVec 3) (d a b : BitVec 5) (sc : BitVec 3) (s : State) : Outcome := instr sc (compare .lt p d a b) s
/-- vcmp.ge. -/
def execVcmpGe (p : BitVec 3) (d a b : BitVec 5) (sc : BitVec 3) (s : State) : Outcome := instr sc (compare .ge p d a b) s
/-- vcmp.le. -/
def execVcmpLe (p : BitVec 3) (d a b : BitVec 5) (sc : BitVec 3) (s : State) : Outcome := instr sc (compare .le p d a b) s
/-- vcmp.gt. -/
def execVcmpGt (p : BitVec 3) (d a b : BitVec 5) (sc : BitVec 3) (s : State) : Outcome := instr sc (compare .gt p d a b) s
/-- vcmp.un. -/
def execVcmpUn (p : BitVec 3) (d a b : BitVec 5) (sc : BitVec 3) (s : State) : Outcome := instr sc (compare .un p d a b) s
/-- vcmp.ord. -/
def execVcmpOrd (p : BitVec 3) (d a b : BitVec 5) (sc : BitVec 3) (s : State) : Outcome := instr sc (compare .ord p d a b) s
/-- vcmp.lt.n. -/
def execVcmpLtN (p : BitVec 3) (d a b : BitVec 5) (sc : BitVec 3) (s : State) : Outcome := instr sc (compare .ltN p d a b) s
/-- vcmp.ge.n. -/
def execVcmpGeN (p : BitVec 3) (d a b : BitVec 5) (sc : BitVec 3) (s : State) : Outcome := instr sc (compare .geN p d a b) s
/-- vcmp.le.n. -/
def execVcmpLeN (p : BitVec 3) (d a b : BitVec 5) (sc : BitVec 3) (s : State) : Outcome := instr sc (compare .leN p d a b) s
/-- vcmp.gt.n. -/
def execVcmpGtN (p : BitVec 3) (d a b : BitVec 5) (sc : BitVec 3) (s : State) : Outcome := instr sc (compare .gtN p d a b) s

/-! ### Conversion (R274, R275) -/

/-- Whether a tag takes scales from a register pair (R275). -/
def Tag.scaled (t : Tag) : Bool := decide (t = .mx4) || decide (t = .ds8)

/-- The scale register v(a+1) of an MX4 or DS8 source as it is read (R269, R275, R281); any other source has none. -/
def scaleSource (t : Tag) (a : BitVec 5) : M VReg := do
  if t.scaled && decide (a.toNat < 27) then readV (a + 1) else return { tag := .e8m0 }

/-- The scales of a source from its scale register: FORMAT unless v(a+1) exists and is tagged E8M0. TRAPVAL bits 7:4 hold the tag of
v(a+1), or `second` where there is none. (DEDUCED, log 80.) -/
def scaleRegister (t : Tag) (a : BitVec 5) (q : VReg) (second : Nat) : M Nat := do
  if t.scaled && decide (27 ≤ a.toNat) then raiseFormat t.code second
  else if q.tag = .e8m0 then return q.val.toNat
  else raiseFormat t.code q.tag.code

/-- The value of element e of a source, scaled for MX4 and DS8. -/
def scaledValue (t : Tag) (x scales e : Nat) : Fp :=
  let v := tagValue t (lane x t.width e)
  if t.scaled then fpMul v (scaleValue (lane scales 8 (e / 16))) else v

/-- One converted code. A conversion to the source's own format canonicalises NaN and changes nothing else (R274). (DEDUCED, log 18.) -/
def convertCode (src dst : Tag) (c : Nat) (v : Fp) (mode : RoundMode) (sat : Bool) : Nat :=
  if src.scaled then (if dst.isInt then fpToInt v dst.width mode else toFloatTag v dst mode sat)
  else if src = dst ∧ src.isFloat then (if v = .nan then toFloatTag .nan dst .rne false else c)
  else convert src dst c mode sat

/-- The blocks of 16 of a list. -/
def blocks16 {α : Type} : Nat → List α → List (List α)
  | 0, _ => []
  | n + 1, l => if l.isEmpty then [] else l.take 16 :: blocks16 n (l.drop 16)

/-- vcvt to an element format of its own: one register. (DESIGN CHOICE, log 105.) -/
def convertPlain (d : BitVec 5) (x : VReg) (scales : Nat) (t : Tag) (p : BitVec 256) (mode : RoundMode) (sat : Bool) : M Unit := do
  let vl := (← get).me.vl
  let old ← oldV d
  let wm := max x.tag.width t.width
  let m := vl * 8 / wm
  let keep := fun e => decide (e < m) && predBit p (e * wm / 8)
  let f := fun e => convertCode x.tag t (lane x.val.toNat x.tag.width e) (scaledValue x.tag x.val.toNat scales e) mode sat
  writeVL d { val := BitVec.ofNat 2048 (mapElems t.width (2048 / t.width) old.toNat keep f), tag := t } 3

/-- vcvt to MX4 or DS8: codes and, in v(d+1), scales (R275). (DESIGN CHOICE, log 105.) -/
def convertBlocks (d : BitVec 5) (x : VReg) (scales : Nat) (t : Tag) : M Unit := do
  let vl := (← get).me.vl
  let old ← oldV d
  let oldScales ← oldV (d + 1)
  let m := vl * 8 / max x.tag.width t.width
  let vals := (count 0 m).map fun e => scaledValue x.tag x.val.toNat scales e
  let qs := (blocks16 32 vals).map fun l => if t = .mx4 then quantMx4 l else quantDs8 l
  let codes := (qs.map (·.2)).flatten
  let w := t.width
  writeVL d
    { val := BitVec.ofNat 2048 (old.toNat / 2 ^ (w * m) * 2 ^ (w * m) + packLanes w codes), tag := t } 3
  writeVL (d + 1)
    { val := BitVec.ofNat 2048 (oldScales.toNat / 2 ^ (8 * qs.length) * 2 ^ (8 * qs.length) + packLanes 8 (qs.map (·.1))), tag := .e8m0 } 3

/-- vcvt (R274, R275). Field m: rounding mode in its low bits, .sat in bit 2. (DEDUCED, log 18.) (DEDUCED, log 80.) -/
def execVcvt (p : BitVec 3) (d a : BitVec 5) (m : BitVec 3) (t : BitVec 5) (sc : BitVec 3) (s : State) : Outcome :=
  instr sc (do
    let pr ← readP p.toNat
    let x ← readV a
    let q ← scaleSource x.tag a
    notPoison x.tag
    notPoison q.tag
    if t.toNat = 0 ∨ t.toNat = 14 ∨ t.toNat = 15 ∨ x.tag = .raw then raiseFormat x.tag.code t.toNat
    else
      let k := Tag.ofCode t.toNat
      let scales ← scaleRegister x.tag a q t.toNat
      if k.scaled then
        if p ≠ 0 then raiseFormat x.tag.code t.toNat else convertBlocks d x scales k
      else
        convertPlain d x scales k pr (.ofCode m.toNat) (m.getLsbD 2)) s

/-! ### Reductions (R264, R276) -/

/-- One level of the tree. -/
def treeLevel {α : Type} (op : α → α → α) : List (Option α) → List (Option α)
  | x :: y :: r =>
    (match x, y with
      | some u, some v => some (op u v)
      | some u, none => some u
      | none, v => v) :: treeLevel op r
  | l => l

/-- The root of the tree over 2^n lanes. -/
def treeRoot {α : Type} (op : α → α → α) : Nat → List (Option α) → Option α
  | 0, l => (l.head?).join
  | n + 1, l => treeRoot op n (treeLevel op l)

/-- The present lanes of a reduction. -/
def presentLanes (x : VReg) (vl : Nat) (p : BitVec 256) : List (Option Nat) :=
  let w := x.tag.width
  (count 0 (2048 / w)).map fun e => if activeAt vl p w e then some (lane x.val.toNat w e) else none

/-- A reduction of integer lanes: nodes are exact, and the identity stands for no lane. -/
def reduceInt (x : VReg) (vl : Nat) (p : BitVec 256) (read : Nat → Int) (op : Int → Int → Int) (identity : Int) : Int :=
  (treeRoot op 9 ((presentLanes x vl p).map (·.map read))).getD identity

/-- A reduction of floating-point lanes to an FP32 code. -/
def reduceFp (x : VReg) (vl : Nat) (p : BitVec 256) (op : Fp → Fp → Fp) (identity : Fp) : Nat :=
  codeOf fmtFp32 ((treeRoot op 9 ((presentLanes x vl p).map (·.map (valueOf x.tag.fmtF)))).getD identity)

/-- A reduction: accepted tags, the floating-point part, the integer part by width. -/
def reduce (ok : Tag → Bool) (ff : Fp → Fp → Fp) (fid : Fp) (read : Nat → Nat → Int) (fi : Int → Int → Int) (iid : Nat → Int)
    (p : BitVec 3) (d a : BitVec 5) : M Unit := do
  let pr ← readP p.toNat
  let x ← oneVector ok a
  let vl := (← get).me.vl
  let w := x.tag.width
  writeSL d (if x.tag.inF then w64 (reduceFp x vl pr ff fid) else BitVec.ofInt 64 (reduceInt x vl pr (read w) fi (iid w))) 8

/-- An unsigned lane. -/
def asNat (_w x : Nat) : Int := (x : Int)

/-- vred.sum (R276). -/
def execVredSum (p : BitVec 3) (d a : BitVec 5) (sc : BitVec 3) (s : State) : Outcome :=
  instr sc (reduce Tag.inFI add32 (.fin false 0 0) signedOf (· + ·) (fun _ => 0) p d a) s
/-- vred.min (R276). -/
def execVredMin (p : BitVec 3) (d a : BitVec 5) (sc : BitVec 3) (s : State) : Outcome :=
  instr sc (reduce Tag.inFI fMin (.inf false) signedOf min (fun w => 2 ^ (w - 1) - 1) p d a) s
/-- vred.max (R276). -/
def execVredMax (p : BitVec 3) (d a : BitVec 5) (sc : BitVec 3) (s : State) : Outcome :=
  instr sc (reduce Tag.inFI fMax (.inf true) signedOf max (fun w => -(2 ^ (w - 1))) p d a) s
/-- vred.and (R276): I tags and RAW. -/
def execVredAnd (p : BitVec 3) (d a : BitVec 5) (sc : BitVec 3) (s : State) : Outcome :=
  instr sc (reduce (fun t => t.inI || decide (t = .raw)) (fun x _ => x) .nan asNat (fun x y => ((x.toNat &&& y.toNat : Nat) : Int))
    (fun w => 2 ^ w - 1) p d a) s
/-- vred.or (R276). -/
def execVredOr (p : BitVec 3) (d a : BitVec 5) (sc : BitVec 3) (s : State) : Outcome :=
  instr sc (reduce (fun t => t.inI || decide (t = .raw)) (fun x _ => x) .nan asNat (fun x y => ((x.toNat ||| y.toNat : Nat) : Int))
    (fun _ => 0) p d a) s
/-- vred.min.n (R276). -/
def execVredMinN (p : BitVec 3) (d a : BitVec 5) (sc : BitVec 3) (s : State) : Outcome :=
  instr sc (reduce Tag.inI (fun x _ => x) .nan asNat min (fun w => 2 ^ w - 1) p d a) s
/-- vred.max.n (R276). -/
def execVredMaxN (p : BitVec 3) (d a : BitVec 5) (sc : BitVec 3) (s : State) : Outcome :=
  instr sc (reduce Tag.inI (fun x _ => x) .nan asNat max (fun _ => 0) p d a) s

/-! ### Permutations, selection and length (R277) -/

/-- Whether either of two tags is POISON. -/
def eitherPoison (x y : Tag) : Bool := decide (x = .poison) || decide (y = .poison)

/-- The width of a moved source: a POISON one takes the other source's width, or 8 (R268). -/
def movedWidth (x y : Tag) : Nat := if x = .poison then (if y = .poison then 8 else y.width) else x.width

/-- vperm (R277). -/
def execVperm (p : BitVec 3) (d a b : BitVec 5) (sc : BitVec 3) (s : State) : Outcome :=
  instr sc (do
    let pr ← readP p.toNat
    let x ← readV a
    let y ← readV b
    let bad := eitherPoison x.tag y.tag
    if ¬ bad ∧ (¬ y.tag.inI ∨ x.tag.width < y.tag.width) then raiseFormat x.tag.code y.tag.code
    else
      let old ← oldV d
      let w := movedWidth x.tag y.tag
      let wb := movedWidth y.tag x.tag
      writeElems d pr w (fun e => lane x.val.toNat w (lane y.val.toNat wb e % (2048 / w))) old (if bad then .poison else x.tag) 3) s

/-- vslide (R277). -/
def execVslide (p : BitVec 3) (d a b : BitVec 5) (sc : BitVec 3) (s : State) : Outcome :=
  instr sc (do
    let pr ← readP p.toNat
    let x ← readV a
    let k ← readS b
    let old ← oldV d
    let w := x.tag.width
    let src := fun e : Nat =>
      let i := (e : Int) + k.toInt
      if 0 ≤ i ∧ i < ((2048 / w : Nat) : Int) then lane x.val.toNat w i.toNat else 0
    writeElems d pr w src old x.tag 3) s

/-- vcompress (R277). -/
def execVcompress (p : BitVec 3) (d a : BitVec 5) (sc : BitVec 3) (s : State) : Outcome :=
  instr sc (do
    let pr ← readP p.toNat
    let x ← readV a
    let old ← oldV d
    let w := x.tag.width
    let l := ((count 0 (2048 / w)).filter fun e => activeAt s.me.vl pr w e).map fun e => lane x.val.toNat w e
    writeVL d
      { val := BitVec.ofNat 2048 (old.toNat / 2 ^ (w * l.length) * 2 ^ (w * l.length) + packLanes w l), tag := x.tag } 3) s

/-- vgl (R277): variable-latency; VL governs the next instruction. -/
def execVgl (p : BitVec 3) (d a : BitVec 5) (sc : BitVec 3) (s : State) : Outcome :=
  instr sc (guardP p (do
    let x ← readS a
    let n := min x.toNat 256
    modMe fun y => { y with vl := n }
    let _ ← deferS d (w64 n) 0
    pure ())) s

/-- vsel (R277). -/
def execVsel (d a b : BitVec 5) (k sc : BitVec 3) (s : State) : Outcome :=
  instr sc (do
    let pr ← readP k.toNat
    let x ← readV a
    let y ← readV b
    let bad := eitherPoison x.tag y.tag
    if ¬ bad ∧ x.tag ≠ y.tag then raiseFormat x.tag.code y.tag.code
    else
      let old ← oldV d
      let w := movedWidth x.tag y.tag
      let f := fun e => if predBit pr (firstByte w e) then lane x.val.toNat w e else lane y.val.toNat w e
      writeElems d (BitVec.allOnes 256) w f old (if bad then .poison else x.tag) 2) s

/-! ### Bitonic compare-exchange (R279, R280) -/

/-- The order key of an FP32 code: numbers by value with −0 before +0, NaN after every number. -/
def fp32Order (c : Nat) : Nat :=
  if c / 2 ^ 23 % 2 ^ 8 = 255 ∧ c % 2 ^ 23 ≠ 0 then 2 ^ 32
  else if c / 2 ^ 31 % 2 = 1 then 2 ^ 32 - 1 - c % 2 ^ 32 else c % 2 ^ 32 + 2 ^ 31

/-- The order key of a key code: key type 0 FP32, 1 INT32, 2 unsigned. -/
def keyOrder (key c : Nat) : Nat :=
  match key with
  | 0 => fp32Order c
  | 1 => (c + 2 ^ 31) % 2 ^ 32
  | _ => c % 2 ^ 32

/-- Before(x, y) (R280): keys, then the smaller payload. -/
def before (key : Nat) (x y : Nat × Nat) : Bool :=
  decide (keyOrder key x.1 < keyOrder key y.1) || (decide (keyOrder key x.1 = keyOrder key y.1) && decide (x.2 < y.2))

/-- Where the pair of lane i comes from after a stage: its own lane, or its partner's when the pair is exchanged. -/
def vcxSource (key j k m : Nat) (pair : Nat → Nat × Nat) (i : Nat) : Nat :=
  let lo := if i.testBit j then i - 2 ^ j else i
  let hi := lo + 2 ^ j
  let swap := decide (hi < m)
    && (if lo.testBit k then before key (pair lo) (pair hi) else before key (pair hi) (pair lo))
  if swap then (if i = lo then hi else lo) else i

/-- vcx (R279). (DESIGN CHOICE, log 105.) -/
def execVcx (d j k : BitVec 5) (sc : BitVec 3) (s : State) : Outcome :=
  instr sc (do
    let x ← readV d
    let y ← readV (d + 1)
    notPoison x.tag
    notPoison y.tag
    if (x.tag = .fp32 ∨ x.tag = .int32) ∧ (y.tag = .int32 ∨ y.tag = .raw) then
      let key := if x.tag = .fp32 then 0 else if y.tag = .raw then 2 else 1
      let src := vcxSource key j.toNat k.toNat (s.me.vl / 4) fun i => (lane x.val.toNat 32 i, lane y.val.toNat 32 i)
      writeVL d { val := BitVec.ofNat 2048 (packLanes 32 ((count 0 64).map fun i => lane x.val.toNat 32 (src i))), tag := x.tag } 3
      writeVL (d + 1) { val := BitVec.ofNat 2048 (packLanes 32 ((count 0 64).map fun i => lane y.val.toNat 32 (src i))), tag := y.tag } 3
    else raiseFormat x.tag.code y.tag.code) s

/-! ### Distances (R281) -/

/-- The accumulator tag of a pair of tags, if vdist accepts it. -/
def distTag (a b : Tag) : Option Tag :=
  if (a = .int4 ∨ a = .int8) ∧ (b = .int4 ∨ b = .int8) then some .int32
  else if (a = .e4m3 ∨ a = .e5m2 ∨ a.scaled) ∧ b.inF then some .fp32
  else none

/-- One term of a segment: a product, or a squared difference. -/
def distTerm (l2 : Bool) (x y : Fp) : Fp :=
  if l2 then
    let z := fpAdd x y.neg .rne
    fpMul z z
  else fpMul x y

/-- The exact sum over S elements from an element on. (DESIGN CHOICE, log 104.) -/
def segmentSum (l2 : Bool) (fx fy : Nat → Fp) (e : Nat) : Nat → Fp
  | 0 => .fin false 0 0
  | 1 => distTerm l2 (fx e) (fy e)
  | n + 1 => fpAdd (distTerm l2 (fx e) (fy e)) (segmentSum l2 fx fy (e + 1) n) .rne

/-- A finite value that is an integer. -/
def Fp.toInt : Fp → Int
  | .fin n m e => unitsAt n m e 0
  | _ => 0

/-- The work of vdist. -/
def distance (l2 : Bool) (d a b : BitVec 5) (q : BitVec 3) : M Unit := do
  let x ← readV a
  let y ← readV b
  let c ← readV d
  let k ← scaleSource x.tag a
  notPoison x.tag
  notPoison y.tag
  notPoison c.tag
  notPoison k.tag
  if distTag x.tag y.tag ≠ some c.tag then raiseFormat x.tag.code y.tag.code
  else
    let scales ← scaleRegister x.tag a k y.tag.code
    let vl := (← get).me.vl
    let n := 16 * 2 ^ (q.toNat % 4)
    let o := 32 * (q.toNat / 4)
    let segs := vl * 8 / x.tag.width / n
    let nq := 2048 / y.tag.width
    let fx := fun e => scaledValue x.tag x.val.toNat scales e
    let fy := fun e => tagValue y.tag (lane y.val.toNat y.tag.width (e % nq))
    let f := fun i =>
      let p := segmentSum l2 fx fy ((i - o) * n) n
      let v := lane c.val.toNat 32 i
      if c.tag = .int32 then wrap (signedOf 32 v + p.toInt) 32 else c32 (fpAdd (v32 v) p .rne)
    writeVL d
      { val := BitVec.ofNat 2048 (mapElems 32 64 c.val.toNat (fun i => decide (o ≤ i) && decide (i < o + segs)) f), tag := c.tag } 6

/-- vdist.dot (R281). -/
def execVdistDot (d a b : BitVec 5) (q sc : BitVec 3) (s : State) : Outcome := instr sc (distance false d a b q) s
/-- vdist.l2 (R281). -/
def execVdistL2 (d a b : BitVec 5) (q sc : BitVec 3) (s : State) : Outcome := instr sc (distance true d a b q) s

/-! ### Small solvers (R282 to R284) -/

/-- t minus the sum over k < n of l(k) × u(k), each step fused and rounded to FP32. -/
def minusProducts (l u : Nat → Fp) (k : Nat) : Nat → Fp → Fp
  | 0, t => t
  | n + 1, t => minusProducts l u (k + 1) n (r32 (fpAdd t (fpMul (l k) (u k)).neg .rne))

/-- An 8 × 8 matrix as a list of 64 FP32 values, row by row. -/
def matAt (l : List Fp) (r c : Nat) : Fp := l.getD (8 * r + c) (.fin false 0 0)
/-- A matrix with an element replaced. -/
def matSet (l : List Fp) (r c : Nat) (x : Fp) : List Fp := l.set (8 * r + c) x

/-- Rows i to i + n − 1 of column c of the factor below its diagonal. -/
def cholBelow (a : List Fp) (c : Nat) (i : Nat) : Nat → List Fp → List Fp
  | 0, l => l
  | n + 1, l =>
    let t := minusProducts (fun k => matAt l i k) (fun k => matAt l c k) 0 c (matAt a i c)
    cholBelow a c (i + 1) n (matSet l i c (r32 (fpDiv t (matAt l c c))))

/-- Columns c to c + n − 1 of the factor, with the flags of rejected pivots. -/
def cholColumns (a : List Fp) (thr reg : Fp) (c : Nat) : Nat → List Fp × Nat → List Fp × Nat
  | 0, r => r
  | n + 1, (l, flags) =>
    let s := minusProducts (fun k => matAt l c k) (fun k => matAt l c k) 0 c (matAt a c c)
    let ok := fpLt thr s
    let l1 := matSet l c c (r32 (fpSqrt (if ok then s else reg)))
    cholColumns a thr reg (c + 1) n (cholBelow a c (c + 1) (7 - c) l1, if ok then flags else flags + 2 ^ (4 * c))

/-- FMax over the magnitudes of the diagonal. -/
def diagMax (a : List Fp) : Nat → Fp
  | 0 => (matAt a 0 0).abs
  | n + 1 => fMax (diagMax a n) (matAt a (n + 1) (n + 1)).abs

/-- The matrix in a register. -/
def matOf (v : BitVec 2048) : List Fp := (lanes v.toNat 32 64).map v32
/-- A register from a matrix. -/
def matReg (l : List Fp) : VReg := { val := BitVec.ofNat 2048 (packLanes 32 (l.map c32)), tag := .fp32 }

/-- vchol8 (R283). -/
def execVchol8 (d a : BitVec 5) (k sc : BitVec 3) (s : State) : Outcome :=
  instr sc (do
    let x ← oneVector (fun t => decide (t = .fp32)) a
    let m := matOf x.val
    let thr := mul32 (v32 s.me.choleps.toNat) (diagMax m 7)
    let r := cholColumns m thr (v32 s.me.cholreg.toNat) 0 8 (List.replicate 64 (.fin false 0 0), 0)
    writeVL d (matReg r.1) 24
    writePL k.toNat (BitVec.ofNat 256 r.2) 24) s

/-- Rows i to i + n − 1 of a column of X. -/
def solveRows (l b : List Fp) (col i : Nat) : Nat → List Fp → List Fp
  | 0, x => x
  | n + 1, x =>
    let t := minusProducts (fun k => matAt l i k) (fun k => matAt x k col) 0 i (matAt b i col)
    solveRows l b col (i + 1) n (matSet x i col (r32 (fpDiv t (matAt l i i))))

/-- Columns col to col + n − 1 of X. -/
def solveColumns (l b : List Fp) (col : Nat) : Nat → List Fp → List Fp
  | 0, x => x
  | n + 1, x => solveColumns l b (col + 1) n (solveRows l b col 0 8 x)

/-- vtrs8 (R284). -/
def execVtrs8 (d a b : BitVec 5) (sc : BitVec 3) (s : State) : Outcome :=
  instr sc (do
    let x ← readV a
    let y ← readV b
    notPoison x.tag
    notPoison y.tag
    if x.tag = .fp32 ∧ y.tag = .fp32 then
      writeVL d (matReg (solveColumns (matOf x.val) (matOf y.val) 0 8 (List.replicate 64 (.fin false 0 0)))) 16
    else raiseFormat x.tag.code y.tag.code) s

/-! ### Predicates (R278) -/

/-- A predicate operation on two predicates. -/
def predOp (f : BitVec 256 → BitVec 256 → BitVec 256) (d a b : BitVec 5) : M Unit := do
  let x ← readP a.toNat
  let y ← readP b.toNat
  writeP d.toNat (f x y)

/-- pand (R278). -/
def execPand (d a b : BitVec 5) (sc : BitVec 3) (s : State) : Outcome := instr sc (predOp (· &&& ·) d a b) s
/-- por (R278). -/
def execPor (d a b : BitVec 5) (sc : BitVec 3) (s : State) : Outcome := instr sc (predOp (· ||| ·) d a b) s
/-- pxor (R278). -/
def execPxor (d a b : BitVec 5) (sc : BitVec 3) (s : State) : Outcome := instr sc (predOp (· ^^^ ·) d a b) s
/-- pnot (R278). -/
def execPnot (d a : BitVec 5) (sc : BitVec 3) (s : State) : Outcome :=
  instr sc (do
    let x ← readP a.toNat
    writeP d.toNat (~~~x)) s

/-- The set bits of a predicate below n. -/
def setBits (p : BitVec 256) (n : Nat) : List Nat := (count 0 n).filter fun i => predBit p i

/-- pcnt (R278). -/
def execPcnt (d a : BitVec 5) (sc : BitVec 3) (s : State) : Outcome :=
  instr sc (do
    let x ← readP a.toNat
    writeSL d (w64 (setBits x s.me.vl).length) 2) s

/-- pfirst (R278): all ones when no bit below VL is set. -/
def execPfirst (d a : BitVec 5) (sc : BitVec 3) (s : State) : Outcome :=
  instr sc (do
    let x ← readP a.toNat
    writeSL d (match setBits x s.me.vl with
      | i :: _ => w64 i
      | [] => BitVec.allOnes 64) 2) s

end Sys2Proof.Machine
end

