-- ==== Sys2Proof/Machine/Xu.lean ====
section
/-! DEFINITION. The transform unit (R285 to R289) and the top-k unit (R290 to R293).

The functions of R286 are computed in fixed point with hundreds of guard bits and a last bit that marks an inexact result, so that the
rounding to FP32 falls on the side where the exact real lies. -/
namespace Sys2Proof.Machine

/-! ### Fixed-point functions -/

/-- Fraction bits of the fixed-point work. -/
def xuBits : Nat := 512

/-- The sum of z^(2k+1) / (2k+1) in fixed point: `p` is z^(2k+1), `zz` is z². -/
def atanhSum (zz : Nat) : Nat → Nat → Nat → Nat
  | 0, _, _ => 0
  | n + 1, k, p => p / (2 * k + 1) + atanhSum zz n (k + 1) (p * zz / 2 ^ xuBits)

/-- atanh of a fixed-point number up to 1/3. -/
def atanhFix (z : Nat) : Nat := atanhSum (z * z / 2 ^ xuBits) 170 0 z

/-- ln 2 = 2 atanh(1/3). -/
def ln2Fix : Nat := 2 * atanhFix (2 ^ xuBits / 3)

/-- The alternating sum of 1 / ((2k+1) q^(2k+1)): arctan(1/q) in fixed point, as a positive and a negative part. -/
def atanSum (q : Nat) : Nat → Nat → Nat → Nat × Nat
  | 0, _, _ => (0, 0)
  | n + 1, k, p =>
    let r := atanSum q n (k + 1) (p / (q * q))
    if k % 2 = 0 then (r.1 + p / (2 * k + 1), r.2) else (r.1, r.2 + p / (2 * k + 1))

/-- arctan(1/q). -/
def atanInv (q : Nat) : Nat :=
  let r := atanSum q 125 0 (2 ^ xuBits / q)
  r.1 - r.2

/-- π by Machin's formula: 16 arctan(1/5) − 4 arctan(1/239). -/
def piFix : Nat := 16 * atanInv 5 - 4 * atanInv 239

/-- The sum of the terms t, t·x/(k+1), … of a Taylor series, in fixed point. -/
def expSum (x : Nat) : Nat → Nat → Nat → Nat
  | 0, _, _ => 0
  | n + 1, k, t => t + expSum x n (k + 1) (t * x / 2 ^ xuBits / (k + 1))

/-- exp of a fixed-point number below 1. -/
def expFix (x : Nat) : Nat := expSum x 120 0 (2 ^ xuBits)

/-- A fixed-point number squared n times. -/
def squareFix : Nat → Nat → Nat
  | 0, x => x
  | n + 1, x => squareFix n (x * x / 2 ^ xuBits)

/-- A positive inexact fixed-point number as a value, with its last bit set. -/
def fixFp (neg : Bool) (x : Nat) : Fp := .fin neg (2 * x + 1) (-(xuBits : Int) - 1)

/-- A magnitude m × 2^e in fixed point. -/
def toFix (m : Nat) (e : Int) : Nat := scaleFloor m (e + xuBits)

/-- 2^x (selector 0). -/
def xuExp2 (x : Fp) : Fp :=
  match x with
  | .nan => .nan
  | .inf neg => if neg then .fin false 0 0 else .inf false
  | .fin neg m e =>
    if m = 0 then .fin false 1 0
    else if 10 ≤ flog2 m e then .fin false 1 (if neg then -2000 else 2000)
    else
      let a := toFix m e
      let v : Int := if neg then -(a : Int) else (a : Int)
      let one : Int := ((2 ^ xuBits : Nat) : Int)
      let n := v / one
      let f := (v % one).toNat
      if f = 0 then .fin false 1 n
      else .fin false (2 * expFix (f * ln2Fix / 2 ^ xuBits) + 1) (n - xuBits - 1)

/-- Log2(x) (selector 1). -/
def xuLog2 (x : Fp) : Fp :=
  match x with
  | .nan => .nan
  | .inf neg => if neg then .nan else .inf false
  | .fin neg m e =>
    if m = 0 then .inf true
    else if neg then .nan
    else
      let k := Nat.log2 m
      let n : Int := e + k
      if m = 2 ^ k then fpOfInt n
      else
        let z := (m - 2 ^ k) * 2 ^ xuBits / (m + 2 ^ k)
        let l := 2 * atanhFix z * 2 ^ xuBits / ln2Fix
        let v : Int := n * ((2 ^ xuBits : Nat) : Int) + (l : Int)
        if 0 ≤ v then fixFp false v.natAbs else fixFp true (v.natAbs - 1)

/-- 1/√x (selector 3). -/
def xuRsqrt (x : Fp) : Fp :=
  match x with
  | .nan => .nan
  | .inf neg => if neg then .nan else .fin false 0 0
  | .fin neg m e =>
    if m = 0 then .inf neg
    else if neg then .nan
    else
      let odd := decide (e % 2 ≠ 0)
      let m1 := if odd then 2 * m else m
      let e1 := if odd then e - 1 else e
      let q := 2 ^ 400 / m1
      let r := Nat.sqrt q
      .fin false (2 * r + (if r * r * m1 = 2 ^ 400 then 0 else 1)) (-(e1 / 2) - 200 - 1)

/-- The terms of sin or cos: t, then −t·x²/((k+1)(k+2)), …, as a positive and a negative part. -/
def trigSum (xx : Nat) : Nat → Nat → Nat → Bool → Nat × Nat
  | 0, _, _, _ => (0, 0)
  | n + 1, k, t, neg =>
    let r := trigSum xx n (k + 2) (t * xx / 2 ^ xuBits / ((k + 1) * (k + 2))) (!neg)
    if neg then (r.1, r.2 + t) else (r.1 + t, r.2)

/-- sin of a fixed-point number in 0 to π/2. -/
def sinFix (r : Nat) : Nat :=
  let s := trigSum (r * r / 2 ^ xuBits) 80 1 r false
  s.1 - s.2
/-- cos of a fixed-point number in 0 to π/2. -/
def cosFix (r : Nat) : Nat :=
  let s := trigSum (r * r / 2 ^ xuBits) 80 0 (2 ^ xuBits) false
  s.1 - s.2

/-- Quadrant and remainder of a magnitude by π/2. -/
def quadrant (a : Nat) : Nat × Nat :=
  let n := 2 * a / piFix
  (n % 4, (2 * a - n * piFix) / 2)

/-- sin x, x in radians (selector 4). (DEDUCED, log 19.) -/
def xuSin (x : Fp) : Fp :=
  match x with
  | .nan => .nan
  | .inf _ => .nan
  | .fin neg m e =>
    if m = 0 then .fin neg 0 0
    else
      let q := quadrant (toFix m e)
      let v := if q.1 % 2 = 0 then sinFix q.2 else cosFix q.2
      fixFp (neg != decide (2 ≤ q.1)) v

/-- cos x (selector 5). -/
def xuCos (x : Fp) : Fp :=
  match x with
  | .nan => .nan
  | .inf _ => .nan
  | .fin _ m e =>
    if m = 0 then .fin false 1 0
    else
      let q := quadrant (toFix m e)
      let v := if q.1 % 2 = 0 then cosFix q.2 else sinFix q.2
      fixFp (decide (q.1 = 1) || decide (q.1 = 2)) v

/-- tanh x (selector 6): (y − 1) / (y + 1) for y = exp(2|x|). (DEDUCED, log 19.) -/
def xuTanh (x : Fp) : Fp :=
  match x with
  | .nan => .nan
  | .inf neg => .fin neg 1 0
  | .fin neg m e =>
    if m = 0 then .fin neg 0 0
    else if 6 ≤ flog2 m e then fixFp neg (2 ^ xuBits - 1)
    else
      let y := squareFix 8 (expFix (2 * toFix m e / 2 ^ 8))
      fixFp neg ((y - 2 ^ xuBits) * 2 ^ xuBits / (y + 2 ^ xuBits))

/-- A finite value as m × 2^e with a sign, for comparison with 0. -/
def fpIsZero (x : Fp) : Bool :=
  match x with
  | .fin _ m _ => decide (m = 0)
  | _ => false

/-- Floor of the quotient of two finite values, the second positive. -/
def floorDiv (x y : Fp) : Int :=
  match x, y with
  | .fin a m e, .fin b n f =>
    let g := min e f
    let d := unitsAt b n f g
    if d = 0 then 0 else unitsAt a m e g / d
  | _, _ => 0

/-- Knot k of a table. -/
def XuTable.knot (t : XuTable) (k : Nat) : Fp := v32 (t.knots.getD k 0).toNat

/-- A table at x (R286): K[k] + f × (K[k+1] − K[k]), formed exactly; f = g / (HI − LO). -/
def xuTable (t : XuTable) (x : Fp) : Fp :=
  let lo := v32 t.lo.toNat
  let hi := v32 t.hi.toNat
  match x with
  | .nan => .nan
  | .inf neg => if t.extrap then .nan else if neg then t.knot 0 else t.knot 256
  | x =>
    if ¬ t.extrap ∧ ¬ fpLt lo x then t.knot 0
    else if ¬ t.extrap ∧ ¬ fpLt x hi then t.knot 256
    else
      let b := fpAdd hi lo.neg .rne
      let a := fpMul (fpOfInt 256) (fpAdd x lo.neg .rne)
      let k := (min (max (floorDiv a b) 0) 255).toNat
      let g := fpAdd a (fpMul (fpOfInt k) b).neg .rne
      if fpIsZero g then t.knot k
      else
        let d := fpAdd (t.knot (k + 1)) (t.knot k).neg .rne
        fpDiv (fpAdd (fpMul (t.knot k) b) (fpMul g d) .rne) b

/-- The FP32 value of a selector's function (R286). -/
def xuFunction (tables : Map XuTable) (sel : Nat) (x : Fp) : Fp :=
  let y := match sel with
    | 0 => xuExp2 x
    | 1 => xuLog2 x
    | 2 => fpDiv (fpOfInt 1) x
    | 3 => xuRsqrt x
    | 4 => xuSin x
    | 5 => xuCos x
    | 6 => xuTanh x
    | n => xuTable (Map.getD tables (n - 16) { lo := 0, hi := 0, extrap := false, knots := [] }) x
  r32 y

/-- The results of a place: each element's FP32 value rounded to the operand's tag. (DESIGN CHOICE, log 105.) -/
def XuPlace.compute (q : XuPlace) (tables : Map XuTable) : BitVec 2048 :=
  let w := q.x.tag.width
  let f := q.x.tag.fmtF
  BitVec.ofNat 2048 (packLanes w ((count 0 ((q.vl * 8 + w - 1) / w)).map fun e =>
    encodeFp (xuFunction tables q.sel (valueOf f (lane q.x.val.toNat w e))) f .rne false))

/-! ### xreq and xget (R287, R288) -/

/-- Whether a place is held: an xget has not taken it. -/
def XuPlace.held (q : XuPlace) : Bool := q.taken.isNone

/-- The low n bytes of one value over another. -/
def lowOver (n : Nat) (new old : BitVec 2048) : BitVec 2048 :=
  BitVec.ofNat 2048 (old.toNat / 2 ^ (8 * n) * 2 ^ (8 * n) + new.toNat % 2 ^ (8 * n))

/-- xreq (R287): status 1 when all sixteen places are held. -/
def execXreq (d a b : BitVec 5) (sc : BitVec 3) (s : State) : Outcome :=
  instr sc (do
    let x ← readV a
    let sel := (← readS b).toNat % 32
    notPoison x.tag
    if x.tag ≠ .fp32 ∧ x.tag ≠ .fp16 ∧ x.tag ≠ .bf16 then raiseFormat x.tag.code 0
    else if 7 ≤ sel ∧ (sel < 16 ∨ (Map.get? s.home.tables (sel - 16)).isNone) then raise cFORMAT (w64 sel)
    else if Config.xuPlaces ≤ (s.home.places.filter XuPlace.held).length then
      let _ ← deferS d 1 0
      pure ()
    else
      modHome fun k => { k with places := k.places ++ [{ core := s.cur.1, level := s.cur.2, sel := sel, vl := s.me.vl, x := x }] }
      let _ ← deferS d 0 0
      pure ()) s

/-- Whether a place is held for a context. -/
def XuPlace.heldBy (q : XuPlace) (c l : Nat) : Bool := q.held && decide (q.core = c) && decide (q.level = l)

/-- xget (R288): the oldest place of the context; a request not yet computed keeps its place in the computing order. -/
def execXget (d : BitVec 5) (sc : BitVec 3) (s : State) : Outcome :=
  instr sc (do
    match findIdxFrom (fun q : XuPlace => q.heldBy s.cur.1 s.cur.2) s.home.places 0 with
    | none => raise cSYNC_INVALID 0
    | some i =>
      match s.home.places[i]? with
      | none => raise cSYNC_INVALID 0
      | some q =>
        let old ← oldV d
        match q.result with
        | some r =>
          let _ ← deferV d { val := lowOver q.vl r old, tag := q.x.tag } 0
          modHome fun k => { k with places := removeAt k.places i }
        | none =>
          let id ← deferV d { val := old, tag := q.x.tag } 1
          modHome fun k => { k with places := k.places.set i { q with taken := some id } }) s

/-- A context with bytes of a pending result replaced, its wait for one answer over. -/
def Ctx.answerLow (x : Ctx) (id n : Nat) (v : BitVec 2048) : Ctx :=
  { x with pend := x.pend.map fun q => if q.id = id then { q with val := lowOver n v q.val, open_ := q.open_ - 1 } else q }

/-- XU_COMPUTE (R288): the oldest request that has no result. -/
def execXuCompute (cluster : Nat) (s : State) : Outcome :=
  happen s (
    let k := s.cluster cluster
    match findIdxFrom (fun q : XuPlace => q.result.isNone) k.places 0 with
    | none => none
    | some i =>
      match k.places[i]? with
      | none => none
      | some q =>
        let r := q.compute k.tables
        some (match q.taken with
          | some id =>
            (s.modCluster cluster fun y => { y with places := removeAt y.places i }).modCtx q.core q.level fun x => x.answerLow id q.vl r
          | none => s.modCluster cluster fun y => { y with places := y.places.set i { q with result := some r } }))

/-! ### The top-k unit (R290 to R293) -/

/-- The instance bound to a context. -/
def Cluster.kuOf (k : Cluster) (c l : Nat) : Option (Nat × Ku) :=
  match Map.get? k.ku 0, Map.get? k.ku 1 with
  | some x, y => if x.owner = some (c, l) then some (0, x) else y.bind fun z => if z.owner = some (c, l) then some (1, z) else none
  | none, some y => if y.owner = some (c, l) then some (1, y) else none
  | none, none => none

/-- Change an instance. -/
def Cluster.setKu (k : Cluster) (i : Nat) (x : Ku) : Cluster := { k with ku := Map.set k.ku i x }

/-- kinit (R290). -/
def execKinit (d a b : BitVec 5) (sc : BitVec 3) (s : State) : Outcome :=
  instr sc (do
    let w ← readS a
    let th ← readS b
    let n := w.toNat
    let i := n / 2 ^ 15 % 2
    let key := n / 2 ^ 12 % 4
    let kk := n % 2 ^ 11
    if 2 ^ 16 ≤ n ∨ n / 2 ^ 11 % 2 = 1 ∨ key = 3 ∨ kk = 0 ∨ 1024 < kk then raise cSYNC_INVALID w
    else
      let x := Map.getD s.home.ku i {}
      if x.owner.isSome ∧ x.owner ≠ some s.cur then
        let _ ← deferS d 1 0
        pure ()
      else if (match s.home.kuOf s.cur.1 s.cur.2 with
          | some (j, _) => decide (j ≠ i)
          | none => false) then raise cSYNC_INVALID w
      else
        modHome fun y =>
          y.setKu i { owner := some s.cur, k := kk, key := key, thr := w.getLsbD 14, theta := th.setWidth 32, list := [], buf := [] }
        let _ ← deferS d 0 0
        pure ()) s

/-- The active pairs of kadd (R291). -/
def kaddPairs (x y : Nat) (vl : Nat) (p : BitVec 256) : List (BitVec 32 × BitVec 32) :=
  ((count 0 64).filter fun i => decide (4 * i < vl) && predBit p (4 * i)).map fun i =>
    (BitVec.ofNat 32 (lane x 32 i), BitVec.ofNat 32 (lane y 32 i))

/-- kadd (R291): status 1 while the input buffer is not empty. -/
def execKadd (p : BitVec 3) (d a b : BitVec 5) (sc : BitVec 3) (s : State) : Outcome :=
  instr sc (do
    let pr ← readP p.toNat
    let x ← readV a
    let y ← readV b
    match s.home.kuOf s.cur.1 s.cur.2 with
    | none => raise cSYNC_INVALID 0
    | some (i, q) =>
      notPoison x.tag
      notPoison y.tag
      if x.tag ≠ (if q.key = 0 then Tag.fp32 else .int32) ∨ (y.tag ≠ .int32 ∧ y.tag ≠ .raw) then raiseFormat x.tag.code y.tag.code
      else if q.buf ≠ [] then
        let _ ← deferS d 1 0
        pure ()
      else
        modHome fun k => k.setKu i { q with buf := kaddPairs x.val.toNat y.val.toNat s.me.vl pr }
        let _ ← deferS d 0 0
        pure ()) s

/-- A pair put into a list in Before order. -/
def insertPair (key : Nat) (x : BitVec 32 × BitVec 32) : List (BitVec 32 × BitVec 32) → List (BitVec 32 × BitVec 32)
  | [] => [x]
  | y :: r => if before key (x.1.toNat, x.2.toNat) (y.1.toNat, y.2.toNat) then x :: y :: r else y :: insertPair key x r

/-- Whether an instance rejects a pair: a NaN key, or a threshold that comes before it (R291). -/
def Ku.rejects (q : Ku) (x : BitVec 32 × BitVec 32) : Bool :=
  (decide (q.key = 0) && decide (v32 x.1.toNat = .nan)) || (q.thr && decide (keyOrder q.key q.theta.toNat < keyOrder q.key x.1.toNat))

/-- An instance with its next buffered pair taken. -/
def Ku.take (q : Ku) : Ku :=
  match q.buf with
  | [] => q
  | x :: r => if q.rejects x then { q with buf := r } else { q with buf := r, list := (insertPair q.key x q.list).take q.k }

/-- A cluster before its gang is saved: the XU has computed every accepted request (R289), and each top-k instance has taken its buffered pairs
(R293). -/
def Cluster.settled (k : Cluster) : Cluster :=
  { k with
    places := k.places.map fun q => if q.result.isNone then { q with result := some (q.compute k.tables) } else q
    ku := k.ku.map fun e => (e.1, e.2.buf.foldl (fun q _ => q.take) e.2) }

/-- KU_TAKE_PAIR (R291). -/
def execKuTakePair (cluster inst : Nat) (s : State) : Outcome :=
  happen s (
    match Map.get? (s.cluster cluster).ku inst with
    | some q => if q.buf = [] then none else some (s.modCluster cluster fun k => k.setKu inst q.take)
    | none => none)

/-- kdrain (R292): its checks, its range, then it waits for KDRAIN_WRITE. (DEDUCED, log 27.) -/
def execKdrain (d a b : BitVec 5) (sc : BitVec 3) (s : State) : Outcome :=
  instrJ sc (do
    claimDest d
    let A ← readS a
    let f ← readS b
    match s.home.kuOf s.cur.1 s.cur.2 with
    | none => raise cSYNC_INVALID 0
    | some (_, q) =>
      if 2 ≤ f.toNat then raise cSYNC_INVALID f
      else
        let addr ← checkLocal A (8 * q.k) 8 true
        if Config.rangeMax ≤ s.home.ranges.length then
          let _ ← deferS d (BitVec.allOnes 64) 0
          return .seq
        else
          let id ← freshId
          modHome fun k =>
            k.addRange { id := id, dest := true, tree := false, core := s.cur.1, level := s.cur.2, addr := addr, len := 8 * q.k }
          leaveOp sc (.kdrain addr (f.getLsbD 0) d.toNat id)) s

/-- Write the pairs of a list, each one 64-bit word; a guarded word is not written and is recorded (R178). -/
def State.writePairs (s : State) (c l k a pc : Nat) : List (BitVec 32 × BitVec 32) → State
  | [] => s
  | x :: r =>
    let s1 := if s.guarded k a then
        s.modCore c fun y => { y with guardrec := guardRecord y.guardrec true false l a pc }
      else s.cwrite k a 8 (x.2.toNat * 2 ^ 32 + x.1.toNat)
    s1.writePairs c l k (a + 8) pc r

/-- KDRAIN_WRITE (R292): once the input buffer is empty the list is written, the range released and the count given. (DEDUCED, log 27.) -/
def execKdrainWrite (core level : Nat) (s : State) : Outcome :=
  happen s (
    match (s.ctx core level).op with
    | .kdrain addr release d id =>
      let k := clusterOf core
      match (s.cluster k).kuOf core level with
      | none => none
      | some (i, q) =>
        if q.buf ≠ [] then none
        else
          let s1 := s.writePairs core level k addr (s.ctx core level).pc.toNat q.list
          let s2 := s1.modCluster k fun y =>
            { y.setKu i (if release then { q with owner := none, list := [] } else q) with
              ranges := y.ranges.filter fun r => decide (r.id ≠ id) }
          some ((s2.giveS core level d (w64 q.list.length)).finishWait core level)
    | _ => none)

end Sys2Proof.Machine
end

