-- ==== Sys2Proof/Machine/Gang.lean ====
section
/-! DEFINITION. The life of gangs: trap entry of a context (R227), the steward's actions on a stopped core (R233 to R235), allocation, start
and completion (R43 to R48, R396), pre-emption, the image and its restore (R49, R145, R236 to R239), time slices (R386). -/
namespace Sys2Proof.Machine

/-- TRAP_ENTRY (R227, R228): the due trap of a context is taken at TVEC, or stops the core (R230). (DEDUCED, log 11.) -/
def execTrapEntry (core level : Nat) (s : State) : Outcome :=
  happen s (if s.counting core && decide ((s.core core).stop = none) then s.takeDue core level else none)

/-! ### Stewards (R233 to R235) -/

/-- The snapshot registers of a core. -/
def Core.latch (k : Core) (frame : Nat) : CoreSnap :=
  { banks := (count 0 4).map fun l =>
      let x := k.bank l
      (x.pc, x.status l, x.trappc, x.trapcause, x.trapval, x.tvec)
    cycle := k.cycle, corrected := k.corrected, uncorrectable := k.uncorrectable, guardrec := k.guardrec, phases := k.phaseCount
    frame := frame / Config.frameCounts }

/-- STEWARD_RECORD (R233): the stopped core is recorded and self-tested. -/
def execStewardRecord (r : StewardFinding) (s : State) : Outcome :=
  happen s (
    let k := s.core r.core
    match k.stop, k.record with
    | some stop, none =>
      some (s.setCore r.core { k with
        record := some
          { banks := k.ctx, inq := k.inq, outq := k.outq, mailbox := k.mailbox, refusals := k.refusals, notices := k.notices, stop := stop
            regs := k.latch s.mod.frame, finding := r.kind } })
    | _, _ => none)

/-- The report to Vale (R235): core id, cause, TRAPVAL, TRAPPC and the action (the kind of its notice). -/
def State.report (s : State) (id : Nat) (r : StopRec) (kind : Nat) : State :=
  s.modVale fun v => { v with reports := v.reports ++ [(id, r.info.cause, r.info.val, r.pc, kind)] }

/-- A recorded bank written back (R233). What the parts that a stop leaves working delivered since the record stays (R231): results that landed,
imprecise traps of engine operations, a token; and the whole bank where a wait or an unfinished instruction of it has ended since, as its event
completes it beneath the stop (R19). (DEDUCED, log 53.) -/
def Ctx.writeBack (old live : Ctx) : Ctx :=
  if (old.st, old.wait, old.op) ≠ (live.st, live.wait, live.op) then live
  else
    { old with
      s := live.s, v := live.v, p := live.p, pend := live.pend, poisoned := live.poisoned, pendTraps := live.pendTraps, token := live.token
      held := live.held, trapprog := live.trapprog }

/-- A core resumed (R233): its recorded banks are written back, and the stopping context is at the stopping instruction again. The queues keep what
came in since, behind what the record holds. (DEDUCED, log 53.) -/
def Core.resumed (k : Core) (r : StopRec) : Core :=
  let k1 := match k.record with
    | some q => { k with ctx := q.banks.foldl (fun m (e : Nat × Ctx) => Map.set m e.1 (e.2.writeBack (k.bank e.1))) k.ctx }
    | none => k
  { k1.setBank r.level { k1.bank r.level with st := .ready, wait := .none, op := .none, pc := r.pc } with
    stop := none, record := none, ibuf := none }

/-- Whether the self-test's finding lets a steward resume a core (R233): its failed bank is marked, or its column is replaced. -/
def Core.mayResume (k : Core) : Bool :=
  match k.stop, k.record with
  | some r, some q => (decide (q.finding = 1) && q.marked) || (decide (q.finding = 2) && r.remap)
  | _, _ => false

/-- Whether it makes a steward restart a core: no fault, or a column that no spare is left for (R233, R234). (DEDUCED, log 53.) -/
def State.mayRestart (s : State) (c : Nat) (k : Core) : Bool :=
  match k.stop, k.record with
  | some r, some q => decide (q.finding = 0) || (decide (q.finding = 2) && !r.remap && decide (2 ≤ Map.getD s.mod.spares (dieOf c) 0))
  | _, _ => false

/-- The kind of the notice of a resume: after a remap, or plain. -/
def StopRec.kind (r : StopRec) : Nat := if r.remap then 5 else 3

/-- The key under which an image names a core (see `Image`). (DESIGN CHOICE, log 49.) -/
def parkedKey (gi i : Nat) : Nat := 8192 * (gi + 1) + i

/-- The stopped and recorded core of a parked gang that stood at a core's place: the gang, the core's index and its record. (DEDUCED, log 53.) -/
def State.parkedStop (s : State) (c : Nat) : Option (Nat × Gang × Image × Nat × Core × StopRec) :=
  s.gangs.findSome? fun e =>
    match e.2.image with
    | none => none
    | some m =>
      m.cores.findSome? fun q =>
        match q.2.stop with
        | some r => if e.2.coreAt q.1 = c ∧ q.2.record.isSome = true then some (e.1, e.2, m, q.1, q.2, r) else none
        | none => none

/-- Replace a core of an image. -/
def Image.putCore (m : Image) (i : Nat) (k : Core) : Image :=
  { m with cores := m.cores.map fun q => if q.1 = i then (i, k) else q }

/-- Notices to every core of a parked gang; they are held until it is restored. (DEDUCED, log 53.) -/
def State.notifyParked (s : State) (gi : Nat) (m : Image) (w0 w1 w2 : Word) : State :=
  s.modNet fun n => { n with notices := n.notices ++ m.cores.map fun q => (parkedKey gi q.1, w0, w1, w2) }

/-- The notice of an action on a stopped core. -/
def StopRec.notice (r : StopRec) (kind id : Nat) : Word := noticeWord kind r.info.cause r.info.detail id

/-- CORE_RESUME (R233, R235), of a core or of one in the image of a parked gang. (DEDUCED, log 53.) -/
def execCoreResume (core : Nat) (s : State) : Outcome :=
  happen s (
    let k := s.core core
    match k.stop with
    | some r =>
      if k.mayResume then
        some (((s.setCore core (k.resumed r)).report (s.coreId core) r r.kind).notifyGang core (r.notice r.kind (s.coreId core))
          r.info.val (r.pc.setWidth 64))
      else none
    | none =>
      match s.parkedStop core with
      | none => none
      | some (gi, g, m, i, y, r) =>
        if y.mayResume then
          let s1 := s.modGang gi fun x => { x with image := some (m.putCore i (y.resumed r)) }
          some ((s1.report (g.toLog core) r r.kind).notifyParked gi m (r.notice r.kind (g.toLog core)) r.info.val (r.pc.setWidth 64))
        else none)

/-- End every routine of a core (R233): waits are withdrawn, counts retire (R139), the lease is freed. -/
def State.endRoutines (s : State) (c : Nat) : List Nat → State
  | [] => s
  | l :: r =>
    let s1 := if (s.ctx c l).st = .waiting then s.withdraw c l else s
    (s1.endRoutine c l).endRoutines c r

/-- Discard every matrix command of a lease that a core holds, and of a saved array it waits to have again, with their ranges; ROWPROG shows no
stop any more (R233, R302, R307). -/
def State.discardMatrix (s : State) (c : Nat) : State :=
  let n := quadOf c
  let q := s.quad n
  let mine : Bool := match q.holder with
    | some (h, _) => decide (h = c)
    | none => false
  let s1 := if mine then (s.releaseCmds (clusterOf c) q.cmds).modQuad n fun y => { y with cmds := [], suspended := false } else s
  let saved := ((q.queue.filter fun r => decide (r.core = c)).filterMap fun r => r.saved.map fun v => v.cmds).flatten
  ((s1.releaseCmds (clusterOf c) saved).clearRowprog c).modQuad n fun y => { y with queue := y.queue.filter fun r => decide (r.core ≠ c) }

/-- Retire the messages of a list (R139). -/
def State.retireAll (s : State) : List Msg → State
  | [] => s
  | m :: r => (s.sendRetire m.retire).retireAll r

/-- Mark a job as not resumable (R235). -/
def State.failJob (s : State) (j : Nat) : State :=
  match Map.get? s.vale.jobs j with
  | none => s
  | some x =>
    s.modVale fun v =>
      { v with jobs := Map.set v.jobs j { x with fault := true, toPlace := 0 }, queue := v.queue.filter fun i => decide (i ≠ j) }

/-- Whether a caller is a context of one of the cores that a test names. -/
def callerIn (c : Caller) (p : Nat → Bool) : Bool :=
  match c with
  | .context k _ => p k
  | .control _ _ _ => false

/-- A restart of a core (R233): every context IDLE, queues emptied, counts retired, the array's commands discarded. -/
def State.restart (s : State) (c : Nat) : State :=
  let k := s.core c
  let s1 := ((s.discardMatrix c).endRoutines c [3, 2, 1, 0]).modVale fun v =>
    { v with calls := v.calls.filter fun q => !callerIn q.1 fun n => decide (n = c) }
  let s2 := (s1.retireAll (k.mailbox.map fun e => e.msg)).retireAll k.refusals
  s2.modCore c fun y =>
    { y with mailbox := [], refusals := [], acks := y.acks - k.refusals.length, notices := [], stop := none, record := none }

/-- CORE_RESTART (R233, R235). The image of a parked gang whose core is restarted is never restored: its job ends with FAULT. (DEDUCED, log 53.) -/
def execCoreRestart (core : Nat) (s : State) : Outcome :=
  happen s (
    let k := s.core core
    match k.stop with
    | some r =>
      if s.mayRestart core k then
        let s1 := ((s.restart core).report (s.coreId core) r 4).notifyGang core (r.notice 4 (s.coreId core)) r.info.val
          (r.pc.setWidth 64)
        some (match s.gangOf core with
          | some g => s1.failJob g.job
          | none => s1)
      else none
    | none =>
      match s.parkedStop core with
      | none => none
      | some (gi, g, m, i, y, r) =>
        if s.mayRestart core y then
          let s1 := s.modGang gi fun x => { x with image := some (m.putCore i { y with stop := none, record := none }) }
          some ((((s1.report (g.toLog core) r 4).notifyParked gi m (r.notice 4 (g.toLog core)) r.info.val
            (r.pc.setWidth 64))).failJob g.job)
        else none)

/-- The stopped cores of a parked gang's image that stood in a column are marked as remapped. -/
def Gang.remap (g : Gang) (col : Nat) : Gang :=
  { g with
    image := g.image.map fun m =>
      { m with
        cores := m.cores.map fun q =>
          if coreX (g.coreAt q.1) = col then (q.1, { q.2 with stop := q.2.stop.map fun r => { r with remap := true } }) else q } }

/-- SPARE_COLUMN_REMAP (R234): a spare column replaces a column that no resident gang holds; logical coordinates do not change. A die has
two spare columns. (DEDUCED, log 54.) -/
def execSpareColumnRemap (col : Nat) (s : State) : Outcome :=
  happen s (
    let used := Map.getD s.mod.spares (col / 32) 0
    let cores := (count 0 48).map fun y => y * 128 + col
    if 128 ≤ col ∨ 2 ≤ used then none
    else if cores.any fun c => (s.core c).gang.isSome then none
    else
      let s1 := s.modMod fun m => { m with spares := Map.set m.spares (col / 32) (used + 1) }
      let s2 := cores.foldl (fun t c => t.modCore c fun k => { k with failedBanks := [] }) s1
      some { s2 with gangs := s2.gangs.map fun e => (e.1, e.2.remap col) })

/-- The steward's record of a stopped core notes the mark. -/
def Core.markedRecord (k : Core) : Core := { k with record := k.record.map fun q => { q with marked := true } }
/-- So does the record, in a parked gang's image, of the core that stood at a place. (DEDUCED, log 53.) -/
def Gang.marked (g : Gang) (c : Nat) : Gang :=
  { g with
    image := g.image.map fun m => { m with cores := m.cores.map fun q => if g.coreAt q.1 = c then (q.1, q.2.markedRecord) else q } }

/-- MARK_BANK_FAILED (R174): one of the 18 banks of a core's slice, while none is marked: the code reconstructs one bank. A core whose self-test
found the failed bank may then resume (R233), in the image of a parked gang too. -/
def execMarkBankFailed (core bank : Nat) (s : State) : Outcome :=
  happen s (
    if bank < 18 ∧ (s.core core).failedBanks = [] then
      let s1 := s.modCore core fun k => { k.markedRecord with failedBanks := [bank] }
      some { s1 with gangs := s1.gangs.map fun e => (e.1, e.2.marked core) }
    else none)

/-! ### Allocation (R44 to R46) -/

/-- The key of a completion counter of an address space (R393). (DESIGN CHOICE, log 43.) -/
def counterKey (asid ctr : Nat) : Nat := asid * 4096 + ctr

/-- Whether a job's dependences are met (R45, R393). -/
def State.needsMet (s : State) (j : Job) : Bool := j.need.all fun q => decide (q.2 ≤ Map.getD s.vale.counters (counterKey j.asid q.1) 0)

/-- Whether a cluster is free: no gang holds its cores. -/
def State.clusterFree (s : State) (k : Nat) : Bool := (count 0 8).all fun i => ((s.core (coreIn k i)).gang).isNone

/-- Whether Vale excludes a die: a core of it failed to calibrate (R398). Blocks below 6,144 are the cores of the logical columns.
(DESIGN CHOICE, log 44.) -/
def State.dieFailed (s : State) (d : Nat) : Bool := s.mod.fails.any fun b => decide (b < Config.numCores) && decide (dieOf b = d)

/-- The clusters of a rectangle of clusters. -/
def rectangle (cx cy w h : Nat) : List Nat := (count 0 (w * h)).map fun i => (cy + i / w) * 32 + (cx + i % w)

/-- Whether a rectangle lies on one die and is free (R46). -/
def State.fits (s : State) (cx cy w h : Nat) : Bool :=
  decide (cx % 8 + w ≤ 8) && decide (cy + h ≤ 24) && decide (cx < 32) && !s.dieFailed (cx / 8)
    && (rectangle cx cy w h).all s.clusterFree

/-- The origins in the order of R46: lowest die, then lowest row, then lowest column. -/
def origins : List (Nat × Nat) := (count 0 768).map fun i => (i / 192 * 8 + i % 8, i % 192 / 8)

/-- The origin at which a job's next gang fits, if any. -/
def State.originFor (s : State) (j : Job) : Option (Nat × Nat) :=
  origins.find? fun o => decide (j.diemask / 2 ^ (o.1 / 8) % 2 = 1) && s.fits o.1 o.2 j.width j.height

/-- The jobs of the queue with their numbers, oldest first. -/
def State.queued (s : State) : List (Nat × Job) :=
  s.vale.queue.filterMap fun i => (Map.get? s.vale.jobs i).map fun j => (i, j)

/-- Whether a job goes before another (R44): higher band, then older, then lower queue. The record posted first is the older one.
(DEDUCED, log 98.) -/
def Job.before (a b : Job) : Bool :=
  decide (b.band < a.band)
    || (decide (a.band = b.band) && (decide (a.order < b.order) || (decide (a.order = b.order) && decide (a.queue < b.queue))))

/-- The first job in the order of R44; of equal ones the first of the list. -/
def firstJob : List (Nat × Job × Nat × Nat) → Option (Nat × Job × Nat × Nat)
  | [] => none
  | x :: r =>
    match firstJob r with
    | none => some x
    | some y => if y.2.1.before x.2.1 then some y else some x

/-- A core freed from a gang, or before one: what belongs to the part stays. -/
def Core.freed (k : Core) : Core :=
  { Core.idle with failedBanks := k.failedBanks, corrected := k.corrected, uncorrectable := k.uncorrectable, snap := k.snap }

/-- A cluster freed from a gang: its latched snapshot stays. -/
def Cluster.freed (y : Cluster) : Cluster := { snapRanges := y.snapRanges, snapSlots := y.snapSlots }

/-- Put a fresh gang on its rectangle. (DESIGN CHOICE, log 45.) -/
def State.place (s : State) (gi : Nat) (g : Gang) : State :=
  let s1 := g.cores.foldl (fun t c => t.modCore c fun k => { k.freed with gang := some gi }) s
  let s2 := g.clusters.foldl (fun t k => t.modCluster k Cluster.freed) s1
  { s2 with gangs := Map.set s2.gangs gi g }

/-- The gang that a job's next allocation makes. -/
def Job.gang (j : Job) (id cx cy : Nat) : Gang :=
  { job := id, index := j.ngang - j.toPlace, ngang := j.ngang, asid := j.asid, xgang := j.xgang, width := j.width, height := j.height
    lx := 4 * cx, ly := 2 * cy, px := 4 * cx, py := 2 * cy, hdr := j.hdr, args := j.args, frameq := j.frameq, poolOff := j.poolOff
    poolN := j.poolN, xumask := j.xumask, code := j.code, imageTA := j.imageTA }

/-- GANG_ALLOCATION (R44 to R46): the allocator takes a record and places its next gang. (DESIGN CHOICE, log 43.) -/
def execGangAllocation (s : State) : Outcome :=
  happen s (
    let able := s.queued.filterMap fun q =>
      if s.needsMet q.2 && decide (0 < q.2.toPlace) then (s.originFor q.2).map fun o => (q.1, q.2, o.1, o.2) else none
    match firstJob able with
    | none => none
    | some (i, j, cx, cy) =>
      let gi := s.vale.nextGang
      let left := j.toPlace - 1
      some ((s.place gi (j.gang i cx cy)).modVale fun v =>
        { v with
          nextGang := gi + 1
          jobs := Map.set v.jobs i { j with toPlace := left }
          queue := if left = 0 then v.queue.filter fun x => decide (x ≠ i) else v.queue }))

/-- Counts of the frame counter in 8 slice periods (R44): it counts at 1.4 GHz (R377), and a period is a number of 0.1 ms. (DEDUCED, log 48.) -/
def promotionCounts (period : Nat) : Nat := 8 * period * 140000

/-- BAND_PROMOTION (R44): a record that has waited 8 slice periods rises one band; its age stays. (DEDUCED, log 48.) -/
def execBandPromotion (asid queue idx : Nat) (s : State) : Outcome :=
  happen s (
    match (s.queued.filter fun q => decide (q.2.asid = asid) && decide (q.2.queue = queue))[idx]? with
    | none => none
    | some (i, j) =>
      if j.band < 3 ∧ max j.posted j.promoted + promotionCounts s.vale.period ≤ s.mod.frame then
        some (s.modVale fun v => { v with jobs := Map.set v.jobs i { j with band := j.band + 1, promoted := s.mod.frame } })
      else none)

/-! ### Code objects in tree memory (R395) -/

/-- The place of byte b of an object that begins at a tree address: its elements follow in the order of their paths. (DEDUCED, log 46.) -/
def State.objectByte (s : State) (asid : Nat) (t : Word) (b : Nat) : Option Byte :=
  let e := (s.root asid (taRoot t)).esize
  let m := taPath t + b * 8 / e
  if 2 ^ 48 ≤ m then none
  else
    match s.translate asid (taOf (taRoot t) 24 m) .read with
    | .error _ => none
    | .ok x => if s.badLoc x || x.headed.isSome then none else some (Mem.read s.phys (x.phys + b % ((e + 7) / 8)))

/-- Whether any channel is stalled. -/
def State.anyStall (s : State) : Bool := s.slices.any fun e => !e.2.stalled.isEmpty

/-- Whether an access to n bytes of an object from an offset has to wait for a stalled channel (R341): that of a table, or of the bytes
themselves. (DEDUCED, log 46.) -/
def State.objectStalls (s : State) (asid : Nat) (t : Word) (k : Access) (off n : Nat) : Bool :=
  s.anyStall && (count off n).any fun b =>
    let m := taPath t + b * 8 / (s.root asid (taRoot t)).esize
    let e := taOf (taRoot t) 24 m
    decide (m < 2 ^ 48)
      && (s.walkWaits asid e
        || (match s.translate asid e k with
          | .ok x => s.stalledAt x.phys
          | .error _ => false))

/-- n bytes of an object from an offset; none where it cannot be read. (DEDUCED, log 46.) -/
def State.objectBytes (s : State) (asid : Nat) (t : Word) (off : Nat) : Nat → Option (List Byte)
  | 0 => some []
  | n + 1 =>
    match s.objectByte asid t off, s.objectBytes asid t (off + 1) n with
    | some b, some r => some (b :: r)
    | _, _ => none

/-- A 32-bit word of a byte list at an offset. -/
def word32 (b : List Byte) (off : Nat) : Nat := ofBytes ((b.drop off).take 4)

/-- Whether FP32 bits are finite. -/
def finite32 (x : Nat) : Bool := decide (x / 2 ^ 23 % 256 ≠ 255)

/-- The order of FP32 bits by value: −0 and +0 are equal. -/
def order32 (x : Nat) : Int := if x.testBit 31 then -(x % 2 ^ 31 : Nat) else x

/-- A table from its 1,044-byte image (R285); none for an image that is refused. -/
def tableImage (b : List Byte) : Option XuTable :=
  let lo := word32 b 0
  let hi := word32 b 4
  let flags := word32 b 8
  if finite32 lo && finite32 hi && decide (order32 lo < order32 hi) && decide (flags / 2 = 0) && decide (word32 b 12 = 0) then
    some
      { lo := BitVec.ofNat 32 lo, hi := BitVec.ofNat 32 hi, extrap := decide (flags = 1)
        knots := (count 0 257).map fun k => BitVec.ofNat 32 (word32 b (16 + 4 * k)) }
  else none

/-- The object offset of the image of TBLn: images stand in increasing table number (R395). -/
def CodeHdr.tableOffset (h : CodeHdr) (n : Nat) : Nat :=
  h.tables + 1044 * ((count 0 n).filter fun i => h.tmask.getLsbD i).length

/-- The tables of a mask, loaded from an object's images. -/
def State.objectTables (s : State) (asid : Nat) (t : Word) (h : CodeHdr) (mask : BitVec 16) : List Nat → Option (Map XuTable)
  | [] => some []
  | n :: r =>
    match s.objectTables asid t h mask r with
    | none => none
    | some m =>
      if mask.getLsbD n then
        match (s.objectBytes asid t (h.tableOffset n) 1044).bind tableImage with
        | some x => some (Map.set m n x)
        | none => none
      else some m

/-! ### Start (R47) -/

/-- The segment table of an object of n segments, behind its header (R395); none where it cannot be read. -/
def State.segmentTable (s : State) (asid : Nat) (t : Word) (n : Nat) : Option (List Byte) :=
  s.objectBytes asid t 64 (Config.segmentEntryBytes.val * n)

/-- Cluster address, length and object offset of segment i, from a segment table: 22, 22 and 43 bits. (DESIGN CHOICE, log 47.) -/
def segmentPlace (table : List Byte) (i : Nat) : Nat × Nat × Nat :=
  let e := Config.segmentEntry table i
  (e.1 % 2 ^ 22, e.2.1 % 2 ^ 22, e.2.2 % 2 ^ 43)

/-- Segment i of an object, from its table, with its bytes. -/
def State.objectSegment (s : State) (asid : Nat) (t : Word) (table : List Byte) (i : Nat) : Option Segment :=
  let e := segmentPlace table i
  (s.objectBytes asid t e.2.2 e.2.1).map fun b => { addr := e.1, bytes := b }

/-- What of an object a launch reads, as offsets and lengths: its header with the segment table, its segments, the table images of a mask. -/
def CodeHdr.parts (h : CodeHdr) (table : List Byte) (mask : BitVec 16) : List (Nat × Nat) :=
  (0, 64 + table.length) :: ((count 0 h.nseg).map fun i => ((segmentPlace table i).2.2, (segmentPlace table i).2.1))
    ++ (((count 0 16).filter fun i => mask.getLsbD i).map fun i => (h.tableOffset i, 1044))

/-- Whether reading what a launch takes of an object waits for a stalled channel (R341). -/
def State.launchStalls (s : State) (asid : Nat) (t : Word) (h : CodeHdr) (mask : BitVec 16) : Bool :=
  (h.parts ((s.segmentTable asid t h.nseg).getD []) mask).any fun p => s.objectStalls asid t .read p.1 p.2

/-- The segments of an object from a number on. -/
def State.objectSegments (s : State) (asid : Nat) (t : Word) (table : List Byte) (i : Nat) : Nat → Option (List Segment)
  | 0 => some []
  | n + 1 =>
    match s.objectSegment asid t table i, s.objectSegments asid t table (i + 1) n with
    | some x, some r => some (x :: r)
    | _, _ => none

/-- Write a segment into a cluster, up to the end of its memory; codes become correct. -/
def State.writeSegment (s : State) (k : Nat) (g : Segment) : State :=
  let b := g.bytes.take (Config.clusterBytes - g.addr)
  s.cwriteBytes k g.addr b

/-- The routine table of a header, in cluster memory (R395, R40): first address and length. -/
def State.routineTable (s : State) (k : Nat) (h : CodeHdr) : List (Nat × Nat) :=
  (count 0 h.nrtn).map fun i =>
    let w := s.cread k (h.rtab + 8 * i) 8
    (w % 2 ^ 22, w / 2 ^ 32 % 2 ^ 22 - w % 2 ^ 22)

/-- A dispatch entry of the directives of an object with a segment 0: valid only at levels 1 to 3, and never of a device's class (R114). (DESIGN
CHOICE, log 47.) -/
def objectEntry (code : List Byte) (cls : Nat) : BitVec 32 :=
  let e := Config.objectDispatch code cls
  if e.getLsbD 31 && decide (e.toNat / 2 ^ 28 % 4 ≠ 0) && (decide (cls < 0xF0) || (decide (0xFC ≤ cls) && decide (cls < 0xFF))) then
    dispatchEntry (e.getLsbD 30) (e.toNat / 2 ^ 28 % 4) (e.toNat % 2 ^ 22 / 2 * 2)
  else 0

/-- The dispatch store of an object's directives. -/
def objectStore (code : List Byte) : Map (BitVec 32) :=
  (count 0 256).foldl (fun m c => if objectEntry code c = 0 then m else Map.set m c (objectEntry code c)) []

/-- The image of a dispatch store: 256 little-endian entries in class order (R115). -/
def storeBytes (m : Map (BitVec 32)) : List Byte := ((count 0 256).map fun c => bytesOf (Map.getD m c 0).toNat 4).flatten

/-- Write a core's dispatch store to its DISPBASE (R115). -/
def State.writeDispatch (s : State) (c : Nat) : State :=
  s.cwriteBytes (clusterOf c) (s.core c).dispbase.toNat (storeBytes (s.core c).dispatch)

/-- Thread a node pool into a free list in increasing address order (R351): n nodes from an address. -/
def State.threadPool (s : State) (k a : Nat) : Nat → State
  | 0 => s
  | n + 1 =>
    let s1 := s.cwrite k a 32 ((if n = 0 then 0 else a + 32) * 2 ^ 64)
    s1.threadPool k (a + 32) n

/-- Steps 2 and 3 of R47 for core i of a cluster. PC bit 0 is always 0 (R50), so that an odd ENTRY loses its bit 0. (DEDUCED, log 93.) -/
def State.startCore (s : State) (g : Gang) (code : List Byte) (k i : Nat) : State :=
  let c := coreIn k i
  let home := i * 2 ^ 19
  let pool := home + g.poolOff
  let x : Ctx := { Ctx.start 0 with mb := (count 0 7).map fun n => (n, g.args.getD n 0), pc := g.hdr.entry / 2 * 2 }
  let s1 := s.modCore c fun y =>
    { y.setBank 0 x with
      dispatch := objectStore code
      dispbase := BitVec.ofNat 22 (home + g.hdr.dispoff)
      mbxcfg := 64
      mailbox := []
      refusals := []
      rulebase := w64 ((home + g.hdr.ringoff) % 2 ^ 22 * 2 ^ 32 + g.hdr.table % 2 ^ 22)
      frameq := g.frameq
      freeHead := if g.poolN = 0 then 0 else pool
      freeLen := g.poolN }
  (s1.writeDispatch c).threadPool k pool g.poolN

/-- GANG_START (R47 steps 1 to 3), for one cluster: header and segment 0 are in place, later segments stream on. The spec gives the header no
place in cluster memory: it writes no byte there, and its fields are held beside the cluster. (DESIGN CHOICE, log 45.) (DEDUCED, log 94.) -/
def execGangStart (gang cluster : Nat) (s : State) : Outcome :=
  happen s (
    match Map.get? s.gangs gang with
    | none => none
    | some g =>
      if g.st ≠ .allocated ∨ g.begun.contains cluster = true ∨ g.clusters.contains cluster = false
          ∨ s.launchStalls g.asid g.code g.hdr g.xumask = true then none
      else
        match (s.segmentTable g.asid g.code g.hdr.nseg).bind fun b => s.objectSegments g.asid g.code b 0 g.hdr.nseg, s.objectTables g.asid g.code g.hdr g.xumask (count 0 16) with
        | some (seg :: later), some tables =>
          let s1 := s.writeSegment cluster seg
          let h := { g.hdr with routines := s1.routineTable cluster g.hdr }
          let s2 := s1.modCluster cluster fun y => { y with hdr := h, segments := later, tables := tables }
          let s3 := (count 0 8).foldl (fun t i => t.startCore g seg.bytes cluster i) s2
          some (s3.modGang gang fun x => { x with begun := x.begun ++ [cluster] })
        | _, _ => none)

/-- The contexts of a list that wait for a segment that has arrived are READY again. -/
def State.wakeSegment (s : State) (k : Nat) : List (Nat × Nat) → State
  | [] => s
  | (c, l) :: r =>
    let s1 := match (s.ctx c l).wait with
      | .segment a => if s.absent k a then s else s.modCtx c l fun x => { x with st := .ready, wait := .none }
      | _ => s
    s1.wakeSegment k r

/-- The buffer of a core discarded where it holds bytes of a segment. (DEDUCED, log 58.) -/
def Core.dropSegment (y : Core) (g : Segment) : Core :=
  match y.ibuf with
  | some (b, _, _) => if b < g.addr + g.bytes.length ∧ g.addr < b + 64 then { y with ibuf := none } else y
  | none => y

/-- SEGMENT_ARRIVAL (R396): the next segment of a cluster is whole. (DEDUCED, log 58.) -/
def execSegmentArrival (cluster : Nat) (s : State) : Outcome :=
  happen s (
    match (s.cluster cluster).segments with
    | [] => none
    | g :: r =>
      let s1 := (s.writeSegment cluster g).modCluster cluster fun y => { y with segments := r }
      let s2 := (count 0 8).foldl (fun t i => t.modCore (coreIn cluster i) fun y => y.dropSegment g) s1
      some (s2.wakeSegment cluster (contextsOf cluster)))

/-- LAUNCH_CONTEXT_START (R47 step 4). -/
def execLaunchContextStart (gang : Nat) (s : State) : Outcome :=
  happen s (
    match Map.get? s.gangs gang with
    | none => none
    | some g =>
      if g.st = .allocated ∧ (g.clusters.all g.begun.contains) = true then
        let s1 := g.cores.foldl (fun t c => t.modCore c fun k =>
          { k.setBank 0 { k.bank 0 with st := .ready } with balNext := some (k.cycle + k.balInterval) }) s
        some (s1.modGang gang fun x => { x with st := .running })
      else none)

/-! ### Completion (R48) -/

/-- Whether a mailbox entry is a parked message (R25): it waits for its class to be bound. -/
def Core.parkedEntry (k : Core) (e : MailEntry) : Bool := !hdrDep e.msg.hdr && (k.entry (hdrClass e.msg.hdr)).isNone

/-- Whether a core of a gang lets it complete: contexts IDLE, no pending message, no refusal, no outstanding acknowledgement. (DEDUCED, log 56.) -/
def Core.complete (k : Core) : Bool :=
  ((count 0 4).all fun l => decide ((k.bank l).st = .idle)) && k.mailbox.all k.parkedEntry && k.refusals.isEmpty && decide (k.acks = 0)
    && k.sysq.isEmpty

/-- Whether a flit concerns a core of a gang: a message its sender or its receiver, a request its sender, an answer the core that it is for. -/
def Msg.isOf (m : Msg) (g : Gang) : Bool :=
  match m.load with
  | none => g.holds m.src || g.holds m.dst
  | some _ => g.holds (if m.request then m.src else m.dst)

/-- Whether writes that a gang's cores have issued are not performed yet: shipped functions, engine operations, writes of headed pages (R393). -/
def State.writesLeft (s : State) (g : Gang) : Bool :=
  (s.ships.any fun q => g.holds q.core) || (s.engines.any fun e => g.holds e.core)
    || (s.net.msgs.any fun m => m.toSlice && g.holds m.src) || (s.slices.any fun e => e.2.reqs.any fun q => q.write && g.holds q.core)

/-- Whether messages, notices or writes of a gang's cores are still under way. (DEDUCED, log 56.) -/
def State.inFlight (s : State) (g : Gang) : Bool :=
  (s.net.msgs.any fun m => m.isOf g) || (s.net.outbox.any fun n => g.holds n.core) || s.writesLeft g

/-- A quad without the leases of a gang's cores. -/
def Quad.without (q : Quad) (g : Gang) : Quad :=
  let q1 := { q with queue := q.queue.filter fun r => !g.holds r.core }
  match q1.holder with
  | some (c, _) => if g.holds c then { q1.release with cmds := [] } else q1
  | none => q1

/-- Everything of a gang's cores in flight is dropped. -/
def Net.without (n : Net) (g : Gang) : Net :=
  { n with
    msgs := n.msgs.filter fun m => !m.isOf g
    retires := n.retires.filter fun r => !g.holds r.router
    closes := n.closes.filter fun q => !g.holds q.1
    notices := n.notices.filter fun q => !g.holds q.1
    outbox := n.outbox.filter fun q => !g.holds q.core
    routes := n.routes.filter fun q => !g.holds q.1 }

/-- The cores and clusters of a gang's rectangle are free again. (DESIGN CHOICE, log 45.) (DEDUCED, log 51.) -/
def State.vacate (s : State) (g : Gang) : State :=
  let s1 := g.cores.foldl (fun t c => t.modCore c Core.freed) s
  let s2 := g.clusters.foldl (fun t k => t.modCluster k Cluster.freed) s1
  { s2 with
    quads := s2.quads.map fun e => (e.1, e.2.without g)
    engines := s2.engines.filter fun e => !g.holds e.core
    bdps := s2.bdps.map fun e => (e.1, e.2.filter fun q => !g.holds q.core)
    slices := s2.slices.map fun e => (e.1, { e.2 with reqs := e.2.reqs.filter fun q => !(g.holds q.core && !q.write) })
    net := s2.net.without g
    vale := { s2.vale with calls := s2.vale.calls.filter fun q => !callerIn q.1 g.holds } }

/-- A gang leaves for good; one that is parked holds no rectangle, only its image and held notices. -/
def State.removeGang (s : State) (gi : Nat) (g : Gang) : State :=
  let s1 := if g.image.isSome then
      (s.modNet fun n => { n with notices := n.notices.filter fun q => decide (q.1 / 8192 ≠ gi + 1) }).modVale fun v =>
        { v with calls := v.calls.filter fun q => !callerIn q.1 fun k => decide (k / 8192 = gi + 1) }
    else s.vacate g
  { s1 with gangs := Map.del s1.gangs gi }

/-- A job completes (R48, R393): its status, and its DONE counter rises. -/
def State.completeJob (s : State) (i : Nat) (j : Job) (status : Nat) : State :=
  s.modVale fun v =>
    { v with
      jobs := Map.set v.jobs i { j with status := some status, live := 0, toPlace := 0 }
      queue := v.queue.filter fun x => decide (x ≠ i)
      counters := if j.doneCtr < 4096 then
          Map.set v.counters (counterKey j.asid j.doneCtr) ((Map.getD v.counters (counterKey j.asid j.doneCtr) 0 + 1) % 2 ^ 64)
        else v.counters }

/-- A gang of a job has ended: the job completes with its last one. (DEDUCED, log 56.) -/
def State.gangEnded (s : State) (i parked : Nat) : State :=
  match Map.get? s.vale.jobs i with
  | none => s
  | some j =>
    let j1 := { j with live := j.live - 1, parked := j.parked + parked }
    if (s.gangs.any fun e => decide (e.2.job = i)) || (!j1.fault && decide (0 < j1.toPlace)) then
      s.modVale fun v => { v with jobs := Map.set v.jobs i j1 }
    else s.completeJob i j1 (if j1.fault then 3 else if 0 < j1.parked then 1 else 0)

/-- Whether a gang's job is not resumable. -/
def State.jobFailed (s : State) (g : Gang) : Bool := ((Map.get? s.vale.jobs g.job).map fun j => j.fault).getD false

/-- GANG_COMPLETION (R48): parked messages are discarded and counted; or Vale ends a gang whose job failed (R235), once the writes it issued are
visible (R393). (DEDUCED, log 56.) -/
def execGangCompletion (gang : Nat) (s : State) : Outcome :=
  happen s (
    match Map.get? s.gangs gang with
    | none => none
    | some g =>
      if s.jobFailed g then
        if g.image.isNone && s.writesLeft g then none else some ((s.removeGang gang g).gangEnded g.job 0)
      else if g.st = .running ∧ (g.cores.all fun c => (s.core c).complete) = true ∧ s.inFlight g = false then
        let parked := (g.cores.map fun c => (s.core c).mailbox.length).foldr (· + ·) 0
        some ((s.removeGang gang g).gangEnded g.job parked)
      else none)

/-! ### Pre-emption (R49, R236) -/

/-- A pre-emption request: every gang of an XGANG job is pre-empted together (R17). -/
def State.preempt (s : State) (gi : Nat) : State :=
  match Map.get? s.gangs gi with
  | none => s
  | some g =>
    { s with
      gangs := s.gangs.map fun e =>
        if (decide (e.1 = gi) || (g.xgang && decide (e.2.job = g.job))) && decide (e.2.st = .running) then
          (e.1, { e.2 with st := .preempting })
        else e }

/-- Whether a gang runs. -/
def State.runs (s : State) (gi : Nat) : Bool := ((Map.get? s.gangs gi).map fun g => decide (g.st = .running)).getD false

/-- PREEMPTION_REQUEST (R49). -/
def execPreemptionRequest (gang : Nat) (s : State) : Outcome := happen s (if s.runs gang then some (s.preempt gang) else none)

/-- The module's 1588 time at the start of the current frame, in ns (R386): the frame counter counts at 1.4 GHz (R377). -/
def Module.clock (m : Module) : Nat := ((m.frame * 5 / 7 : Nat) + m.timeOffset).toNat
/-- Nanoseconds in a frame. -/
def frameNs : Nat := 5852

/-- TIME_SLICE_SWITCH (R386): the pre-emption requests of one switch, at its 1588 instant, which the module's clock reaches in the current frame or
has reached. -/
def execTimeSliceSwitch (instant : Nat) (gangs : List Nat) (s : State) : Outcome :=
  happen s (
    if instant < s.mod.clock + frameNs then
      some (gangs.foldl (fun t g => t.preempt g) (s.modMod fun m => { m with time := max m.time instant }))
    else none)

/-- Stop the links that wait on a claim, of a core's contexts that a test names (R363). -/
def State.stopLinks (s : State) (c : Nat) (p : Ctx → Bool) : State :=
  (count 0 4).foldl (fun t l => if p (t.ctx c l) then t.stopLink c l else t) s

/-- Whether a core's gang is being pre-empted. -/
def State.preempting (s : State) (c : Nat) : Bool := ((s.gangOf c).map fun g => decide (g.st = .preempting)).getD false

/-- 0.40 µs in picoseconds (R236). (DEDUCED, log 55.) -/
def haltWindow : Nat := 400000

/-- PREEMPT_DISTRIBUTION (R236). -/
def execPreemptDistribution (core : Nat) (s : State) : Outcome :=
  happen s (
    let k := s.core core
    if s.preempting core && decide (k.halting = none) then
      some ((s.setCore core { k with halting := some k.cycle, haltLeft := haltWindow }).stopLinks core fun x => !x.rtc)
    else none)

/-- The frequency of the island of a core, in MHz: that of its quad (R401). (DESIGN CHOICE, log 92.) -/
def State.mhzOf (s : State) (c : Nat) : Nat := (Map.getD s.mod.islands (quadOf c) (1400, 0)).1

/-- Cycles of its island's present clock in which the rest of the 0.40 µs of R236 passes (R6, R49). (DEDUCED, log 55.) -/
def State.rtcHaltCycles (s : State) (c : Nat) : Nat := ((s.core c).haltLeft * s.mhzOf c + 999999) / 1000000

/-- The island of a core that is halting changes its clock: the time that has passed is taken from what is left of the 0.40 µs, whole picoseconds of
it, so that the window is never shorter (R236). (DEDUCED, log 55.) -/
def Core.retuned (k : Core) (old new : Nat) : Core :=
  match k.halting with
  | some h => if old = new then k else { k with halting := some k.cycle, haltLeft := k.haltLeft - (k.cycle - h) * 1000000 / old }
  | none => k

/-- The module changes its islands' clocks (R401). (DEDUCED, log 55.) -/
def State.retune (s : State) (f : Module → Module) : State :=
  let t := s.modMod f
  { t with cores := t.cores.map fun e => (e.1, e.2.retuned (s.mhzOf e.1) (t.mhzOf e.1)) }

/-- RTC_LATE_HALT (R236): a routine that has not ended in time halts too. (DEDUCED, log 55.) -/
def execRtcLateHalt (core : Nat) (s : State) : Outcome :=
  happen s (
    let k := s.core core
    match k.halting with
    | none => none
    | some h =>
      if h + s.rtcHaltCycles core ≤ k.cycle ∧ k.lateHalt = false ∧ ((count 0 4).any fun l => (k.bank l).rtc && k.active l) = true then
        some ((s.setCore core { k with lateHalt := true }).stopLinks core fun x => x.rtc)
      else none)

/-! ### Names of cores in an image -/

/-- A retirement with its router renamed. -/
def Retire.rn (f : Nat → Nat) (r : Retire) : Retire := { r with router := f r.router }
/-- What a flit brings with the core it names renamed. -/
def Load.rn (f : Nat → Nat) : Load → Load
  | .page q => .page { q with core := f q.core }
  | .ship q => .ship { q with core := f q.core }
  | .amo q => .amo { q with core := f q.core }
  | q => q
/-- A message with its cores renamed; the end router of a request to an edge slice is a place. -/
def Msg.rn (f : Nat → Nat) (m : Msg) : Msg :=
  let m1 := { m with src := f m.src, load := m.load.map (·.rn f), retire := m.retire.rn f }
  if m.toSlice then m1 else { m1 with dst := f m.dst, pos := f m.pos }
/-- A churn entry with its counter renamed. -/
def ChurnEntry.rn (f : Nat → Nat) (e : ChurnEntry) : ChurnEntry := { e with counter := f e.counter }
/-- A bank with the cores it names renamed. -/
def Ctx.rn (f : Nat → Nat) (x : Ctx) : Ctx := { x with started := x.started.map (·.rn f), popped := x.popped.map (·.rn f) }
/-- Link queues with their destinations renamed. -/
def rnFlits (f : Nat → Nat) (m : Map (List LinkFlit)) : Map (List LinkFlit) :=
  m.map fun e => (e.1, e.2.map fun x => { x with dst := f x.dst })
/-- A steward's record with the cores it names renamed. -/
def StewardRec.rn (f : Nat → Nat) (q : StewardRec) : StewardRec :=
  { q with
    banks := q.banks.map fun e => (e.1, e.2.rn f)
    inq := rnFlits f q.inq
    outq := rnFlits f q.outq
    mailbox := q.mailbox.map fun e => { e with msg := e.msg.rn f }
    refusals := q.refusals.map (·.rn f) }
/-- A caller with its core renamed. -/
def callerRn (f : Nat → Nat) : Caller → Caller
  | .context c l => .context (f c) l
  | .control a x w => .control a x w
/-- A core with the cores it names renamed. -/
def Core.rn (f : Nat → Nat) (k : Core) : Core :=
  { k with
    ctx := k.ctx.map fun e => (e.1, e.2.rn f)
    inq := rnFlits f k.inq
    outq := rnFlits f k.outq
    mailbox := k.mailbox.map fun e => { e with msg := e.msg.rn f }
    refusals := k.refusals.map (·.rn f)
    sysq := k.sysq.map fun q => { q with core := f q.core }
    churn := k.churn.map (·.rn f)
    record := k.record.map (·.rn f) }
/-- A cluster with the cores it names renamed. -/
def Cluster.rn (f : Nat → Nat) (y : Cluster) : Cluster :=
  { y with
    barQ := y.barQ.map fun e => (e.1, e.2.map fun w => (f w.1, w.2))
    lockQ := y.lockQ.map fun e => (e.1, e.2.map fun w => (f w.1, w.2))
    ranges := y.ranges.map fun r => { r with core := f r.core }
    places := y.places.map fun p => { p with core := f p.core }
    ku := y.ku.map fun e => (e.1, { e.2 with owner := e.2.owner.map fun o => (f o.1, o.2) }) }
/-- An image with the cores it names renamed. -/
def Image.rn (f : Nat → Nat) (m : Image) : Image :=
  { m with
    cores := m.cores.map fun e => (e.1, e.2.rn f)
    clusters := m.clusters.map fun e => (e.1, e.2.rn f)
    leases := m.leases.map fun r => { r with core := f r.core }
    engines := m.engines.map fun e => { e with core := f e.core }
    outbox := m.outbox.map fun n => { n with core := f n.core, dst := f n.dst }
    routes := m.routes.map fun r => (f r.1, r.2.1, f r.2.2) }
/-- Flits in flight with the cores they name renamed. -/
def Net.rn (f : Nat → Nat) (n : Net) : Net :=
  { n with
    msgs := n.msgs.map (·.rn f)
    retires := n.retires.map (·.rn f)
    closes := n.closes.map fun q => (f q.1, q.2)
    notices := n.notices.map fun q => (f q.1, q.2)
    outbox := n.outbox.map fun q => { q with core := f q.core, dst := f q.dst }
    routes := n.routes.map fun r => (f r.1, r.2.1, f r.2.2) }
/-- The state with cores renamed wherever a value names one; the keys of cores, clusters and quads stay. -/
def State.rn (f : Nat → Nat) (s : State) : State :=
  { s with
    cores := s.cores.map fun e => (e.1, e.2.rn f)
    clusters := s.clusters.map fun e => (e.1, e.2.rn f)
    quads := s.quads.map fun e =>
      (e.1, { e.2 with
        queue := e.2.queue.map fun r => { r with core := f r.core }
        last := e.2.last.map fun w => (w.1, f w.2.1, w.2.2) })
    slices := s.slices.map fun e => (e.1, { e.2 with reqs := e.2.reqs.map fun q => { q with core := f q.core } })
    bdps := s.bdps.map fun e => (e.1, e.2.map fun q => { q with core := f q.core })
    vale := { s.vale with calls := s.vale.calls.map fun q => (callerRn f q.1, q.2) }
    watch := s.watch.map fun e => (watchKey (f (e.1 / 4)) (e.1 % 4), e.2)
    gangs := s.gangs.map fun e => (e.1, { e.2 with image := e.2.image.map (·.rn f) })
    engines := s.engines.map fun e => { e with core := f e.core }
    net := s.net.rn f }

/-! ### The image (R145, R237, R238) -/

/-- Whether a context of a core being pre-empted has halted (R236): nothing pending, nothing unfinished but a system call that
is not yet answered, and no routine that may still issue. -/
def Core.ctxHalted (k : Core) (l : Nat) : Bool :=
  let x := k.bank l
  x.pend.isEmpty && !(k.active l && k.mayIssue l && decide (k.stop = none))
    && (match x.op with
        | .none => true
        | .call _ _ _ none => true
        | .trap _ _ => k.stop.isSome
        | _ => false)

/-- Whether a core has halted; a stopped one once the steward has recorded it. -/
def Core.isHalted (k : Core) : Bool :=
  (k.halting.isSome && (decide (k.stop = none) || k.record.isSome)) && (count 0 4).all k.ctxHalted

/-- Whether every message, deposit, notice and request of a gang has been resolved, and its copies are at a sub-block boundary (R237, R196). -/
def State.resolved (s : State) (g : Gang) : Bool :=
  !(s.net.msgs.any fun m => m.isOf g) && !(s.net.closes.any fun q => g.holds q.1)
    && !(s.net.retires.any fun r => g.holds r.router) && !(s.bdps.any fun e => e.2.any fun q => g.holds q.core)
    && !(s.slices.any fun e => e.2.reqs.any fun q => g.holds q.core) && !(s.engines.any fun e => g.holds e.core && decide (e.part ≠ 0))

/-- The gangs that are saved together with a gang (R17): those of its XGANG job. -/
def State.together (s : State) (gi : Nat) (g : Gang) : List Gang :=
  (s.gangs.filter fun e => decide (e.1 = gi) || (g.xgang && decide (e.2.job = g.job))).map fun e => e.2

/-- Whether a gang, and those saved with it, are ready to be written. (DEDUCED, log 52.) -/
def State.maySave (s : State) (gi : Nat) (g : Gang) : Bool :=
  decide (g.st = .preempting)
    && (s.together gi g).all fun h =>
      decide (h.st = .parked) || (decide (h.st = .preempting) && (h.cores.all fun c => (s.core c).isHalted) && s.resolved h)

/-- A context as the image holds it: its own state. An unanswered system call stays in its place among Vale's calls. (DEDUCED, log 51.) -/
def Ctx.saved (x : Ctx) : Ctx := { x with st := if x.st = .running then .ready else x.st }

/-- A core as the image holds it: no buffer, no request of pre-emption, nothing of the part's own. -/
def Core.saved (k : Core) : Core :=
  { k with ibuf := none, halting := none, lateHalt := false, gang := none, snap := none, failedBanks := [], corrected := 0
           uncorrectable := 0, ctx := k.ctx.map fun e => (e.1, e.2.saved) }

/-- The lease requests of a gang's cores at a quad, the holder first with its array (R310); cores are renamed. -/
def Quad.leasesOf (q : Quad) (g : Gang) (f : Nat → Nat) (parked : LeaseReq → Bool) : List LeaseReq :=
  (match q.holder with
    | some (c, l) =>
      if g.holds c then
        [{ core := f c, level := l,
           saved := some { arr := q.arr, cmds := q.cmds, accepted := q.accepted, suspended := q.suspended, freeing := q.freeing } }]
      else []
    | none => []) ++ q.queue.filter parked

/-- The name of a core in the image of its gang. -/
def parkName (gi : Nat) (g : Gang) (c : Nat) : Nat := if g.holds c then parkedKey gi (g.indexOf c) else c
/-- The core that a name of an image stands for once the gang is placed. -/
def placeName (gi : Nat) (g : Gang) (n : Nat) : Nat := if n / 8192 = gi + 1 then g.coreAt (n % 8192) else n

/-- The image of a gang; `s` has its cores renamed. (DESIGN CHOICE, log 49.) (DESIGN CHOICE, log 50.) -/
def State.imageOf (s : State) (gi : Nat) (g : Gang) : Image :=
  let ks := (count 0 (g.width * g.height)).zip g.clusters
  let mine (n : Nat) : Bool := decide (n / 8192 = gi + 1)
  { cores := g.cores.map fun c => (g.indexOf c, (s.core c).saved)
    clusters := ks.map fun e => (e.1, { (s.cluster e.2).settled with snapRanges := [], snapSlots := [] })
    mem := (ks.map fun e =>
      (s.cmem.filter fun q => decide (q.1 / Config.clusterBytes = e.2)).map fun q =>
        (e.1 * Config.clusterBytes + q.1 % Config.clusterBytes, q.2)).flatten
    guards := (ks.map fun e => (s.guards.filter fun n => decide (n / 65536 = e.2)).map fun n => e.1 * 65536 + n % 65536).flatten
    leases := (s.quads.map fun e => e.2.leasesOf g (parkName gi g) fun r => mine r.core).flatten
    engines := s.engines.filter fun e => mine e.core
    outbox := s.net.outbox.filter fun n => mine n.core
    routes := s.net.routes.filter fun r => mine r.1 }

/-- Drop what an image took of the engines, notices, routes and requests. -/
def State.dropParked (s : State) (gi : Nat) : State :=
  let mine (n : Nat) : Bool := decide (n / 8192 = gi + 1)
  { s with
    engines := s.engines.filter fun e => !mine e.core
    quads := s.quads.map fun e => (e.1, { e.2 with queue := e.2.queue.filter fun r => !mine r.core })
    net := { s.net with outbox := s.net.outbox.filter fun n => !mine n.core, routes := s.net.routes.filter fun r => !mine r.1 } }

/-- Write a byte of an object of tree memory; none where its element is not mapped for writing. A write to a retired channel is dropped and counted
(R342). (DEDUCED, log 32.) -/
def State.putObjectByte (s : State) (asid : Nat) (t : Word) (b : Nat) (v : Byte) : State :=
  let e := (s.root asid (taRoot t)).esize
  let m := taPath t + b * 8 / e
  if 2 ^ 48 ≤ m then s
  else
    match s.translate asid (taOf (taRoot t) 24 m) .write with
    | .error _ => s
    | .ok x =>
      if x.headed.isSome then s
      else if s.retired x.phys then s.modSlice (homeSlice x.phys) fun y => { y with dropped := y.dropped + 1 }
      else
        let s1 := s.freshSector x
        { s1 with phys := Mem.write s1.phys (x.phys + b % ((e + 7) / 8)) v }

/-- The image's bytes are written to the area that the launch record names (R237). Their layout is not given, so they are free.
(DESIGN CHOICE, log 49.) -/
def State.putImageBytes (s : State) (g : Gang) : State :=
  let l := Config.imageBytes s.freeCtr
  { ((count 0 l.length).zip l).foldl (fun t q => t.putObjectByte g.asid g.imageTA q.1 q.2) s with freeCtr := s.freeCtr + 1 }

/-- IMAGE_WRITE (R237): the image is written, Vale told, and the gang's cores are free. The write waits for a stalled channel (R343). -/
def execImageWrite (gang : Nat) (s : State) : Outcome :=
  happen s (
    match Map.get? s.gangs gang with
    | none => none
    | some g =>
      if s.maySave gang g && !s.objectStalls g.asid g.imageTA .write 0 (Config.imageBytes s.freeCtr).length then
        let s1 := ((g.cores.foldl (fun t c => t.writeDispatch c) s).putImageBytes g).rn (parkName gang g)
        let m := s1.imageOf gang g
        let s2 := (s1.dropParked gang).vacate g
        let s3 := s2.modVale fun v => { v with told := v.told ++ [gang] }
        some (s3.modGang gang fun x => { x with st := .parked, image := some m })
      else none)

/-! ### Restore (R239) -/

/-- Cluster memory of a gang's clusters replaced by an image's, with guard bits; codes are regenerated. (DESIGN CHOICE, log 50.) -/
def State.loadMemory (s : State) (g : Gang) (m : Image) : State :=
  let kept := s.cmem.filter fun q => !g.clusters.contains (q.1 / Config.clusterBytes)
  let at_ (i : Nat) : Nat := g.clusters.getD i 0
  { s with
    cmem := m.mem.foldl (fun t q => Mem.write t (at_ (q.1 / Config.clusterBytes) * Config.clusterBytes + q.1 % Config.clusterBytes) q.2) kept
    guards := (m.guards.map fun n => at_ (n / 65536) * 65536 + n % 65536).foldl NatSet.insert
      (s.guards.filter fun n => !g.clusters.contains (n / 65536))
    wrong := s.wrong.filter fun e => !g.clusters.contains (clusterOf e.core)
    restored := s.restored.filter fun e => !g.clusters.contains (clusterOf e.1) }

/-- A saved core put on a core of the part. Its next automatic exchange falls INTERVAL cycles after the restore (R369). -/
def Core.restoredOn (k : Core) (gi : Nat) (part : Core) : Core :=
  { k with gang := some gi, failedBanks := part.failedBanks, corrected := part.corrected, uncorrectable := part.uncorrectable
           snap := part.snap, balNext := if k.balInterval = 0 then none else some (k.cycle + k.balInterval) }

/-- An image put on a gang's rectangle; its names already stand for the new cores. (DESIGN CHOICE, log 49.) -/
def State.loadImage (s : State) (gi : Nat) (g : Gang) (m : Image) : State :=
  let s1 := m.cores.foldl (fun t q => t.modCore (g.coreAt q.1) fun k => q.2.restoredOn gi k) s
  let s2 := m.clusters.foldl (fun t q => t.modCluster (g.clusters.getD q.1 0) fun y =>
    { q.2 with snapRanges := y.snapRanges, snapSlots := y.snapSlots }) s1
  let s3 := (s2.loadMemory g m).modNet fun n => { n with outbox := n.outbox ++ m.outbox, routes := n.routes ++ m.routes }
  let s4 := m.leases.foldl (fun t r => t.modQuad (quadOf r.core) fun q => { q with queue := q.queue ++ [r] }) s3
  { s4 with engines := s4.engines ++ m.engines }

/-- The restored gangs of a job run once none of them is still parked or being saved (R17). (DEDUCED, log 52.) -/
def State.resumeJob (s : State) (gi : Nat) (g : Gang) : State :=
  if (s.together gi g).all fun h => decide (h.st ≠ .parked) && decide (h.st ≠ .preempting) then
    { s with
      gangs := s.gangs.map fun e =>
        if (decide (e.1 = gi) || (g.xgang && decide (e.2.job = g.job))) && decide (e.2.st = .restored) then (e.1, { e.2 with st := .running })
        else e }
  else s

/-- GANG_RESTORE (R239): onto a free rectangle of the gang's shape, at a cluster column and row; not before the steward's report on a
stopped core (R237). (DEDUCED, log 53.) -/
def execGangRestore (gang cx cy : Nat) (s : State) : Outcome :=
  happen s (
    match Map.get? s.gangs gang with
    | none => none
    | some g =>
      match g.image with
      | none => none
      | some m =>
        if g.st ≠ .parked ∨ s.fits cx cy g.width g.height = false ∨ s.jobFailed g = true
            ∨ (m.cores.any fun q => q.2.stop.isSome) = true then none
        else
          let h : Gang := { g with px := 4 * cx, py := 2 * cy, st := .restored, image := none }
          let s1 := s.rn (placeName gang h)
          let s2 := s1.loadImage gang h (m.rn (placeName gang h))
          some ({ s2 with gangs := Map.set s2.gangs gang h }.resumeJob gang h))

end Sys2Proof.Machine
end

