-- ==== Sys2Proof/Machine/Edge.lean ====
section
/-! DEFINITION. Edge slices beside key-value pages: base-die processors and shipped functions (R203 to R205, R336 to R338), refresh (R339,
R340), row remapping and retired channels (R341, R342). -/
namespace Sys2Proof.Machine

/-! ### Primitives (R204, R205) -/

/-- A sum of two codes of a format, rounded to nearest even. -/
def addCodes (f : Fmt) (a b : Nat) : Nat := encodeFp (fpAdd (valueOf f a) (valueOf f b) .rne) f .rne false

/-- A pair primitive (R205): `better` compares the new value with the old one. -/
def pairNew (o x : Nat) (better : Fp → Fp → Bool) : Nat :=
  let vo := v32 (o % 2 ^ 32)
  let vx := v32 (x % 2 ^ 32)
  if better vx vo || (fpEq vx vo && decide (x / 2 ^ 32 < o / 2 ^ 32)) then x else o

/-- The lanes of primitives 18 and 19: BF16 lane e of the target plus an addend, where there is one. -/
def addLanes (o n : Nat) (addend : Nat → Option Nat) : Nat :=
  packLanes 16 ((count 0 n).map fun e =>
    match addend e with
    | some x => addCodes fmtBf16 (lane o 16 e) x
    | none => lane o 16 e)

/-- The new target value of w bits from the old one and the operands (R205). In primitive 20 the target is the counter. -/
def primNew (p w o op1 op2 : Nat) : Nat :=
  let x := op1 % 2 ^ w
  let y := op2 % 2 ^ w
  let sx := signedOf w x
  let so := signedOf w o
  match p with
  | 0 => o
  | 1 => x
  | 2 => (o + x) % 2 ^ w
  | 3 => wrap (satS (so + sx) w) w
  | 4 => min (o + x) (2 ^ w - 1)
  | 5 => o - x
  | 6 => if sx < so then x else o
  | 7 => if so < sx then x else o
  | 8 => min o x
  | 9 => max o x
  | 10 => o &&& x
  | 11 => o ||| x
  | 12 => o ^^^ x
  | 13 => if o = x then y else o
  | 14 => (o - (o &&& y)) ||| (x &&& y)
  | 15 => addCodes fmtFp32 o x
  | 16 => c32 (fMin (v32 o) (v32 x))
  | 17 => c32 (fMax (v32 o) (v32 x))
  | 18 => addLanes o 8 fun e => some (lane (op1 * 2 ^ 64 + op2) 16 e)
  | 19 => addLanes o 16 fun e => if op2.testBit e then some (op1 % 2 ^ 16) else none
  | 20 => min (o + y) (2 ^ w - 1)
  | 21 => addCodes fmtFp16 o x
  | 22 => addCodes fmtBf16 o x
  | 23 => pairNew o x fun n q => fpLt q n
  | 24 => pairNew o x fpLt
  | 25 => min (o + 1) x
  | 26 => o ||| (2 ^ (op1 % 64) % 2 ^ w)
  | 27 => o - (o &&& (2 ^ (op1 % 64) % 2 ^ w))
  | 28 => ((o % 2 ^ 32 + op1 % 2 ^ 32) % 2 ^ 32 + (o / 2 ^ 32 + op1 / 2 ^ 32) % 2 ^ 32 * 2 ^ 32) % 2 ^ w
  | 29 => if o = 0 then x else o
  | 30 => wrap (satS (so - sx) w) w
  | _ => c32 (fpFma (v32 o) (v32 x) (v32 y) .rne)

/-! ### Performing a shipped function (R203, R337, R338) -/

/-- The counter of a histogram: bin places after the target in Morton order, within the target's page (R205). (DEDUCED, log 23.) -/
def Loc.counter (x : Loc) (bin : Nat) : Loc :=
  let m := taPath x.ta
  let m1 := m / 4096 * 4096 + (m + bin) % 4096
  { x with phys := x.phys - m % 4096 * 4 + m1 % 4096 * 4, ta := taOf (taRoot x.ta) 24 m1
           sector := x.sector.map fun n => n - m * 4 / 512 + m1 * 4 / 512 }

/-- Whether n bytes at a place are uncorrectable. -/
def State.badTarget (s : State) (x : Loc) (n : Nat) : Bool :=
  s.stale x || s.retired x.phys || s.badPhys.any fun g => decide (g * 32 < x.phys + n) && decide (x.phys < g * 32 + 32)

/-- Write the n bytes of a target. -/
def State.putTarget (s : State) (x : Loc) (n v : Nat) : State :=
  let s1 := s.freshSector x
  { s1 with phys := Mem.writeN s1.phys x.phys n v }

/-- The result of a shipped function: to its register, or as a message (R202). (DEDUCED, log 23.) -/
def State.shipResult (s : State) (q : Ship) (old : Nat) : State :=
  let s1 := match q.id with
    | some i =>
      s.modCtx q.core q.level fun x =>
        { x with pend := x.pend.map fun r => if r.id = i then { r with val := (w64 old).setWidth 2048, open_ := 0 } else r }
    | none => s
  match q.msg with
  | some (dst, cls, phase) =>
    s1.modNet fun n =>
      { n with
        outbox := n.outbox ++
          [{ core := q.core, level := q.level, word := 0, cls := cls, tc := 0, dst := dst, phase := phase
             w := [w64 (old % 2 ^ 64), w64 (old / 2 ^ 64 % 2 ^ 64), q.ta, 0, 0, 0, 0] }] }
  | none => s1

/-- The result of a shipped function on an uncorrectable target (R202): 0, and the next read of d raises POISON imprecisely. -/
def State.shipPoison (s : State) (q : Ship) : State :=
  match q.id with
  | none => s.shipResult q 0
  | some i =>
    s.modCtx q.core q.level fun x =>
      match x.pend.find? fun r => decide (r.id = i) with
      | some r =>
        let y := x.landId i 0
        match r.dest with
        | .scalar d => { y with poisoned := Map.set y.poisoned d q.ta }
        | _ => y
      | none => x

/-- Perform a shipped function on its target under the present binding of its slot; where that is not valid any more, the target stays and the old
value of the width at issue returns (R338). A sector whose MAC fails counts (R171). (DEDUCED, log 23.) -/
def State.performShip (s : State) (q : Ship) : State :=
  let x := s.shipLoc q
  let slot := Map.getD s.vale.routines (q.asid * 64 + q.slot) 0
  let fits := slotFits slot (s.root q.asid (taRoot q.ta)).esizeCode
  let n := (if fits then slotWidth slot else q.width) / 8
  let p := slotPrim slot
  let at_ := if fits && decide (p = 20) then x.counter (slotBin slot q.op1.toNat) else x
  if s.badTarget x n || s.badTarget at_ n then (s.countMac [x, at_]).shipPoison q
  else
    let old := Mem.readN s.phys x.phys n
    if fits then
      let cell := Mem.readN s.phys at_.phys n
      (s.putTarget at_ n (primNew p (8 * n) cell q.op1.toNat q.op2.toNat)).shipResult q old
    else (s.modSlice (homeSlice x.phys) fun y => { y with transFault := y.transFault + 1 }).shipResult q old

/-- Whether two shipped functions reach one page. -/
def Ship.samePage (q r : Ship) : Bool :=
  decide (q.asid = r.asid) && decide (taRoot q.ta = taRoot r.ta) && decide (taPath q.ta / 4096 = taPath r.ta / 4096)

/-- Whether a core issued a shipped function to the same page earlier that is not performed yet, wherever it is: they are performed in issue order
(R203), also when the page's home has moved in between (R166, R169). -/
def State.shipBefore (s : State) (q : Ship) : Bool :=
  s.ships.any fun r => decide (r.core = q.core) && q.samePage r && decide (r.seq < q.seq)

/-- FSHIP_PERFORM (R203, R337): one of the first 64 of a processor's queue, after every earlier one on its 64-byte granule and every earlier one
of its core on its page. It translates through the home slice (R165). (DEDUCED, log 23.) -/
def execFshipPerform (bdp idx : Nat) (s : State) : Outcome :=
  happen s (
    let l := Map.getD s.bdps bdp []
    match l[idx]? with
    | none => none
    | some q =>
      let x := s.shipLoc q
      if 64 ≤ idx ∨ s.locStalled x = true ∨ s.walkWaits q.asid q.ta = true ∨ s.shipBefore q = true
          ∨ ((l.take idx).any fun r => decide ((s.shipLoc r).phys / 64 = x.phys / 64)) = true then none
      else
        (s.lookUp (homeSlice x.phys) q.asid x.entry).map fun t => { t with bdps := Map.set t.bdps bdp (removeAt l idx) }.performShip q)

/-! ### Refresh (R339, R340) -/

/-- Change the refresh record of a channel of a slice. -/
def State.modRefresh (s : State) (n k : Nat) (f : Refresh → Refresh) : State :=
  s.modSlice n fun y => { y with refresh := Map.set y.refresh k (f (Map.getD y.refresh k {})) }

/-- BANK_REFRESH (R339): a bank of a channel that is not privileged; nothing but its count changes. (DEDUCED, log 59.) -/
def execBankRefresh (slice channel bank : Nat) (s : State) : Outcome :=
  happen s (
    if channel < 2 ∧ (s.slice slice).privOn.getLsbD channel = false then
      some (s.modSlice slice fun y =>
        { y with banks := Map.set y.banks (channel + 2 * bank) (Map.getD y.banks (channel + 2 * bank) 0 + 1) })
    else none)

/-- LAYER_OVERHEAT (R339): a layer above 105 °C is reported, and its channels are slowed. (DEDUCED, log 59.) -/
def execLayerOverheat (stack layer temp : Nat) (s : State) : Outcome :=
  happen s (
    if 105 < temp then
      some (s.modMod fun m =>
        { m with temps := Map.set m.temps (stack * 16 + layer) temp, slowed := NatSet.insert m.slowed (stack * 16 + layer) })
    else none)

/-- A bit of a pair of bits replaced. -/
def setBit2 (x : BitVec 2) (k : Nat) (b : Bool) : BitVec 2 :=
  if b then x ||| BitVec.ofNat 2 (2 ^ k) else x &&& ~~~BitVec.ofNat 2 (2 ^ k)

/-- REFRESH_DUE (R340): an interval of a channel. A change of PRIVCH takes effect, with debt 0; else the refresh of a privileged channel raises its
debt. (DEDUCED, log 59.) -/
def execRefreshDue (slice channel : Nat) (s : State) : Outcome :=
  happen s (
    let y := s.slice slice
    let r := Map.getD y.refresh channel {}
    let on := y.priv.getLsbD channel
    if 2 ≤ channel then none
    else if y.privOn.getLsbD channel ≠ on then
      some ((s.modRefresh slice channel fun r => { r with debt := 0 }).modSlice slice fun z => { z with privOn := setBit2 z.privOn channel on })
    else if on && decide (r.debt < 8) then
      some (s.modRefresh slice channel fun r => { r with debt := r.debt + 1, maxPost := max r.maxPost (r.debt + 1).toNat })
    else none)

/-- The addresses of a page's header and slots. -/
def PageHdr.places (h : PageHdr) (key : Nat) : List Nat := key * 64 :: ([h.slot, h.sslot, h.nslot, h.nsslot].filter fun a => decide (a ≠ 0))

/-- Whether requests wait for a channel: page requests whose header or slots, or shipped functions whose target, lie in it. -/
def State.channelBusy (s : State) (n k : Nat) : Bool :=
  ((s.slice n).reqs.any fun q => ((s.header q.page).places q.page).any fun a => decide (channelOf a = some (2 * n + k)))
    || ((Map.getD s.bdps (n / 2) []).any fun q => decide (channelOf q.phys = some (2 * n + k)))

/-- ALL_BANK_REFRESH (R340): while the channel is idle and D > −8, or at once at D = 8. -/
def execAllBankRefresh (slice channel : Nat) (s : State) : Outcome :=
  happen s (
    let r := Map.getD (s.slice slice).refresh channel {}
    let forced := decide (r.debt = 8)
    if channel < 2 ∧ (s.slice slice).privOn.getLsbD channel = true ∧ -8 < r.debt ∧ (forced || !s.channelBusy slice channel) = true then
      some (s.modRefresh slice channel fun r =>
        { r with
          debt := r.debt - 1
          count := (r.count + 1) % 2 ^ 32
          forced := if forced then min (r.forced + 1) 0xFFFF else r.forced
          maxPull := max r.maxPull (1 - r.debt).toNat })
    else none)

/-! ### Row remapping (R341, R342) -/

/-- REMAP_TABLE_ERROR (R341): the channel stalls. -/
def execRemapTableError (slice channel : Nat) (s : State) : Outcome :=
  happen s (
    if channel < 2 ∧ (s.slice slice).retired.contains channel = false then
      some (s.modSlice slice fun y => { y with stalled := NatSet.insert y.stalled channel })
    else none)

/-- REMAP_RELOAD (R341): the channel resumes, or is retired when its golden copy is uncorrectable too, and Vale is notified. (DEDUCED, log 59.) -/
def execRemapReload (slice channel : Nat) (goldenBad : Bool) (s : State) : Outcome :=
  happen s (
    if (s.slice slice).stalled.contains channel then
      let s1 := s.modSlice slice fun y => { y with stalled := NatSet.erase y.stalled channel }
      some (State.lateTick (
        if goldenBad then
          (s1.modSlice slice fun y => { y with retired := NatSet.insert y.retired channel }).modVale fun v =>
            { v with notified := v.notified ++ [(0, slice, channel)] }
        else
          s1.modSlice slice fun y => { y with reloads := Map.set y.reloads channel (sat16 (Map.getD y.reloads channel 0)) }) slice)
    else none)

end Sys2Proof.Machine
end

