-- ==== Sys2Proof/Machine/Sha.lean ====
section
/-! DEFINITION. SHA-512, which the measurements and signatures of bring-up use (R3, R398, R399). The spec names the function and not its text; the
text here is that of FIPS 180-4. -/
namespace Sys2Proof.Machine

/-- The primes up to 409, of which there are 80: no number from 2 to 20 but itself divides one. -/
def shaPrimes : List Nat := (count 2 408).filter fun n => (count 2 19).all fun k => decide (n % k ≠ 0) || decide (n = k)

/-- The integer part of the k-th root of n, from r on by its `b` low bits. -/
def rootFrom (k n : Nat) : Nat → Nat → Nat
  | 0, r => r
  | b + 1, r => rootFrom k n b (if (r + 2 ^ b) ^ k ≤ n then r + 2 ^ b else r)

/-- The first 64 bits of the fraction of the k-th root of p. -/
def rootFraction (k p : Nat) : BitVec 64 := BitVec.ofNat 64 (rootFrom k (p * 2 ^ (64 * k)) 69 0)

/-- The round constants: fractions of the cube roots of the primes. -/
def shaK : List (BitVec 64) := shaPrimes.map (rootFraction 3)
/-- The initial hash value: fractions of the square roots of the first eight primes. -/
def shaInit : List (BitVec 64) := (shaPrimes.take 8).map (rootFraction 2)

/-- A 64-bit word from its bytes, the most significant first. -/
def bigWord (b : List Byte) : BitVec 64 := BitVec.ofNat 64 (ofBytes (b.take 8).reverse)

/-- A message padded to whole blocks of 128 bytes: a one bit, zeros, its length in bits. -/
def shaPad (b : List Byte) : List Byte :=
  b ++ 0x80 :: List.replicate ((239 - b.length % 128) % 128) 0 ++ (bytesOf (8 * b.length) 16).reverse

/-- One word more of the message schedule, the latest first. -/
def shaNext (w : List (BitVec 64)) : BitVec 64 :=
  let x := w.getD 14 0
  let y := w.getD 1 0
  w.getD 15 0 + (x.rotateRight 1 ^^^ x.rotateRight 8 ^^^ (x >>> 7)) + w.getD 6 0 + (y.rotateRight 19 ^^^ y.rotateRight 61 ^^^ (y >>> 6))

/-- The message schedule from its first sixteen words, the latest first. -/
def shaSchedule : Nat → List (BitVec 64) → List (BitVec 64)
  | 0, w => w
  | n + 1, w => shaSchedule n (shaNext w :: w)

/-- The working variables a to h. -/
structure ShaVars where
  a : BitVec 64
  b : BitVec 64
  c : BitVec 64
  d : BitVec 64
  e : BitVec 64
  f : BitVec 64
  g : BitVec 64
  h : BitVec 64
deriving DecidableEq, Repr

/-- One round. -/
def shaRound (v : ShaVars) (q : BitVec 64 × BitVec 64) : ShaVars :=
  let t1 := v.h + (v.e.rotateRight 14 ^^^ v.e.rotateRight 18 ^^^ v.e.rotateRight 41) + ((v.e &&& v.f) ^^^ (~~~v.e &&& v.g)) + q.1 + q.2
  let t2 := (v.a.rotateRight 28 ^^^ v.a.rotateRight 34 ^^^ v.a.rotateRight 39) + ((v.a &&& v.b) ^^^ (v.a &&& v.c) ^^^ (v.b &&& v.c))
  { a := t1 + t2, b := v.a, c := v.b, d := v.c, e := v.d + t1, f := v.e, g := v.f, h := v.g }

/-- The hash value after a block of 128 bytes. -/
def shaBlock (hv : List (BitVec 64)) (b : List Byte) : List (BitVec 64) :=
  let w := (shaSchedule 64 (((count 0 16).map fun i => bigWord (b.drop (8 * i))).reverse)).reverse
  let v0 : ShaVars :=
    { a := hv.getD 0 0, b := hv.getD 1 0, c := hv.getD 2 0, d := hv.getD 3 0, e := hv.getD 4 0, f := hv.getD 5 0, g := hv.getD 6 0, h := hv.getD 7 0 }
  let v := (shaK.zip w).foldl shaRound v0
  [v0.a + v.a, v0.b + v.b, v0.c + v.c, v0.d + v.d, v0.e + v.e, v0.f + v.f, v0.g + v.g, v0.h + v.h]

/-- The hash value after n blocks. -/
def shaBlocks : Nat → List (BitVec 64) → List Byte → List (BitVec 64)
  | 0, hv, _ => hv
  | n + 1, hv, b => shaBlocks n (shaBlock hv b) (b.drop 128)

/-- SHA-512 of a byte string; the digest's first byte is the most significant one. -/
def sha512 (b : List Byte) : BitVec 512 :=
  let m := shaPad b
  BitVec.ofNat 512 ((shaBlocks (m.length / 128) shaInit m).foldl (fun n w => n * 2 ^ 64 + w.toNat) 0)

/-- The bytes of a digest, the most significant first. (DEDUCED, log 61.) -/
def digestBytes (h : BitVec 512) : List Byte := (bytesOf h.toNat 64).reverse

end Sys2Proof.Machine
end

