-- ==== Sys2Proof/Machine/Package.lean ====
section
/-! DEFINITION. The module as a whole: scale-out ports (R383 to R386), snapshots (R240), host attachment (R387, R388), bring-up and
attestation (R398, R399), power (R401), and registers written by Vale and the stewards (R8, R389). -/
namespace Sys2Proof.Machine

/-! ### Scale-out ports (R383 to R386) -/

/-- Counts of the frame counter in 1 ms (R377). -/
def msCounts : Nat := 1400000
/-- Errors within 1 ms after which a lane is repaired (R384). -/
def laneErrMax : Nat := 16

/-- An error attributed to a lane at a time: its repair is due at the sixteenth within 1 ms. -/
def SoPort.laneError (p : SoPort) (lane now : Nat) : SoPort :=
  let l := now :: (Map.getD p.laneErrs lane []).filter fun t => decide (now < t + msCounts)
  { p with
    laneErrs := Map.set p.laneErrs lane l
    due := if laneErrMax ≤ l.length ∧ p.bad.getLsbD lane = false then NatSet.insert p.due lane else p.due }

/-- An acknowledgement of the reverse direction: every flit up to number n leaves the replay buffer; a replay whose flits are all acknowledged is
over. (DESIGN CHOICE, log 75.) -/
def SoPort.acked (p : SoPort) (n : Nat) : SoPort :=
  match findIdxFrom (fun q : Nat × BitVec 16 × BitVec 512 => decide (q.1 = n)) p.unacked 0 with
  | none => p
  | some i =>
    let l := p.unacked.drop (i + 1)
    { p with
      unacked := l
      replaying := p.replaying.filter fun r => l.any fun q => decide (q.1 = r.2) }

/-- One byte of the CRC-32 of IEEE 802.3 (reflected polynomial), bit by bit. -/
def crcByte : Nat → BitVec 32 → BitVec 32
  | 0, c => c
  | n + 1, c => crcByte n (if c.getLsbD 0 then (c >>> 1) ^^^ 0xEDB88320 else c >>> 1)
/-- CRC-32 (IEEE 802.3) of a byte string. -/
def crc32 (l : List Byte) : BitVec 32 := ~~~(l.foldl (fun c b => crcByte 8 (c ^^^ b.setWidth 32)) (BitVec.allOnes 32))
/-- The CRC of a link flit, over its header and its payload (R383). (DESIGN CHOICE, log 75.) -/
def flitCrc (header : BitVec 64) (payload : BitVec 512) : BitVec 32 := crc32 (bytesOf header.toNat 8 ++ bytesOf payload.toNat 64)

/-- Sequence number of a link flit's header, bits 23:0. (DESIGN CHOICE, log 75.) -/
def flitSeq (header : BitVec 64) : Nat := header.toNat % 2 ^ 24
/-- Acknowledgement of the reverse direction, bits 47:24. (DESIGN CHOICE, log 75.) -/
def flitAck (header : BitVec 64) : Nat := header.toNat / 2 ^ 24 % 2 ^ 24
/-- Type of the flit, bits 63:48. -/
def flitType (header : BitVec 64) : BitVec 16 := header.extractLsb' 48 16

/-- The header of a flit that a port sends: number, the number of the last flit received in order, type (R383). -/
def SoPort.header (p : SoPort) (seq : Nat) (type : BitVec 16) : BitVec 64 :=
  BitVec.ofNat 64 (seq % 2 ^ 24 + (p.expect + 2 ^ 24 - 1) % 2 ^ 24 * 2 ^ 24 + type.toNat * 2 ^ 48)

/-- A flit on the wire: header, payload, CRC, and a check of each lane in use (R383). -/
def SoPort.sent (p : SoPort) (q : Nat × BitVec 16 × BitVec 512) : SentFlit :=
  let h := p.header q.1 q.2.1
  { header := h, payload := q.2.2, crc := flitCrc h q.2.2, checks := Config.laneChecks p.width h q.2.2 (flitCrc h q.2.2) }

/-- Send a flit (R383, R384): it is numbered and held in the replay buffer of 4,096 flits until it is acknowledged; none while that is full or the port
is down. (DESIGN CHOICE, log 75.) -/
def SoPort.send (p : SoPort) (payload : BitVec 512) : Option SoPort :=
  if p.width = 0 ∨ 4096 ≤ p.unacked.length then none
  else
    let q := (p.nextSeq, Config.flitType, payload)
    some { p with unacked := p.unacked ++ [q], wire := p.wire ++ [p.sent q], nextSeq := (p.nextSeq + 1) % 2 ^ 24 }

/-- Send flits of the replay buffer again (R384). -/
def SoPort.replay (p : SoPort) (l : List (Nat × BitVec 16 × BitVec 512)) : SoPort :=
  match l.head?, l.getLast? with
  | some a, some b => { p with wire := p.wire ++ l.map p.sent, replaying := some (a.1, b.1) }
  | _, _ => p

/-- LINK_FLIT_RECEIVE (R383): a flit with a good CRC is delivered when it is the next in sequence and dropped otherwise; one that fails is
discarded, counted and answered with a replay request. (DESIGN CHOICE, log 7.) (DESIGN CHOICE, log 75.) -/
def execLinkFlitReceive (port : Nat) (flit : WireFlit) (crc : BitVec 32) (badLanes : BitVec 8) (s : State) : Outcome :=
  happen s (
    let p := s.soPort port
    if p.width = 0 then none
    else
      let errs := (count 0 8).filter fun k => badLanes.getLsbD k
      let s1 := s.modPort port fun y => errs.foldl (fun z k => z.laneError k s.mod.frame) y
      if crc = flitCrc flit.header flit.payload then
        some (s1.modPort port fun y =>
          let z := y.acked (flitAck flit.header)
          if flitSeq flit.header = z.expect then
            { z with
              delivered := z.delivered ++ [(flitSeq flit.header, flitType flit.header, flit.payload)]
              expect := (z.expect + 1) % 2 ^ 24
              awaited := z.awaited.filter fun n => decide (n ≠ flitSeq flit.header) }
          else z)
      else
        some (s1.modPort port fun y => { y with crcerr := min (y.crcerr + 1) (2 ^ 32 - 1), asked := y.asked ++ [y.expect], awaited := some y.expect }))

/-- The flits of a replay buffer from a number on. -/
def fromSeq (n : Nat) (l : List (Nat × BitVec 16 × BitVec 512)) : List (Nat × BitVec 16 × BitVec 512) :=
  match findIdxFrom (fun q : Nat × BitVec 16 × BitVec 512 => decide (q.1 = n)) l 0 with
  | some i => l.drop i
  | none => []

/-- REPLAY_REQUEST (R384): every flit of the replay buffer from a sequence number on is sent again. -/
def execReplayRequest (port seq : Nat) (s : State) : Outcome :=
  happen s (
    if (s.soPort port).width = 0 then none
    else
      some (s.modPort port fun p =>
        { p with replays := min (p.replays + 1) (2 ^ 20 - 1) }.replay (fromSeq seq p.unacked)))

/-- The next width below (R384); 0 for a port that goes down. -/
def narrower (w : Nat) : Nat := if w = 8 then 6 else if w = 6 then 4 else 0

/-- A lane removed: the port narrows, and a replay restarts from the oldest unacknowledged flit (R384). -/
def SoPort.repair (p : SoPort) (lane : Nat) : SoPort :=
  let q := { p with width := narrower p.width, bad := p.bad ||| BitVec.ofNat 8 (2 ^ lane), due := NatSet.erase p.due lane }
  if p.replaying.isSome ∧ q.width ≠ 0 then q.replay q.unacked else q

/-- LANE_REPAIR (R384): a repair that is due; it waits for an outstanding replay, of the port's own flits or asked for by it, unless that fails. A
port that would drop below 4 lanes goes down and reports to Vale. -/
def execLaneRepair (port lane : Nat) (replayFails : Bool) (s : State) : Outcome :=
  happen s (
    let p := s.soPort port
    if p.width = 0 ∨ p.due.contains lane = false ∨ ((p.replaying.isSome || p.awaited.isSome) && !replayFails) = true then none
    else
      let s1 := s.modPort port fun y => y.repair lane
      some (if narrower p.width = 0 then s1.modVale fun v => { v with notified := v.notified ++ [(1, port, 0)] } else s1))

/-- The correction that an exchange of the end-to-end delay mechanism gives: half of (t2 − t1) − (t4 − t3) is what the slave clock is ahead. -/
def SoPort.ahead (p : SoPort) : Int :=
  (((p.times.2.1 : Int) - p.times.1) - ((p.times.2.2.2 : Int) - p.times.2.2.1)) / 2

/-- PTP_MESSAGE (R386): the messages of the two-step end-to-end delay mechanism at a port. Kind 0: a Sync arrives, time-stamped t2; 1: its Follow_Up
with t1; 2: a Delay_Req leaves, time-stamped t3; 3: its Delay_Resp arrives with t4, and the slave-only clock is corrected. The port's own stamps
lie the message's time in ns into the current frame. (DEDUCED, log 63.) -/
def execPtpMessage (port : Nat) (m : PtpMsg) (s : State) : Outcome :=
  happen s (
    let p := s.soPort port
    let now := s.mod.clock + m.time % frameNs
    let (t1, t2, t3, t4) := p.times
    if p.width = 0 then none
    else if m.kind = 0 then some (s.modPort port fun y => { y with times := (t1, now, t3, t4) })
    else if m.kind = 1 then some (s.modPort port fun y => { y with times := (m.time, t2, t3, t4) })
    else if m.kind = 2 then (p.send 0).map fun y => s.modPort port fun _ => { y with times := (t1, t2, now, t4) }
    else if m.kind = 3 then
      let q := { p with times := (t1, t2, t3, m.time) }
      some ((s.modPort port fun _ => q).modMod fun y => { y with timeOffset := y.timeOffset - q.ahead })
    else none)

/-! ### Snapshots (R240) -/

/-- A trigger word reaches the fabric: the snap that sent it learns whether it latches (R241). -/
def State.fabric (s : State) (w : SnapWord) : State :=
  match w.answer with
  | some (c, l, i) => (s.trigger).modCtx c l fun x => x.landId i (if s.mod.snapHeld then 1 else 0)
  | none => s.trigger

/-- SNAPSHOT_TRIGGER (R240): a trigger word reaches the fabric: a steward's (source 0) at once, or the first under way from the pin (1), a core stop (2)
or snap (3), after those of the sources before its own. (DEDUCED, log 60.) -/
def execSnapshotTrigger (source : Nat) (_word : BitVec 64) (s : State) : Outcome :=
  happen s (
    if source = 0 then some s.trigger
    else if s.mod.snapWords.any fun w => decide (w.source < source) then none
    else
      match findIdxFrom (fun w : SnapWord => decide (w.source = source)) s.mod.snapWords 0 with
      | none => none
      | some i =>
        (s.mod.snapWords[i]?).map fun w => (s.modMod fun m => { m with snapWords := removeAt m.snapWords i }).fabric w)
/-- SNAPIN (R387): a rising edge is a common trigger (R240). -/
def execSnapin (s : State) : Outcome := .next (s.sendTrigger { source := 1 })

/-- The snapshot registers of a slice: MAC failures, translation faults, refresh records, reloads, writes dropped (R342), counts of headed
pages (R335). -/
def Slice.latch (y : Slice) : List Nat :=
  [y.macFail, y.transFault, (y.reg 0x20).toNat, (y.reg 0x28).toNat, Map.getD y.reloads 0 0, Map.getD y.reloads 1 0, y.dropped, (y.reg 0x10).toNat]

/-- ROWPROG of an array: that of its lease holder's core. -/
def State.arrayRowprog (s : State) (q : Quad) : Word :=
  match q.holder with
  | some (c, _) => (s.core c).rowprog
  | none => 0

/-- SNAPSHOT_LATCH (R240): every block latches, 512 counts after the trigger. A frame that starts before then starts first. (DEDUCED, log 60.) -/
def execSnapshotLatch (s : State) : Outcome :=
  happen s (
    match s.mod.snapDue with
    | none => none
    | some d =>
      if nextFrame s.mod.frame ≤ d then none
      else
        let f := max s.mod.frame d
        let s1 := (count 0 Config.numCores).foldl (fun t c => t.modCore c fun k => { k with snap := some (k.latch f) }) s
        let s2 := (count 0 768).foldl (fun t c => t.modCluster c fun k => { k with snapRanges := k.rangeTable, snapSlots := k.slots }) s1
        let s3 := (count 0 192).foldl (fun t n => t.modQuad n fun q => { q with snapCounts := (q.reruns, q.checks, s.arrayRowprog q) }) s2
        let s4 := (count 0 256).foldl (fun t n => t.modSlice n fun y => { y with snap := y.latch }) s3
        let s5 := (count 0 16).foldl (fun t n => t.modPort n fun p => { p with snap := p.word }) s4
        some (s5.modMod fun m => { m with frame := f, snapDue := none, snapSeq := (m.snapSeq + 1) % 2 ^ 16 }))

/-- SNAPSHOT_RELEASE (R240): a steward releases a latched snapshot. (DEDUCED, log 60.) -/
def execSnapshotRelease (s : State) : Outcome :=
  happen s (if s.mod.snapHeld && s.mod.snapDue.isNone then some (s.modMod fun m => { m with snapHeld := false }) else none)

/-! ### Host attachment (R387, R388) -/

/-- PERST (R387): PERST# resets the PCIe host link: pending vectors are gone, and nothing is known any more of what its BARs hold.
(DESIGN CHOICE, log 73.) -/
def execPerst (s : State) : Outcome :=
  .next ((s.modMod fun m => { m with pcieResets := m.pcieResets + 1, bar0 := [], bar2 := [], lastHostRead := 0 }).modVale fun v => { v with msix := [] })

/-- DOORBELL (R388): a command is handed to Vale; a write before MODREADY.PKG is set, or in recovery (R398), is dropped. -/
def execDoorbell (ring : Nat) (s : State) : Outcome :=
  happen s (if s.mod.pkg && !s.mod.fwfail then some (s.modVale fun v => { v with doorbells := v.doorbells ++ [ring] }) else none)

/-- Bytes of a BAR (R387); a BAR that the function does not have has none. (DESIGN CHOICE, log 73.) -/
def barSize (bar : Nat) : Nat := if bar = 0 then 2 ^ 16 else if bar = 2 then 2 ^ 24 else 0

/-- COMPLETION_ENTRY (R388): Vale completes a command of a ring: it writes the completion entry in BAR2, 8 bytes at an offset, and then raises the
ring's MSI-X vector. (DESIGN CHOICE, log 73.) -/
def execCompletionEntry (c : RingCompletion) (s : State) : Outcome :=
  happen s (
    if s.mod.vale && s.vale.doorbells.contains c.ring && decide (c.off + 8 ≤ barSize 2) && decide (c.off % 8 = 0) then
      some ((s.modVale fun v =>
        { v with
          doorbells := dropOne c.ring v.doorbells
          completions := v.completions ++ [c.ring]
          msix := NatSet.insert v.msix (c.ring % 64) }).modMod
          fun m => { m with bar2 := Map.set m.bar2 c.off c.entry })
    else none)

/-- Whether the module serves an access to a BAR (R388, R398): once the package is ready, and BAR0 alone in recovery. (DEDUCED, log 61.) -/
def Module.serves (m : Module) (bar off : Nat) : Bool :=
  (if m.fwfail then decide (bar = 0) else m.pkg) && decide (off + 8 ≤ barSize bar)

/-- HOST_BAR_ACCESS (R388): one aligned word of 8 bytes. Before MODREADY.PKG is set, and where no BAR is, reads give all ones and writes are dropped.
After, a word of BAR2 holds what was written last; the rest is free, since the spec names no register of a BAR. (DESIGN CHOICE, log 73.) -/
def execHostBarAccess (write : Bool) (bar off0 : Nat) (v : BitVec 64) (s : State) : Outcome :=
  let off := off0 / 8 * 8
  .next (
    if !s.mod.serves bar off then
      if write then s else s.modMod fun m => { m with lastHostRead := BitVec.allOnes 64 }
    else if write then
      s.modMod fun m => if bar = 0 then { m with bar0 := Map.set m.bar0 off v } else { m with bar2 := Map.set m.bar2 off v }
    else
      match (if bar = 2 then Map.get? s.mod.bar2 off else none) with
      | some x => s.modMod fun m => { m with lastHostRead := x }
      | none => { s.modMod fun m => { m with lastHostRead := Config.hostRead s.freeCtr bar off } with freeCtr := s.freeCtr + 1 })

/-! ### Bring-up and attestation (R398, R399) -/

/-- PWRGOOD (R398 step 1): clocks lock, and the frame counter starts at 0. -/
def execPwrgood (s : State) : Outcome :=
  happen s (if s.mod.powered then none else some (s.modMod fun m => { m with powered := true, locked := true, frame := 0 }))

/-- The slice of a block number, in the order of the table of R398: 6,528 cores, 192 array quads, 256 edge slices, and the rest.
(DESIGN CHOICE, log 44.) -/
def blockSlice (b : Nat) : Option Nat := if 6720 ≤ b ∧ b < 6976 then some (b - 6720) else none

/-- BLOCK_CALIBRATION (R398 steps 2 and 3): READY, with FAIL when the block failed; each channel of a slice that fails to train is retired (R342), and
fails the slice. (DESIGN CHOICE, log 44.) -/
def execBlockCalibration (block : Nat) (found : Trained) (s : State) : Outcome :=
  happen s (
    if s.mod.locked && decide (block < Config.numBlocks) && !s.mod.ready.contains block then
      let bad := if (blockSlice block).isSome then (count 0 2).filter fun k => found.channels.getLsbD k else []
      let s1 := s.modMod fun m =>
        { m with
          ready := NatSet.insert m.ready block
          fails := if found.failed || !bad.isEmpty then NatSet.insert m.fails block else m.fails }
      some (match blockSlice block with
        | some n => s1.modSlice n fun y => { y with retired := bad }
        | none => s1)
    else none)

/-- A measurement register (R398). -/
def Module.measure (m : Module) (i : Nat) : BitVec 512 := Map.getD m.meas i 0
/-- MEASi extended with h: SHA-512(MEASi ‖ h) (R398). (DEDUCED, log 61.) -/
def Module.extend (m : Module) (i : Nat) (h : BitVec 512) : Module :=
  { m with meas := Map.set m.meas i (sha512 (digestBytes (m.measure i) ++ digestBytes h)) }

/-- Whether an image is accepted (R399): signed, and not below the fused security version. -/
def Module.accepts (m : Module) (image : List (BitVec 8)) (version : Nat) : Bool :=
  Config.signatureOk image && decide (m.fuse ≤ version)

/-- FIRMWARE_VERIFY (R398 step 4, R399), once every block is READY: MEAS0 is extended; FWOK, or FWFAIL when the image is rejected.
(DEDUCED, log 61.) -/
def execFirmwareVerify (image : List (BitVec 8)) (version : Nat) (s : State) : Outcome :=
  happen s (
    if s.mod.locked && decide (s.mod.ready.length = Config.numBlocks) && !s.mod.fwok && !s.mod.fwfail then
      some (s.modMod fun m =>
        let n := m.extend 0 (sha512 image)
        if m.accepts image version then { n with fwok := true } else { n with fwfail := true })
    else none)

/-- VALE_LOAD (R398 step 6): Vale is verified as in step 4, MEAS1 extended, and Vale started. (DEDUCED, log 61.) -/
def execValeLoad (image : List (BitVec 8)) (version : Nat) (s : State) : Outcome :=
  happen s (
    if s.mod.pkg && !s.mod.vale && !s.mod.fwfail then
      some (s.modMod fun m =>
        let n := m.extend 1 (sha512 image)
        if m.accepts image version then { n with vale := true } else { n with fwfail := true })
    else none)

/-- ATTESTATION_QUOTE (R399): a signature over SHA-512(nonce ‖ MEAS0 ‖ … ‖ MEAS7). -/
def execAttestationQuote (nonce : BitVec 512) (s : State) : Outcome :=
  happen s (
    if s.mod.pkg then
      let b := digestBytes nonce ++ ((count 0 8).map fun i => digestBytes (s.mod.measure i)).flatten
      some (s.modMod fun m => { m with quote := some (Config.identitySign (sha512 b)) })
    else none)

/-! ### Power (R401) -/

/-- MODPOWER from watts and temperature; BOOST counts the islands above 1.4 GHz. Each field takes its low bits (R9). (DEDUCED, log 62.) -/
def Module.powerWord (m : Module) (watts temp : Nat) : Word :=
  let boost := (m.islands.filter fun e => decide (1400 < e.2.1)).length
  w64 (watts % 2 ^ 16 * 2 ^ 48 + temp % 2 ^ 8 * 2 ^ 40 + boost % 2 ^ 8 * 2 ^ 32)

/-- A measurement of the module's power and temperature (R401): no island stays above 1.4 GHz while the power is not below 4,200 W.
(DEDUCED, log 62.) -/
def Module.measured (m : Module) (watts temp : Nat) : Module :=
  let n := if watts < 4200 then m else { m with islands := m.islands.map fun e => (e.1, (min e.2.1 1400, e.2.2)) }
  { n with power := n.powerWord watts temp }

/-- ISLAND_DVFS (R401): an island sets its frequency in MHz, between 1.4 and 1.8 GHz, and its voltage in mV; above 1.4 GHz only while the module stays
below 4,200 W. (DEDUCED, log 62.) -/
def execIslandDvfs (island : Nat) (point : DvfsPoint) (watts temp : Nat) (s : State) : Outcome :=
  happen s (
    if island < 256 ∧ 1400 ≤ point.mhz ∧ point.mhz ≤ 1800 ∧ (point.mhz = 1400 ∨ watts < 4200) then
      some (s.retune fun m => { m with islands := Map.set m.islands island (point.mhz, point.mv) }.measured watts temp)
    else none)

/-- THERMTRIP (R401): above 95 °C the pin is asserted and the module stops. (DEDUCED, log 79.) -/
def execThermtrip (temp : Nat) (s : State) : Outcome :=
  happen s (
    if 95 < temp then some (s.modMod fun m => { m.measured (m.power.toNat / 2 ^ 48) temp with therm := true }) else none)

/-! ### Registers written by Vale and the stewards (R8, R389) -/

/-- A register of an edge slice written (R335, R340): TICK 0 becomes 1; MAXPOST and MAXPULL are cleared by writing 1. A change
of PRIVCH takes effect at the channel's next interval. (DEDUCED, log 59.) -/
def Slice.write (y : Slice) (off : Nat) (v : Word) : Slice :=
  if off = 0x00 then { y with tick := max 1 (v.toNat % 2 ^ 20) }
  else if off = 0x18 then { y with priv := v.setWidth 2 }
  else if off = 0x20 ∨ off = 0x28 then
    let k := (off - 0x20) / 8
    let r := Map.getD y.refresh k {}
    let clear (old bits : Nat) : Nat := old - (old &&& bits)
    { y with
      refresh := Map.set y.refresh k
        { r with maxPost := clear r.maxPost (v.toNat / 2 ^ 12 % 16), maxPull := clear r.maxPull (v.toNat / 2 ^ 8 % 16) } }
  else y

/-- A word of a root descriptor replaced. -/
def State.writeRoot (s : State) (asid root w : Nat) (v : Word) : State :=
  let d := s.root asid root
  let t :=
    if w = 0 then (v, d.w1, d.w2, d.w3)
    else if w = 1 then (d.w0, v, d.w2, d.w3)
    else if w = 2 then (d.w0, d.w1, v, d.w3)
    else if w = 3 then (d.w0, d.w1, d.w2, v)
    else (d.w0, d.w1, d.w2, d.w3)
  { s with roots := Map.set s.roots (asid * 256 + root) t }

/-- The 16 KiB granules that a header table of n headers from a base takes in, as addresses. -/
def tableGranules (hbase n : Nat) : List Nat :=
  let first := (hbase * 2048 + 64) / 2 ^ 14
  let last := (hbase * 2048 + 64 * n + 63) / 2 ^ 14
  (count first (last + 1 - first)).map fun g => g * 2 ^ 14

/-- A control record's word (R324): reserved bits stay 0. -/
def controlWord (w : Nat) (old : Word × Word) (v : Word) : Word × Word :=
  if w = 0 then (w64 (v.toNat / 2 ^ 63 * 2 ^ 63 + v.toNat % 2 ^ 16), old.2)
  else if w = 1 then (old.1, w64 (v.toNat % 2 ^ 32))
  else old

/-- A register written over the privileged path. -/
def State.writeReg (s : State) (r : RegSel) (v : BitVec 64) : State :=
  match r with
  | .slice n off => s.modSlice n fun y => y.write off v
  | .snapAllow c => s.modCore c fun k => { k with snapAllow := v.getLsbD 62 }
  | .rootWord asid root w => (s.writeRoot asid root w v).dropCached asid (taOf root 0 0)
  | .controlRecord asid root w =>
    let h := (s.root asid root).hbase
    s.modVale fun x => { x with control := Map.set x.control h (controlWord w (s.control h) v) }
  | .registerTable asid root =>
    let h := (s.root asid root).hbase
    (tableGranules h (s.npages h)).foldl (fun t a =>
      t.modSlice (homeSlice a) fun y => if y.tables.contains h then y else { y with tables := y.tables ++ [h] }) s
  | .slicePeriod => if 1 ≤ v.toNat ∧ v.toNat ≤ 1000 then s.modVale fun x => { x with period := v.toNat } else s
  | .modPower => s.retune fun m => m.measured (v.toNat / 2 ^ 48) (v.toNat / 2 ^ 40 % 256)
  | .control c l n =>
    if 0x020 ≤ n ∧ n ≤ 0x028 then s.modCtx c l fun x => x.setLoop n v else s.setCr c l n v

/-- Whether a write to a register has to wait: a descriptor does not change while an engine is in a sub-block of its root (R164). -/
def State.regWaits (s : State) (r : RegSel) : Bool :=
  match r with
  | .rootWord asid root _ => s.unitOpen asid (taOf root 0 0)
  | _ => false

/-- REGISTER_WRITE (R8). -/
def execRegisterWrite (r : RegSel) (v : BitVec 64) (s : State) : Outcome := happen s (if s.regWaits r then none else some (s.writeReg r v))

end Sys2Proof.Machine
end

