-- ==== Sys2Proof/Machine/Scalar.lean ====
section
/-! DEFINITION. Scalar instructions: arithmetic and logic (R87, R88), comparison (R89), selection (R90), constants (R91), funnel shift
and bit fields (R92 to R94), tree addresses (R95, R96), and the 16-bit forms (R60). -/
namespace Sys2Proof.Machine

/-! ### Results -/

/-- Bits 127:64 of the signed product (R87). -/
def mulhS (x y : Word) : Word := BitVec.ofInt 64 (x.toInt * y.toInt / 2 ^ 64)
/-- Bits 127:64 of the unsigned product (R87). -/
def mulhU (x y : Word) : Word := w64 (x.toNat * y.toNat / 2 ^ 64)
/-- Signed quotient and remainder (R88). -/
def divS (x y : Word) : Word × Word :=
  if y = 0 then (BitVec.allOnes 64, x)
  else if x = BitVec.intMin 64 ∧ y = BitVec.allOnes 64 then (BitVec.intMin 64, 0)
  else
    let q := x.toInt.tdiv y.toInt
    (BitVec.ofInt 64 q, BitVec.ofInt 64 (x.toInt - q * y.toInt))
/-- Unsigned quotient and remainder (R88). -/
def divU (x y : Word) : Word × Word :=
  if y = 0 then (BitVec.allOnes 64, x) else (w64 (x.toNat / y.toNat), w64 (x.toNat - x.toNat / y.toNat * y.toNat))
/-- Signed smaller. -/
def minS (x y : Word) : Word := if x.toInt ≤ y.toInt then x else y
/-- Signed larger. -/
def maxS (x y : Word) : Word := if x.toInt ≤ y.toInt then y else x
/-- Unsigned smaller. -/
def minU (x y : Word) : Word := if x.toNat ≤ y.toNat then x else y
/-- Unsigned larger. -/
def maxU (x y : Word) : Word := if x.toNat ≤ y.toNat then y else x
/-- The count of a register shift: y[5:0]. -/
def shiftBy (y : Word) : Nat := y.toNat % 64
/-- Shift left. -/
def shiftL (x y : Word) : Word := x <<< shiftBy y
/-- Shift right, zero fill. -/
def shiftR (x y : Word) : Word := x >>> shiftBy y
/-- Shift right, sign fill. -/
def shiftA (x y : Word) : Word := x.sshiftRight (shiftBy y)
/-- Rotation right. -/
def rotR (x y : Word) : Word := (x >>> shiftBy y) ||| (x <<< (64 - shiftBy y))
/-- Number of leading zeros of an n-bit number, from the top. -/
def leading (x : Word) : Nat → Nat
  | 0 => 0
  | n + 1 => if x.getLsbD n then 0 else 1 + leading x n
/-- Number of trailing zeros, from bit 64 − n up. -/
def trailing (x : Word) : Nat → Nat
  | 0 => 0
  | n + 1 => if x.getLsbD (63 - n) then 0 else 1 + trailing x n
/-- Number of one bits among the n lowest. -/
def ones (x : Nat) : Nat → Nat
  | 0 => 0
  | n + 1 => x % 2 + ones (x / 2) n
/-- 1 or 0. -/
def bool64 (b : Bool) : Word := if b then 1 else 0

/-- Bits off to top of a word, zero-extended (R93); `w` is the width wanted, cut at bit 63. -/
def fieldOf (x : Word) (off w : Nat) : Word × Nat :=
  let n := min (off + w) 64 - off
  (w64 (x.toNat / 2 ^ off % 2 ^ n), n)
/-- The register form of a bit-field extraction (R93). -/
def extract (signed : Bool) (x y z : Word) : Word :=
  let w := min z.toNat 64
  if w = 0 ∨ 64 ≤ y.toNat then 0
  else
    let f := fieldOf x y.toNat w
    if signed then BitVec.ofInt 64 (signedOf f.2 f.1.toNat) else f.1
/-- A field inserted (R93). -/
def insert (t x y z : Word) : Word :=
  let w := min z.toNat 64
  if w = 0 ∨ 64 ≤ y.toNat then t
  else
    let off := y.toNat
    let n := min (off + w) 64 - off
    let m := w64 ((2 ^ n - 1) * 2 ^ off)
    (t &&& ~~~m) ||| (w64 (x.toNat % 2 ^ n * 2 ^ off))

/-- taz (R95). -/
def tazOf (x y : Word) : Word := w64 (24 * 2 ^ 51 + interleave (x.toNat % 2 ^ 24) (y.toNat % 2 ^ 24))
/-- tax (R95). -/
def taxOf (x : Word) : Word :=
  let (_, _, p) := canon x
  w64 (rowOf p * 2 ^ 24 + colOf p)
/-- tadepth (R95). -/
def tadepthOf (x : Word) : Word :=
  let (_, dep, _) := canon x
  w64 dep
/-- taup (R95). -/
def taupOf (x y : Word) : Word :=
  let (root, dep, p) := canon x
  let k := dep - min y.toNat dep
  w64 (makeTA root k (blockRow p k) (blockCol p k))
/-- tadown (R95). -/
def tadownOf (x y : Word) : Word :=
  let (root, dep, p) := canon x
  if dep = 24 then w64 (makeTA root 24 (rowOf p) (colOf p))
  else
    w64 (makeTA root (dep + 1) (blockRow p dep * 2 + (y.getLsbD 1).toNat) (blockCol p dep * 2 + (y.getLsbD 0).toNat))
/-- tanb (R96). -/
def tanbOf (x y : Word) : Word :=
  let (root, dep, p) := canon x
  let br : Int := blockRow p dep
  let bc : Int := blockCol p dep
  let m : Int := 2 ^ dep
  let nr := match y.toNat % 4 with
    | 0 => br - 1
    | 2 => br + 1
    | _ => br
  let nc := match y.toNat % 4 with
    | 1 => bc + 1
    | 3 => bc - 1
    | _ => bc
  let carry := if nr < 0 ∨ m ≤ nr ∨ nc < 0 ∨ m ≤ nc then 1 else 0
  w64 (makeTA root dep (nr % m).toNat (nc % m).toNat + carry * 2 ^ 48)

/-! ### The shapes -/

/-- `op d, a, b` of kind P with a latency (R55, R62, R84). -/
def opRR (f : Word → Word → Word) (lat : Nat) (p : BitVec 3) (d a b : BitVec 5) (sc : BitVec 3) (s : State) : Outcome :=
  instr sc (guardP p do
    let x ← readS a
    let y ← readS b
    writeSL d (f x y) lat) s
/-- `op d, a` of kind P. -/
def opR (f : Word → Word) (p : BitVec 3) (d a : BitVec 5) (sc : BitVec 3) (s : State) : Outcome :=
  instr sc (guardP p do
    let x ← readS a
    writeSL d (f x) 1) s
/-- `op d, a, imm`, never predicated. -/
def opRI (f : Word → Word → Word) (lat : Nat) (d a : BitVec 5) (y : Word) (sc : BitVec 3) (s : State) : Outcome :=
  instr sc (do
    let x ← readS a
    writeSL d (f x y) lat) s
/-- `op d, a, b, c`, never predicated. -/
def opRX (f : Word → Word → Word → Word) (d a b c : BitVec 5) (sc : BitVec 3) (s : State) : Outcome :=
  instr sc (do
    let x ← readS a
    let y ← readS b
    let z ← readS c
    writeSL d (f x y z) 1) s
/-- 16-bit `d := d op a` (R60). -/
def op16 (f : Word → Word → Word) (d a : BitVec 5) (s : State) : Outcome :=
  instr16 (do
    let x ← readS d
    let y ← readS a
    writeSL d (f x y) 1) s
/-- 16-bit `d := d op imm` (R60). -/
def op16I (f : Word → Word → Word) (d : BitVec 5) (y : Word) (s : State) : Outcome :=
  instr16 (do
    let x ← readS d
    writeSL d (f x y) 1) s

/-! ### Integer and logical operations -/

/-- add (R87). -/
def execAdd (p : BitVec 3) (d a b : BitVec 5) (sc : BitVec 3) (s : State) : Outcome := opRR (· + ·) 1 p d a b sc s
/-- sub (R87). -/
def execSub (p : BitVec 3) (d a b : BitVec 5) (sc : BitVec 3) (s : State) : Outcome := opRR (· - ·) 1 p d a b sc s
/-- mul (R87). -/
def execMul (p : BitVec 3) (d a b : BitVec 5) (sc : BitVec 3) (s : State) : Outcome := opRR (· * ·) 3 p d a b sc s
/-- mulh (R87). -/
def execMulh (p : BitVec 3) (d a b : BitVec 5) (sc : BitVec 3) (s : State) : Outcome := opRR mulhS 3 p d a b sc s
/-- mulh.n (R87). -/
def execMulhN (p : BitVec 3) (d a b : BitVec 5) (sc : BitVec 3) (s : State) : Outcome := opRR mulhU 3 p d a b sc s
/-- div (R88). -/
def execDiv (p : BitVec 3) (d a b : BitVec 5) (sc : BitVec 3) (s : State) : Outcome := opRR (fun x y => (divS x y).1) 20 p d a b sc s
/-- div.n (R88). -/
def execDivN (p : BitVec 3) (d a b : BitVec 5) (sc : BitVec 3) (s : State) : Outcome := opRR (fun x y => (divU x y).1) 20 p d a b sc s
/-- rem (R88). -/
def execRem (p : BitVec 3) (d a b : BitVec 5) (sc : BitVec 3) (s : State) : Outcome := opRR (fun x y => (divS x y).2) 20 p d a b sc s
/-- rem.n (R88). -/
def execRemN (p : BitVec 3) (d a b : BitVec 5) (sc : BitVec 3) (s : State) : Outcome := opRR (fun x y => (divU x y).2) 20 p d a b sc s
/-- and (R87). -/
def execAnd (p : BitVec 3) (d a b : BitVec 5) (sc : BitVec 3) (s : State) : Outcome := opRR (· &&& ·) 1 p d a b sc s
/-- or (R87). -/
def execOr (p : BitVec 3) (d a b : BitVec 5) (sc : BitVec 3) (s : State) : Outcome := opRR (· ||| ·) 1 p d a b sc s
/-- xor (R87). -/
def execXor (p : BitVec 3) (d a b : BitVec 5) (sc : BitVec 3) (s : State) : Outcome := opRR (· ^^^ ·) 1 p d a b sc s
/-- andn (R87). -/
def execAndn (p : BitVec 3) (d a b : BitVec 5) (sc : BitVec 3) (s : State) : Outcome := opRR (fun x y => x &&& ~~~y) 1 p d a b sc s
/-- min (R87). -/
def execMin (p : BitVec 3) (d a b : BitVec 5) (sc : BitVec 3) (s : State) : Outcome := opRR minS 1 p d a b sc s
/-- max (R87). -/
def execMax (p : BitVec 3) (d a b : BitVec 5) (sc : BitVec 3) (s : State) : Outcome := opRR maxS 1 p d a b sc s
/-- min.n (R87). -/
def execMinN (p : BitVec 3) (d a b : BitVec 5) (sc : BitVec 3) (s : State) : Outcome := opRR minU 1 p d a b sc s
/-- max.n (R87). -/
def execMaxN (p : BitVec 3) (d a b : BitVec 5) (sc : BitVec 3) (s : State) : Outcome := opRR maxU 1 p d a b sc s
/-- shl (R87). -/
def execShl (p : BitVec 3) (d a b : BitVec 5) (sc : BitVec 3) (s : State) : Outcome := opRR shiftL 1 p d a b sc s
/-- shr (R87). -/
def execShr (p : BitVec 3) (d a b : BitVec 5) (sc : BitVec 3) (s : State) : Outcome := opRR shiftR 1 p d a b sc s
/-- sra (R87). -/
def execSra (p : BitVec 3) (d a b : BitVec 5) (sc : BitVec 3) (s : State) : Outcome := opRR shiftA 1 p d a b sc s
/-- rot (R87). -/
def execRot (p : BitVec 3) (d a b : BitVec 5) (sc : BitVec 3) (s : State) : Outcome := opRR rotR 1 p d a b sc s
/-- taz (R95). -/
def execTaz (p : BitVec 3) (d a b : BitVec 5) (sc : BitVec 3) (s : State) : Outcome := opRR tazOf 1 p d a b sc s
/-- tanb (R96). -/
def execTanb (p : BitVec 3) (d a b : BitVec 5) (sc : BitVec 3) (s : State) : Outcome := opRR tanbOf 1 p d a b sc s
/-- taup (R95). -/
def execTaup (p : BitVec 3) (d a b : BitVec 5) (sc : BitVec 3) (s : State) : Outcome := opRR taupOf 1 p d a b sc s
/-- tadown (R95). -/
def execTadown (p : BitVec 3) (d a b : BitVec 5) (sc : BitVec 3) (s : State) : Outcome := opRR tadownOf 1 p d a b sc s
/-- clz (R87). -/
def execClz (p : BitVec 3) (d a : BitVec 5) (sc : BitVec 3) (s : State) : Outcome := opR (fun x => w64 (leading x 64)) p d a sc s
/-- ctz (R87). -/
def execCtz (p : BitVec 3) (d a : BitVec 5) (sc : BitVec 3) (s : State) : Outcome := opR (fun x => w64 (trailing x 64)) p d a sc s
/-- popc (R87). -/
def execPopc (p : BitVec 3) (d a : BitVec 5) (sc : BitVec 3) (s : State) : Outcome := opR (fun x => w64 (ones x.toNat 64)) p d a sc s
/-- tax (R95). -/
def execTax (p : BitVec 3) (d a : BitVec 5) (sc : BitVec 3) (s : State) : Outcome := opR taxOf p d a sc s
/-- tadepth (R95). -/
def execTadepth (p : BitVec 3) (d a : BitVec 5) (sc : BitVec 3) (s : State) : Outcome := opR tadepthOf p d a sc s
/-- cmp.eq (R89). -/
def execCmpEq (p : BitVec 3) (d a b : BitVec 5) (sc : BitVec 3) (s : State) : Outcome := opRR (fun x y => bool64 (cond .eq x y)) 1 p d a b sc s
/-- cmp.ne (R89). -/
def execCmpNe (p : BitVec 3) (d a b : BitVec 5) (sc : BitVec 3) (s : State) : Outcome := opRR (fun x y => bool64 (cond .ne x y)) 1 p d a b sc s
/-- cmp.lt (R89). -/
def execCmpLt (p : BitVec 3) (d a b : BitVec 5) (sc : BitVec 3) (s : State) : Outcome := opRR (fun x y => bool64 (cond .lt x y)) 1 p d a b sc s
/-- cmp.ge (R89). -/
def execCmpGe (p : BitVec 3) (d a b : BitVec 5) (sc : BitVec 3) (s : State) : Outcome := opRR (fun x y => bool64 (cond .ge x y)) 1 p d a b sc s
/-- cmp.ltu (R89). -/
def execCmpLtu (p : BitVec 3) (d a b : BitVec 5) (sc : BitVec 3) (s : State) : Outcome := opRR (fun x y => bool64 (cond .ltu x y)) 1 p d a b sc s
/-- cmp.geu (R89). -/
def execCmpGeu (p : BitVec 3) (d a b : BitVec 5) (sc : BitVec 3) (s : State) : Outcome := opRR (fun x y => bool64 (cond .geu x y)) 1 p d a b sc s
/-- cmp.any (R89). -/
def execCmpAny (p : BitVec 3) (d a b : BitVec 5) (sc : BitVec 3) (s : State) : Outcome := opRR (fun x y => bool64 (cond .any x y)) 1 p d a b sc s
/-- cmp.none (R89). -/
def execCmpNone (p : BitVec 3) (d a b : BitVec 5) (sc : BitVec 3) (s : State) : Outcome := opRR (fun x y => bool64 (cond .none x y)) 1 p d a b sc s
/-- sel (R90): reads both sources; never predicated. -/
def execSel (d a b : BitVec 5) (k sc : BitVec 3) (s : State) : Outcome :=
  instr sc (do
    let x ← readS a
    let y ← readS b
    let v ← readP k.toNat
    writeSL d (if predBit v 0 then x else y) 1) s

/-! ### Immediate forms (R85) -/

/-- add with an immediate (R87, R85). -/
def execAddImm12 (d a : BitVec 5) (i : BitVec 12) (sc : BitVec 3) (s : State) : Outcome := opRI (· + ·) 1 d a (i.signExtend 64) sc s
/-- and with an immediate (R87, R85). -/
def execAndImm (d a : BitVec 5) (i : BitVec 8) (sc : BitVec 3) (s : State) : Outcome := opRI (· &&& ·) 1 d a (i.signExtend 64) sc s
/-- or with an immediate (R87, R85). -/
def execOrImm (d a : BitVec 5) (i : BitVec 8) (sc : BitVec 3) (s : State) : Outcome := opRI (· ||| ·) 1 d a (i.signExtend 64) sc s
/-- xor with an immediate (R87, R85). -/
def execXorImm (d a : BitVec 5) (i : BitVec 8) (sc : BitVec 3) (s : State) : Outcome := opRI (· ^^^ ·) 1 d a (i.signExtend 64) sc s
/-- andn with an immediate (R87, R85). -/
def execAndnImm (d a : BitVec 5) (i : BitVec 8) (sc : BitVec 3) (s : State) : Outcome := opRI (fun x y => x &&& ~~~y) 1 d a (i.signExtend 64) sc s
/-- shl with an immediate (R87, R85). -/
def execShlImm (d a : BitVec 5) (i : BitVec 6) (sc : BitVec 3) (s : State) : Outcome := opRI shiftL 1 d a (i.setWidth 64) sc s
/-- shr with an immediate (R87, R85). -/
def execShrImm (d a : BitVec 5) (i : BitVec 6) (sc : BitVec 3) (s : State) : Outcome := opRI shiftR 1 d a (i.setWidth 64) sc s
/-- sra with an immediate (R87, R85). -/
def execSraImm (d a : BitVec 5) (i : BitVec 6) (sc : BitVec 3) (s : State) : Outcome := opRI shiftA 1 d a (i.setWidth 64) sc s
/-- rot with an immediate (R87, R85). -/
def execRotImm (d a : BitVec 5) (i : BitVec 6) (sc : BitVec 3) (s : State) : Outcome := opRI rotR 1 d a (i.setWidth 64) sc s
/-- mul with an immediate (R87, R85). -/
def execMulImm (d a : BitVec 5) (i : BitVec 8) (sc : BitVec 3) (s : State) : Outcome := opRI (· * ·) 3 d a (i.signExtend 64) sc s
/-- min with an immediate (R87, R85). -/
def execMinImm (d a : BitVec 5) (i : BitVec 8) (sc : BitVec 3) (s : State) : Outcome := opRI minS 1 d a (i.signExtend 64) sc s
/-- max with an immediate (R87, R85). -/
def execMaxImm (d a : BitVec 5) (i : BitVec 8) (sc : BitVec 3) (s : State) : Outcome := opRI maxS 1 d a (i.signExtend 64) sc s
/-- min.n with an immediate (R87, R85). -/
def execMinNImm (d a : BitVec 5) (i : BitVec 8) (sc : BitVec 3) (s : State) : Outcome := opRI minU 1 d a (i.setWidth 64) sc s
/-- max.n with an immediate (R87, R85). -/
def execMaxNImm (d a : BitVec 5) (i : BitVec 8) (sc : BitVec 3) (s : State) : Outcome := opRI maxU 1 d a (i.setWidth 64) sc s
/-- taup with an immediate (R95, R85). -/
def execTaupImm (d a : BitVec 5) (i : BitVec 8) (sc : BitVec 3) (s : State) : Outcome := opRI taupOf 1 d a (i.setWidth 64) sc s
/-- tadown with an immediate (R95, R85). -/
def execTadownImm (d a : BitVec 5) (i : BitVec 2) (sc : BitVec 3) (s : State) : Outcome := opRI tadownOf 1 d a (i.setWidth 64) sc s

/-! ### Funnel shift and bit fields -/

/-- fsh (R92). -/
def execFsh (d a b c : BitVec 5) (sc : BitVec 3) (s : State) : Outcome :=
  opRX (fun x y z => w64 ((x.toNat * 2 ^ 64 + y.toNat) / 2 ^ shiftBy z)) d a b c sc s
/-- bfx (R93). -/
def execBfx (d a b c : BitVec 5) (sc : BitVec 3) (s : State) : Outcome := opRX (extract false) d a b c sc s
/-- bfxs (R93). -/
def execBfxs (d a b c : BitVec 5) (sc : BitVec 3) (s : State) : Outcome := opRX (extract true) d a b c sc s
/-- bfi (R93): d is read after a, b and c. -/
def execBfi (d a b c : BitVec 5) (sc : BitVec 3) (s : State) : Outcome :=
  instr sc (do
    let x ← readS a
    let y ← readS b
    let z ← readS c
    let t ← readS d
    if min z.toNat 64 = 0 ∨ 64 ≤ y.toNat then pure () else writeSL d (insert t x y z) 1) s
/-- bfx with immediate offset and width (R94). -/
def execBfxImm (d a : BitVec 5) (w o : BitVec 6) (sc : BitVec 3) (s : State) : Outcome :=
  opRI (fun x _ => extract false x (o.setWidth 64) (w.setWidth 64)) 1 d a 0 sc s
/-- lui (R91). -/
def execLui (d : BitVec 5) (i : BitVec 17) (sc : BitVec 3) (s : State) : Outcome :=
  instr sc (writeSL d (BitVec.ofInt 64 (i.toInt * 4096 + 2048)) 1) s

/-! ### 16-bit forms (R60) -/

/-- mov: add d, a, s0. -/
def execMov (d a : BitVec 5) (s : State) : Outcome :=
  instr16 (do
    let x ← readS a
    writeSL d x 1) s
/-- 16-bit add. -/
def execAdd16 (d a : BitVec 5) (s : State) : Outcome := op16 (· + ·) d a s
/-- 16-bit sub. -/
def execSub16 (d a : BitVec 5) (s : State) : Outcome := op16 (· - ·) d a s
/-- 16-bit and. -/
def execAnd16 (d a : BitVec 5) (s : State) : Outcome := op16 (· &&& ·) d a s
/-- 16-bit or. -/
def execOr16 (d a : BitVec 5) (s : State) : Outcome := op16 (· ||| ·) d a s
/-- 16-bit xor. -/
def execXor16 (d a : BitVec 5) (s : State) : Outcome := op16 (· ^^^ ·) d a s
/-- li: the sign-extended immediate. -/
def execLi (d i : BitVec 5) (s : State) : Outcome := instr16 (writeSL d (i.signExtend 64) 1) s
/-- 16-bit add of a signed immediate. -/
def execAddImm5 (d i : BitVec 5) (s : State) : Outcome := op16I (· + ·) d (i.signExtend 64) s
/-- 16-bit shift left. -/
def execShl16 (d i : BitVec 5) (s : State) : Outcome := op16I shiftL d (i.setWidth 64) s
/-- 16-bit logical shift right. -/
def execShr16 (d i : BitVec 5) (s : State) : Outcome := op16I shiftR d (i.setWidth 64) s
/-- 16-bit arithmetic shift right. -/
def execSra16 (d i : BitVec 5) (s : State) : Outcome := op16I shiftA d (i.setWidth 64) s
/-- nop: only the PC moves. -/
def execNop (s : State) : Outcome := instr16 (pure ()) s

end Sys2Proof.Machine
end

