-- ==== Sys2Proof/Machine/Vale.lean ====
section
/-! DEFINITION. Vale's system calls (R390, R391): time, launch records and code objects (R392 to R395), tables, routine slots, mappings and
pools (R164, R168, R172, R322, R325, R402). -/
namespace Sys2Proof.Machine

/-! ### A call being served (R390) -/

/-- A call that Vale serves: the caller's address space, its argument, and the cluster memory that its descriptor lies in (none for the
control program, which hands the words). (DESIGN CHOICE, log 76.) -/
structure Served where
  asid : Nat
  arg : Word
  place : Option Nat
  words : List Word
deriving DecidableEq, Repr

/-- What a call brings to Vale, while its caller waits for the answer. -/
def State.request (s : State) (c : Caller) (k : Nat) : Option Served :=
  match c with
  | .context core level =>
    match (s.ctx core level).op with
    | .call n arg _ none =>
      if n = k then
        some { asid := ((s.gangOf core).map fun g => g.asid).getD 0, arg := arg, place := some (clusterOf core), words := [] }
      else none
    | _ => none
  | .control asid arg words => some { asid := asid, arg := arg, place := none, words := words }

/-- Whether a WAITJOB of this argument waits: for a job of the address space that is still running. -/
def State.jobRuns (s : State) (q : Served) : Bool :=
  match Map.get? s.vale.jobs q.arg.toNat with
  | some j => decide (j.asid = q.asid) && decide (j.status = none)
  | none => false

/-- Whether an earlier call lets later ones be served: it waits for a job, or its gang is parked. (DEDUCED, log 51.) (DEDUCED, log 65.) -/
def State.letsPass (s : State) (e : Caller × Nat) : Bool :=
  match s.request e.1 e.2 with
  | none => true
  | some q => decide (e.2 = 0x11) && s.jobRuns q

/-- Whether a call stands in Vale's queue and every earlier one lets it be served (R390: arrival order). (DEDUCED, log 65.) -/
def State.firstCall (s : State) (e : Caller × Nat) : Bool :=
  s.vale.calls.contains e && (s.vale.calls.takeWhile fun q => decide (q ≠ e)).all s.letsPass

/-- The call k of a caller, if it is to be served now. -/
def State.served (s : State) (c : Caller) (k : Nat) : Option Served := if s.firstCall (c, k) then s.request c k else none

/-- The answer of a call (R390): the context's, or the control program's. -/
def State.respond (s : State) (c : Caller) (k : Nat) (v : Word) : State :=
  (match c with
    | .context core level =>
      s.modCtx core level fun x =>
        match x.op with
        | .call k arg d _ => { x with op := .call k arg d (some v) }
        | _ => x
    | .control _ _ _ => s.modVale fun y => { y with answer := some v }).modVale fun y =>
      { y with calls := y.calls.filter fun q => decide (q ≠ (c, k)) }

/-- Whether a call has still to arrive: a context's queues as its instruction issues, the control program's by itself once Vale runs. -/
def State.arrives (s : State) (c : Caller) (k : Nat) : Bool :=
  match c with
  | .context _ _ => false
  | .control _ _ _ => s.mod.vale && !s.vale.calls.contains (c, k)

/-- A call arrives, or is served: the work gives the state and the result; none while it waits. -/
def serveCall (c : Caller) (k : Nat) (s : State) (work : Served → Option (State × Word)) : Outcome :=
  happen s (
    if s.arrives c k then some (s.modVale fun y => { y with calls := y.calls ++ [(c, k)] })
    else
      match s.served c k with
      | none => none
      | some q =>
        match work q with
        | none => none
        | some (t, v) => some (t.respond c k v))

/-- Status 1: INVALID. -/
def invalid (s : State) : Option (State × Word) := some (s, 1)

/-- n bytes of a descriptor (R391): at a 64-byte-aligned cluster address in bits 21:0 of the argument, whose other bits are 0. -/
def State.descriptor (s : State) (q : Served) (n : Nat) : Option (List Byte) :=
  match q.place with
  | none => some (((q.words.map fun (w : Word) => bytesOf w.toNat 8).flatten ++ List.replicate n 0).take n)
  | some k =>
    let a := q.arg.toNat
    if a < 2 ^ 22 ∧ a % 64 = 0 ∧ a + n ≤ Config.clusterBytes then some (Mem.readBytes s.cmem (cellKey k a) n) else none

/-- Word i of a descriptor. -/
def dword (b : List Byte) (i : Nat) : Nat := ofBytes ((b.drop (8 * i)).take 8)
/-- Whether words i to i + n − 1 are 0. -/
def zeroWords (b : List Byte) (i n : Nat) : Bool := (count i n).all fun j => decide (dword b j = 0)
/-- Bits hi to lo of a word. -/
def bitsOf (w hi lo : Nat) : Nat := w / 2 ^ lo % 2 ^ (hi + 1 - lo)

/-! ### TIME, WAITJOB, unassigned numbers (R391) -/

/-- The module's 1588 time (R386): at or after its clock at the present frame count, within a frame of it, and never before the time that it gave
last. (DEDUCED, log 63.) -/
def State.timeNow (s : State) : Nat := max s.mod.time (s.mod.clock + Config.time1588 s.freeCtr % frameNs)

/-- TIME: IEEE 1588 time in ns. (DEDUCED, log 63.) -/
def execTime (c : Caller) (s : State) : Outcome :=
  serveCall c 0x01 s fun q =>
    if q.arg ≠ 0 then invalid s
    else some ({ s with freeCtr := s.freeCtr + 1, mod := { s.mod with time := s.timeNow } }, w64 s.timeNow)

/-- WAITJOB: waits for the job; its status, and the parked messages discarded. (DEDUCED, log 65.) -/
def execWaitjob (c : Caller) (s : State) : Outcome :=
  serveCall c 0x11 s fun q =>
    match Map.get? s.vale.jobs q.arg.toNat with
    | none => invalid s
    | some j =>
      if j.asid ≠ q.asid then some (s, 2)
      else
        match j.status with
        | none => none
        | some st => some (s, w64 (st + j.parked % 2 ^ 32 * 2 ^ 32))

/-- The numbers of R391. -/
def assignedCalls : List Nat := [0x01, 0x10, 0x11, 0x20, 0x21, 0x30, 0x31, 0x32, 0x33, 0x40, 0x41, 0x42, 0x50]

/-- The number of a context's call. -/
def State.calledNumber (s : State) (c : Caller) : Nat :=
  match c with
  | .context core level =>
    match (s.ctx core level).op with
    | .call k _ _ _ => k
    | _ => 0x100
  | .control _ _ _ => 0x100

/-- A call with an unassigned number: UNKNOWN (R390). -/
def execUnassignedCall (c : Caller) (s : State) : Outcome :=
  if assignedCalls.contains (s.calledNumber c) then .next s else serveCall c (s.calledNumber c) s fun _ => some (s, 4)

/-! ### XUTABLE and ROUTINE -/

/-- XUTABLE (R391, R285): loads TBLn of the caller's cluster. (DEDUCED, log 65.) -/
def execXutable (c : Caller) (s : State) : Outcome :=
  serveCall c 0x20 s fun q =>
    match s.descriptor q 1052, q.place with
    | some b, some k =>
      match tableImage (b.drop 8) with
      | some t =>
        if dword b 0 < 16 then some (s.modCluster k fun y => { y with tables := Map.set y.tables (dword b 0) t }, 0) else invalid s
      | none => invalid s
    | _, _ => invalid s

/-- Whether a slot word's reserved bits are 0 (R204). -/
def slotClean (w : Nat) : Bool := decide (bitsOf w 62 38 = 0) && decide (bitsOf w 15 8 = 0) && decide (bitsOf w 5 5 = 0)

/-- ROUTINE (R391, R204, R338): binds a slot of the address space in every base-die processor. (DEDUCED, log 23.) -/
def execRoutine (c : Caller) (s : State) : Outcome :=
  serveCall c 0x21 s fun q =>
    match s.descriptor q 16 with
    | some b =>
      if dword b 0 < 64 ∧ slotClean (dword b 1) = true then
        some (s.modVale fun v => { v with routines := Map.set v.routines (q.asid * 64 + dword b 0) (w64 (dword b 1)) }, 0)
      else invalid s
    | none => invalid s

/-! ### Mappings (R164, R402) -/

/-- The base, in units of 2 KiB, of the n-th table that Vale makes. (DESIGN CHOICE, log 66.) -/
def tableBase (n : Nat) : Nat := 2 ^ 28 + n
/-- The first of Vale's tables from the n-th on that lies in no retired channel (R342), eight to a granule of 16 KiB; `f` bounds the search.
(DESIGN CHOICE, log 66.) -/
def State.freshTable (s : State) (n : Nat) : Nat → Option Nat
  | 0 => none
  | f + 1 => if s.retired (tableBase n * 2048) then s.freshTable (n / 8 * 8 + 8) f else some n
/-- The number of the next table that Vale makes. -/
def State.nextTable (s : State) : Nat := (s.freshTable s.vale.tablesUsed 513).getD s.vale.tablesUsed
/-- Whether Vale has memory for n more tables. -/
def State.tableRoom (s : State) (n : Nat) : Bool :=
  decide (s.nextTable + 4104 * n ≤ 2 ^ 27) && (s.freshTable s.vale.tablesUsed 513).isSome

/-- The level-6 table of a path from a table on, made with those above it as needed; none where a block entry, a malformed one or one in a
retired channel (R342) stands. (DESIGN CHOICE, log 66.) -/
def State.makeTables (s : State) (d : Root) (path : Nat) : Nat → Nat → Option (State × Nat)
  | 0, base => some (s, base)
  | n + 1, base =>
    let level := 6 - (n + 1)
    let key := entryKey base path level
    let e := Map.getD s.entries key (0, 0)
    if s.retired (base * 2048) then none
    else if entryType e.2 = 0 then
      let b := tableBase s.nextTable
      let s1 := { s with entries := Map.set s.entries key (0, w64 (2 ^ 62 + b)) }
      (s1.modVale fun v => { v with tablesUsed := s.nextTable + 1 }).makeTables d path n b
    else if entryMalformed e.1 e.2 level d then none
    else if entryType e.2 = 1 then s.makeTables d path n (entryBase e.2)
    else none

/-- The key of the page entry of a tree address, in tables made as needed; none where a valid entry or a block stands. -/
def State.pageSlot (s : State) (d : Root) (path : Nat) : Option (State × Nat) :=
  match s.makeTables d path 5 d.tbase with
  | none => none
  | some (t, base) =>
    let key := entryKey base path 6
    if entryType (Map.getD t.entries key (0, 0)).2 = 0 ∧ t.retired (base * 2048) = false then some (t, key) else none

/-- A page address of depth 18 in a root that is valid and well formed, headed or not. -/
def State.pageRoot (s : State) (asid : Nat) (t : Word) (headed : Bool) : Option Root :=
  let d := s.root asid (taRoot t)
  if (checkTA t).isNone && decide (taDepth t = 18) && d.valid && !d.malformed && decide (d.headed = headed) then some d else none

/-- Word 1 of a page entry. -/
def pageWord (rd wr tier headed : Bool) (bver base : Nat) : Word :=
  w64 (3 * 2 ^ 62 + (if rd then 2 ^ 61 else 0) + (if wr then 2 ^ 60 else 0) + (if tier then 2 ^ 59 else 0)
    + (if headed then 2 ^ 58 else 0) + bver % 256 * 2 ^ 49 + base % 2 ^ 41)

/-- The first 16 KiB granule of HBM from g on that lies in no retired channel (R342); `n` bounds the search. -/
def State.freshGranule (s : State) (g : Nat) : Nat → Option Nat
  | 0 => none
  | n + 1 => if 2 ^ 25 ≤ g then none else if s.retired (g * 2 ^ 14) then s.freshGranule (g + 1) n else some g

/-- Fresh backing of a page, in units of 2 KiB: a 16 KiB granule of HBM or of the capacity tier (R154); none when memory is exhausted.
(DESIGN CHOICE, log 66.) (DEDUCED, log 68.) -/
def State.takeBacking (s : State) (tier : Bool) : Option (Nat × State) :=
  if tier then
    if 12 * 2 ^ 27 ≤ s.vale.cxl then none
    else some (2 ^ 34 + 8 * s.vale.cxl, s.modVale fun v => { v with cxl := v.cxl + 1 })
  else (s.freshGranule s.vale.hbm 513).map fun g => (8 * g, s.modVale fun v => { v with hbm := g + 1 })

/-- Memory given out zeroed: n bytes from a physical address read 0, and no granule of them is poisoned any more. -/
def State.zeroBacking (s : State) (a n : Nat) : State :=
  { s.zeroPhys a n with badPhys := s.badPhys.filter fun g => !(decide (a ≤ g * 32) && decide (g * 32 < a + n)) }

/-- The sectors of a fresh page of a keyed root verify under its present key and version (R170). (DESIGN CHOICE, log 66.) -/
def State.freshSectors (s : State) (asid : Nat) (d : Root) (t : Word) : State :=
  if d.key = 0 then s
  else
    let first := (asid * 256 + taRoot t) * 2 ^ 41 + taPath t * d.esize / 8 / 512
    { s with sectors := (count first (d.esize)).foldl (fun m n => Map.set m n d.ver) s.sectors }

/-- MAP (R402). It waits for a stalled channel of a table that it reads or writes, or of the memory that it zeroes (R341). (DESIGN CHOICE, log 66.) -/
def execMap (c : Caller) (s : State) : Outcome :=
  serveCall c 0x30 s fun q =>
    match s.descriptor q 64 with
    | none => invalid s
    | some b =>
      let t := w64 (dword b 0)
      let f := dword b 1
      if 8 ≤ f ∨ zeroWords b 3 5 = false then invalid s
      else
        match s.pageRoot q.asid t false with
        | none => invalid s
        | some d =>
          match s.pageSlot d (taPath t) with
          | none => invalid s
          | some (s1, key) =>
            match s1.takeBacking (f.testBit 2), s.tableRoom 5 with
            | some (base, s2), true =>
              if s1.walkStalls (taPath t) 6 d.tbase || s1.stalledAt (base * 2048) then none
              else
                let s3 := ((s2.zeroBacking (base * 2048) (512 * d.esize)).freshSectors q.asid d t).dropCached q.asid t
                some ({ s3 with
                  entries := Map.set s3.entries key
                    (w64 (dword b 2), pageWord (f.testBit 0) (f.testBit 1) (f.testBit 2) false d.bver base) }, 0)
            | _, _ => some (s, 3)

/-- The presence bits of the sub-blocks of a block of depth 18 to 21. -/
def presenceMask (t : Word) : Nat := (2 ^ 4 ^ (21 - taDepth t) - 1) * 2 ^ (taPath t / 64 % 64)

/-- The page entry that MAP_SUB and UNMAP_SUB change: its argument is checked under R149. -/
def State.subEntry (s : State) (asid : Nat) (t : Word) : Option Leaf :=
  if taDepth t < 18 ∨ 21 < taDepth t then none
  else
    match s.walk asid t with
    | .error _ => none
    | .ok (_, e) => if entryType e.w1 = 3 then some e else none

/-- MAP_SUB (R164); it waits for a stalled channel of a table (R341). -/
def execMapSub (c : Caller) (s : State) : Outcome :=
  serveCall c 0x31 s fun q =>
    match s.subEntry q.asid q.arg with
    | none => invalid s
    | some e =>
      if s.walkWaits q.asid q.arg then none
      else
        some ({ s with entries := Map.set s.entries e.key (e.w0 ||| w64 (presenceMask q.arg), e.w1) }.dropCached q.asid q.arg, 0)

/-- UNMAP_SUB (R164): it waits for a sub-block that an engine is writing, which is done under one reading of its entry, and for a stalled channel of
a table (R341). -/
def execUnmapSub (c : Caller) (s : State) : Outcome :=
  serveCall c 0x32 s fun q =>
    match s.subEntry q.asid q.arg with
    | none => invalid s
    | some e =>
      if s.unitOpen q.asid q.arg || s.walkWaits q.asid q.arg then none
      else
        some ({ s with entries := Map.set s.entries e.key (e.w0 &&& ~~~(w64 (presenceMask q.arg)), e.w1) }.dropCached q.asid q.arg, 0)

/-- The tables that stand below a list of tables. -/
def State.tablesUnder (s : State) (l : List Nat) : List Nat :=
  (s.entries.filter fun e => l.contains (e.1 / 64) && decide (entryType e.2.2 = 1)).map fun e => entryBase e.2.2

/-- The tables of a root, `n` levels of them below a list. -/
def State.tablesOf (s : State) (l : List Nat) : Nat → List Nat
  | 0 => l
  | n + 1 => l ++ s.tablesOf (s.tablesUnder l) n

/-- ENCV of an entry replaced by a version's low 8 bits. -/
def withEncv (w1 : Word) (bver : Nat) : Word :=
  w64 (w1.toNat / 2 ^ 57 * 2 ^ 57 + bver % 256 * 2 ^ 49 + w1.toNat % 2 ^ 49)

/-- The mappings of a root that Vale keeps across a reallocation are rewritten with the new ENCV (R172); which it keeps is free.
(DESIGN CHOICE, log 95.) -/
def State.keepMappings (s : State) (d : Root) (bver : Nat) : State :=
  let l := s.tablesOf [d.tbase] 5
  let kept (e : Nat × Word × Word) : Bool :=
    l.contains (e.1 / 64) && !s.retired (e.1 / 64 * 2048) && decide (2 ≤ entryType e.2.2) && decide (entryEncv e.2.2 = d.bver % 256) && Config.keepsMapping s.freeCtr e.1
  { s with
    entries := s.entries.map fun e => if kept e then (e.1, (e.2.1, withEncv e.2.2 bver)) else e
    freeCtr := s.freeCtr + 1 }

/-- REALLOC (R172): BVER rises by 1, and the mappings that Vale keeps are rewritten before the new version is used, once no table of the root lies in
a stalled channel (R341). -/
def execRealloc (c : Caller) (s : State) : Outcome :=
  serveCall c 0x33 s fun q =>
    let n := q.arg.toNat
    let d := s.root q.asid n
    if 256 ≤ n ∨ d.valid = false then invalid s
    else if s.unitOpen q.asid (taOf n 0 0) || (s.tablesOf [d.tbase] 5).any fun b => s.stalledAt (b * 2048) then none
    else
      let v := (d.bver + 1) % 2 ^ 32
      some (((s.keepMappings d v).writeRoot q.asid n 0 (w64 (d.w0.toNat / 2 ^ 32 * 2 ^ 32 + v))).dropCached q.asid (taOf n 0 0), 0)

/-! ### Headed pages (R322, R325, R402) -/

/-- KVALLOC (R402); free slots go to waiting re-layouts first (R333). It waits for a stalled channel of a table, of the header or of the slot (R341).
(DEDUCED, log 67.) -/
def execKvalloc (c : Caller) (s : State) : Outcome :=
  serveCall c 0x40 s fun q =>
    match s.descriptor q 64 with
    | none => invalid s
    | some b =>
      let t := w64 (dword b 0)
      let i := dword b 2
      if 0xFE < dword b 1 ∨ 2 ^ 32 ≤ i ∨ 4 ≤ dword b 3 ∨ zeroWords b 4 4 = false then invalid s
      else
        match s.pageRoot q.asid t true with
        | none => invalid s
        | some d =>
          let hk := d.hbase * 32 + i
          if i = 0 ∨ s.npages d.hbase < i ∨ (Map.get? s.headers hk).isSome = true then invalid s
          else
            match s.pageSlot d (taPath t) with
            | none => invalid s
            | some (s1, key) =>
              let n := homeSlice (hk * 64)
              let y := s1.slice n
              match (if y.waiting.length < y.fp8.count then s1.takeSliceSlot n y.fp8 else none), s.tableRoom 5 with
              | some (a, p, s2), true =>
                if s1.walkStalls (taPath t) 6 d.tbase || s1.headerStalled hk || s1.stalledAt a then none
                else
                  let s3 := (((s2.modSlice n fun y => { y with fp8 := p }).zeroBacking a 4096).setHeader hk
                    { pscale := dword b 1, slot := a }).dropCached q.asid t
                  some ({ s3 with
                    entries := Map.set s3.entries key
                      (BitVec.allOnes 64, pageWord ((dword b 3).testBit 0) ((dword b 3).testBit 1) false true d.bver i) }, 0)
              | _, _ => some (s, 3)

/-- Free a page: its slots return to their pools, and header and entry are gone. -/
def State.freePage (s : State) (n hk key : Nat) (h : PageHdr) : State :=
  let s1 := s.modSlice n fun y =>
    if h.mx4 then { y with mx4 := y.mx4.give h.slot, sc := y.sc.give h.sslot } else { y with fp8 := y.fp8.give h.slot }
  { s1 with headers := Map.del s1.headers hk, entries := Map.del s1.entries key }

/-- KVFREE (R325): it aborts a conversion, waits for a re-layout to flip, and fails with status 3 while that waits for a slot. It waits for a stalled
channel of a table or of the header (R341). (DEDUCED, log 67.) -/
def execKvfree (c : Caller) (s : State) : Outcome :=
  serveCall c 0x41 s fun q =>
    match s.pageRoot q.asid q.arg true, s.walk q.asid q.arg with
    | some d, .ok (_, e) =>
      let hk := d.hbase * 32 + entryBase e.w1
      match Map.get? s.headers hk with
      | none => invalid s
      | some h =>
        let n := homeSlice (hk * 64)
        let y := s.slice n
        if h.state = .relayout ∧ y.waiting.contains hk = true then some (s, 3)
        else if h.state = .relayout ∨ (y.reqs.any fun r => decide (r.page = hk)) = true ∨ s.headerStalled hk = true
            ∨ s.walkWaits q.asid q.arg = true then none
        else
          let s1 := if h.state = .converting then s.endConversion n hk else s
          some ((s1.freePage n hk e.key (s1.header hk)).dropCached q.asid q.arg, 0)
    | _, _ => invalid s

/-- 4 KiB pieces of a slice's channels that Vale keeps for slots, and how many of them slots have taken or will take. (DESIGN CHOICE, log 30.)
(DESIGN CHOICE, log 66.) -/
def slotRoom : Nat := 2 ^ 18
/-- Pieces taken by a slice's slots, given out or not. -/
def State.slotsTaken (s : State) (n : Nat) : Nat :=
  Map.getD s.vale.slotsUsed n 0 + (s.slice n).fp8.free + (s.slice n).mx4.free + (s.slice n).sc.free

/-- KVSLOTS (R402, R322). -/
def execKvslots (c : Caller) (s : State) : Outcome :=
  serveCall c 0x42 s fun q =>
    match s.descriptor q 64 with
    | none => invalid s
    | some b =>
      let n := dword b 0
      let (i, j, k) := (dword b 1, dword b 2, dword b 3)
      if 256 ≤ n ∨ 2 ^ 32 ≤ i ∨ 2 ^ 32 ≤ j ∨ 2 ^ 32 ≤ k ∨ zeroWords b 4 4 = false then invalid s
      else if slotRoom < s.slotsTaken n + i + j + k then some (s, 3)
      else
        some (s.modSlice n fun y =>
          { y with
            fp8 := { y.fp8 with free := y.fp8.free + i }
            mx4 := { y.mx4 with free := y.mx4.free + j }
            sc := { y.sc with free := y.sc.free + k } }, 0)

/-- The code of a slot size of a residency pool. -/
def sizeCode (n : Nat) : Option Nat :=
  if n = 2048 then some 0 else if n = 4096 then some 1 else if n = 8192 then some 2 else if n = 16384 then some 3 else none

/-- POOLADD (R402, R168): the pool holds the granules of HBM that its slots take. (DESIGN CHOICE, log 26.) -/
def execPooladd (c : Caller) (s : State) : Outcome :=
  serveCall c 0x50 s fun q =>
    match s.descriptor q 64 with
    | none => invalid s
    | some b =>
      match sizeCode (dword b 1), zeroWords b 2 6 with
      | some z, true =>
        let n := dword b 0 / dword b 1
        if 2 ^ 25 < s.vale.hbm + n then some (s, 3)
        else
          some (s.modVale fun v =>
            let p := Map.getD v.pool (q.asid * 4 + z) {}
            { v with
              hbm := v.hbm + n
              pool := Map.set v.pool (q.asid * 4 + z) { p with free := p.free + n, runs := p.runs ++ [(v.hbm, n)] } }, 0)
      | _, _ => invalid s

/-! ### POST (R392 to R395) -/

/-- The header of a code object (R395); none when it fails its checks. (DESIGN CHOICE, log 47.) -/
def codeHeader (b : List Byte) : Option CodeHdr :=
  let w0 := dword b 0
  let dispoff := bitsOf (dword b 2) 18 0
  let ringoff := bitsOf (dword b 3) 50 32
  let table := bitsOf (dword b 3) 21 0
  let mboxoff := bitsOf (dword b 4) 18 0
  let rtab := bitsOf (dword b 7) 53 32
  if w0 / 2 ^ 32 = 0x42454843 ∧ bitsOf w0 31 16 = 1 ∧ bitsOf w0 7 0 = 0 ∧ dispoff % 1024 = 0 ∧ ringoff % 16384 = 0 ∧ table % 16384 = 0
      ∧ mboxoff % 4096 = 0 ∧ bitsOf (dword b 6) 63 16 = 0 ∧ bitsOf (dword b 7) 63 54 = 0 ∧ bitsOf (dword b 7) 31 16 = 0 ∧ rtab % 8 = 0 then
    some
      { entry := BitVec.ofNat 22 (dword b 1), dispoff := dispoff, mboxoff := mboxoff, ringoff := ringoff, table := table
        nseg := if bitsOf w0 15 8 = 0 then 256 else bitsOf w0 15 8, tables := dword b 5, tmask := BitVec.ofNat 16 (dword b 6)
        rtab := rtab, nrtn := bitsOf (dword b 7) 15 0 }
  else none

/-- Bytes of an object: up to the end of its last segment or table image. -/
def objectLength (h : CodeHdr) (table : List Byte) : Nat :=
  let segs := (count 0 h.nseg).map fun i => (segmentPlace table i).2.2 + (segmentPlace table i).2.1
  (segs.foldl max (64 + table.length)).max (if h.tmask = 0 then 0 else h.tableOffset 16)

/-- Whether reading a whole code object waits for a stalled channel (R341). -/
def State.wholeStalls (s : State) (asid : Nat) (t : Word) (h : CodeHdr) : Bool :=
  s.objectStalls asid t .read 0 (objectLength h ((s.segmentTable asid t h.nseg).getD (List.replicate (Config.segmentEntryBytes.val * h.nseg) 0)))

/-- The bytes of a whole code object; none where they cannot be read. -/
def State.wholeObject (s : State) (asid : Nat) (t : Word) (h : CodeHdr) : Option (List Byte) :=
  (s.segmentTable asid t h.nseg).bind fun b => s.objectBytes asid t 0 (objectLength h b)

/-- A completion counter of a record: 0 to 4,095, or 0xFFFF for none. -/
def counterOk (n : Nat) : Bool := decide (n < 4096) || decide (n = 0xFFFF)

/-- The dependences of a record (R392): counter and value. -/
def recordNeeds (b : List Byte) : List (Nat × Nat) :=
  ((count 12 4).map fun i => (dword b i % 2 ^ 16, dword b i / 2 ^ 32)).filter fun q => decide (q.1 ≠ 0xFFFF)

/-- Whether a record's fields obey R392 and R394, its code object apart. (DEDUCED, log 64.) -/
def recordOk (b : List Byte) : Bool :=
  let w0 := dword b 0
  let w3 := dword b 3
  decide (bitsOf w0 63 56 = 1) && decide (bitsOf w0 47 45 = 0) && decide (bitsOf w0 39 37 = 0) && decide (bitsOf w0 27 16 = 0)
    && decide (bitsOf w0 43 40 ≠ 0) && decide (bitsOf w3 63 51 = 0) && decide (bitsOf w3 31 15 = 0)
    && decide (bitsOf w3 50 32 % 32 = 0) && decide (bitsOf w3 50 32 + 32 * bitsOf w3 14 0 ≤ 2 ^ 19)
    && ((count 12 4).all fun i => decide (bitsOf (dword b i) 31 16 = 0) && counterOk (bitsOf (dword b i) 15 0))
    && counterOk (dword b 16) && zeroWords b 17 15
    && (checkTA (w64 (dword b 1))).isNone && (checkTA (w64 (dword b 2))).isNone

/-- The job of a record. (DEDUCED, log 98.) -/
def recordJob (b : List Byte) (asid now order : Nat) (h : CodeHdr) : Job :=
  let w0 := dword b 0
  let w3 := dword b 3
  { asid := asid, queue := bitsOf w0 55 52, band := bitsOf w0 55 52 / 4, diemask := bitsOf w0 51 48, xgang := w0.testBit 44
    ngang := bitsOf w0 43 40, height := bitsOf w0 36 32, width := bitsOf w0 31 28, xumask := BitVec.ofNat 16 w0
    code := w64 (dword b 1), imageTA := w64 (dword b 2), poolOff := bitsOf w3 50 32, poolN := bitsOf w3 14 0
    frameq := w64 (dword b 4), args := (count 5 7).map fun i => w64 (dword b i), need := recordNeeds b, doneCtr := dword b 16
    hdr := h, toPlace := bitsOf w0 43 40, live := bitsOf w0 43 40, posted := now, order := order }

/-- Whether a shape can ever fit (R46): on some die that DIEMASK allows and that is not excluded. (DEDUCED, log 64.) -/
def State.canFit (s : State) (j : Job) : Bool :=
  decide (1 ≤ j.width) && decide (j.width ≤ 8) && decide (1 ≤ j.height) && decide (j.height ≤ 24)
    && (count 0 4).any fun d => j.diemask.testBit d && !s.dieFailed d

/-- A record posted (R394): MEAS7 is extended, and a record that can never fit completes at once with NOFIT (R46). (DEDUCED, log 64.) -/
def State.postJob (s : State) (j : Job) (code : List Byte) : State × Word :=
  let i := s.vale.nextJob
  let s1 := (s.modMod fun m => m.extend 7 (sha512 code)).modVale fun v =>
    { v with nextJob := i + 1, jobs := Map.set v.jobs i j, queue := v.queue ++ [i] }
  (if s.canFit j then s1 else s1.completeJob i j 2, w64 i)

/-- POST (R394); status 3 while Vale has no memory for the record (R391). It waits for a stalled channel of the object (R341). (DESIGN CHOICE,
log 64.) (DEDUCED, log 64.) -/
def execPost (c : Caller) (s : State) : Outcome :=
  serveCall c 0x10 s fun q =>
    match s.descriptor q 256 with
    | none => invalid s
    | some b =>
      let code := w64 (dword b 1)
      if recordOk b && s.objectStalls q.asid code .read 0 64 then none
      else
        match recordOk b, (s.objectBytes q.asid code 0 64).bind codeHeader with
        | true, some h =>
          if s.wholeStalls q.asid code h then none
          else
            let j := recordJob b q.asid s.mod.frame s.vale.nextJob h
            match s.objectTables q.asid code h j.xumask (count 0 16), s.wholeObject q.asid code h with
            | some _, some l =>
              if j.xumask &&& ~~~h.tmask ≠ 0 then invalid s
              else if Config.recordRoom s.vale.jobs.length then some (s.postJob j l)
              else some (s, 3)
            | _, _ => invalid s
        | _, _ => invalid s

end Sys2Proof.Machine
end

