-- ==== Sys2Proof/Machine/Dispatch.lean ====
section
/-! DEFINITION. One arm per constructor: the meaning of an instruction, or its refusal by name. -/
namespace Sys2Proof.Machine

/-- What an instruction does for the context that `State.cur` names, or what an event does. -/
def exec (i : Instr) (s : State) : Host.Outcome State Fault Refusal :=
  match i with
  | .add p d a b sc => Sys2Proof.Machine.execAdd p d a b sc s
  | .sub p d a b sc => Sys2Proof.Machine.execSub p d a b sc s
  | .mul p d a b sc => Sys2Proof.Machine.execMul p d a b sc s
  | .mulh p d a b sc => Sys2Proof.Machine.execMulh p d a b sc s
  | .mulhN p d a b sc => Sys2Proof.Machine.execMulhN p d a b sc s
  | .div p d a b sc => Sys2Proof.Machine.execDiv p d a b sc s
  | .divN p d a b sc => Sys2Proof.Machine.execDivN p d a b sc s
  | .rem p d a b sc => Sys2Proof.Machine.execRem p d a b sc s
  | .remN p d a b sc => Sys2Proof.Machine.execRemN p d a b sc s
  | .and p d a b sc => Sys2Proof.Machine.execAnd p d a b sc s
  | .or p d a b sc => Sys2Proof.Machine.execOr p d a b sc s
  | .xor p d a b sc => Sys2Proof.Machine.execXor p d a b sc s
  | .andn p d a b sc => Sys2Proof.Machine.execAndn p d a b sc s
  | .min p d a b sc => Sys2Proof.Machine.execMin p d a b sc s
  | .max p d a b sc => Sys2Proof.Machine.execMax p d a b sc s
  | .minN p d a b sc => Sys2Proof.Machine.execMinN p d a b sc s
  | .maxN p d a b sc => Sys2Proof.Machine.execMaxN p d a b sc s
  | .shl p d a b sc => Sys2Proof.Machine.execShl p d a b sc s
  | .shr p d a b sc => Sys2Proof.Machine.execShr p d a b sc s
  | .sra p d a b sc => Sys2Proof.Machine.execSra p d a b sc s
  | .rot p d a b sc => Sys2Proof.Machine.execRot p d a b sc s
  | .clz p d a sc => Sys2Proof.Machine.execClz p d a sc s
  | .ctz p d a sc => Sys2Proof.Machine.execCtz p d a sc s
  | .popc p d a sc => Sys2Proof.Machine.execPopc p d a sc s
  | .taz p d a b sc => Sys2Proof.Machine.execTaz p d a b sc s
  | .tax p d a sc => Sys2Proof.Machine.execTax p d a sc s
  | .tadepth p d a sc => Sys2Proof.Machine.execTadepth p d a sc s
  | .tanb p d a b sc => Sys2Proof.Machine.execTanb p d a b sc s
  | .taup p d a b sc => Sys2Proof.Machine.execTaup p d a b sc s
  | .tadown p d a b sc => Sys2Proof.Machine.execTadown p d a b sc s
  | .sel d a b k sc => Sys2Proof.Machine.execSel d a b k sc s
  | .cmpEq p d a b sc => Sys2Proof.Machine.execCmpEq p d a b sc s
  | .cmpNe p d a b sc => Sys2Proof.Machine.execCmpNe p d a b sc s
  | .cmpLt p d a b sc => Sys2Proof.Machine.execCmpLt p d a b sc s
  | .cmpGe p d a b sc => Sys2Proof.Machine.execCmpGe p d a b sc s
  | .cmpLtu p d a b sc => Sys2Proof.Machine.execCmpLtu p d a b sc s
  | .cmpGeu p d a b sc => Sys2Proof.Machine.execCmpGeu p d a b sc s
  | .cmpAny p d a b sc => Sys2Proof.Machine.execCmpAny p d a b sc s
  | .cmpNone p d a b sc => Sys2Proof.Machine.execCmpNone p d a b sc s
  | .addImm12 d a im sc => Sys2Proof.Machine.execAddImm12 d a im sc s
  | .andImm d a im sc => Sys2Proof.Machine.execAndImm d a im sc s
  | .orImm d a im sc => Sys2Proof.Machine.execOrImm d a im sc s
  | .xorImm d a im sc => Sys2Proof.Machine.execXorImm d a im sc s
  | .andnImm d a im sc => Sys2Proof.Machine.execAndnImm d a im sc s
  | .shlImm d a im sc => Sys2Proof.Machine.execShlImm d a im sc s
  | .shrImm d a im sc => Sys2Proof.Machine.execShrImm d a im sc s
  | .sraImm d a im sc => Sys2Proof.Machine.execSraImm d a im sc s
  | .rotImm d a im sc => Sys2Proof.Machine.execRotImm d a im sc s
  | .mulImm d a im sc => Sys2Proof.Machine.execMulImm d a im sc s
  | .minImm d a im sc => Sys2Proof.Machine.execMinImm d a im sc s
  | .maxImm d a im sc => Sys2Proof.Machine.execMaxImm d a im sc s
  | .minNImm d a im sc => Sys2Proof.Machine.execMinNImm d a im sc s
  | .maxNImm d a im sc => Sys2Proof.Machine.execMaxNImm d a im sc s
  | .taupImm d a im sc => Sys2Proof.Machine.execTaupImm d a im sc s
  | .tadownImm d a im sc => Sys2Proof.Machine.execTadownImm d a im sc s
  | .fsh d a b c sc => Sys2Proof.Machine.execFsh d a b c sc s
  | .bfx d a b c sc => Sys2Proof.Machine.execBfx d a b c sc s
  | .bfxs d a b c sc => Sys2Proof.Machine.execBfxs d a b c sc s
  | .bfi d a b c sc => Sys2Proof.Machine.execBfi d a b c sc s
  | .bfxImm d a w o sc => Sys2Proof.Machine.execBfxImm d a w o sc s
  | .lui d im sc => Sys2Proof.Machine.execLui d im sc s
  | .bra o sc => Sys2Proof.Machine.execBra o sc s
  | .call o sc => Sys2Proof.Machine.execCall o sc s
  | .bcEq a b o sc => Sys2Proof.Machine.execBcEq a b o sc s
  | .bcNe a b o sc => Sys2Proof.Machine.execBcNe a b o sc s
  | .bcLt a b o sc => Sys2Proof.Machine.execBcLt a b o sc s
  | .bcGe a b o sc => Sys2Proof.Machine.execBcGe a b o sc s
  | .bcLtu a b o sc => Sys2Proof.Machine.execBcLtu a b o sc s
  | .bcGeu a b o sc => Sys2Proof.Machine.execBcGeu a b o sc s
  | .bcAny a b o sc => Sys2Proof.Machine.execBcAny a b o sc s
  | .bcNone a b o sc => Sys2Proof.Machine.execBcNone a b o sc s
  | .loop a l e sc => Sys2Proof.Machine.execLoop a l e sc s
  | .ret a sc => Sys2Proof.Machine.execRet a sc s
  | .callr d a sc => Sys2Proof.Machine.execCallr d a sc s
  | .jt a b sc => Sys2Proof.Machine.execJt a b sc s
  | .isync sc => Sys2Proof.Machine.execIsync sc s
  | .halt sc => Sys2Proof.Machine.execHalt sc s
  | .rft sc => Sys2Proof.Machine.execRft sc s
  | .align k sc => Sys2Proof.Machine.execAlign k sc s
  | .prio c sc => Sys2Proof.Machine.execPrio c sc s
  | .trap k sc => Sys2Proof.Machine.execTrap k sc s
  | .mfc d n sc => Sys2Proof.Machine.execMfc d n sc s
  | .mtc a n sc => Sys2Proof.Machine.execMtc a n sc s
  | .mxc d a n sc => Sys2Proof.Machine.execMxc d a n sc s
  | .mov d a => Sys2Proof.Machine.execMov d a s
  | .add16 d a => Sys2Proof.Machine.execAdd16 d a s
  | .sub16 d a => Sys2Proof.Machine.execSub16 d a s
  | .and16 d a => Sys2Proof.Machine.execAnd16 d a s
  | .or16 d a => Sys2Proof.Machine.execOr16 d a s
  | .xor16 d a => Sys2Proof.Machine.execXor16 d a s
  | .li d im => Sys2Proof.Machine.execLi d im s
  | .addImm5 d im => Sys2Proof.Machine.execAddImm5 d im s
  | .shl16 d im => Sys2Proof.Machine.execShl16 d im s
  | .shr16 d im => Sys2Proof.Machine.execShr16 d im s
  | .sra16 d im => Sys2Proof.Machine.execSra16 d im s
  | .ret16 a => Sys2Proof.Machine.execRet16 a s
  | .nop => Sys2Proof.Machine.execNop s
  | .halt16 => Sys2Proof.Machine.execHalt16 s
  | .bbinit a b sc => Sys2Proof.Machine.execBbinit a b sc s
  | .bbpeek d a sc => Sys2Proof.Machine.execBbpeek d a sc s
  | .bbtake d a sc => Sys2Proof.Machine.execBbtake d a sc s
  | .bbskip a sc => Sys2Proof.Machine.execBbskip a sc s
  | .bbfill sc => Sys2Proof.Machine.execBbfill sc s
  | .ld d a z o sc => Sys2Proof.Machine.execLd d a z o sc s
  | .ldSx d a z o sc => Sys2Proof.Machine.execLdSx d a z o sc s
  | .st d a z o sc => Sys2Proof.Machine.execSt d a z o sc s
  | .ldAcq d a c z o sc => Sys2Proof.Machine.execLdAcq d a c z o sc s
  | .stRel d a c z o sc => Sys2Proof.Machine.execStRel d a c z o sc s
  | .vld d a o sc => Sys2Proof.Machine.execVld d a o sc s
  | .vst d a o sc => Sys2Proof.Machine.execVst d a o sc s
  | .vldtRaw d a b k sc => Sys2Proof.Machine.execVldtRaw d a b k sc s
  | .ldtMap d a b k sc => Sys2Proof.Machine.execLdtMap d a b k sc s
  | .ldtTa d a sc => Sys2Proof.Machine.execLdtTa d a sc s
  | .sttMap d a b k sc => Sys2Proof.Machine.execSttMap d a b k sc s
  | .sttTa d a sc => Sys2Proof.Machine.execSttTa d a sc s
  | .vldtMap d a b k sc => Sys2Proof.Machine.execVldtMap d a b k sc s
  | .vldtTa d a sc => Sys2Proof.Machine.execVldtTa d a sc s
  | .vsttMap d a b k sc => Sys2Proof.Machine.execVsttMap d a b k sc s
  | .vsttTa d a sc => Sys2Proof.Machine.execVsttTa d a sc s
  | .bcopy d a b sc => Sys2Proof.Machine.execBcopy d a b sc s
  | .bfill d a b sc => Sys2Proof.Machine.execBfill d a b sc s
  | .bzero d a b sc => Sys2Proof.Machine.execBzero d a b sc s
  | .pftLift d a b sc => Sys2Proof.Machine.execPftLift d a b sc s
  | .pftDrop d a b sc => Sys2Proof.Machine.execPftDrop d a b sc s
  | .fship d a b sc => Sys2Proof.Machine.execFship d a b sc s
  | .vgath p d a b sc => Sys2Proof.Machine.execVgath p d a b sc s
  | .vscat p d a b sc => Sys2Proof.Machine.execVscat p d a b sc s
  | .guard a b sc => Sys2Proof.Machine.execGuard a b sc s
  | .unguard a b sc => Sys2Proof.Machine.execUnguard a b sc s
  | .tmld d a sc => Sys2Proof.Machine.execTmld d a sc s
  | .tmst d a sc => Sys2Proof.Machine.execTmst d a sc s
  | .send r a b c n sc => Sys2Proof.Machine.execSend r a b c n sc s
  | .deposit a b sc => Sys2Proof.Machine.execDeposit a b sc s
  | .dset r a b l sc => Sys2Proof.Machine.execDset r a b l sc s
  | .dget d a sc => Sys2Proof.Machine.execDget d a sc s
  | .mbxcfg a sc => Sys2Proof.Machine.execMbxcfg a sc s
  | .amoAdd d a b z sc => Sys2Proof.Machine.execAmoAdd d a b z sc s
  | .amoMin d a b z sc => Sys2Proof.Machine.execAmoMin d a b z sc s
  | .amoMax d a b z sc => Sys2Proof.Machine.execAmoMax d a b z sc s
  | .amoAnd d a b z sc => Sys2Proof.Machine.execAmoAnd d a b z sc s
  | .amoOr d a b z sc => Sys2Proof.Machine.execAmoOr d a b z sc s
  | .amoXor d a b z sc => Sys2Proof.Machine.execAmoXor d a b z sc s
  | .amoSwap d a b z sc => Sys2Proof.Machine.execAmoSwap d a b z sc s
  | .amoCas d a b z sc => Sys2Proof.Machine.execAmoCas d a b z sc s
  | .amoMinN d a b z sc => Sys2Proof.Machine.execAmoMinN d a b z sc s
  | .amoMaxN d a b z sc => Sys2Proof.Machine.execAmoMaxN d a b z sc s
  | .salloc d sc => Sys2Proof.Machine.execSalloc d sc s
  | .sfree a sc => Sys2Proof.Machine.execSfree a sc s
  | .bar d a b sc => Sys2Proof.Machine.execBar d a b sc s
  | .barrive a b sc => Sys2Proof.Machine.execBarrive a b sc s
  | .bcancel a sc => Sys2Proof.Machine.execBcancel a sc s
  | .lock a sc => Sys2Proof.Machine.execLock a sc s
  | .unlock a sc => Sys2Proof.Machine.execUnlock a sc s
  | .waitv a b sc => Sys2Proof.Machine.execWaitv a b sc s
  | .phopen a sc => Sys2Proof.Machine.execPhopen a sc s
  | .phset a sc => Sys2Proof.Machine.execPhset a sc s
  | .phend a sc => Sys2Proof.Machine.execPhend a sc s
  | .phwait a sc => Sys2Proof.Machine.execPhwait a sc s
  | .stv d a b sc => Sys2Proof.Machine.execStv d a b sc s
  | .ldv d a b sc => Sys2Proof.Machine.execLdv d a b sc s
  | .recl a b sc => Sys2Proof.Machine.execRecl a b sc s
  | .fenceLd c sc => Sys2Proof.Machine.execFenceLd c sc s
  | .fenceSt c sc => Sys2Proof.Machine.execFenceSt c sc s
  | .fenceAll c sc => Sys2Proof.Machine.execFenceAll c sc s
  | .vadd p d a b m sc => Sys2Proof.Machine.execVadd p d a b m sc s
  | .vsub p d a b m sc => Sys2Proof.Machine.execVsub p d a b m sc s
  | .vmul p d a b m sc => Sys2Proof.Machine.execVmul p d a b m sc s
  | .vfma p d a b m sc => Sys2Proof.Machine.execVfma p d a b m sc s
  | .vfms p d a b m sc => Sys2Proof.Machine.execVfms p d a b m sc s
  | .vdiv p d a b m sc => Sys2Proof.Machine.execVdiv p d a b m sc s
  | .vsqrt p d a m sc => Sys2Proof.Machine.execVsqrt p d a m sc s
  | .vaddSat p d a b m sc => Sys2Proof.Machine.execVaddSat p d a b m sc s
  | .vsubSat p d a b m sc => Sys2Proof.Machine.execVsubSat p d a b m sc s
  | .vmulSat p d a b m sc => Sys2Proof.Machine.execVmulSat p d a b m sc s
  | .vfmaSat p d a b m sc => Sys2Proof.Machine.execVfmaSat p d a b m sc s
  | .vaddNSat p d a b m sc => Sys2Proof.Machine.execVaddNSat p d a b m sc s
  | .vsubNSat p d a b m sc => Sys2Proof.Machine.execVsubNSat p d a b m sc s
  | .vmin p d a b sc => Sys2Proof.Machine.execVmin p d a b sc s
  | .vmax p d a b sc => Sys2Proof.Machine.execVmax p d a b sc s
  | .vminN p d a b sc => Sys2Proof.Machine.execVminN p d a b sc s
  | .vmaxN p d a b sc => Sys2Proof.Machine.execVmaxN p d a b sc s
  | .vabs p d a sc => Sys2Proof.Machine.execVabs p d a sc s
  | .vneg p d a sc => Sys2Proof.Machine.execVneg p d a sc s
  | .vand p d a b sc => Sys2Proof.Machine.execVand p d a b sc s
  | .vor p d a b sc => Sys2Proof.Machine.execVor p d a b sc s
  | .vxor p d a b sc => Sys2Proof.Machine.execVxor p d a b sc s
  | .vshl p d a b sc => Sys2Proof.Machine.execVshl p d a b sc s
  | .vshr p d a b sc => Sys2Proof.Machine.execVshr p d a b sc s
  | .vsra p d a b sc => Sys2Proof.Machine.execVsra p d a b sc s
  | .vmov p d a sc => Sys2Proof.Machine.execVmov p d a sc s
  | .vtag d a t sc => Sys2Proof.Machine.execVtag d a t sc s
  | .vbcast p d a t sc => Sys2Proof.Machine.execVbcast p d a t sc s
  | .vcmpEq p d a b sc => Sys2Proof.Machine.execVcmpEq p d a b sc s
  | .vcmpNe p d a b sc => Sys2Proof.Machine.execVcmpNe p d a b sc s
  | .vcmpLt p d a b sc => Sys2Proof.Machine.execVcmpLt p d a b sc s
  | .vcmpGe p d a b sc => Sys2Proof.Machine.execVcmpGe p d a b sc s
  | .vcmpLe p d a b sc => Sys2Proof.Machine.execVcmpLe p d a b sc s
  | .vcmpGt p d a b sc => Sys2Proof.Machine.execVcmpGt p d a b sc s
  | .vcmpUn p d a b sc => Sys2Proof.Machine.execVcmpUn p d a b sc s
  | .vcmpOrd p d a b sc => Sys2Proof.Machine.execVcmpOrd p d a b sc s
  | .vcmpLtN p d a b sc => Sys2Proof.Machine.execVcmpLtN p d a b sc s
  | .vcmpGeN p d a b sc => Sys2Proof.Machine.execVcmpGeN p d a b sc s
  | .vcmpLeN p d a b sc => Sys2Proof.Machine.execVcmpLeN p d a b sc s
  | .vcmpGtN p d a b sc => Sys2Proof.Machine.execVcmpGtN p d a b sc s
  | .vcvt p d a m t sc => Sys2Proof.Machine.execVcvt p d a m t sc s
  | .vredSum p d a sc => Sys2Proof.Machine.execVredSum p d a sc s
  | .vredMin p d a sc => Sys2Proof.Machine.execVredMin p d a sc s
  | .vredMax p d a sc => Sys2Proof.Machine.execVredMax p d a sc s
  | .vredAnd p d a sc => Sys2Proof.Machine.execVredAnd p d a sc s
  | .vredOr p d a sc => Sys2Proof.Machine.execVredOr p d a sc s
  | .vredMinN p d a sc => Sys2Proof.Machine.execVredMinN p d a sc s
  | .vredMaxN p d a sc => Sys2Proof.Machine.execVredMaxN p d a sc s
  | .vperm p d a b sc => Sys2Proof.Machine.execVperm p d a b sc s
  | .vslide p d a b sc => Sys2Proof.Machine.execVslide p d a b sc s
  | .vcompress p d a sc => Sys2Proof.Machine.execVcompress p d a sc s
  | .vgl p d a sc => Sys2Proof.Machine.execVgl p d a sc s
  | .vsel d a b k sc => Sys2Proof.Machine.execVsel d a b k sc s
  | .vcx d j k sc => Sys2Proof.Machine.execVcx d j k sc s
  | .vdistDot d a b q sc => Sys2Proof.Machine.execVdistDot d a b q sc s
  | .vdistL2 d a b q sc => Sys2Proof.Machine.execVdistL2 d a b q sc s
  | .vchol8 d a k sc => Sys2Proof.Machine.execVchol8 d a k sc s
  | .vtrs8 d a b sc => Sys2Proof.Machine.execVtrs8 d a b sc s
  | .pand d a b sc => Sys2Proof.Machine.execPand d a b sc s
  | .por d a b sc => Sys2Proof.Machine.execPor d a b sc s
  | .pxor d a b sc => Sys2Proof.Machine.execPxor d a b sc s
  | .pnot d a sc => Sys2Proof.Machine.execPnot d a sc s
  | .pcnt d a sc => Sys2Proof.Machine.execPcnt d a sc s
  | .pfirst d a sc => Sys2Proof.Machine.execPfirst d a sc s
  | .xreq d a b sc => Sys2Proof.Machine.execXreq d a b sc s
  | .xget d sc => Sys2Proof.Machine.execXget d sc s
  | .kinit d a b sc => Sys2Proof.Machine.execKinit d a b sc s
  | .kadd p d a b sc => Sys2Proof.Machine.execKadd p d a b sc s
  | .kdrain d a b sc => Sys2Proof.Machine.execKdrain d a b sc s
  | .mlease sc => Sys2Proof.Machine.execMlease sc s
  | .mfree sc => Sys2Proof.Machine.execMfree sc s
  | .mstat d sc => Sys2Proof.Machine.execMstat d sc s
  | .mcheck d a sc => Sys2Proof.Machine.execMcheck d a sc s
  | .mload d a sc => Sys2Proof.Machine.execMload d a sc s
  | .mscale d a sc => Sys2Proof.Machine.execMscale d a sc s
  | .mswap sc => Sys2Proof.Machine.execMswap sc s
  | .mmul p d a sc => Sys2Proof.Machine.execMmul p d a sc s
  | .mdrain p d a sc => Sys2Proof.Machine.execMdrain p d a sc s
  | .nalloc d sc => Sys2Proof.Machine.execNalloc d sc s
  | .nfree a b sc => Sys2Proof.Machine.execNfree a b sc s
  | .nld d a w sc => Sys2Proof.Machine.execNld d a w sc s
  | .nst d a w sc => Sys2Proof.Machine.execNst d a w sc s
  | .link a b sc => Sys2Proof.Machine.execLink a b sc s
  | .nrun sc => Sys2Proof.Machine.execNrun sc s
  | .npush a b sc => Sys2Proof.Machine.execNpush a b sc s
  | .nmove d a sc => Sys2Proof.Machine.execNmove d a sc s
  | .nbal d sc => Sys2Proof.Machine.execNbal d sc s
  | .snap d a sc => Sys2Proof.Machine.execSnap d a sc s
  | .eret a sc => Sys2Proof.Machine.execEret a sc s
  | .cfgrd d a sc => Sys2Proof.Machine.execCfgrd d a sc s
  | .cfgwr d a b sc => Sys2Proof.Machine.execCfgwr d a b sc s
  | .sleep d a sc => Sys2Proof.Machine.execSleep d a sc s
  | .wake a sc => Sys2Proof.Machine.execWake a sc s
  | .sopen a b sc => Sys2Proof.Machine.execSopen a b sc s
  | .sclose b sc => Sys2Proof.Machine.execSclose b sc s
  | .alignTimeout core level => Sys2Proof.Machine.execAlignTimeout core level s
  | .waitvWake core level => Sys2Proof.Machine.execWaitvWake core level s
  | .xuCompute cluster => Sys2Proof.Machine.execXuCompute cluster s
  | .kuTakePair cluster inst => Sys2Proof.Machine.execKuTakePair cluster inst s
  | .kdrainWrite core level => Sys2Proof.Machine.execKdrainWrite core level s
  | .sleepDeadline core level => Sys2Proof.Machine.execSleepDeadline core level s
  | .closeMarkerArrival core dir => Sys2Proof.Machine.execCloseMarkerArrival core dir s
  | .rawWordArrival core dir => Sys2Proof.Machine.execRawWordArrival core dir s
  | .instructionFetch cluster base => Sys2Proof.Machine.execInstructionFetch cluster base s
  | .resultLands core level idx => Sys2Proof.Machine.execResultLands core level idx s
  | .messageArrival idx => Sys2Proof.Machine.execMessageArrival idx s
  | .acceptance idx => Sys2Proof.Machine.execAcceptance idx s
  | .refusal idx => Sys2Proof.Machine.execRefusal idx s
  | .depositDataWrite core idx => Sys2Proof.Machine.execDepositDataWrite core idx s
  | .dispatch core => Sys2Proof.Machine.execDispatch core s
  | .retirement idx => Sys2Proof.Machine.execRetirement idx s
  | .phaseClose gang phase => Sys2Proof.Machine.execPhaseClose gang phase s
  | .phaseCloseDelivery idx => Sys2Proof.Machine.execPhaseCloseDelivery idx s
  | .faultNotice idx => Sys2Proof.Machine.execFaultNotice idx s
  | .amoRequest core => Sys2Proof.Machine.execAmoRequest core s
  | .amoResult idx => Sys2Proof.Machine.execAmoResult idx s
  | .nodeStep core level => Sys2Proof.Machine.execNodeStep core level s
  | .churnPush core level => Sys2Proof.Machine.execChurnPush core level s
  | .autoBalance core => Sys2Proof.Machine.execAutoBalance core s
  | .trapEntry core level => Sys2Proof.Machine.execTrapEntry core level s
  | .stewardRecord r => Sys2Proof.Machine.execStewardRecord r s
  | .coreResume core => Sys2Proof.Machine.execCoreResume core s
  | .coreRestart core => Sys2Proof.Machine.execCoreRestart core s
  | .spareColumnRemap col => Sys2Proof.Machine.execSpareColumnRemap col s
  | .markBankFailed core bank => Sys2Proof.Machine.execMarkBankFailed core bank s
  | .gangAllocation => Sys2Proof.Machine.execGangAllocation s
  | .bandPromotion asid queue idx => Sys2Proof.Machine.execBandPromotion asid queue idx s
  | .gangStart gang cluster => Sys2Proof.Machine.execGangStart gang cluster s
  | .segmentArrival cluster => Sys2Proof.Machine.execSegmentArrival cluster s
  | .launchContextStart gang => Sys2Proof.Machine.execLaunchContextStart gang s
  | .gangCompletion gang => Sys2Proof.Machine.execGangCompletion gang s
  | .preemptionRequest gang => Sys2Proof.Machine.execPreemptionRequest gang s
  | .preemptDistribution core => Sys2Proof.Machine.execPreemptDistribution core s
  | .rtcLateHalt core => Sys2Proof.Machine.execRtcLateHalt core s
  | .imageWrite gang => Sys2Proof.Machine.execImageWrite gang s
  | .gangRestore gang cx cy => Sys2Proof.Machine.execGangRestore gang cx cy s
  | .timeSliceSwitch instant gangs => Sys2Proof.Machine.execTimeSliceSwitch instant gangs s
  | .ptpMessage port m => Sys2Proof.Machine.execPtpMessage port m s
  | .engineUnit u => Sys2Proof.Machine.execEngineUnit u s
  | .pftNoticeInjection idx => Sys2Proof.Machine.execPftNoticeInjection idx s
  | .translationWalk slice => Sys2Proof.Machine.execTranslationWalk slice s
  | .leaseGrant quad => Sys2Proof.Machine.execLeaseGrant quad s
  | .leaseLimit quad => Sys2Proof.Machine.execLeaseLimit quad s
  | .leaseHandover quad => Sys2Proof.Machine.execLeaseHandover quad s
  | .suspensionTimeout quad => Sys2Proof.Machine.execSuspensionTimeout quad s
  | .leaseRelease quad => Sys2Proof.Machine.execLeaseRelease quad s
  | .matrixStep quad lane first second => Sys2Proof.Machine.execMatrixStep quad lane first second s
  | .mswapEffect quad => Sys2Proof.Machine.execMswapEffect quad s
  | .kvWriteRequest slice idx => Sys2Proof.Machine.execKvWriteRequest slice idx s
  | .relayoutSlotGrant slice => Sys2Proof.Machine.execRelayoutSlotGrant slice s
  | .relayoutDequantise slice idx => Sys2Proof.Machine.execRelayoutDequantise slice idx s
  | .relayoutApply slice idx => Sys2Proof.Machine.execRelayoutApply slice idx s
  | .relayoutFlip slice idx => Sys2Proof.Machine.execRelayoutFlip slice idx s
  | .kvReadRequest slice idx => Sys2Proof.Machine.execKvReadRequest slice idx s
  | .kvTick slice => Sys2Proof.Machine.execKvTick slice s
  | .skimmerBegin slice => Sys2Proof.Machine.execSkimmerBegin slice s
  | .skimmerQuantise slice => Sys2Proof.Machine.execSkimmerQuantise slice s
  | .skimmerFlip slice => Sys2Proof.Machine.execSkimmerFlip slice s
  | .fshipPerform bdp idx => Sys2Proof.Machine.execFshipPerform bdp idx s
  | .bankRefresh slice channel bank => Sys2Proof.Machine.execBankRefresh slice channel bank s
  | .layerOverheat stack layer temp => Sys2Proof.Machine.execLayerOverheat stack layer temp s
  | .refreshDue slice channel => Sys2Proof.Machine.execRefreshDue slice channel s
  | .allBankRefresh slice channel => Sys2Proof.Machine.execAllBankRefresh slice channel s
  | .remapTableError slice channel => Sys2Proof.Machine.execRemapTableError slice channel s
  | .remapReload slice channel goldenBad => Sys2Proof.Machine.execRemapReload slice channel goldenBad s
  | .frameStart => Sys2Proof.Machine.execFrameStart s
  | .flitForward router dir => Sys2Proof.Machine.execFlitForward router dir s
  | .linkFlitReceive port flit crc badLanes => Sys2Proof.Machine.execLinkFlitReceive port flit crc badLanes s
  | .replayRequest port seq => Sys2Proof.Machine.execReplayRequest port seq s
  | .laneRepair port lane replayFails => Sys2Proof.Machine.execLaneRepair port lane replayFails s
  | .snapshotTrigger source word => Sys2Proof.Machine.execSnapshotTrigger source word s
  | .snapshotLatch => Sys2Proof.Machine.execSnapshotLatch s
  | .snapshotRelease => Sys2Proof.Machine.execSnapshotRelease s
  | .snapin => Sys2Proof.Machine.execSnapin s
  | .perst => Sys2Proof.Machine.execPerst s
  | .pwrgood => Sys2Proof.Machine.execPwrgood s
  | .blockCalibration block found => Sys2Proof.Machine.execBlockCalibration block found s
  | .firmwareVerify image version => Sys2Proof.Machine.execFirmwareVerify image version s
  | .valeLoad image version => Sys2Proof.Machine.execValeLoad image version s
  | .doorbell ring => Sys2Proof.Machine.execDoorbell ring s
  | .completionEntry c => Sys2Proof.Machine.execCompletionEntry c s
  | .attestationQuote nonce => Sys2Proof.Machine.execAttestationQuote nonce s
  | .islandDvfs island point watts temp => Sys2Proof.Machine.execIslandDvfs island point watts temp s
  | .thermtrip temp => Sys2Proof.Machine.execThermtrip temp s
  | .systemCallReturn core level => Sys2Proof.Machine.execSystemCallReturn core level s
  | .time c => Sys2Proof.Machine.execTime c s
  | .post c => Sys2Proof.Machine.execPost c s
  | .waitjob c => Sys2Proof.Machine.execWaitjob c s
  | .xutable c => Sys2Proof.Machine.execXutable c s
  | .routine c => Sys2Proof.Machine.execRoutine c s
  | .map c => Sys2Proof.Machine.execMap c s
  | .mapSub c => Sys2Proof.Machine.execMapSub c s
  | .unmapSub c => Sys2Proof.Machine.execUnmapSub c s
  | .realloc c => Sys2Proof.Machine.execRealloc c s
  | .kvalloc c => Sys2Proof.Machine.execKvalloc c s
  | .kvfree c => Sys2Proof.Machine.execKvfree c s
  | .kvslots c => Sys2Proof.Machine.execKvslots c s
  | .pooladd c => Sys2Proof.Machine.execPooladd c s
  | .unassignedCall c => Sys2Proof.Machine.execUnassignedCall c s
  | .registerWrite r v => Sys2Proof.Machine.execRegisterWrite r v s
  | .hostBarAccess write bar off v => Sys2Proof.Machine.execHostBarAccess write bar off v s

end Sys2Proof.Machine
end

