-- ==== Sys2Proof/Machine/Scoreboard.lean ====
section
/-! DEFINITION. The scoreboard (R63, R66): the registers and links that an instruction reads and writes, and whether a pending write or a
link holds it back before it issues. -/
namespace Sys2Proof.Machine

/-- The operands of an instruction: the predicate of kind P of a scalar one (R55), sources and destinations; a link code stands for its
link. -/
structure Uses where
  pred : Option Nat := none
  reads : List Dest := []
  writes : List Dest := []
deriving DecidableEq, Repr

/-- A scalar operand. -/
def sOp (r : BitVec 5) : Dest := .scalar r.toNat
/-- A vector operand. -/
def vOp (r : BitVec 5) : Dest := .vector r.toNat
/-- A predicate operand. -/
def pOp {n : Nat} (r : BitVec n) : Dest := .pred r.toNat
/-- The scalar registers from r on, n of them. -/
def sOps (r : BitVec 5) (n : Nat) : List Dest := (count 0 n).map fun i => .scalar (r.toNat + i)

/-- The scale register that a vector source brings along (R275, R281): v(a+1) of an MX4 or DS8 one. -/
def Ctx.scaleOps (x : Ctx) (a : BitVec 5) : List Dest :=
  if a.toNat < 27 ∧ ((x.vreg a.toNat).tag = .mx4 ∨ (x.vreg a.toNat).tag = .ds8) then [.vector (a.toNat + 1)] else []

/-- The operands of an instruction in a context. Operands that only its work finds (the further ports of nfree, the second register of a
vldt through a headed map) are not among them: the instruction waits for those as it reaches them. -/
def Ctx.uses (x : Ctx) (i : Instr) : Uses :=
  match i with
  | .add p d a b _ | .sub p d a b _ | .mul p d a b _ | .mulh p d a b _ | .mulhN p d a b _ | .div p d a b _ | .divN p d a b _
  | .rem p d a b _ | .remN p d a b _ | .and p d a b _ | .or p d a b _ | .xor p d a b _ | .andn p d a b _ | .min p d a b _
  | .max p d a b _ | .minN p d a b _ | .maxN p d a b _ | .shl p d a b _ | .shr p d a b _ | .sra p d a b _ | .rot p d a b _
  | .taz p d a b _ | .tanb p d a b _ | .taup p d a b _ | .tadown p d a b _ | .cmpEq p d a b _ | .cmpNe p d a b _ | .cmpLt p d a b _
  | .cmpGe p d a b _ | .cmpLtu p d a b _ | .cmpGeu p d a b _ | .cmpAny p d a b _ | .cmpNone p d a b _ =>
    { pred := some p.toNat, reads := [sOp a, sOp b], writes := [sOp d] }
  | .clz p d a _ | .ctz p d a _ | .popc p d a _ | .tax p d a _ | .tadepth p d a _ | .vgl p d a _ =>
    { pred := some p.toNat, reads := [sOp a], writes := [sOp d] }
  | .sel d a b k _ => { reads := [sOp a, sOp b, pOp k], writes := [sOp d] }
  | .addImm12 d a _ _ | .andImm d a _ _ | .orImm d a _ _ | .xorImm d a _ _ | .andnImm d a _ _ | .shlImm d a _ _ | .shrImm d a _ _
  | .sraImm d a _ _ | .rotImm d a _ _ | .mulImm d a _ _ | .minImm d a _ _ | .maxImm d a _ _ | .minNImm d a _ _ | .maxNImm d a _ _
  | .taupImm d a _ _ | .tadownImm d a _ _ | .bfxImm d a _ _ _ | .callr d a _ | .mxc d a _ _ | .bbpeek d a _ | .bbtake d a _
  | .ld d a _ _ _ | .ldSx d a _ _ _ | .ldAcq d a _ _ _ _ | .ldtTa d a _ | .dget d a _ | .mcheck d a _ | .nld d a _ _ | .nmove d a _
  | .snap d a _ | .cfgrd d a _ | .sleep d a _ | .mov d a => { reads := [sOp a], writes := [sOp d] }
  | .fsh d a b c _ | .bfx d a b c _ | .bfxs d a b c _ => { reads := [sOp a, sOp b, sOp c], writes := [sOp d] }
  | .bfi d a b c _ => { reads := [sOp a, sOp b, sOp c, sOp d], writes := [sOp d] }
  | .add16 d a | .sub16 d a | .and16 d a | .or16 d a | .xor16 d a => { reads := [sOp d, sOp a], writes := [sOp d] }
  | .addImm5 d _ | .shl16 d _ | .shr16 d _ | .sra16 d _ => { reads := [sOp d], writes := [sOp d] }
  | .lui d _ _ | .mfc d _ _ | .li d _ | .salloc d _ | .mstat d _ | .nalloc d _ | .nbal d _ | .mload d _ _ | .mscale d _ _ | .mmul _ d _ _
  | .mdrain _ d _ _ => { writes := [sOp d] }
  | .call _ _ => { writes := [.scalar 1] }
  | .nrun _ => { writes := [.scalar 20, .scalar 21, .scalar 22, .scalar 23] }
  | .bcEq a b _ _ | .bcNe a b _ _ | .bcLt a b _ _ | .bcGe a b _ _ | .bcLtu a b _ _ | .bcGeu a b _ _ | .bcAny a b _ _ | .bcNone a b _ _
  | .jt a b _ | .bbinit a b _ | .guard a b _ | .unguard a b _ | .deposit a b _ | .dset _ a b _ _ | .waitv a b _ | .recl a b _ | .link a b _
  | .npush a b _ | .barrive a b _ => { reads := [sOp a, sOp b] }
  | .loop a _ _ _ | .ret a _ | .ret16 a | .mtc a _ _ | .bbskip a _ | .mbxcfg a _ | .sfree a _ | .bcancel a _ | .lock a _ | .unlock a _
  | .phopen a _ | .phset a _ | .phend a _ | .phwait a _ | .eret a _ | .wake a _ | .sopen a _ _ | .tmld _ a _ | .tmst _ a _ | .nfree a _ _ =>
    { reads := [sOp a] }
  | .bra _ _ | .isync _ | .halt _ | .rft _ | .align _ _ | .prio _ _ | .trap _ _ | .nop | .halt16 | .bbfill _ | .fenceLd _ _ | .fenceSt _ _
  | .fenceAll _ _ | .mlease _ | .mfree _ | .mswap _ | .sclose _ _ => {}
  | .st d a _ _ _ | .stRel d a _ _ _ _ | .nst d a _ _ | .sttTa d a _ => { reads := [sOp a, sOp d] }
  | .sttMap d a b _ _ | .stv d a b _ => { reads := [sOp a, sOp b, sOp d] }
  | .vld d a _ _ | .vldtTa d a _ => { reads := [sOp a], writes := [vOp d] }
  | .vst d a _ _ | .vsttTa d a _ => { reads := [sOp a, vOp d] }
  | .vldtRaw d a b _ _ => { reads := [sOp a, sOp b], writes := [vOp d, vOp (d + 1)] }
  | .vldtMap d a b _ _ => { reads := [sOp a, sOp b], writes := [vOp d] }
  | .ldtMap d a b _ _ | .ldv d a b _ | .cfgwr d a b _ | .kinit d a b _ | .kdrain d a b _ => { reads := [sOp a, sOp b], writes := [sOp d] }
  | .bar d a b _ =>
    { reads := if a.toNat = 0 then [] else [sOp a, sOp b], writes := [sOp d] }
  | .vsttMap d a b _ _ => { reads := [sOp a, sOp b, vOp d] }
  | .bzero d a b _ => { reads := [sOp a, sOp b], writes := [sOp d] }
  | .bcopy d a b _ | .bfill d a b _ | .pftLift d a b _ | .pftDrop d a b _ => { reads := sOps a 2 ++ [sOp b], writes := [sOp d] }
  | .fship d a b _ => { reads := sOps a 2 ++ (if b.toNat = 0 then [] else sOps b 2), writes := [sOp d] }
  | .vgath p d a _ _ => { reads := [pOp p, vOp a], writes := [vOp d] }
  | .vscat p d a _ _ => { reads := [pOp p, vOp a, vOp d] }
  | .send _ a b _ n _ => { reads := sOp a :: sOps b n.toNat }
  | .amoAdd d a b _ _ | .amoMin d a b _ _ | .amoMax d a b _ _ | .amoAnd d a b _ _ | .amoOr d a b _ _ | .amoXor d a b _ _
  | .amoSwap d a b _ _ | .amoMinN d a b _ _ | .amoMaxN d a b _ _ => { reads := [sOp a, sOp b], writes := [sOp d] }
  | .amoCas d a b _ _ => { reads := [sOp a, sOp b, sOp d], writes := [sOp d] }
  | .vadd p d a b _ _ | .vsub p d a b _ _ | .vmul p d a b _ _ | .vdiv p d a b _ _ | .vaddSat p d a b _ _ | .vsubSat p d a b _ _
  | .vmulSat p d a b _ _ | .vaddNSat p d a b _ _ | .vsubNSat p d a b _ _ | .vmin p d a b _ | .vmax p d a b _ | .vminN p d a b _
  | .vmaxN p d a b _ | .vand p d a b _ | .vor p d a b _ | .vxor p d a b _ | .vshl p d a b _ | .vshr p d a b _ | .vsra p d a b _
  | .vperm p d a b _ => { reads := [pOp p, vOp a, vOp b], writes := [vOp d] }
  | .vfma p d a b _ _ | .vfms p d a b _ _ | .vfmaSat p d a b _ _ => { reads := [pOp p, vOp a, vOp b, vOp d], writes := [vOp d] }
  | .vsqrt p d a _ _ | .vabs p d a _ | .vneg p d a _ | .vmov p d a _ | .vcompress p d a _ => { reads := [pOp p, vOp a], writes := [vOp d] }
  | .vtag d a _ _ => { reads := [vOp a], writes := [vOp d] }
  | .vbcast p d a _ _ => { reads := [pOp p, sOp a], writes := [vOp d] }
  | .vslide p d a b _ => { reads := [pOp p, vOp a, sOp b], writes := [vOp d] }
  | .vcmpEq p d a b _ | .vcmpNe p d a b _ | .vcmpLt p d a b _ | .vcmpGe p d a b _ | .vcmpLe p d a b _ | .vcmpGt p d a b _
  | .vcmpUn p d a b _ | .vcmpOrd p d a b _ | .vcmpLtN p d a b _ | .vcmpGeN p d a b _ | .vcmpLeN p d a b _ | .vcmpGtN p d a b _ =>
    { reads := [pOp p, vOp a, vOp b], writes := [pOp d] }
  | .vcvt p d a _ t _ =>
    { reads := pOp p :: vOp a :: x.scaleOps a, writes := vOp d :: (if t.toNat = 10 ∨ t.toNat = 11 then [vOp (d + 1)] else []) }
  | .vredSum p d a _ | .vredMin p d a _ | .vredMax p d a _ | .vredAnd p d a _ | .vredOr p d a _ | .vredMinN p d a _ | .vredMaxN p d a _ =>
    { reads := [pOp p, vOp a], writes := [sOp d] }
  | .vsel d a b k _ => { reads := [pOp k, vOp a, vOp b], writes := [vOp d] }
  | .vcx d _ _ _ => { reads := [vOp d, vOp (d + 1)], writes := [vOp d, vOp (d + 1)] }
  | .vdistDot d a b _ _ | .vdistL2 d a b _ _ => { reads := [vOp a, vOp b, vOp d] ++ x.scaleOps a, writes := [vOp d] }
  | .vchol8 d a k _ => { reads := [vOp a], writes := [vOp d, pOp k] }
  | .vtrs8 d a b _ => { reads := [vOp a, vOp b], writes := [vOp d] }
  | .pand d a b _ | .por d a b _ | .pxor d a b _ => { reads := [pOp a, pOp b], writes := [pOp d] }
  | .pnot d a _ => { reads := [pOp a], writes := [pOp d] }
  | .pcnt d a _ | .pfirst d a _ => { reads := [pOp a], writes := [sOp d] }
  | .xreq d a b _ => { reads := [vOp a, sOp b], writes := [sOp d] }
  | .xget d _ => { writes := [vOp d] }
  | .kadd p d a b _ => { reads := [pOp p, vOp a, vOp b], writes := [sOp d] }
  | _ => {}

/-- The link of a scalar or vector operand and the flits it takes. -/
def Dest.flits : Dest → Option (Nat × Nat)
  | .scalar r => if 28 ≤ r then some (r - 28, 1) else none
  | .vector r => if 28 ≤ r then some (r - 28, 4) else none
  | .pred _ => none

/-- The flits that a list of operands takes of one link. -/
def flitsOf (dir : Nat) : List Dest → Nat
  | [] => 0
  | d :: r =>
    (match d.flits with
      | some (e, n) => if e = dir then n else 0
      | none => 0) + flitsOf dir r

/-- Whether an operand has a pending write, of variable latency only or of either kind. -/
def Ctx.pends (x : Ctx) (onlyLate : Bool) (d : Dest) : Bool :=
  match x.pendingTo d with
  | none => false
  | some q => !onlyLate || q.ready.isNone

/-- Whether the pops of a list of operands wait for flits of a link (R66). -/
def State.popsWait (s : State) (c : Nat) (l : List Dest) (dir : Nat) : Bool :=
  decide ((Map.getD (s.core c).inq dir []).length < flitsOf dir l) && s.popWaits c dir

/-- Whether the pushes of a list of operands wait for room in a link's queue (R66). -/
def State.pushesWait (s : State) (c : Nat) (l : List Dest) (dir : Nat) : Bool :=
  decide (0 < flitsOf dir l) && decide (16 < (Map.getD (s.core c).outq dir []).length + flitsOf dir l) && (s.linkTarget c dir).isSome

/-- Whether the current context is not eligible for an instruction (R18, R63, R66): a source whose result of variable latency is still to
come, a destination with a write pending, a link with too few flits or too little space. A scalar instruction whose predicate is off
reads and writes nothing (R56). (DESIGN CHOICE, log 101.) -/
def State.heldBack (s : State) (i : Instr) : Bool :=
  let x := s.me
  let u := x.uses i
  let on := match u.pred with
    | none => true
    | some p => predBit (x.preg p) 0 || x.pends false (.pred p)
  on && (u.reads.any (x.pends true) || u.writes.any (x.pends false)
    || (count 0 4).any (s.popsWait s.cur.1 u.reads) || (count 0 4).any (s.pushesWait s.cur.1 u.writes))

end Sys2Proof.Machine
end

