-- ==== Sys2Proof/Machine/Cycle.lean ====
section
/-! DEFINITION. A whole cycle of a core, one event, and the placing of an instruction for the next fetch. -/
namespace Sys2Proof.Machine

/-- A context's instruction issues unless the scoreboard or a link holds it back (R18, R63, R66). -/
def execute (i : Instr) (s : State) : Outcome := if s.heldBack i then .next s.notEligible else exec i s

/-- Execute the candidate of a core's cycle; one that turns out not to be eligible (R18) lets the next one issue. (DEDUCED, log 12.) -/
noncomputable def issueLoop : Nat → Nat → Issue → Outcome
  | _, _, .idle s => .next s
  | 0, _, .run _ s => .next s
  | n + 1, c, .run i s =>
    match execute i s with
    | .next t => if t.me.tried then issueLoop n c (t.pick c) else .next t
    | .fault f => .fault f
    | .refused r => .refused r

/-- One turn of an agent: a core's cycle (four contexts at most are tried), or an event; or an upset of stored bits (R174, R334).
(DESIGN CHOICE, log 4.) (DESIGN CHOICE, log 10.) (DEDUCED, log 12.) (DESIGN CHOICE, log 76.) -/
noncomputable def turn (t : Turn) (s : State) : Outcome :=
  match t with
  | .core c => issueLoop 4 c (s.coreTurn c)
  | .event e => if e.encoded then .next s else exec e s
  | .symbolUpset core row bank lane flagged => .next (s.upsetSymbol { core := core, row := row, bank := bank, lane := lane, flagged := flagged })
  | .granuleUpset n => .next (s.upsetGranule n)

/-- The turn that comes next: the head of the agenda, or the free schedule's. (DESIGN CHOICE, log 2.) (DESIGN CHOICE, log 4.) -/
def State.nextTurn (s : State) : Turn :=
  match s.agenda with
  | t :: _ => t
  | [] => Config.nextTurn s.ticks

/-- The state once a turn has been taken from the agenda, and every phase close that is due has been taken (R138: at the first instant at
which it may). (DESIGN CHOICE, log 2.) -/
def State.afterTake (s : State) : State := { s with agenda := s.agenda.drop 1, ticks := s.ticks + 1 }.closePhases

/-- Bytes placed where a core fetches next. -/
def State.placeBytes (s : State) (c pc : Nat) (b : List Byte) : State :=
  { s with cmem := Mem.writeBytes s.cmem (cellKey (clusterOf c) pc) b }

/-- A gang of one cluster, running, that holds the cluster of core 0: what a launch leaves (R47). (DESIGN CHOICE, log 5.) -/
def launchedGang : Gang := { st := .running }

/-- The state with core 0 about to issue from its level-0 context: a gang is placed as a launch leaves it when core 0 has none.
(DESIGN CHOICE, log 5.) -/
def State.launched (s : State) : State :=
  let s1 := if (s.core 0).gang.isSome then s
    else
      { s with
        gangs := Map.set s.gangs 0 launchedGang
        cores := (count 0 8).foldl (fun m i => Map.set m (coreIn 0 i) { Core.idle with gang := some 0 }) s.cores }
  let k := s1.core 0
  let x := k.bank 0
  let y := { x with st := .ready, wait := .none, op := .none, alignUntil := none, nextIssue := 0, pendTraps := [], pend := [] }
  { s1.setCore 0 { k.setBank 0 y with ibuf := none, stop := none, halting := none } with agenda := [.core 0] }

/-- The state with an instruction placed at the PC of core 0's level-0 context, whose turn comes next. (DESIGN CHOICE, log 5.) -/
def State.placed (s : State) (b : List Byte) : State :=
  let s1 := s.launched
  s1.placeBytes 0 (s1.ctx 0 0).pc.toNat b

end Sys2Proof.Machine
end

