-- ==== Sys2Proof/Machine/Step.lean ====
section
/-! DEFINITION. One step of the module: one agent moves. -/
namespace Sys2Proof.Machine

/-- One step: the next agent of the agenda moves, or the one the free schedule names; a module that asserted THERMTRIP has stopped
(R401). (DESIGN CHOICE, log 4.) (DESIGN CHOICE, log 77.) (DEDUCED, log 79.) -/
noncomputable def step (s : State) : Host.Outcome State Fault Refusal :=
  if s.mod.therm then .fault .moduleStopped else turn s.nextTurn s.afterTake

/-- The state with an instruction of the opcode table placed where the next step fetches: the low bits of w, halfword by halfword,
little-endian, at the PC of core 0's level-0 context. (DESIGN CHOICE, log 5.) -/
def State.withFetchWord (s : State) (nbits w : Nat) : State := s.placed (Decode.leBytes (max 4 (nbits / 8)) (w % 2 ^ nbits))

end Sys2Proof.Machine
end

