-- ==== Sys2Proof/Safety.lean ====
section
/-! DEFINITION. What counts as a safe run. -/
namespace Sys2Proof.Machine

/-- The memories are in canonical form. (DESIGN CHOICE, log 6.) -/
def State.memWf (s : State) : Bool := Mem.wf s.cmem && Mem.wf s.phys

/-- A run of n steps ends in a state that meets P, with no fault and no refusal on the way. -/
def RunsTo (P : State → Prop) : Nat → State → Prop
  | 0, s => P s
  | n + 1, s => ∃ t, step s = .next t ∧ RunsTo P n t

/-- A state from which no step refuses. -/
def Accepts (s : State) : Prop := ∀ r, step s ≠ .refused r

/-! ### How statements say that an instruction completes -/

/-- An instruction of n bytes with stall count k completes at s: its effects lead from s to t, and then its context goes on behind it. -/
def Completes (n : BitVec 22) (i : Instr) (k : Nat) (s t : State) : Prop :=
  exec i s = .next (t.goOn s.cur.1 s.cur.2 (s.me.pc + n) k)

/-- The predicate p is readable and its bit 0 is 1: a scalar instruction of kind P executes (R55). -/
def Enabled (p : BitVec 3) (s t : State) : Prop := ∃ v, readP p.toNat s = .ok v t ∧ predBit v 0 = true

/-- `op d, a, b` of kind P writes f of its sources, read in the order a, b, with a latency. -/
def CompletesRR (mk : BitVec 3 → BitVec 5 → BitVec 5 → BitVec 5 → BitVec 3 → Instr) (f : Word → Word → Word) (lat : Nat) : Prop :=
  ∀ p d a b sc s s1 s2 s3 t x y, Enabled p s s1 → readS a s1 = .ok x s2 → readS b s2 = .ok y s3 →
    writeSL d (f x y) lat s3 = .ok ⟨⟩ t → Completes 4 (mk p d a b sc) sc.toNat s t

/-- `op d, a` of kind P writes f of its source with latency 1. -/
def CompletesR (mk : BitVec 3 → BitVec 5 → BitVec 5 → BitVec 3 → Instr) (f : Word → Word) : Prop :=
  ∀ p d a sc s s1 s2 t x, Enabled p s s1 → readS a s1 = .ok x s2 → writeSL d (f x) 1 s2 = .ok ⟨⟩ t →
    Completes 4 (mk p d a sc) sc.toNat s t

/-- `op d, a, imm` writes f of its source and its immediate, extended by e, with a latency. -/
def CompletesRI {n : Nat} (mk : BitVec 5 → BitVec 5 → BitVec n → BitVec 3 → Instr) (e : BitVec n → Word) (f : Word → Word → Word)
    (lat : Nat) : Prop :=
  ∀ d a i sc s s1 t x, readS a s = .ok x s1 → writeSL d (f x (e i)) lat s1 = .ok ⟨⟩ t → Completes 4 (mk d a i sc) sc.toNat s t

/-- `op d, a, b, c` writes f of its sources, read in the order a, b, c, with latency 1. -/
def CompletesRX (mk : BitVec 5 → BitVec 5 → BitVec 5 → BitVec 5 → BitVec 3 → Instr) (f : Word → Word → Word → Word) : Prop :=
  ∀ d a b c sc s s1 s2 s3 t x y z, readS a s = .ok x s1 → readS b s1 = .ok y s2 → readS c s2 = .ok z s3 →
    writeSL d (f x y z) 1 s3 = .ok ⟨⟩ t → Completes 4 (mk d a b c sc) sc.toNat s t

/-- A 16-bit `d := d op a`. -/
def Completes16 (mk : BitVec 5 → BitVec 5 → Instr) (f : Word → Word → Word) : Prop :=
  ∀ d a s s1 s2 t x y, readS d s = .ok x s1 → readS a s1 = .ok y s2 → writeSL d (f x y) 1 s2 = .ok ⟨⟩ t → Completes 2 (mk d a) 0 s t

/-- A 16-bit `d := d op imm5`, the immediate extended by e. -/
def Completes16I (mk : BitVec 5 → BitVec 5 → Instr) (e : BitVec 5 → Word) (f : Word → Word → Word) : Prop :=
  ∀ d i s s1 t x, readS d s = .ok x s1 → writeSL d (f x (e i)) 1 s1 = .ok ⟨⟩ t → Completes 2 (mk d i) 0 s t

/-- `op d, a, b` of kind P whose predicate bit is 0 only goes on (R56). -/
def SkipsRR (mk : BitVec 3 → BitVec 5 → BitVec 5 → BitVec 5 → BitVec 3 → Instr) : Prop :=
  ∀ p d a b sc s t v, readP p.toNat s = .ok v t → predBit v 0 = false → Completes 4 (mk p d a b sc) sc.toNat s t

/-- The same for `op d, a`. -/
def SkipsR (mk : BitVec 3 → BitVec 5 → BitVec 5 → BitVec 3 → Instr) : Prop :=
  ∀ p d a sc s t v, readP p.toNat s = .ok v t → predBit v 0 = false → Completes 4 (mk p d a sc) sc.toNat s t

/-- A taken transfer: the effects lead from s to t, and then the context goes on at the target. -/
def Transfers (i : Instr) (k : Nat) (s t : State) (target : BitVec 22) : Prop :=
  exec i s = .next (t.jumpTo s.cur.1 s.cur.2 target k)

/-- The routine ends: the effects lead from s to t, and then the end of the routine follows; the stall count runs on. -/
def Finishes (i : Instr) (k : Nat) (s t : State) : Prop :=
  exec i s = .next ((t.endRoutine t.cur.1 t.cur.2).modCtx t.cur.1 t.cur.2 fun x => { x with nextIssue := t.here.cycle + k + 1 })

/-- The instruction raises a precise trap of the context, with no effect of its own. -/
def Traps (i : Instr) (s : State) (t : TrapInfo) : Prop := exec i s = .next (s.afterTrap t)

/-- The context waits: its instruction has been tried in this cycle, and the context is READY again; nothing else changes (R18). -/
def Waits (i : Instr) (s : State) : Prop := exec i s = .next s.notEligible

/-- A legal target (R51). -/
def LegalTarget (t : Int) : Prop := 0 ≤ t ∧ t ≤ 0x3FFFFE ∧ t % 2 = 0

/-- `bc` with a condition: taken to PC + offset × 2 when it holds, on to the next instruction when not; both operands are read either
way. -/
def CompletesBranch (mk : BitVec 5 → BitVec 5 → BitVec 9 → BitVec 3 → Instr) (c : Word → Word → Prop) : Prop :=
  ∀ a b o sc s s1 t x y, readS a s = .ok x s1 → readS b s1 = .ok y t →
    (¬ c x y → Completes 4 (mk a b o sc) sc.toNat s t)
    ∧ (c x y → LegalTarget (s.me.pc.toNat + o.toInt * 2) →
        Transfers (mk a b o sc) sc.toNat s t (BitVec.ofInt 22 (s.me.pc.toNat + o.toInt * 2)))
    ∧ (c x y → (s.me.pc.toNat + o.toInt * 2 < 0 ∨ 0x3FFFFE < s.me.pc.toNat + o.toInt * 2) →
        Traps (mk a b o sc) s { cause := 0x06, val := BitVec.ofInt 64 (s.me.pc.toNat + o.toInt * 2) })

/-- The address an offset form names: base plus offset times a unit. -/
def formAddress {n : Nat} (x : Word) (o : BitVec n) (unit : Nat) : Word := x + BitVec.ofInt 64 (o.toInt * unit)

/-- A scalar load of 2^z bytes, its value extended by e: from the core's own slice a result of latency 4 when `fixed`, otherwise one
that interlocks. -/
def CompletesLoad {n : Nat} (mk : BitVec 5 → BitVec 5 → BitVec 2 → BitVec n → BitVec 3 → Instr) (fixed : Bool) (e : Nat → Nat → Word) :
    Prop :=
  ∀ d a z o sc s s1 s2 s3 t x v addr i, readS a s = .ok x s1 →
    checkLocal (formAddress x o (2 ^ z.toNat)) (2 ^ z.toNat) (2 ^ z.toNat) false s1 = .ok addr s2 →
    scalarLoad addr (2 ^ z.toNat) s2 = .ok v s3 →
    ((fixed && s3.inHome addr) = true → writeSL d (e (2 ^ z.toNat) v) 4 s3 = .ok ⟨⟩ t → Completes 4 (mk d a z o sc) sc.toNat s t)
    ∧ ((fixed && s3.inHome addr) = false → deferS d (e (2 ^ z.toNat) v) 0 s3 = .ok i t → Completes 4 (mk d a z o sc) sc.toNat s t)

/-- A scalar store of 2^z bytes: d is read after the checks of the address. -/
def CompletesStore {n : Nat} (mk : BitVec 5 → BitVec 5 → BitVec 2 → BitVec n → BitVec 3 → Instr) (release : Bool) : Prop :=
  ∀ d a z o sc s s1 s2 s3 t x v addr, readS a s = .ok x s1 →
    checkLocal (formAddress x o (2 ^ z.toNat)) (2 ^ z.toNat) (2 ^ z.toNat) true s1 = .ok addr s2 → readS d s2 = .ok v s3 →
    scalarStore addr (2 ^ z.toNat) (v.toNat % 2 ^ (8 * 2 ^ z.toNat)) s3 = .ok ⟨⟩ t →
    (release = true → t.performed t.cur.1 t.cur.2 = true) → Completes 4 (mk d a z o sc) sc.toNat s t

/-- The instruction of an engine function. -/
def engineInstr (fn : EngFn) (d a b : BitVec 5) (sc : BitVec 3) : Instr :=
  match fn with
  | .bcopy => .bcopy d a b sc
  | .bfill => .bfill d a b sc
  | .bzero => .bzero d a b sc
  | .lift => .pftLift d a b sc
  | .drop => .pftDrop d a b sc

/-- An event that is enabled at s leads to t. -/
def Leads (e : Instr) (s t : State) : Prop := exec e s = .next t

/-- An amo: after the checks of its address its request sets out to the owner's system sequencer, while
fewer than 16 are in it or on their way there. -/
def CompletesAmo (mk : BitVec 5 → BitVec 5 → BitVec 5 → BitVec 1 → BitVec 3 → Instr) (fn : Nat) (cas : Bool) : Prop :=
  ∀ d a b (z : BitVec 1) sc s s1 s2 s3 s4 t A v c addr id, readS a s = .ok A s1 → readS b s1 = .ok v s2 →
    (cas = true → readS d s2 = .ok c s3) → (cas = false → c = 0 ∧ s3 = s2) →
    let n := if z = 0 then 8 else 4
    checkRange A n n true s3 = .ok addr s4 →
    let o := ownerCore (clusterOf s4.cur.1) addr
    (16 ≤ s4.amoCredits o → Waits (mk d a b z sc) s)
    ∧ (s4.amoCredits o < 16 → deferS d 0 1 s4 = .ok id t →
      Completes 4 (mk d a b z sc) sc.toNat s (t.sendLoad s4.cur.1 s4.cur.2 o (.amo
        { core := s4.cur.1, level := s4.cur.2, id := if d.toNat = 0 then none else some id, addr := addr, size := n, fn := fn, y := v, c := c
          pc := s4.me.pc })))

/-- Every level-0 context of a gang has halted or arrived at its barrier (R131). -/
def GangArrived (s : State) (g : Gang) : Prop := ∀ c ∈ g.cores, s.halted0 c = true ∨ g.indexOf c ∈ g.barArrived

/-! ### Vector instructions -/

/-- Element e of width w is active (R267): its first byte lies below VL and its predicate bit is 1. -/
def Active (vl : Nat) (p : BitVec 256) (w e : Nat) : Prop := e * w / 8 < vl ∧ p.getLsbD (e * w / 8) = true

/-- A register whose kept elements are f and whose other elements are the old ones. -/
def HoldsElems (w : Nat) (old r : BitVec 2048) (keep : Nat → Prop) (f : Nat → Nat) : Prop :=
  ∀ e, e < 2048 / w → (keep e → lane r.toNat w e = f e % 2 ^ w) ∧ (¬ keep e → lane r.toNat w e = lane old.toNat w e)

/-- A POISON or unequal or refused pair of tags traps (R72, R267). -/
def TrapsOnTags (i : Instr) (s : State) (ok : Tag → Bool) (t u : Tag) : Prop :=
  (t = .poison ∨ u = .poison → Traps i s { cause := 0x10, val := s.me.pc.setWidth 64 })
  ∧ (t ≠ .poison → u ≠ .poison → (t ≠ u ∨ ok t = false) → Traps i s { cause := 0x03, val := BitVec.ofNat 64 (t.code + 16 * u.code) })

/-- The same for one tag: POISON traps, and so does a tag that is not accepted, with it in the low four bits of TRAPVAL. -/
def TrapsOnTag (i : Instr) (s : State) (ok : Tag → Bool) (t : Tag) : Prop :=
  (t = .poison → Traps i s { cause := 0x10, val := s.me.pc.setWidth 64 })
  ∧ (t ≠ .poison → ok t = false → Traps i s { cause := 0x03, val := BitVec.ofNat 64 t.code })

/-- `op d, a, b` on elements: f of the elements of two sources of one accepted tag, written under the predicate. -/
def CompletesElem2 (mk : BitVec 3 → BitVec 5 → BitVec 5 → BitVec 5 → BitVec 3 → Instr) (ok : Tag → Bool) (f : Tag → Nat → Nat → Nat)
    (lat : Tag → Nat) : Prop :=
  ∀ p d a b sc s s1 s2 s3 pr x y, readP p.toNat s = .ok pr s1 → readV a s1 = .ok x s2 → readV b s2 = .ok y s3 →
    (∀ s4 t old r, x.tag ≠ .poison → y.tag = x.tag → ok x.tag = true → oldV d s3 = .ok old s4 →
      HoldsElems x.tag.width old r (Active s4.me.vl pr x.tag.width)
        (fun e => f x.tag (lane x.val.toNat x.tag.width e) (lane y.val.toNat x.tag.width e)) →
      writeVL d { val := r, tag := x.tag } (lat x.tag) s4 = .ok ⟨⟩ t → Completes 4 (mk p d a b sc) sc.toNat s t)
    ∧ TrapsOnTags (mk p d a b sc) s ok x.tag y.tag

/-- The same for one source. -/
def CompletesElem1 (mk : BitVec 3 → BitVec 5 → BitVec 5 → BitVec 3 → Instr) (ok : Tag → Bool) (f : Tag → Nat → Nat) (lat : Tag → Nat) :
    Prop :=
  ∀ p d a sc s s1 s2 pr x, readP p.toNat s = .ok pr s1 → readV a s1 = .ok x s2 →
    (∀ s4 t old r, x.tag ≠ .poison → ok x.tag = true → oldV d s2 = .ok old s4 →
      HoldsElems x.tag.width old r (Active s4.me.vl pr x.tag.width) (fun e => f x.tag (lane x.val.toNat x.tag.width e)) →
      writeVL d { val := r, tag := x.tag } (lat x.tag) s4 = .ok ⟨⟩ t → Completes 4 (mk p d a sc) sc.toNat s t)
    ∧ TrapsOnTag (mk p d a sc) s ok x.tag

/-- The same for d := f(a, b, d), whose three tags must be one of class F or I. -/
def CompletesElem3 (mk : BitVec 3 → BitVec 5 → BitVec 5 → BitVec 5 → BitVec 3 → Instr) (f : Tag → Nat → Nat → Nat → Nat) : Prop :=
  ∀ p d a b sc s s1 s2 s3 s4 pr x y c, readP p.toNat s = .ok pr s1 → readV a s1 = .ok x s2 → readV b s2 = .ok y s3 →
    readV d s3 = .ok c s4 →
    (∀ t r, y.tag = x.tag → c.tag = x.tag → x.tag.inFI = true →
      HoldsElems x.tag.width c.val r (Active s4.me.vl pr x.tag.width)
        (fun e => f x.tag (lane x.val.toNat x.tag.width e) (lane y.val.toNat x.tag.width e) (lane c.val.toNat x.tag.width e)) →
      writeVL d { val := r, tag := x.tag } (if x.tag.isFloat then 4 else 2) s4 = .ok ⟨⟩ t → Completes 4 (mk p d a b sc) sc.toNat s t)
    ∧ (x.tag = .poison ∨ y.tag = .poison ∨ c.tag = .poison → Traps (mk p d a b sc) s { cause := 0x10, val := s.me.pc.setWidth 64 })
    ∧ (x.tag ≠ .poison → y.tag ≠ .poison → c.tag ≠ .poison → (y.tag ≠ x.tag ∨ c.tag ≠ x.tag ∨ x.tag.inFI = false) →
        Traps (mk p d a b sc) s { cause := 0x03, val := BitVec.ofNat 64 (x.tag.code + 16 * y.tag.code) })

/-- An element result by class (R256, R258): floating-point rounded in a mode, integers wrapped, or saturated. -/
def byClass (m : BitVec 2) (sat : Bool) (ff : RoundMode → Fp → Fp → Fp) (fi : Int → Int → Int) (t : Tag) (x y : Nat) : Nat :=
  if t.inF then encodeFp (ff (.ofCode m.toNat) (valueOf t.fmtF x) (valueOf t.fmtF y)) t.fmtF (.ofCode m.toNat) sat
  else
    let r := fi (signedOf t.width x) (signedOf t.width y)
    if sat then (max (-(2 ^ (t.width - 1) : Int)) (min r (2 ^ (t.width - 1) - 1)) % (2 ^ t.width : Int)).toNat else (r % (2 ^ t.width : Int)).toNat

/-- The same with the old element as a third operand. -/
def byClass3 (m : BitVec 2) (sat : Bool) (ff : RoundMode → Fp → Fp → Fp → Fp) (fi : Int → Int → Int → Int) (t : Tag) (x y c : Nat) : Nat :=
  if t.inF then
    encodeFp (ff (.ofCode m.toNat) (valueOf t.fmtF x) (valueOf t.fmtF y) (valueOf t.fmtF c)) t.fmtF (.ofCode m.toNat) sat
  else
    let r := fi (signedOf t.width x) (signedOf t.width y) (signedOf t.width c)
    if sat then (max (-(2 ^ (t.width - 1) : Int)) (min r (2 ^ (t.width - 1) - 1)) % (2 ^ t.width : Int)).toNat else (r % (2 ^ t.width : Int)).toNat

/-- Latency of element-wise work (R62): 4 on floating-point tags, 2 on the others. (DEDUCED, log 17.) -/
def latencyOf (t : Tag) : Nat := if t.isFloat then 4 else 2

/-- A comparison (R273): the bit of the first byte of each active element for which the relation holds; every other bit is 0. -/
def CompletesCompare (mk : BitVec 3 → BitVec 5 → BitVec 5 → BitVec 5 → BitVec 3 → Instr) (ok : Tag → Bool) (onFp : Fp → Fp → Prop)
    (onInt : Nat → Nat → Nat → Prop) : Prop :=
  ∀ p d a b sc s s1 s2 s3 pr x y, readP p.toNat s = .ok pr s1 → readV a s1 = .ok x s2 → readV b s2 = .ok y s3 →
    (∀ t r, y.tag = x.tag → ok x.tag = true →
      (∀ j, r.getLsbD j = true ↔ ∃ e, e < 2048 / x.tag.width ∧ j = e * x.tag.width / 8 ∧ Active s3.me.vl pr x.tag.width e
        ∧ (if x.tag.inF then
            onFp (valueOf x.tag.fmtF (lane x.val.toNat x.tag.width e)) (valueOf x.tag.fmtF (lane y.val.toNat x.tag.width e))
          else onInt x.tag.width (lane x.val.toNat x.tag.width e) (lane y.val.toNat x.tag.width e))) →
      writeP d.toNat r s3 = .ok ⟨⟩ t → Completes 4 (mk p d a b sc) sc.toNat s t)
    ∧ TrapsOnTags (mk p d a b sc) s ok x.tag y.tag

/-- The elements that a reduction takes, lowest first. -/
noncomputable def activeLanes (x : VReg) (vl : Nat) (p : BitVec 256) : List Nat :=
  ((List.range (2048 / x.tag.width)).filter fun e => decide (e * x.tag.width / 8 < vl) && p.getLsbD (e * x.tag.width / 8)).map
    fun e => lane x.val.toNat x.tag.width e

/-- A reduction to a scalar of latency 8, on the tags of `ok`; a tag that is POISON or that the operation does not accept traps. -/
def CompletesReduce (mk : BitVec 3 → BitVec 5 → BitVec 5 → BitVec 3 → Instr) (accepts ok : Tag → Bool) (f : VReg → Nat → BitVec 256 → Word) :
    Prop :=
  ∀ p d a sc s s1 s2 pr x, readP p.toNat s = .ok pr s1 → readV a s1 = .ok x s2 →
    (∀ t, ok x.tag = true → writeSL d (f x s2.me.vl pr) 8 s2 = .ok ⟨⟩ t → Completes 4 (mk p d a sc) sc.toNat s t)
    ∧ TrapsOnTag (mk p d a sc) s accepts x.tag

/-- A predicate operation (R278): latency 2. -/
def CompletesPred (mk : BitVec 5 → BitVec 5 → BitVec 5 → BitVec 3 → Instr) (f : Bool → Bool → Bool) : Prop :=
  ∀ d a b sc s s1 s2 t x y r, readP a.toNat s = .ok x s1 → readP b.toNat s1 = .ok y s2 →
    (∀ j, j < 256 → r.getLsbD j = f (x.getLsbD j) (y.getLsbD j)) → writeP d.toNat r s2 = .ok ⟨⟩ t → Completes 4 (mk d a b sc) sc.toNat s t

/-! ### Matrix commands -/

/-- A command with a map (R303): under the lease and with its entry's checks met, it is queued, counted and its range registered, or it
answers BUSY while the range-lock table is full. -/
def CompletesCommand (mk : BitVec 5 → BitVec 4 → BitVec 3 → Instr) (o : MOp) (plane : Nat) : Prop :=
  ∀ d a sc (s : State) r j t,
    let n := quadOf s.cur.1
    let q := s.quad n
    let map := s.me.mreg a.toNat
    let v := map.view
    q.awaits s.cur.1 s.cur.2 = false → q.atLimit = false → q.holder = some s.cur → q.expiring = false → q.freeing = false →
    o.accepts v.tag = true → (v.headed = true → o.headed v.tag = true) → v.height ≤ o.maxRows → v.cols ≤ 256 →
    (o = .mscale → q.future.2.2 ≠ 2) → (o = .mmul → pairOk v.tag q.future.1 = true) → mapFormat v s = .ok r s → mapHeaded v r s = .ok ⟨⟩ s →
    q.cmds.length < 16 →
    (64 ≤ s.home.ranges.length → deferS d 1 0 s = .ok j t → Completes 4 (mk d a sc) sc.toNat s t)
    ∧ (s.home.ranges.length < 64 → s.performed s.cur.1 s.cur.2 = true →
        (let id := s.vale.nextId
         let lock : RangeLock := { id := id, dest := decide (o = .mdrain), tree := true, core := s.cur.1, level := s.cur.2, ta := v.block }
         let s1 : State := { s with vale := { s.vale with nextId := id + 1 } }
         let s2 := s1.modCluster (clusterOf s.cur.1) fun y => y.addRange lock
         let m : MCmd := { op := o, map := map, plane := plane, lockId := id, seq := q.accepted % 64 }
         let s3 := s2.modQuad n fun y => { y with cmds := q.cmds ++ [m], accepted := q.accepted + 1, commands := q.commands + 1 }
         deferS d 0 0 s3 = .ok j t) → Completes 4 (mk d a sc) sc.toNat s t)

/-- A command without the lease, or with one that is expiring or freeing, raises LEASE (R303). -/
def TrapsWithoutLease (i : Instr) : Prop :=
  ∀ s : State,
    let q := s.quad (quadOf s.cur.1)
    q.awaits s.cur.1 s.cur.2 = false → q.atLimit = false → (q.holder ≠ some s.cur ∨ q.expiring = true ∨ q.freeing = true) →
    Traps i s { cause := 0x0F, val := s.leaseWord s.cur.1 }

/-! ### The rewriting engine -/

/-- A port reference of the issuing core: it passes the checks of R348 and its node lies at the core itself. -/
def OwnRef (s : State) (pr : Word) (port : Bool) : Prop := s.prFault s.cur.1 pr port = none ∧ s.prOwner s.cur.1 pr = some s.cur.1

/-- A port of a live node that the issuing context may write: no forwarder, not claimed by another context. -/
def LivePort (s : State) (pr : Word) : Prop :=
  prPort pr ≤ nodeArity (s.nword s.cur.1 pr 0) ∧ fwdBit (s.nword s.cur.1 pr 0) = false ∧ claimedByOther (s.nword s.cur.1 pr 0) s.whoAmI = false

/-- The state after an nrun that finds no pair: the pair it popped before is retired and its marks are gone (R364). -/
def State.beforePop (s : State) : State := (s.endMarks s.cur.1 s.cur.2).retirePair s.cur.1 s.cur.2

/-! ### System calls -/

/-- A context waits in the system call k with an argument, and it is its turn (R390). -/
def Asks (s : State) (core level k : Nat) (arg : Word) : Prop :=
  ∃ d, (s.ctx core level).op = .call k arg d none ∧ s.firstCall (.context core level, k) = true

/-- The address space of a core's gang. -/
def State.asidOf (s : State) (core : Nat) : Nat := ((s.gangOf core).map fun g => g.asid).getD 0

/-- The n bytes of a call's descriptor in the caller's cluster (R391). -/
def State.argBytes (s : State) (core : Nat) (arg : Word) (n : Nat) : List Byte := Mem.readBytes s.cmem (cellKey (clusterOf core) arg.toNat) n

/-- An argument that names a descriptor of n bytes (R391). -/
def DescriptorAt (arg : Word) (n : Nat) : Prop := arg.toNat < 2 ^ 22 ∧ arg.toNat % 64 = 0 ∧ arg.toNat + n ≤ 2 ^ 22

/-- The call k is answered with v, in a state that meets P but for the answer. -/
def Answers (e : Instr) (s : State) (core level k : Nat) (v : Word) (P : State → Prop) : Prop :=
  ∃ u, P u ∧ Leads e s (u.respond (.context core level) k v)

/-! ### What an instruction leaves as it was -/

/-- The memories and the translation of trees are untouched. -/
structure SameMemory (s t : State) : Prop where
  cluster : ∀ a, Mem.read t.cmem a = Mem.read s.cmem a
  physical : ∀ a, Mem.read t.phys a = Mem.read s.phys a
  roots : t.roots = s.roots
  entries : t.entries = s.entries

/-- The special registers of a context that an instruction may write: a loop level, the bit stream, one of the fields named, a tensor map, or
any control register. -/
inductive Special where
  | loops | stream | priority | length | phase | control
  | map (r : Nat)
deriving DecidableEq, Repr

/-- The registers that an instruction may write: a scalar register, vector registers, a predicate register, special ones; and whether it may
write guard bits. -/
structure Targets where
  scalar : Option (BitVec 5) := none
  vectors : List (BitVec 5) := []
  predicate : Option Nat := none
  special : List Special := []
  guards : Bool := false
deriving DecidableEq, Repr

/-- Whether an instruction leaves a special register alone. -/
def Targets.spares (w : Targets) (x : Special) : Prop := x ∉ w.special ∧ .control ∉ w.special

/-- The acting context, which runs, keeps every register but the targets. The trap registers may change only together with STATUS.TD, and a loop
counter only as the end check of R107 moves it. -/
structure SameOwn (s t : State) (w : Targets) : Prop where
  cur : t.cur = s.cur
  scalars : ∀ r : BitVec 5, some r ≠ w.scalar → t.me.sreg r.toNat = s.me.sreg r.toNat
  vectors : ∀ r : BitVec 5, r ∉ w.vectors → t.me.vreg r.toNat = s.me.vreg r.toNat
  predicates : ∀ r, some r ≠ w.predicate → t.me.preg r = s.me.preg r
  maps : ∀ r, .map r ∉ w.special → t.me.mreg r = s.me.mreg r
  pending : ∃ l, t.me.pend = s.me.pend ++ l ∧ ∀ q ∈ l, match q.dest with
    | .scalar r => ∃ d, w.scalar = some d ∧ d.toNat = r
    | .vector r => ∃ d ∈ w.vectors, d.toNat = r
    | .pred r => w.predicate = some r
  fixed : (t.me.rtc, t.me.trapprog, t.me.mb, t.me.msghdr) = (s.me.rtc, s.me.trapprog, s.me.mb, s.me.msghdr)
  controls : .control ∉ w.special → (t.me.sbc, t.me.tvec, t.me.choleps, t.me.cholreg) = (s.me.sbc, s.me.tvec, s.me.choleps, s.me.cholreg)
  priority : w.spares .priority → t.me.prio = s.me.prio
  length : w.spares .length → t.me.vl = s.me.vl
  phase : w.spares .phase → t.me.phase = s.me.phase
  loops : w.spares .loops → (t.me.ls, t.me.le) = (s.me.ls, s.me.le)
  counters : w.spares .loops → ∀ k, Map.getD t.me.lc k 0 = Map.getD s.me.lc k 0
    ∨ (Map.getD s.me.lc k 0 ≠ 0 ∧ Map.getD t.me.lc k 0 = Map.getD s.me.lc k 0 - 1)
  bits : w.spares .stream → (t.me.bblo, t.me.bbhi, t.me.bbpos, t.me.bbptr, t.me.bbend) = (s.me.bblo, s.me.bbhi, s.me.bbpos, s.me.bbptr, s.me.bbend)
  traps : .control ∉ w.special → t.me.td = s.me.td →
    (t.me.trappc, t.me.trapcause, t.me.trapval) = (s.me.trappc, s.me.trapcause, s.me.trapval)
  guards : w.guards = false → t.guards = s.guards

/-- And so does every other context. It changes only where it waits and the acting one's core stops (R321). -/
structure SameRegisters (s t : State) (w : Targets) : Prop extends SameOwn s t w where
  others : ∀ c l, (c, l) ≠ s.cur → ((s.ctx c l).st ≠ .waiting ∨ t.here.stop = none) → t.ctx c l = s.ctx c l

/-- What the acting core holds beside its contexts and links, and every other unit, are untouched. GUARDREC, the counts of the slices' reads, and
with a control register BALCFG are let out, and so is the numbering of pending results. -/
structure SameUnits (s t : State) (w : Targets) : Prop where
  dispatch : (t.here.dispatch, t.here.dispbase, t.here.mbxcfg, t.here.mailbox) = (s.here.dispatch, s.here.dispbase, s.here.mbxcfg, s.here.mailbox)
  phases : (t.here.ended, t.here.closed, t.here.phaseCount, t.here.versions) = (s.here.ended, s.here.closed, s.here.phaseCount, s.here.versions)
  nodes : (t.here.churn, t.here.freeHead, t.here.freeLen) = (s.here.churn, s.here.freeHead, s.here.freeLen)
  bases : (t.here.rulebase, t.here.rowprog, t.here.frameq, t.here.cycle) = (s.here.rulebase, s.here.rowprog, s.here.frameq, s.here.cycle)
  messages : (t.here.acks, t.here.refusals, t.here.sysq, t.here.notices, t.here.closes) =
    (s.here.acks, s.here.refusals, s.here.sysq, s.here.notices, s.here.closes)
  balance : .control ∉ w.special → (t.here.balInterval, t.here.balThreshold, t.here.balNext) = (s.here.balInterval, s.here.balThreshold, s.here.balNext)
  clusters : t.clusters = s.clusters
  gangs : t.gangs = s.gangs
  engines : t.engines = s.engines
  quads : t.quads = s.quads
  slices : t.slices = s.slices
  processors : t.bdps = s.bdps
  network : t.net = s.net
  ports : t.ports = s.ports
  module_ : t.mod = s.mod
  vale : { t.vale with nextId := 0 } = { s.vale with nextId := 0 }
  pages : (t.headers, t.sectors, t.badPhys) = (s.headers, s.sectors, s.badPhys)
  words : (t.watch, t.restored) = (s.watch, s.restored)

/-- The instructions that work on registers, links, the PC and the instruction buffer, with the registers they may write, and the loads
from cluster memory. -/
def registerTargets (i : Instr) : Option Targets :=
  match i with
  | .add _ d _ _ _ | .sub _ d _ _ _ | .mul _ d _ _ _ | .mulh _ d _ _ _ | .mulhN _ d _ _ _ | .div _ d _ _ _ | .divN _ d _ _ _
  | .rem _ d _ _ _ | .remN _ d _ _ _ | .and _ d _ _ _ | .or _ d _ _ _ | .xor _ d _ _ _ | .andn _ d _ _ _ | .min _ d _ _ _
  | .max _ d _ _ _ | .minN _ d _ _ _ | .maxN _ d _ _ _ | .shl _ d _ _ _ | .shr _ d _ _ _ | .sra _ d _ _ _ | .rot _ d _ _ _
  | .taz _ d _ _ _ | .tanb _ d _ _ _ | .taup _ d _ _ _ | .tadown _ d _ _ _ | .cmpEq _ d _ _ _ | .cmpNe _ d _ _ _ | .cmpLt _ d _ _ _
  | .cmpGe _ d _ _ _ | .cmpLtu _ d _ _ _ | .cmpGeu _ d _ _ _ | .cmpAny _ d _ _ _ | .cmpNone _ d _ _ _ => some { scalar := some d }
  | .clz _ d _ _ | .ctz _ d _ _ | .popc _ d _ _ | .tax _ d _ _ | .tadepth _ d _ _ => some { scalar := some d }
  | .addImm12 d _ _ _ | .andImm d _ _ _ | .orImm d _ _ _ | .xorImm d _ _ _ | .andnImm d _ _ _ | .shlImm d _ _ _ | .shrImm d _ _ _
  | .sraImm d _ _ _ | .rotImm d _ _ _ | .mulImm d _ _ _ | .minImm d _ _ _ | .maxImm d _ _ _ | .minNImm d _ _ _ | .maxNImm d _ _ _
  | .taupImm d _ _ _ | .tadownImm d _ _ _ => some { scalar := some d }
  | .sel d _ _ _ _ | .fsh d _ _ _ _ | .bfx d _ _ _ _ | .bfxs d _ _ _ _ | .bfi d _ _ _ _ | .bfxImm d _ _ _ _ => some { scalar := some d }
  | .lui d _ _ | .callr d _ _ | .mfc d _ _ | .pcnt d _ _ | .pfirst d _ _ => some { scalar := some d }
  | .vredSum _ d _ _ | .vredMin _ d _ _ | .vredMax _ d _ _ | .vredAnd _ d _ _ | .vredOr _ d _ _ | .vredMinN _ d _ _
  | .vredMaxN _ d _ _ => some { scalar := some d }
  | .mov d _ | .add16 d _ | .sub16 d _ | .and16 d _ | .or16 d _ | .xor16 d _ | .li d _ | .addImm5 d _ | .shl16 d _ | .shr16 d _
  | .sra16 d _ => some { scalar := some d }
  | .ld d _ _ _ _ | .ldSx d _ _ _ _ | .ldAcq d _ _ _ _ _ => some { scalar := some d }
  | .vld d _ _ _ => some { vectors := [d] }
  | .call _ _ => some { scalar := some 1 }
  | .bra _ _ | .bcEq _ _ _ _ | .bcNe _ _ _ _ | .bcLt _ _ _ _ | .bcGe _ _ _ _ | .bcLtu _ _ _ _ | .bcGeu _ _ _ _ | .bcAny _ _ _ _
  | .bcNone _ _ _ _ | .jt _ _ _ | .isync _ | .rft _ | .trap _ _ | .nop => some {}
  | .vadd _ d _ _ _ _ | .vsub _ d _ _ _ _ | .vmul _ d _ _ _ _ | .vfma _ d _ _ _ _ | .vfms _ d _ _ _ _ | .vdiv _ d _ _ _ _
  | .vaddSat _ d _ _ _ _ | .vsubSat _ d _ _ _ _ | .vmulSat _ d _ _ _ _ | .vfmaSat _ d _ _ _ _ | .vaddNSat _ d _ _ _ _
  | .vsubNSat _ d _ _ _ _ => some { vectors := [d] }
  | .vsqrt _ d _ _ _ | .vmin _ d _ _ _ | .vmax _ d _ _ _ | .vminN _ d _ _ _ | .vmaxN _ d _ _ _ | .vand _ d _ _ _ | .vor _ d _ _ _
  | .vxor _ d _ _ _ | .vshl _ d _ _ _ | .vshr _ d _ _ _ | .vsra _ d _ _ _ | .vperm _ d _ _ _ | .vslide _ d _ _ _ => some { vectors := [d] }
  | .vcvt _ d _ _ _ _ => some { vectors := [d, d + 1] }
  | .vmov _ d _ _ | .vabs _ d _ _ | .vneg _ d _ _ | .vcompress _ d _ _ => some { vectors := [d] }
  | .vtag d _ _ _ | .vbcast _ d _ _ _ | .vsel d _ _ _ _ | .vdistDot d _ _ _ _ | .vdistL2 d _ _ _ _ | .vtrs8 d _ _ _ => some { vectors := [d] }
  | .vcx d _ _ _ => some { vectors := [d, d + 1] }
  | .loop _ _ _ _ => some { special := [.loops] }
  | .align _ _ => some {}
  | .prio _ _ => some { special := [.priority] }
  | .vgl _ d _ _ => some { scalar := some d, special := [.length] }
  | .bbinit _ _ _ | .bbfill _ | .bbskip _ _ => some { special := [.stream] }
  | .bbpeek d _ _ | .bbtake d _ _ => some { scalar := some d, special := [.stream] }
  | .mtc _ _ _ => some { special := [.control] }
  | .mxc d _ _ _ => some { scalar := some d, special := [.control] }
  | .guard _ _ _ | .unguard _ _ _ => some { guards := true }
  | .tmld d _ _ => some { special := [.map d.toNat] }
  | .phset _ _ => some { special := [.phase] }
  | .vchol8 d _ k _ => some { vectors := [d], predicate := some k.toNat }
  | .vcmpEq _ d _ _ _ | .vcmpNe _ d _ _ _ | .vcmpLt _ d _ _ _ | .vcmpGe _ d _ _ _ | .vcmpLe _ d _ _ _ | .vcmpGt _ d _ _ _
  | .vcmpUn _ d _ _ _ | .vcmpOrd _ d _ _ _ | .vcmpLtN _ d _ _ _ | .vcmpGeN _ d _ _ _ | .vcmpLeN _ d _ _ _
  | .vcmpGtN _ d _ _ _ => some { predicate := some d.toNat }
  | .pand d _ _ _ | .por d _ _ _ | .pxor d _ _ _ | .pnot d _ _ => some { predicate := some d.toNat }
  | _ => none

/-- Instructions that may touch other units (queues of messages, engines, arrays, the XU, sync slots, versions, channels) but neither memory
nor a register of a context beyond these targets. What a context keeps beside its registers (wake token, held counts) is not counted. -/
def quietTargets (i : Instr) : Option Targets :=
  match i with
  | .ldtMap d _ _ _ _ | .ldtTa d _ _ => some { scalar := some d }
  | .vldtMap d _ _ _ _ | .vldtRaw d _ _ _ _ => some { vectors := [d, d + 1] }
  | .vldtTa d _ _ | .vgath _ d _ _ _ => some { vectors := [d] }
  | .send _ _ _ _ _ _ | .deposit _ _ _ | .dset _ _ _ _ _ | .mbxcfg _ _ | .sfree _ _ | .recl _ _ _ | .phopen _ _ | .phwait _ _
  | .waitv _ _ _ | .fenceLd _ _ | .fenceSt _ _ | .fenceAll _ _ | .mlease _ | .mfree _ | .mswap _ | .sopen _ _ _ | .sclose _ _ => some {}
  | .dget d _ _ | .salloc d _ | .ldv d _ _ _ | .xreq d _ _ _ | .kinit d _ _ _ | .kadd _ d _ _ _ | .kdrain d _ _ _ | .mstat d _
  | .mcheck d _ _ | .mload d _ _ | .mscale d _ _ | .mmul _ d _ _ | .mdrain _ d _ _ | .bcopy d _ _ _ | .bfill d _ _ _ | .bzero d _ _ _
  | .pftLift d _ _ _ | .pftDrop d _ _ _ | .fship d _ _ _ | .snap d _ _ | .cfgrd d _ _ | .cfgwr d _ _ _ | .sleep d _ _ =>
    some { scalar := some d }
  | .amoAdd d _ _ _ _ | .amoMin d _ _ _ _ | .amoMax d _ _ _ _ | .amoAnd d _ _ _ _ | .amoOr d _ _ _ _ | .amoXor d _ _ _ _
  | .amoSwap d _ _ _ _ | .amoCas d _ _ _ _ | .amoMinN d _ _ _ _ | .amoMaxN d _ _ _ _ => some { scalar := some d }
  | .xget d _ => some { vectors := [d] }
  | _ => none

/-- Where an offset form stores to cluster memory: address and length, computed as the instruction computes them. -/
def storePlace {n : Nat} (a : BitVec 5) (o : BitVec n) (unit len align : Nat) : M (Nat × Nat) := do
  let x ← readS a
  let addr ← checkLocal (formAddress x o unit) len align true
  return (addr, len)

/-- Only the bytes that a place names may change in cluster memory, and nothing in physical memory. -/
def OnlyStores (place : M (Nat × Nat)) (s t : State) : Prop :=
  (∀ q, (∀ addr len u, place s = .ok (addr, len) u →
      q < cellKey (clusterOf s.cur.1) addr ∨ cellKey (clusterOf s.cur.1) addr + len ≤ q) → Mem.read t.cmem q = Mem.read s.cmem q)
  ∧ (∀ q, Mem.read t.phys q = Mem.read s.phys q) ∧ t.roots = s.roots ∧ t.entries = s.entries

/-- Where a store through a map goes: the elements reached, computed as the instruction computes them. -/
def mapPlaces (k : BitVec 4) (read : M (List (Nat × Nat × Nat))) : M (List Loc) := do
  let l ← read
  let v := (← readM k.toNat).view
  let r ← mapFormat v
  let got ← reachMap v r .write true l
  return if v.headed then [] else got.map (·.2)

/-- Where a store by raw tree address goes. -/
def rawPlaces (a d : BitVec 5) (vector : Bool) : M (List Loc) := do
  let t ← readS a
  if vector then
    let _ ← readV d
    pure ()
  else
    let _ ← readS d
    pure ()
  let r ← rawRoot t
  let vl := (← get).me.vl
  let got ← reachRaw .write true (if vector then blockElems t r.esize vl else [(0, t)])
  return got.map (·.2)

/-- Only the bytes of the elements of a list may change in physical memory, or, in a keyed root, bytes of their sectors (R170); nothing in
cluster memory. -/
def OnlyElements (places : M (List Loc)) (s t : State) : Prop :=
  (∀ q, (∀ l u, places s = .ok l u → ∀ x ∈ l, (q < x.phys ∨ x.phys + (x.w + 7) / 8 ≤ q) ∧ (x.sector = none ∨ q / 512 ≠ x.phys / 512)) →
    Mem.read t.phys q = Mem.read s.phys q)
  ∧ (∀ q, Mem.read t.cmem q = Mem.read s.cmem q) ∧ t.roots = s.roots ∧ t.entries = s.entries

/-! ### A core's cycle -/

/-- The state in which a core begins its next cycle: results due have landed and align stalls that are over have ended. -/
def State.begun (s : State) (c : Nat) : State :=
  ((((s.afterTake.nextCycle c).endAlign c 3).endAlign c 2).endAlign c 1).endAlign c 0

/-- The state in which a context of a core runs. -/
def State.running (s : State) (c l : Nat) : State := { s.modCtx c l (fun x => { x with st := .running }) with cur := (c, l) }

/-- It is a core's turn, its gang is resident, it is not stopped, no trap is due, and the context at level l issues. -/
def IssuesNext (s : State) (c l : Nat) : Prop :=
  s.mod.therm = false ∧ s.nextTurn = .core c ∧ s.afterTake.counting c = true ∧ (s.afterTake.core c).stop = none
    ∧ (s.begun c).takeFirst c [3, 2, 1, 0] = none ∧ ((s.begun c).core c).choose = some l

/-! ### The ends of routines -/

/-- The instructions that may end their routine. -/
def endsRoutine (i : Instr) : Bool :=
  match i with
  | .ret _ _ | .ret16 _ | .halt _ | .halt16 | .eret _ _ => true
  | _ => false

/-- What an instruction that may end its routine leaves as it was: tree memory, the registers of its context but LC, STATUS.RTC and STATUS.TD,
and every other context that does not wait. The end of a routine clears marks on nodes, which lie in cluster memory (R352), and may release a
barrier (R131). -/
structure SameEnding (s t : State) : Prop where
  cur : t.cur = s.cur
  physical : ∀ a, Mem.read t.phys a = Mem.read s.phys a
  guards : t.guards = s.guards
  translation : (t.roots, t.entries, t.headers) = (s.roots, s.entries, s.headers)
  others : ∀ c l, (c, l) ≠ s.cur → (s.ctx c l).st ≠ .waiting → t.ctx c l = s.ctx c l
  scalars : ∀ r : BitVec 5, t.me.sreg r.toNat = s.me.sreg r.toNat
  vectors : ∀ r : BitVec 5, t.me.vreg r.toNat = s.me.vreg r.toNat
  predicates : ∀ r, t.me.preg r = s.me.preg r
  maps : ∀ r, t.me.mreg r = s.me.mreg r
  pending : t.me.pend = s.me.pend
  controls : (t.me.sbc, t.me.prio, t.me.vl, t.me.tvec, t.me.phase, t.me.choleps, t.me.cholreg)
    = (s.me.sbc, s.me.prio, s.me.vl, s.me.tvec, s.me.phase, s.me.choleps, s.me.cholreg)
  loops : (t.me.ls, t.me.le) = (s.me.ls, s.me.le)
  bits : (t.me.bblo, t.me.bbhi, t.me.bbpos, t.me.bbptr, t.me.bbend) = (s.me.bblo, s.me.bbhi, s.me.bbpos, s.me.bbptr, s.me.bbend)
  mailWords : (t.me.mb, t.me.msghdr) = (s.me.mb, s.me.msghdr)

/-! ### Issuing engine functions (R190, R191, R197) -/

/-- A control word that R190 and R191 accept. -/
def goodControl (s : State) (w : Word) : Bool :=
  decide (w.toNat / 2 ^ 24 % 256 = 0) &&
    let count := w.toNat / 2 ^ 8 % 2 ^ 16
    let handle := w.toNat / 2 ^ 32
    match w.toNat / 2 ^ 5 % 4 with
    | 0 => decide (count = 0) && decide (handle = 0)
    | 1 => decide (0 < count) && (s.handleKey (clusterOf s.cur.1) (BitVec.ofNat 64 handle)).isSome
    | 2 => decide (count = 0) && decide (handle < 16)
    | _ => false

/-- OP of TRAPPROG (R193). -/
def trapOp (fn : EngFn) : Nat := match fn with
  | .bcopy => 0
  | .bfill => 1
  | .bzero => 2
  | .lift => 3
  | .drop => 3

/-- A notice word whose fields obey R197. -/
def noticeWellFormed (n : Word) : Bool :=
  decide (n.toNat / 2 ^ 28 = 0) && decide (n.toNat / 2 ^ 18 % 4 = 0) && decide (n.toNat / 2 ^ 13 % 8 = 0) && decide (n.toNat / 2 ^ 20 < 0xF0)

/-- Its message may be counted now: the core is in the gang, and an acknowledgement is free. -/
def NoticeSendable (s : State) (n : Word) : Prop :=
  ∃ g, s.gangOf s.cur.1 = some g ∧ (g.toPhys (n.toNat % 2 ^ 13)).isSome = true ∧ s.here.acks < 16

/-- The first row of R191: each tree address under R149. -/
def addressRefusal (fn : EngFn) (src second : Word) : Option TrapInfo :=
  match checkTA src, (if fn = .bcopy then checkTA second else none) with
  | some n, _ => some { cause := 0x09, detail := n, val := src }
  | none, some n => some { cause := 0x09, detail := n, val := second }
  | none, none => none

/-- The trap of the first of the other checks of R191 and R197 that fails, if one does. -/
def engineRefusal (fn : EngFn) (s : State) (asid : Nat) (src second w : Word) : Option TrapInfo :=
  let r1 := s.root asid (taRoot src)
  let r2 := s.root asid (taRoot second)
  let pft := decide (fn = .lift) || decide (fn = .drop)
  let rows : List (Bool × TrapInfo) :=
    [(!goodControl s w, { cause := 0x13, val := w }),
     (w.getLsbD 7 && !(decide (s.me.trapprog.toNat / 2 ^ 48 % 4 = trapOp fn) && decide (s.me.trapprog.toNat / 2 ^ 51 % 32 = taDepth src)),
       { cause := 0x13, val := w }),
     (w.getLsbD 4 && !decide ((s.me.mreg (w.toNat % 16)).view.planes = 1), { cause := 0x03, val := w }),
     (decide (fn = .bcopy) && !(decide (taDepth src = taDepth second) && decide (r1.esizeCode = r2.esizeCode)),
       { cause := 0x03, val := second }),
     (!pft && r1.headed, { cause := 0x03, val := src }),
     (decide (fn = .bcopy) && r2.headed, { cause := 0x03, val := second }),
     (pft && !decide (second = 0) && !noticeWellFormed second, { cause := 0x13, val := second })]
  (rows.find? (·.1)).map (·.2)

/-! ### The order of pairs (R280) -/

/-- An FP32 code comes before another: numbers by value with −0 before +0, every number before NaN. -/
def fp32Before (x y : Nat) : Prop :=
  let nan := fun c => c / 2 ^ 23 % 2 ^ 8 = 255 ∧ c % 2 ^ 23 ≠ 0
  ¬ nan x ∧ (nan y ∨
    if x / 2 ^ 31 % 2 = 1 then y / 2 ^ 31 % 2 = 0 ∨ y % 2 ^ 31 < x % 2 ^ 31 else y / 2 ^ 31 % 2 = 0 ∧ x % 2 ^ 31 < y % 2 ^ 31)

/-- A list of pairs in Before order. -/
def BeforeSorted (key : Nat) (l : List (BitVec 32 × BitVec 32)) : Prop :=
  l.Pairwise fun x y => before key (y.1.toNat, y.2.toNat) (x.1.toNat, x.2.toNat) = false

/-! ### Frames of the instructions that change sync objects, versioned words and nodes -/

/-- A byte of n bytes at an address of a cluster. -/
def ByteOf (k a n q : Nat) : Prop := cellKey k a ≤ q ∧ q < cellKey k a + n

/-- A byte of the memory object that a handle register names (R128, R129). -/
def ObjectByte (s : State) (a : BitVec 5) (q : Nat) : Prop :=
  ∃ h u o, readS a s = .ok h u ∧ s.handleKey (clusterOf s.cur.1) h = some o ∧ 64 ≤ o ∧ ByteOf (clusterOf s.cur.1) (o - 64) 16 q

/-- A byte of the header of a node that the acting context holds or may have claimed (R352). -/
def MarkByte (s : State) (q : Nat) : Prop :=
  (∃ a ∈ s.me.holds, ByteOf (clusterOf s.cur.1) a 8 q) ∨ ∃ p ∈ s.me.claims, ∃ o, s.prOwner s.cur.1 p = some o ∧ ByteOf (clusterOf o) (prNode p) 8 q

/-- A byte of the cluster memory of the acting core's gang. -/
def GangByte (s : State) (q : Nat) : Prop := ∃ g id c, s.gangOf s.cur.1 = some g ∧ g.toPhys id = some c ∧ q / 2 ^ 22 = clusterOf c

/-- A byte of a spill ring (R354). -/
def RingByte (s : State) (q : Nat) : Prop := ∃ c r, ByteOf (clusterOf c) (s.ringSlot c r) 16 q

/-- The registers that these instructions may write; nrun has its own statement. -/
def unitTargets (i : Instr) : Option Targets :=
  match i with
  | .lock _ _ | .unlock _ _ | .barrive _ _ _ | .bcancel _ _ | .phend _ _ | .stv _ _ _ _ | .nst _ _ _ _ | .nfree _ _ _ | .npush _ _ _ => some {}
  | .bar d _ _ _ | .nalloc d _ | .nld d _ _ _ | .nmove d _ _ | .nbal d _ => some { scalar := some d }
  | .link _ b _ => some { scalar := some b }
  | _ => none

/-- The bytes of cluster memory that these instructions may write. -/
def unitBytes (i : Instr) (s : State) (q : Nat) : Prop :=
  match i with
  | .lock a _ | .unlock a _ | .barrive a _ _ | .bcancel a _ => ObjectByte s a q
  | .bar _ a _ _ => ObjectByte s a q ∨ MarkByte s q
  | .phend _ _ => MarkByte s q
  | .stv _ a _ _ => ∃ A u, readS a s = .ok A u ∧ ByteOf (clusterOf s.cur.1) A.toNat 8 q
  | .nalloc _ _ => ByteOf (clusterOf s.cur.1) s.here.freeHead 32 q
  | .nst _ a w _ => ∃ pr u o, readS a s = .ok pr u ∧ s.prOwner s.cur.1 pr = some o ∧ ByteOf (clusterOf o) (prNode pr + 8 * w.toNat) 8 q
  | .nfree a _ _ => ∃ pr u o, readS a s = .ok pr u ∧ s.prOwner s.cur.1 pr = some o ∧ ByteOf (clusterOf o) (prNode pr) 32 q
  | .npush _ _ _ => RingByte s q
  | .link _ _ _ | .nmove _ _ _ | .nbal _ _ => GangByte s q ∨ RingByte s q
  | _ => False

/-- Only named bytes of cluster memory may change, and no register but the targets; another context changes only where it waits. -/
structure SameUnit (s t : State) (w : Targets) (bytes : Nat → Prop) : Prop extends SameOwn s t w where
  cluster : ∀ q, ¬ bytes q → Mem.read t.cmem q = Mem.read s.cmem q
  physical : ∀ q, Mem.read t.phys q = Mem.read s.phys q
  translation : (t.roots, t.entries, t.headers) = (s.roots, s.entries, s.headers)
  others : ∀ c l, (c, l) ≠ s.cur → (s.ctx c l).st ≠ .waiting → t.ctx c l = s.ctx c l
end Sys2Proof.Machine
end

