-- ==== Sys2Proof/Certificates/Slice0/Obligations.lean ====
section
/-! DEFINITION. The statements for the provers. A statement that joins several groups of rules is the conjunction of the claims above it. -/
section
open Sys2Proof Sys2Proof.Machine

/-- R87, R85, R62: the results of the integer and logical operations, register and immediate forms, with their latencies. -/
def Claims.scalarResults : Prop :=
  (CompletesRR .add (fun x y => x + y) 1 ∧ CompletesRR .sub (fun x y => x - y) 1 ∧ CompletesRR .mul (fun x y => x * y) 3
    ∧ CompletesRR .mulh (fun x y => BitVec.ofInt 64 (x.toInt * y.toInt / 2 ^ 64)) 3
    ∧ CompletesRR .mulhN (fun x y => BitVec.ofNat 64 (x.toNat * y.toNat / 2 ^ 64)) 3
    ∧ CompletesRR .and (fun x y => x &&& y) 1 ∧ CompletesRR .or (fun x y => x ||| y) 1 ∧ CompletesRR .xor (fun x y => x ^^^ y) 1
    ∧ CompletesRR .andn (fun x y => x &&& ~~~y) 1
    ∧ CompletesRR .min (fun x y => if x.toInt ≤ y.toInt then x else y) 1
    ∧ CompletesRR .max (fun x y => if x.toInt ≤ y.toInt then y else x) 1
    ∧ CompletesRR .minN (fun x y => if x.toNat ≤ y.toNat then x else y) 1
    ∧ CompletesRR .maxN (fun x y => if x.toNat ≤ y.toNat then y else x) 1
    ∧ CompletesRR .shl (fun x y => x <<< (y.toNat % 64)) 1 ∧ CompletesRR .shr (fun x y => x >>> (y.toNat % 64)) 1
    ∧ CompletesRR .sra (fun x y => x.sshiftRight (y.toNat % 64)) 1 ∧ CompletesRR .rot (fun x y => x.rotateRight (y.toNat % 64)) 1
    ∧ CompletesR .clz (fun x => BitVec.ofNat 64 ((List.range 64).takeWhile fun i => !x.getLsbD (63 - i)).length)
    ∧ CompletesR .ctz (fun x => BitVec.ofNat 64 ((List.range 64).takeWhile fun i => !x.getLsbD i).length)
    ∧ CompletesR .popc (fun x => BitVec.ofNat 64 ((List.range 64).countP fun i => x.getLsbD i)))
  ∧ (CompletesRI .addImm12 (·.signExtend 64) (fun x y => x + y) 1 ∧ CompletesRI .andImm (·.signExtend 64) (fun x y => x &&& y) 1
    ∧ CompletesRI .orImm (·.signExtend 64) (fun x y => x ||| y) 1 ∧ CompletesRI .xorImm (·.signExtend 64) (fun x y => x ^^^ y) 1
    ∧ CompletesRI .andnImm (·.signExtend 64) (fun x y => x &&& ~~~y) 1
    ∧ CompletesRI .shlImm (·.setWidth 64) (fun x y => x <<< (y.toNat % 64)) 1
    ∧ CompletesRI .shrImm (·.setWidth 64) (fun x y => x >>> (y.toNat % 64)) 1
    ∧ CompletesRI .sraImm (·.setWidth 64) (fun x y => x.sshiftRight (y.toNat % 64)) 1
    ∧ CompletesRI .rotImm (·.setWidth 64) (fun x y => x.rotateRight (y.toNat % 64)) 1
    ∧ CompletesRI .mulImm (·.signExtend 64) (fun x y => x * y) 3
    ∧ CompletesRI .minImm (·.signExtend 64) (fun x y => if x.toInt ≤ y.toInt then x else y) 1
    ∧ CompletesRI .maxImm (·.signExtend 64) (fun x y => if x.toInt ≤ y.toInt then y else x) 1
    ∧ CompletesRI .minNImm (·.setWidth 64) (fun x y => if x.toNat ≤ y.toNat then x else y) 1
    ∧ CompletesRI .maxNImm (·.setWidth 64) (fun x y => if x.toNat ≤ y.toNat then y else x) 1)

/-- R88, R62: quotients truncate towards zero and the corners have the results of R88; latency 20. -/
def Claims.division : Prop :=
  CompletesRR .div (fun x y => if y = 0 then BitVec.allOnes 64 else BitVec.ofInt 64 (x.toInt.tdiv y.toInt)) 20
  ∧ CompletesRR .rem (fun x y => if y = 0 then x else BitVec.ofInt 64 (x.toInt.tmod y.toInt)) 20
  ∧ CompletesRR .divN (fun x y => if y = 0 then BitVec.allOnes 64 else BitVec.ofNat 64 (x.toNat / y.toNat)) 20
  ∧ CompletesRR .remN (fun x y => if y = 0 then x else BitVec.ofNat 64 (x.toNat % y.toNat)) 20

/-- R87, R85, R62: the results of the integer and logical operations, register and immediate forms, with their latencies. R88, R62: quotients
truncate towards zero and the corners have the results of R88; latency 20. -/
def Obligations.ScalarOperationResults : Prop := Claims.scalarResults ∧ Claims.division

/-- R89, R90, R91, R53: comparison results, selection and upper immediates. -/
def Claims.compareSelect : Prop :=
  (CompletesRR .cmpEq (fun x y => if x = y then 1 else 0) 1 ∧ CompletesRR .cmpNe (fun x y => if x = y then 0 else 1) 1
    ∧ CompletesRR .cmpLt (fun x y => if x.toInt < y.toInt then 1 else 0) 1
    ∧ CompletesRR .cmpGe (fun x y => if x.toInt < y.toInt then 0 else 1) 1
    ∧ CompletesRR .cmpLtu (fun x y => if x.toNat < y.toNat then 1 else 0) 1
    ∧ CompletesRR .cmpGeu (fun x y => if x.toNat < y.toNat then 0 else 1) 1
    ∧ CompletesRR .cmpAny (fun x y => if x &&& y = 0 then 0 else 1) 1 ∧ CompletesRR .cmpNone (fun x y => if x &&& y = 0 then 1 else 0) 1)
  ∧ (∀ d a b k sc s s1 s2 s3 t x y v, readS a s = .ok x s1 → readS b s1 = .ok y s2 → readP k.toNat s2 = .ok v s3 →
      writeSL d (if v.getLsbD 0 then x else y) 1 s3 = .ok ⟨⟩ t → Completes 4 (.sel d a b k sc) sc.toNat s t)
  ∧ (∀ d (i : BitVec 17) sc s t, writeSL d (i.signExtend 64 * 4096 + 2048) 1 s = .ok ⟨⟩ t → Completes 4 (.lui d i sc) sc.toNat s t)
  ∧ (∀ w r, w < 2 ^ 32 → w % 2 = 1 → w / 16 % 64 = 0x02 → 8 ≤ w / 2 ^ 28 → ∃ e, decode (Decode.leBytes 4 w ++ r) = .error e)

/-- R92 to R94: funnel shift and bit fields. A field is cut at bit 63; of width 0 or from offset 64 on it is empty. -/
def Claims.bitFields : Prop :=
  CompletesRX .fsh (fun x y z => ((x ++ y) >>> (z.toNat % 64)).setWidth 64)
  ∧ CompletesRX .bfx (fun x y z =>
      if z = 0 ∨ 64 ≤ y.toNat then 0 else BitVec.ofNat 64 (x.toNat / 2 ^ y.toNat % 2 ^ (min (y.toNat + min z.toNat 64) 64 - y.toNat)))
  ∧ CompletesRX .bfxs (fun x y z =>
      if z = 0 ∨ 64 ≤ y.toNat then 0
      else BitVec.ofInt 64 (Int.bmod (x.toNat / 2 ^ y.toNat) (2 ^ (min (y.toNat + min z.toNat 64) 64 - y.toNat))))
  ∧ (∀ d a b c sc s s1 s2 s3 s4 t x y z u, readS a s = .ok x s1 → readS b s1 = .ok y s2 → readS c s2 = .ok z s3 → readS d s3 = .ok u s4 →
      z ≠ 0 → y.toNat < 64 →
      writeSL d (BitVec.ofNat 64
        (u.toNat % 2 ^ y.toNat + x.toNat % 2 ^ (min (y.toNat + min z.toNat 64) 64 - y.toNat) * 2 ^ y.toNat
          + u.toNat / 2 ^ min (y.toNat + min z.toNat 64) 64 * 2 ^ min (y.toNat + min z.toNat 64) 64)) 1 s4 = .ok ⟨⟩ t →
      Completes 4 (.bfi d a b c sc) sc.toNat s t)
  ∧ (∀ d a b c sc s s1 s2 s3 t x y z u, readS a s = .ok x s1 → readS b s1 = .ok y s2 → readS c s2 = .ok z s3 → readS d s3 = .ok u t →
      z = 0 ∨ 64 ≤ y.toNat → Completes 4 (.bfi d a b c sc) sc.toNat s t)
  ∧ (∀ d a (w o : BitVec 6) sc s s1 t x, readS a s = .ok x s1 → o.toNat + w.toNat ≤ 64 →
      writeSL d (BitVec.ofNat 64 (x.toNat / 2 ^ o.toNat % 2 ^ w.toNat)) 1 s1 = .ok ⟨⟩ t → Completes 4 (.bfxImm d a w o sc) sc.toNat s t)

/-- R89, R90, R91, R53: comparison results, selection and upper immediates. R92 to R94: funnel shift and bit fields. A field is cut at bit 63;
of width 0 or from offset 64 on it is empty. -/
def Obligations.ComparisonsSelectionFields : Prop := Claims.compareSelect ∧ Claims.bitFields

/-- R95, R96, R86: tree-address instructions. -/
def Obligations.TreeAddressArithmetic : Prop :=
  CompletesRR .taz (fun x y => BitVec.ofNat 64 (24 * 2 ^ 51 + interleave (x.toNat % 2 ^ 24) (y.toNat % 2 ^ 24))) 1
  ∧ CompletesR .tax (fun x => BitVec.ofNat 64 (rowOf (canon x).2.2 * 2 ^ 24 + colOf (canon x).2.2))
  ∧ CompletesR .tadepth (fun x => BitVec.ofNat 64 (min (x.toNat / 2 ^ 51 % 32) 24))
  ∧ CompletesRR .taup (fun x y =>
      let k := (canon x).2.1 - y.toNat
      BitVec.ofNat 64 (makeTA (canon x).1 k (blockRow (canon x).2.2 k) (blockCol (canon x).2.2 k))) 1
  ∧ CompletesRI .taupImm (·.setWidth 64) (fun x y =>
      let k := (canon x).2.1 - y.toNat
      BitVec.ofNat 64 (makeTA (canon x).1 k (blockRow (canon x).2.2 k) (blockCol (canon x).2.2 k))) 1
  ∧ CompletesRR .tadown tadownOf 1 ∧ CompletesRI .tadownImm (·.setWidth 64) tadownOf 1
  ∧ CompletesRR .tanb tanbOf 1
  ∧ (∀ x y, (canon x).2.1 = 24 → tadownOf x y = BitVec.ofNat 64 (makeTA (canon x).1 24 (rowOf (canon x).2.2) (colOf (canon x).2.2)))
  ∧ (∀ x y, (canon x).2.1 < 24 → tadownOf x y = BitVec.ofNat 64 (makeTA (canon x).1 ((canon x).2.1 + 1)
      (blockRow (canon x).2.2 (canon x).2.1 * 2 + y.toNat / 2 % 2) (blockCol (canon x).2.2 (canon x).2.1 * 2 + y.toNat % 2)))
  ∧ (∀ x y : Word, tanbOf x y =
      let dep := (canon x).2.1
      let nr : Int := (blockRow (canon x).2.2 dep : Int) + (if y.toNat % 4 = 0 then -1 else if y.toNat % 4 = 2 then 1 else 0)
      let nc : Int := (blockCol (canon x).2.2 dep : Int) + (if y.toNat % 4 = 1 then 1 else if y.toNat % 4 = 3 then -1 else 0)
      BitVec.ofNat 64 (makeTA (canon x).1 dep (nr % 2 ^ dep).toNat (nc % 2 ^ dep).toNat
        + (if 0 ≤ nr ∧ nr < 2 ^ dep ∧ 0 ≤ nc ∧ nc < 2 ^ dep then 0 else 2 ^ 48)))

/-- R56: a scalar instruction whose predicate bit is 0 writes nothing and goes on. -/
def Claims.predicatedOff : Prop :=
  (SkipsRR .add ∧ SkipsRR .sub ∧ SkipsRR .mul ∧ SkipsRR .mulh ∧ SkipsRR .mulhN ∧ SkipsRR .div ∧ SkipsRR .divN ∧ SkipsRR .rem
    ∧ SkipsRR .remN ∧ SkipsRR .and ∧ SkipsRR .or ∧ SkipsRR .xor ∧ SkipsRR .andn ∧ SkipsRR .min ∧ SkipsRR .max ∧ SkipsRR .minN
    ∧ SkipsRR .maxN ∧ SkipsRR .shl ∧ SkipsRR .shr ∧ SkipsRR .sra ∧ SkipsRR .rot ∧ SkipsR .clz ∧ SkipsR .ctz ∧ SkipsR .popc)
  ∧ (SkipsRR .taz ∧ SkipsR .tax ∧ SkipsR .tadepth ∧ SkipsRR .tanb ∧ SkipsRR .taup ∧ SkipsRR .tadown)
  ∧ (SkipsRR .cmpEq ∧ SkipsRR .cmpNe ∧ SkipsRR .cmpLt ∧ SkipsRR .cmpGe ∧ SkipsRR .cmpLtu ∧ SkipsRR .cmpGeu ∧ SkipsRR .cmpAny
    ∧ SkipsRR .cmpNone ∧ SkipsR .vgl)
  ∧ (∀ n v s t, readP n s = .ok v t → t = s)

/-- R60: each 16-bit instruction has the effect of the 32-bit one that it stands for. -/
def Claims.shortForms : Prop :=
  (∀ d a s s1 t x, readS a s = .ok x s1 → writeSL d x 1 s1 = .ok ⟨⟩ t → Completes 2 (.mov d a) 0 s t)
  ∧ Completes16 .add16 (fun x y => x + y) ∧ Completes16 .sub16 (fun x y => x - y) ∧ Completes16 .and16 (fun x y => x &&& y)
  ∧ Completes16 .or16 (fun x y => x ||| y) ∧ Completes16 .xor16 (fun x y => x ^^^ y)
  ∧ (∀ d (i : BitVec 5) s t, writeSL d (i.signExtend 64) 1 s = .ok ⟨⟩ t → Completes 2 (.li d i) 0 s t)
  ∧ Completes16I .addImm5 (·.signExtend 64) (fun x y => x + y)
  ∧ Completes16I .shl16 (·.setWidth 64) (fun x y => x <<< y.toNat) ∧ Completes16I .shr16 (·.setWidth 64) (fun x y => x >>> y.toNat)
  ∧ Completes16I .sra16 (·.setWidth 64) (fun x y => x.sshiftRight y.toNat)
  ∧ (∀ s, Completes 2 .nop 0 s s)

/-- R56: a scalar instruction whose predicate bit is 0 writes nothing and goes on. R60: each 16-bit instruction has the effect of the 32-bit
one that it stands for. -/
def Obligations.PredicatedOffAndShortForms : Prop := Claims.predicatedOff ∧ Claims.shortForms

/-- R63, R65, R66, R73, R202, R228: what a scalar source reads, and when it waits or traps. That the read of a failed fship's result with STATUS.TD
set joins the pending traps and goes on is the model's reading (log 82); that a pop waits for an open port, log 81. -/
def Claims.scalarSource : Prop :=
  (∀ (r : BitVec 5) s, r.toNat < 28 → s.me.pendingTo (.scalar r.toNat) = none → Map.get? s.me.poisoned r.toNat = none →
      readS r s = .ok (if r = 0 then 0 else Map.getD s.me.s r.toNat 0) s)
  ∧ (∀ (r : BitVec 5) s q n, r.toNat < 28 → s.me.pendingTo (.scalar r.toNat) = some q → q.ready = some n → s.me.sbc = true →
      readS r s = .error (.trap { cause := 0x04, val := BitVec.ofNat 64 r.toNat }) s)
  ∧ (∀ (r : BitVec 5) s q n, r.toNat < 28 → s.me.pendingTo (.scalar r.toNat) = some q → q.ready = some n → s.me.sbc = false →
      Map.get? s.me.poisoned r.toNat = none → readS r s = .ok (if r = 0 then 0 else Map.getD s.me.s r.toNat 0) s)
  ∧ (∀ (r : BitVec 5) s q, r.toNat < 28 → s.me.pendingTo (.scalar r.toNat) = some q → q.ready = none → readS r s = .error .stall s)
  ∧ (∀ (r : BitVec 5) s f q, 28 ≤ r.toNat → Map.getD s.here.inq (r.toNat - 28) [] = f :: q →
      readS r s = .ok (f.data.setWidth 64) (s.modCore s.cur.1 fun k => { k with inq := Map.set k.inq (r.toNat - 28) q }))
  ∧ (∀ (r : BitVec 5) s g n, 28 ≤ r.toNat → Map.getD s.here.inq (r.toNat - 28) [] = [] → s.gangOf s.cur.1 = some g →
      neighbour s.cur.1 (r.toNat - 28) = some n → g.holds n = true → readS r s = .error .stall s)
  ∧ (∀ (r : BitVec 5) s id, 28 ≤ r.toNat → Map.getD s.here.inq (r.toNat - 28) [] = [] →
      Map.getD s.here.ports (r.toNat - 28) .closed = .open id → readS r s = .error .stall s)
  ∧ (∀ (r : BitVec 5) s, 28 ≤ r.toNat → Map.getD s.here.inq (r.toNat - 28) [] = [] → neighbour s.cur.1 (r.toNat - 28) = none →
      (∀ id, Map.getD s.here.ports (r.toNat - 28) .closed ≠ .open id) →
      readS r s = .error (.trap { cause := 0x09, val := BitVec.ofNat 64 r.toNat }) s)
  ∧ (∀ (r : BitVec 5) s n g, 28 ≤ r.toNat → Map.getD s.here.inq (r.toNat - 28) [] = [] → neighbour s.cur.1 (r.toNat - 28) = some n →
      s.gangOf s.cur.1 = some g → g.holds n = false → (∀ id, Map.getD s.here.ports (r.toNat - 28) .closed ≠ .open id) →
      readS r s = .error (.trap { cause := 0x09, val := BitVec.ofNat 64 r.toNat }) s)
  ∧ (∀ (r : BitVec 5) s ta, r.toNat < 28 → s.me.pendingTo (.scalar r.toNat) = none → Map.get? s.me.poisoned r.toNat = some ta →
      (s.me.td = false → readS r s = .error (.poisonRead r.toNat { cause := 0x10, val := ta }) s)
      ∧ (s.me.td = true → readS r s = .ok (s.me.sreg r.toNat) (s.modCtx s.cur.1 s.cur.2 fun x =>
          { x with poisoned := Map.del x.poisoned r.toNat, pendTraps := x.pendTraps ++ [{ cause := 0x10, val := ta }] })))

/-- R62, R63, R65, R66: where a scalar result of latency L goes. That a push goes to an armed or open port is log 81. A fixed-latency one lands in the register at the core cycle w + L and
not before. -/
def Claims.scalarResultPlace : Prop :=
  (∀ v lat s, writeSL 0 v lat s = .ok ⟨⟩ s)
  ∧ (∀ (r : BitVec 5) v s, 0 < r.toNat → r.toNat < 28 → s.me.pendingTo (.scalar r.toNat) = none →
      writeSL r v 1 s = .ok ⟨⟩ (s.modCtx s.cur.1 s.cur.2 fun x =>
        { x with s := Map.set x.s r.toNat v, poisoned := Map.del x.poisoned r.toNat }))
  ∧ (∀ (r : BitVec 5) v lat s, 0 < r.toNat → r.toNat < 28 → 1 < lat → s.me.pendingTo (.scalar r.toNat) = none →
      ∃ t q, writeSL r v lat s = .ok ⟨⟩ t ∧ t.me.pend = s.me.pend ++ [q] ∧ q.dest = .scalar r.toNat
        ∧ q.ready = some (s.here.cycle + lat) ∧ t.me.sreg r.toNat = s.me.sreg r.toNat
        ∧ (∀ x : Ctx, x.pend = [q] → ((x.atCycle (s.here.cycle + lat)).sreg r.toNat = v ∧ (x.atCycle (s.here.cycle + lat)).pend = [])
            ∧ ∀ n < s.here.cycle + lat, (x.atCycle n).sreg r.toNat = x.sreg r.toNat ∧ (x.atCycle n).pend = [q]))
  ∧ (∀ (r : BitVec 5) v lat s q, 0 < r.toNat → r.toNat < 28 → s.me.pendingTo (.scalar r.toNat) = some q →
      writeSL r v lat s = .error .stall s)
  ∧ (∀ (r : BitVec 5) v lat s n g, 28 ≤ r.toNat → Map.getD s.here.ports (r.toNat - 28) .closed = .closed →
      neighbour s.cur.1 (r.toNat - 28) = some n → s.gangOf s.cur.1 = some g → g.holds n = true →
      (Map.getD s.here.outq (r.toNat - 28) []).length < 16 →
      ∃ t f, writeSL r v lat s = .ok ⟨⟩ t ∧ t.here.outq = Map.set s.here.outq (r.toNat - 28) (Map.getD s.here.outq (r.toNat - 28) [] ++ [f])
        ∧ f.data = v.setWidth 512 ∧ f.vtag = none ∧ f.dst = n ∧ f.inDir = (r.toNat - 28 + 2) % 4)
  ∧ (∀ (r : BitVec 5) v lat s n g, 28 ≤ r.toNat → Map.getD s.here.ports (r.toNat - 28) .closed = .closed →
      neighbour s.cur.1 (r.toNat - 28) = some n → s.gangOf s.cur.1 = some g → g.holds n = true →
      16 ≤ (Map.getD s.here.outq (r.toNat - 28) []).length → writeSL r v lat s = .error .stall s)
  ∧ (∀ (r : BitVec 5) v lat s n g id, 28 ≤ r.toNat →
      (Map.getD s.here.ports (r.toNat - 28) .closed = .armed id ∨ Map.getD s.here.ports (r.toNat - 28) .closed = .open id) →
      s.gangOf s.cur.1 = some g → g.toPhys id = some n → (Map.getD s.here.outq (r.toNat - 28) []).length < 16 →
      ∃ t f, writeSL r v lat s = .ok ⟨⟩ t ∧ t.here.outq = Map.set s.here.outq (r.toNat - 28) (Map.getD s.here.outq (r.toNat - 28) [] ++ [f])
        ∧ f.data = v.setWidth 512 ∧ f.vtag = none ∧ f.stream = true ∧ f.dst = n
        ∧ Map.getD t.here.ports (r.toNat - 28) .closed = .open id)
  ∧ (∀ (r : BitVec 5) v lat s, 28 ≤ r.toNat → Map.getD s.here.ports (r.toNat - 28) .closed = .closed →
      (neighbour s.cur.1 (r.toNat - 28) = none
        ∨ ∃ n g, neighbour s.cur.1 (r.toNat - 28) = some n ∧ s.gangOf s.cur.1 = some g ∧ g.holds n = false) →
      writeSL r v lat s = .error (.trap { cause := 0x09, val := BitVec.ofNat 64 r.toNat }) s)

/-- R63, R65, R66, R73, R202, R228: what a scalar source reads, and when it waits or traps. That the read of a failed fship's result with
STATUS.TD set joins the pending traps and goes on is the model's reading (log 82); that a pop waits for an open port, log 81. R62, R63,
R65, R66: where a scalar result of latency L goes. That a push goes to an armed or open port is log 81. A fixed-latency one lands in the
register at the core cycle w + L and not before. -/
def Obligations.ScalarSourcesAndResults : Prop := Claims.scalarSource ∧ Claims.scalarResultPlace

/-- R107, R61: the end check, and what going on leaves. -/
def Obligations.EndCheckAfterEachInstruction : Prop :=
  (∀ (x : Ctx) (next : BitVec 22),
    let f := fun (q : Map Word × BitVec 22) (k : Nat) =>
      if Map.getD q.1 k 0 ≠ 0 ∧ q.2 = Map.getD x.le k 0 then
        (Map.set q.1 k (Map.getD q.1 k 0 - 1), if Map.getD q.1 k 0 - 1 ≠ 0 then Map.getD x.ls k 0 else q.2)
      else q
    endCheck x next = { x with lc := ([2, 1, 0].foldl f (x.lc, next)).1, pc := ([2, 1, 0].foldl f (x.lc, next)).2 })
  ∧ (∀ (s : State) c l next k, (s.goOn c l next k).ctx c l =
      endCheck { s.ctx c l with st := .ready, wait := .none, op := .none, nextIssue := (s.core c).cycle + k + 1,
                                rtcCount := (s.ctx c l).rtcCount + 1, alignUntil := none } next)
  ∧ (∀ (s : State) c l target k, (s.jumpTo c l target k).ctx c l =
      { s.ctx c l with st := .ready, wait := .none, op := .none, pc := target
                       nextIssue := max (s.ctx c l).nextIssue ((s.core c).cycle + k + 1), rtcCount := (s.ctx c l).rtcCount + 1 })
  ∧ (∀ (s : State) c l next k, let pc := (endCheck (s.ctx c l) next).pc
      let b := ((s.goOn c l next k).core c).ibuf
      (pc ≠ next → (s.core c).buffered pc = false → b = none) ∧ ((pc = next ∨ (s.core c).buffered pc = true) → b = (s.core c).ibuf))
  ∧ (∀ (k : Core) (pc : BitVec 22) base bytes bad, k.ibuf = some (base, bytes, bad) →
      (k.buffered pc = true ↔ base ≤ pc.toNat ∧ pc.toNat < base + 64))

/-- R227, R64, R225: taking a trap. -/
def Obligations.TrapEntrySavesAndTransfers : Prop :=
  (∀ (s : State) c l (t : TrapInfo) pc, (s.ctx c l).td = false → (s.ctx c l).rtc = false → (s.ctx c l).tvec ≠ 0 →
      (s.takeTrap c l t pc).ctx c l =
        { s.ctx c l with trappc := pc, trapcause := BitVec.ofNat 16 (t.detail * 256 + t.cause), trapval := t.val, td := true
                         pc := (s.ctx c l).tvec, st := .ready, wait := .none, op := .none, alignUntil := none
                         nextIssue := max (s.ctx c l).nextIssue ((s.core c).cycle + 1), rtcCount := (s.ctx c l).rtcCount + 1 }
      ∧ (s.takeTrap c l t pc).core c = { (s.core c).setBank l ((s.takeTrap c l t pc).ctx c l) with ibuf := none }
      ∧ (∀ k, k ≠ c → (s.takeTrap c l t pc).core k = s.core k)
      ∧ (s.takeTrap c l t pc).cmem = s.cmem ∧ (s.takeTrap c l t pc).phys = s.phys ∧ (s.takeTrap c l t pc).net = s.net)
  ∧ (∀ (s : State) (t : TrapInfo), t.event = none → s.me.pend = [] → s.afterTrap t = s.takeTrap s.cur.1 s.cur.2 t s.me.pc)
  ∧ (∀ (s : State) (t : TrapInfo), t.event = none → s.me.pend ≠ [] → s.me.td = false → s.me.rtc = false → s.me.tvec ≠ 0 →
      s.afterTrap t = s.modCtx s.cur.1 s.cur.2 fun x => { x with op := .trap t false })

/-- R230, R231, R235: a trap with STATUS.TD or STATUS.RTC set, or with TVEC.ADDR = 0, stops the core instead: its contexts keep every
register, the unfinished instruction has no further steps, and the record holds cause, TRAPVAL and TRAPPC. A context that waits in mcheck for its array's queue, which the stop may suspend, is
the only one that may change (R321). -/
def Obligations.TrapTurnedIntoStop : Prop :=
  ∀ (s : State) c l (t : TrapInfo) pc, ((s.ctx c l).td = true ∨ (s.ctx c l).rtc = true ∨ (s.ctx c l).tvec = 0) →
    ((s.takeTrap c l t pc).core c).stop = some { level := l, info := t, pc := pc }
    ∧ ((∀ k m d, (s.ctx k m).wait ≠ .mcheck d) →
        (s.takeTrap c l t pc).core c =
          { (s.core c).setBank l { s.ctx c l with op := .none } with stop := some { level := l, info := t, pc := pc } }
        ∧ ∀ k, k ≠ c → (s.takeTrap c l t pc).core k = s.core k)
    ∧ (s.takeTrap c l t pc).quad (quadOf c) = (s.quad (quadOf c)).stopped c
    ∧ (s.takeTrap c l t pc).mod = { s.mod with snapWords := s.mod.snapWords ++ [{ source := 2 }] }
    ∧ (s.takeTrap c l t pc).cmem = s.cmem ∧ (s.takeTrap c l t pc).phys = s.phys
    ∧ (∀ g, s.gangOf c = some g → (s.takeTrap c l t pc).net.notices = s.net.notices ++
        g.cores.map fun k => (k, noticeWord 2 t.cause t.detail (s.coreId c), t.val, pc.setWidth 64))

/-- R111, R224, R227: trap k raises BREAK with TRAPVAL := k and TRAPPC the address of the trap itself. -/
def Claims.trapInstruction : Prop :=
  ∀ (k : BitVec 8) sc s, s.me.pend = [] → s.me.td = false → s.me.rtc = false → s.me.tvec ≠ 0 →
    ∃ t, exec (.trap k sc) s = .next t ∧ t.me.trappc = s.me.pc ∧ t.me.trapcause = 0x16 ∧ t.me.trapval = k.setWidth 64
      ∧ t.me.td = true ∧ t.me.pc = s.me.tvec ∧ t.here.ibuf = none

/-- R110, R229, R64: returns from a trap handler. -/
def Claims.returns : Prop :=
  (∀ (s : State) c l target k, (s.returnFromTrap c l target k).ctx c l =
      { s.ctx c l with td := false, pc := target, nextIssue := (s.core c).cycle + k + 1, rtcCount := (s.ctx c l).rtcCount + 1 }
      ∧ ((s.returnFromTrap c l target k).core c).ibuf = none)
  ∧ (∀ sc s, s.me.td = true → s.me.pend = [] →
      exec (.rft sc) s = .next (s.returnFromTrap s.cur.1 s.cur.2 s.me.trappc sc.toNat))
  ∧ (∀ sc s, s.me.td = false → Traps (.rft sc) s { cause := 0x01, val := BitVec.ofNat 64 (Instr.rft sc).word })
  ∧ (∀ a sc s x, s.me.td = true → s.me.pend = [] → readS a s = .ok x s → x ≠ 0 → LegalTarget x.toNat →
      exec (.eret a sc) s = .next (s.returnFromTrap s.cur.1 s.cur.2 (BitVec.ofNat 22 x.toNat) sc.toNat))
  ∧ (∀ a sc s x, s.me.td = true → readS a s = .ok x s →
      (0x3FFFFE < x.toNat → Traps (.eret a sc) s { cause := 0x06, val := x })
      ∧ (x.toNat ≤ 0x3FFFFE → x.toNat % 2 = 1 → Traps (.eret a sc) s { cause := 0x05, val := x }))
  ∧ (∀ a sc s, s.me.td = true → readS a s = .ok 0 s →
      (s.modCtx s.cur.1 s.cur.2 fun x => { x with td := false }).mayEnd s.cur.1 s.cur.2 = true →
      Finishes (.eret a sc) sc.toNat s (s.modCtx s.cur.1 s.cur.2 fun x => { x with td := false }))
  ∧ (∀ a sc s, s.me.td = false → Traps (.eret a sc) s { cause := 0x01, val := BitVec.ofNat 64 (Instr.eret a sc).word })

/-- R109, R40, R111: isync, align and prio. -/
def Claims.pipeControl : Prop :=
  (∀ sc s, s.performed s.cur.1 s.cur.2 = true →
      Completes 4 (.isync sc) sc.toNat s (s.modCore s.cur.1 fun k => { k with ibuf := none }))
  ∧ (∀ sc s, s.performed s.cur.1 s.cur.2 = false → Waits (.isync sc) s)
  ∧ (∀ (k : BitVec 8) sc s, k = 0 ∨ s.alignMet s.cur.1 s.cur.2 k.toNat s.me.pc = true →
      Completes 4 (.align k sc) sc.toNat s (s.modCtx s.cur.1 s.cur.2 fun x => { x with aligned := some (k.toNat, s.me.pc) }))
  ∧ (∀ (k : BitVec 8) sc s, k ≠ 0 → s.alignMet s.cur.1 s.cur.2 k.toNat s.me.pc = false →
      ∃ t, exec (.align k sc) s = .next t ∧ t.me.alignUntil = some (s.here.cycle + 8 * k.toNat) ∧ t.me.st = .ready ∧ t.me.pc = s.me.pc)
  ∧ (∀ c l s n, (s.ctx c l).alignUntil = some n → n ≤ (s.core c).cycle → exec (.alignTimeout c l) s = .next (s.finishWait c l))
  ∧ (∀ (c : BitVec 2) sc s,
      Completes 4 (.prio c sc) sc.toNat s (s.modCtx s.cur.1 s.cur.2 fun x => { x with prio := min c.toNat s.cur.2 }))

/-- R111, R224, R227: trap k raises BREAK with TRAPVAL := k and TRAPPC the address of the trap itself. R110, R229, R64: returns from a trap
handler. R109, R40, R111: isync, align and prio. -/
def Obligations.TrapReturnAndPipeControl : Prop := Claims.trapInstruction ∧ Claims.returns ∧ Claims.pipeControl

/-- R102, R103, R51, R60: branches, calls, and the ends of routines at ret with target 0. -/
def Obligations.BranchesAndCalls : Prop :=
  (∀ o sc s, LegalTarget (s.me.pc.toNat + o.toInt * 2) →
      Transfers (.bra o sc) sc.toNat s s (BitVec.ofInt 22 (s.me.pc.toNat + o.toInt * 2)))
  ∧ (∀ o sc s t, LegalTarget (s.me.pc.toNat + o.toInt * 2) → writeS 1 (BitVec.ofNat 64 (s.me.pc.toNat + 4)) s = .ok ⟨⟩ t →
      Transfers (.call o sc) sc.toNat s t (BitVec.ofInt 22 (s.me.pc.toNat + o.toInt * 2)))
  ∧ CompletesBranch .bcEq (fun x y => x = y) ∧ CompletesBranch .bcNe (fun x y => x ≠ y)
  ∧ CompletesBranch .bcLt (fun x y => x.toInt < y.toInt) ∧ CompletesBranch .bcGe (fun x y => y.toInt ≤ x.toInt)
  ∧ CompletesBranch .bcLtu (fun x y => x.toNat < y.toNat) ∧ CompletesBranch .bcGeu (fun x y => y.toNat ≤ x.toNat)
  ∧ CompletesBranch .bcAny (fun x y => x &&& y ≠ 0) ∧ CompletesBranch .bcNone (fun x y => x &&& y = 0)
  ∧ (∀ d a sc s s1 t x, readS a s = .ok x s1 → LegalTarget x.toNat → writeS d (BitVec.ofNat 64 (s.me.pc.toNat + 4)) s1 = .ok ⟨⟩ t →
      Transfers (.callr d a sc) sc.toNat s t (BitVec.ofNat 22 x.toNat))
  ∧ (∀ a sc s t x, readS a s = .ok x t → x ≠ 0 → LegalTarget x.toNat → Transfers (.ret a sc) sc.toNat s t (BitVec.ofNat 22 x.toNat))
  ∧ (∀ a s t x, readS a s = .ok x t → x ≠ 0 → LegalTarget x.toNat → Transfers (.ret16 a) 0 s t (BitVec.ofNat 22 x.toNat))
  ∧ (∀ a sc s t, readS a s = .ok 0 t → t.mayEnd t.cur.1 t.cur.2 = true → Finishes (.ret a sc) sc.toNat s t)
  ∧ (∀ a s t, readS a s = .ok 0 t → t.mayEnd t.cur.1 t.cur.2 = true → Finishes (.ret16 a) 0 s t)
  ∧ (∀ o sc s, let y := (s.me.pc.toNat : Int) + o.toInt * 2
      (y < 0 ∨ 0x3FFFFE < y) → Traps (.bra o sc) s { cause := 0x06, val := BitVec.ofInt 64 y }
        ∧ Traps (.call o sc) s { cause := 0x06, val := BitVec.ofInt 64 y })
  ∧ (∀ d a sc s s1 t x, readS a s = .ok x s1 → writeS d (BitVec.ofNat 64 (s.me.pc.toNat + 4)) s1 = .ok ⟨⟩ t →
      (0x3FFFFE < x.toNat → Traps (.callr d a sc) s { cause := 0x06, val := x })
      ∧ (x.toNat ≤ 0x3FFFFE → x.toNat % 2 = 1 → Traps (.callr d a sc) s { cause := 0x05, val := x }))
  ∧ (∀ d a sc s s1 u x f, readS a s = .ok x s1 → writeS d (BitVec.ofNat 64 (s.me.pc.toNat + 4)) s1 = .error (.trap f) u →
      Traps (.callr d a sc) s f)
  ∧ (∀ a sc s t x, readS a s = .ok x t → x ≠ 0 →
      (0x3FFFFE < x.toNat → Traps (.ret a sc) s { cause := 0x06, val := x } ∧ Traps (.ret16 a) s { cause := 0x06, val := x })
      ∧ (x.toNat ≤ 0x3FFFFE → x.toNat % 2 = 1 → Traps (.ret a sc) s { cause := 0x05, val := x } ∧ Traps (.ret16 a) s { cause := 0x05, val := x }))

/-- R106, R104, R107, R116, R219: hardware loops and jump tables. That a table read in a mailbox area raises LOCAL_RANGE, and one that meets a
destination range RANGE_LOCKED, is the model's choice between R104 and R116 and R219 (log 86). -/
def Claims.loopAndTable : Prop :=
  (∀ a (l : BitVec 2) (e : BitVec 12) sc s t n, readS a s = .ok n t → LegalTarget (s.me.pc.toNat + e.toNat * 2 : Nat) →
      let le := BitVec.ofNat 22 (s.me.pc.toNat + e.toNat * 2)
      let ls := s.me.pc + 4
      exec (.loop a l e sc) s = .next
        (((t.modCtx t.cur.1 t.cur.2 fun x =>
            { x with ls := Map.set x.ls l.toNat ls, le := Map.set x.le l.toNat le, lc := Map.set x.lc l.toNat n }).goOn
          s.cur.1 s.cur.2 (if n = 0 then le else ls) sc.toNat).modCore s.cur.1 fun k => k.transfer (k.bank s.cur.2).pc))
  ∧ (∀ a (l : BitVec 2) (e : BitVec 12) sc s t n, readS a s = .ok n t → 0x3FFFFE < s.me.pc.toNat + e.toNat * 2 →
      Traps (.loop a l e sc) s { cause := 0x06, val := BitVec.ofNat 64 (s.me.pc.toNat + e.toNat * 2) })
  ∧ (∀ a b sc s s1 s2 t x i n, readS a s = .ok x s1 → readS b s1 = .ok i s2 → x.toNat % 4 = 0 →
      tableLoad (x.toNat % 2 ^ 22) s2 = .ok n t → n ≤ i.toNat → Completes 4 (.jt a b sc) sc.toNat s t)
  ∧ (∀ a b sc s s1 s2 s3 t x i n v, readS a s = .ok x s1 → readS b s1 = .ok i s2 → x.toNat % 4 = 0 →
      tableLoad (x.toNat % 2 ^ 22) s2 = .ok n s3 → i.toNat < n → tableLoad (x.toNat % 2 ^ 22 + 4 + 4 * i.toNat) s3 = .ok v t →
      v < 2 ^ 64 → LegalTarget v → Transfers (.jt a b sc) sc.toNat s t (BitVec.ofNat 22 v))
  ∧ (∀ a b sc s s1 t x i, readS a s = .ok x s1 → readS b s1 = .ok i t → x.toNat % 4 ≠ 0 →
      Traps (.jt a b sc) s { cause := 0x0B, val := BitVec.ofNat 64 (x.toNat % 2 ^ 22) })
  ∧ (∀ e s, e % 4 = 0 → e < 2 ^ 22 → s.inMailbox (clusterOf s.cur.1) e 4 = true →
      ∃ u, tableLoad e s = .error (.trap { cause := 0x06, val := BitVec.ofNat 64 e }) u)
  ∧ (∀ e s, e % 4 = 0 → e < 2 ^ 22 → s.inMailbox (clusterOf s.cur.1) e 4 = false → s.lockedLocal (clusterOf s.cur.1) e 4 false = true →
      ∃ u, tableLoad e s = .error (.trap { cause := 0x0A, val := BitVec.ofNat 64 e }) u)
  ∧ (∀ e s, e % 4 = 0 → 2 ^ 22 ≤ e → e < 2 ^ 64 → ∃ u, tableLoad e s = .error (.trap { cause := 0x0B, val := BitVec.ofNat 64 e }) u)

/-- R110, R21, R64: halt ends the routine once nothing of the context is left under way, and waits until then. -/
def Claims.halts : Prop :=
  (∀ sc s, s.mayEnd s.cur.1 s.cur.2 = true → Finishes (.halt sc) sc.toNat s s)
  ∧ (∀ s, s.mayEnd s.cur.1 s.cur.2 = true → Finishes .halt16 0 s s)
  ∧ (∀ sc s, s.mayEnd s.cur.1 s.cur.2 = false → Waits (.halt sc) s) ∧ (∀ s, s.mayEnd s.cur.1 s.cur.2 = false → Waits .halt16 s)
  ∧ (∀ (s : State) c l, (s.ctx c l).pend ≠ [] → s.mayEnd c l = false)

/-- R106, R104, R107, R116, R219: hardware loops and jump tables. That a table read in a mailbox area raises LOCAL_RANGE, and one that meets a
destination range RANGE_LOCKED, is the model's choice between R104 and R116 and R219 (log 86). R110, R21, R64: halt ends the routine once
nothing of the context is left under way, and waits until then. -/
def Obligations.LoopsTablesHalts : Prop := Claims.loopAndTable ∧ Claims.halts

/-- R69, R67, R84, R112, R8: control registers. A write to LC, LS or LE takes effect after the end check of the same instruction. That mxc reads its
source before it writes d is the model's reading (log 72). -/
def Claims.controlRegisters : Prop :=
  (∀ d (n : BitVec 12) sc s t, writeSL d (s.cr s.cur.1 s.cur.2 n.toNat) 1 s = .ok ⟨⟩ t → Completes 4 (.mfc d n sc) sc.toNat s t)
  ∧ (∀ a (n : BitVec 12) sc s t v, readS a s = .ok v t → (n.toNat < 0x20 ∨ 0x28 < n.toNat) →
      Completes 4 (.mtc a n sc) sc.toNat s (t.setCr t.cur.1 t.cur.2 n.toNat v))
  ∧ (∀ a (n : BitVec 12) sc s t v, readS a s = .ok v t → 0x20 ≤ n.toNat → n.toNat ≤ 0x28 →
      exec (.mtc a n sc) s = .next ((t.goOn s.cur.1 s.cur.2 (s.me.pc + 4) sc.toNat).modCtx s.cur.1 s.cur.2 fun x => x.setLoop n.toNat v))
  ∧ (∀ d a (n : BitVec 12) sc s s1 t v, readS a s = .ok v s1 → writeSL d (s.cr s.cur.1 s.cur.2 n.toNat) 1 s1 = .ok ⟨⟩ t →
      (n.toNat < 0x20 ∨ 0x28 < n.toNat) → Completes 4 (.mxc d a n sc) sc.toNat s (t.setCr t.cur.1 t.cur.2 n.toNat v))
  ∧ (∀ d a (n : BitVec 12) sc s s1 t v, readS a s = .ok v s1 → writeSL d (s.cr s.cur.1 s.cur.2 n.toNat) 1 s1 = .ok ⟨⟩ t →
      0x20 ≤ n.toNat → n.toNat ≤ 0x28 →
      exec (.mxc d a n sc) s = .next ((t.goOn s.cur.1 s.cur.2 (s.me.pc + 4) sc.toNat).modCtx s.cur.1 s.cur.2 fun x => x.setLoop n.toNat v))

/-- R67, R97, R105, R199, R225, R8: the fields of control registers. What is read after a write keeps only the RW fields, clamped as the
maps say; read-only registers keep their value; VALID and MORE of GUARDREC are cleared by writing 1. That VL, PRIO and BBPOS are cut to their
fields before they are clamped is the model's reading (log 96). -/
def Claims.controlFields : Prop :=
  (∀ (s : State) c l v, l < 4 →
    (s.setCr c l 0x000 v).cr c l 0x000 = BitVec.ofNat 64 ((if (s.ctx c l).td then 16 else 0) + (if (s.ctx c l).rtc then 8 else 0)
        + v.toNat / 4 % 2 * 4 + l)
    ∧ (s.setCr c l 0x001 v).cr c l 0x001 = BitVec.ofNat 64 (min (v.toNat % 4) l)
    ∧ (s.setCr c l 0x002 v).cr c l 0x002 = BitVec.ofNat 64 (min (v.toNat % 512) 256)
    ∧ (s.setCr c l 0x008 v).cr c l 0x008 = BitVec.ofNat 64 (v.toNat % 2 ^ 22 / 2 * 2)
    ∧ (s.setCr c l 0x009 v).cr c l 0x009 = BitVec.ofNat 64 (v.toNat % 2 ^ 16)
    ∧ (s.setCr c l 0x00A v).cr c l 0x00A = v
    ∧ (s.setCr c l 0x00B v).cr c l 0x00B = BitVec.ofNat 64 (v.toNat % 2 ^ 22 / 2 * 2)
    ∧ (s.setCr c l 0x030 v).cr c l 0x030 = v ∧ (s.setCr c l 0x031 v).cr c l 0x031 = v
    ∧ (s.setCr c l 0x032 v).cr c l 0x032 = BitVec.ofNat 64 (min (v.toNat % 256) 128)
    ∧ (s.setCr c l 0x033 v).cr c l 0x033 = BitVec.ofNat 64 (v.toNat % 2 ^ 22)
    ∧ (s.setCr c l 0x034 v).cr c l 0x034 = BitVec.ofNat 64 (v.toNat % 2 ^ 22)
    ∧ (s.setCr c l 0x040 v).cr c l 0x040 = BitVec.ofNat 64 (v.toNat % 16)
    ∧ (s.setCr c l 0x049 v).cr c l 0x049 = BitVec.ofNat 64 (v.toNat % 2 ^ 32)
    ∧ (s.setCr c l 0x058 v).cr c l 0x058 = BitVec.ofNat 64 (v.toNat % 2 ^ 32)
    ∧ (s.setCr c l 0x059 v).cr c l 0x059 = BitVec.ofNat 64 (v.toNat % 2 ^ 32)
    ∧ (s.setCr c l 0x060 v).cr c l 0x060 = s.cr c l 0x060 &&& ~~~(v &&& 0xC000000000000000))
  ∧ (∀ (s : State) c l n v, n ∈ [0x003, 0x004, 0x005, 0x00C, 0x010, 0x011, 0x012, 0x013, 0x014, 0x015, 0x016, 0x017, 0x048, 0x050, 0x051,
      0x070, 0x100, 0x101, 0x102, 0x110] → (s.setCr c l n v).cr c l n = s.cr c l n)
  ∧ (∀ (x : Ctx) n v, n < 3 → Map.getD (x.setLoop (0x20 + n) v).lc n 0 = v ∧
      ((Map.getD (x.setLoop (0x23 + n) v).ls n 0).toNat = v.toNat % 2 ^ 22 / 2 * 2)
      ∧ ((Map.getD (x.setLoop (0x26 + n) v).le n 0).toNat = v.toNat % 2 ^ 22 / 2 * 2))

/-- R69, R67, R84, R112, R8: control registers. A write to LC, LS or LE takes effect after the end check of the same instruction. That mxc
reads its source before it writes d is the model's reading (log 72). R67, R97, R105, R199, R225, R8: the fields of control registers. What
is read after a write keeps only the RW fields, clamped as the maps say; read-only registers keep their value; VALID and MORE of GUARDREC
are cleared by writing 1. That VL, PRIO and BBPOS are cut to their fields before they are clamped is the model's reading (log 96). -/
def Obligations.ControlRegisterAccess : Prop := Claims.controlRegisters ∧ Claims.controlFields

/-- R97 to R99: bit streams. Bits are consumed least significant first; a refill appends bytes until more than 120 bits are valid or
the stream ends. -/
def Obligations.BitStreamBuffer : Prop :=
  (∀ a b sc s s1 t x y, readS a s = .ok x s1 → readS b s1 = .ok y t →
      Completes 4 (.bbinit a b sc) sc.toNat s (t.modCtx t.cur.1 t.cur.2 fun z =>
        { z with bblo := 0, bbhi := 0, bbpos := 0, bbptr := x.setWidth 22, bbend := y.setWidth 22 }))
  ∧ (∀ sc s t, refill s 17 s = .ok ⟨⟩ t → Completes 4 (.bbfill sc) sc.toNat s t)
  ∧ (∀ d a sc s s1 t x, readS a s = .ok x s1 → min x.toNat 64 ≤ s1.me.bbpos →
      writeS d (BitVec.ofNat 64 (s1.me.bits % 2 ^ min x.toNat 64)) s1 = .ok ⟨⟩ t → Completes 4 (.bbpeek d a sc) sc.toNat s t)
  ∧ (∀ d a sc s s1 s2 t x, readS a s = .ok x s1 → s1.me.bbpos < min x.toNat 64 → refill s 17 s1 = .ok ⟨⟩ s2 →
      writeS d (BitVec.ofNat 64 (s2.me.bits % 2 ^ min (min x.toNat 64) s2.me.bbpos)) s2 = .ok ⟨⟩ t →
      Completes 4 (.bbpeek d a sc) sc.toNat s t)
  ∧ (∀ d a sc s s1 t x, readS a s = .ok x s1 → min x.toNat 64 ≤ s1.me.bbpos →
      writeS d (BitVec.ofNat 64 (s1.me.bits % 2 ^ min x.toNat 64))
        (s1.modCtx s1.cur.1 s1.cur.2 fun z => z.setBits (z.bits / 2 ^ min x.toNat 64) (z.bbpos - min x.toNat 64)) = .ok ⟨⟩ t →
      Completes 4 (.bbtake d a sc) sc.toNat s t)
  ∧ (∀ d a sc s s1 s2 t x, readS a s = .ok x s1 → s1.me.bbpos < min x.toNat 64 → refill s 17 s1 = .ok ⟨⟩ s2 →
      writeS d (BitVec.ofNat 64 (s2.me.bits % 2 ^ min (min x.toNat 64) s2.me.bbpos))
        (s2.modCtx s2.cur.1 s2.cur.2 fun z => z.setBits (z.bits / 2 ^ min x.toNat 64) (z.bbpos - min x.toNat 64)) = .ok ⟨⟩ t →
      Completes 4 (.bbtake d a sc) sc.toNat s t)
  ∧ (∀ a sc s s1 s2 x, readS a s = .ok x s1 → s1.me.bbpos < x.toNat →
      let rest := x.toNat - s1.me.bbpos
      refill s 17 (s1.modCtx s1.cur.1 s1.cur.2 fun z =>
        { z with bblo := 0, bbhi := 0, bbpos := 0, bbptr := BitVec.ofNat 22 (min (z.bbptr.toNat + rest / 8) z.bbend.toNat) }) = .ok ⟨⟩ s2 →
      Completes 4 (.bbskip a sc) sc.toNat s
        (s2.modCtx s2.cur.1 s2.cur.2 fun z => z.setBits (z.bits / 2 ^ (rest % 8)) (z.bbpos - rest % 8)))
  ∧ (∀ a sc s t x, readS a s = .ok x t → x.toNat ≤ t.me.bbpos →
      Completes 4 (.bbskip a sc) sc.toNat s
        (t.modCtx t.cur.1 t.cur.2 fun z => z.setBits (z.bits / 2 ^ x.toNat) (z.bbpos - x.toNat)))
  ∧ (∀ s0 n s a v u, s.me.bbpos ≤ 120 → s.me.bbptr.toNat < s.me.bbend.toNat → checkLocal (s.me.bbptr.setWidth 64) 1 1 false s = .ok a s →
      scalarLoad a 1 s = .ok v u →
      refill s0 (n + 1) s = refill s0 n (u.modCtx u.cur.1 u.cur.2 fun y => y.append v))
  ∧ (∀ s0 n s, 120 < s.me.bbpos ∨ s.me.bbend.toNat ≤ s.me.bbptr.toNat → refill s0 n s = .ok ⟨⟩ s)

/-- R177, R219, R396, R4: the checks of an access to cluster memory, in order, and the bytes a scalar access reads and writes. -/
def Obligations.ClusterMemoryAccess : Prop :=
  (∀ (A : Word) n align store s, 2 ^ 22 ≤ A.toNat →
      checkLocal A n align store s = .error (.trap { cause := 0x06, val := A }) s)
  ∧ (∀ (A : Word) n align store s, A.toNat < 2 ^ 22 → A.toNat % align ≠ 0 →
      checkLocal A n align store s = .error (.trap { cause := 0x05, val := A }) s)
  ∧ (∀ (A : Word) n align store s, A.toNat < 2 ^ 22 → A.toNat % align = 0 →
      (2 ^ 22 < A.toNat + n ∨ s.inMailbox (clusterOf s.cur.1) A.toNat n = true) →
      checkLocal A n align store s = .error (.trap { cause := 0x06, val := A }) s)
  ∧ (∀ (A : Word) n align store s, A.toNat < 2 ^ 22 → A.toNat % align = 0 → A.toNat + n ≤ 2 ^ 22 →
      s.inMailbox (clusterOf s.cur.1) A.toNat n = false → s.lockedLocal (clusterOf s.cur.1) A.toNat n store = true →
      checkLocal A n align store s = .error (.trap { cause := 0x0A, val := A }) s)
  ∧ (∀ (A : Word) n align store s, A.toNat < 2 ^ 22 → A.toNat % align = 0 → A.toNat + n ≤ 2 ^ 22 →
      s.inMailbox (clusterOf s.cur.1) A.toNat n = false → s.lockedLocal (clusterOf s.cur.1) A.toNat n store = false →
      s.firstAbsent (clusterOf s.cur.1) A.toNat n = none → s.ownAmo A.toNat n = false → checkLocal A n align store s = .ok A.toNat s)
  ∧ (∀ a n s, s.guarded (clusterOf s.cur.1) a = false → s.badLocal (clusterOf s.cur.1) a n = false →
      ∃ v, scalarLoad a n s = .ok v (s.scrub (clusterOf s.cur.1) a n) ∧ v < 256 ^ n
        ∧ ∀ i < n, v / 256 ^ i % 256 = (Mem.read s.cmem (clusterOf s.cur.1 * 2 ^ 22 + a + i)).toNat)
  ∧ (∀ a n s, s.guarded (clusterOf s.cur.1) a = true →
      ∃ t, scalarLoad a n s = .ok 0 t ∧ t.here.guardrec = guardRecord s.here.guardrec false false s.cur.2 a s.me.pc.toNat
        ∧ t.cmem = s.cmem)
  ∧ (∀ a n s, s.guarded (clusterOf s.cur.1) a = false → s.badLocal (clusterOf s.cur.1) a n = true →
      scalarLoad a n s = .error (.trap { cause := 0x10, val := BitVec.ofNat 64 a, event := some a }) s)
  ∧ (∀ a n x s, s.guarded (clusterOf s.cur.1) a = false →
      ∃ t, scalarStore a n x s = .ok ⟨⟩ t
        ∧ (Mem.wf s.cmem = true → ∀ i < n, (Mem.read t.cmem (clusterOf s.cur.1 * 2 ^ 22 + a + i)).toNat = x / 256 ^ i % 256)
        ∧ (∀ b, b < clusterOf s.cur.1 * 2 ^ 22 + a ∨ clusterOf s.cur.1 * 2 ^ 22 + a + n ≤ b → Mem.read t.cmem b = Mem.read s.cmem b)
        ∧ t = { s with cmem := t.cmem, wrong := t.wrong, restored := t.restored, watch := t.watch })
  ∧ (∀ a n x s, s.guarded (clusterOf s.cur.1) a = true →
      ∃ t, scalarStore a n x s = .ok ⟨⟩ t ∧ t.cmem = s.cmem
        ∧ t.here.guardrec = guardRecord s.here.guardrec true false s.cur.2 a s.me.pc.toNat)

/-- R179, R180, R62: ld, ld.sx, st and their ordered forms. -/
def Obligations.LoadsAndStoresComplete : Prop :=
  CompletesLoad .ld true (fun _ v => BitVec.ofNat 64 v)
  ∧ CompletesLoad .ldSx true (fun n v => BitVec.ofInt 64 (Int.bmod v (2 ^ (8 * n))))
  ∧ (∀ c : BitVec 3, CompletesLoad (fun d a z (o : BitVec 6) sc => .ldAcq d a c z o sc) false (fun _ v => BitVec.ofNat 64 v))
  ∧ CompletesStore .st false
  ∧ (∀ c : BitVec 3, CompletesStore (fun d a z (o : BitVec 6) sc => .stRel d a c z o sc) true)

/-- R181, R178, R62, R72, R174, R175: vld reads and vst writes VL.BYTES bytes at 64-byte-aligned addresses. A vld that meets a guarded granule or an
uncorrectable word tags the register POISON; it has a fixed latency in the home slice only, and a link takes its value. What the bits of an
uncorrectable word read as is free (log 21), that each such word counts at its slice is the reading of log 57. -/
def Obligations.VectorClusterMemory : Prop :=
  (∀ d a (o : BitVec 10) sc s s1 s3 s4 t x addr old got i, readS a s = .ok x s1 →
      checkLocal (formAddress x o 256) s.me.vl 64 false s1 = .ok addr s1 →
      let k := clusterOf s.cur.1
      let s2 := match s.firstGuarded k addr s.me.vl 4 with
        | some b => s1.modCore s1.cur.1 fun y => { y with guardrec := guardRecord y.guardrec false false s1.cur.2 b s1.me.pc.toNat }
        | none => s1
      let bad := s.badLocal k addr s.me.vl
      oldV d s2 = .ok old s3 →
      blur (s.loadGranules k addr s.me.vl 4) (if bad then s.badMask k addr s.me.vl else 0)
        ((s3.countRead k addr s.me.vl).scrub k addr s.me.vl) = .ok got s4 →
      let r : VReg := { val := lowBytes s.me.vl got old
                        tag := if (s.firstGuarded k addr s.me.vl 4).isSome || bad then .poison else .raw }
      let own := s.me.vl = 0 ∨ (s.inHome addr = true ∧ s.inHome (addr + s.me.vl - 1) = true)
      (own → writeVL d r 6 s4 = .ok ⟨⟩ t → Completes 4 (.vld d a o sc) sc.toNat s t)
      ∧ (¬ own → deferV d r 0 s4 = .ok i t → Completes 4 (.vld d a o sc) sc.toNat s t))
  ∧ (∀ (d : BitVec 5) s, (d.toNat < 28 → oldV d s = .ok (s.me.vreg d.toNat).val s)
      ∧ (28 ≤ d.toNat → ∃ x, oldV d s = .ok x { s with freeCtr := s.freeCtr + 1 }))
  ∧ (∀ x s, blur x 0 s = .ok x s)
  ∧ (∀ x m s, m ≠ 0 → ∃ y, blur x m s = .ok y { s with freeCtr := s.freeCtr + 1 } ∧ ∀ i, m.testBit i = false → y.testBit i = x.testBit i)
  ∧ (∀ (s : State) k a n i, i < n → s.badMask k a n / 256 ^ i % 256 =
      if s.guarded k (a + i) = false ∧ s.badLocal k (a + i) 1 = true then 255 else 0)
  ∧ (∀ (s : State) k a n, (∀ w ∈ wordsOf a n, s.wordBad k w = false) → s.countRead k a n = s)
  ∧ (∀ (s : State) k a, a % 8 = 0 → s.wordBad k a = true → s.guarded k a = false →
      s.countRead k a 8 = s.modCore (ownerCore k a) fun y => { y with uncorrectable := y.uncorrectable + 1 })
  ∧ (∀ (s : State) c row lane, s.codeBad c row lane =
      match s.wrong.filter fun e => decide ((e.core, e.row, e.lane) = (c, row, lane)) && !(s.core c).failedBanks.contains e.bank with
      | [] => false
      | [e] => !(s.core c).failedBanks.isEmpty && !e.flagged
      | _ :: _ :: _ => true)
  ∧ (∀ (s : State) k a x, a % 8 = 0 → (s.cwrite k a 8 x).badLocal k a 8 = false)
  ∧ (∀ (d : BitVec 5) a (o : BitVec 10) sc s s1 s2 x addr v, readS a s = .ok x s1 →
      checkLocal (formAddress x o 256) s.me.vl 64 true s1 = .ok addr s1 → readV d s1 = .ok v s2 → v.tag ≠ .poison →
      let s3 := match s.firstGuarded (clusterOf s.cur.1) addr s.me.vl 4 with
        | some b => s2.modCore s2.cur.1 fun y => { y with guardrec := guardRecord y.guardrec true false s2.cur.2 b s2.me.pc.toNat }
        | none => s2
      Completes 4 (.vst d a o sc) sc.toNat s (s3.storeGranules (clusterOf s.cur.1) addr s.me.vl v.val.toNat 4))
  ∧ (∀ d a (o : BitVec 10) sc s s1 s2 x addr v, readS a s = .ok x s1 →
      checkLocal (formAddress x o 256) s.me.vl 64 true s1 = .ok addr s1 → readV d s1 = .ok v s2 → v.tag = .poison →
      Traps (.vst d a o sc) s { cause := 0x10, val := s2.me.pc.setWidth 64 })
  ∧ (∀ (s : State) k a n, a % 64 = 0 → n ≤ 256 → (∀ i < n, s.guarded k (a + i) = false) → ∀ i < n,
      s.loadGranules k a n 4 / 256 ^ i % 256 = (Mem.read s.cmem (k * 2 ^ 22 + a + i)).toNat)
  ∧ (∀ (s : State) k a n x, a % 64 = 0 → n ≤ 256 →
      (Mem.wf s.cmem = true → ∀ i < n, Mem.read (s.storeGranules k a n x 4).cmem (k * 2 ^ 22 + a + i) =
        if s.guarded k (a + i) then Mem.read s.cmem (k * 2 ^ 22 + a + i) else BitVec.ofNat 8 (x / 256 ^ i))
      ∧ ∀ b, b < k * 2 ^ 22 + a ∨ k * 2 ^ 22 + a + n ≤ b → Mem.read (s.storeGranules k a n x 4).cmem b = Mem.read s.cmem b)

/-- R198, R188, R161, R116: guard bits, and tensor maps moved between registers and memory. -/
def Obligations.GuardBitsAndTensorMaps : Prop :=
  (∀ a b sc s s1 t A n, readS a s = .ok A s1 → readS b s1 = .ok n t → A.toNat % 64 = 0 → A.toNat < 2 ^ 22 →
      A.toNat + 64 * n.toNat ≤ 2 ^ 22 → t.inMailbox (clusterOf t.cur.1) A.toNat (64 * n.toNat) = false →
      Completes 4 (.guard a b sc) sc.toNat s
        { t with guards := setGuards true ((clusterOf t.cur.1 * 2 ^ 22 + A.toNat) / 64) t.guards n.toNat }
      ∧ Completes 4 (.unguard a b sc) sc.toNat s
        { t with guards := setGuards false ((clusterOf t.cur.1 * 2 ^ 22 + A.toNat) / 64) t.guards n.toNat })
  ∧ (∀ on g l n x, List.Pairwise (· < ·) l →
      ((x ∈ setGuards on g l n) ↔ (if g ≤ x ∧ x < g + n then on = true else x ∈ l)))
  ∧ (∀ (d : BitVec 4) a sc s s1 s2 t A addr v, readS a s = .ok A s1 → checkLocal A 32 32 false s1 = .ok addr s2 →
      scalarLoad addr 32 s2 = .ok v t → imageValid v = true →
      Completes 4 (.tmld d a sc) sc.toNat s (t.modCtx t.cur.1 t.cur.2 fun x =>
        { x with m := Map.set x.m d.toNat { val := BitVec.ofNat 256 v, tag := Tag.ofCode (v / 2 ^ 52 % 16) } }))
  ∧ (∀ (d : BitVec 4) a sc s s1 s2 t A addr v, readS a s = .ok A s1 → checkLocal A 32 32 false s1 = .ok addr s2 →
      scalarLoad addr 32 s2 = .ok v t → imageValid v = false → Traps (.tmld d a sc) s { cause := 0x03, val := A })
  ∧ (∀ (d : BitVec 4) a sc s s1 s2 t A addr, readS a s = .ok A s1 → checkLocal A 32 32 true s1 = .ok addr s2 →
      scalarStore addr 32 (s2.me.mreg d.toNat).image s2 = .ok ⟨⟩ t → Completes 4 (.tmst d a sc) sc.toNat s t)

/-- R183, R162, R182, R153: scalar accesses to tree memory, through a map and by raw address. An element out of extent reads FILL, and a
write to it is dropped. -/
def Claims.treeScalar : Prop :=
  (∀ d a b (k : BitVec 4) sc s s1 s2 s3 s4 t i j r e x rest c n, readS a s = .ok i s1 → readS b s1 = .ok j s2 →
      (s2.me.mreg k.toNat).view.headed = false → mapFormat (s2.me.mreg k.toNat).view s2 = .ok r s3 →
      reachMap (s2.me.mreg k.toNat).view r .read false [(0, i.toNat, j.toNat)] s3 = .ok ((e, x) :: rest) s4 →
      s4.badLoc x = false → c = s4.getLoc x → deferS d (BitVec.ofNat 64 c) 0 s4 = .ok n t → Completes 4 (.ldtMap d a b k sc) sc.toNat s t)
  ∧ (∀ d a b (k : BitVec 4) sc s s1 s2 s3 s4 t i j r n, readS a s = .ok i s1 → readS b s1 = .ok j s2 →
      (s2.me.mreg k.toNat).view.headed = false → mapFormat (s2.me.mreg k.toNat).view s2 = .ok r s3 →
      reachMap (s2.me.mreg k.toNat).view r .read false [(0, i.toNat, j.toNat)] s3 = .ok [] s4 →
      deferS d (BitVec.ofNat 64 ((s2.me.mreg k.toNat).view.fill % 2 ^ (s2.me.mreg k.toNat).view.width r)) 0 s4 = .ok n t →
      Completes 4 (.ldtMap d a b k sc) sc.toNat s t)
  ∧ (∀ d a sc s s1 s2 s3 t A r e x rest n, readS a s = .ok A s1 → rawRoot A s1 = .ok r s2 → taDepth A = 24 →
      reachRaw .read false [(0, A)] s2 = .ok ((e, x) :: rest) s3 → s3.badLoc x = false →
      deferS d (BitVec.ofNat 64 (s3.getLoc x)) 0 s3 = .ok n t → Completes 4 (.ldtTa d a sc) sc.toNat s t)
  ∧ (∀ d a b (k : BitVec 4) sc s s1 s2 s3 s4 t i j v r got, readS a s = .ok i s1 → readS b s1 = .ok j s2 → readS d s2 = .ok v s3 →
      (s3.me.mreg k.toNat).view.headed = false → mapFormat (s3.me.mreg k.toNat).view s3 = .ok r s4 →
      reachMap (s3.me.mreg k.toNat).view r .write true [(0, i.toNat, j.toNat)] s4 = .ok got t →
      Completes 4 (.sttMap d a b k sc) sc.toNat s (t.putAll (got.map fun q => (q.2, v.toNat % 2 ^ q.2.w))))
  ∧ (∀ d a b (k : BitVec 4) sc s s1 s2 s3 s4 i j r e x rest, readS a s = .ok i s1 → readS b s1 = .ok j s2 →
      (s2.me.mreg k.toNat).view.headed = false → mapFormat (s2.me.mreg k.toNat).view s2 = .ok r s3 →
      reachMap (s2.me.mreg k.toNat).view r .read false [(0, i.toNat, j.toNat)] s3 = .ok ((e, x) :: rest) s4 → s4.badLoc x = true →
      ((s4.stale x = false ∨ s4.retired x.phys = true) → Traps (.ldtMap d a b k sc) s { cause := 0x10, val := x.ta })
      ∧ (s4.stale x = true → s4.retired x.phys = false → exec (.ldtMap d a b k sc) s =
          .next ((s.modSlice (homeSlice x.phys) fun y => { y with macFail := y.macFail + 1 }).afterTrap { cause := 0x10, val := x.ta })))
  ∧ (∀ d a sc s s1 s2 s3 t A v r got, readS a s = .ok A s1 → readS d s1 = .ok v s2 → rawRoot A s2 = .ok r s3 → taDepth A = 24 →
      reachRaw .write true [(0, A)] s3 = .ok got t →
      Completes 4 (.sttTa d a sc) sc.toNat s (t.putAll (got.map fun q => (q.2, v.toNat % 2 ^ q.2.w))))
  ∧ (∀ d a sc s s1 s2 s3 A v r, readS a s = .ok A s1 → (rawRoot A s1 = .ok r s2 → taDepth A ≠ 24 →
        Traps (.ldtTa d a sc) s { cause := 0x05, val := A })
      ∧ (readS d s1 = .ok v s2 → rawRoot A s2 = .ok r s3 → taDepth A ≠ 24 → Traps (.sttTa d a sc) s { cause := 0x05, val := A }))

/-- R156, R155, R158, R149, R151, R172, R342: translation. The levels of a walk, each fault in its order, and the place of an element that has
none: in a page or a block, and for a headed page the header that its entry names. -/
def Claims.translation : Prop :=
  (∀ (s : State) asid t k f, checkTA t = some f → s.translate asid t k = .error { cause := 0x09, detail := f })
  ∧ (∀ (s : State) asid t k, checkTA t = none → (s.root asid (taRoot t)).valid = false →
      s.translate asid t k = .error { cause := 0x08, detail := 7 })
  ∧ (∀ (s : State) asid t k, checkTA t = none → (s.root asid (taRoot t)).valid = true → (s.root asid (taRoot t)).malformed = true →
      s.translate asid t k = .error { cause := 0x09, detail := 6 })
  ∧ (∀ (s : State) asid t, checkTA t = none → (s.root asid (taRoot t)).valid = true → (s.root asid (taRoot t)).malformed = false →
      let d := s.root asid (taRoot t)
      (∀ f, s.walkFrom d (taPath t) 6 d.tbase = .error f → s.walk asid t = .error f)
      ∧ ∀ e, s.walkFrom d (taPath t) 6 d.tbase = .ok e → s.walk asid t = .ok (d, e))
  ∧ (∀ (s : State) (d : Root) path n base, n < 6 →
      let key := base * 64 + path / 2 ^ (6 * n + 12) % 64
      let e := Map.getD s.entries key (0, 0)
      (s.retired (base * 2048 + key * 16 % 1024) = true → s.walkFrom d path (n + 1) base = .error { cause := 0x10, detail := 0 })
      ∧ (s.retired (base * 2048 + key * 16 % 1024) = false →
          (entryType e.2 = 0 → s.walkFrom d path (n + 1) base = .error { cause := 0x08, detail := 6 - n })
          ∧ (entryType e.2 ≠ 0 → entryMalformed e.1 e.2 (6 - n) d = true →
              s.walkFrom d path (n + 1) base = .error { cause := 0x09, detail := 6 })
          ∧ (entryType e.2 ≠ 0 → entryMalformed e.1 e.2 (6 - n) d = false →
              s.walkFrom d path (n + 1) base =
                if entryType e.2 = 1 then s.walkFrom d path n (entryBase e.2)
                else .ok { key := key, w0 := e.1, w1 := e.2, level := 6 - n })))
  ∧ (∀ (s : State) asid t k d e, s.walk asid t = .ok (d, e) → entryEncv e.w1 ≠ d.bver % 256 →
      s.translate asid t k = .error { cause := 0x09, detail := 7 })
  ∧ (∀ (s : State) asid t d e, s.walk asid t = .ok (d, e) → entryEncv e.w1 = d.bver % 256 → e.w1.getLsbD 61 = false →
      s.translate asid t .read = .error { cause := 0x09, detail := 1 })
  ∧ (∀ (s : State) asid t d e, s.walk asid t = .ok (d, e) → entryEncv e.w1 = d.bver % 256 → e.w1.getLsbD 60 = false →
      s.translate asid t .write = .error { cause := 0x09, detail := 2 })
  ∧ (∀ (s : State) asid t k d e, s.walk asid t = .ok (d, e) → entryEncv e.w1 = d.bver % 256 → k = .read ∨ k = .write →
      e.w1.getLsbD 61 = true → e.w1.getLsbD 60 = true → entryType e.w1 = 3 → e.w0.getLsbD (taPath t / 64 % 64) = false →
      s.translate asid t k = .error { cause := 0x08, detail := 0 })
  ∧ (∀ (s : State) asid t k d e, s.walk asid t = .ok (d, e) → entryEncv e.w1 = d.bver % 256 → e.w1.getLsbD 61 = true →
      e.w1.getLsbD 60 = true → entryType e.w1 = 3 → e.w0.getLsbD (taPath t / 64 % 64) = true →
      ∃ x, s.translate asid t k = .ok x ∧ x.ta = t ∧ x.w = d.esize
        ∧ (e.w1.getLsbD 58 = false → x.headed = none ∧ x.phys = entryBase e.w1 * 2048 + taPath t % 4096 * d.esize / 8
            ∧ x.lo = taPath t % 4096 * d.esize % 8)
        ∧ (e.w1.getLsbD 58 = true → x.headed = some (d.hbase * 32 + entryBase e.w1)))
  ∧ (∀ (s : State) asid t k d e, s.walk asid t = .ok (d, e) → entryEncv e.w1 = d.bver % 256 → e.w1.getLsbD 61 = true →
      e.w1.getLsbD 60 = true → entryType e.w1 = 2 → e.w1.getLsbD 58 = false →
      ∃ x, s.translate asid t k = .ok x ∧ x.ta = t ∧ x.w = d.esize ∧ x.headed = none
        ∧ x.phys = entryBase e.w1 * 2048 + taPath t % 4 ^ (24 - 3 * e.level) * d.esize / 8
        ∧ x.lo = taPath t % 4 ^ (24 - 3 * e.level) * d.esize % 8)

/-- R183, R162, R182, R153: scalar accesses to tree memory, through a map and by raw address. An element out of extent reads FILL, and a write
to it is dropped. R156, R155, R158, R149, R151, R172, R342: translation. The levels of a walk, each fault in its order, and the place of
an element that has none: in a page or a block, and for a headed page the header that its entry names. -/
def Obligations.TreeScalarsAndTranslation : Prop := Claims.treeScalar ∧ Claims.translation

/-- R184: vldt and vstt through unheaded maps and by raw address, R187, R72: vgath and vscat. That a POISON index of vgath raises FORMAT and one of
vscat POISON is the model's reading (log 85), and so is the map's tag in bits 7:4 of TRAPVAL (log 80). -/
def Claims.treeVector : Prop :=
  (∀ d a b (k : BitVec 4) sc s s1 s2 s3 s4 t i j r got, readS a s = .ok i s1 → readS b s1 = .ok j s2 →
      let v := (s2.me.mreg k.toNat).view
      v.headed = false → mapFormat v s2 = .ok r s3 →
      let w := v.width r
      let n := s.me.vl * 8 / w
      reachMap v r .read false (stripFrom i.toNat j.toNat 0 n) s3 = .ok got s4 →
      finishLoad d w got (fillOut got (v.fillCode w) n) (lowMask n w) v.tag s4 = .ok ⟨⟩ t → Completes 4 (.vldtMap d a b k sc) sc.toNat s t)
  ∧ (∀ d a sc s s1 s2 s3 t A r got, readS a s = .ok A s1 → rawRoot A s1 = .ok r s2 →
      reachRaw .read false (blockElems A r.esize s.me.vl) s2 = .ok got s3 →
      finishLoad d r.esize got [] (lowMask s.me.vl 8) r.dfmt s3 = .ok ⟨⟩ t → Completes 4 (.vldtTa d a sc) sc.toNat s t)
  ∧ (∀ d a b (k : BitVec 4) sc s s1 s2 s3 s4 t i j x r got, readS a s = .ok i s1 → readS b s1 = .ok j s2 → readV d s2 = .ok x s3 →
      let v := (s3.me.mreg k.toNat).view
      x.tag ≠ .poison → v.headed = false → mapFormat v s3 = .ok r s4 → (x.tag = v.tag ∨ v.tag = .raw) →
      let w := v.width r
      reachMap v r .write true (stripFrom i.toNat j.toNat 0 (s.me.vl * 8 / w)) s4 = .ok got t →
      Completes 4 (.vsttMap d a b k sc) sc.toNat s (t.putAll (got.map fun q => (q.2, x.val.toNat / 2 ^ (q.1 * w) % 2 ^ w))))
  ∧ (∀ d a sc s s1 s2 s3 t A x r got, readS a s = .ok A s1 → readV d s1 = .ok x s2 → rawRoot A s2 = .ok r s3 → x.tag ≠ .poison →
      (x.tag = r.dfmt ∨ x.tag = .raw) → reachRaw .write true (blockElems A r.esize s.me.vl) s3 = .ok got t →
      Completes 4 (.vsttTa d a sc) sc.toNat s
        (t.putAll (got.map fun q => (q.2, partElem t q.2 (x.val.toNat / 2 ^ (q.1 * r.esize)) q.1 s.me.vl))))
  ∧ (∀ p d a (b : BitVec 4) sc s s1 s2 s3 s4 t pr idx r got, readP p.toNat s = .ok pr s1 → readV a s1 = .ok idx s2 →
      let v := (s2.me.mreg b.toNat).view
      idx.tag = .int64 → v.headed = false → v.tag ≠ .mx4 → v.tag ≠ .ds8 → mapFormat v s2 = .ok r s3 →
      let w := v.width r
      let l := gatherLanes idx.val.toNat s.me.vl pr
      reachMap v r .read false l s3 = .ok got s4 →
      finishLoad d w got (gatherFill l got (v.fillCode w)) (packAt w (l.map fun e => (e.1, 2 ^ w - 1))) v.tag s4 = .ok ⟨⟩ t →
      Completes 4 (.vgath p d a b sc) sc.toNat s t)
  ∧ (∀ p d a (b : BitVec 4) sc s s1 s2 pr idx, readP p.toNat s = .ok pr s1 → readV a s1 = .ok idx s2 →
      let v := (s2.me.mreg b.toNat).view
      (idx.tag ≠ .int64 ∨ v.headed = true ∨ v.tag = .mx4 ∨ v.tag = .ds8) →
      Traps (.vgath p d a b sc) s { cause := 0x03, val := BitVec.ofNat 64 (idx.tag.code + 16 * v.tag.code) })
  ∧ (∀ p d a (b : BitVec 4) sc s s1 s2 s3 pr idx x, readP p.toNat s = .ok pr s1 → readV a s1 = .ok idx s2 → readV d s2 = .ok x s3 →
      let v := (s3.me.mreg b.toNat).view
      (idx.tag = .poison ∨ x.tag = .poison → Traps (.vscat p d a b sc) s { cause := 0x10, val := s.me.pc.setWidth 64 })
      ∧ (idx.tag ≠ .poison → x.tag ≠ .poison → (idx.tag ≠ .int64 ∨ v.headed = true ∨ v.tag = .mx4 ∨ v.tag = .ds8) →
        Traps (.vscat p d a b sc) s { cause := 0x03, val := BitVec.ofNat 64 (idx.tag.code + 16 * v.tag.code) }))
  ∧ (∀ d w got fills mask (tg : Tag) (s : State), d.toNat < 28 → s.me.pendingTo (.vector d.toNat) = none → s.badElems w got = 0 →
      ∃ t q, finishLoad d w got fills mask tg s = .ok ⟨⟩ t ∧ t.me.pend = s.me.pend ++ [q] ∧ q.dest = .vector d.toNat ∧ q.tag = tg ∧ q.ready = none
        ∧ q.open_ = 0 ∧ q.val = BitVec.ofNat 2048 (overlay (s.me.vreg d.toNat).val.toNat mask (s.readElems w got + packAt w fills)))
  ∧ (∀ p d a (b : BitVec 4) sc s s1 s2 s3 s4 t pr idx x r got, readP p.toNat s = .ok pr s1 → readV a s1 = .ok idx s2 →
      readV d s2 = .ok x s3 →
      let v := (s3.me.mreg b.toNat).view
      idx.tag = .int64 → x.tag ≠ .poison → v.headed = false → v.tag ≠ .mx4 → v.tag ≠ .ds8 → mapFormat v s3 = .ok r s4 →
      (x.tag = v.tag ∨ v.tag = .raw) →
      let w := v.width r
      reachMap v r .write true (gatherLanes idx.val.toNat s.me.vl pr) s4 = .ok got t →
      Completes 4 (.vscat p d a b sc) sc.toNat s (t.putAll (got.map fun q => (q.2, x.val.toNat / 2 ^ (q.1 * w) % 2 ^ w))))

/-- R185, R186, R326, R327, R165, R376: accesses through headed maps send a request for each page towards the edge slices, by the end router of
the core's column. That vldt.raw counts its codes from the map's starting column, and which page answers, is the model's reading (log 14); that
bits 7:4 of TRAPVAL are 0 there, of log 80. -/
def Claims.headedMaps : Prop :=
  (∀ d a b (k : BitVec 4) sc s s1 s2 s3 s4 t i j r got id, readS a s = .ok i s1 → readS b s1 = .ok j s2 →
      let v := (s2.me.mreg k.toNat).view
      v.headed = true → v.raw = false → computeFormat v.tag = true → mapFormat v s2 = .ok r s3 →
      let w := v.tag.width
      let n := s3.me.vl * 8 / w
      reachMap v r .read false (stripFrom i.toNat j.toNat 0 n) s3 = .ok got s4 → d.toNat < 28 →
      let reqs := byPage (got.map fun q => (q.2.headed.getD 0, elemNo q.2.ta, q.1))
      deferV d { val := BitVec.ofNat 2048 (overlay (s4.me.vreg d.toNat).val.toNat (lowMask n w) (packAt w (fillOut got (v.fillCode w) n)))
                 tag := v.tag } reqs.length s4 = .ok id t →
      Completes 4 (.vldtMap d a b k sc) sc.toNat s (t.sendPages (reqs.map fun q =>
        { page := q.1, write := false, core := s3.cur.1, level := s3.cur.2, id := id, fmt := v.tag, elems := q.2 })))
  ∧ (∀ (d : BitVec 5) a b (k : BitVec 4) sc s s1 s2 s3 s4 s5 t i j r id id2, readS a s = .ok i s1 → readS b s1 = .ok j s2 →
      let v := (s2.me.mreg k.toNat).view
      v.headed = true → d.toNat < 27 → mapFormat v s2 = .ok r s3 → reachMap v r .read false [(0, i.toNat, j.toNat)] s3 = .ok [] s4 →
      deferV d { val := BitVec.ofNat 2048 (overlay (s4.me.vreg d.toNat).val.toNat (lowMask s3.me.vl 8) 0), tag := .raw } 0 s4 = .ok id s5 →
      deferV (d + 1) { val := 0, tag := .raw } 0 s5 = .ok id2 t →
      Completes 4 (.vldtRaw d a b k sc) sc.toNat s t ∧ (v.raw = true → Completes 4 (.vldtMap d a b k sc) sc.toNat s t))
  ∧ (∀ (d : BitVec 5) a b (k : BitVec 4) sc s s1 s2 s3 s4 s5 s6 t i j r q rest got id id2, readS a s = .ok i s1 →
      readS b s1 = .ok j s2 →
      let v := (s2.me.mreg k.toNat).view
      v.headed = true → d.toNat < 27 → mapFormat v s2 = .ok r s3 →
      reachMap v r .read false [(0, i.toNat, j.toNat)] s3 = .ok (q :: rest) s4 →
      let key := q.2.headed.getD 0
      let c := v.col0 + j.toNat
      let n := min (s3.me.vl * 8 / (if (s4.header key).mx4 then 4 else 8)) (64 - c % 64)
      reachMap v r .read false (stripFrom i.toNat j.toNat 0 n) s4 = .ok got s5 →
      deferV d { val := BitVec.ofNat 2048 (overlay (s5.me.vreg d.toNat).val.toNat (lowMask s3.me.vl 8) 0), tag := .raw } 1 s5 = .ok id s6 →
      deferV (d + 1) { val := 0, tag := .raw } 1 s6 = .ok id2 t →
      ∃ req : PageReq, req.page = key ∧ req.write = false ∧ req.raw = true ∧ req.id = id ∧ req.vl = s3.me.vl
        ∧ req.core = s4.cur.1 ∧ req.level = s4.cur.2 ∧ req.col = c
        ∧ Completes 4 (.vldtRaw d a b k sc) sc.toNat s (t.sendPage req)
        ∧ (v.raw = true → Completes 4 (.vldtMap d a b k sc) sc.toNat s (t.sendPage req)))
  ∧ (∀ (d : BitVec 5) a b (k : BitVec 4) sc s s1 s2 i j, readS a s = .ok i s1 → readS b s1 = .ok j s2 →
      let v := (s2.me.mreg k.toNat).view
      (v.headed = false → Traps (.vldtRaw d a b k sc) s { cause := 0x03, val := BitVec.ofNat 64 v.tag.code })
      ∧ (v.headed = true → 27 ≤ d.toNat →
          Traps (.vldtRaw d a b k sc) s { cause := 0x01, val := BitVec.ofNat 64 (Instr.vldtRaw d a b k sc).word }
          ∧ (v.raw = true → Traps (.vldtMap d a b k sc) s { cause := 0x03, val := BitVec.ofNat 64 v.tag.code })))
  ∧ (∀ (s : State) q, ∃ m, (s.sendPage q).net.msgs = s.net.msgs ++ [m] ∧ m.load = some (.page { q with frame := s.mod.frame / 8192 % 256 })
      ∧ m.src = q.core ∧ m.pos = q.core ∧ m.level = q.level ∧ m.dst = (if q.core / 128 ≤ 23 then q.core % 128 else 47 * 128 + q.core % 128))
  ∧ (∀ d a b (k : BitVec 4) sc s s1 s2 s3 s4 t i j x r got, readS a s = .ok i s1 → readS b s1 = .ok j s2 → readV d s2 = .ok x s3 →
      let v := (s3.me.mreg k.toNat).view
      x.tag ≠ .poison → v.headed = true → v.raw = false → x.tag = v.tag → computeFormat v.tag = true → mapFormat v s3 = .ok r s4 →
      let w := v.tag.width
      reachMap v r .write true (stripFrom i.toNat j.toNat 0 (s4.me.vl * 8 / w)) s4 = .ok got t →
      Completes 4 (.vsttMap d a b k sc) sc.toNat s (t.sendPages
        ((byPage (got.map fun q => (q.2.headed.getD 0, elemNo q.2.ta,
            storeCode v.tag (x.val.toNat / 2 ^ (q.1 * w) % 2 ^ w) (s4.header (q.2.headed.getD 0)).pscale))).map fun q =>
          { page := q.1, write := true, core := s4.cur.1, level := s4.cur.2, id := 0, elems := q.2 })))

/-- R184: vldt and vstt through unheaded maps and by raw address, R187, R72: vgath and vscat. That a POISON index of vgath raises FORMAT and
one of vscat POISON is the model's reading (log 85), and so is the map's tag in bits 7:4 of TRAPVAL (log 80). R185, R186, R326, R327,
R165, R376: accesses through headed maps send a request for each page towards the edge slices, by the end router of the core's column.
That vldt.raw counts its codes from the map's starting column, and which page answers, is the model's reading (log 14); that bits 7:4 of
TRAPVAL are 0 there, of log 80. -/
def Obligations.TreeVectors : Prop := Claims.treeVector ∧ Claims.headedMaps

/-- R189 to R191, R193, R195, R197: an engine function raises what the first check of R191 that fails says, is issued with status 0 and its ranges
registered, or with status 1 when the range table lacks room. A notice counts as a message from issue on; a resuming issue takes a held count over.
That TRAPVAL of a bad notice word is that word is the model's choice (log 100); that an issue waits for earlier accesses, log 70. R202, R203: fship
sets out towards the base-die processors with the width of its slot and its place in the order of issue. -/
def Obligations.EngineAndShippedFunctions : Prop :=
  (∀ (fn : EngFn) (d a b : BitVec 5) (sc : BitVec 3) (s s1 s2 s3 : State) (src second w : Word), readS a s = .ok src s1 →
      (fn ≠ .bzero → readS (a + 1) s1 = .ok second s2) → (fn = .bzero → second = 0 ∧ s2 = s1) → readS b s2 = .ok w s3 →
      let i := engineInstr fn d a b sc
      let asid := ((s3.gangOf s3.cur.1).map (·.asid)).getD 0
      let notice : Word := if fn = .lift ∨ fn = .drop then second else 0
      let id := s3.vale.nextId
      let locks := engineRanges id s3.cur.1 s3.cur.2 fn src second
      let u : State := { s3 with vale := { s3.vale with nextId := id + 1 } }
      (∀ n, addressRefusal fn src second = some n → exec i s = .next
          ((s.modSlice (sliceOfCore s3.cur.1) fun y => { y with transFault := y.transFault + 1 }).afterTrap n))
      ∧ (∀ t, addressRefusal fn src second = none → engineRefusal fn s3 asid src second w = some t → Traps i s t)
      ∧ (addressRefusal fn src second = none → engineRefusal fn s3 asid src second w = none → (notice = 0 ∨ NoticeSendable s3 notice) →
          (∀ t n, 64 < s3.home.ranges.length + (if fn = .bcopy then 2 else 1) → deferS d 1 0 u = .ok n t → Completes 4 i sc.toNat s t)
          ∧ (s3.home.ranges.length + (if fn = .bcopy then 2 else 1) ≤ 64 → s3.performed s3.cur.1 s3.cur.2 = false → Waits i s)
          ∧ (∀ u1 n t, s3.home.ranges.length + (if fn = .bcopy then 2 else 1) ≤ 64 → s3.performed s3.cur.1 s3.cur.2 = true →
              let phase := if w.toNat / 2 ^ 5 % 4 = 2 then some (w.toNat / 2 ^ 32 % 16) else none
              takeCounts (w.getLsbD 7) phase u = .ok ⟨⟩ u1 →
              let u2 := if notice = 0 then u1 else
                (u1.countUp u1.cur.1 u1.me.phase.toNat).modCore u1.cur.1 fun k => { k with acks := k.acks + 1 }
              let u3 := u2.modCluster (clusterOf u2.cur.1) fun y => locks.foldl Cluster.addRange y
              let o : EngineOp :=
                { id := id, core := s3.cur.1, level := s3.cur.2, fn := fn, src := src, dst := if fn = .bcopy then second else 0
                  pattern := if fn = .bfill then second else 0, ctrl := w
                  clip := if w.getLsbD 4 then some (s3.me.mreg (w.toNat % 16)).val else none
                  unit := if w.getLsbD 7 then s3.me.trapprog.toNat % 2 ^ 42 else 0, notice := notice
                  noticePhase := s3.me.phase.toNat, phase := phase }
              deferS d 0 0 { u3 with engines := u3.engines ++ [o] } = .ok n t → Completes 4 i sc.toNat s t))
      ∧ (∀ g, addressRefusal fn src second = none → engineRefusal fn s3 asid src second w = none → notice ≠ 0 →
          s3.gangOf s3.cur.1 = some g →
          (g.toPhys (notice.toNat % 2 ^ 13) = none →
            Traps i s { cause := 0x09, detail := 0, val := BitVec.ofNat 64 (notice.toNat % 2 ^ 13) })
          ∧ ((g.toPhys (notice.toNat % 2 ^ 13)).isSome = true → s3.here.acks = 16 → Waits i s)))
  ∧ (∀ (fn : EngFn) id c l src second, engineRanges id c l fn src second =
      (if fn = .bcopy then [{ id := id, dest := true, tree := true, core := c, level := l, ta := second }] else [])
        ++ [{ id := id, dest := decide (fn = .bfill ∨ fn = .bzero), tree := true, core := c, level := l, ta := src }])
  ∧ (∀ r p (s : State), (r = false ∨ p ∉ s.me.held) →
      takeCounts r (some p) s = .ok ⟨⟩ ((s.countUp s.cur.1 p).retireHeld s.cur.1 s.cur.2))
  ∧ (∀ p (s : State), p ∈ s.me.held → takeCounts true (some p) s =
      .ok ⟨⟩ ((s.modCtx s.cur.1 s.cur.2 fun x => { x with held := x.held.erase p }).retireHeld s.cur.1 s.cur.2))
  ∧ (∀ r (s : State), takeCounts r none s = .ok ⟨⟩ (s.retireHeld s.cur.1 s.cur.2))
  ∧ (∀ (s : State) c l, ((s.retireHeld c l).ctx c l).held = []
      ∧ (∀ p, p ∉ (s.ctx c l).held → (s.retireHeld c l).phaseOf c p = s.phaseOf c p)
      ∧ ∀ p, (s.ctx c l).held = [p] → (s.retireHeld c l).phaseOf c p = s.phaseOf c p - 1)
  ∧ (∀ (d a b : BitVec 5) (sc : BitVec 3) (s s1 s2 s3 s4 s5 s6 : State) (A w x y : Word) (r : Root) (q : Loc) (n : Nat), readS a s = .ok A s1 → readS (a + 1) s1 = .ok w s2 →
      (b = 0 → x = 0 ∧ y = 0 ∧ s3 = s2) → (b ≠ 0 → ∃ u, readS b s2 = .ok x u ∧ readS (b + 1) u = .ok y s3) →
      checkTA A = none → taDepth A = 24 →
      let asid := ((s3.gangOf s3.cur.1).map (·.asid)).getD 0
      r = s.root asid (taRoot A) → r.headed = false → n = slotWidth (Map.getD s.vale.routines (asid * 64 + w.toNat % 64) 0) →
      taPath A * r.esize % n = 0 → 
      (let slot := Map.getD s.vale.routines (asid * 64 + w.toNat % 64) 0
       locksRaw true (targetElems A n r.esize ++ (if slot.toNat % 32 = 20 then [(0, counterAt A (slotBin slot x.toNat))] else [])) s3 = .ok ⟨⟩ s4) →
      translateShip A .both s4 = .ok q s5 →
      noteWalk q s5 = .ok ⟨⟩ s6 → slotFits (Map.getD s.vale.routines (asid * 64 + w.toNat % 64) 0) r.esizeCode = true →
      badShip w d.toNat = false →
      (∀ id t, w.getLsbD 6 = false → deferS d 0 1 s6 = .ok id t →
        ∃ (u : State) (m : Msg) (f : Ship), Completes 4 (.fship d a b sc) sc.toNat s u ∧ u.cores = t.cores ∧ u.net.msgs = t.net.msgs ++ [m] ∧ m.load = some (.ship f)
          ∧ m.src = t.cur.1 ∧ m.dst = endRouter t.cur.1 ∧ f.core = t.cur.1 ∧ f.level = t.cur.2 ∧ f.asid = asid ∧ f.ta = A ∧ f.phys = q.phys
          ∧ f.op1 = x ∧ f.op2 = y ∧ f.slot = w.toNat % 64 ∧ f.width = n ∧ f.id = (if d.toNat = 0 then none else some id) ∧ f.msg = none
          ∧ f.seq = t.vale.nextId ∧ u.vale.nextId = t.vale.nextId + 1)
      ∧ (∀ g, w.getLsbD 6 = true → s6.gangOf s6.cur.1 = some g → (g.toPhys (w.toNat / 2 ^ 16 % 2 ^ 13)).isSome = true → s6.here.acks < 16 →
          ∃ (u : State) (m : Msg) (f : Ship), Completes 4 (.fship d a b sc) sc.toNat s u ∧ u.here.acks = s6.here.acks + 1 ∧ u.net.msgs = s6.net.msgs ++ [m]
            ∧ m.load = some (.ship f) ∧ m.src = s6.cur.1 ∧ m.dst = endRouter s6.cur.1
            ∧ f.ta = A ∧ f.phys = q.phys ∧ f.op1 = x ∧ f.op2 = y ∧ f.slot = w.toNat % 64 ∧ f.width = n ∧ f.id = none
            ∧ f.msg = some (w.toNat / 2 ^ 16 % 2 ^ 13, w.toNat / 2 ^ 8 % 256, s.me.phase.toNat)))

/-- R118, R119, R113, R29, R136, R378: send injects one message with header and payload; a system class raises PRIV, an undeliverable
destination TREE_PROT, and it waits while 16 acknowledgements are outstanding. -/
def Obligations.MessageSends : Prop :=
  (∀ (r : BitVec 1) (a b : BitVec 5) (c : BitVec 8) (n sc : BitVec 3) (s s1 s2 : State) (dw : Word) (dst dg sg : Nat) (w : List Word), readS a s = .ok dw s1 → c.toNat < 0xF0 →
      s1.receiver s1.cur.1 dw = some (dst, dg, sg) → s1.here.acks < 16 → s1.here.mayInject (dw.toNat / 2 ^ 16 % 4) 1 = true →
      (r = 1 → s1.performed s1.cur.1 s1.cur.2 = true) → readPayload b.toNat 7 n.toNat s1 = .ok w s2 →
      let hdr := msgHeader dg sg 0 n.toNat r.toNat 0 0 0 (dw.toNat / 2 ^ 16 % 4) s.me.phase.toNat dw.toNat (s.coreId s.cur.1) c.toNat
      ∃ (t : State) (m : Msg), Completes 4 (.send r a b c n sc) sc.toNat s t ∧ t.net.msgs = s2.net.msgs ++ [m] ∧ m.hdr = hdr ∧ m.w = w ∧ m.data = []
        ∧ m.src = s2.cur.1 ∧ m.dst = dst ∧ t.here.acks = s2.here.acks + 1
        ∧ t.phaseOf s2.cur.1 (hdrPhase hdr) = (s2.phaseOf s2.cur.1 (hdrPhase hdr) + 1) % 2 ^ 24)
  ∧ (∀ (r : BitVec 1) a b (c : BitVec 8) (n sc : BitVec 3) s t dw, readS a s = .ok dw t → 0xF0 ≤ c.toNat →
      Traps (.send r a b c n sc) s { cause := 0x02, val := c.setWidth 64 })
  ∧ (∀ (r : BitVec 1) a b (c : BitVec 8) (n sc : BitVec 3) s t dw, readS a s = .ok dw t → c.toNat < 0xF0 →
      t.receiver t.cur.1 dw = none → Traps (.send r a b c n sc) s { cause := 0x09, val := BitVec.ofNat 64 (dw.toNat % 2 ^ 13) })
  ∧ (∀ (r : BitVec 1) a b (c : BitVec 8) (n sc : BitVec 3) s t dw x, readS a s = .ok dw t → c.toNat < 0xF0 →
      t.receiver t.cur.1 dw = some x → t.here.acks = 16 → (t.me.rtc = false ∨ t.here.refusals = []) → Waits (.send r a b c n sc) s)
  ∧ (∀ (r : BitVec 1) a b (c : BitVec 8) (n sc : BitVec 3) s t dw x, readS a s = .ok dw t → c.toNat < 0xF0 →
      t.receiver t.cur.1 dw = some x → t.here.acks < 16 → t.here.mayInject (dw.toNat / 2 ^ 16 % 4) 1 = false → Waits (.send r a b c n sc) s)
  ∧ (∀ (k : Core) tc f, let quota := k.frameq.toNat / 2 ^ (16 * tc) % 2 ^ 16
      k.mayInject tc f = true ↔ quota = 0 ∨ Map.getD k.frameCount tc 0 + f ≤ quota ∨ Map.getD k.frameCount tc 0 = 0)
  ∧ (∀ (h : Word) dg sg f n rel rtc dep l tc ph d src cls, h = msgHeader dg sg f n rel rtc dep l tc ph d src cls →
      h.toNat % 256 = cls % 256 ∧ h.toNat / 2 ^ 8 % 2 ^ 13 = src % 2 ^ 13 ∧ h.toNat / 2 ^ 21 % 2 ^ 13 = d % 2 ^ 13
      ∧ h.toNat / 2 ^ 34 % 16 = ph % 16 ∧ h.toNat / 2 ^ 38 % 4 = tc % 4 ∧ h.toNat / 2 ^ 40 % 4 = l % 4 ∧ h.toNat / 2 ^ 45 % 8 = n % 8
      ∧ h.toNat / 2 ^ 48 % 16 = f % 16 ∧ h.toNat / 2 ^ 52 % 16 = sg % 16 ∧ h.toNat / 2 ^ 56 = dg % 16)

/-- R120, R121, R118, R142, R378: deposit reads its descriptor, checks it, reads its data and injects one message of six words and its control word. It
waits while 16 acknowledgements are outstanding or its flits exceed the frame quota; that a stamped one waits until the context's earlier accesses are
performed is the model's reading (log 70). -/
def Obligations.DepositInjection : Prop :=
  (∀ (a b : BitVec 5) (sc : BitVec 3) (s s1 s2 s3 s4 s5 : State) (dw D : Word) (head dst dg sg data : Nat), readS a s = .ok dw s1 → readS b s1 = .ok D s2 → D.toNat < 2 ^ 22 →
      D.toNat % 64 = 0 → depositRead D.toNat 64 16 s2 = .ok head s3 →
      let word := fun i => BitVec.ofNat 64 (head / 2 ^ (64 * i) % 2 ^ 64)
      let cw : Word := word 0
      let f := cwFlits cw
      cwClass cw < 0xF0 → s.badDescriptor (clusterOf s.cur.1) cw (word 1) = false → s3.receiver s3.cur.1 dw = some (dst, dg, sg) →
      s3.here.acks < 16 → s3.here.mayInject (dw.toNat / 2 ^ 16 % 4) (1 + f) = true →
      depositBad (D.toNat + 16) 48 s3 = .ok ⟨⟩ s4 → depositRead ((word 1).toNat) (64 * f) (64 * f) s4 = .ok data s5 →
      (cwVstamp cw = true → s5.performed s5.cur.1 s5.cur.2 = true) →
      ∃ (t : State) (m : Msg), Completes 4 (.deposit a b sc) sc.toNat s t ∧ t.net.msgs = s5.net.msgs ++ [m]
        ∧ m.w = [word 2, word 3, word 4, word 5, word 6, word 7, cw] ∧ m.data = bytesOf data (64 * f) ∧ m.dst = dst
        ∧ hdrDep m.hdr = true ∧ hdrFlits m.hdr = f ∧ hdrLevel m.hdr = cwLevel cw ∧ hdrClass m.hdr = cwClass cw
        ∧ hdrPhase m.hdr = s.me.phase.toNat ∧ t.here.acks = s5.here.acks + 1)
  ∧ (∀ (a b : BitVec 5) (sc : BitVec 3) (s s1 s2 s3 : State) (dw D : Word) (head : Nat) x, readS a s = .ok dw s1 → readS b s1 = .ok D s2 →
      D.toNat < 2 ^ 22 → D.toNat % 64 = 0 → depositRead D.toNat 64 16 s2 = .ok head s3 →
      let word := fun i => BitVec.ofNat 64 (head / 2 ^ (64 * i) % 2 ^ 64)
      let cw : Word := word 0
      let f := cwFlits cw
      cwClass cw < 0xF0 → s.badDescriptor (clusterOf s.cur.1) cw (word 1) = false → s3.receiver s3.cur.1 dw = some x →
      (s3.here.acks = 16 → (s3.me.rtc = false ∨ s3.here.refusals = []) → Waits (.deposit a b sc) s)
      ∧ (s3.here.acks < 16 → s3.here.mayInject (dw.toNat / 2 ^ 16 % 4) (1 + f) = false → Waits (.deposit a b sc) s)
      ∧ (∀ s4 s5 data, s3.here.acks < 16 → s3.here.mayInject (dw.toNat / 2 ^ 16 % 4) (1 + f) = true →
          depositBad (D.toNat + 16) 48 s3 = .ok ⟨⟩ s4 → depositRead ((word 1).toNat) (64 * f) (64 * f) s4 = .ok data s5 →
          cwVstamp cw = true → s5.performed s5.cur.1 s5.cur.2 = false → Waits (.deposit a b sc) s))
  ∧ (∀ a b sc s s1 s2 dw D, readS a s = .ok dw s1 → readS b s1 = .ok D s2 →
      (2 ^ 22 ≤ D.toNat → Traps (.deposit a b sc) s { cause := 0x06, val := D })
      ∧ (D.toNat < 2 ^ 22 → D.toNat % 64 ≠ 0 → Traps (.deposit a b sc) s { cause := 0x05, val := D }))
  ∧ (∀ a n m s x, s.inMailbox (clusterOf s.cur.1) a n = false → s.lockedLocal (clusterOf s.cur.1) a n false = false →
      s.firstAbsent (clusterOf s.cur.1) a n = some x → depositRead a n m s = .error (.await x) s)
  ∧ (∀ x n i, i < n → (bytesOf x n)[i]? = some (BitVec.ofNat 8 (x / 256 ^ i)))

/-- R125, R126, R127, R114: the dispatch store and the mailbox size. -/
def Obligations.DispatchStoreBinding : Prop :=
  (∀ (r : BitVec 1) a b (l : BitVec 2) sc s s1 t x h, readS a s = .ok x s1 → readS b s1 = .ok h t →
      (x.toNat % 256 < 0xF0 ∨ x.toNat % 256 = 0xFC ∨ x.toNat % 256 = 0xFD ∨ x.toNat % 256 = 0xFE) →
      (l = 0 → Completes 4 (.dset r a b l sc) sc.toNat s
        (t.modCore t.cur.1 fun k => { k with dispatch := Map.set k.dispatch (x.toNat % 256) 0 }))
      ∧ (l ≠ 0 → h.toNat < 2 ^ 22 → h.toNat % 2 = 0 → Completes 4 (.dset r a b l sc) sc.toNat s
        (t.modCore t.cur.1 fun k =>
          let e := BitVec.ofNat 32 (2 ^ 31 + r.toNat * 2 ^ 30 + l.toNat * 2 ^ 28 + h.toNat)
          { k with dispatch := Map.set k.dispatch (x.toNat % 256) e }))
      ∧ (l ≠ 0 → 2 ^ 22 ≤ h.toNat → Traps (.dset r a b l sc) s { cause := 0x06, val := h })
      ∧ (l ≠ 0 → h.toNat < 2 ^ 22 → h.toNat % 2 = 1 → Traps (.dset r a b l sc) s { cause := 0x05, val := h }))
  ∧ (∀ (r : BitVec 1) a b (l : BitVec 2) sc s s1 t x h, readS a s = .ok x s1 → readS b s1 = .ok h t → 0xF0 ≤ x.toNat % 256 →
      x.toNat % 256 ≠ 0xFC → x.toNat % 256 ≠ 0xFD → x.toNat % 256 ≠ 0xFE →
      Traps (.dset r a b l sc) s { cause := 0x02, val := BitVec.ofNat 64 (x.toNat % 256) })
  ∧ (∀ d a sc s s1 t x, readS a s = .ok x s1 → writeSL d ((Map.getD s.here.dispatch (x.toNat % 256) 0).setWidth 64) 1 s1 = .ok ⟨⟩ t →
      Completes 4 (.dget d a sc) sc.toNat s t)
  ∧ (∀ a sc s t n, readS a s = .ok n t →
      Completes 4 (.mbxcfg a sc) sc.toNat s (t.modCore t.cur.1 fun k => { k with mbxcfg := min (max n.toNat 4) 64 }))

/-- R123, R124, R28: amo requests, what their owner does with them, and the return of the old value. -/
def Obligations.AtomicOperations : Prop :=
  (CompletesAmo .amoAdd 0 false ∧ CompletesAmo .amoMin 1 false ∧ CompletesAmo .amoMax 2 false ∧ CompletesAmo .amoAnd 3 false
    ∧ CompletesAmo .amoOr 4 false ∧ CompletesAmo .amoXor 5 false ∧ CompletesAmo .amoSwap 6 false ∧ CompletesAmo .amoCas 7 true
    ∧ CompletesAmo .amoMinN 8 false ∧ CompletesAmo .amoMaxN 9 false)
  ∧ (∀ n old y c, (n = 4 ∨ n = 8) → old < 2 ^ (8 * n) → y < 2 ^ (8 * n) →
      amoNew 0 n old y c = (old + y) % 2 ^ (8 * n)
      ∧ amoNew 1 n old y c = (if Int.bmod y (2 ^ (8 * n)) < Int.bmod old (2 ^ (8 * n)) then y else old)
      ∧ amoNew 2 n old y c = (if Int.bmod old (2 ^ (8 * n)) < Int.bmod y (2 ^ (8 * n)) then y else old)
      ∧ amoNew 3 n old y c = old &&& y ∧ amoNew 4 n old y c = old ||| y ∧ amoNew 5 n old y c = old ^^^ y ∧ amoNew 6 n old y c = y
      ∧ amoNew 7 n old y c = (if old = c then y else old) ∧ amoNew 8 n old y c = min old y ∧ amoNew 9 n old y c = max old y)
  ∧ (∀ c s q r, (s.core c).sysq = q :: r → s.guarded (clusterOf q.core) q.addr = false →
      s.badLocal (clusterOf q.core) q.addr q.size = false →
      let k := clusterOf q.core
      let old := s.cread k q.addr q.size
      ∃ t, Leads (.amoRequest c) s t ∧ (t.core c).sysq = r
        ∧ t.cmem = (s.cwrite k q.addr q.size (amoNew q.fn q.size old (q.y.toNat % 2 ^ (8 * q.size)) (q.c.toNat % 2 ^ (8 * q.size)))).cmem
        ∧ (q.id = none → t.net.msgs = s.net.msgs)
        ∧ (∀ i, q.id = some i → ∃ m, t.net.msgs = s.net.msgs ++ [m] ∧ m.load = some (.result q.level i (BitVec.ofNat 64 old))
          ∧ m.src = c ∧ m.dst = q.core ∧ m.pos = c))
  ∧ (∀ idx s m l i v, s.leaving idx = some m → m.load = some (.result l i v) →
      Leads (.amoResult idx) s ((s.leave idx m).modCtx m.dst l fun x => x.landId i v))
  ∧ (∀ (x : Ctx) i v q r, x.pend.find? (fun q => decide (q.id = i)) = some q → q.dest = .scalar r → 0 < r →
      (x.landId i v).sreg r = v)

/-- R128 to R130, R134: slots and locks. -/
def Claims.slotsAndLocks : Prop :=
  (∀ d sc s t n i, lowestFree s.home.slots 64 0 = some n →
      deferS d (BitVec.ofNat 64 n) 0 (s.modCluster (clusterOf s.cur.1) fun k => { k with slots := Map.set k.slots n (0, 0) }) = .ok i t →
      Completes 4 (.salloc d sc) sc.toNat s t)
  ∧ (∀ d sc s t i, lowestFree s.home.slots 64 0 = none → deferS d (BitVec.allOnes 64) 0 s = .ok i t →
      Completes 4 (.salloc d sc) sc.toNat s t)
  ∧ (∀ (m : Map (Word × Word)) n, lowestFree m 64 0 = some n →
      n < 64 ∧ Map.get? m n = none ∧ ∀ i < n, (Map.get? m i).isSome = true)
  ∧ (∀ a sc s t h o, readS a s = .ok h t → t.handleKey (clusterOf t.cur.1) h = some o → s.objBusy (clusterOf s.cur.1) o = false →
      o < 64 → Completes 4 (.sfree a sc) sc.toNat s (t.modCluster (clusterOf t.cur.1) fun k => { k with slots := Map.del k.slots o }))
  ∧ (∀ a sc s t h o, readS a s = .ok h t → t.handleKey (clusterOf t.cur.1) h = some o → s.objBusy (clusterOf s.cur.1) o = false →
      64 ≤ o → Completes 4 (.sfree a sc) sc.toNat s t)
  ∧ (∀ a sc s t h o, readS a s = .ok h t → t.handleKey (clusterOf t.cur.1) h = some o → s.objBusy (clusterOf s.cur.1) o = true →
      Traps (.sfree a sc) s { cause := 0x13, val := h })
  ∧ (∀ a sc s t h o, readS a s = .ok h t → t.handleKey (clusterOf t.cur.1) h = some o →
      objHeld (s.obj (clusterOf s.cur.1) o) = false →
      (objKind (s.obj (clusterOf s.cur.1) o) ≠ 1 ∨ s.objBusy (clusterOf s.cur.1) o = false) →
      let w := s.obj (clusterOf s.cur.1) o
      Completes 4 (.lock a sc) sc.toNat s (t.setObj (clusterOf s.cur.1) o
        (objWord 2 (objGen w) (objExpect w) (objArrived w), lockWord s.cur.2 (s.coreId s.cur.1))))
  ∧ (∀ a sc s t h o, readS a s = .ok h t → t.handleKey (clusterOf t.cur.1) h = some o →
      objKind (s.obj (clusterOf s.cur.1) o) = 2 → objHeld (s.obj (clusterOf s.cur.1) o) = true →
      s.holdsLock (clusterOf s.cur.1) o s.cur.1 s.cur.2 = false → s.me.rtc = false →
      ∃ u, exec (.lock a sc) s = .next u ∧ u.me.st = .waiting ∧ u.me.wait = .lock o ∧ u.me.pc = t.me.pc
        ∧ Map.getD u.home.lockQ o [] = Map.getD t.home.lockQ o [] ++ [s.cur])
  ∧ (∀ a sc s t h o, readS a s = .ok h t → t.handleKey (clusterOf t.cur.1) h = some o →
      objKind (s.obj (clusterOf s.cur.1) o) = 2 → s.holdsLock (clusterOf s.cur.1) o s.cur.1 s.cur.2 = true →
      t.performed t.cur.1 t.cur.2 = true → Map.getD s.home.lockQ o [] = [] →
      Completes 4 (.unlock a sc) sc.toNat s (t.setObj (clusterOf s.cur.1) o ((s.obj (clusterOf s.cur.1) o).1, 0)))
  ∧ (∀ a sc s t h o c l r, readS a s = .ok h t → t.handleKey (clusterOf t.cur.1) h = some o →
      objKind (s.obj (clusterOf s.cur.1) o) = 2 → s.holdsLock (clusterOf s.cur.1) o s.cur.1 s.cur.2 = true →
      t.performed t.cur.1 t.cur.2 = true → Map.getD s.home.lockQ o [] = (c, l) :: r → (s.ctx c l).st = .waiting →
      let u := t.modCluster (clusterOf t.cur.1) fun y => { y with lockQ := Map.set y.lockQ o r }
      Completes 4 (.unlock a sc) sc.toNat s
        ((u.setObj (clusterOf s.cur.1) o ((s.obj (clusterOf s.cur.1) o).1, lockWord l (u.coreId c))).finishWait c l))
  ∧ (∀ a sc s t h, readS a s = .ok h t → t.handleKey (clusterOf t.cur.1) h = none →
      Traps (.sfree a sc) s { cause := 0x13, val := h } ∧ Traps (.lock a sc) s { cause := 0x13, val := h }
      ∧ Traps (.unlock a sc) s { cause := 0x13, val := h })
  ∧ (∀ a sc s t h o, readS a s = .ok h t → t.handleKey (clusterOf t.cur.1) h = some o →
      let w := s.obj (clusterOf s.cur.1) o
      (objKind w = 1 → s.objBusy (clusterOf s.cur.1) o = true → Traps (.lock a sc) s { cause := 0x13, val := h })
      ∧ (objHeld w = true → (objKind w ≠ 1 ∨ s.objBusy (clusterOf s.cur.1) o = false) →
          (s.holdsLock (clusterOf s.cur.1) o s.cur.1 s.cur.2 = true ∨ s.me.rtc = true) → Traps (.lock a sc) s { cause := 0x13, val := h })
      ∧ ((objKind w ≠ 2 ∨ s.holdsLock (clusterOf s.cur.1) o s.cur.1 s.cur.2 = false) → Traps (.unlock a sc) s { cause := 0x13, val := h })
      ∧ (objKind w = 2 → s.holdsLock (clusterOf s.cur.1) o s.cur.1 s.cur.2 = true → t.performed t.cur.1 t.cur.2 = false → Waits (.unlock a sc) s))

/-- R131 to R133, R200: barriers over a handle and the gang barrier. The last arrival of a generation releases its waiters, each with the status in its
d; the others wait, and are recorded with the object or the gang. A count that does not fit the generation, and a busy lock, raise SYNC_INVALID. That a
trap handler goes on behind a bar that raises GUARD is the model's choice (log 82). -/
def Claims.barriers : Prop :=
  (∀ d a b sc s s1 s3 s4 t h o n i, a.toNat ≠ 0 → claimDest d s = .ok ⟨⟩ s → readS a s = .ok h s1 → s.me.rtc = false →
      s1.here.guardrec.getLsbD 63 = false →
      let s2 := s1.endMarks s1.cur.1 s1.cur.2
      s2.handleKey (clusterOf s2.cur.1) h = some o → expected b s2 = .ok n s3 → s3.performed s3.cur.1 s3.cur.2 = true →
      s3.arrive (clusterOf s3.cur.1) o n = some (s4, true) → deferS d 0 0 s4 = .ok i t → Completes 4 (.bar d a b sc) sc.toNat s t)
  ∧ (∀ d a b sc s s1 s3 s4 h o n, a.toNat ≠ 0 → claimDest d s = .ok ⟨⟩ s → readS a s = .ok h s1 → s.me.rtc = false →
      s1.here.guardrec.getLsbD 63 = false →
      let s2 := s1.endMarks s1.cur.1 s1.cur.2
      s2.handleKey (clusterOf s2.cur.1) h = some o → expected b s2 = .ok n s3 → s3.performed s3.cur.1 s3.cur.2 = true →
      s3.arrive (clusterOf s3.cur.1) o n = some (s4, false) →
      ∃ t, exec (.bar d a b sc) s = .next t ∧ (t.ctx s.cur.1 s.cur.2).st = .waiting ∧ (t.ctx s.cur.1 s.cur.2).wait = .bar o d.toNat
        ∧ (t.ctx s.cur.1 s.cur.2).pc = (s4.ctx s.cur.1 s.cur.2).pc
        ∧ Map.getD (t.cluster (clusterOf s.cur.1)).barQ o [] =
            Map.getD (s4.cluster (clusterOf s.cur.1)).barQ o [] ++ [(s.cur.1, s.cur.2, d.toNat)])
  ∧ (∀ d a b sc s s1 h, a.toNat ≠ 0 → claimDest d s = .ok ⟨⟩ s → readS a s = .ok h s1 → s.me.rtc = false →
      s1.here.guardrec.getLsbD 63 = false →
      let s2 := s1.endMarks s1.cur.1 s1.cur.2
      (s2.handleKey (clusterOf s2.cur.1) h = none → Traps (.bar d a b sc) s { cause := 0x13, val := h })
      ∧ (∀ o n s3, s2.handleKey (clusterOf s2.cur.1) h = some o → b.toNat ≠ 0 → readS b s2 = .ok n s3 → (n.toNat = 0 ∨ 65535 < n.toNat) →
          Traps (.bar d a b sc) s { cause := 0x13, val := n })
      ∧ (∀ o n s3, s2.handleKey (clusterOf s2.cur.1) h = some o → expected b s2 = .ok n s3 → s3.performed s3.cur.1 s3.cur.2 = true →
          s3.arrive (clusterOf s3.cur.1) o n = none → Traps (.bar d a b sc) s { cause := 0x13, val :=
            (if objKind (s3.obj (clusterOf s3.cur.1) o) = 2 ∧ s3.objBusy (clusterOf s3.cur.1) o = true then h else BitVec.ofNat 64 n) }))
  ∧ (∀ a b sc s s1 h, a.toNat ≠ 0 → s.performed s.cur.1 s.cur.2 = true → readS a s = .ok h s1 →
      (s1.handleKey (clusterOf s1.cur.1) h = none → Traps (.barrive a b sc) s { cause := 0x13, val := h })
      ∧ (∀ o n s2, s1.handleKey (clusterOf s1.cur.1) h = some o → b.toNat ≠ 0 → readS b s1 = .ok n s2 → (n.toNat = 0 ∨ 65535 < n.toNat) →
          Traps (.barrive a b sc) s { cause := 0x13, val := n })
      ∧ (∀ o n s2, s1.handleKey (clusterOf s1.cur.1) h = some o → expected b s1 = .ok n s2 →
          s2.arrive (clusterOf s2.cur.1) o n = none → Traps (.barrive a b sc) s { cause := 0x13, val :=
            (if objKind (s2.obj (clusterOf s2.cur.1) o) = 2 ∧ s2.objBusy (clusterOf s2.cur.1) o = true then h else BitVec.ofNat 64 n) }))
  ∧ (∀ (b : BitVec 5) s, (b.toNat = 0 → expected b s = .ok 8 s)
      ∧ (∀ n t, b.toNat ≠ 0 → readS b s = .ok n t → 1 ≤ n.toNat → n.toNat ≤ 65535 → expected b s = .ok n.toNat t))
  ∧ (∀ (s : State) k o n, (objKind (s.obj k o) = 2 ∧ s.objBusy k o = true) ∨ (objArrived (s.obj k o) ≠ 0 ∧ objExpect (s.obj k o) ≠ n) →
      s.arrive k o n = none)
  ∧ (∀ d a b sc s s1 h, a.toNat ≠ 0 → claimDest d s = .ok ⟨⟩ s → readS a s = .ok h s1 →
      (s.me.rtc = true → Traps (.bar d a b sc) s { cause := 0x13, val := h })
      ∧ (s.me.rtc = false → s1.here.guardrec.getLsbD 63 = true → s1.me.td = false →
          Traps (.bar d a b sc) s { cause := 0x07, val := s1.here.guardrec })
      ∧ (s.me.rtc = false → s1.here.guardrec.getLsbD 63 = true → s1.me.td = true →
          Completes 4 (.bar d a b sc) sc.toNat s (s1.modCtx s1.cur.1 s1.cur.2 fun x =>
            { x with pendTraps := x.pendTraps ++ [{ cause := 0x07, val := s1.here.guardrec }] })))
  ∧ (∀ a b sc s s1 s2 t h o n done, a.toNat ≠ 0 → s.performed s.cur.1 s.cur.2 = true → readS a s = .ok h s1 →
      s1.handleKey (clusterOf s1.cur.1) h = some o → expected b s1 = .ok n s2 →
      s2.arrive (clusterOf s2.cur.1) o n = some (t, done) → Completes 4 (.barrive a b sc) sc.toNat s t)
  ∧ (∀ a sc s t h o, a.toNat ≠ 0 → readS a s = .ok h t → t.handleKey (clusterOf t.cur.1) h = some o →
      (objKind (s.obj (clusterOf s.cur.1) o) ≠ 2 ∨ s.objBusy (clusterOf s.cur.1) o = false) →
      Completes 4 (.bcancel a sc) sc.toNat s (t.endBar (clusterOf s.cur.1) o 1))
  ∧ (∀ a sc s t h, a.toNat ≠ 0 → readS a s = .ok h t →
      (t.handleKey (clusterOf t.cur.1) h = none → Traps (.bcancel a sc) s { cause := 0x13, val := h })
      ∧ (∀ o, t.handleKey (clusterOf t.cur.1) h = some o → objKind (s.obj (clusterOf s.cur.1) o) = 2 →
          s.objBusy (clusterOf s.cur.1) o = true → Traps (.bcancel a sc) s { cause := 0x13, val := h }))
  ∧ (∀ d (b : BitVec 5) sc (s : State), claimDest d s = .ok ⟨⟩ s → s.me.rtc = false → s.cur.2 ≠ 0 →
      let s1 := s.endMarks s.cur.1 s.cur.2
      s.here.guardrec.getLsbD 63 = false → s1.performed s1.cur.1 s1.cur.2 = true → Traps (.bar d 0 b sc) s { cause := 0x13 })
  ∧ (∀ d (b : BitVec 5) sc (s : State) gi g, claimDest d s = .ok ⟨⟩ s → s.me.rtc = false → s.cur.2 = 0 →
      let s1 := s.endMarks s.cur.1 s.cur.2
      s1.here.guardrec.getLsbD 63 = false → s1.performed s1.cur.1 s1.cur.2 = true → s1.here.gang = some gi → s1.gangOf s1.cur.1 = some g →
      let g1 : Gang := { g with barArrived := NatSet.insert g.barArrived (g.indexOf s1.cur.1) }
      let s2 := s1.modGang gi fun _ => g1
      (GangArrived s2 g1 → ∀ i t, deferS d 0 0 (s2.endGangBar gi 0) = .ok i t → Completes 4 (.bar d 0 b sc) sc.toNat s t)
      ∧ (¬ GangArrived s2 g1 → ∃ t, exec (.bar d 0 b sc) s = .next t ∧ (t.ctx s.cur.1 s.cur.2).st = .waiting
          ∧ (t.ctx s.cur.1 s.cur.2).wait = .gangBar d.toNat
          ∧ Map.get? t.gangs gi = some { g1 with barWait := g1.barWait ++ [(g.indexOf s.cur.1, d.toNat)] }))
  ∧ (∀ (b : BitVec 5) sc (s : State) gi g, s.performed s.cur.1 s.cur.2 = true → s.cur.2 = 0 → s.here.gang = some gi → s.gangOf s.cur.1 = some g →
      let g1 : Gang := { g with barArrived := NatSet.insert g.barArrived (g.indexOf s.cur.1) }
      let s2 := s.modGang gi fun _ => g1
      (GangArrived s2 g1 → Completes 4 (.barrive 0 b sc) sc.toNat s (s2.endGangBar gi 0))
      ∧ (¬ GangArrived s2 g1 → Completes 4 (.barrive 0 b sc) sc.toNat s s2))
  ∧ (∀ (b : BitVec 5) sc (s : State), s.performed s.cur.1 s.cur.2 = true → s.cur.2 ≠ 0 → Traps (.barrive 0 b sc) s { cause := 0x13 })
  ∧ (∀ sc (s : State) gi, s.here.gang = some gi → Completes 4 (.bcancel 0 sc) sc.toNat s (s.endGangBar gi 1))
  ∧ (∀ (s : State) gi status g, Map.get? s.gangs gi = some g →
      let h : Gang := { g with barGen := (g.barGen + 1) % 2 ^ 16, barArrived := [], barWait := [] }
      Map.get? (s.endGangBar gi status).gangs gi = some h
      ∧ s.endGangBar gi status = (s.modGang gi fun _ => h).releaseAll status (g.barWait.map fun w => (g.coreAt w.1, 0, w.2)))
  ∧ (∀ (s : State) k o status,
      let s1 := s.setObj k o (objWord 1 (objGen (s.obj k o) + 1) (objExpect (s.obj k o)) 0, (s.obj k o).2)
      s.endBar k o status = (s1.modCluster k fun y => { y with barQ := Map.del y.barQ o }).releaseAll status
        (Map.getD (s.cluster k).barQ o []))
  ∧ (∀ (s : State) status q c l d, (c, l, d) ∈ q → (q.map fun w : Nat × Nat × Nat => (w.1, w.2.1)).Nodup → (s.ctx c l).st = .waiting →
      let x := (s.releaseAll status q).ctx c l
      x.st = .ready ∧ x.wait = .none
      ∧ (0 < d → d < 28 → x.sreg d = status)
      ∧ (28 ≤ d → ∃ p ∈ x.pend, p.dest = .scalar d ∧ p.val = status.setWidth 2048))
  ∧ (∀ (s : State) status q c l, (∀ d, (c, l, d) ∉ q) → (s.releaseAll status q).ctx c l = s.ctx c l)
  ∧ (∀ (s : State) k o n, (objKind (s.obj k o) ≠ 2 ∨ s.objBusy k o = false) →
      (objArrived (s.obj k o) = 0 ∨ objExpect (s.obj k o) = n) →
      let s1 := s.setObj k o (objWord 1 (objGen (s.obj k o)) n (objArrived (s.obj k o) + 1), (s.obj k o).2)
      s.arrive k o n = some (if objArrived (s.obj k o) + 1 = n then (s1.endBar k o 0, true) else (s1, false)))
  ∧ (∀ (s : State) k o status, (o < 64 ∨ Mem.wf s.cmem = true) →
      ((s.endBar k o status).obj k o) = (objWord 1 (objGen (s.obj k o) + 1) (objExpect (s.obj k o)) 0, (s.obj k o).2))

/-- R128 to R130, R134: slots and locks. R131 to R133, R200: barriers over a handle and the gang barrier. The last arrival of a generation
releases its waiters, each with the status in its d; the others wait, and are recorded with the object or the gang. A count that does not
fit the generation, and a busy lock, raise SYNC_INVALID. That a trap handler goes on behind a bar that raises GUARD is the model's choice
(log 82). -/
def Obligations.SlotsLocksBarriers : Prop := Claims.slotsAndLocks ∧ Claims.barriers

/-- R135, R137, R138, R200, R31: waitv and the phase instructions. waitv goes on when the word differs and waits otherwise, watching it; a
write that reaches the word makes it compare again, whether or not the value changed (log 29), and a word that differs wakes it, an
uncorrectable one trapping. phopen clears ENDED and CLOSED, phset sets the phase, phend sets ENDED once, phwait goes on when CLOSED is set
and waits otherwise. That a trap handler goes on behind a phwait that raises GUARD is the reading of log 82. -/
def Obligations.WaitsAndPhaseInstructions : Prop :=
  (∀ a b sc s s1 s2 t A v x, readS a s = .ok A s1 → readS b s1 = .ok v s2 → A.toNat < 2 ^ 22 → A.toNat % 8 = 0 → s.me.rtc = false →
      s2.firstAbsent (clusterOf s2.cur.1) A.toNat 8 = none → s2.ownAmo A.toNat 8 = false → scalarLoad A.toNat 8 s2 = .ok x t →
      (BitVec.ofNat 64 x ≠ v → Completes 4 (.waitv a b sc) sc.toNat s t)
      ∧ (BitVec.ofNat 64 x = v → ∃ u, exec (.waitv a b sc) s = .next u ∧ u.me.st = .waiting ∧ u.me.wait = .waitv A.toNat v
          ∧ Map.get? u.watch (4 * s.cur.1 + s.cur.2) = some (A.toNat, false) ∧ u.me.pc = t.me.pc))
  ∧ (∀ (s : State) k a n x c l w f, Map.get? s.watch (4 * c + l) = some (w, f) → l < 4 → clusterOf c = k → w < a + n → a < w + 8 →
      Map.get? (s.cwrite k a n x).watch (4 * c + l) = some (w, true))
  ∧ (∀ (s : State) c l a v, (s.ctx c l).st = .waiting → (s.ctx c l).wait = .waitv a v →
      Map.get? s.watch (4 * c + l) = some (a, true) → (s.ctx c l).takeable = none → (s.core c).halting = none →
      let now := BitVec.ofNat 64 (s.cread (clusterOf c) a 8)
      (s.guarded (clusterOf c) a = false → s.badLocal (clusterOf c) a 8 = false →
        (now ≠ v → Leads (.waitvWake c l) s ((s.scrub (clusterOf c) a 8).finishWait c l))
        ∧ (now = v → Leads (.waitvWake c l) s { s.scrub (clusterOf c) a 8 with watch := Map.set s.watch (4 * c + l) (a, false) }))
      ∧ (s.guarded (clusterOf c) a = true →
          let t := s.modCore c fun y => { y with guardrec := guardRecord y.guardrec false false l a (s.ctx c l).pc.toNat }
          (v ≠ 0 → Leads (.waitvWake c l) s (t.finishWait c l))
          ∧ (v = 0 → Leads (.waitvWake c l) s { t with watch := Map.set t.watch (4 * c + l) (a, false) }))
      ∧ (s.guarded (clusterOf c) a = false → s.badLocal (clusterOf c) a 8 = true →
          Leads (.waitvWake c l) s (s.wakeTrap c l { cause := 0x10, val := BitVec.ofNat 64 a, event := some a })))
  ∧ (∀ a sc s t x, readS a s = .ok x t → s.net.closes.contains (s.cur.1, x.toNat % 16) = false → s.here.gang = none →
      Completes 4 (.phopen a sc) sc.toNat s (t.modCore t.cur.1 fun k =>
        { k with ended := putBit k.ended (x.toNat % 16) false, closed := putBit k.closed (x.toNat % 16) false }))
  ∧ (∀ a sc s t x g, readS a s = .ok x t → s.net.closes.contains (s.cur.1, x.toNat % 16) = false → s.here.gang = some g →
      Completes 4 (.phopen a sc) sc.toNat s ((t.modCore t.cur.1 fun k =>
        { k with ended := putBit k.ended (x.toNat % 16) false, closed := putBit k.closed (x.toNat % 16) false }).modGang g fun y =>
          { y with armed := putBit y.armed (x.toNat % 16) false }))
  ∧ (∀ a sc s t x, readS a s = .ok x t →
      Completes 4 (.phset a sc) sc.toNat s (t.modCtx t.cur.1 t.cur.2 fun y => { y with phase := x.setWidth 4 }))
  ∧ (∀ a sc s t x, readS a s = .ok x t → t.performed t.cur.1 t.cur.2 = true → s.here.ended.getLsbD (x.toNat % 16) = true →
      Completes 4 (.phend a sc) sc.toNat s (t.endMarks t.cur.1 t.cur.2))
  ∧ (∀ a sc s t x, readS a s = .ok x t → t.performed t.cur.1 t.cur.2 = true → s.here.ended.getLsbD (x.toNat % 16) = false →
      ∃ u, Completes 4 (.phend a sc) sc.toNat s u ∧
        (u.core (t.endMarks t.cur.1 t.cur.2).cur.1).ended = putBit (t.endMarks t.cur.1 t.cur.2).here.ended (x.toNat % 16) true)
  ∧ (∀ a sc s t x, readS a s = .ok x t → s.me.rtc = false → t.here.guardrec.getLsbD 63 = false →
      (s.here.closed.getLsbD (x.toNat % 16) = true → Completes 4 (.phwait a sc) sc.toNat s t)
      ∧ (s.here.closed.getLsbD (x.toNat % 16) = false → ∃ u, exec (.phwait a sc) s = .next u ∧ u.me.st = .waiting
          ∧ u.me.wait = .phwait (x.toNat % 16) ∧ u.me.pc = t.me.pc))
  ∧ (∀ a sc s t x, readS a s = .ok x t → s.me.rtc = false → t.here.guardrec.getLsbD 63 = true → t.me.td = false →
      Traps (.phwait a sc) s { cause := 0x07, val := t.here.guardrec })
  ∧ (∀ (x : BitVec 16) p on i, i < 16 → p < 16 → (putBit x p on).getLsbD i = if i = p then on else x.getLsbD i)

/-- R140, R141: versioned words. stv makes a version above every earlier one and stores its value, waits for a fourth live version to retire,
for a free entry and for earlier accesses (log 70), and raises VERSION for one not above; ldv writes the value of a live version and waits
for one not made yet, whether or not the word has a record, or raises SYNC_INVALID in a run-to-completion routine; recl retires the
versions up to n. -/
def Obligations.VersionedWords : Prop :=
  (∀ d a b sc s s1 s2 s3 t A v n, readS a s = .ok A s1 → readS b s1 = .ok v s2 → readS d s2 = .ok n s3 → A.toNat < 2 ^ 22 →
      A.toNat / 2 ^ 16 % 8 = 7 → A.toNat % 8 = 0 → 0 < n.toNat % 2 ^ 32 →
      let k := clusterOf s.cur.1
      let o := s.core (ownerCore k A.toNat)
      (∀ r, o.version A.toNat = some r → r.h < n.toNat % 2 ^ 32) → o.versionRoom A.toNat = true → s3.performed s3.cur.1 s3.cur.2 = true →
      scalarStore A.toNat 8 v.toNat (s3.makeVersion k A.toNat (n.toNat % 2 ^ 32) v) = .ok ⟨⟩ t → Completes 4 (.stv d a b sc) sc.toNat s t)
  ∧ (∀ d a b sc s s1 s2 s3 A v n r, readS a s = .ok A s1 → readS b s1 = .ok v s2 → readS d s2 = .ok n s3 → A.toNat < 2 ^ 22 →
      A.toNat / 2 ^ 16 % 8 = 7 → A.toNat % 8 = 0 → 0 < n.toNat % 2 ^ 32 →
      (s.core (ownerCore (clusterOf s.cur.1) A.toNat)).version A.toNat = some r → n.toNat % 2 ^ 32 ≤ r.h →
      Traps (.stv d a b sc) s { cause := 0x14, val := A })
  ∧ (∀ d a b sc s s1 s2 t A n r e i, claimDest d s = .ok ⟨⟩ s → readS a s = .ok A s1 → readS b s1 = .ok n s2 → A.toNat < 2 ^ 22 →
      A.toNat / 2 ^ 16 % 8 = 7 → A.toNat % 8 = 0 → 0 < n.toNat % 2 ^ 32 →
      (s.core (ownerCore (clusterOf s.cur.1) A.toNat)).version A.toNat = some r →
      r.live.find? (fun e => decide (e.1 = n.toNat % 2 ^ 32)) = some e → deferS d e.2 0 s2 = .ok i t →
      Completes 4 (.ldv d a b sc) sc.toNat s t)
  ∧ (∀ d a b sc s s1 s2 A n, claimDest d s = .ok ⟨⟩ s → readS a s = .ok A s1 → readS b s1 = .ok n s2 → A.toNat < 2 ^ 22 →
      A.toNat / 2 ^ 16 % 8 = 7 → A.toNat % 8 = 0 → 0 < n.toNat % 2 ^ 32 → s.me.rtc = false →
      (s.core (ownerCore (clusterOf s.cur.1) A.toNat)).version A.toNat = none →
      ∃ u, exec (.ldv d a b sc) s = .next u ∧ u.me.st = .waiting ∧ u.me.wait = .ldv A.toNat (n.toNat % 2 ^ 32) d.toNat)
  ∧ (∀ d a b sc s s1 s2 A n r, claimDest d s = .ok ⟨⟩ s → readS a s = .ok A s1 → readS b s1 = .ok n s2 → A.toNat < 2 ^ 22 →
      A.toNat / 2 ^ 16 % 8 = 7 → A.toNat % 8 = 0 → 0 < n.toNat % 2 ^ 32 →
      (s.core (ownerCore (clusterOf s.cur.1) A.toNat)).version A.toNat = some r →
      (∀ e ∈ r.live, e.1 ≠ n.toNat % 2 ^ 32) → r.f < n.toNat % 2 ^ 32 → r.h < n.toNat % 2 ^ 32 →
      (s.me.rtc = false →
        ∃ u, exec (.ldv d a b sc) s = .next u ∧ u.me.st = .waiting ∧ u.me.wait = .ldv A.toNat (n.toNat % 2 ^ 32) d.toNat)
      ∧ (s.me.rtc = true → Traps (.ldv d a b sc) s { cause := 0x13, val := A }))
  ∧ (∀ d a b sc s s1 s2 s3 A v n, readS a s = .ok A s1 → readS b s1 = .ok v s2 → readS d s2 = .ok n s3 → A.toNat < 2 ^ 22 →
      A.toNat / 2 ^ 16 % 8 = 7 → A.toNat % 8 = 0 → 0 < n.toNat % 2 ^ 32 →
      let o := s.core (ownerCore (clusterOf s.cur.1) A.toNat)
      (∀ r, o.version A.toNat = some r → r.h < n.toNat % 2 ^ 32) →
      ((∃ r, o.version A.toNat = some r ∧ 4 ≤ r.live.length) ∨ Config.versionMax ≤ o.versionsUsed → Waits (.stv d a b sc) s)
      ∧ (o.versionRoom A.toNat = true → s3.performed s3.cur.1 s3.cur.2 = false → Waits (.stv d a b sc) s))
  ∧ (∀ a b sc s s1 t A n, readS a s = .ok A s1 → readS b s1 = .ok n t → A.toNat < 2 ^ 22 → A.toNat / 2 ^ 16 % 8 = 7 →
      A.toNat % 8 = 0 → 0 < n.toNat % 2 ^ 32 →
      ∃ u, Completes 4 (.recl a b sc) sc.toNat s u ∧
        ∀ r, (t.core (ownerCore (clusterOf s.cur.1) A.toNat)).version A.toNat = some r →
          (∃ e ∈ r.live, n.toNat % 2 ^ 32 < e.1) →
          (u.core (ownerCore (clusterOf s.cur.1) A.toNat)).version A.toNat =
            some { h := r.h, f := max r.f (n.toNat % 2 ^ 32), live := r.live.filter fun e => decide (n.toNat % 2 ^ 32 < e.1) })
  ∧ (∀ d a b sc s s1 s2 A n r, claimDest d s = .ok ⟨⟩ s → readS a s = .ok A s1 → readS b s1 = .ok n s2 → A.toNat < 2 ^ 22 →
      A.toNat / 2 ^ 16 % 8 = 7 → A.toNat % 8 = 0 → 0 < n.toNat % 2 ^ 32 →
      (s.core (ownerCore (clusterOf s.cur.1) A.toNat)).version A.toNat = some r →
      r.live.find? (fun e => decide (e.1 = n.toNat % 2 ^ 32)) = none → (n.toNat % 2 ^ 32 ≤ r.f ∨ n.toNat % 2 ^ 32 ≤ r.h) →
      Traps (.ldv d a b sc) s { cause := 0x14, val := A })
  ∧ (∀ a b sc s s1 t A n r, readS a s = .ok A s1 → readS b s1 = .ok n t → A.toNat < 2 ^ 22 → A.toNat / 2 ^ 16 % 8 = 7 →
      A.toNat % 8 = 0 → 0 < n.toNat % 2 ^ 32 → (t.core (ownerCore (clusterOf s.cur.1) A.toNat)).version A.toNat = some r →
      (∀ e ∈ r.live, e.1 ≤ n.toNat % 2 ^ 32) →
      Completes 4 (.recl a b sc) sc.toNat s (t.modCore (ownerCore (clusterOf s.cur.1) A.toNat) fun k =>
        { k with versions := Map.del k.versions A.toNat }))
  ∧ (∀ d a b sc s s1 s2 s3 A v n, readS a s = .ok A s1 → readS b s1 = .ok v s2 → readS d s2 = .ok n s3 →
      ((2 ^ 22 ≤ A.toNat ∨ A.toNat / 2 ^ 16 % 8 ≠ 7) → Traps (.stv d a b sc) s { cause := 0x14, val := A })
      ∧ (A.toNat < 2 ^ 22 → A.toNat / 2 ^ 16 % 8 = 7 → A.toNat % 8 ≠ 0 → Traps (.stv d a b sc) s { cause := 0x05, val := A })
      ∧ (A.toNat < 2 ^ 22 → A.toNat / 2 ^ 16 % 8 = 7 → A.toNat % 8 = 0 → n.toNat % 2 ^ 32 = 0 →
          Traps (.stv d a b sc) s { cause := 0x14, val := A }))
  ∧ (∀ d a b sc s s1 s2 A n, claimDest d s = .ok ⟨⟩ s → readS a s = .ok A s1 → readS b s1 = .ok n s2 →
      ((2 ^ 22 ≤ A.toNat ∨ A.toNat / 2 ^ 16 % 8 ≠ 7) → Traps (.ldv d a b sc) s { cause := 0x14, val := A })
      ∧ (A.toNat < 2 ^ 22 → A.toNat / 2 ^ 16 % 8 = 7 → A.toNat % 8 ≠ 0 → Traps (.ldv d a b sc) s { cause := 0x05, val := A })
      ∧ (A.toNat < 2 ^ 22 → A.toNat / 2 ^ 16 % 8 = 7 → A.toNat % 8 = 0 → n.toNat % 2 ^ 32 = 0 →
          Traps (.ldv d a b sc) s { cause := 0x14, val := A }))
  ∧ (∀ a b sc s s1 s2 A n, readS a s = .ok A s1 → readS b s1 = .ok n s2 →
      ((2 ^ 22 ≤ A.toNat ∨ A.toNat / 2 ^ 16 % 8 ≠ 7) → Traps (.recl a b sc) s { cause := 0x14, val := A })
      ∧ (A.toNat < 2 ^ 22 → A.toNat / 2 ^ 16 % 8 = 7 → A.toNat % 8 ≠ 0 → Traps (.recl a b sc) s { cause := 0x05, val := A })
      ∧ (A.toNat < 2 ^ 22 → A.toNat / 2 ^ 16 % 8 = 7 → A.toNat % 8 = 0 → n.toNat % 2 ^ 32 = 0 →
          Traps (.recl a b sc) s { cause := 0x14, val := A }))

/-- R144: a fence completes once what it orders has happened, and waits until then. -/
def Obligations.FencesComplete : Prop :=
  (∀ c sc s, (∀ q ∈ s.me.pend, q.open_ = 0) → Completes 4 (.fenceLd c sc) sc.toNat s s)
  ∧ (∀ c sc s q, q ∈ s.me.pend → q.open_ ≠ 0 → Waits (.fenceLd c sc) s ∧ Waits (.fenceAll c sc) s)
  ∧ (∀ c sc s, s.storesDone s.cur.1 s.cur.2 = true → Completes 4 (.fenceSt c sc) sc.toNat s s)
  ∧ (∀ c sc s, s.storesDone s.cur.1 s.cur.2 = false → Waits (.fenceSt c sc) s ∧ Waits (.fenceAll c sc) s)
  ∧ (∀ c sc s, (∀ q ∈ s.me.pend, q.open_ = 0) → s.storesDone s.cur.1 s.cur.2 = true → s.messagesDone s.cur.1 s.cur.2 = true →
      Completes 4 (.fenceAll c sc) sc.toNat s s)
  ∧ (∀ c sc s m, m ∈ s.net.msgs → m.load = none → m.src = s.cur.1 → m.level = s.cur.2 → Waits (.fenceAll c sc) s)

/-- R270: element-wise arithmetic in each rounding mode: a floating-point result is rounded once, an integer result wraps or saturates. The
bits 7:4 of TRAPVAL where one operand is tagged are the reading of log 80. -/
def Obligations.VectorElementArithmetic : Prop :=
  ∀ m : BitVec 2,
    CompletesElem2 (fun p d a b sc => .vadd p d a b m sc) Tag.inFI (byClass m false (fun r x y => fpAdd x y r) fun x y => x + y) latencyOf
    ∧ CompletesElem2 (fun p d a b sc => .vsub p d a b m sc) Tag.inFI (byClass m false (fun r x y => fpAdd x y.neg r) fun x y => x - y) latencyOf
    ∧ CompletesElem2 (fun p d a b sc => .vmul p d a b m sc) Tag.inFI (byClass m false (fun _ x y => fpMul x y) fun x y => x * y) latencyOf
    ∧ CompletesElem2 (fun p d a b sc => .vdiv p d a b m sc) Tag.inFI
        (byClass m false (fun _ x y => fpDiv x y) fun x y => if y = 0 then -1 else x.tdiv y) (fun _ => 16)
    ∧ CompletesElem1 (fun p d a sc => .vsqrt p d a m sc) Tag.inF
        (fun t x => encodeFp (fpSqrt (valueOf t.fmtF x)) t.fmtF (.ofCode m.toNat) false) (fun _ => 16)
    ∧ CompletesElem2 (fun p d a b sc => .vaddSat p d a b m sc) Tag.inFI (byClass m true (fun r x y => fpAdd x y r) fun x y => x + y) latencyOf
    ∧ CompletesElem2 (fun p d a b sc => .vsubSat p d a b m sc) Tag.inFI (byClass m true (fun r x y => fpAdd x y.neg r) fun x y => x - y) latencyOf
    ∧ CompletesElem2 (fun p d a b sc => .vmulSat p d a b m sc) Tag.inFI (byClass m true (fun _ x y => fpMul x y) fun x y => x * y) latencyOf
    ∧ CompletesElem3 (fun p d a b sc => .vfma p d a b m sc)
        (byClass3 m false (fun r x y c => fpAdd (fpMul x y) c r) fun x y c => x * y + c)
    ∧ CompletesElem3 (fun p d a b sc => .vfmaSat p d a b m sc)
        (byClass3 m true (fun r x y c => fpAdd (fpMul x y) c r) fun x y c => x * y + c)
    ∧ CompletesElem3 (fun p d a b sc => .vfms p d a b m sc)
        (byClass3 m false (fun r x y c => fpAdd c (fpMul x y).neg r) fun x y c => c - x * y)
    ∧ CompletesElem2 (fun p d a b sc => .vaddNSat p d a b m sc) Tag.inI (fun t x y => min (x + y) (2 ^ t.width - 1)) latencyOf
    ∧ CompletesElem2 (fun p d a b sc => .vsubNSat p d a b m sc) Tag.inI (fun _ x y => x - y) latencyOf

/-- R271, R268, R272: minimum, maximum, sign, logic, shifts, moves and tags. The latency of vmov on MX4, DS8, E8M0 and POISON tags is the
reading of log 17. The bits 7:4 of TRAPVAL where one operand is tagged are the reading of log 80. -/
def Obligations.VectorLogicMovesTags : Prop :=
  (CompletesElem2 .vmin Tag.inFI (byClass 0 false (fun _ x y => fMin x y) fun x y => min x y) latencyOf
    ∧ CompletesElem2 .vmax Tag.inFI (byClass 0 false (fun _ x y => fMax x y) fun x y => max x y) latencyOf
    ∧ CompletesElem2 .vminN Tag.inI (fun _ x y => min x y) latencyOf ∧ CompletesElem2 .vmaxN Tag.inI (fun _ x y => max x y) latencyOf
    ∧ CompletesElem1 .vabs Tag.inFI (fun t x => byClass 0 false (fun _ x _ => x.abs) (fun x _ => |x|) t x 0) latencyOf
    ∧ CompletesElem1 .vneg Tag.inFI (fun t x => byClass 0 false (fun _ x _ => x.neg) (fun x _ => -x) t x 0) latencyOf
    ∧ CompletesElem2 .vand Tag.inLogic (fun _ x y => x &&& y) latencyOf ∧ CompletesElem2 .vor Tag.inLogic (fun _ x y => x ||| y) latencyOf
    ∧ CompletesElem2 .vxor Tag.inLogic (fun _ x y => x ^^^ y) latencyOf
    ∧ CompletesElem2 .vshl Tag.inLogic (fun _ x y => x <<< y) latencyOf ∧ CompletesElem2 .vshr Tag.inLogic (fun _ x y => x >>> y) latencyOf
    ∧ CompletesElem2 .vsra Tag.inLogic
        (fun t x y => if y < t.width then ((signedOf t.width x / 2 ^ y) % (2 ^ t.width : Int)).toNat
          else if signedOf t.width x < 0 then 2 ^ t.width - 1 else 0) latencyOf)
  ∧ (∀ p d a sc s s1 s2 s3 t pr x old r, readP p.toNat s = .ok pr s1 → readV a s1 = .ok x s2 → oldV d s2 = .ok old s3 →
      HoldsElems x.tag.width old r (Active s3.me.vl pr x.tag.width) (lane x.val.toNat x.tag.width) →
      writeVL d { val := r, tag := x.tag } (latencyOf x.tag) s3 = .ok ⟨⟩ t → Completes 4 (.vmov p d a sc) sc.toNat s t)
  ∧ (∀ d a (k : BitVec 5) sc s s1 t x, readV a s = .ok x s1 → x.tag = .raw →
      writeVL d { val := x.val, tag := Tag.ofCode k.toNat } 2 s1 = .ok ⟨⟩ t → Completes 4 (.vtag d a k sc) sc.toNat s t)
  ∧ (∀ d a (k : BitVec 5) sc s s1 x, readV a s = .ok x s1 → x.tag ≠ .raw → x.tag ≠ .poison →
      Traps (.vtag d a k sc) s { cause := 0x03, val := BitVec.ofNat 64 x.tag.code })
  ∧ (∀ d a (k : BitVec 5) sc s s1 x, readV a s = .ok x s1 → x.tag = .poison →
      Traps (.vtag d a k sc) s { cause := 0x10, val := s.me.pc.setWidth 64 })
  ∧ (∀ p d a (k : BitVec 5) sc s s1 s2 s3 t pr x old r, readP p.toNat s = .ok pr s1 → readS a s1 = .ok x s2 → oldV d s2 = .ok old s3 →
      HoldsElems (Tag.ofCode k.toNat).width old r (Active s3.me.vl pr (Tag.ofCode k.toNat).width) (fun _ => x.toNat) →
      writeVL d { val := r, tag := Tag.ofCode k.toNat } 3 s3 = .ok ⟨⟩ t → Completes 4 (.vbcast p d a k sc) sc.toNat s t)
  ∧ (∀ w r, w < 2 ^ 32 → w % 2 = 1 → w / 16 % 64 = 0x24 → 15 ≤ w / 2 ^ 28 → ∃ e, decode (Decode.leBytes 4 w ++ r) = .error e)

/-- R273, R257: comparisons. -/
def Obligations.VectorComparisons : Prop :=
  CompletesCompare .vcmpEq Tag.inFI (fun x y => fpEq x y = true) (fun _ x y => x = y)
  ∧ CompletesCompare .vcmpNe Tag.inFI (fun x y => fpEq x y = false) (fun _ x y => x ≠ y)
  ∧ CompletesCompare .vcmpLt Tag.inFI (fun x y => fpLt x y = true) (fun w x y => signedOf w x < signedOf w y)
  ∧ CompletesCompare .vcmpGe Tag.inFI (fun x y => fpLt y x = true ∨ fpEq x y = true) (fun w x y => signedOf w y ≤ signedOf w x)
  ∧ CompletesCompare .vcmpLe Tag.inFI (fun x y => fpLt x y = true ∨ fpEq x y = true) (fun w x y => signedOf w x ≤ signedOf w y)
  ∧ CompletesCompare .vcmpGt Tag.inFI (fun x y => fpLt y x = true) (fun w x y => signedOf w y < signedOf w x)
  ∧ CompletesCompare .vcmpUn Tag.inF (fun x y => x = .nan ∨ y = .nan) (fun _ _ _ => False)
  ∧ CompletesCompare .vcmpOrd Tag.inF (fun x y => x ≠ .nan ∧ y ≠ .nan) (fun _ _ _ => False)
  ∧ CompletesCompare .vcmpLtN Tag.inI (fun _ _ => False) (fun _ x y => x < y)
  ∧ CompletesCompare .vcmpGeN Tag.inI (fun _ _ => False) (fun _ x y => y ≤ x)
  ∧ CompletesCompare .vcmpLeN Tag.inI (fun _ _ => False) (fun _ x y => x ≤ y)
  ∧ CompletesCompare .vcmpGtN Tag.inI (fun _ _ => False) (fun _ x y => y < x)
  ∧ (∀ w r, w < 2 ^ 32 → w % 2 = 1 → w / 16 % 64 = 0x25 → 12 ≤ w / 2 ^ 28 → ∃ e, decode (Decode.leBytes 4 w ++ r) = .error e)

/-- R274, R275: conversion. Each active element converts its exact value to the target; a target of RAW, 14 or 15 and a source of RAW
raise FORMAT; MX4 and DS8 targets quantise blocks of 16 and leave their scales in v(d+1). A POISON source or scale
register traps first; the scale register of an MX4 or DS8 source must exist and be tagged E8M0. Which tags TRAPVAL names beside the target of the
conversion is the model's choice (log 80). -/
def Obligations.VectorConversion : Prop :=
  (∀ p d a (m : BitVec 3) (k : BitVec 5) sc s s1 s2 s3 t pr x old r, readP p.toNat s = .ok pr s1 → readV a s1 = .ok x s2 →
      oldV d s2 = .ok old s3 → 1 ≤ k.toNat → k.toNat ≤ 13 → (Tag.ofCode k.toNat).scaled = false → x.tag ≠ .raw → x.tag ≠ .poison →
      x.tag.scaled = false →
      HoldsElems (Tag.ofCode k.toNat).width old r
        (fun e => e < s3.me.vl * 8 / max x.tag.width (Tag.ofCode k.toNat).width
          ∧ pr.getLsbD (e * max x.tag.width (Tag.ofCode k.toNat).width / 8) = true)
        (fun e =>
          let c := lane x.val.toNat x.tag.width e
          if x.tag = Tag.ofCode k.toNat ∧ x.tag.isFloat = true then
            if tagValue x.tag c = .nan then toFloatTag .nan (Tag.ofCode k.toNat) .rne false else c
          else convert x.tag (Tag.ofCode k.toNat) c (.ofCode m.toNat) (m.getLsbD 2)) →
      writeVL d { val := r, tag := Tag.ofCode k.toNat } 3 s3 = .ok ⟨⟩ t → Completes 4 (.vcvt p d a m k sc) sc.toNat s t)
  ∧ (∀ p d a (m : BitVec 3) (k : BitVec 5) sc s s1 s2 s3 s4 t pr x q old r, readP p.toNat s = .ok pr s1 → readV a s1 = .ok x s2 →
      x.tag.scaled = true → a.toNat < 27 → readV (a + 1) s2 = .ok q s3 → q.tag = .e8m0 → oldV d s3 = .ok old s4 → 1 ≤ k.toNat →
      k.toNat ≤ 13 →
      (Tag.ofCode k.toNat).scaled = false →
      HoldsElems (Tag.ofCode k.toNat).width old r
        (fun e => e < s4.me.vl * 8 / max x.tag.width (Tag.ofCode k.toNat).width
          ∧ pr.getLsbD (e * max x.tag.width (Tag.ofCode k.toNat).width / 8) = true)
        (fun e =>
          let v := fpMul (tagValue x.tag (lane x.val.toNat x.tag.width e)) (scaleValue (lane q.val.toNat 8 (e / 16)))
          if (Tag.ofCode k.toNat).isInt = true then fpToInt v (Tag.ofCode k.toNat).width (.ofCode m.toNat)
          else toFloatTag v (Tag.ofCode k.toNat) (.ofCode m.toNat) (m.getLsbD 2)) →
      writeVL d { val := r, tag := Tag.ofCode k.toNat } 3 s4 = .ok ⟨⟩ t → Completes 4 (.vcvt p d a m k sc) sc.toNat s t)
  ∧ (∀ d a (m : BitVec 3) (k : BitVec 5) sc s s1 s2 s3 s4 s5 t x q old oldq codes scales, readV a s = .ok x s1 → x.tag ≠ .raw →
      x.tag ≠ .poison → scaleSource x.tag a s1 = .ok q s2 → q.tag = .e8m0 → (x.tag.scaled = true → a.toNat < 27) →
      (k.toNat = 10 ∨ k.toNat = 11) → oldV d s2 = .ok old s3 → oldV (d + 1) s3 = .ok oldq s4 →
      (let w := (Tag.ofCode k.toNat).width
       let n := s4.me.vl * 8 / max x.tag.width w
       let block := fun i => (List.range (min 16 (n - 16 * i))).map fun j => scaledValue x.tag x.val.toNat q.val.toNat (16 * i + j)
       let quant := fun i => if k.toNat = 10 then quantMx4 (block i) else quantDs8 (block i)
       HoldsElems w old codes (fun e => e < n) (fun e => (quant (e / 16)).2.getD (e % 16) 0)
       ∧ HoldsElems 8 oldq scales (fun i => 16 * i < n) (fun i => (quant i).1)) → s4.me.vl ≤ 256 →
      writeVL d { val := codes, tag := Tag.ofCode k.toNat } 3 s4 = .ok ⟨⟩ s5 → writeVL (d + 1) { val := scales, tag := .e8m0 } 3 s5 = .ok ⟨⟩ t →
      Completes 4 (.vcvt 0 d a m k sc) sc.toNat s t)
  ∧ (∀ t a s, Tag.scaled t = true → a.toNat < 27 → scaleSource t a s = readV (a + 1) s)
  ∧ (∀ t a s, (Tag.scaled t = false ∨ 27 ≤ a.toNat) → scaleSource t a s = .ok { tag := .e8m0 } s)
  ∧ (∀ p d a (m : BitVec 3) (k : BitVec 5) sc s s1 s2 s3 pr x q, readP p.toNat s = .ok pr s1 → readV a s1 = .ok x s2 →
      scaleSource x.tag a s2 = .ok q s3 →
      (x.tag = .poison ∨ q.tag = .poison → Traps (.vcvt p d a m k sc) s { cause := 0x10, val := s.me.pc.setWidth 64 })
      ∧ (x.tag ≠ .poison → q.tag ≠ .poison →
        ((k.toNat = 0 ∨ k.toNat = 14 ∨ k.toNat = 15 ∨ x.tag = .raw) →
          Traps (.vcvt p d a m k sc) s { cause := 0x03, val := BitVec.ofNat 64 (x.tag.code + 16 * k.toNat) })
        ∧ (1 ≤ k.toNat → k.toNat ≤ 13 → x.tag.scaled = true → 27 ≤ a.toNat →
          Traps (.vcvt p d a m k sc) s { cause := 0x03, val := BitVec.ofNat 64 (x.tag.code + 16 * k.toNat) })
        ∧ (1 ≤ k.toNat → k.toNat ≤ 13 → x.tag.scaled = true → a.toNat < 27 → q.tag ≠ .e8m0 →
          Traps (.vcvt p d a m k sc) s { cause := 0x03, val := BitVec.ofNat 64 (x.tag.code + 16 * q.tag.code) })
        ∧ (x.tag ≠ .raw → (k.toNat = 10 ∨ k.toNat = 11) → p ≠ 0 → (x.tag.scaled = true → a.toNat < 27 ∧ q.tag = .e8m0) →
          Traps (.vcvt p d a m k sc) s { cause := 0x03, val := BitVec.ofNat 64 (x.tag.code + 16 * k.toNat) })))

/-- R276, R264: reductions. Over integer lanes the tree gives the exact sum, the least or the greatest lane, and the conjunction or the
disjunction, with the identities of R276; over floating-point lanes it is the tree of R264. The bits 7:4 of TRAPVAL where one operand is
tagged are the reading of log 80. -/
def Obligations.VectorReductions : Prop :=
  CompletesReduce .vredSum Tag.inFI Tag.inI (fun x vl p => BitVec.ofInt 64 ((activeLanes x vl p).map (signedOf x.tag.width)).sum)
  ∧ CompletesReduce .vredMin Tag.inFI Tag.inI
      (fun x vl p => BitVec.ofInt 64 (((activeLanes x vl p).map (signedOf x.tag.width)).foldr min (2 ^ (x.tag.width - 1) - 1)))
  ∧ CompletesReduce .vredMax Tag.inFI Tag.inI
      (fun x vl p => BitVec.ofInt 64 (((activeLanes x vl p).map (signedOf x.tag.width)).foldr max (-(2 ^ (x.tag.width - 1)))))
  ∧ CompletesReduce .vredAnd (fun t => t.inI || decide (t = .raw)) (fun t => t.inI || decide (t = .raw))
      (fun x vl p => BitVec.ofNat 64 ((activeLanes x vl p).foldr (fun a b => a &&& b) (2 ^ x.tag.width - 1)))
  ∧ CompletesReduce .vredOr (fun t => t.inI || decide (t = .raw)) (fun t => t.inI || decide (t = .raw))
      (fun x vl p => BitVec.ofNat 64 ((activeLanes x vl p).foldr (fun a b => a ||| b) 0))
  ∧ CompletesReduce .vredMinN Tag.inI Tag.inI (fun x vl p => BitVec.ofNat 64 ((activeLanes x vl p).foldr min (2 ^ x.tag.width - 1)))
  ∧ CompletesReduce .vredMaxN Tag.inI Tag.inI (fun x vl p => BitVec.ofNat 64 ((activeLanes x vl p).foldr max 0))
  ∧ CompletesReduce .vredSum Tag.inFI Tag.inF
      (fun x vl p => BitVec.ofNat 64 (codeOf fmtFp32 ((treeRoot add32 9
        ((presentLanes x vl p).map (·.map (valueOf x.tag.fmtF)))).getD (.fin false 0 0))))
  ∧ CompletesReduce .vredMin Tag.inFI Tag.inF
      (fun x vl p => BitVec.ofNat 64 (codeOf fmtFp32 ((treeRoot fMin 9
        ((presentLanes x vl p).map (·.map (valueOf x.tag.fmtF)))).getD (.inf false))))
  ∧ CompletesReduce .vredMax Tag.inFI Tag.inF
      (fun x vl p => BitVec.ofNat 64 (codeOf fmtFp32 ((treeRoot fMax 9
        ((presentLanes x vl p).map (·.map (valueOf x.tag.fmtF)))).getD (.inf true))))

/-- R277, R268: permutations, selection and vgl. -/
def Claims.permutations : Prop :=
  (∀ p d a b sc s s1 s2 s3 s4 t pr x y old r, readP p.toNat s = .ok pr s1 → readV a s1 = .ok x s2 → readV b s2 = .ok y s3 →
      oldV d s3 = .ok old s4 → x.tag ≠ .poison → y.tag.inI = true → y.tag.width ≤ x.tag.width →
      HoldsElems x.tag.width old r (Active s4.me.vl pr x.tag.width)
        (fun e => lane x.val.toNat x.tag.width (lane y.val.toNat y.tag.width e % (2048 / x.tag.width))) →
      writeVL d { val := r, tag := x.tag } 3 s4 = .ok ⟨⟩ t → Completes 4 (.vperm p d a b sc) sc.toNat s t)
  ∧ (∀ p d a b sc s s1 s2 s3 pr x y, readP p.toNat s = .ok pr s1 → readV a s1 = .ok x s2 → readV b s2 = .ok y s3 → x.tag ≠ .poison →
      y.tag ≠ .poison → (y.tag.inI = false ∨ x.tag.width < y.tag.width) →
      Traps (.vperm p d a b sc) s { cause := 0x03, val := BitVec.ofNat 64 (x.tag.code + 16 * y.tag.code) })
  ∧ (∀ p d a b sc s s1 s2 s3 s4 t pr x y old r, readP p.toNat s = .ok pr s1 → readV a s1 = .ok x s2 → readV b s2 = .ok y s3 →
      oldV d s3 = .ok old s4 → (x.tag = .poison ∨ y.tag = .poison) →
      (let w := movedWidth x.tag y.tag
       HoldsElems w old r (Active s4.me.vl pr w) fun e => lane x.val.toNat w (lane y.val.toNat (movedWidth y.tag x.tag) e % (2048 / w))) →
      writeVL d { val := r, tag := .poison } 3 s4 = .ok ⟨⟩ t → Completes 4 (.vperm p d a b sc) sc.toNat s t)
  ∧ (∀ p d a b sc s s1 s2 s3 s4 t pr x k old r, readP p.toNat s = .ok pr s1 → readV a s1 = .ok x s2 → readS b s2 = .ok k s3 →
      oldV d s3 = .ok old s4 →
      HoldsElems x.tag.width old r (Active s4.me.vl pr x.tag.width)
        (fun e => if 0 ≤ (e : Int) + k.toInt ∧ (e : Int) + k.toInt < 2048 / x.tag.width then
          lane x.val.toNat x.tag.width ((e : Int) + k.toInt).toNat else 0) →
      writeVL d { val := r, tag := x.tag } 3 s4 = .ok ⟨⟩ t → Completes 4 (.vslide p d a b sc) sc.toNat s t)
  ∧ (∀ p d a sc s s1 s2 s3 t pr x old r, readP p.toNat s = .ok pr s1 → readV a s1 = .ok x s2 → oldV d s2 = .ok old s3 →
      HoldsElems x.tag.width old r (fun e => e < (activeLanes x s.me.vl pr).length) (fun e => (activeLanes x s.me.vl pr).getD e 0) →
      writeVL d { val := r, tag := x.tag } 3 s3 = .ok ⟨⟩ t → Completes 4 (.vcompress p d a sc) sc.toNat s t)
  ∧ (∀ d a b (k : BitVec 3) sc s s1 s2 s3 s4 t pr x y old r, readP k.toNat s = .ok pr s1 → readV a s1 = .ok x s2 → readV b s2 = .ok y s3 →
      oldV d s3 = .ok old s4 → x.tag = y.tag → x.tag ≠ .poison →
      HoldsElems x.tag.width old r (fun e => e * x.tag.width / 8 < s4.me.vl)
        (fun e => if pr.getLsbD (e * x.tag.width / 8) = true then lane x.val.toNat x.tag.width e else lane y.val.toNat x.tag.width e) →
      writeVL d { val := r, tag := x.tag } 2 s4 = .ok ⟨⟩ t → Completes 4 (.vsel d a b k sc) sc.toNat s t)
  ∧ (∀ d a b (k : BitVec 3) sc s s1 s2 s3 pr x y, readP k.toNat s = .ok pr s1 → readV a s1 = .ok x s2 → readV b s2 = .ok y s3 →
      (x.tag ≠ .poison → y.tag ≠ .poison → x.tag ≠ y.tag →
        Traps (.vsel d a b k sc) s { cause := 0x03, val := BitVec.ofNat 64 (x.tag.code + 16 * y.tag.code) })
      ∧ (∀ s4 t old r, oldV d s3 = .ok old s4 → (x.tag = .poison ∨ y.tag = .poison) →
        (let w := movedWidth x.tag y.tag
         HoldsElems w old r (fun e => e * w / 8 < s4.me.vl)
          fun e => if pr.getLsbD (e * w / 8) = true then lane x.val.toNat w e else lane y.val.toNat w e) →
        writeVL d { val := r, tag := .poison } 2 s4 = .ok ⟨⟩ t → Completes 4 (.vsel d a b k sc) sc.toNat s t))
  ∧ (∀ p d a sc s s1 s2 t x i, Enabled p s s1 → readS a s1 = .ok x s2 →
      deferS d (BitVec.ofNat 64 (min x.toNat 256)) 0 (s2.modCtx s2.cur.1 s2.cur.2 fun y => { y with vl := min x.toNat 256 }) = .ok i t →
      Completes 4 (.vgl p d a sc) sc.toNat s t)
  ∧ SkipsR .vgl

/-- R278: predicate registers. -/
def Claims.predicates : Prop :=
  CompletesPred .pand (fun x y => x && y) ∧ CompletesPred .por (fun x y => x || y) ∧ CompletesPred .pxor (fun x y => x ^^ y)
  ∧ (∀ d a sc s s1 t x r, readP a.toNat s = .ok x s1 → (∀ j, j < 256 → r.getLsbD j = !x.getLsbD j) → writeP d.toNat r s1 = .ok ⟨⟩ t →
      Completes 4 (.pnot d a sc) sc.toNat s t)
  ∧ (∀ s, readP 0 s = .ok (BitVec.allOnes 256) s)
  ∧ (∀ d sc s t, writeP d.toNat 0 s = .ok ⟨⟩ t → Completes 4 (.pnot d 0 sc) sc.toNat s t)
  ∧ (∀ v s, writeP 0 v s = .ok ⟨⟩ s)
  ∧ (∀ d a sc s s1 t x, readP a.toNat s = .ok x s1 →
      writeSL d (BitVec.ofNat 64 ((List.range s.me.vl).countP fun i => x.getLsbD i)) 2 s1 = .ok ⟨⟩ t → Completes 4 (.pcnt d a sc) sc.toNat s t)
  ∧ (∀ d a sc s s1 t x i, readP a.toNat s = .ok x s1 → i < s.me.vl → x.getLsbD i = true → (∀ j, j < i → x.getLsbD j = false) →
      writeSL d (BitVec.ofNat 64 i) 2 s1 = .ok ⟨⟩ t → Completes 4 (.pfirst d a sc) sc.toNat s t)
  ∧ (∀ d a sc s s1 t x, readP a.toNat s = .ok x s1 → (∀ j, j < s.me.vl → x.getLsbD j = false) →
      writeSL d (BitVec.allOnes 64) 2 s1 = .ok ⟨⟩ t → Completes 4 (.pfirst d a sc) sc.toNat s t)
  ∧ (∀ w r, w < 2 ^ 32 → w % 2 = 1 → w / 16 % 64 = 0x2A → 6 ≤ w / 2 ^ 28 → ∃ e, decode (Decode.leBytes 4 w ++ r) = .error e)

/-- R277, R268: permutations, selection and vgl. R278: predicate registers. -/
def Obligations.PermutationsAndPredicates : Prop := Claims.permutations ∧ Claims.predicates

/-- R279 to R284: one stage of the bitonic network, distances, and the small solvers, and the tags on which each traps. TRAPVAL's second tag
where the scale register of a distance is at fault is the model's choice (log 80). -/
def Obligations.BitonicDistanceSolvers : Prop :=
  (∀ d (j k : BitVec 5) sc s s1 s2 s3 t x y kk pp, readV d s = .ok x s1 → readV (d + 1) s1 = .ok y s2 → (x.tag = .fp32 ∨ x.tag = .int32) →
      (y.tag = .int32 ∨ y.tag = .raw) →
      (let key := if x.tag = .fp32 then 0 else if y.tag = .raw then 2 else 1
       let pair := fun i => (lane x.val.toNat 32 i, lane y.val.toNat 32 i)
       let wrong := fun i => if i.testBit k.toNat then before key (pair i) (pair (i + 2 ^ j.toNat)) else before key (pair (i + 2 ^ j.toNat)) (pair i)
       ∀ i, i < 64 → i.testBit j.toNat = false →
        (i + 2 ^ j.toNat < s.me.vl / 4 ∧ wrong i = true →
          (lane kk.toNat 32 i, lane pp.toNat 32 i) = pair (i + 2 ^ j.toNat)
          ∧ (lane kk.toNat 32 (i + 2 ^ j.toNat), lane pp.toNat 32 (i + 2 ^ j.toNat)) = pair i)
        ∧ (¬ (i + 2 ^ j.toNat < s.me.vl / 4 ∧ wrong i = true) →
          (lane kk.toNat 32 i, lane pp.toNat 32 i) = pair i
          ∧ (lane kk.toNat 32 (i + 2 ^ j.toNat), lane pp.toNat 32 (i + 2 ^ j.toNat)) = pair (i + 2 ^ j.toNat))) →
      s.me.vl ≤ 256 → j.toNat ≤ 5 → writeVL d { val := kk, tag := x.tag } 3 s2 = .ok ⟨⟩ s3 →
      writeVL (d + 1) { val := pp, tag := y.tag } 3 s3 = .ok ⟨⟩ t → Completes 4 (.vcx d j k sc) sc.toNat s t)
  ∧ (∀ d (j k : BitVec 5) sc s s1 s2 x y, readV d s = .ok x s1 → readV (d + 1) s1 = .ok y s2 →
      (x.tag = .poison ∨ y.tag = .poison → Traps (.vcx d j k sc) s { cause := 0x10, val := s.me.pc.setWidth 64 })
      ∧ (x.tag ≠ .poison → y.tag ≠ .poison → ((x.tag ≠ .fp32 ∧ x.tag ≠ .int32) ∨ (y.tag ≠ .int32 ∧ y.tag ≠ .raw)) →
        Traps (.vcx d j k sc) s { cause := 0x03, val := BitVec.ofNat 64 (x.tag.code + 16 * y.tag.code) }))
  ∧ (∀ (l2 : Bool) d a b (q : BitVec 3) sc s s1 s2 s3 s4 t x y c r z, readV a s = .ok x s1 → readV b s1 = .ok y s2 → readV d s2 = .ok c s3 →
      distTag x.tag y.tag = some c.tag → scaleSource x.tag a s3 = .ok z s4 → z.tag = .e8m0 → (x.tag.scaled = true → a.toNat < 27) →
      (let n := 16 * 2 ^ (q.toNat % 4)
       let o := 32 * (q.toNat / 4)
       let sum := fun i => segmentSum l2 (scaledValue x.tag x.val.toNat z.val.toNat)
         (fun e => tagValue y.tag (lane y.val.toNat y.tag.width (e % (2048 / y.tag.width)))) ((i - o) * n) n
       HoldsElems 32 c.val r (fun i => o ≤ i ∧ i < o + s4.me.vl * 8 / x.tag.width / n)
        (fun i => if c.tag = .int32 then ((signedOf 32 (lane c.val.toNat 32 i) + (sum i).toInt) % 2 ^ 32).toNat
          else codeOf fmtFp32 (add32 (valueOf fmtFp32 (lane c.val.toNat 32 i)) (sum i)))) →
      writeVL d { val := r, tag := c.tag } 6 s4 = .ok ⟨⟩ t →
      Completes 4 (if l2 then .vdistL2 d a b q sc else .vdistDot d a b q sc) sc.toNat s t)
  ∧ (∀ (l2 : Bool) d a b (q : BitVec 3) sc s s1 s2 s3 s4 x y c z, readV a s = .ok x s1 → readV b s1 = .ok y s2 → readV d s2 = .ok c s3 →
      scaleSource x.tag a s3 = .ok z s4 →
      let i : Instr := if l2 then .vdistL2 d a b q sc else .vdistDot d a b q sc
      (x.tag = .poison ∨ y.tag = .poison ∨ c.tag = .poison ∨ z.tag = .poison → Traps i s { cause := 0x10, val := s.me.pc.setWidth 64 })
      ∧ (x.tag ≠ .poison → y.tag ≠ .poison → c.tag ≠ .poison → z.tag ≠ .poison →
        (distTag x.tag y.tag ≠ some c.tag → Traps i s { cause := 0x03, val := BitVec.ofNat 64 (x.tag.code + 16 * y.tag.code) })
        ∧ (distTag x.tag y.tag = some c.tag → x.tag.scaled = true → 27 ≤ a.toNat →
          Traps i s { cause := 0x03, val := BitVec.ofNat 64 (x.tag.code + 16 * y.tag.code) })
        ∧ (distTag x.tag y.tag = some c.tag → x.tag.scaled = true → a.toNat < 27 → z.tag ≠ .e8m0 →
          Traps i s { cause := 0x03, val := BitVec.ofNat 64 (x.tag.code + 16 * z.tag.code) })))
  ∧ (∀ d a (k : BitVec 3) sc s s1 s2 t x, readV a s = .ok x s1 → x.tag = .fp32 →
      (let m := matOf x.val
       let r := cholColumns m (mul32 (v32 s.me.choleps.toNat) (diagMax m 7)) (v32 s.me.cholreg.toNat) 0 8 (List.replicate 64 (.fin false 0 0), 0)
       writeVL d (matReg r.1) 24 s1 = .ok ⟨⟩ s2 ∧ writePL k.toNat (BitVec.ofNat 256 r.2) 24 s2 = .ok ⟨⟩ t) →
      Completes 4 (.vchol8 d a k sc) sc.toNat s t)
  ∧ (∀ d a b sc s s1 s2 t x y, readV a s = .ok x s1 → readV b s1 = .ok y s2 → x.tag = .fp32 → y.tag = .fp32 →
      writeVL d (matReg (solveColumns (matOf x.val) (matOf y.val) 0 8 (List.replicate 64 (.fin false 0 0)))) 16 s2 = .ok ⟨⟩ t →
      Completes 4 (.vtrs8 d a b sc) sc.toNat s t)
  ∧ (∀ d a (k : BitVec 3) sc s s1 x, readV a s = .ok x s1 → TrapsOnTag (.vchol8 d a k sc) s (fun t => decide (t = .fp32)) x.tag)
  ∧ (∀ d a b sc s s1 s2 x y, readV a s = .ok x s1 → readV b s1 = .ok y s2 →
      TrapsOnTags (.vtrs8 d a b sc) s (fun t => decide (t = .fp32)) x.tag y.tag)

/-- R287, R288, R286: requests for the XU, their computation and their results. The bits 7:4 of TRAPVAL where one operand is tagged are the
reading of log 80. -/
def Obligations.TransformUnitRequests : Prop :=
  (∀ (d a b : BitVec 5) (sc : BitVec 3) (s s1 s2 : State) (x : VReg) (v : Word), readV a s = .ok x s1 → readS b s1 = .ok v s2 → (x.tag = .fp32 ∨ x.tag = .fp16 ∨ x.tag = .bf16) →
      (v.toNat % 32 < 7 ∨ 16 ≤ v.toNat % 32 ∧ (Map.get? s.home.tables (v.toNat % 32 - 16)).isSome = true) →
      (∀ i t, Config.xuPlaces ≤ (s.home.places.filter XuPlace.held).length → deferS d 1 0 s2 = .ok i t →
        Completes 4 (.xreq d a b sc) sc.toNat s t)
      ∧ (∀ i t, (s.home.places.filter XuPlace.held).length < Config.xuPlaces →
        (let q : XuPlace := { core := s.cur.1, level := s.cur.2, sel := v.toNat % 32, vl := s.me.vl, x := x }
         deferS d 0 0 (s2.modCluster (clusterOf s2.cur.1) fun k => { k with places := k.places ++ [q] }) = .ok i t) →
        Completes 4 (.xreq d a b sc) sc.toNat s t))
  ∧ (∀ (d a b : BitVec 5) (sc : BitVec 3) (s s1 s2 : State) (x : VReg) (v : Word), readV a s = .ok x s1 → readS b s1 = .ok v s2 → (x.tag = .fp32 ∨ x.tag = .fp16 ∨ x.tag = .bf16) →
      7 ≤ v.toNat % 32 → (v.toNat % 32 < 16 ∨ Map.get? s.home.tables (v.toNat % 32 - 16) = none) →
      Traps (.xreq d a b sc) s { cause := 0x03, val := BitVec.ofNat 64 (v.toNat % 32) })
  ∧ (∀ d a b sc s s1 s2 x v, readV a s = .ok x s1 → readS b s1 = .ok v s2 →
      TrapsOnTag (.xreq d a b sc) s (fun t => decide (t = .fp32) || decide (t = .fp16) || decide (t = .bf16)) x.tag)
  ∧ (∀ d sc s, (∀ q ∈ s.home.places, q.heldBy s.cur.1 s.cur.2 = false) → Traps (.xget d sc) s { cause := 0x13 })
  ∧ (∀ (d : BitVec 5) (sc : BitVec 3) (s : State) (l : List XuPlace) (q : XuPlace) (r : List XuPlace) (res old : BitVec 2048) (s1 : State) (i : Nat) (t : State), s.home.places = l ++ q :: r → (∀ x ∈ l, x.heldBy s.cur.1 s.cur.2 = false) →
      q.heldBy s.cur.1 s.cur.2 = true → q.result = some res → oldV d s = .ok old s1 →
      deferV d { val := lowOver q.vl res old, tag := q.x.tag } 0 s1 = .ok i t →
      Completes 4 (.xget d sc) sc.toNat s (t.modCluster (clusterOf t.cur.1) fun k => { k with places := removeAt k.places l.length }))
  ∧ (∀ (d : BitVec 5) (sc : BitVec 3) (s : State) (l : List XuPlace) (q : XuPlace) (r : List XuPlace) (old : BitVec 2048) (s1 : State) (i : Nat) (t : State), s.home.places = l ++ q :: r → (∀ x ∈ l, x.heldBy s.cur.1 s.cur.2 = false) →
      q.heldBy s.cur.1 s.cur.2 = true → q.result = none → oldV d s = .ok old s1 → deferV d { val := old, tag := q.x.tag } 1 s1 = .ok i t →
      Completes 4 (.xget d sc) sc.toNat s
        (t.modCluster (clusterOf t.cur.1) fun k => { k with places := k.places.set l.length { q with taken := some i } }))
  ∧ (∀ k (s : State) l q r, (s.cluster k).places = l ++ q :: r → (∀ x ∈ l, x.result.isSome = true) → q.result = none → q.taken = none →
      let z := { q with result := some (q.compute (s.cluster k).tables) }
      Leads (.xuCompute k) s (s.modCluster k fun y => { y with places := y.places.set l.length z }))
  ∧ (∀ k (s : State) l q r id, (s.cluster k).places = l ++ q :: r → (∀ x ∈ l, x.result.isSome = true) → q.result = none →
      q.taken = some id →
      Leads (.xuCompute k) s ((s.modCluster k fun y => { y with places := removeAt y.places l.length }).modCtx q.core q.level fun x =>
        x.answerLow id q.vl (q.compute (s.cluster k).tables)))
  ∧ (∀ (q : XuPlace) tb e, q.vl ≤ 256 → (q.x.tag = .fp32 ∨ q.x.tag = .fp16 ∨ q.x.tag = .bf16) → e * q.x.tag.width < q.vl * 8 →
      lane (q.compute tb).toNat q.x.tag.width e =
        encodeFp (xuFunction tb q.sel (valueOf q.x.tag.fmtF (lane q.x.val.toNat q.x.tag.width e))) q.x.tag.fmtF .rne false % 2 ^ q.x.tag.width)

/-- R290 to R292: the top-k unit. -/
def Obligations.TopKUnit : Prop :=
  (∀ d a b sc s s1 s2 w th, readS a s = .ok w s1 → readS b s1 = .ok th s2 →
      (2 ^ 16 ≤ w.toNat ∨ w.getLsbD 11 = true ∨ w.toNat / 2 ^ 12 % 4 = 3 ∨ w.toNat % 2 ^ 11 = 0 ∨ 1024 < w.toNat % 2 ^ 11) →
      Traps (.kinit d a b sc) s { cause := 0x13, val := w })
  ∧ (∀ d a b sc s s1 s2 w th, readS a s = .ok w s1 → readS b s1 = .ok th s2 → w.toNat < 2 ^ 16 → w.getLsbD 11 = false →
      w.toNat / 2 ^ 12 % 4 < 3 → 1 ≤ w.toNat % 2 ^ 11 → w.toNat % 2 ^ 11 ≤ 1024 →
      let i := if w.getLsbD 15 then 1 else 0
      let other := (Map.getD s.home.ku i {}).owner
      (∀ j t, other ≠ none → other ≠ some s.cur → deferS d 1 0 s2 = .ok j t → Completes 4 (.kinit d a b sc) sc.toNat s t)
      ∧ (∀ j t, (other = none ∨ other = some s.cur) → s.home.kuOf s.cur.1 s.cur.2 = none ∨ other = some s.cur ∧
          (∃ q, s.home.kuOf s.cur.1 s.cur.2 = some (i, q)) →
        (let n := w.toNat
         let q : Ku := { owner := some s.cur, k := n % 2 ^ 11, key := n / 2 ^ 12 % 4, thr := w.getLsbD 14, theta := th.setWidth 32, list := [], buf := [] }
         deferS d 0 0 (s2.modCluster (clusterOf s2.cur.1) fun y => y.setKu i q) = .ok j t) →
        Completes 4 (.kinit d a b sc) sc.toNat s t)
      ∧ (∀ j q, (other = none ∨ other = some s.cur) → s.home.kuOf s.cur.1 s.cur.2 = some (j, q) → j ≠ i →
        Traps (.kinit d a b sc) s { cause := 0x13, val := w }))
  ∧ (∀ p d a b sc s s1 s2 s3 pr x y i q, readP p.toNat s = .ok pr s1 → readV a s1 = .ok x s2 → readV b s2 = .ok y s3 →
      s.home.kuOf s.cur.1 s.cur.2 = some (i, q) → x.tag = (if q.key = 0 then .fp32 else .int32) → (y.tag = .int32 ∨ y.tag = .raw) →
      (∀ j t, q.buf ≠ [] → deferS d 1 0 s3 = .ok j t → Completes 4 (.kadd p d a b sc) sc.toNat s t)
      ∧ (∀ j t, q.buf = [] →
        (let pairs := ((List.range 64).filter fun n => decide (4 * n < s.me.vl) && pr.getLsbD (4 * n)).map fun n =>
            (BitVec.ofNat 32 (lane x.val.toNat 32 n), BitVec.ofNat 32 (lane y.val.toNat 32 n))
         deferS d 0 0 (s3.modCluster (clusterOf s3.cur.1) fun k => k.setKu i { q with buf := pairs }) = .ok j t) →
        Completes 4 (.kadd p d a b sc) sc.toNat s t))
  ∧ (∀ p d a b sc s s1 s2 s3 pr x y, readP p.toNat s = .ok pr s1 → readV a s1 = .ok x s2 → readV b s2 = .ok y s3 →
      s.home.kuOf s.cur.1 s.cur.2 = none → Traps (.kadd p d a b sc) s { cause := 0x13 })
  ∧ (∀ p d a b sc s s1 s2 s3 pr x y i q, readP p.toNat s = .ok pr s1 → readV a s1 = .ok x s2 → readV b s2 = .ok y s3 →
      s.home.kuOf s.cur.1 s.cur.2 = some (i, q) →
      (x.tag = .poison ∨ y.tag = .poison → Traps (.kadd p d a b sc) s { cause := 0x10, val := s.me.pc.setWidth 64 })
      ∧ (x.tag ≠ .poison → y.tag ≠ .poison → (x.tag ≠ (if q.key = 0 then .fp32 else .int32) ∨ (y.tag ≠ .int32 ∧ y.tag ≠ .raw)) →
        Traps (.kadd p d a b sc) s { cause := 0x03, val := BitVec.ofNat 64 (x.tag.code + 16 * y.tag.code) }))
  ∧ (∀ k n s q, Map.get? (s.cluster k).ku n = some q → q.buf ≠ [] → Leads (.kuTakePair k n) s (s.modCluster k fun y => y.setKu n q.take))
  ∧ (∀ (q : Ku) x r, q.buf = x :: r → (q.take).buf = r ∧
      (q.rejects x = true → (q.take).list = q.list) ∧ (q.rejects x = false → ∃ l : List (BitVec 32 × BitVec 32), (q.take).list = l.take q.k ∧ l.Perm (x :: q.list)
          ∧ (BeforeSorted q.key q.list → BeforeSorted q.key l)))
  ∧ (∀ (x y : Nat × Nat), x.1 < 2 ^ 32 → y.1 < 2 ^ 32 →
      (before 1 x y = true ↔ Int.bmod x.1 (2 ^ 32) < Int.bmod y.1 (2 ^ 32) ∨ x.1 = y.1 ∧ x.2 < y.2)
      ∧ (before 2 x y = true ↔ x.1 < y.1 ∨ x.1 = y.1 ∧ x.2 < y.2)
      ∧ (before 0 x y = true ↔ fp32Before x.1 y.1 ∨ ¬ fp32Before y.1 x.1 ∧ x.2 < y.2))
  ∧ (∀ (s : State) c l k a pc ps i x, Mem.wf s.cmem = true → (∀ j, j < ps.length → s.guarded k (a + 8 * j) = false) → ps[i]? = some x →
      (s.writePairs c l k a pc ps).cread k (a + 8 * i) 8 = x.2.toNat * 2 ^ 32 + x.1.toNat)
  ∧ (∀ d a b sc s s0 s1 s2 s3 A f i q addr, claimDest d s = .ok ⟨⟩ s0 → readS a s0 = .ok A s1 → readS b s1 = .ok f s2 →
      s.home.kuOf s.cur.1 s.cur.2 = some (i, q) → f.toNat < 2 → checkLocal A (8 * q.k) 8 true s2 = .ok addr s3 →
      (∀ j t, Config.rangeMax ≤ s.home.ranges.length → deferS d (BitVec.allOnes 64) 0 s3 = .ok j t → Completes 4 (.kdrain d a b sc) sc.toNat s t)
      ∧ (s.home.ranges.length < Config.rangeMax → ∃ u id, exec (.kdrain d a b sc) s = .next u ∧ u.me.pc = s.me.pc
          ∧ u.me.op = .kdrain addr (f.getLsbD 0) d.toNat id ∧ u.home.ranges = (s.home.addRange
            { id := id, dest := true, tree := false, core := s.cur.1, level := s.cur.2, addr := addr, len := 8 * q.k }).ranges))
  ∧ (∀ d a b sc s s0 s1 s2 A f, claimDest d s = .ok ⟨⟩ s0 → readS a s0 = .ok A s1 → readS b s1 = .ok f s2 →
      (s.home.kuOf s.cur.1 s.cur.2 = none → Traps (.kdrain d a b sc) s { cause := 0x13 })
      ∧ (∀ i q, s.home.kuOf s.cur.1 s.cur.2 = some (i, q) → 2 ≤ f.toNat → Traps (.kdrain d a b sc) s { cause := 0x13, val := f })
      ∧ (∀ i q s3 x, s.home.kuOf s.cur.1 s.cur.2 = some (i, q) → f.toNat < 2 →
          checkLocal A (8 * q.k) 8 true s2 = .error (.trap x) s3 → Traps (.kdrain d a b sc) s x))
  ∧ (∀ c l (s : State) addr rel d id i q, (s.ctx c l).op = .kdrain addr rel d id → (s.cluster (clusterOf c)).kuOf c l = some (i, q) → q.buf = [] →
      Leads (.kdrainWrite c l) s
        (let z := if rel then { q with owner := none, list := [] } else q
         let s1 := s.writePairs c l (clusterOf c) addr (s.ctx c l).pc.toNat q.list
         let s2 := s1.modCluster (clusterOf c) fun y => { y.setKu i z with ranges := y.ranges.filter fun r => decide (r.id ≠ id) }
         (s2.giveS c l d (BitVec.ofNat 64 q.list.length)).finishWait c l))

/-- R298 to R300, R302, R313, R314: requests, grants, limits, handover and release of an array. The TRAPVAL of a run-to-completion mlease that would
wait, LEASE with the request appended, is the model's reading (log 33). -/
def Obligations.MatrixArrayLeases : Prop :=
  (∀ sc (s : State), let q := s.quad (quadOf s.cur.1)
      q.awaits s.cur.1 s.cur.2 = false → q.otherLevel s.cur.1 s.cur.2 = false →
      (q.holder = some s.cur → q.atLimit = false → q.expiring = false → q.freeing = false → Completes 4 (.mlease sc) sc.toNat s s)
      ∧ (q.holder = none → q.queue = [] → ∃ u, Completes 4 (.mlease sc) sc.toNat s u ∧
          (u.quad (quadOf s.cur.1)).holder = some s.cur ∧ (u.quad (quadOf s.cur.1)).queue = [] ∧ (u.quad (quadOf s.cur.1)).commands = 0
          ∧ (u.quad (quadOf s.cur.1)).cycles = 0 ∧
          (q.last ≠ some (s.here.gang.getD 0, s.cur.1, s.cur.2) → (u.quad (quadOf s.cur.1)).arr = ArrayState.cleared)
          ∧ (q.last = some (s.here.gang.getD 0, s.cur.1, s.cur.2) → (u.quad (quadOf s.cur.1)).arr = q.arr))
      ∧ (∀ h, q.holder = some h → h ≠ s.cur → s.me.rtc = false → ∃ u, exec (.mlease sc) s = .next u ∧ u.me.st = .waiting ∧ u.me.wait = .lease
          ∧ u.me.pc = s.me.pc ∧ (u.quad (quadOf s.cur.1)).queue = q.queue ++ [{ core := s.cur.1, level := s.cur.2 }])
      ∧ ((q.holder = none ∨ q.expiring = true ∨ q.freeing = true ∨ q.atLimit = true) → q.queue ≠ [] → s.me.rtc = false →
          ∃ u, exec (.mlease sc) s = .next u ∧ u.me.st = .waiting ∧ u.me.wait = .lease ∧ u.me.pc = s.me.pc
            ∧ (u.quad (quadOf s.cur.1)).queue = q.queue ++ [{ core := s.cur.1, level := s.cur.2 }])
      ∧ (let p := if q.atLimit then q.limit else q
         (p.holder ≠ some s.cur ∨ p.expiring = true ∨ p.freeing = true) → (p.holder ≠ none ∨ p.queue ≠ []) → s.me.rtc = true →
          Traps (.mlease sc) s { cause := 0x13, val := (s.modQuad (quadOf s.cur.1) fun _ =>
            { p with freeing := p.freeing && !decide (p.holder = some s.cur)
                     queue := p.queue ++ [{ core := s.cur.1, level := s.cur.2 }] }).leaseWord s.cur.1 }))
  ∧ (∀ sc (s : State), (s.quad (quadOf s.cur.1)).awaits s.cur.1 s.cur.2 = false → (s.quad (quadOf s.cur.1)).atLimit = false →
      (s.quad (quadOf s.cur.1)).otherLevel s.cur.1 s.cur.2 = true → Traps (.mlease sc) s { cause := 0x13, val := s.leaseWord s.cur.1 })
  ∧ (∀ sc (s : State), (s.quad (quadOf s.cur.1)).awaits s.cur.1 s.cur.2 = false → (s.quad (quadOf s.cur.1)).holder = some s.cur →
      ∃ u, Completes 4 (.mfree sc) sc.toNat s u ∧ (u.quad (quadOf s.cur.1)).freeing = true
        ∧ (u.quad (quadOf s.cur.1)).cmds = (s.quad (quadOf s.cur.1)).cmds ∧ (u.quad (quadOf s.cur.1)).holder = some s.cur)
  ∧ (∀ sc (s : State), (s.quad (quadOf s.cur.1)).awaits s.cur.1 s.cur.2 = false → (s.quad (quadOf s.cur.1)).holder ≠ some s.cur →
      Traps (.mfree sc) s { cause := 0x0F, val := s.leaseWord s.cur.1 })
  ∧ (∀ n (s : State) r rs, (s.quad n).holder = none → (s.quad n).queue = r :: rs → r.saved = none →
      ∃ t, Leads (.leaseGrant n) s t ∧ (t.quad n).holder = some (r.core, r.level) ∧ (t.quad n).queue = rs
        ∧ (t.quad n).commands = 0 ∧ (t.quad n).cycles = 0 ∧ (t.quad n).expiring = false
        ∧ ((s.quad n).last ≠ some ((s.core r.core).gang.getD 0, r.core, r.level) → (t.quad n).arr = ArrayState.cleared)
        ∧ ((s.ctx r.core r.level).wait = .lease → (t.ctx r.core r.level).st = .ready))
  ∧ (∀ n (s : State) h, (s.quad n).holder = some h → (s.quad n).expiring = false → (64 ≤ (s.quad n).commands ∨ 65536 ≤ (s.quad n).cycles) →
      ((s.quad n).queue = [] → Leads (.leaseLimit n) s (s.modQuad n fun q => { q with commands := 0, cycles := 0 }))
      ∧ ((s.quad n).queue ≠ [] → Leads (.leaseLimit n) s (s.modQuad n fun q => { q with expiring := true, suspCycles := 0 })))
  ∧ (∀ n (s : State) h r rs, (s.quad n).holder = some h → (s.quad n).expiring = true → (s.quad n).cmds = [] → (s.quad n).queue = r :: rs →
      ∃ t, Leads (.leaseHandover n) s t ∧ (t.quad n).holder = some (r.core, r.level) ∧ (t.quad n).queue = rs)
  ∧ (∀ n (s : State) h, (s.quad n).holder = some h → (s.quad n).freeing = true → (s.quad n).cmds = [] →
      ∃ t, Leads (.leaseRelease n) s t ∧ (t.quad n).holder = none ∧ (t.quad n).queue = (s.quad n).queue)
  ∧ (∀ n (s : State) h, (s.quad n).holder = some h → (s.quad n).expiring = true → (s.quad n).suspended = true → 65536 ≤ (s.quad n).suspCycles →
      ∃ t, Leads (.suspensionTimeout n) s t ∧ (t.quad n).suspended = false ∧ (t.quad n).cmds = (s.quad n).cmds.take (s.quad n).firstStopped
        ∧ (t.quad n).holder = some h)

/-- R303, R315 to R321: issuing commands, and mstat and mcheck. What mcheck discards after a core stop is the reading of log 35. -/
def Obligations.MatrixCommandIssue : Prop :=
  CompletesCommand .mload .mload 0 ∧ CompletesCommand .mscale .mscale 0
  ∧ (∀ p : BitVec 2, CompletesCommand (.mmul p) .mmul p.toNat) ∧ (∀ p : BitVec 1, CompletesCommand (.mdrain p) .mdrain p.toNat)
  ∧ (∀ d a sc, TrapsWithoutLease (.mload d a sc) ∧ TrapsWithoutLease (.mscale d a sc) ∧ TrapsWithoutLease (.mswap sc)
      ∧ (∀ p, TrapsWithoutLease (.mmul p d a sc)) ∧ ∀ p, TrapsWithoutLease (.mdrain p d a sc))
  ∧ (∀ sc (s : State), let q := s.quad (quadOf s.cur.1)
      q.awaits s.cur.1 s.cur.2 = false → q.atLimit = false → q.holder = some s.cur → q.expiring = false → q.freeing = false →
      (q.cmds.length < 16 → s.performed s.cur.1 s.cur.2 = true →
        (let m : MCmd := { op := .mswap, seq := q.accepted % 64 }
         Completes 4 (.mswap sc) sc.toNat s (s.modQuad (quadOf s.cur.1) fun y =>
          { y with cmds := q.cmds ++ [m], accepted := q.accepted + 1, commands := q.commands + 1 })))
      ∧ (16 ≤ q.cmds.length → Waits (.mswap sc) s))
  ∧ (∀ d sc (s : State) j t, (s.quad (quadOf s.cur.1)).awaits s.cur.1 s.cur.2 = false →
      deferS d (s.mstatWord s.cur.1 s.cur.2) 0 s = .ok j t → Completes 4 (.mstat d sc) sc.toNat s t)
  ∧ (∀ d a sc (s : State) s1 x, let n := quadOf s.cur.1
      let q := s1.quad n
      (s.quad n).awaits s.cur.1 s.cur.2 = false → claimDest d s = .ok ⟨⟩ s → readS a s = .ok x s1 →
      (2 < x.toNat → Traps (.mcheck d a sc) s { cause := 0x13, val := x })
      ∧ (∀ j t, x = 0 → (q.holder ≠ some s.cur ∨ q.cmds = [] ∨ q.suspended = true) → deferS d (s1.mstatWord s.cur.1 s.cur.2) 0 s1 = .ok j t →
          Completes 4 (.mcheck d a sc) sc.toNat s t)
      ∧ (x = 0 → q.holder = some s.cur → q.cmds ≠ [] → q.suspended = false → s1.me.rtc = false →
          ∃ u, exec (.mcheck d a sc) s = .next u ∧ u.me.st = .waiting ∧ u.me.wait = .mcheck d.toNat)
      ∧ (∀ j t, x = 1 → q.holder = some s.cur → q.suspended = false → deferS d 1 0 s1 = .ok j t → Completes 4 (.mcheck d a sc) sc.toNat s t)
      ∧ (∀ j t, x = 1 → q.holder = some s.cur → q.suspended = true →
          deferS d 0 0 ((s1.modQuad n fun y => { y with suspended := false, suspCycles := 0, cmds := y.cmds.map fun m => { m with stopped := false } }).clearRowprog
            s.cur.1) = .ok j t → Completes 4 (.mcheck d a sc) sc.toNat s t)
      ∧ (∀ j t, x = 2 → q.holder = some s.cur → q.suspended = true →
          deferS d (BitVec.ofNat 64 (q.cmds.length - q.firstStopped)) 0 (s1.discardCmds n) = .ok j t → Completes 4 (.mcheck d a sc) sc.toNat s t)
      ∧ (∀ j t, x = 2 → q.holder = some s.cur → q.suspended = false → deferS d 0 0 s1 = .ok j t → Completes 4 (.mcheck d a sc) sc.toNat s t)
      ∧ (x = 0 → q.holder = some s.cur → q.cmds ≠ [] → q.suspended = false → s1.me.rtc = true → Traps (.mcheck d a sc) s { cause := 0x13 })
      ∧ (x = 1 ∨ x = 2 → q.holder ≠ some s.cur → Traps (.mcheck d a sc) s { cause := 0x0F, val := s1.leaseWord s.cur.1 }))

/-- R304, R306 to R309, R317: steps of commands, their stops and reruns, and the exchange of mswap. A step of mmul is rerun when the sums of its
checksums differ from those of its products by more than 2^−16 of their magnitude. Where the sums are rounded and what a fault makes of them is
the model's choice (log 34). -/
def Claims.matrixSteps : Prop :=
  (∀ n lane f1 f2 (s : State) i m c l, lane < 2 → (s.quad n).laneHead lane = some (i, m) → (s.quad n).holder = some (c, l) → s.arrayRuns n = true →
      (m.started = false → canStart m ((s.quad n).cmds.take i) = true → Leads (.matrixStep n lane f1 f2) s (s.startCmd n i m c))
      ∧ (∀ t next, m.started = true → s.stepCmd n (((s.gangOf c).map (·.asid)).getD 0) m = .ok (t, next) →
          let checks := s.stepChecks n (((s.gangOf c).map (·.asid)).getD 0) m f1 f2
          (checks = none → Leads (.matrixStep n lane f1 f2) s (t.endStep n i m c next))
          ∧ (∀ w, checks = some (false, w) → Leads (.matrixStep n lane f1 f2) s ((t.modQuad n Quad.rerun).endStep n i m c next))
          ∧ (∀ w, checks = some (true, w) →
              ∃ u, Leads (.matrixStep n lane f1 f2) s u ∧ (u.quad n).suspended = true ∧ (u.quad n).arr = (s.quad n).arr
                ∧ (u.quad n).checks = (s.quad n).checks + 1
                ∧ ∃ e ∈ (u.ctx c l).pendTraps, e.cause = 0x0E ∧ e.val = checkWord n m w))
      ∧ (∀ f val row mac, m.started = true → s.stepCmd n (((s.gangOf c).map (·.asid)).getD 0) m = .error (.fault f val row mac) →
          ∃ u, Leads (.matrixStep n lane f1 f2) s u ∧ (u.quad n).suspended = true ∧ (u.quad n).arr = (s.quad n).arr
            ∧ ∃ e ∈ (u.ctx c l).pendTraps, e.cause = 0x0D ∧ e.detail = f.detail ∧ e.val = val))
  ∧ (∀ (s : State) n asid m f g, m.op ≠ .mmul → s.stepChecks n asid m f g = none)
  ∧ (∀ (s : State) n asid m f g l, m.op = .mmul → s.stepActs asid m = .ok l →
      let p := (s.quad n).arr.live
      let acts := actRows m.map.tag l (min (m.row + 32) m.map.view.height - m.row)
      (s.stepChecks n asid m f g = none ↔ (∀ i < acts.length, p.rowFails (acts.getD i []) i f = false) ∧ ∀ j < 256, p.colFails acts j f = false)
      ∧ ∀ b w, s.stepChecks n asid m f g = some (b, w) →
          (b = true ↔ (∃ i < acts.length, p.rowFails (acts.getD i []) i g = true) ∨ ∃ j < 256, p.colFails acts j g = true)
          ∧ ∀ k < 16, (w.getLsbD k = true ↔ ∃ j, 16 * k ≤ j ∧ j < 16 * k + 16 ∧ p.colFails acts j g = true))
  ∧ (∀ check sum size : Fp, (check = .nan ∨ sum = .nan ∨ size = .nan) → compareFails check sum size = false)
  ∧ (∀ n (s : State) m r, (s.quad n).cmds = m :: r → m.op = .mswap → s.arrayRuns n = true → ∃ t, Leads (.mswapEffect n) s t ∧ (t.quad n).cmds = r
      ∧ (t.quad n).arr.live = (s.quad n).arr.shadow ∧ (t.quad n).arr.shadow = (s.quad n).arr.live
      ∧ (∀ x y, (s.quad n).arr.scaleQ = x :: y → (t.quad n).arr.scales = x ∧ (t.quad n).arr.scaleQ = y))

/-- R263, R318: after a step of mmul each accumulator of its rows holds the sum over the K-blocks, in order and rounded once a block,
of the exact block sums; the other accumulators are as before. -/
def Claims.matrixProduct : Prop :=
  ∀ n asid (s : State) m t next, m.op = .mmul → m.map.view.height ≤ 256 → s.stepCmd n asid m = .ok (t, next) →
    next = min (m.row + 32) m.map.view.height
    ∧ (∀ i j, m.row ≤ i → i < next → j < 256 → ∃ (s0 : State) (codes : List Nat), s0 = { s with slices := s0.slices } ∧
        s0.stepCodes asid m.map.view (grid m.row (next - m.row) 256) = .ok codes ∧
        (t.quad n).arr.accAt (m.plane % 2) i j =
          accumulate (s.quad n).arr m.map.view.tag ((codes.drop (256 * (i - m.row))).take 256) j
            (if 2 ≤ m.plane then 0 else (s.quad n).arr.accAt (m.plane % 2) i j) % 2 ^ 32)
    ∧ (∀ p i j, p < 2 → i < 256 → j < 256 → (p ≠ m.plane % 2 ∨ i < m.row ∨ next ≤ i) → (t.quad n).arr.accAt p i j = (s.quad n).arr.accAt p i j)

/-- R304, R306 to R309, R317: steps of commands, their stops and reruns, and the exchange of mswap. A step of mmul is rerun when the sums of
its checksums differ from those of its products by more than 2^−16 of their magnitude. Where the sums are rounded and what a fault makes
of them is the model's choice (log 34). R263, R318: after a step of mmul each accumulator of its rows holds the sum over the K-blocks, in
order and rounded once a block, of the exact block sums; the other accumulators are as before. -/
def Obligations.MatrixStepsAndProducts : Prop := Claims.matrixSteps ∧ Claims.matrixProduct

/-- R357 to R359, R351, R349: taking, freeing, reading and writing nodes. At the issuing core a step is part of the instruction; at another
owner it is an event. At another owner the step is an event. nfree reads its targets by the ARITY at issue (log 39). -/
def Obligations.RewritingNodes : Prop :=
  (∀ d sc (s : State) j t, (s.here.freeHead = 0 ∨ s.here.freeLen = 0) → deferS d 0 0 s = .ok j t → Completes 4 (.nalloc d sc) sc.toNat s t)
  ∧ (∀ d sc (s : State) j u, s.here.freeHead ≠ 0 → s.here.freeLen ≠ 0 → s.performed s.cur.1 s.cur.2 = true →
      (let a := s.here.freeHead
       let k := clusterOf s.cur.1
       let next := s.cread k (a + 8) 8 / 2 ^ 5 % 2 ^ 17 * 32
       let t := s.modCore s.cur.1 fun y => { y with freeHead := next, freeLen := y.freeLen - 1 }
       let t1 := (((t.cwrite k a 8 (2 ^ 29 + s.cur.2 % 4 * 2 ^ 30)).cwrite k (a + 8) 8 0).cwrite k (a + 16) 8 0).cwrite k (a + 24) 8 0
       deferS d (BitVec.ofNat 64 (s.coreId s.cur.1 % 2 ^ 13 * 2 ^ 22 + a)) 0
        (t1.modCtx s.cur.1 s.cur.2 fun x => { x with holds := x.holds ++ [a] }) = .ok j u) → Completes 4 (.nalloc d sc) sc.toNat s u)
  ∧ (∀ d a (w : BitVec 2) sc s s1 pr j t, claimDest d s = .ok ⟨⟩ s → readS a s = .ok pr s1 → OwnRef s1 pr false →
      s1.performed s1.cur.1 s1.cur.2 = true →
      deferS d (if w = 0 then s1.nword s1.cur.1 pr 0 &&& ~~~BitVec.ofNat 64 0xFFFFFE00 else s1.nword s1.cur.1 pr w.toNat) 0 s1 = .ok j t →
      Completes 4 (.nld d a w sc) sc.toNat s t)
  ∧ (∀ d a (w : BitVec 2) sc s s1 pr o, claimDest d s = .ok ⟨⟩ s → readS a s = .ok pr s1 → s1.prFault s1.cur.1 pr false = none →
      s1.prOwner s1.cur.1 pr = some o → o ≠ s1.cur.1 → s1.performed s1.cur.1 s1.cur.2 = true →
      ∃ u, exec (.nld d a w sc) s = .next u ∧ u.me.op = .node (.nld d.toNat pr w.toNat) ∧ u.me.pc = s1.me.pc)
  ∧ (∀ d a (w : BitVec 2) sc s s1 s2 pr v, readS a s = .ok pr s1 → readS d s1 = .ok v s2 → OwnRef s2 pr false →
      fwdBit (s2.nword s2.cur.1 pr 0) = false → s2.performed s2.cur.1 s2.cur.2 = true →
      (w ≠ 0 → Completes 4 (.nst d a w sc) sc.toNat s (s2.setNword s2.cur.1 pr w.toNat v))
      ∧ (w = 0 → fwdBit v = false → claimedBit (s2.nword s2.cur.1 pr 0) = false →
          Completes 4 (.nst d a w sc) sc.toNat s (s2.setNword s2.cur.1 pr 0
            ((v &&& ~~~BitVec.ofNat 64 0xFFFFFE00) ||| (s2.nword s2.cur.1 pr 0 &&& BitVec.ofNat 64 0xFFFFFE00)))))
  ∧ (∀ d a sc s s1 s2 pr v, readS a s = .ok pr s1 → readS d s1 = .ok v s2 → OwnRef s2 pr false →
      fwdBit (s2.nword s2.cur.1 pr 0) = false → s2.performed s2.cur.1 s2.cur.2 = true → fwdBit v = false →
      claimedBit (s2.nword s2.cur.1 pr 0) = true → claimant (s2.nword s2.cur.1 pr 0) = s2.whoAmI →
      Completes 4 (.nst d a 0 sc) sc.toNat s (s2.setNword s2.cur.1 pr 0
        ((v &&& ~~~BitVec.ofNat 64 0xFFFFFE00) ||| (headerWithout (s2.nword s2.cur.1 pr 0) true false &&& BitVec.ofNat 64 0xFFFFFE00))))
  ∧ (∀ d a sc s s1 s2 pr v, readS a s = .ok pr s1 → readS d s1 = .ok v s2 → s2.prFault s2.cur.1 pr false = none → fwdBit v = true →
      Traps (.nst d a 0 sc) s { cause := 0x13, val := pr })
  ∧ (∀ d a (w : BitVec 2) sc s s1 s2 pr v, readS a s = .ok pr s1 → readS d s1 = .ok v s2 → OwnRef s2 pr false →
      (w = 0 → fwdBit v = false) → fwdBit (s2.nword s2.cur.1 pr 0) = true → s2.performed s2.cur.1 s2.cur.2 = true → Traps (.nst d a w sc) s { cause := 0x13, val := pr })
  ∧ (∀ a b sc s s1 pr (x : Nat → Word) (σ : Nat → State), readS a s = .ok pr s1 → s1.prFault s1.cur.1 pr false = none → σ 0 = s1 →
      (∀ k, k < 3 → if b = 0 ∨ nodeArity (s1.nword s.cur.1 pr 0) < k then x k = 0 ∧ σ (k + 1) = σ k
        else readS (b + BitVec.ofNat 5 k) (σ k) = .ok (x k) (σ (k + 1)) ∧ (x k = 0 ∨ (σ (k + 1)).prFault (σ (k + 1)).cur.1 (x k) true = none)) →
      OwnRef (σ 3) pr false → fwdBit ((σ 3).nword (σ 3).cur.1 pr 0) = false →
      claimedByOther ((σ 3).nword (σ 3).cur.1 pr 0) (σ 3).whoAmI = false → (σ 3).performed (σ 3).cur.1 (σ 3).cur.2 = true →
      (let c := (σ 3).cur.1
       let h := (σ 3).nword c pr 0
       let s2 := (σ 3).setNword c pr 0 ((h &&& ~~~BitVec.ofNat 64 (2 ^ 13 + 2 ^ 29)) ||| 256)
       Completes 4 (.nfree a b sc) sc.toNat s ((s2.freeSlots c pr 0 ([x 0, x 1, x 2].take (nodeArity h + 1))).recycle c pr)))
  ∧ (∀ (s : State) c l pr w v, (s.ctx c l).op = .node (.nst pr w v) → w ≠ 0 → fwdBit (s.nword c pr 0) = false →
      (s.ctx c l).st ≠ .idle → Leads (.nodeStep c l) s ((s.setNword c pr w v).finishWait c l))
  ∧ (∀ (s : State) c pr w v, Mem.wf s.cmem = true → s.prFault c pr false = none → w < 4 → (s.setNword c pr w v).nword c pr w = v)

/-- R360 to R363, R366: link connects two ports of live nodes; two principal ports enter the churn; a forwarder's end is an error. -/
def Obligations.RewritingLinks : Prop :=
  (∀ a b sc s s1 s2 p q, readS a s = .ok p s1 → readS b s1 = .ok q s2 → OwnRef s2 p true → OwnRef s2 q true → LivePort s2 p → LivePort s2 q →
      s2.performed s2.cur.1 s2.cur.2 = true → s2.slot s2.cur.1 q = 0 →
      let s3 := s2.setSlot s2.cur.1 q p
      s3.slot s2.cur.1 p = 0 → s3.nword s2.cur.1 p 0 = s2.nword s2.cur.1 p 0 →
      let s4 := s3.setSlot s2.cur.1 p q
      ((prPort p ≠ 0 ∨ prPort q ≠ 0) → Completes 4 (.link a b sc) sc.toNat s s4)
      ∧ (prPort p = 0 → prPort q = 0 → s4.here.churn.length < 1280 → ∃ u, Completes 4 (.link a b sc) sc.toNat s u ∧
          u.here.churn = { phase := s4.me.phase.toNat, counter := s4.cur.1, pra := p, prb := q } :: s4.here.churn))
  ∧ (∀ a b sc s s1 s2 p q, readS a s = .ok p s1 → readS b s1 = .ok q s2 → (p = 0 ∨ p.toNat / 4 % 8 ≠ 0 ∨ prPort p = 3) →
      Traps (.link a b sc) s { cause := 0x13, val := p })
  ∧ (∀ a b sc s s1 s2 p q, readS a s = .ok p s1 → readS b s1 = .ok q s2 → OwnRef s2 p true → OwnRef s2 q true →
      s2.performed s2.cur.1 s2.cur.2 = true → prPort p ≤ nodeArity (s2.nword s2.cur.1 p 0) → fwdBit (s2.nword s2.cur.1 p 0) = true →
      s2.slot s2.cur.1 p = 0 → Traps (.link a b sc) s { cause := 0x11, val := p + BitVec.ofNat 64 (2 ^ 63) })
  ∧ (∀ (s : State) c l x o, (s.ctx c l).op = .node (.link x) → x.part = .push → s.prOwner c x.p = some o → (s.core o).churn.length < 1280 →
      (o = c ∨ (s.core o).sysq.length < 16) →
      ∃ t, Leads (.churnPush c l) s t ∧
        (t.core o).churn = { phase := (s.ctx c l).phase.toNat, counter := c, pra := x.p, prb := x.q } :: (s.core o).churn)

/-- R354, R364 to R366: an active pair is taken into its rule, with the types in order; NO_RULE for a forwarder or a rule that is not valid; an
address that is not aligned traps before every effect, which rests on log 40; an empty churn; npush. The slots of the spill ring are the
model's choice (log 37). -/
def Claims.churn : Prop :=
  (∀ sc (s : State) i e h1 h2 s3 s4 s5 x, s.me.rtc = false → (∀ r, r = 20 ∨ r = 21 ∨ r = 22 ∨ r = 23 → s.me.pendingTo (.scalar r) = none) →
      s.performed s.cur.1 s.cur.2 = true → s.nextEntry s.cur.1 (some s.cur.2) = some i → s.here.churn[i]? = some e →
      (∀ q ∈ s.here.churn, q.taken ≠ some s.cur.2) →
      (let s1 := s.modCore s.cur.1 fun k => { k with churn := k.churn.set i { e with taken := some s.cur.2 } }
       s1.prOwner s.cur.1 e.pra = some s.cur.1 ∧ claimNode e.pra s1 = .ok h1 s3) → s3.prOwner s.cur.1 e.prb = some s.cur.1 →
      claimNode e.prb s3 = .ok h2 s4 →
      let first := nodeType h1 ≤ nodeType h2
      let lo := if first then e.pra else e.prb
      let hi := if first then e.prb else e.pra
      let hlo := if first then h1 else h2
      let hhi := if first then h2 else h1
      ruleEntry (nodeType hlo) (nodeType hhi) s4 = .ok x s5 →
      (fwdBit h1 = false → fwdBit h2 = false → x.testBit 31 = true → x % 2 = 0 → ∃ u, commitPop e lo hi hlo hhi s5 = .ok ⟨⟩ u
        ∧ Transfers (.nrun sc) sc.toNat s u (BitVec.ofNat 22 x)
        ∧ u.me.sreg 20 = lo ∧ u.me.sreg 21 = hi ∧ u.me.sreg 22 = plainHeader hlo ∧ u.me.sreg 23 = plainHeader hhi
        ∧ u.me.phase = BitVec.ofNat 4 e.phase ∧ u.here.churn = removeAt s.here.churn i)
      ∧ (fwdBit h1 = false → fwdBit h2 = false → x.testBit 31 = true → x % 2 = 1 →
        Traps (.nrun sc) s { cause := 0x05, val := BitVec.ofNat 64 (x % 2 ^ 22) })
      ∧ ((fwdBit h1 = true ∨ fwdBit h2 = true ∨ x.testBit 31 = false) → ∃ u v, commitPop e lo hi hlo hhi s5 = .ok ⟨⟩ u ∧ unclaim e u = .ok ⟨⟩ v
        ∧ exec (.nrun sc) s = .next (v.afterTrap
          { cause := 0x12, val := BitVec.ofNat 64 (64 * nodeType hlo + nodeType hhi + (if fwdBit h1 || fwdBit h2 then 2 ^ 12 else 0)) } true)
        ∧ v.me.sreg 20 = lo ∧ v.me.sreg 21 = hi))
  ∧ (∀ sc (s : State) t, s.me.rtc = false → (∀ r, r = 20 ∨ r = 21 ∨ r = 22 ∨ r = 23 → s.me.pendingTo (.scalar r) = none) →
      s.performed s.cur.1 s.cur.2 = true → s.nextEntry s.cur.1 (some s.cur.2) = none →
      writeS 20 (if s.here.closed.getLsbD s.me.phase.toNat then 1 else 0) s.beforePop = .ok ⟨⟩ t →
      Completes 4 (.nrun sc) sc.toNat s t)
  ∧ (∀ sc (s : State), s.me.rtc = true → Traps (.nrun sc) s { cause := 0x13 })
  ∧ (∀ a b sc s s1 s2 p q, readS a s = .ok p s1 → readS b s1 = .ok q s2 → s2.prFault s2.cur.1 p true = none → s2.prFault s2.cur.1 q true = none →
      prPort p = 0 → prPort q = 0 → s.here.churn.length < 1280 →
      Completes 4 (.npush a b sc) sc.toNat s ((s2.pushChurn s2.cur.1
        { phase := s.me.phase.toNat, counter := s.cur.1, pra := p, prb := q }).countUp s.cur.1 s.me.phase.toNat))
  ∧ (∀ a b sc s s1 s2 p q, readS a s = .ok p s1 → readS b s1 = .ok q s2 → s2.prFault s2.cur.1 p true = none → s2.prFault s2.cur.1 q true = none →
      prPort p = 0 → prPort q = 0 → 1280 ≤ s.here.churn.length → s.me.rtc = false → Waits (.npush a b sc) s)
  ∧ (∀ a b sc s s1 s2 p q, readS a s = .ok p s1 → readS b s1 = .ok q s2 → s2.prFault s2.cur.1 p true = none → s2.prFault s2.cur.1 q true = none →
      (prPort p ≠ 0 → Traps (.npush a b sc) s { cause := 0x13, val := p })
      ∧ (prPort p = 0 → prPort q ≠ 0 → Traps (.npush a b sc) s { cause := 0x13, val := q })
      ∧ (prPort p = 0 → prPort q = 0 → 1280 ≤ s.here.churn.length → s.me.rtc = true → Traps (.npush a b sc) s { cause := 0x13, val := p }))
  ∧ (∀ (s : State) c e x, Mem.wf s.cmem = true → 256 ≤ (s.core c).churn.length → (s.core c).churn.length < 1280 →
      (s.core c).churn[255]? = some x →
      ((s.pushChurn c e).core c).churn = e :: (s.core c).churn
      ∧ ∀ y, (s.pushChurn c e).cread y (s.ringSlot c ((s.core c).churn.length - 256)) 8 =
          if y = clusterOf c then s.entryWord0 x else s.cread y (s.ringSlot c ((s.core c).churn.length - 256)) 8)
  ∧ (∀ (s : State) c e x, Mem.wf s.cmem = true → 256 ≤ (s.core c).churn.length → (s.core c).churn.length < 1280 →
      (s.core c).churn[255]? = some x → (s.pushChurn c e).cread (clusterOf c) (s.ringSlot c ((s.core c).churn.length - 256) + 8) 8 = entryWord1 x)
  ∧ (∀ (s : State) c e, (s.core c).churn.length < 256 → s.pushChurn c e = s.modCore c fun k => { k with churn := e :: k.churn })

/-- R367 to R369, R372: migration and balancing, and none of either once a pre-emption request has reached the core. A migration moves the entry
from the one churn to the head of the other, with its phase and its counter, in one step, which is the model's choice (log 38). -/
def Claims.balancing : Prop :=
  (∀ (s t : State) c o, c ≠ o → s.migrate c o = some t → ∃ i e n1 n2, (s.core c).churn[i]? = some e ∧ s.nextEntry c none = some i
      ∧ (t.core c).churn = removeAt (s.core c).churn i ∧ (t.core o).churn = { e with pra := n1, prb := n2 } :: (s.core o).churn
      ∧ (s.core o).churn.length < 1280)
  ∧ (∀ d a sc s s1 x g k, claimDest d s = .ok ⟨⟩ s → readS a s = .ok x s1 → s1.gangOf s.cur.1 = some g → g.toPhys (x.toNat % 2 ^ 13) = some k →
      k ≠ s.cur.1 → s1.performed s1.cur.1 s1.cur.2 = true →
      (∀ u j t, s1.here.halting = none → s1.migrate s.cur.1 k = some u → deferS d (BitVec.ofNat 64 (x.toNat % 2 ^ 13)) 0 u = .ok j t →
        Completes 4 (.nmove d a sc) sc.toNat s t)
      ∧ (∀ j t, (s1.here.halting ≠ none ∨ s1.migrate s.cur.1 k = none) → deferS d (BitVec.allOnes 64) 0 s1 = .ok j t → Completes 4 (.nmove d a sc) sc.toNat s t))
  ∧ (∀ d a sc s s1 x g, claimDest d s = .ok ⟨⟩ s → readS a s = .ok x s1 → s1.gangOf s.cur.1 = some g → g.toPhys (x.toNat % 2 ^ 13) = none →
      Traps (.nmove d a sc) s { cause := 0x09, val := BitVec.ofNat 64 (x.toNat % 2 ^ 13) })
  ∧ (∀ d a sc s s1 x g, claimDest d s = .ok ⟨⟩ s → readS a s = .ok x s1 → s1.gangOf s.cur.1 = some g →
      g.toPhys (x.toNat % 2 ^ 13) = some s.cur.1 → Traps (.nmove d a sc) s { cause := 0x13, val := x })
  ∧ (∀ d sc (s : State), claimDest d s = .ok ⟨⟩ s → s.performed s.cur.1 s.cur.2 = true →
      (∀ n u j t, s.here.halting = none → s.exchange s.cur.1 = some (n, u) → deferS d (BitVec.ofNat 64 (s.coreId n)) 0 u = .ok j t → Completes 4 (.nbal d sc) sc.toNat s t)
      ∧ (∀ j t, (s.here.halting ≠ none ∨ s.exchange s.cur.1 = none) → deferS d (BitVec.allOnes 64) 0 s = .ok j t → Completes 4 (.nbal d sc) sc.toNat s t))
  ∧ (∀ (s : State) c n u, s.exchange c = some (n, u) → (s.core n).churn.length + (s.core c).balThreshold < (s.core c).churn.length
      ∧ ∀ dir m, s.gangNeighbour c dir = some m → dir < 4 → (s.core n).churn.length ≤ (s.core m).churn.length)
  ∧ (∀ (s : State) c n, (s.core c).balNext = some n → n ≤ (s.core c).cycle → (s.core c).halting = none → (s.core c).stop = none →
      s.counting c = true → ∃ t, Leads (.autoBalance c) s t ∧ (t.core c).balNext = some (n + (t.core c).balInterval))

/-- R354, R364 to R366: an active pair is taken into its rule, with the types in order; NO_RULE for a forwarder or a rule that is not valid;
an address that is not aligned traps before every effect, which rests on log 40; an empty churn; npush. The slots of the spill ring are
the model's choice (log 37). R367 to R369, R372: migration and balancing, and none of either once a pre-emption request has reached the
core. A migration moves the entry from the one churn to the head of the other, with its phase and its counter, in one step, which is the
model's choice (log 38). -/
def Obligations.ChurnAndBalancing : Prop := Claims.churn ∧ Claims.balancing

/-- R241, R389, R390: snap, configuration registers and system calls. That the trigger word of snap travels to the fabric before its status comes
is the model's choice (log 60). -/
def Claims.systemInstructions : Prop :=
  (∀ d a sc s s1 x j t, claimDest d s = .ok ⟨⟩ s → s.here.snapAllow = true → readS a s = .ok x s1 →
      (s.mod.snapHeld = true → deferS d 1 0 s1.trigger = .ok j t → Completes 4 (.snap d a sc) sc.toNat s t)
      ∧ (s.mod.snapHeld = false → deferS d 0 1 s1 = .ok j t → Completes 4 (.snap d a sc) sc.toNat s
          (t.sendTrigger { source := 3, answer := if d.toNat = 0 then none else some (s.cur.1, s.cur.2, j) })))
  ∧ (∀ d a sc s, claimDest d s = .ok ⟨⟩ s → s.here.snapAllow = false → Traps (.snap d a sc) s { cause := 0x02 })
  ∧ (∀ s : State, (s.mod.snapHeld = true → s.trigger.mod.snapMissed = min (s.mod.snapMissed + 1) 0xFFFF)
      ∧ (s.mod.snapHeld = false → s.trigger.mod.snapHeld = true ∧ s.trigger.mod.snapDue = some (s.mod.frame + 512)))
  ∧ (∀ d a sc s s1 x v j t, claimDest d s = .ok ⟨⟩ s → readS a s = .ok x s1 → x.toNat < 0x80000000 → s1.config x.toNat = some v →
      deferS d v 0 s1 = .ok j t → Completes 4 (.cfgrd d a sc) sc.toNat s t)
  ∧ (∀ d a sc s s1 x, claimDest d s = .ok ⟨⟩ s → readS a s = .ok x s1 → (x.toNat < 0x80000000 ∨ 0x80000100 ≤ x.toNat) → s1.config x.toNat = none →
      Traps (.cfgrd d a sc) s { cause := 0x02 })
  ∧ (∀ d a b sc s s1 s2 x y, claimDest d s = .ok ⟨⟩ s → readS a s = .ok x s1 → readS b s1 = .ok y s2 →
      (x.toNat < 0x80000000 ∨ 0x80000100 ≤ x.toNat) → Traps (.cfgwr d a b sc) s { cause := 0x02 })
  ∧ (∀ d a b sc s s1 s2 x y, claimDest d s = .ok ⟨⟩ s → readS a s = .ok x s1 → readS b s1 = .ok y s2 → 0x80000000 ≤ x.toNat →
      x.toNat < 0x80000100 → s2.me.rtc = false → s2.performed s2.cur.1 s2.cur.2 = true →
      ∃ u, exec (.cfgwr d a b sc) s = .next u ∧ u.me.op = .call (x.toNat % 256) y d.toNat none ∧ u.me.pc = s2.me.pc
        ∧ u.vale.calls = s2.vale.calls ++ [(.context s2.cur.1 s2.cur.2, x.toNat % 256)])
  ∧ (∀ (s : State) c l k arg d v, (s.ctx c l).op = .call k arg d (some v) →
      Leads (.systemCallReturn c l) s ((s.giveS c l d v).finishWait c l))
  ∧ (∀ (s : State) c l k arg d v, (s.ctx c l).op = .call k arg d (some v) → 0 < d → d < 28 →
      (((s.giveS c l d v).finishWait c l).ctx c l).sreg d = v)

/-- R400, R380: sleep and wake, and stream ports. -/
def Claims.sleepAndStreams : Prop :=
  (∀ d a sc s s1 t, claimDest d s = .ok ⟨⟩ s → readS a s = .ok t s1 →
      (∀ j u, s.me.token = true → deferS d 0 0 (s1.modCtx s1.cur.1 s1.cur.2 fun x => { x with token := false }) = .ok j u →
        Completes 4 (.sleep d a sc) sc.toNat s u)
      ∧ (∀ j u, s.me.token = false → t ≠ 0 → t.toNat ≤ s.here.cycle → deferS d 1 0 s1 = .ok j u → Completes 4 (.sleep d a sc) sc.toNat s u)
      ∧ (s.me.token = false → (t = 0 ∨ s.here.cycle < t.toNat) → s.me.rtc = false → ∃ u, exec (.sleep d a sc) s = .next u ∧ u.me.st = .waiting
          ∧ u.me.wait = .sleep t d.toNat ∧ u.me.pc = s1.me.pc)
      ∧ (s.me.token = false → (t = 0 ∨ s.here.cycle < t.toNat) → s.me.rtc = true → Traps (.sleep d a sc) s { cause := 0x13, val := t }))
  ∧ (∀ a sc s s1 t g c, readS a s = .ok t s1 → s.gangOf s.cur.1 = some g → g.toPhys (t.toNat % 2 ^ 13) = some c →
      s1.performed s1.cur.1 s1.cur.2 = true → Completes 4 (.wake a sc) sc.toNat s (s1.wakeCtx c (t.toNat / 2 ^ 13 % 4)))
  ∧ (∀ a sc s s1 t g, readS a s = .ok t s1 → s.gangOf s.cur.1 = some g → g.toPhys (t.toNat % 2 ^ 13) = none →
      Traps (.wake a sc) s { cause := 0x09, val := BitVec.ofNat 64 (t.toNat % 2 ^ 13) })
  ∧ (∀ (s : State) c l t d, (s.ctx c l).st = .waiting → (s.ctx c l).wait = .sleep t d →
      s.wakeCtx c l = (s.giveS c l d 0).finishWait c l
      ∧ (t ≠ 0 → t.toNat ≤ (s.core c).cycle → Leads (.sleepDeadline c l) s ((s.giveS c l d 1).finishWait c l)))
  ∧ (∀ (s : State) c l, ((s.ctx c l).st = .waiting → ∀ t d, (s.ctx c l).wait ≠ .sleep t d) → ((s.wakeCtx c l).ctx c l).token = true)
  ∧ (∀ a (b : BitVec 2) sc s s1 x g k, readS a s = .ok x s1 → s.gangOf s.cur.1 = some g → g.toPhys (x.toNat % 2 ^ 13) = some k →
      x.toNat % 2 ^ 13 ≠ s.coreId s.cur.1 → Map.getD s.here.ports b.toNat .closed = .closed →
      Completes 4 (.sopen a b sc) sc.toNat s (s1.modCore s1.cur.1 fun y => { y with ports := Map.set y.ports b.toNat (.armed (x.toNat % 2 ^ 13)) }))
  ∧ (∀ a (b : BitVec 2) sc s s1 x g k, readS a s = .ok x s1 → s.gangOf s.cur.1 = some g → g.toPhys (x.toNat % 2 ^ 13) = some k →
      (x.toNat % 2 ^ 13 = s.coreId s.cur.1 ∨ Map.getD s.here.ports b.toNat .closed ≠ .closed) →
      Traps (.sopen a b sc) s { cause := 0x13, val := x })
  ∧ (∀ (b : BitVec 2) sc (s : State), Map.getD s.here.ports b.toNat .closed = .closed →
      Traps (.sclose b sc) s { cause := 0x13, val := BitVec.ofNat 64 (28 + b.toNat) })
  ∧ (∀ (b : BitVec 2) sc (s : State) id, Map.getD s.here.ports b.toNat .closed = .armed id →
      Completes 4 (.sclose b sc) sc.toNat s (s.modCore s.cur.1 fun k => { k with ports := Map.set k.ports b.toNat .closed }))
  ∧ (∀ (b : BitVec 2) sc (s : State) id, Map.getD s.here.ports b.toNat .closed = .open id → (Map.getD s.here.outq b.toNat []).length < 16 →
      ∃ f u, Completes 4 (.sclose b sc) sc.toNat s u ∧ LinkFlit.marker f = true ∧ Map.getD u.here.ports b.toNat .closed = .closed
        ∧ Map.getD u.here.outq b.toNat [] = Map.getD s.here.outq b.toNat [] ++ [f])
  ∧ (∀ (b : BitVec 2) sc (s : State) id, Map.getD s.here.ports b.toNat .closed = .open id → 16 ≤ (Map.getD s.here.outq b.toNat []).length →
      Waits (.sclose b sc) s)
  ∧ (∀ (s : State) c dir f r, Map.getD (s.core c).outq dir [] = f :: r →
      (f.marker = true → ∃ t, Leads (.closeMarkerArrival c dir) s t ∧ Map.getD (t.core c).outq dir [] = r
        ∧ ∀ q ∈ t.net.routes, q.1 = c → q.2.1 ≠ dir)
      ∧ (f.marker = false → (Map.getD (s.core f.dst).inq f.inDir []).length < 16 → s.mayTravel c dir f = true → ∃ t,
          Leads (.rawWordArrival c dir) s t ∧ Map.getD (t.core c).outq dir [] = r
          ∧ Map.getD (t.core f.dst).inq f.inDir [] = Map.getD (s.core f.dst).inq f.inDir [] ++ [f]))

/-- R241, R389, R390: snap, configuration registers and system calls. That the trigger word of snap travels to the fabric before its status
comes is the model's choice (log 60). R400, R380: sleep and wake, and stream ports. -/
def Obligations.SystemAndStreamInstructions : Prop := Claims.systemInstructions ∧ Claims.sleepAndStreams

/-- R220, R166, R377, R379, R327, R328 to R333, R342: page requests and their order, ageing, the skimmer and re-layout. The frame of a request's age
is read at the module (log 42); the wait of a flip for a queued write is log 71. That a write to a retired channel counts once a request, that an
empty pool is reported as the notification (2, slice, 0), and the end of a conversion whose header's channel retires are log 32; slot addresses
are log 30. -/
def Obligations.KeyValuePages : Prop :=
  (∀ (s : State) n i q, (s.slice n).reqs[i]? = some q →
      (let last := (s.slice n).lastIn
       (∀ r ∈ (s.slice n).reqs.take i, r.page ≠ q.page) → s.reqWaits q = false →
       (∀ j r, (s.slice n).reqs[j]? = some r → j ≠ i → s.reqWaits r = false → (∀ x ∈ (s.slice n).reqs.take j, x.page ≠ r.page) →
        r.age s.frameNo < q.age s.frameNo ∨ r.age s.frameNo = q.age s.frameNo
          ∧ (q.turn last < r.turn last ∨ q.turn last = r.turn last ∧ i < j)) → s.turnOf n i = some q)
      ∧ ((∃ r ∈ (s.slice n).reqs.take i, r.page = q.page) → s.turnOf n i = none)
      ∧ (s.reqWaits q = true → s.turnOf n i = none))
  ∧ (∀ (s : State) q, s.reqWaits q = true ↔ (s.header q.page).state = .relayout ∨ s.stalledAt (q.page * 64) = true
      ∨ (q.write = true → (s.header q.page).mx4 = false) ∧ s.stalledAt (s.header q.page).slot = true
      ∨ q.write = false ∧ (s.header q.page).sslot ≠ 0 ∧ s.stalledAt (s.header q.page).sslot = true)
  ∧ (∀ (s : State) n i q, s.turnOf n i = some q → q.write = false →
      Leads (.kvReadRequest n i) s ((s.dropReq n i).serve (s.header q.page) q))
  ∧ (∀ (s : State) n i q, s.turnOf n i = some q → q.write = true →
      s.retired (q.page * 64) = false → (s.header q.page).mx4 = false →
      ((s.header q.page).state = .stable →
        (let s1 := (s.dropReq n i).writeSlot (s.header q.page).slot q.elems
         Leads (.kvWriteRequest n i) s (s1.setHeader q.page { s1.header q.page with age := 0, noconv := false })))
      ∧ ((s.header q.page).state = .converting → ∃ t : State, Leads (.kvWriteRequest n i) s t ∧ (t.header q.page).state = .stable
          ∧ (t.header q.page).age = 0 ∧ (t.header q.page).mx4 = false ∧ (t.header q.page).slot = (s.header q.page).slot
          ∧ (t.slice n).aborted = min ((s.slice n).aborted + 1) 0xFFFF))
  ∧ (∀ (s : State) n i q, s.turnOf n i = some q → q.write = true → s.retired (q.page * 64) = true →
      Leads (.kvWriteRequest n i) s ((s.dropReq n i).modSlice n fun y => { y with dropped := y.dropped + 1 }))
  ∧ (∀ (s : State) n i q, s.turnOf n i = some q → q.write = true → s.retired (q.page * 64) = false → (s.header q.page).mx4 = true →
      ∃ t : State, Leads (.kvWriteRequest n i) s t ∧ (t.header q.page).state = .relayout ∧ (t.slice n).reqs = (s.slice n).reqs
        ∧ ((s.slice n).waiting ≠ [] → (t.slice n).waiting = (s.slice n).waiting ++ [q.page]
          ∧ t.vale.notified = s.vale.notified ++ [(2, n, 0)]))
  ∧ (∀ (s : State) n key r a b, (s.slice n).waiting = key :: r → (s.slice n).fp8.back = a :: b → s.retired a = false → a ∉ b →
      s.headerStalled key = false →
      ∃ t : State, Leads (.relayoutSlotGrant n) s t ∧ (t.slice n).waiting = r ∧ (t.slice n).fp8.back = b
        ∧ t.header key = { s.header key with nslot := a, step := 1 })
  ∧ (∀ (s : State) n key, (s.header key).state = .relayout → (s.header key).step = 1 → homeSlice (key * 64) = n →
      s.pageStalled key (s.header key) = false → s.newStalled (s.header key) = false →
      ∃ t : State, Leads (.relayoutDequantise n key) s t ∧ t.header key = { s.header key with step := 2 }
        ∧ t.phys = (s.writeSlot (s.header key).nslot ((count 0 4096).map fun e => (e, s.relayoutCode (s.header key) e))).phys)
  ∧ (∀ (s : State) n key l q r, (s.header key).state = .relayout → (s.header key).step = 2 → s.headerStalled key = false →
      s.newStalled (s.header key) = false → (s.slice n).reqs = l ++ q :: r → (∀ x ∈ l, x.page ≠ key) → q.page = key →
      ∃ t : State, Leads (.relayoutApply n key) s t ∧ t.header key = { s.header key with age := 0, noconv := false, step := 3 }
        ∧ (t.slice n).reqs = l ++ r ∧ t.phys = (s.writeSlot (s.header key).nslot q.elems).phys)
  ∧ (∀ (s : State) n key, (s.header key).state = .relayout → (s.header key).step = 3 → homeSlice (key * 64) = n →
      s.headerStalled key = false →
      ∃ t : State, Leads (.relayoutFlip n key) s t ∧ (t.header key).gen = ((s.header key).gen + 1) % 2 ^ 16 ∧ (t.header key).mx4 = false
        ∧ (t.header key).slot = (s.header key).nslot ∧ (t.header key).state = .stable
        ∧ (t.slice n).mx4.back = (s.slice n).mx4.back ++ [(s.header key).slot])
  ∧ (∀ (s : State) n, ∃ t : State, Leads (.kvTick n) s t ∧ ∀ key h, Map.get? s.headers key = some h →
      (let due := h.state = .stable ∧ homeSlice (key * 64) = n ∧ (∃ x ∈ (s.slice n).tables, s.inTable x key = true)
       t.header key = (if due ∧ s.headerStalled key = false then { h with age := min (h.age + 1) 0xFFFF } else h)
       ∧ (due → s.headerStalled key = true → key ∈ (t.slice n).lateTicks)))
  ∧ (∀ (s : State) n key h, Map.get? s.headers key = some h → (s.slice n).lateTicks = [key] → s.ages n (key, h) = true →
      s.headerStalled key = false → s.retired (key * 64) = false →
      (s.lateTick n).header key = { h with age := min (h.age + 1) 0xFFFF } ∧ ((s.lateTick n).slice n).lateTicks = [])
  ∧ (∀ (s : State) n p key a b c d, ((s.candidates n).find? (fun e => after e.1 (s.slice n).skimPos) = some (p, key)
        ∨ (s.candidates n).find? (fun e => after e.1 (s.slice n).skimPos) = none ∧ (s.candidates n).head? = some (p, key)) →
      (s.slice n).conv = none → (s.slice n).waiting = [] → s.headerStalled key = false → (s.slice n).mx4.back = a :: b →
      (s.slice n).sc.back = c :: d → s.retired a = false → s.retired c = false → ∃ t : State, Leads (.skimmerBegin n) s t ∧ (t.slice n).conv = some key ∧ (t.slice n).skimPos = p
        ∧ t.header key = { s.header key with state := .converting, nslot := a, nsslot := c, step := 0 })
  ∧ (∀ (s : State) n key, (s.slice n).conv = some key → (s.header key).state = .converting → (s.header key).step = 0 →
      s.pageStalled key (s.header key) = false → s.newStalled (s.header key) = false → s.retired (key * 64) = false →
      ((∀ e, e < 4096 → s.badPageElem (s.header key) e = false ∧ s.pageCode (s.header key) e % 128 ≠ 127) →
        ∃ t : State, Leads (.skimmerQuantise n) s t ∧ t.header key = { s.header key with step := 2 })
      ∧ ((∃ e, e < 4096 ∧ (s.badPageElem (s.header key) e = true ∨ s.pageCode (s.header key) e % 128 = 127)) →
        ∃ t : State, Leads (.skimmerQuantise n) s t ∧ (t.header key).state = .stable ∧ (t.header key).noconv = true ∧ (t.slice n).conv = none
          ∧ (t.slice n).abandoned = min ((s.slice n).abandoned + 1) 0xFFFF))
  ∧ (∀ (s : State) n key, (s.slice n).conv = some key → (s.header key).state = .converting → (s.header key).step = 2 →
      s.headerStalled key = false → s.retired (key * 64) = false → s.writeQueued key = false →
      ∃ t : State, Leads (.skimmerFlip n) s t ∧ (t.header key).gen = ((s.header key).gen + 1) % 2 ^ 16 ∧ (t.header key).mx4 = true
        ∧ (t.header key).slot = (s.header key).nslot ∧ (t.header key).sslot = (s.header key).nsslot ∧ (t.header key).state = .stable
        ∧ (t.slice n).conv = none ∧ (t.slice n).fp8.back = (s.slice n).fp8.back ++ [(s.header key).slot])
  ∧ (∀ (s : State) n key, (s.slice n).conv = some key → s.writeQueued key = true → Leads (.skimmerFlip n) s s)
  ∧ (∀ (s : State) n key, (s.slice n).conv = some key → (s.header key).state = .converting → s.headerStalled key = false →
      s.retired (key * 64) = true →
      ((s.header key).step = 0 → s.pageStalled key (s.header key) = false → s.newStalled (s.header key) = false →
        Leads (.skimmerQuantise n) s (s.dropConversion n key))
      ∧ ((s.header key).step = 2 → s.writeQueued key = false → Leads (.skimmerFlip n) s (s.dropConversion n key)))

/-- R203, R205, R337 to R341, R165, R167: shipped functions and every primitive, refresh, remapping and translation. Translating the target when it
is performed is the model's reading (log 23); the count of bank refreshes and what the record of a hot layer holds are its own (log 59), and so
is what the caches and walkers hold (log 89). -/
def Obligations.EdgeSliceEvents : Prop :=
  (∀ (s : State) p i q, (Map.getD s.bdps p [])[i]? = some q → i < 64 → s.locStalled (s.shipLoc q) = false → s.walkWaits q.asid q.ta = false →
      (∀ r ∈ s.ships, r.core = q.core → q.samePage r = true → q.seq ≤ r.seq) →
      (∀ r ∈ (Map.getD s.bdps p []).take i, (s.shipLoc r).phys / 64 ≠ (s.shipLoc q).phys / 64) →
      (∀ t, s.lookUp (homeSlice (s.shipLoc q).phys) q.asid (s.shipLoc q).entry = some t →
        Leads (.fshipPerform p i) s ({ t with bdps := Map.set t.bdps p (removeAt (Map.getD s.bdps p []) i) }.performShip q))
      ∧ (64 ≤ (s.slice (homeSlice (s.shipLoc q).phys)).misses.length → Leads (.fshipPerform p i) s s))
  ∧ (∀ (s : State) n a e, let y := s.slice n
      let hit := (a, e) ∈ y.cached ∨ ∃ r ∈ y.walkers ++ y.misses, r.asid = a ∧ r.ta = e
      (64 ≤ y.misses.length → s.lookUp n a e = none)
      ∧ (y.misses.length < 64 → hit → s.lookUp n a e = some (s.modSlice n fun _ => y))
      ∧ (y.misses.length < 64 → ¬ hit → y.walkers.length < 8 → s.lookUp n a e = some (s.modSlice n fun z =>
          { z with walkers := z.walkers ++ [{ asid := a, ta := e, frame := s.frameNo }] }))
      ∧ (y.misses.length < 64 → ¬ hit → 8 ≤ y.walkers.length → s.lookUp n a e = some (s.modSlice n fun z =>
          { z with misses := z.misses ++ [{ asid := a, ta := e, frame := s.frameNo }] })))
  ∧ (∀ (s : State) p i q r, (Map.getD s.bdps p [])[i]? = some q → r ∈ s.ships → r.core = q.core → q.samePage r = true → r.seq < q.seq →
      Leads (.fshipPerform p i) s s)
  ∧ (∀ w o x y, 0 < w → o < 2 ^ w → x < 2 ^ w → y < 2 ^ w → primNew 0 w o x y = o ∧ primNew 1 w o x y = x
      ∧ primNew 2 w o x y = (o + x) % 2 ^ w
      ∧ primNew 3 w o x y = ((max (-(2 ^ (w - 1))) (min (signedOf w o + signedOf w x) (2 ^ (w - 1) - 1))) % (2 ^ w : Int)).toNat
      ∧ primNew 4 w o x y = min (o + x) (2 ^ w - 1) ∧ primNew 5 w o x y = o - x
      ∧ primNew 6 w o x y = (if signedOf w x < signedOf w o then x else o) ∧ primNew 7 w o x y = (if signedOf w o < signedOf w x then x else o)
      ∧ primNew 8 w o x y = min o x ∧ primNew 9 w o x y = max o x
      ∧ primNew 10 w o x y = o &&& x ∧ primNew 11 w o x y = o ||| x ∧ primNew 12 w o x y = o ^^^ x
      ∧ primNew 13 w o x y = (if o = x then y else o)
      ∧ (∀ j, (primNew 14 w o x y).testBit j = if y.testBit j = true then x.testBit j else o.testBit j)
      ∧ primNew 25 w o x y = min (o + 1) x
      ∧ (∀ j, j < w → (primNew 26 w o x y).testBit j = (o.testBit j || decide (j = x % 64)))
      ∧ (∀ j, j < w → (primNew 27 w o x y).testBit j = (o.testBit j && decide (j ≠ x % 64)))
      ∧ primNew 29 w o x y = (if o = 0 then x else o)
      ∧ primNew 30 w o x y = ((max (-(2 ^ (w - 1))) (min (signedOf w o - signedOf w x) (2 ^ (w - 1) - 1))) % (2 ^ w : Int)).toNat)
  ∧ (∀ o x y, o < 2 ^ 32 → x < 2 ^ 32 → y < 2 ^ 32 → let v := valueOf fmtFp32
      primNew 15 32 o x y = encodeFp (fpAdd (v o) (v x) .rne) fmtFp32 .rne false
      ∧ primNew 16 32 o x y = codeOf fmtFp32 (r32 (fMin (v o) (v x))) ∧ primNew 17 32 o x y = codeOf fmtFp32 (r32 (fMax (v o) (v x)))
      ∧ primNew 31 32 o x y = codeOf fmtFp32 (r32 (fpAdd (fpMul (v o) (v x)) (v y) .rne)))
  ∧ (∀ o x y, o < 2 ^ 16 → x < 2 ^ 16 →
      primNew 21 16 o x y = encodeFp (fpAdd (valueOf fmtFp16 o) (valueOf fmtFp16 x) .rne) fmtFp16 .rne false
      ∧ primNew 22 16 o x y = encodeFp (fpAdd (valueOf fmtBf16 o) (valueOf fmtBf16 x) .rne) fmtBf16 .rne false)
  ∧ (∀ o x y, y < 2 ^ 64 → (∀ e, e < 8 → lane (primNew 18 128 o x y) 16 e =
        encodeFp (fpAdd (valueOf fmtBf16 (lane o 16 e)) (valueOf fmtBf16 (lane (x * 2 ^ 64 + y) 16 e)) .rne) fmtBf16 .rne false % 2 ^ 16)
      ∧ (∀ e, e < 16 → lane (primNew 19 256 o x y) 16 e = if y.testBit e = true then
          encodeFp (fpAdd (valueOf fmtBf16 (lane o 16 e)) (valueOf fmtBf16 (x % 2 ^ 16)) .rne) fmtBf16 .rne false % 2 ^ 16 else lane o 16 e))
  ∧ (∀ o x y, o < 2 ^ 64 → x < 2 ^ 64 → let v := fun n => valueOf fmtFp32 (n % 2 ^ 32)
      primNew 20 32 o x y = min (o + y % 2 ^ 32) (2 ^ 32 - 1)
      ∧ primNew 23 64 o x y = (if fpLt (v o) (v x) = true ∨ fpEq (v x) (v o) = true ∧ x / 2 ^ 32 < o / 2 ^ 32 then x else o)
      ∧ primNew 24 64 o x y = (if fpLt (v x) (v o) = true ∨ fpEq (v x) (v o) = true ∧ x / 2 ^ 32 < o / 2 ^ 32 then x else o)
      ∧ primNew 28 64 o x y % 2 ^ 32 = (o + x) % 2 ^ 32 ∧ primNew 28 64 o x y / 2 ^ 32 = (o / 2 ^ 32 + x / 2 ^ 32) % 2 ^ 32)
  ∧ (∀ (s : State) q x, s.memWf = true → s.translate q.asid q.ta .both = .ok x →
      (let slot := Map.getD s.vale.routines (q.asid * 64 + q.slot) 0
       let n := slotWidth slot / 8
       slotPrim slot ≠ 20 → s.badTarget x n = false → slotFits slot (s.root q.asid (taRoot q.ta)).esizeCode = true →
        Mem.readN (s.performShip q).phys x.phys n =
          primNew (slotPrim slot) (8 * n) (Mem.readN s.phys x.phys n) q.op1.toNat q.op2.toNat % 2 ^ (8 * n)))
  ∧ (∀ (s : State) n k b, k < 2 → (s.slice n).privOn.getLsbD k = false → ∃ t : State, Leads (.bankRefresh n k b) s t
      ∧ Map.getD (t.slice n).banks (k + 2 * b) 0 = Map.getD (s.slice n).banks (k + 2 * b) 0 + 1)
  ∧ (∀ (s : State) n k, k < 2 → (s.slice n).priv.getLsbD k = true → (s.slice n).privOn.getLsbD k = true →
      (Map.getD (s.slice n).refresh k {}).debt < 8 →
      ∃ t : State, Leads (.refreshDue n k) s t ∧ (Map.getD (t.slice n).refresh k {}).debt = (Map.getD (s.slice n).refresh k {}).debt + 1)
  ∧ (∀ (s : State) n k, k < 2 → (s.slice n).privOn.getLsbD k ≠ (s.slice n).priv.getLsbD k →
      ∃ t : State, Leads (.refreshDue n k) s t ∧ (Map.getD (t.slice n).refresh k {}).debt = 0
        ∧ (t.slice n).privOn.getLsbD k = (s.slice n).priv.getLsbD k)
  ∧ (∀ (s : State) n k, k < 2 → (s.slice n).privOn.getLsbD k = true → -8 < (Map.getD (s.slice n).refresh k {}).debt →
      ((Map.getD (s.slice n).refresh k {}).debt = 8 ∨ s.channelBusy n k = false) → ∃ t : State, Leads (.allBankRefresh n k) s t
        ∧ (Map.getD (t.slice n).refresh k {}).debt = (Map.getD (s.slice n).refresh k {}).debt - 1
        ∧ (Map.getD (t.slice n).refresh k {}).count = ((Map.getD (s.slice n).refresh k {}).count + 1) % 2 ^ 32)
  ∧ (∀ (s : State) n k, k < 2 → k ∉ (s.slice n).retired → ∃ t : State, Leads (.remapTableError n k) s t ∧ k ∈ (t.slice n).stalled)
  ∧ (∀ (s : State) n k, k ∈ (s.slice n).stalled →
      (∃ t : State, Leads (.remapReload n k false) s t ∧ k ∉ (t.slice n).stalled ∧ (t.slice n).retired = (s.slice n).retired)
      ∧ (∃ t : State, Leads (.remapReload n k true) s t ∧ k ∉ (t.slice n).stalled ∧ k ∈ (t.slice n).retired
          ∧ t.vale.notified = s.vale.notified ++ [(0, n, k)]))
  ∧ (∀ (s : State) a b temp, 105 < temp → ∃ t : State, Leads (.layerOverheat a b temp) s t ∧ Map.getD t.mod.temps (a * 16 + b) 0 = temp)
  ∧ (∀ (s : State) n x r, (s.slice n).walkers = x :: r → ∃ t : State, Leads (.translationWalk n) s t
      ∧ ((s.slice n).misses = [] → (t.slice n).walkers = r)
      ∧ (∀ i m, oldestMiss s.frameNo (s.slice n).misses 0 none = some i → (s.slice n).misses[i]? = some m →
          (t.slice n).walkers = r ++ [m] ∧ (t.slice n).misses = removeAt (s.slice n).misses i)
      ∧ (∀ d e, s.walk x.asid x.ta = .ok (d, e) → (t.slice n).cached.head? =
          some (x.asid, taOf (taRoot x.ta) (3 * e.level) (cutPath (taPath x.ta) (3 * e.level)))))

/-- R22, R24, R29, R30, R122, R20, R136, R138, R235, R376: arrival, at a core or at the edge slices, acceptance and refusal, deposit data, dispatch,
retirement, closes and notices. Which flit an output serves among equal ages is log 42. That the flits of a deposit which no lock holds back are written in one event is the model's choice (log 69). -/
def Claims.messageEvents : Prop :=
  (∀ (s : State) i m, s.net.msgs[i]? = some m →
      (s.mayLeave i m = true →
        (∀ j q, s.net.msgs[j]? = some q → j ≠ i → q.exitKey = m.exitKey → s.mayLeave j q = true → q.age s.mod.frame < m.age s.mod.frame) →
        s.leaving i = some m)
      ∧ (s.mayLeave i m = false → s.leaving i = none ∧ Leads (.messageArrival i) s s)
      ∧ (m.load = none → (s.mayLeave i m = true ↔ m.pos = m.dst ∧ overtakes m (s.net.msgs.take i) = false ∧ s.counting m.dst = true)))
  ∧ (∀ (s : State) i m, s.leaving i = some m → m.load = none →
      ((s.core m.dst).mailbox.length < (s.core m.dst).mbxcfg → ∃ (t : State) (q : Msg), Leads (.messageArrival i) s t
        ∧ t.net.msgs = removeAt s.net.msgs i ++ [q] ∧ q.load = some .accept ∧ q.src = m.dst ∧ q.dst = m.src ∧ q.pos = m.dst ∧ q.tc = m.tc
        ∧ ∃ e, e.msg = m ∧ e.written = !hdrDep m.hdr ∧ (t.core m.dst).mailbox = (s.core m.dst).mailbox ++ [e])
      ∧ ((s.core m.dst).mbxcfg ≤ (s.core m.dst).mailbox.length → ∃ (t : State) (q : Msg), Leads (.messageArrival i) s t
        ∧ t.net.msgs = removeAt s.net.msgs i ++ [q] ∧ q.load = some .refused ∧ q.src = m.dst ∧ q.dst = m.src ∧ q.pos = m.dst ∧ q.data = []
        ∧ q.hdr = m.hdr ∧ q.w = m.w ∧ q.retire = m.retire ∧ (t.core m.dst).mailbox = (s.core m.dst).mailbox))
  ∧ (∀ (s : State) i m q, s.leaving i = some m → m.load = some (.page q) → ∃ t : State, Leads (.messageArrival i) s t
      ∧ t.net.msgs = removeAt s.net.msgs i
      ∧ (t.slice (homeSlice (q.page * 64))).reqs = (s.slice (homeSlice (q.page * 64))).reqs ++ [{ q with frame := m.frame }])
  ∧ (∀ (s : State) i m q, s.leaving i = some m → m.load = some (.ship q) → ∃ t : State, Leads (.messageArrival i) s t
      ∧ t.net.msgs = removeAt s.net.msgs i
      ∧ (let p := homeSlice (s.shipLoc q).phys / 2
         Map.getD t.bdps p [] = Map.getD s.bdps p [] ++ [{ q with phys := (s.shipLoc q).phys, frame := m.frame }]))
  ∧ (∀ (s : State) i m q, s.leaving i = some m → m.load = some (.amo q) → ∃ t : State, Leads (.messageArrival i) s t
      ∧ t.net.msgs = removeAt s.net.msgs i ∧ (t.core m.dst).sysq = (s.core m.dst).sysq ++ [q])
  ∧ (∀ (s : State) i m, s.leaving i = some m → m.load = some .accept → ∃ t : State, Leads (.acceptance i) s t
      ∧ t.net.msgs = removeAt s.net.msgs i ∧ (t.core m.dst).acks = (s.core m.dst).acks - 1)
  ∧ (∀ (s : State) i m, s.leaving i = some m → m.load = some .refused → ∃ t : State, Leads (.refusal i) s t
      ∧ t.net.msgs = removeAt s.net.msgs i ∧ (t.core m.dst).refusals = (s.core m.dst).refusals ++ [m.back]
      ∧ (t.core m.dst).acks = (s.core m.dst).acks)
  ∧ (∀ (s : State) c i e, (s.core c).mailbox[i]? = some e → e.written = false → e.flits = [] → cwVstamp e.msg.cw = false →
      (∀ j, j < e.msg.data.length / 64 → s.lockedLocal (clusterOf c) (cwDblk e.msg.cw * 64 + 64 * j) 64 true = false) →
      ∃ t : State, Leads (.depositDataWrite c i) s t ∧
        (cwHandler e.msg.cw ≠ 0 → ∃ e', (t.core c).mailbox[i]? = some e' ∧ e'.written = true ∧ e'.msg = e.msg)
        ∧ (cwHandler e.msg.cw = 0 → (t.core c).mailbox = removeAt (s.core c).mailbox i ∧ t.net.retires = s.net.retires ++ [e.msg.retire]))
  ∧ (∀ (s : State) c f a, bestArrival ((s.arrivals c).filter fun q => (s.core c).mayStart q.2.level) none = some (f, a) → s.counting c = true →
      ∃ t : State, Leads (.dispatch c) s t ∧ (t.ctx c a.level).pc = BitVec.ofNat 22 a.handler ∧ (t.ctx c a.level).st = .ready
        ∧ (t.ctx c a.level).rtc = a.rtc ∧ (t.ctx c a.level).td = false ∧ (t.ctx c a.level).msghdr = a.hdr
        ∧ (t.ctx c a.level).phase = BitVec.ofNat 4 a.phase ∧ (t.ctx c a.level).sreg 1 = 0
        ∧ (∀ i, i < 7 → Map.getD (t.ctx c a.level).mb i 0 = a.w.getD i 0) ∧ (t.core c).ibuf = none)
  ∧ (∀ l x, x ∈ l → ∃ y, bestArrival l none = some y ∧ y ∈ l ∧ x.2.level ≤ y.2.level)
  ∧ (∀ (s : State) i r, s.net.retires[i]? = some r → ∃ t : State, Leads (.retirement i) s t ∧ t.net.retires = removeAt s.net.retires i
      ∧ t.phaseOf r.router r.phase = s.phaseOf r.router r.phase - 1)
  ∧ (∀ (s : State) gi p g, Map.get? s.gangs gi = some g → p < 16 → g.armed.getLsbD p = true → g.image = none →
      (∀ c ∈ g.cores, s.phaseOf c p = 0) → ∃ t : State, Leads (.phaseClose gi p) s t ∧ t.net.closes = s.net.closes ++ g.cores.map (fun c => (c, p))
        ∧ ∃ h, Map.get? t.gangs gi = some h ∧ h.armed.getLsbD p = false)
  ∧ (∀ (s : State) i c p, s.net.closes[i]? = some (c, p) → p < 16 → ∃ t : State, Leads (.phaseCloseDelivery i) s t
      ∧ (t.core c).closed.getLsbD p = true ∧ ∀ l, l < 4 → (s.ctx c l).st = .waiting → (s.ctx c l).wait = .phwait p → (t.ctx c l).st = .ready)
  ∧ (∀ (s : State) i c w, s.net.notices[i]? = some (c, w) → c < 6144 → (s.core c).notices.length < 8 → ∃ t : State, Leads (.faultNotice i) s t
      ∧ (t.core c).notices = (s.core c).notices ++ [w] ∧ t.net.notices = removeAt s.net.notices i)

/-- R376 to R379, R63, R66, R39: forwarding and frames, results that land, and blocks fetched. A message moves as a whole over one channel in one
event, and among equal ages the input next in turn goes first: the model's reading of the round robin (log 42). -/
def Claims.fabricEvents : Prop :=
  (∀ (s : State) r d l m q, s.net.msgs = l ++ m :: q → m.nextChannel = some (r, d) →
      let last := Map.getD s.net.lastIn (outputKey r d) 6
      (∀ x ∈ l, x.nextChannel = some (r, d) → x.age s.mod.frame < m.age s.mod.frame
        ∨ x.age s.mod.frame = m.age s.mod.frame ∧ turnDistance last m.input < turnDistance last x.input) →
      (∀ x ∈ q, x.nextChannel = some (r, d) → x.age s.mod.frame < m.age s.mod.frame
        ∨ x.age s.mod.frame = m.age s.mod.frame ∧ turnDistance last m.input ≤ turnDistance last x.input) →
      ∃ t : State, Leads (.flitForward r d) s t ∧ t.net.msgs = l ++ { m with pos := channelEnd (r, d), input := channelInput d } :: q
        ∧ Map.getD t.net.lastIn (outputKey r d) 6 = m.input)
  ∧ (∀ s : State, s.mod.snapDue = none → ∃ t : State, Leads .frameStart s t ∧ t.mod.frame = (s.mod.frame / 8192 + 1) * 8192 % 2 ^ 64
      ∧ t.net.msgs.length = s.net.msgs.length)
  ∧ (∀ (s : State) c l i q r, (s.ctx c l).pend[i]? = some q → q.ready = none → q.open_ = 0 → q.dest = .scalar r → 0 < r → r < 28 →
      ∃ t : State, Leads (.resultLands c l i) s t ∧ (t.ctx c l).sreg r = q.val.setWidth 64 ∧ (t.ctx c l).pend = removeAt (s.ctx c l).pend i)
  ∧ (∀ (s : State) k b c pc, c < 8 → s.wantsBlock (coreIn k c) b = some pc → (∀ i, i < 8 → i ≠ c → s.wantsBlock (coreIn k i) b = none) →
      ∃ t : State, Leads (.instructionFetch k b) s t ∧
        (t.core (coreIn k c)).ibuf = some (pc, Mem.readBytes s.cmem (cellKey (clusterOf (coreIn k c)) pc) 64, []))

/-- R22, R24, R29, R30, R122, R20, R136, R138, R235, R376: arrival, at a core or at the edge slices, acceptance and refusal, deposit data,
dispatch, retirement, closes and notices. Which flit an output serves among equal ages is log 42. That the flits of a deposit which no
lock holds back are written in one event is the model's choice (log 69). R376 to R379, R63, R66, R39: forwarding and frames, results that
land, and blocks fetched. A message moves as a whole over one channel in one event, and among equal ages the input next in turn goes
first: the model's reading of the round robin (log 42). -/
def Obligations.MessageAndFabricEvents : Prop := Claims.messageEvents ∧ Claims.fabricEvents

/-- R192, R194, R196, R197, R217: units, element by element or whole, ends and stops of engine operations, and their notices. The notice's units of
64 pages and the number of elements that an event writes are the model's choice (log 25). -/
def Claims.engineEvents : Prop :=
  (∀ (s : State) i n o, s.engines[i]? = some o → s.engineMoves o = true →
      (unitCount (taDepth o.src) ≤ o.unit → Leads (.engineUnit ⟨i, n⟩) s (s.completeEngine o))
      ∧ (∀ t, o.unit < unitCount (taDepth o.src) → o.fn.isPft = false → s.runUnit (s.engineAsid o) o n = .done t 0 →
          Leads (.engineUnit ⟨i, n⟩) s (t.putEngine { o with unit := o.unit + 1, part := 0 }))
      ∧ (∀ t k, o.unit < unitCount (taDepth o.src) → o.fn.isPft = false → s.runUnit (s.engineAsid o) o n = .done t k → k ≠ 0 →
          Leads (.engineUnit ⟨i, n⟩) s (t.putEngine { o with part := o.part + n }))
      ∧ (∀ t k, o.unit < unitCount (taDepth o.src) → o.fn.isPft = true → s.runPage (s.engineAsid o) o = .done t k →
          Leads (.engineUnit ⟨i, n⟩) s (t.putEngine { o with unit := o.unit + 64, flipped := o.flipped + k }))
      ∧ (∀ t side f ta, o.unit < unitCount (taDepth o.src) → o.fn.isPft = false → s.runUnit (s.engineAsid o) o n = .stop t side f ta →
          Leads (.engineUnit ⟨i, n⟩) s (t.stopEngine o side f ta))
      ∧ (∀ t side f ta, o.unit < unitCount (taDepth o.src) → o.fn.isPft = true → s.runPage (s.engineAsid o) o = .stop t side f ta →
          Leads (.engineUnit ⟨i, n⟩) s (t.stopEngine o side f ta))
      ∧ (o.unit < unitCount (taDepth o.src) → o.fn.isPft = false → s.runUnit (s.engineAsid o) o n = .wait → Leads (.engineUnit ⟨i, n⟩) s s))
  ∧ (∀ (s : State) o, s.engineMoves o = true ↔ s.counting o.core = true ∧ (o.part ≠ 0 ∨ (s.core o.core).halting = none))
  ∧ (∀ (s : State) o side f ta, ∃ e ∈ ((s.stopEngine o side f ta).ctx o.core o.level).pendTraps, e.cause = 0x0D ∧ e.detail = f.detail
      ∧ e.val = subBlock ta)
  ∧ (∀ (s : State) o side f ta, ∀ q ∈ (s.stopEngine o side f ta).engines, q.id ≠ o.id)
  ∧ (∀ (s : State) i q g p, s.net.outbox[i]? = some q → s.gangOf q.core = some g → g.toPhys q.dst = some p →
      (s.core q.core).mayInject q.tc 1 = true → ∃ t : State, Leads (.pftNoticeInjection i) s t ∧ t.net.outbox = removeAt s.net.outbox i
        ∧ ∃ m, t.net.msgs = s.net.msgs ++ [m] ∧ m.src = q.core ∧ m.dst = p ∧ m.w = q.w ∧ m.tc = q.tc)

/-- R227, R228, R233 to R235, R174: due traps, and the steward's record, self-test finding and actions on a stopped core. That a spare column has no
failed bank is the model's reading (log 54); what a resume writes back is log 53. -/
def Claims.stewards : Prop :=
  (∀ (s : State) c l t, s.counting c = true → (s.core c).stop = none → (s.ctx c l).pend = [] →
      (∀ kept, (s.ctx c l).op = .trap t kept → (kept = true ∨ (s.ctx c l).takeable = none) →
        Leads (.trapEntry c l) s (s.takeTrap c l t (s.ctx c l).pc))
      ∧ (∀ r, ((s.ctx c l).op = .none ∨ ∃ q, (s.ctx c l).op = .trap q false) → (s.core c).halting = none → (s.ctx c l).st = .ready →
          (s.ctx c l).td = false → (s.ctx c l).rtc = false → (s.ctx c l).tvec ≠ 0 → (s.ctx c l).pendTraps = t :: r → (s.ctx c l).wait = .none →
          ∃ u : State, Leads (.trapEntry c l) s u ∧ (u.ctx c l).pc = (s.ctx c l).tvec ∧ (u.ctx c l).trappc = (s.ctx c l).pc
            ∧ (u.ctx c l).td = true ∧ (u.ctx c l).trapval = t.val ∧ (u.ctx c l).pendTraps = r))
  ∧ (∀ (s : State) c r k, (s.core c).stop = some r → (s.core c).record = none → ∃ t q, Leads (.stewardRecord ⟨c, k⟩) s t
      ∧ (t.core c).record = some q ∧ (t.core c).stop = some r ∧ q.finding = k ∧ q.stop = r ∧ q.banks = (s.core c).ctx
      ∧ q.inq = (s.core c).inq ∧ q.outq = (s.core c).outq ∧ q.mailbox = (s.core c).mailbox ∧ q.refusals = (s.core c).refusals
      ∧ q.notices = (s.core c).notices ∧ q.regs = (s.core c).latch s.mod.frame)
  ∧ (∀ (s : State) c r q, (s.core c).stop = some r → (s.core c).record = some q →
      (q.finding = 1 ∧ q.marked = true ∨ q.finding = 2 ∧ r.remap = true) → ∃ t : State, Leads (.coreResume c) s t ∧ (t.core c).stop = none
      ∧ (t.ctx c r.level).pc = r.pc ∧ (t.ctx c r.level).st = .ready ∧ (t.core c).ibuf = none
      ∧ t.vale.reports = s.vale.reports ++ [(s.coreId c, r.info.cause, r.info.val, r.pc, if r.remap then 5 else 3)])
  ∧ (∀ (s : State) c r q, (s.core c).stop = some r → (s.core c).record = some q →
      (q.finding = 0 ∨ q.finding = 2 ∧ r.remap = false ∧ 2 ≤ Map.getD s.mod.spares (dieOf c) 0) → (∀ g, s.gangOf c = some g → g.barWait = []) →
      ∃ t : State, Leads (.coreRestart c) s t ∧ (t.core c).stop = none ∧ (t.core c).record = none
      ∧ (t.core c).mailbox = [] ∧ (t.core c).refusals = [] ∧ (t.core c).notices = [] ∧ ∀ l, l < 4 → (t.ctx c l).st = .idle)
  ∧ (∀ (s : State) c r q, (s.core c).stop = some r → (s.core c).record = some q → q.finding = 2 → r.remap = true →
      Leads (.coreRestart c) s s)
  ∧ (∀ (s : State) col, col < 128 → Map.getD s.mod.spares (col / 32) 0 < 2 → (∀ y, y < 48 → (s.core (y * 128 + col)).gang = none) →
      ∃ t : State, Leads (.spareColumnRemap col) s t ∧ Map.getD t.mod.spares (col / 32) 0 = Map.getD s.mod.spares (col / 32) 0 + 1
        ∧ ∀ y, y < 48 → (t.core (y * 128 + col)).failedBanks = [])
  ∧ (∀ (s : State) c b, b < 18 → (s.core c).failedBanks = [] → ∃ t : State, Leads (.markBankFailed c b) s t ∧ (t.core c).failedBanks = [b]
      ∧ ∀ q, (s.core c).record = some q → ∃ q', (t.core c).record = some q' ∧ q'.marked = true)

/-- R192, R194, R196, R197, R217: units, element by element or whole, ends and stops of engine operations, and their notices. The notice's
units of 64 pages and the number of elements that an event writes are the model's choice (log 25). R227, R228, R233 to R235, R174: due
traps, and the steward's record, self-test finding and actions on a stopped core. That a spare column has no failed bank is the model's
reading (log 54); what a resume writes back is log 53. -/
def Obligations.EngineUnitsAndStewards : Prop := Claims.engineEvents ∧ Claims.stewards

/-- R44 to R48, R393, R396: allocation, promotion, start, segments, launch and completion. That one event places one gang is the model's choice
(log 43), and so is which of two jobs posted in one frame is the older (log 98); the promotion count and where a second promotion begins to count
are its reading (log 48); the form of a segment table (log 47) and an odd ENTRY (log 93) are its own. When a gang completes, and that one of a failed
job is removed once its writes are visible, whatever its contexts do, is log 56. -/
def Obligations.GangLifeCycle : Prop :=
  (∀ (s : State) i j cx cy,
      firstJob (s.queued.filterMap fun q =>
        if s.needsMet q.2 && decide (0 < q.2.toPlace) then (s.originFor q.2).map fun o => (q.1, q.2, o.1, o.2) else none) = some (i, j, cx, cy) →
      ∃ t : State, Leads .gangAllocation s t ∧ Map.get? t.gangs s.vale.nextGang = some (j.gang i cx cy) ∧ t.vale.nextGang = s.vale.nextGang + 1
        ∧ (∀ c ∈ (j.gang i cx cy).cores, (t.core c).gang = some s.vale.nextGang)
        ∧ Map.get? t.vale.jobs i = some { j with toPlace := j.toPlace - 1 })
  ∧ (∀ l x, x ∈ l → ∃ y, firstJob l = some y ∧ y ∈ l ∧ x.2.1.before y.2.1 = false)
  ∧ (∀ (s : State) j cx cy, s.originFor j = some (cx, cy) → s.fits cx cy j.width j.height = true ∧ j.diemask / 2 ^ (cx / 8) % 2 = 1)
  ∧ (∀ (s : State) a q n i j, (s.queued.filter fun x => decide (x.2.asid = a) && decide (x.2.queue = q))[n]? = some (i, j) → j.band < 3 →
      max j.posted j.promoted + 8 * s.vale.period * 140000 ≤ s.mod.frame → ∃ t : State, Leads (.bandPromotion a q n) s t
        ∧ Map.get? t.vale.jobs i = some { j with band := j.band + 1, promoted := s.mod.frame })
  ∧ (∀ (s : State) gi k g seg later tables, Map.get? s.gangs gi = some g → g.st = .allocated → k ∉ g.begun → k ∈ g.clusters →
      s.launchStalls g.asid g.code g.hdr g.xumask = false →
      (s.segmentTable g.asid g.code g.hdr.nseg).bind (fun b => s.objectSegments g.asid g.code b 0 g.hdr.nseg) = some (seg :: later) → s.objectTables g.asid g.code g.hdr g.xumask (count 0 16) = some tables →
      ∃ t : State, Leads (.gangStart gi k) s t ∧ (t.cluster k).segments = later ∧ (t.cluster k).tables = tables
        ∧ (∃ h, Map.get? t.gangs gi = some h ∧ h.begun = g.begun ++ [k])
        ∧ ∀ i, i < 8 → (t.ctx (coreIn k i) 0).pc = g.hdr.entry / 2 * 2 ∧ (t.core (coreIn k i)).mbxcfg = 64 ∧ (t.core (coreIn k i)).freeLen = g.poolN
          ∧ ∀ n, n < 7 → Map.getD (t.ctx (coreIn k i) 0).mb n 0 = g.args.getD n 0)
  ∧ (∀ (s : State) gi k g, Map.get? s.gangs gi = some g → s.launchStalls g.asid g.code g.hdr g.xumask = true → Leads (.gangStart gi k) s s)
  ∧ (∀ (s : State) k x r, s.memWf = true → (s.cluster k).segments = x :: r → ∃ t : State, Leads (.segmentArrival k) s t ∧ (t.cluster k).segments = r
      ∧ ∀ i, i < x.bytes.length → x.addr + i < 2 ^ 22 → Mem.read t.cmem (cellKey k (x.addr + i)) = x.bytes.getD i 0)
  ∧ (∀ (s : State) gi g, Map.get? s.gangs gi = some g → g.st = .allocated → (∀ k ∈ g.clusters, k ∈ g.begun) →
      ∃ t : State, Leads (.launchContextStart gi) s t ∧ (∃ h, Map.get? t.gangs gi = some h ∧ h.st = .running) ∧ ∀ c ∈ g.cores, (t.ctx c 0).st = .ready)
  ∧ (∀ (s : State) gi g j, (s.gangs.map (·.1)).Nodup → Map.get? s.gangs gi = some g → s.jobFailed g = false → g.st = .running → g.image = none →
      (∀ c ∈ g.cores, (s.core c).complete = true) → s.inFlight g = false → Map.get? s.vale.jobs g.job = some j → j.toPlace = 0 →
      (∀ e ∈ s.gangs, e.1 ≠ gi → e.2.job ≠ g.job) → ∃ t : State, Leads (.gangCompletion gi) s t ∧ Map.get? t.gangs gi = none
        ∧ (∀ c ∈ g.cores, (t.core c).gang = none) ∧ ∃ j', Map.get? t.vale.jobs g.job = some j' ∧ j'.status.isSome = true)
  ∧ (∀ (s : State) gi g, Map.get? s.gangs gi = some g → s.jobFailed g = true → g.image = none →
      (s.writesLeft g = true → Leads (.gangCompletion gi) s s)
      ∧ (s.writesLeft g = false → Leads (.gangCompletion gi) s ((s.removeGang gi g).gangEnded g.job 0)))

/-- R49, R236 to R239, R386: pre-emption, images and their restore, time slices. The late halt is 0.40 µs counted in cycles of the core's island,
at each frequency that it has in between (log 55), and that island is the one of its quad (log 92); the form of the image is log 49. -/
def Obligations.GangPreemption : Prop :=
  (∀ (s : State) gi g, Map.get? s.gangs gi = some g → g.st = .running → ∃ t : State, Leads (.preemptionRequest gi) s t
      ∧ Map.get? t.gangs gi = some { g with st := .preempting })
  ∧ (∀ (s : State) c g, s.gangOf c = some g → g.st = .preempting → (s.core c).halting = none → ∃ t : State, Leads (.preemptDistribution c) s t
      ∧ (t.core c).halting = some (s.core c).cycle ∧ (t.core c).haltLeft = 400000)
  ∧ (∀ (s : State) c, let left := (s.core c).haltLeft * (Map.getD s.mod.islands (quadOf c) (1400, 0)).1
      left ≤ s.rtcHaltCycles c * 1000000 ∧ s.rtcHaltCycles c * 1000000 < left + 1000000)
  ∧ (∀ (s : State) i mhz mv w temp c h, i < 256 → 1400 ≤ mhz → mhz ≤ 1800 → w < 4200 → (s.cores.map (·.1)).Nodup →
      (s.core c).halting = some h → quadOf c = i → (Map.getD s.mod.islands i (1400, 0)).1 ≠ mhz →
      ∃ t : State, Leads (.islandDvfs i ⟨mhz, mv⟩ w temp) s t ∧ (t.core c).halting = some (s.core c).cycle
        ∧ (t.core c).haltLeft = (s.core c).haltLeft - ((s.core c).cycle - h) * 1000000 / (Map.getD s.mod.islands i (1400, 0)).1)
  ∧ (∀ (s : State) c h l, (s.core c).halting = some h → h + s.rtcHaltCycles c ≤ (s.core c).cycle → (s.core c).lateHalt = false → l < 4 →
      (s.ctx c l).rtc = true → (s.ctx c l).st = .ready → ∃ t : State, Leads (.rtcLateHalt c) s t ∧ (t.core c).lateHalt = true)
  ∧ (∀ (s : State) gi g, Map.get? s.gangs gi = some g → s.maySave gi g = true →
      s.objectStalls g.asid g.imageTA .write 0 (Config.imageBytes s.freeCtr).length = false → ∃ t : State, Leads (.imageWrite gi) s t
      ∧ (∃ h, Map.get? t.gangs gi = some h ∧ h.st = .parked ∧ h.image.isSome = true) ∧ (∀ c ∈ g.cores, (t.core c).gang = none)
      ∧ t.vale.told = s.vale.told ++ [gi])
  ∧ (∀ (s : State) gi g m cx cy, Map.get? s.gangs gi = some g → g.image = some m → g.st = .parked → s.fits cx cy g.width g.height = true →
      s.jobFailed g = false → (∀ q ∈ m.cores, q.2.stop = none) → ∃ t : State, Leads (.gangRestore gi cx cy) s t ∧ ∃ h, Map.get? t.gangs gi = some h
        ∧ h.px = 4 * cx ∧ h.py = 2 * cy ∧ h.lx = g.lx ∧ h.ly = g.ly ∧ h.image = none ∧ (h.st = .running ∨ h.st = .restored))
  ∧ (∀ (s : State) instant gs, instant < s.mod.clock + frameNs → ∃ t : State, Leads (.timeSliceSwitch instant gs) s t ∧ t.mod.time = max s.mod.time instant
      ∧ ∀ g ∈ gs, s.runs g = true → t.runs g = false)

/-- R240, R377, R383 to R388, R398 to R401, R335, R340: ports, snapshots, the host, bring-up, attestation, power and written registers. The numbers of
the blocks of R398 and the channels of a slice's calibration are log 44; trigger words under way, log 60; island events, log 62; the two-step clock
exchange, log 63; BAR contents, log 73; the header and the CRC of a link flit and the end of a replay, log 75; a
measurement of a rejected image, the bytes of a digest and the BAR that recovery serves, log 61. -/
def Obligations.ModuleEvents : Prop :=
  (∀ (s : State) p x, (s.soPort p).width ≠ 0 →
      let c := (s.soPort p).times
      let now := s.mod.clock + x % frameNs
      Leads (.ptpMessage p ⟨0, x⟩) s (s.modPort p fun y => { y with times := (c.1, now, c.2.2.1, c.2.2.2) })
      ∧ Leads (.ptpMessage p ⟨1, x⟩) s (s.modPort p fun y => { y with times := (x, c.2.1, c.2.2.1, c.2.2.2) })
      ∧ (∀ y, (s.soPort p).send 0 = some y →
          Leads (.ptpMessage p ⟨2, x⟩) s (s.modPort p fun _ => { y with times := (c.1, c.2.1, now, c.2.2.2) }))
      ∧ (∃ t : State, Leads (.ptpMessage p ⟨3, x⟩) s t ∧ t.mod.timeOffset =
          s.mod.timeOffset - (((c.2.1 : Int) - c.1) - ((x : Int) - c.2.2.1)) / 2))
  ∧ (∀ (p : SoPort) x, (p.width = 0 ∨ 4096 ≤ p.unacked.length → p.send x = none)
      ∧ (p.width ≠ 0 → p.unacked.length < 4096 → p.send x = some { p with
          unacked := p.unacked ++ [(p.nextSeq, Config.flitType, x)], wire := p.wire ++ [p.sent (p.nextSeq, Config.flitType, x)]
          nextSeq := (p.nextSeq + 1) % 2 ^ 24 }))
  ∧ (∀ (p : SoPort) n (k : BitVec 16) x, let f := p.sent (n, k, x)
      flitSeq f.header = n % 2 ^ 24 ∧ flitAck f.header = (p.expect + 2 ^ 24 - 1) % 2 ^ 24 ∧ flitType f.header = k ∧ f.payload = x
        ∧ f.crc = flitCrc f.header x ∧ f.checks = Config.laneChecks p.width f.header x f.crc)
  ∧ (∀ (s : State) p (h : BitVec 64) x crc b, (s.soPort p).width ≠ 0 → ∃ t : State, Leads (.linkFlitReceive p ⟨h, x⟩ crc b) s t ∧
      (crc = flitCrc h x → h.toNat % 2 ^ 24 = (s.soPort p).expect →
        (t.soPort p).delivered = (s.soPort p).delivered ++ [(h.toNat % 2 ^ 24, flitType h, x)]
        ∧ (t.soPort p).expect = (h.toNat % 2 ^ 24 + 1) % 2 ^ 24 ∧ (t.soPort p).crcerr = (s.soPort p).crcerr)
      ∧ (crc = flitCrc h x → h.toNat % 2 ^ 24 ≠ (s.soPort p).expect →
        (t.soPort p).delivered = (s.soPort p).delivered ∧ (t.soPort p).expect = (s.soPort p).expect)
      ∧ (crc ≠ flitCrc h x → (t.soPort p).delivered = (s.soPort p).delivered ∧ (t.soPort p).unacked = (s.soPort p).unacked
        ∧ (t.soPort p).asked = (s.soPort p).asked ++ [(s.soPort p).expect] ∧ (t.soPort p).awaited = some (s.soPort p).expect ∧ (t.soPort p).crcerr = min ((s.soPort p).crcerr + 1) (2 ^ 32 - 1)))
  ∧ (∀ (s : State) p n, (s.soPort p).width ≠ 0 → ∃ t : State, Leads (.replayRequest p n) s t
      ∧ (t.soPort p).wire = (s.soPort p).wire ++ (fromSeq n (s.soPort p).unacked).map (s.soPort p).sent
      ∧ (t.soPort p).unacked = (s.soPort p).unacked
      ∧ (t.soPort p).replays = min ((s.soPort p).replays + 1) (2 ^ 20 - 1)
      ∧ (∀ a b, (fromSeq n (s.soPort p).unacked).head? = some a → (fromSeq n (s.soPort p).unacked).getLast? = some b →
          (t.soPort p).replaying = some (a.1, b.1)))
  ∧ (∀ (p : SoPort) n l x r, p.unacked = l ++ x :: r → x.1 = n → (∀ y ∈ l, y.1 ≠ n) → (p.acked n).unacked = r
      ∧ (∀ a b, p.replaying = some (a, b) → ((p.acked n).replaying = none ↔ ∀ y ∈ r, y.1 ≠ b)))
  ∧ (∀ (s : State) p k f, (s.soPort p).width ≠ 0 → k ∈ (s.soPort p).due →
      ((s.soPort p).replaying = none ∧ (s.soPort p).awaited = none ∨ f = true) → k < 8 →
      ∃ t : State, Leads (.laneRepair p k f) s t ∧ (t.soPort p).bad.getLsbD k = true
        ∧ (t.soPort p).width = (if (s.soPort p).width = 8 then 6 else if (s.soPort p).width = 6 then 4 else 0))
  ∧ (∀ (s : State) p k, ((s.soPort p).replaying ≠ none ∨ (s.soPort p).awaited ≠ none) → Leads (.laneRepair p k false) s s)
  ∧ (∀ (s : State) w, Leads (.snapshotTrigger 0 w) s s.trigger ∧ Leads .snapin s (s.sendTrigger { source := 1 }))
  ∧ (∀ (s : State) n w l x r, n ≠ 0 → s.mod.snapWords = l ++ x :: r → (∀ y ∈ l, y.source ≠ n) → x.source = n →
      (∀ y ∈ s.mod.snapWords, n ≤ y.source) →
      let u := s.modMod fun m => { m with snapWords := removeAt m.snapWords l.length }
      (x.answer = none → Leads (.snapshotTrigger n w) s u.trigger)
      ∧ (∀ c k i, x.answer = some (c, k, i) →
          Leads (.snapshotTrigger n w) s (u.trigger.modCtx c k fun y => y.landId i (if s.mod.snapHeld then 1 else 0))))
  ∧ (∀ (s : State) d, s.mod.snapDue = some d → d < (s.mod.frame / 8192 + 1) * 8192 → ∃ t : State, Leads .snapshotLatch s t ∧ t.mod.snapDue = none
      ∧ t.mod.frame = max s.mod.frame d ∧ t.mod.snapSeq = (s.mod.snapSeq + 1) % 2 ^ 16
      ∧ ∀ c, c < 6144 → (t.core c).snap = some ((s.core c).latch (max s.mod.frame d)))
  ∧ (∀ s : State, s.mod.snapHeld = true → s.mod.snapDue = none → ∃ t : State, Leads .snapshotRelease s t ∧ t.mod.snapHeld = false)
  ∧ (∀ s : State, ∃ t : State, Leads .perst s t ∧ t.cores = s.cores ∧ t.cmem = s.cmem ∧ t.phys = s.phys ∧ t.vale.msix = [])
  ∧ (∀ s : State, s.mod.powered = false → ∃ t : State, Leads .pwrgood s t ∧ t.mod.powered = true ∧ t.mod.locked = true ∧ t.mod.frame = 0)
  ∧ (∀ (s : State) b f (ch : BitVec 2), s.mod.locked = true → b < 7162 → b ∉ s.mod.ready → ∃ t : State, Leads (.blockCalibration b ⟨f, ch⟩) s t
      ∧ b ∈ t.mod.ready ∧ (f = true → b ∈ t.mod.fails)
      ∧ (6720 ≤ b → b < 6976 → (∀ k, k < 2 → (k ∈ (t.slice (b - 6720)).retired ↔ ch.getLsbD k = true)) ∧ (ch ≠ 0 → b ∈ t.mod.fails)))
  ∧ (∀ (s : State) m v, s.mod.locked = true → s.mod.ready.length = 7162 → s.mod.fwok = false → s.mod.fwfail = false →
      ∃ t : State, Leads (.firmwareVerify m v) s t
      ∧ t.mod.fwok = (Config.signatureOk m && decide (s.mod.fuse ≤ v)) ∧ t.mod.fwfail = !(Config.signatureOk m && decide (s.mod.fuse ≤ v))
      ∧ t.mod.measure 0 = sha512 (digestBytes (s.mod.measure 0) ++ digestBytes (sha512 m)))
  ∧ (∀ (s : State) m v, s.mod.pkg = true → s.mod.vale = false → s.mod.fwfail = false → ∃ t : State, Leads (.valeLoad m v) s t
      ∧ t.mod.vale = (Config.signatureOk m && decide (s.mod.fuse ≤ v)) ∧ t.mod.fwfail = !(Config.signatureOk m && decide (s.mod.fuse ≤ v))
      ∧ t.mod.measure 1 = sha512 (digestBytes (s.mod.measure 1) ++ digestBytes (sha512 m)))
  ∧ (∀ (s : State) r, (s.mod.pkg = true → s.mod.fwfail = false →
        ∃ t : State, Leads (.doorbell r) s t ∧ t.vale.doorbells = s.vale.doorbells ++ [r])
      ∧ ((s.mod.pkg = false ∨ s.mod.fwfail = true) → Leads (.doorbell r) s s))
  ∧ (∀ (s : State) r off e, s.mod.vale = true → r ∈ s.vale.doorbells → off % 8 = 0 → off + 8 ≤ 2 ^ 24 →
      ∃ t : State, Leads (.completionEntry ⟨r, off, e⟩) s t
      ∧ t.vale.completions = s.vale.completions ++ [r] ∧ r % 64 ∈ t.vale.msix ∧ Map.get? t.mod.bar2 off = some e)
  ∧ (∀ (s : State) x, s.mod.pkg = true → ∃ t : State, Leads (.attestationQuote x) s t ∧ t.mod.quote = some (Config.identitySign (sha512
      (digestBytes x ++ ((List.range 8).map fun i => digestBytes (s.mod.measure i)).flatten))))
  ∧ (∀ (s : State) i mhz mv w temp, i < 256 → 1400 ≤ mhz → mhz ≤ 1800 → (mhz = 1400 ∨ w < 4200) →
      ∃ t : State, Leads (.islandDvfs i ⟨mhz, mv⟩ w temp) s t
      ∧ Map.getD t.mod.islands i (1400, 0) = (mhz, mv) ∧ (4200 ≤ w → ∀ e ∈ t.mod.islands, e.2.1 ≤ 1400))
  ∧ (∀ (s : State) temp, 95 < temp → ∃ t : State, Leads (.thermtrip temp) s t ∧ t.mod.therm = true)
  ∧ (∀ (s : State) n v, ∃ t : State, Leads (.registerWrite (.slice n 0) v) s t ∧ (t.slice n).tick = max 1 (v.toNat % 2 ^ 20))
  ∧ (∀ (s : State) c v, ∃ t : State, Leads (.registerWrite (.snapAllow c) v) s t ∧ (t.core c).snapAllow = v.getLsbD 62)
  ∧ (∀ (s : State) v, 1 ≤ v.toNat → v.toNat ≤ 1000 → ∃ t : State, Leads (.registerWrite .slicePeriod v) s t ∧ t.vale.period = v.toNat)
  ∧ (∀ (s : State) v, (v.toNat = 0 ∨ 1000 < v.toNat) → Leads (.registerWrite .slicePeriod v) s s)
  ∧ (∀ (s : State) n v, Leads (.registerWrite (.slice n 0x18) v) s (s.modSlice n fun y => { y with priv := v.setWidth 2 }))
  ∧ (∀ (s : State) n k v, k < 2 → ∃ t : State, Leads (.registerWrite (.slice n (0x20 + 8 * k)) v) s t ∧
      let r := Map.getD (s.slice n).refresh k {}
      Map.get? (t.slice n).refresh k = some { r with maxPost := r.maxPost - (r.maxPost &&& v.toNat / 2 ^ 12 % 16),
                                                     maxPull := r.maxPull - (r.maxPull &&& v.toNat / 2 ^ 8 % 16) })
  ∧ (∀ (s : State) n off v, off ≠ 0 → off ≠ 0x18 → off ≠ 0x20 → off ≠ 0x28 → (s.slice n).write off v = s.slice n)
  ∧ (∀ (s : State) asid r v, s.unitOpen asid (taOf r 0 0) = false →
      let d := s.root asid r
      Leads (.registerWrite (.rootWord asid r 0) v) s
        ({ s with roots := Map.set s.roots (asid * 256 + r) (v, d.w1, d.w2, d.w3) }.dropCached asid (taOf r 0 0))
      ∧ Leads (.registerWrite (.rootWord asid r 1) v) s
        ({ s with roots := Map.set s.roots (asid * 256 + r) (d.w0, v, d.w2, d.w3) }.dropCached asid (taOf r 0 0))
      ∧ Leads (.registerWrite (.rootWord asid r 2) v) s
        ({ s with roots := Map.set s.roots (asid * 256 + r) (d.w0, d.w1, v, d.w3) }.dropCached asid (taOf r 0 0))
      ∧ Leads (.registerWrite (.rootWord asid r 3) v) s
        ({ s with roots := Map.set s.roots (asid * 256 + r) (d.w0, d.w1, d.w2, v) }.dropCached asid (taOf r 0 0)))
  ∧ (∀ (s : State) asid r w v, s.unitOpen asid (taOf r 0 0) = true → Leads (.registerWrite (.rootWord asid r w) v) s s)
  ∧ (∀ (s : State) asid r v, let h := (s.root asid r).hbase
      Leads (.registerWrite (.controlRecord asid r 0) v) s (s.modVale fun x => { x with control := (
        Map.set x.control h (BitVec.ofNat 64 (v.toNat / 2 ^ 63 * 2 ^ 63 + v.toNat % 2 ^ 16), (s.control h).2)) })
      ∧ Leads (.registerWrite (.controlRecord asid r 1) v) s (s.modVale fun x => { x with control := (
        Map.set x.control h ((s.control h).1, BitVec.ofNat 64 (v.toNat % 2 ^ 32))) }))
  ∧ (∀ (s : State) c l n v, Leads (.registerWrite (.control c l n) v) s
      (if 0x20 ≤ n ∧ n ≤ 0x28 then s.modCtx c l fun x => x.setLoop n v else s.setCr c l n v))
  ∧ (∀ (s : State) v, ∃ t : State, Leads (.registerWrite .modPower v) s t ∧ t.mod.power.toNat / 2 ^ 48 = v.toNat / 2 ^ 48
      ∧ t.mod.power.toNat / 2 ^ 40 % 256 = v.toNat / 2 ^ 40 % 256 ∧ t.cmem = s.cmem ∧ t.phys = s.phys)
  ∧ (∀ (m : Module) bar off, m.serves bar off = true ↔
      ((if m.fwfail = true then bar = 0 else m.pkg = true) ∧ (bar = 0 ∧ off + 8 ≤ 2 ^ 16 ∨ bar = 2 ∧ off + 8 ≤ 2 ^ 24)))
  ∧ (∀ (s : State) bar off v, s.mod.serves bar (off / 8 * 8) = false → Leads (.hostBarAccess true bar off v) s s
      ∧ Leads (.hostBarAccess false bar off v) s (s.modMod fun m => { m with lastHostRead := BitVec.allOnes 64 }))
  ∧ (∀ (s : State) off v, s.mod.serves 0 (off / 8 * 8) = true →
      Leads (.hostBarAccess true 0 off v) s (s.modMod fun m => { m with bar0 := Map.set m.bar0 (off / 8 * 8) v }))
  ∧ (∀ (s : State) off v, s.mod.serves 2 (off / 8 * 8) = true →
      Leads (.hostBarAccess true 2 off v) s (s.modMod fun m => { m with bar2 := Map.set m.bar2 (off / 8 * 8) v })
      ∧ ∀ x, Map.get? s.mod.bar2 (off / 8 * 8) = some x →
          Leads (.hostBarAccess false 2 off v) s (s.modMod fun m => { m with lastHostRead := x }))
  ∧ (∀ (s : State) bar off v, s.mod.serves bar (off / 8 * 8) = true → (bar = 0 ∨ Map.get? s.mod.bar2 (off / 8 * 8) = none) →
      ∃ t x, Leads (.hostBarAccess false bar off v) s t ∧ t = { s.modMod (fun m => { m with lastHostRead := x }) with freeCtr := s.freeCtr + 1 })

/-- R390, R391, R402, R392 to R395, R164, R172, R204: Vale's system calls of a context. That TIME with an argument is INVALID (log 63), the status of
a job of another address space (log 65), where memory is taken from (log 66), the checks of a record and its room (log 64) and which mappings a reallocation keeps
(log 95) are the model's own. -/
def Obligations.ValeSystemCalls : Prop :=
  (∀ (s : State) c l arg, Asks s c l 0x01 arg → (arg ≠ 0 → Answers (.time (.context c l)) s c l 0x01 1 (· = s))
      ∧ (arg = 0 → Answers (.time (.context c l)) s c l 0x01 (BitVec.ofNat 64 s.timeNow)
          (· = { s with freeCtr := s.freeCtr + 1, mod := { s.mod with time := s.timeNow } })))
  ∧ (∀ s : State, s.mod.time ≤ s.timeNow ∧ s.mod.clock ≤ s.timeNow ∧ (s.mod.time < s.timeNow → s.timeNow < s.mod.clock + frameNs))
  ∧ (∀ (s : State) c l arg j st, Asks s c l 0x11 arg → Map.get? s.vale.jobs arg.toNat = some j → j.asid = s.asidOf c → j.status = some st →
      Answers (.waitjob (.context c l)) s c l 0x11 (BitVec.ofNat 64 (st + j.parked % 2 ^ 32 * 2 ^ 32)) (· = s))
  ∧ (∀ (s : State) c l arg, Asks s c l 0x11 arg → Map.get? s.vale.jobs arg.toNat = none → Answers (.waitjob (.context c l)) s c l 0x11 1 (· = s))
  ∧ (∀ (s : State) c l arg j, Asks s c l 0x11 arg → Map.get? s.vale.jobs arg.toNat = some j → j.asid ≠ s.asidOf c →
      Answers (.waitjob (.context c l)) s c l 0x11 2 (· = s))
  ∧ (∀ (s : State) c l k arg, Asks s c l k arg → k ∉ [0x01, 0x10, 0x11, 0x20, 0x21, 0x30, 0x31, 0x32, 0x33, 0x40, 0x41, 0x42, 0x50] →
      Answers (.unassignedCall (.context c l)) s c l k 4 (· = s))
  ∧ (∀ (s : State) c l arg t, Asks s c l 0x20 arg → DescriptorAt arg 1052 → tableImage ((s.argBytes c arg 1052).drop 8) = some t →
      dword (s.argBytes c arg 1052) 0 < 16 → Answers (.xutable (.context c l)) s c l 0x20 0 fun u =>
        Map.get? (u.cluster (clusterOf c)).tables (dword (s.argBytes c arg 1052) 0) = some t)
  ∧ (∀ (s : State) c l arg, Asks s c l 0x21 arg → DescriptorAt arg 16 → dword (s.argBytes c arg 16) 0 < 64 →
      slotClean (dword (s.argBytes c arg 16) 1) = true → Answers (.routine (.context c l)) s c l 0x21 0 fun u =>
        Map.getD u.vale.routines (s.asidOf c * 64 + dword (s.argBytes c arg 16) 0) 0 = BitVec.ofNat 64 (dword (s.argBytes c arg 16) 1))
  ∧ (∀ (s : State) c l arg d s1 key base s2, Asks s c l 0x30 arg → DescriptorAt arg 64 →
      (let b := s.argBytes c arg 64
       dword b 1 < 8 ∧ zeroWords b 3 5 = true ∧ s.pageRoot (s.asidOf c) (BitVec.ofNat 64 (dword b 0)) false = some d
        ∧ s.pageSlot d (taPath (BitVec.ofNat 64 (dword b 0))) = some (s1, key) ∧ s1.takeBacking ((dword b 1).testBit 2) = some (base, s2)
        ∧ s1.walkStalls (taPath (BitVec.ofNat 64 (dword b 0))) 6 d.tbase = false ∧ s1.stalledAt (base * 2048) = false) →
      s.tableRoom 5 = true → Answers (.map (.context c l)) s c l 0x30 0 fun u =>
        let b := s.argBytes c arg 64
        Map.get? u.entries key = some (BitVec.ofNat 64 (dword b 2),
          pageWord ((dword b 1).testBit 0) ((dword b 1).testBit 1) ((dword b 1).testBit 2) false d.bver base))
  ∧ (∀ (s : State) c l arg e, Asks s c l 0x31 arg → s.subEntry (s.asidOf c) arg = some e → s.walkWaits (s.asidOf c) arg = false →
      Answers (.mapSub (.context c l)) s c l 0x31 0 fun u =>
      Map.get? u.entries e.key = some (e.w0 ||| BitVec.ofNat 64 (presenceMask arg), e.w1))
  ∧ (∀ (s : State) c l arg e, Asks s c l 0x32 arg → s.subEntry (s.asidOf c) arg = some e → s.unitOpen (s.asidOf c) arg = false →
      s.walkWaits (s.asidOf c) arg = false → Answers (.unmapSub (.context c l)) s c l 0x32 0 fun u =>
      Map.get? u.entries e.key = some (e.w0 &&& ~~~BitVec.ofNat 64 (presenceMask arg), e.w1))
  ∧ (∀ (s : State) c l arg, (Asks s c l 0x31 arg → s.subEntry (s.asidOf c) arg = none → Answers (.mapSub (.context c l)) s c l 0x31 1 (· = s))
      ∧ (Asks s c l 0x32 arg → s.subEntry (s.asidOf c) arg = none → Answers (.unmapSub (.context c l)) s c l 0x32 1 (· = s)))
  ∧ (∀ (s : State) c l arg, Asks s c l 0x33 arg → arg.toNat < 256 → (s.root (s.asidOf c) arg.toNat).valid = true →
      s.unitOpen (s.asidOf c) (taOf arg.toNat 0 0) = false →
      (∀ b ∈ s.tablesOf [(s.root (s.asidOf c) arg.toNat).tbase] 5, s.stalledAt (b * 2048) = false) →
      let v := ((s.root (s.asidOf c) arg.toNat).bver + 1) % 2 ^ 32
      Answers (.realloc (.context c l)) s c l 0x33 0 fun u => (u.root (s.asidOf c) arg.toNat).bver = v
        ∧ ∀ key w0 w1, Map.get? s.entries key = some (w0, w1) →
            Map.get? u.entries key = some (w0, w1) ∨ Map.get? u.entries key = some (w0, withEncv w1 v))
  ∧ (∀ (s : State) c l arg, Asks s c l 0x33 arg → (256 ≤ arg.toNat ∨ (s.root (s.asidOf c) arg.toNat).valid = false) →
      Answers (.realloc (.context c l)) s c l 0x33 1 (· = s))
  ∧ (∀ (s : State) c l arg d s1 key a p s2, Asks s c l 0x40 arg → DescriptorAt arg 64 →
      (let b := s.argBytes c arg 64
       let n := homeSlice ((d.hbase * 32 + dword b 2) * 64)
       dword b 1 ≤ 0xFE ∧ dword b 2 < 2 ^ 32 ∧ dword b 3 < 4 ∧ zeroWords b 4 4 = true
        ∧ s.pageRoot (s.asidOf c) (BitVec.ofNat 64 (dword b 0)) true = some d ∧ 0 < dword b 2 ∧ dword b 2 ≤ s.npages d.hbase
        ∧ Map.get? s.headers (d.hbase * 32 + dword b 2) = none ∧ s.pageSlot d (taPath (BitVec.ofNat 64 (dword b 0))) = some (s1, key)
        ∧ (s1.slice n).waiting.length < (s1.slice n).fp8.free + (s1.slice n).fp8.back.length
        ∧ s1.takeSliceSlot n (s1.slice n).fp8 = some (a, p, s2)
        ∧ s1.walkStalls (taPath (BitVec.ofNat 64 (dword b 0))) 6 d.tbase = false ∧ s1.stalledAt ((d.hbase * 32 + dword b 2) * 64) = false
        ∧ s1.stalledAt a = false) → s.tableRoom 5 = true →
      Answers (.kvalloc (.context c l)) s c l 0x40 0 fun u =>
        (u.header (d.hbase * 32 + dword (s.argBytes c arg 64) 2)).slot = a
        ∧ (u.header (d.hbase * 32 + dword (s.argBytes c arg 64) 2)).pscale = dword (s.argBytes c arg 64) 1
        ∧ (u.header (d.hbase * 32 + dword (s.argBytes c arg 64) 2)).state = .stable)
  ∧ (∀ (s : State) c l arg d s1 key, Asks s c l 0x40 arg → DescriptorAt arg 64 →
      (let b := s.argBytes c arg 64
       let n := homeSlice ((d.hbase * 32 + dword b 2) * 64)
       dword b 1 ≤ 0xFE ∧ dword b 2 < 2 ^ 32 ∧ dword b 3 < 4 ∧ zeroWords b 4 4 = true
        ∧ s.pageRoot (s.asidOf c) (BitVec.ofNat 64 (dword b 0)) true = some d ∧ 0 < dword b 2 ∧ dword b 2 ≤ s.npages d.hbase
        ∧ Map.get? s.headers (d.hbase * 32 + dword b 2) = none ∧ s.pageSlot d (taPath (BitVec.ofNat 64 (dword b 0))) = some (s1, key)
        ∧ (s1.slice n).fp8.free + (s1.slice n).fp8.back.length ≤ (s1.slice n).waiting.length) →
      Answers (.kvalloc (.context c l)) s c l 0x40 3 (· = s))
  ∧ (∀ (s : State) c l arg d dd e h, Asks s c l 0x41 arg → s.pageRoot (s.asidOf c) arg true = some d → s.walk (s.asidOf c) arg = .ok (dd, e) →
      Map.get? s.headers (d.hbase * 32 + entryBase e.w1) = some h → h.state = .stable → h.mx4 = false →
      (let n := homeSlice ((d.hbase * 32 + entryBase e.w1) * 64)
       (∀ q ∈ (s.slice n).reqs, q.page ≠ d.hbase * 32 + entryBase e.w1) → s.headerStalled (d.hbase * 32 + entryBase e.w1) = false →
       s.walkWaits (s.asidOf c) arg = false →
        Answers (.kvfree (.context c l)) s c l 0x41 0 fun u => (u.slice n).fp8.back = (s.slice n).fp8.back ++ [h.slot]))
  ∧ (∀ (s : State) c l arg, Asks s c l 0x42 arg → DescriptorAt arg 64 →
      (let b := s.argBytes c arg 64
       dword b 0 < 256 → dword b 1 < 2 ^ 32 → dword b 2 < 2 ^ 32 → dword b 3 < 2 ^ 32 → zeroWords b 4 4 = true →
        s.slotsTaken (dword b 0) + dword b 1 + dword b 2 + dword b 3 ≤ 2 ^ 18 → Answers (.kvslots (.context c l)) s c l 0x42 0 fun u =>
          (u.slice (dword b 0)).fp8.free = (s.slice (dword b 0)).fp8.free + dword b 1
          ∧ (u.slice (dword b 0)).mx4.free = (s.slice (dword b 0)).mx4.free + dword b 2
          ∧ (u.slice (dword b 0)).sc.free = (s.slice (dword b 0)).sc.free + dword b 3))
  ∧ (∀ (s : State) c l arg z, Asks s c l 0x50 arg → DescriptorAt arg 64 →
      (let b := s.argBytes c arg 64
       let n := dword b 0 / dword b 1
       sizeCode (dword b 1) = some z → zeroWords b 2 6 = true → s.vale.hbm + n ≤ 2 ^ 25 → Answers (.pooladd (.context c l)) s c l 0x50 0 fun u =>
          (Map.getD u.vale.pool (s.asidOf c * 4 + z) {}).free = (Map.getD s.vale.pool (s.asidOf c * 4 + z) {}).free + n))
  ∧ (∀ (s : State) c l arg h obj, Asks s c l 0x10 arg → DescriptorAt arg 256 →
      (let b := s.argBytes c arg 256
       let code := BitVec.ofNat 64 (dword b 1)
       let j := recordJob b (s.asidOf c) s.mod.frame s.vale.nextJob h
       s.objectStalls (s.asidOf c) code .read 0 64 = false → s.wholeStalls (s.asidOf c) code h = false →
       recordOk b = true → (s.objectBytes (s.asidOf c) code 0 64).bind codeHeader = some h → j.xumask &&& ~~~h.tmask = 0 →
        (s.objectTables (s.asidOf c) code h j.xumask (count 0 16)).isSome = true → s.wholeObject (s.asidOf c) code h = some obj →
        (Config.recordRoom s.vale.jobs.length = false → Answers (.post (.context c l)) s c l 0x10 3 (· = s))
        ∧ (Config.recordRoom s.vale.jobs.length = true →
         Answers (.post (.context c l)) s c l 0x10 (BitVec.ofNat 64 s.vale.nextJob) fun u =>
          u.vale.nextJob = s.vale.nextJob + 1
          ∧ u.mod.measure 7 = sha512 (digestBytes (s.mod.measure 7) ++ digestBytes (sha512 obj))
          ∧ (s.canFit j = true → Map.get? u.vale.jobs s.vale.nextJob = some j ∧ u.vale.queue = s.vale.queue ++ [s.vale.nextJob])
          ∧ (s.canFit j = false → ∃ k, Map.get? u.vale.jobs s.vale.nextJob = some k ∧ k.status = some 2))))
  ∧ (∀ (s : State) c l arg, Asks s c l 0x10 arg →
      (¬ DescriptorAt arg 256 → Answers (.post (.context c l)) s c l 0x10 1 (· = s))
      ∧ (DescriptorAt arg 256 →
        (let b := s.argBytes c arg 256
         let code := BitVec.ofNat 64 (dword b 1)
         let header := (s.objectBytes (s.asidOf c) code 0 64).bind codeHeader
         (recordOk b = false ∨ header = none ∨ ∃ h, header = some h ∧
            (BitVec.ofNat 16 (dword b 0) &&& ~~~h.tmask ≠ 0
              ∨ s.objectTables (s.asidOf c) code h (BitVec.ofNat 16 (dword b 0)) (count 0 16) = none
              ∨ s.wholeObject (s.asidOf c) code h = none)) →
          (recordOk b = true → s.objectStalls (s.asidOf c) code .read 0 64 = false) →
          (∀ h, header = some h → s.wholeStalls (s.asidOf c) code h = false) →
          Answers (.post (.context c l)) s c l 0x10 1 (· = s))))
  ∧ (∀ (s : State) c l arg,
      (Asks s c l 0x20 arg → ¬ DescriptorAt arg 1052 → Answers (.xutable (.context c l)) s c l 0x20 1 (· = s))
      ∧ (Asks s c l 0x21 arg → ¬ DescriptorAt arg 16 → Answers (.routine (.context c l)) s c l 0x21 1 (· = s))
      ∧ (Asks s c l 0x30 arg → ¬ DescriptorAt arg 64 → Answers (.map (.context c l)) s c l 0x30 1 (· = s))
      ∧ (Asks s c l 0x40 arg → ¬ DescriptorAt arg 64 → Answers (.kvalloc (.context c l)) s c l 0x40 1 (· = s))
      ∧ (Asks s c l 0x42 arg → ¬ DescriptorAt arg 64 → Answers (.kvslots (.context c l)) s c l 0x42 1 (· = s))
      ∧ (Asks s c l 0x50 arg → ¬ DescriptorAt arg 64 → Answers (.pooladd (.context c l)) s c l 0x50 1 (· = s)))
  ∧ (∀ (s : State) c l k arg d v, (s.ctx c l).op = .call k arg d none →
      ((s.respond (.context c l) k v).ctx c l).op = .call k arg d (some v))

/-- R50, R53 to R60: words written out from the encodings of the spec decode to the instructions that they stand for. -/
def Obligations.WordsDecode : Prop :=
  ∀ r, decode ([0x01, 0x2A, 0xB2, 0x30] ++ r) = .ok (.vfma 0 10 4 11 0 0, r)
    ∧ decode ([0x51, 0x0A, 0x92, 0x20] ++ r) = .ok (.vcmpLt 0 2 4 9 0, r)
    ∧ decode ([0xB1, 0x1B, 0xD6, 0x14] ++ r) = .ok (.kadd 2 6 12 13 0, r)
    ∧ decode ([0xB1, 0x9F, 0x62, 0x20] ++ r) = .ok (.kdrain 7 5 6 0, r)
    ∧ decode ([0x11, 0xB7, 0x00, 0x00] ++ r) = .ok (.mload 13 1 0, r)
    ∧ decode ([0x21, 0x37, 0x20, 0x00] ++ r) = .ok (.mmul 2 13 0 0, r)
    ∧ decode ([0x71, 0x81, 0x02, 0xA0] ++ r) = .ok (.tmld 0 5 0, r)
    ∧ decode ([0x01, 0x03, 0x00, 0x00] ++ r) = .ok (.mlease 0, r)
    ∧ decode ([0x1A, 0x00] ++ r) = .ok (.nop, r)

/-- R50, R53 to R60: for every encoded instruction with fields that its entry allows, the decoder reads back from the bytes of its encoding
that instruction, with every operand at every value, and the bytes that follow. -/
def Obligations.DecodeEncodeRoundTrip : Prop := ∀ i : Instr, i.wf = true → i.encoded = true → ∀ r, decode (encode i ++ r) = .ok (i, r)

/-- R57, R58, R59, R60: what decodes is the encoding of an allowed instruction and nothing else, so that a reserved major, an unlisted
function value, an unassigned op5, the halfword 0 and a non-zero field that must be zero are all refused. -/
def Obligations.ReservedEncodingsRefused : Prop :=
  (∀ b i r, decode b = .ok (i, r) → b = encode i ++ r ∧ i.wf = true ∧ i.encoded = true)
  ∧ (∀ w r, w < 2 ^ 32 → w % 2 = 1 →
      w / 16 % 64 ∈ [0x0E, 0x1F, 0x2B, 0x2C, 0x2D, 0x2E, 0x2F, 0x34, 0x35, 0x38, 0x39, 0x3D, 0x3F] →
      ∃ e, decode (Decode.leBytes 4 w ++ r) = .error e)
  ∧ (∀ w r q, w < 2 ^ 32 → w % 2 = 1 →
      q ∈ [(0x00, 15), (0x02, 8), (0x04, 15), (0x0C, 6), (0x0D, 3), (0x17, 12), (0x19, 4), (0x1A, 10), (0x1B, 8), (0x1C, 4), (0x1D, 3),
        (0x1E, 3), (0x20, 13), (0x21, 13), (0x22, 13), (0x23, 13), (0x24, 15), (0x25, 12), (0x27, 12), (0x28, 3), (0x29, 2), (0x2A, 6),
        (0x30, 4), (0x31, 3), (0x32, 1), (0x33, 1), (0x36, 4), (0x37, 5), (0x3A, 2), (0x3B, 3), (0x3C, 5), (0x3E, 8)] →
      w / 16 % 64 = q.1 → q.2 ≤ w / 2 ^ 28 → ∃ e, decode (Decode.leBytes 4 w ++ r) = .error e)
  ∧ (∀ w r, w < 2 ^ 16 → w % 2 = 0 → (w / 2 % 32 = 0 ∨ 15 ≤ w / 2 % 32) → ∃ e, decode (Decode.leBytes 2 w ++ r) = .error e)

/-- R18, R32, R39, R41, R50, R57, R31: the next step of a core whose turn it is fetches the bytes at the PC of the chosen context, and runs
exactly the instruction that they decode to, unless the scoreboard holds it back (R63, R66), when the next context of the cycle is tried;
bytes that decode to none raise ILLEGAL with their value; the 513th instruction of a run-to-completion handler raises RTC_OVERRUN. An
event of the schedule is that event. That one step is one core cycle of one core is the choice of log 4. -/
def Obligations.StepRunsDecodedInstruction : Prop :=
  (∀ s c l s1 b i r, IssuesNext s c l → ((s.begun c).running c l).fetch c (((s.begun c).running c l).ctx c l).pc.toNat = .bytes s1 b →
    decode b = .ok (i, r) → (s1.me.rtc = true → s1.me.rtcCount < 512) →
    (s1.heldBack i = false →
      (∀ t, exec i s1 = .next t → t.me.tried = false → step s = .next t)
      ∧ (∀ t, exec i s1 = .next t → t.me.tried = true → step s = issueLoop 3 c (t.pick c))
      ∧ (∀ f, exec i s1 = .fault f → step s = .fault f) ∧ (∀ f, exec i s1 = .refused f → step s = .refused f))
    ∧ (s1.heldBack i = true → step s = issueLoop 3 c (s1.notEligible.pick c)))
  ∧ (∀ s c l s1 b e, IssuesNext s c l → ((s.begun c).running c l).fetch c (((s.begun c).running c l).ctx c l).pc.toNat = .bytes s1 b →
    decode b = .error e → step s = .next (s1.afterTrap { cause := 0x01, val := BitVec.ofNat 64 (Decode.leNat b) }))
  ∧ (∀ s c l s1 b i r, IssuesNext s c l → ((s.begun c).running c l).fetch c (((s.begun c).running c l).ctx c l).pc.toNat = .bytes s1 b →
    decode b = .ok (i, r) → s1.me.rtc = true → 512 ≤ s1.me.rtcCount →
    step s = .next (s1.afterTrap { cause := 0x0C, val := s1.me.handler.setWidth 64 }))
  ∧ (∀ s e, s.mod.therm = false → s.nextTurn = .event e → e.encoded = false → step s = exec e s.afterTake)
  ∧ (∀ (s : State) c pc, pc + 4 ≤ 2 ^ 22 → s.inMailbox (clusterOf c) pc 4 = false → s.firstAbsent (clusterOf c) pc 4 = none →
      s.badLocal (clusterOf c) pc 4 = false → (s.core c).ibuf = none →
      ∃ b, s.fetch c pc = .bytes (s.fill c pc) b
        ∧ b = Mem.readBytes s.cmem (cellKey (clusterOf c) pc) (if (Mem.read s.cmem (cellKey (clusterOf c) pc)).getLsbD 0 then 4 else 2))

/-- R8, R67, R65, R398, R11: the machine at reset. No gang is resident, every memory reads zero, every register of a context reads its
starting value, and no READY bit is set. Which values the model names where the spec gives none is log 1; that both memories read zero and are in
canonical form before bring-up has zeroed them is log 6; the empty agenda is log 2. -/
def Obligations.ResetState : Prop :=
  State.reset.memWf = true ∧ (∀ a, Mem.read State.reset.cmem a = 0) ∧ (∀ a, Mem.read State.reset.phys a = 0)
  ∧ (State.reset.gangs = [] ∧ State.reset.engines = [] ∧ State.reset.roots = [] ∧ State.reset.guards = [] ∧ State.reset.agenda = [])
  ∧ (∀ c, (State.reset.core c).gang = none ∧ (State.reset.core c).stop = none ∧ (State.reset.core c).mailbox = [])
  ∧ (∀ c l r, l < 4 → (State.reset.ctx c l).sreg r = 0 ∧ (State.reset.ctx c l).vreg r = { val := 0, tag := .raw }
      ∧ (State.reset.ctx c l).preg r = (if r = 0 then BitVec.allOnes 256 else 0))
  ∧ (∀ c l, l < 4 → State.reset.cr c l 0x000 = BitVec.ofNat 64 l ∧ State.reset.cr c l 0x001 = BitVec.ofNat 64 l
      ∧ State.reset.cr c l 0x049 = 2048 * 2 ^ 16 + 16 ∧ State.reset.cr c l 0x101 = 64)
  ∧ (∀ c l n, l < 4 → n ∈ [0x002, 0x005, 0x008, 0x009, 0x00A, 0x00B, 0x00C, 0x020, 0x021, 0x022, 0x023, 0x024, 0x025, 0x026, 0x027, 0x028,
      0x030, 0x031, 0x032, 0x033, 0x034, 0x048, 0x050, 0x051, 0x058, 0x059, 0x060, 0x110] → State.reset.cr c l n = 0)
  ∧ (State.reset.mod.modready = 0 ∧ State.reset.mod.frame = 0 ∧ State.reset.mod.therm = false)

/-- R4, R401: memory, and the one way to stop. From every state whose memories are in canonical form, a step gives a next state whose memories
are again in canonical form, unless the module has asserted THERMTRIP, when it has stopped (log 79); no step is refused. Canonical form is
the form that the model gives memory (log 6). -/
def Obligations.StepKeepsMemoryCanonical : Prop :=
  ∀ s : State, s.memWf = true →
    (s.mod.therm = false → ∃ t, step s = .next t ∧ t.memWf = true) ∧ (s.mod.therm = true → step s = .fault .moduleStopped)

/-- R9: an instruction that works on registers changes no memory, no register of its context but those it names, and no other context; and unless
it stops its core, which notifies the gang (R235) and triggers a snapshot (R232), no other unit. A trap register changes only when its trap
is taken. A quiet instruction, which may queue work elsewhere, changes no memory and no register of any context but those it names. An
instruction that may end its routine keeps its context's registers but LC, STATUS.RTC and STATUS.TD. -/
def Claims.registerFrames : Prop :=
  (∀ i w s t, registerTargets i = some w → exec i s = .next t → s.me.st = .running →
    SameMemory s t ∧ SameRegisters s t w ∧ (t.here.stop = none → SameUnits s t w))
  ∧ (∀ i w s t, quietTargets i = some w → exec i s = .next t → s.me.st = .running → SameMemory s t ∧ SameRegisters s t w)
  ∧ (∀ i s t, endsRoutine i = true → exec i s = .next t → s.me.st = .running → SameEnding s t)

/-- R128 to R141, R346 to R369, R400: what the instructions that act on sync objects, versioned words, phases, tokens and nodes leave as it was. An
object, a versioned word, a node or a spill ring is the only memory that changes; a link may write register b when it traps; nrun writes s20 to s23
and PHASE; wake changes only the token of its context, or a context that waits. -/
def Claims.unitFrames : Prop :=
  (∀ i w s t, unitTargets i = some w → exec i s = .next t → s.me.st = .running → SameUnit s t w (unitBytes i s))
  ∧ (∀ sc s t, exec (.nrun sc) s = .next t → s.me.st = .running →
      (∀ r : BitVec 5, r.toNat < 20 ∨ 23 < r.toNat → t.me.sreg r.toNat = s.me.sreg r.toNat)
      ∧ SameUnit s (t.modCtx s.cur.1 s.cur.2 fun x => { x with s := s.me.s }) { special := [.phase] }
          (fun q => GangByte s q ∨ RingByte s q ∨ MarkByte s q))
  ∧ (∀ a sc s t, exec (.wake a sc) s = .next t → s.me.st = .running →
      ∃ c l, SameUnit (s.modCtx c l fun x => { x with token := (t.ctx c l).token }) t {} (fun _ => False))

/-- R9: an instruction that works on registers changes no memory, no register of its context but those it names, and no other context; and
unless it stops its core, which notifies the gang (R235) and triggers a snapshot (R232), no other unit. A trap register changes only when
its trap is taken. A quiet instruction, which may queue work elsewhere, changes no memory and no register of any context but those it
names. An instruction that may end its routine keeps its context's registers but LC, STATUS.RTC and STATUS.TD. R128 to R141, R346 to R369,
R400: what the instructions that act on sync objects, versioned words, phases, tokens and nodes leave as it was. An object, a versioned
word, a node or a spill ring is the only memory that changes; a link may write register b when it traps; nrun writes s20 to s23 and PHASE;
wake changes only the token of its context, or a context that waits. -/
def Obligations.RegisterInstructionFrames : Prop := Claims.registerFrames ∧ Claims.unitFrames

/-- R177 to R184, R188: a store changes the bytes that it stores to and no other byte of memory, and no register of any context, whatever way
it ends. -/
def Obligations.StoreFrames : Prop :=
  (∀ d a (z : BitVec 2) (o : BitVec 10) sc s t, exec (.st d a z o sc) s = .next t → s.me.st = .running →
    OnlyStores (storePlace a o (2 ^ z.toNat) (2 ^ z.toNat) (2 ^ z.toNat)) s t ∧ SameRegisters s t {})
  ∧ (∀ d a c (z : BitVec 2) (o : BitVec 6) sc s t, exec (.stRel d a c z o sc) s = .next t → s.me.st = .running →
    OnlyStores (storePlace a o (2 ^ z.toNat) (2 ^ z.toNat) (2 ^ z.toNat)) s t ∧ SameRegisters s t {})
  ∧ (∀ d a (o : BitVec 10) sc s t, exec (.vst d a o sc) s = .next t → s.me.st = .running →
    OnlyStores (storePlace a o 256 s.me.vl 64) s t ∧ SameRegisters s t {})
  ∧ (∀ d a sc s t, exec (.tmst d a sc) s = .next t → s.me.st = .running →
    OnlyStores (storePlace a (0 : BitVec 1) 1 32 32) s t ∧ SameRegisters s t {})
  ∧ (∀ d a b k sc s t, exec (.sttMap d a b k sc) s = .next t → s.me.st = .running →
    OnlyElements (mapPlaces k do
      let i ← readS a
      let j ← readS b
      let _ ← readS d
      return [(0, i.toNat, j.toNat)]) s t ∧ SameRegisters s t {})
  ∧ (∀ d a b k sc s t, exec (.vsttMap d a b k sc) s = .next t → s.me.st = .running →
    OnlyElements (mapPlaces k do
      let i ← readS a
      let j ← readS b
      let _ ← readV d
      let v := (← readM k.toNat).view
      let r ← mapFormat v
      return stripFrom i.toNat j.toNat 0 (s.me.vl * 8 / v.width r)) s t ∧ SameRegisters s t {})
  ∧ (∀ p d a k sc s t, exec (.vscat p d a k sc) s = .next t → s.me.st = .running →
    OnlyElements (mapPlaces k do
      let pr ← readP p.toNat
      let idx ← readV a
      let _ ← readV d
      return gatherLanes idx.val.toNat s.me.vl pr) s t ∧ SameRegisters s t {})
  ∧ (∀ d a sc s t, exec (.sttTa d a sc) s = .next t → s.me.st = .running →
    OnlyElements (rawPlaces a d false) s t ∧ SameRegisters s t {})
  ∧ (∀ d a sc s t, exec (.vsttTa d a sc) s = .next t → s.me.st = .running →
    OnlyElements (rawPlaces a d true) s t ∧ SameRegisters s t {})

end
end

