-- ==== Sys2Proof/Laws/State.lean ====
section
/-! SUPPORT. What the updates of the state leave in each field, so that no proof unfolds a record update: maps, then one lemma per field
per update, then the accessors. -/
namespace Sys2Proof.Laws
open Sys2Proof.Machine

/-! ### Maps -/

theorem get_set {α : Type} (m : Map α) (j : Nat) (x : α) : Map.get? (Map.set m j x) j = some x := by
  induction m with
  | nil => simp [Map.set, Map.get?]
  | cons e r ih =>
    obtain ⟨k, v⟩ := e
    simp only [Map.set]
    split
    · simp [Map.get?]
    · split
      · simp [Map.get?]
      · rename_i h1 h2
        simp [Map.get?, h2, ih]

theorem get_set_ne {α : Type} (m : Map α) (j i : Nat) (x : α) (h : i ≠ j) : Map.get? (Map.set m j x) i = Map.get? m i := by
  induction m with
  | nil => simp [Map.set, Map.get?, Ne.symm h]
  | cons e r ih =>
    obtain ⟨k, v⟩ := e
    simp only [Map.set]
    split
    · simp [Map.get?, Ne.symm h]
    · split
      · rename_i h1 h2
        subst h2
        simp [Map.get?, Ne.symm h]
      · simp [Map.get?, ih]

@[simp] theorem getD_set {α : Type} (m : Map α) (j : Nat) (x d : α) : Map.getD (Map.set m j x) j d = x := by simp [Map.getD, get_set]

theorem getD_set_ne {α : Type} (m : Map α) (j i : Nat) (x d : α) (h : i ≠ j) : Map.getD (Map.set m j x) i d = Map.getD m i d := by
  simp [Map.getD, get_set_ne _ _ _ _ h]

/-! ### One lemma per field per update -/


@[simp] theorem setCore_clusters (s : State) (c : Nat) (k : Core) : (s.setCore c k).clusters = s.clusters := rfl
@[simp] theorem setCore_quads (s : State) (c : Nat) (k : Core) : (s.setCore c k).quads = s.quads := rfl
@[simp] theorem setCore_slices (s : State) (c : Nat) (k : Core) : (s.setCore c k).slices = s.slices := rfl
@[simp] theorem setCore_gangs (s : State) (c : Nat) (k : Core) : (s.setCore c k).gangs = s.gangs := rfl
@[simp] theorem setCore_engines (s : State) (c : Nat) (k : Core) : (s.setCore c k).engines = s.engines := rfl
@[simp] theorem setCore_bdps (s : State) (c : Nat) (k : Core) : (s.setCore c k).bdps = s.bdps := rfl
@[simp] theorem setCore_net (s : State) (c : Nat) (k : Core) : (s.setCore c k).net = s.net := rfl
@[simp] theorem setCore_vale (s : State) (c : Nat) (k : Core) : (s.setCore c k).vale = s.vale := rfl
@[simp] theorem setCore_mod (s : State) (c : Nat) (k : Core) : (s.setCore c k).mod = s.mod := rfl
@[simp] theorem setCore_ports (s : State) (c : Nat) (k : Core) : (s.setCore c k).ports = s.ports := rfl
@[simp] theorem setCore_cmem (s : State) (c : Nat) (k : Core) : (s.setCore c k).cmem = s.cmem := rfl
@[simp] theorem setCore_guards (s : State) (c : Nat) (k : Core) : (s.setCore c k).guards = s.guards := rfl
@[simp] theorem setCore_wrong (s : State) (c : Nat) (k : Core) : (s.setCore c k).wrong = s.wrong := rfl
@[simp] theorem setCore_restored (s : State) (c : Nat) (k : Core) : (s.setCore c k).restored = s.restored := rfl
@[simp] theorem setCore_watch (s : State) (c : Nat) (k : Core) : (s.setCore c k).watch = s.watch := rfl
@[simp] theorem setCore_phys (s : State) (c : Nat) (k : Core) : (s.setCore c k).phys = s.phys := rfl
@[simp] theorem setCore_badPhys (s : State) (c : Nat) (k : Core) : (s.setCore c k).badPhys = s.badPhys := rfl
@[simp] theorem setCore_sectors (s : State) (c : Nat) (k : Core) : (s.setCore c k).sectors = s.sectors := rfl
@[simp] theorem setCore_roots (s : State) (c : Nat) (k : Core) : (s.setCore c k).roots = s.roots := rfl
@[simp] theorem setCore_entries (s : State) (c : Nat) (k : Core) : (s.setCore c k).entries = s.entries := rfl
@[simp] theorem setCore_headers (s : State) (c : Nat) (k : Core) : (s.setCore c k).headers = s.headers := rfl
@[simp] theorem setCore_cur (s : State) (c : Nat) (k : Core) : (s.setCore c k).cur = s.cur := rfl
@[simp] theorem setCore_agenda (s : State) (c : Nat) (k : Core) : (s.setCore c k).agenda = s.agenda := rfl
@[simp] theorem setCore_ticks (s : State) (c : Nat) (k : Core) : (s.setCore c k).ticks = s.ticks := rfl
@[simp] theorem setCore_freeCtr (s : State) (c : Nat) (k : Core) : (s.setCore c k).freeCtr = s.freeCtr := rfl

@[simp] theorem modCore_clusters (s : State) (c : Nat) (f : Core → Core) : (s.modCore c f).clusters = s.clusters := rfl
@[simp] theorem modCore_quads (s : State) (c : Nat) (f : Core → Core) : (s.modCore c f).quads = s.quads := rfl
@[simp] theorem modCore_slices (s : State) (c : Nat) (f : Core → Core) : (s.modCore c f).slices = s.slices := rfl
@[simp] theorem modCore_gangs (s : State) (c : Nat) (f : Core → Core) : (s.modCore c f).gangs = s.gangs := rfl
@[simp] theorem modCore_engines (s : State) (c : Nat) (f : Core → Core) : (s.modCore c f).engines = s.engines := rfl
@[simp] theorem modCore_bdps (s : State) (c : Nat) (f : Core → Core) : (s.modCore c f).bdps = s.bdps := rfl
@[simp] theorem modCore_net (s : State) (c : Nat) (f : Core → Core) : (s.modCore c f).net = s.net := rfl
@[simp] theorem modCore_vale (s : State) (c : Nat) (f : Core → Core) : (s.modCore c f).vale = s.vale := rfl
@[simp] theorem modCore_mod (s : State) (c : Nat) (f : Core → Core) : (s.modCore c f).mod = s.mod := rfl
@[simp] theorem modCore_ports (s : State) (c : Nat) (f : Core → Core) : (s.modCore c f).ports = s.ports := rfl
@[simp] theorem modCore_cmem (s : State) (c : Nat) (f : Core → Core) : (s.modCore c f).cmem = s.cmem := rfl
@[simp] theorem modCore_guards (s : State) (c : Nat) (f : Core → Core) : (s.modCore c f).guards = s.guards := rfl
@[simp] theorem modCore_wrong (s : State) (c : Nat) (f : Core → Core) : (s.modCore c f).wrong = s.wrong := rfl
@[simp] theorem modCore_restored (s : State) (c : Nat) (f : Core → Core) : (s.modCore c f).restored = s.restored := rfl
@[simp] theorem modCore_watch (s : State) (c : Nat) (f : Core → Core) : (s.modCore c f).watch = s.watch := rfl
@[simp] theorem modCore_phys (s : State) (c : Nat) (f : Core → Core) : (s.modCore c f).phys = s.phys := rfl
@[simp] theorem modCore_badPhys (s : State) (c : Nat) (f : Core → Core) : (s.modCore c f).badPhys = s.badPhys := rfl
@[simp] theorem modCore_sectors (s : State) (c : Nat) (f : Core → Core) : (s.modCore c f).sectors = s.sectors := rfl
@[simp] theorem modCore_roots (s : State) (c : Nat) (f : Core → Core) : (s.modCore c f).roots = s.roots := rfl
@[simp] theorem modCore_entries (s : State) (c : Nat) (f : Core → Core) : (s.modCore c f).entries = s.entries := rfl
@[simp] theorem modCore_headers (s : State) (c : Nat) (f : Core → Core) : (s.modCore c f).headers = s.headers := rfl
@[simp] theorem modCore_cur (s : State) (c : Nat) (f : Core → Core) : (s.modCore c f).cur = s.cur := rfl
@[simp] theorem modCore_agenda (s : State) (c : Nat) (f : Core → Core) : (s.modCore c f).agenda = s.agenda := rfl
@[simp] theorem modCore_ticks (s : State) (c : Nat) (f : Core → Core) : (s.modCore c f).ticks = s.ticks := rfl
@[simp] theorem modCore_freeCtr (s : State) (c : Nat) (f : Core → Core) : (s.modCore c f).freeCtr = s.freeCtr := rfl

@[simp] theorem setCtx_clusters (s : State) (c l : Nat) (x : Ctx) : (s.setCtx c l x).clusters = s.clusters := rfl
@[simp] theorem setCtx_quads (s : State) (c l : Nat) (x : Ctx) : (s.setCtx c l x).quads = s.quads := rfl
@[simp] theorem setCtx_slices (s : State) (c l : Nat) (x : Ctx) : (s.setCtx c l x).slices = s.slices := rfl
@[simp] theorem setCtx_gangs (s : State) (c l : Nat) (x : Ctx) : (s.setCtx c l x).gangs = s.gangs := rfl
@[simp] theorem setCtx_engines (s : State) (c l : Nat) (x : Ctx) : (s.setCtx c l x).engines = s.engines := rfl
@[simp] theorem setCtx_bdps (s : State) (c l : Nat) (x : Ctx) : (s.setCtx c l x).bdps = s.bdps := rfl
@[simp] theorem setCtx_net (s : State) (c l : Nat) (x : Ctx) : (s.setCtx c l x).net = s.net := rfl
@[simp] theorem setCtx_vale (s : State) (c l : Nat) (x : Ctx) : (s.setCtx c l x).vale = s.vale := rfl
@[simp] theorem setCtx_mod (s : State) (c l : Nat) (x : Ctx) : (s.setCtx c l x).mod = s.mod := rfl
@[simp] theorem setCtx_ports (s : State) (c l : Nat) (x : Ctx) : (s.setCtx c l x).ports = s.ports := rfl
@[simp] theorem setCtx_cmem (s : State) (c l : Nat) (x : Ctx) : (s.setCtx c l x).cmem = s.cmem := rfl
@[simp] theorem setCtx_guards (s : State) (c l : Nat) (x : Ctx) : (s.setCtx c l x).guards = s.guards := rfl
@[simp] theorem setCtx_wrong (s : State) (c l : Nat) (x : Ctx) : (s.setCtx c l x).wrong = s.wrong := rfl
@[simp] theorem setCtx_restored (s : State) (c l : Nat) (x : Ctx) : (s.setCtx c l x).restored = s.restored := rfl
@[simp] theorem setCtx_watch (s : State) (c l : Nat) (x : Ctx) : (s.setCtx c l x).watch = s.watch := rfl
@[simp] theorem setCtx_phys (s : State) (c l : Nat) (x : Ctx) : (s.setCtx c l x).phys = s.phys := rfl
@[simp] theorem setCtx_badPhys (s : State) (c l : Nat) (x : Ctx) : (s.setCtx c l x).badPhys = s.badPhys := rfl
@[simp] theorem setCtx_sectors (s : State) (c l : Nat) (x : Ctx) : (s.setCtx c l x).sectors = s.sectors := rfl
@[simp] theorem setCtx_roots (s : State) (c l : Nat) (x : Ctx) : (s.setCtx c l x).roots = s.roots := rfl
@[simp] theorem setCtx_entries (s : State) (c l : Nat) (x : Ctx) : (s.setCtx c l x).entries = s.entries := rfl
@[simp] theorem setCtx_headers (s : State) (c l : Nat) (x : Ctx) : (s.setCtx c l x).headers = s.headers := rfl
@[simp] theorem setCtx_cur (s : State) (c l : Nat) (x : Ctx) : (s.setCtx c l x).cur = s.cur := rfl
@[simp] theorem setCtx_agenda (s : State) (c l : Nat) (x : Ctx) : (s.setCtx c l x).agenda = s.agenda := rfl
@[simp] theorem setCtx_ticks (s : State) (c l : Nat) (x : Ctx) : (s.setCtx c l x).ticks = s.ticks := rfl
@[simp] theorem setCtx_freeCtr (s : State) (c l : Nat) (x : Ctx) : (s.setCtx c l x).freeCtr = s.freeCtr := rfl

@[simp] theorem modCtx_clusters (s : State) (c l : Nat) (f : Ctx → Ctx) : (s.modCtx c l f).clusters = s.clusters := rfl
@[simp] theorem modCtx_quads (s : State) (c l : Nat) (f : Ctx → Ctx) : (s.modCtx c l f).quads = s.quads := rfl
@[simp] theorem modCtx_slices (s : State) (c l : Nat) (f : Ctx → Ctx) : (s.modCtx c l f).slices = s.slices := rfl
@[simp] theorem modCtx_gangs (s : State) (c l : Nat) (f : Ctx → Ctx) : (s.modCtx c l f).gangs = s.gangs := rfl
@[simp] theorem modCtx_engines (s : State) (c l : Nat) (f : Ctx → Ctx) : (s.modCtx c l f).engines = s.engines := rfl
@[simp] theorem modCtx_bdps (s : State) (c l : Nat) (f : Ctx → Ctx) : (s.modCtx c l f).bdps = s.bdps := rfl
@[simp] theorem modCtx_net (s : State) (c l : Nat) (f : Ctx → Ctx) : (s.modCtx c l f).net = s.net := rfl
@[simp] theorem modCtx_vale (s : State) (c l : Nat) (f : Ctx → Ctx) : (s.modCtx c l f).vale = s.vale := rfl
@[simp] theorem modCtx_mod (s : State) (c l : Nat) (f : Ctx → Ctx) : (s.modCtx c l f).mod = s.mod := rfl
@[simp] theorem modCtx_ports (s : State) (c l : Nat) (f : Ctx → Ctx) : (s.modCtx c l f).ports = s.ports := rfl
@[simp] theorem modCtx_cmem (s : State) (c l : Nat) (f : Ctx → Ctx) : (s.modCtx c l f).cmem = s.cmem := rfl
@[simp] theorem modCtx_guards (s : State) (c l : Nat) (f : Ctx → Ctx) : (s.modCtx c l f).guards = s.guards := rfl
@[simp] theorem modCtx_wrong (s : State) (c l : Nat) (f : Ctx → Ctx) : (s.modCtx c l f).wrong = s.wrong := rfl
@[simp] theorem modCtx_restored (s : State) (c l : Nat) (f : Ctx → Ctx) : (s.modCtx c l f).restored = s.restored := rfl
@[simp] theorem modCtx_watch (s : State) (c l : Nat) (f : Ctx → Ctx) : (s.modCtx c l f).watch = s.watch := rfl
@[simp] theorem modCtx_phys (s : State) (c l : Nat) (f : Ctx → Ctx) : (s.modCtx c l f).phys = s.phys := rfl
@[simp] theorem modCtx_badPhys (s : State) (c l : Nat) (f : Ctx → Ctx) : (s.modCtx c l f).badPhys = s.badPhys := rfl
@[simp] theorem modCtx_sectors (s : State) (c l : Nat) (f : Ctx → Ctx) : (s.modCtx c l f).sectors = s.sectors := rfl
@[simp] theorem modCtx_roots (s : State) (c l : Nat) (f : Ctx → Ctx) : (s.modCtx c l f).roots = s.roots := rfl
@[simp] theorem modCtx_entries (s : State) (c l : Nat) (f : Ctx → Ctx) : (s.modCtx c l f).entries = s.entries := rfl
@[simp] theorem modCtx_headers (s : State) (c l : Nat) (f : Ctx → Ctx) : (s.modCtx c l f).headers = s.headers := rfl
@[simp] theorem modCtx_cur (s : State) (c l : Nat) (f : Ctx → Ctx) : (s.modCtx c l f).cur = s.cur := rfl
@[simp] theorem modCtx_agenda (s : State) (c l : Nat) (f : Ctx → Ctx) : (s.modCtx c l f).agenda = s.agenda := rfl
@[simp] theorem modCtx_ticks (s : State) (c l : Nat) (f : Ctx → Ctx) : (s.modCtx c l f).ticks = s.ticks := rfl
@[simp] theorem modCtx_freeCtr (s : State) (c l : Nat) (f : Ctx → Ctx) : (s.modCtx c l f).freeCtr = s.freeCtr := rfl

@[simp] theorem modCluster_cores (s : State) (k : Nat) (f : Cluster → Cluster) : (s.modCluster k f).cores = s.cores := rfl
@[simp] theorem modCluster_quads (s : State) (k : Nat) (f : Cluster → Cluster) : (s.modCluster k f).quads = s.quads := rfl
@[simp] theorem modCluster_slices (s : State) (k : Nat) (f : Cluster → Cluster) : (s.modCluster k f).slices = s.slices := rfl
@[simp] theorem modCluster_gangs (s : State) (k : Nat) (f : Cluster → Cluster) : (s.modCluster k f).gangs = s.gangs := rfl
@[simp] theorem modCluster_engines (s : State) (k : Nat) (f : Cluster → Cluster) : (s.modCluster k f).engines = s.engines := rfl
@[simp] theorem modCluster_bdps (s : State) (k : Nat) (f : Cluster → Cluster) : (s.modCluster k f).bdps = s.bdps := rfl
@[simp] theorem modCluster_net (s : State) (k : Nat) (f : Cluster → Cluster) : (s.modCluster k f).net = s.net := rfl
@[simp] theorem modCluster_vale (s : State) (k : Nat) (f : Cluster → Cluster) : (s.modCluster k f).vale = s.vale := rfl
@[simp] theorem modCluster_mod (s : State) (k : Nat) (f : Cluster → Cluster) : (s.modCluster k f).mod = s.mod := rfl
@[simp] theorem modCluster_ports (s : State) (k : Nat) (f : Cluster → Cluster) : (s.modCluster k f).ports = s.ports := rfl
@[simp] theorem modCluster_cmem (s : State) (k : Nat) (f : Cluster → Cluster) : (s.modCluster k f).cmem = s.cmem := rfl
@[simp] theorem modCluster_guards (s : State) (k : Nat) (f : Cluster → Cluster) : (s.modCluster k f).guards = s.guards := rfl
@[simp] theorem modCluster_wrong (s : State) (k : Nat) (f : Cluster → Cluster) : (s.modCluster k f).wrong = s.wrong := rfl
@[simp] theorem modCluster_restored (s : State) (k : Nat) (f : Cluster → Cluster) : (s.modCluster k f).restored = s.restored := rfl
@[simp] theorem modCluster_watch (s : State) (k : Nat) (f : Cluster → Cluster) : (s.modCluster k f).watch = s.watch := rfl
@[simp] theorem modCluster_phys (s : State) (k : Nat) (f : Cluster → Cluster) : (s.modCluster k f).phys = s.phys := rfl
@[simp] theorem modCluster_badPhys (s : State) (k : Nat) (f : Cluster → Cluster) : (s.modCluster k f).badPhys = s.badPhys := rfl
@[simp] theorem modCluster_sectors (s : State) (k : Nat) (f : Cluster → Cluster) : (s.modCluster k f).sectors = s.sectors := rfl
@[simp] theorem modCluster_roots (s : State) (k : Nat) (f : Cluster → Cluster) : (s.modCluster k f).roots = s.roots := rfl
@[simp] theorem modCluster_entries (s : State) (k : Nat) (f : Cluster → Cluster) : (s.modCluster k f).entries = s.entries := rfl
@[simp] theorem modCluster_headers (s : State) (k : Nat) (f : Cluster → Cluster) : (s.modCluster k f).headers = s.headers := rfl
@[simp] theorem modCluster_cur (s : State) (k : Nat) (f : Cluster → Cluster) : (s.modCluster k f).cur = s.cur := rfl
@[simp] theorem modCluster_agenda (s : State) (k : Nat) (f : Cluster → Cluster) : (s.modCluster k f).agenda = s.agenda := rfl
@[simp] theorem modCluster_ticks (s : State) (k : Nat) (f : Cluster → Cluster) : (s.modCluster k f).ticks = s.ticks := rfl
@[simp] theorem modCluster_freeCtr (s : State) (k : Nat) (f : Cluster → Cluster) : (s.modCluster k f).freeCtr = s.freeCtr := rfl

@[simp] theorem modQuad_cores (s : State) (q : Nat) (f : Quad → Quad) : (s.modQuad q f).cores = s.cores := rfl
@[simp] theorem modQuad_clusters (s : State) (q : Nat) (f : Quad → Quad) : (s.modQuad q f).clusters = s.clusters := rfl
@[simp] theorem modQuad_slices (s : State) (q : Nat) (f : Quad → Quad) : (s.modQuad q f).slices = s.slices := rfl
@[simp] theorem modQuad_gangs (s : State) (q : Nat) (f : Quad → Quad) : (s.modQuad q f).gangs = s.gangs := rfl
@[simp] theorem modQuad_engines (s : State) (q : Nat) (f : Quad → Quad) : (s.modQuad q f).engines = s.engines := rfl
@[simp] theorem modQuad_bdps (s : State) (q : Nat) (f : Quad → Quad) : (s.modQuad q f).bdps = s.bdps := rfl
@[simp] theorem modQuad_net (s : State) (q : Nat) (f : Quad → Quad) : (s.modQuad q f).net = s.net := rfl
@[simp] theorem modQuad_vale (s : State) (q : Nat) (f : Quad → Quad) : (s.modQuad q f).vale = s.vale := rfl
@[simp] theorem modQuad_mod (s : State) (q : Nat) (f : Quad → Quad) : (s.modQuad q f).mod = s.mod := rfl
@[simp] theorem modQuad_ports (s : State) (q : Nat) (f : Quad → Quad) : (s.modQuad q f).ports = s.ports := rfl
@[simp] theorem modQuad_cmem (s : State) (q : Nat) (f : Quad → Quad) : (s.modQuad q f).cmem = s.cmem := rfl
@[simp] theorem modQuad_guards (s : State) (q : Nat) (f : Quad → Quad) : (s.modQuad q f).guards = s.guards := rfl
@[simp] theorem modQuad_wrong (s : State) (q : Nat) (f : Quad → Quad) : (s.modQuad q f).wrong = s.wrong := rfl
@[simp] theorem modQuad_restored (s : State) (q : Nat) (f : Quad → Quad) : (s.modQuad q f).restored = s.restored := rfl
@[simp] theorem modQuad_watch (s : State) (q : Nat) (f : Quad → Quad) : (s.modQuad q f).watch = s.watch := rfl
@[simp] theorem modQuad_phys (s : State) (q : Nat) (f : Quad → Quad) : (s.modQuad q f).phys = s.phys := rfl
@[simp] theorem modQuad_badPhys (s : State) (q : Nat) (f : Quad → Quad) : (s.modQuad q f).badPhys = s.badPhys := rfl
@[simp] theorem modQuad_sectors (s : State) (q : Nat) (f : Quad → Quad) : (s.modQuad q f).sectors = s.sectors := rfl
@[simp] theorem modQuad_roots (s : State) (q : Nat) (f : Quad → Quad) : (s.modQuad q f).roots = s.roots := rfl
@[simp] theorem modQuad_entries (s : State) (q : Nat) (f : Quad → Quad) : (s.modQuad q f).entries = s.entries := rfl
@[simp] theorem modQuad_headers (s : State) (q : Nat) (f : Quad → Quad) : (s.modQuad q f).headers = s.headers := rfl
@[simp] theorem modQuad_cur (s : State) (q : Nat) (f : Quad → Quad) : (s.modQuad q f).cur = s.cur := rfl
@[simp] theorem modQuad_agenda (s : State) (q : Nat) (f : Quad → Quad) : (s.modQuad q f).agenda = s.agenda := rfl
@[simp] theorem modQuad_ticks (s : State) (q : Nat) (f : Quad → Quad) : (s.modQuad q f).ticks = s.ticks := rfl
@[simp] theorem modQuad_freeCtr (s : State) (q : Nat) (f : Quad → Quad) : (s.modQuad q f).freeCtr = s.freeCtr := rfl

@[simp] theorem modSlice_cores (s : State) (n : Nat) (f : Slice → Slice) : (s.modSlice n f).cores = s.cores := rfl
@[simp] theorem modSlice_clusters (s : State) (n : Nat) (f : Slice → Slice) : (s.modSlice n f).clusters = s.clusters := rfl
@[simp] theorem modSlice_quads (s : State) (n : Nat) (f : Slice → Slice) : (s.modSlice n f).quads = s.quads := rfl
@[simp] theorem modSlice_gangs (s : State) (n : Nat) (f : Slice → Slice) : (s.modSlice n f).gangs = s.gangs := rfl
@[simp] theorem modSlice_engines (s : State) (n : Nat) (f : Slice → Slice) : (s.modSlice n f).engines = s.engines := rfl
@[simp] theorem modSlice_bdps (s : State) (n : Nat) (f : Slice → Slice) : (s.modSlice n f).bdps = s.bdps := rfl
@[simp] theorem modSlice_net (s : State) (n : Nat) (f : Slice → Slice) : (s.modSlice n f).net = s.net := rfl
@[simp] theorem modSlice_vale (s : State) (n : Nat) (f : Slice → Slice) : (s.modSlice n f).vale = s.vale := rfl
@[simp] theorem modSlice_mod (s : State) (n : Nat) (f : Slice → Slice) : (s.modSlice n f).mod = s.mod := rfl
@[simp] theorem modSlice_ports (s : State) (n : Nat) (f : Slice → Slice) : (s.modSlice n f).ports = s.ports := rfl
@[simp] theorem modSlice_cmem (s : State) (n : Nat) (f : Slice → Slice) : (s.modSlice n f).cmem = s.cmem := rfl
@[simp] theorem modSlice_guards (s : State) (n : Nat) (f : Slice → Slice) : (s.modSlice n f).guards = s.guards := rfl
@[simp] theorem modSlice_wrong (s : State) (n : Nat) (f : Slice → Slice) : (s.modSlice n f).wrong = s.wrong := rfl
@[simp] theorem modSlice_restored (s : State) (n : Nat) (f : Slice → Slice) : (s.modSlice n f).restored = s.restored := rfl
@[simp] theorem modSlice_watch (s : State) (n : Nat) (f : Slice → Slice) : (s.modSlice n f).watch = s.watch := rfl
@[simp] theorem modSlice_phys (s : State) (n : Nat) (f : Slice → Slice) : (s.modSlice n f).phys = s.phys := rfl
@[simp] theorem modSlice_badPhys (s : State) (n : Nat) (f : Slice → Slice) : (s.modSlice n f).badPhys = s.badPhys := rfl
@[simp] theorem modSlice_sectors (s : State) (n : Nat) (f : Slice → Slice) : (s.modSlice n f).sectors = s.sectors := rfl
@[simp] theorem modSlice_roots (s : State) (n : Nat) (f : Slice → Slice) : (s.modSlice n f).roots = s.roots := rfl
@[simp] theorem modSlice_entries (s : State) (n : Nat) (f : Slice → Slice) : (s.modSlice n f).entries = s.entries := rfl
@[simp] theorem modSlice_headers (s : State) (n : Nat) (f : Slice → Slice) : (s.modSlice n f).headers = s.headers := rfl
@[simp] theorem modSlice_cur (s : State) (n : Nat) (f : Slice → Slice) : (s.modSlice n f).cur = s.cur := rfl
@[simp] theorem modSlice_agenda (s : State) (n : Nat) (f : Slice → Slice) : (s.modSlice n f).agenda = s.agenda := rfl
@[simp] theorem modSlice_ticks (s : State) (n : Nat) (f : Slice → Slice) : (s.modSlice n f).ticks = s.ticks := rfl
@[simp] theorem modSlice_freeCtr (s : State) (n : Nat) (f : Slice → Slice) : (s.modSlice n f).freeCtr = s.freeCtr := rfl

@[simp] theorem modPort_cores (s : State) (p : Nat) (f : SoPort → SoPort) : (s.modPort p f).cores = s.cores := rfl
@[simp] theorem modPort_clusters (s : State) (p : Nat) (f : SoPort → SoPort) : (s.modPort p f).clusters = s.clusters := rfl
@[simp] theorem modPort_quads (s : State) (p : Nat) (f : SoPort → SoPort) : (s.modPort p f).quads = s.quads := rfl
@[simp] theorem modPort_slices (s : State) (p : Nat) (f : SoPort → SoPort) : (s.modPort p f).slices = s.slices := rfl
@[simp] theorem modPort_gangs (s : State) (p : Nat) (f : SoPort → SoPort) : (s.modPort p f).gangs = s.gangs := rfl
@[simp] theorem modPort_engines (s : State) (p : Nat) (f : SoPort → SoPort) : (s.modPort p f).engines = s.engines := rfl
@[simp] theorem modPort_bdps (s : State) (p : Nat) (f : SoPort → SoPort) : (s.modPort p f).bdps = s.bdps := rfl
@[simp] theorem modPort_net (s : State) (p : Nat) (f : SoPort → SoPort) : (s.modPort p f).net = s.net := rfl
@[simp] theorem modPort_vale (s : State) (p : Nat) (f : SoPort → SoPort) : (s.modPort p f).vale = s.vale := rfl
@[simp] theorem modPort_mod (s : State) (p : Nat) (f : SoPort → SoPort) : (s.modPort p f).mod = s.mod := rfl
@[simp] theorem modPort_cmem (s : State) (p : Nat) (f : SoPort → SoPort) : (s.modPort p f).cmem = s.cmem := rfl
@[simp] theorem modPort_guards (s : State) (p : Nat) (f : SoPort → SoPort) : (s.modPort p f).guards = s.guards := rfl
@[simp] theorem modPort_wrong (s : State) (p : Nat) (f : SoPort → SoPort) : (s.modPort p f).wrong = s.wrong := rfl
@[simp] theorem modPort_restored (s : State) (p : Nat) (f : SoPort → SoPort) : (s.modPort p f).restored = s.restored := rfl
@[simp] theorem modPort_watch (s : State) (p : Nat) (f : SoPort → SoPort) : (s.modPort p f).watch = s.watch := rfl
@[simp] theorem modPort_phys (s : State) (p : Nat) (f : SoPort → SoPort) : (s.modPort p f).phys = s.phys := rfl
@[simp] theorem modPort_badPhys (s : State) (p : Nat) (f : SoPort → SoPort) : (s.modPort p f).badPhys = s.badPhys := rfl
@[simp] theorem modPort_sectors (s : State) (p : Nat) (f : SoPort → SoPort) : (s.modPort p f).sectors = s.sectors := rfl
@[simp] theorem modPort_roots (s : State) (p : Nat) (f : SoPort → SoPort) : (s.modPort p f).roots = s.roots := rfl
@[simp] theorem modPort_entries (s : State) (p : Nat) (f : SoPort → SoPort) : (s.modPort p f).entries = s.entries := rfl
@[simp] theorem modPort_headers (s : State) (p : Nat) (f : SoPort → SoPort) : (s.modPort p f).headers = s.headers := rfl
@[simp] theorem modPort_cur (s : State) (p : Nat) (f : SoPort → SoPort) : (s.modPort p f).cur = s.cur := rfl
@[simp] theorem modPort_agenda (s : State) (p : Nat) (f : SoPort → SoPort) : (s.modPort p f).agenda = s.agenda := rfl
@[simp] theorem modPort_ticks (s : State) (p : Nat) (f : SoPort → SoPort) : (s.modPort p f).ticks = s.ticks := rfl
@[simp] theorem modPort_freeCtr (s : State) (p : Nat) (f : SoPort → SoPort) : (s.modPort p f).freeCtr = s.freeCtr := rfl

@[simp] theorem modNet_cores (s : State) (f : Net → Net) : (s.modNet f).cores = s.cores := rfl
@[simp] theorem modNet_clusters (s : State) (f : Net → Net) : (s.modNet f).clusters = s.clusters := rfl
@[simp] theorem modNet_quads (s : State) (f : Net → Net) : (s.modNet f).quads = s.quads := rfl
@[simp] theorem modNet_slices (s : State) (f : Net → Net) : (s.modNet f).slices = s.slices := rfl
@[simp] theorem modNet_gangs (s : State) (f : Net → Net) : (s.modNet f).gangs = s.gangs := rfl
@[simp] theorem modNet_engines (s : State) (f : Net → Net) : (s.modNet f).engines = s.engines := rfl
@[simp] theorem modNet_bdps (s : State) (f : Net → Net) : (s.modNet f).bdps = s.bdps := rfl
@[simp] theorem modNet_vale (s : State) (f : Net → Net) : (s.modNet f).vale = s.vale := rfl
@[simp] theorem modNet_mod (s : State) (f : Net → Net) : (s.modNet f).mod = s.mod := rfl
@[simp] theorem modNet_ports (s : State) (f : Net → Net) : (s.modNet f).ports = s.ports := rfl
@[simp] theorem modNet_cmem (s : State) (f : Net → Net) : (s.modNet f).cmem = s.cmem := rfl
@[simp] theorem modNet_guards (s : State) (f : Net → Net) : (s.modNet f).guards = s.guards := rfl
@[simp] theorem modNet_wrong (s : State) (f : Net → Net) : (s.modNet f).wrong = s.wrong := rfl
@[simp] theorem modNet_restored (s : State) (f : Net → Net) : (s.modNet f).restored = s.restored := rfl
@[simp] theorem modNet_watch (s : State) (f : Net → Net) : (s.modNet f).watch = s.watch := rfl
@[simp] theorem modNet_phys (s : State) (f : Net → Net) : (s.modNet f).phys = s.phys := rfl
@[simp] theorem modNet_badPhys (s : State) (f : Net → Net) : (s.modNet f).badPhys = s.badPhys := rfl
@[simp] theorem modNet_sectors (s : State) (f : Net → Net) : (s.modNet f).sectors = s.sectors := rfl
@[simp] theorem modNet_roots (s : State) (f : Net → Net) : (s.modNet f).roots = s.roots := rfl
@[simp] theorem modNet_entries (s : State) (f : Net → Net) : (s.modNet f).entries = s.entries := rfl
@[simp] theorem modNet_headers (s : State) (f : Net → Net) : (s.modNet f).headers = s.headers := rfl
@[simp] theorem modNet_cur (s : State) (f : Net → Net) : (s.modNet f).cur = s.cur := rfl
@[simp] theorem modNet_agenda (s : State) (f : Net → Net) : (s.modNet f).agenda = s.agenda := rfl
@[simp] theorem modNet_ticks (s : State) (f : Net → Net) : (s.modNet f).ticks = s.ticks := rfl
@[simp] theorem modNet_freeCtr (s : State) (f : Net → Net) : (s.modNet f).freeCtr = s.freeCtr := rfl

@[simp] theorem modVale_cores (s : State) (f : Vale → Vale) : (s.modVale f).cores = s.cores := rfl
@[simp] theorem modVale_clusters (s : State) (f : Vale → Vale) : (s.modVale f).clusters = s.clusters := rfl
@[simp] theorem modVale_quads (s : State) (f : Vale → Vale) : (s.modVale f).quads = s.quads := rfl
@[simp] theorem modVale_slices (s : State) (f : Vale → Vale) : (s.modVale f).slices = s.slices := rfl
@[simp] theorem modVale_gangs (s : State) (f : Vale → Vale) : (s.modVale f).gangs = s.gangs := rfl
@[simp] theorem modVale_engines (s : State) (f : Vale → Vale) : (s.modVale f).engines = s.engines := rfl
@[simp] theorem modVale_bdps (s : State) (f : Vale → Vale) : (s.modVale f).bdps = s.bdps := rfl
@[simp] theorem modVale_net (s : State) (f : Vale → Vale) : (s.modVale f).net = s.net := rfl
@[simp] theorem modVale_mod (s : State) (f : Vale → Vale) : (s.modVale f).mod = s.mod := rfl
@[simp] theorem modVale_ports (s : State) (f : Vale → Vale) : (s.modVale f).ports = s.ports := rfl
@[simp] theorem modVale_cmem (s : State) (f : Vale → Vale) : (s.modVale f).cmem = s.cmem := rfl
@[simp] theorem modVale_guards (s : State) (f : Vale → Vale) : (s.modVale f).guards = s.guards := rfl
@[simp] theorem modVale_wrong (s : State) (f : Vale → Vale) : (s.modVale f).wrong = s.wrong := rfl
@[simp] theorem modVale_restored (s : State) (f : Vale → Vale) : (s.modVale f).restored = s.restored := rfl
@[simp] theorem modVale_watch (s : State) (f : Vale → Vale) : (s.modVale f).watch = s.watch := rfl
@[simp] theorem modVale_phys (s : State) (f : Vale → Vale) : (s.modVale f).phys = s.phys := rfl
@[simp] theorem modVale_badPhys (s : State) (f : Vale → Vale) : (s.modVale f).badPhys = s.badPhys := rfl
@[simp] theorem modVale_sectors (s : State) (f : Vale → Vale) : (s.modVale f).sectors = s.sectors := rfl
@[simp] theorem modVale_roots (s : State) (f : Vale → Vale) : (s.modVale f).roots = s.roots := rfl
@[simp] theorem modVale_entries (s : State) (f : Vale → Vale) : (s.modVale f).entries = s.entries := rfl
@[simp] theorem modVale_headers (s : State) (f : Vale → Vale) : (s.modVale f).headers = s.headers := rfl
@[simp] theorem modVale_cur (s : State) (f : Vale → Vale) : (s.modVale f).cur = s.cur := rfl
@[simp] theorem modVale_agenda (s : State) (f : Vale → Vale) : (s.modVale f).agenda = s.agenda := rfl
@[simp] theorem modVale_ticks (s : State) (f : Vale → Vale) : (s.modVale f).ticks = s.ticks := rfl
@[simp] theorem modVale_freeCtr (s : State) (f : Vale → Vale) : (s.modVale f).freeCtr = s.freeCtr := rfl

@[simp] theorem modMod_cores (s : State) (f : Module → Module) : (s.modMod f).cores = s.cores := rfl
@[simp] theorem modMod_clusters (s : State) (f : Module → Module) : (s.modMod f).clusters = s.clusters := rfl
@[simp] theorem modMod_quads (s : State) (f : Module → Module) : (s.modMod f).quads = s.quads := rfl
@[simp] theorem modMod_slices (s : State) (f : Module → Module) : (s.modMod f).slices = s.slices := rfl
@[simp] theorem modMod_gangs (s : State) (f : Module → Module) : (s.modMod f).gangs = s.gangs := rfl
@[simp] theorem modMod_engines (s : State) (f : Module → Module) : (s.modMod f).engines = s.engines := rfl
@[simp] theorem modMod_bdps (s : State) (f : Module → Module) : (s.modMod f).bdps = s.bdps := rfl
@[simp] theorem modMod_net (s : State) (f : Module → Module) : (s.modMod f).net = s.net := rfl
@[simp] theorem modMod_vale (s : State) (f : Module → Module) : (s.modMod f).vale = s.vale := rfl
@[simp] theorem modMod_ports (s : State) (f : Module → Module) : (s.modMod f).ports = s.ports := rfl
@[simp] theorem modMod_cmem (s : State) (f : Module → Module) : (s.modMod f).cmem = s.cmem := rfl
@[simp] theorem modMod_guards (s : State) (f : Module → Module) : (s.modMod f).guards = s.guards := rfl
@[simp] theorem modMod_wrong (s : State) (f : Module → Module) : (s.modMod f).wrong = s.wrong := rfl
@[simp] theorem modMod_restored (s : State) (f : Module → Module) : (s.modMod f).restored = s.restored := rfl
@[simp] theorem modMod_watch (s : State) (f : Module → Module) : (s.modMod f).watch = s.watch := rfl
@[simp] theorem modMod_phys (s : State) (f : Module → Module) : (s.modMod f).phys = s.phys := rfl
@[simp] theorem modMod_badPhys (s : State) (f : Module → Module) : (s.modMod f).badPhys = s.badPhys := rfl
@[simp] theorem modMod_sectors (s : State) (f : Module → Module) : (s.modMod f).sectors = s.sectors := rfl
@[simp] theorem modMod_roots (s : State) (f : Module → Module) : (s.modMod f).roots = s.roots := rfl
@[simp] theorem modMod_entries (s : State) (f : Module → Module) : (s.modMod f).entries = s.entries := rfl
@[simp] theorem modMod_headers (s : State) (f : Module → Module) : (s.modMod f).headers = s.headers := rfl
@[simp] theorem modMod_cur (s : State) (f : Module → Module) : (s.modMod f).cur = s.cur := rfl
@[simp] theorem modMod_agenda (s : State) (f : Module → Module) : (s.modMod f).agenda = s.agenda := rfl
@[simp] theorem modMod_ticks (s : State) (f : Module → Module) : (s.modMod f).ticks = s.ticks := rfl
@[simp] theorem modMod_freeCtr (s : State) (f : Module → Module) : (s.modMod f).freeCtr = s.freeCtr := rfl

/-- cwrite changes cluster memory, restores codes and is noted at the words that contexts watch. -/
theorem cwrite_eq (s : State) (k a n x : Nat) :
    s.cwrite k a n x = { s with
      cmem := Mem.writeN s.cmem (cellKey k a) n x, wrong := (s.cwrite k a n x).wrong, restored := (s.cwrite k a n x).restored
      watch := (s.cwrite k a n x).watch } := by
  unfold State.cwrite State.heal State.noteWrite
  split <;> split <;> rfl

@[simp] theorem cwrite_cmem (s : State) (k a n x : Nat) : (s.cwrite k a n x).cmem = Mem.writeN s.cmem (cellKey k a) n x := by rw [cwrite_eq]
@[simp] theorem cwrite_cores (s : State) (k a n x : Nat) : (s.cwrite k a n x).cores = s.cores := by rw [cwrite_eq]
@[simp] theorem cwrite_clusters (s : State) (k a n x : Nat) : (s.cwrite k a n x).clusters = s.clusters := by rw [cwrite_eq]
@[simp] theorem cwrite_quads (s : State) (k a n x : Nat) : (s.cwrite k a n x).quads = s.quads := by rw [cwrite_eq]
@[simp] theorem cwrite_slices (s : State) (k a n x : Nat) : (s.cwrite k a n x).slices = s.slices := by rw [cwrite_eq]
@[simp] theorem cwrite_gangs (s : State) (k a n x : Nat) : (s.cwrite k a n x).gangs = s.gangs := by rw [cwrite_eq]
@[simp] theorem cwrite_engines (s : State) (k a n x : Nat) : (s.cwrite k a n x).engines = s.engines := by rw [cwrite_eq]
@[simp] theorem cwrite_bdps (s : State) (k a n x : Nat) : (s.cwrite k a n x).bdps = s.bdps := by rw [cwrite_eq]
@[simp] theorem cwrite_net (s : State) (k a n x : Nat) : (s.cwrite k a n x).net = s.net := by rw [cwrite_eq]
@[simp] theorem cwrite_vale (s : State) (k a n x : Nat) : (s.cwrite k a n x).vale = s.vale := by rw [cwrite_eq]
@[simp] theorem cwrite_mod (s : State) (k a n x : Nat) : (s.cwrite k a n x).mod = s.mod := by rw [cwrite_eq]
@[simp] theorem cwrite_ports (s : State) (k a n x : Nat) : (s.cwrite k a n x).ports = s.ports := by rw [cwrite_eq]
@[simp] theorem cwrite_guards (s : State) (k a n x : Nat) : (s.cwrite k a n x).guards = s.guards := by rw [cwrite_eq]
@[simp] theorem cwrite_phys (s : State) (k a n x : Nat) : (s.cwrite k a n x).phys = s.phys := by rw [cwrite_eq]
@[simp] theorem cwrite_badPhys (s : State) (k a n x : Nat) : (s.cwrite k a n x).badPhys = s.badPhys := by rw [cwrite_eq]
@[simp] theorem cwrite_sectors (s : State) (k a n x : Nat) : (s.cwrite k a n x).sectors = s.sectors := by rw [cwrite_eq]
@[simp] theorem cwrite_roots (s : State) (k a n x : Nat) : (s.cwrite k a n x).roots = s.roots := by rw [cwrite_eq]
@[simp] theorem cwrite_entries (s : State) (k a n x : Nat) : (s.cwrite k a n x).entries = s.entries := by rw [cwrite_eq]
@[simp] theorem cwrite_headers (s : State) (k a n x : Nat) : (s.cwrite k a n x).headers = s.headers := by rw [cwrite_eq]
@[simp] theorem cwrite_cur (s : State) (k a n x : Nat) : (s.cwrite k a n x).cur = s.cur := by rw [cwrite_eq]
@[simp] theorem cwrite_agenda (s : State) (k a n x : Nat) : (s.cwrite k a n x).agenda = s.agenda := by rw [cwrite_eq]
@[simp] theorem cwrite_ticks (s : State) (k a n x : Nat) : (s.cwrite k a n x).ticks = s.ticks := by rw [cwrite_eq]
@[simp] theorem cwrite_freeCtr (s : State) (k a n x : Nat) : (s.cwrite k a n x).freeCtr = s.freeCtr := by rw [cwrite_eq]

/-- modGang changes the gangs only. -/
theorem modGang_eq (s : State) (g : Nat) (f : Gang → Gang) : s.modGang g f = { s with gangs := (s.modGang g f).gangs } := by
  unfold State.modGang
  split <;> rfl

@[simp] theorem modGang_cores (s : State) (g : Nat) (f : Gang → Gang) : (s.modGang g f).cores = s.cores := by rw [modGang_eq]
@[simp] theorem modGang_clusters (s : State) (g : Nat) (f : Gang → Gang) : (s.modGang g f).clusters = s.clusters := by rw [modGang_eq]
@[simp] theorem modGang_quads (s : State) (g : Nat) (f : Gang → Gang) : (s.modGang g f).quads = s.quads := by rw [modGang_eq]
@[simp] theorem modGang_slices (s : State) (g : Nat) (f : Gang → Gang) : (s.modGang g f).slices = s.slices := by rw [modGang_eq]
@[simp] theorem modGang_engines (s : State) (g : Nat) (f : Gang → Gang) : (s.modGang g f).engines = s.engines := by rw [modGang_eq]
@[simp] theorem modGang_bdps (s : State) (g : Nat) (f : Gang → Gang) : (s.modGang g f).bdps = s.bdps := by rw [modGang_eq]
@[simp] theorem modGang_net (s : State) (g : Nat) (f : Gang → Gang) : (s.modGang g f).net = s.net := by rw [modGang_eq]
@[simp] theorem modGang_vale (s : State) (g : Nat) (f : Gang → Gang) : (s.modGang g f).vale = s.vale := by rw [modGang_eq]
@[simp] theorem modGang_mod (s : State) (g : Nat) (f : Gang → Gang) : (s.modGang g f).mod = s.mod := by rw [modGang_eq]
@[simp] theorem modGang_ports (s : State) (g : Nat) (f : Gang → Gang) : (s.modGang g f).ports = s.ports := by rw [modGang_eq]
@[simp] theorem modGang_cmem (s : State) (g : Nat) (f : Gang → Gang) : (s.modGang g f).cmem = s.cmem := by rw [modGang_eq]
@[simp] theorem modGang_guards (s : State) (g : Nat) (f : Gang → Gang) : (s.modGang g f).guards = s.guards := by rw [modGang_eq]
@[simp] theorem modGang_wrong (s : State) (g : Nat) (f : Gang → Gang) : (s.modGang g f).wrong = s.wrong := by rw [modGang_eq]
@[simp] theorem modGang_restored (s : State) (g : Nat) (f : Gang → Gang) : (s.modGang g f).restored = s.restored := by rw [modGang_eq]
@[simp] theorem modGang_watch (s : State) (g : Nat) (f : Gang → Gang) : (s.modGang g f).watch = s.watch := by rw [modGang_eq]
@[simp] theorem modGang_phys (s : State) (g : Nat) (f : Gang → Gang) : (s.modGang g f).phys = s.phys := by rw [modGang_eq]
@[simp] theorem modGang_badPhys (s : State) (g : Nat) (f : Gang → Gang) : (s.modGang g f).badPhys = s.badPhys := by rw [modGang_eq]
@[simp] theorem modGang_sectors (s : State) (g : Nat) (f : Gang → Gang) : (s.modGang g f).sectors = s.sectors := by rw [modGang_eq]
@[simp] theorem modGang_roots (s : State) (g : Nat) (f : Gang → Gang) : (s.modGang g f).roots = s.roots := by rw [modGang_eq]
@[simp] theorem modGang_entries (s : State) (g : Nat) (f : Gang → Gang) : (s.modGang g f).entries = s.entries := by rw [modGang_eq]
@[simp] theorem modGang_headers (s : State) (g : Nat) (f : Gang → Gang) : (s.modGang g f).headers = s.headers := by rw [modGang_eq]
@[simp] theorem modGang_cur (s : State) (g : Nat) (f : Gang → Gang) : (s.modGang g f).cur = s.cur := by rw [modGang_eq]
@[simp] theorem modGang_agenda (s : State) (g : Nat) (f : Gang → Gang) : (s.modGang g f).agenda = s.agenda := by rw [modGang_eq]
@[simp] theorem modGang_ticks (s : State) (g : Nat) (f : Gang → Gang) : (s.modGang g f).ticks = s.ticks := by rw [modGang_eq]
@[simp] theorem modGang_freeCtr (s : State) (g : Nat) (f : Gang → Gang) : (s.modGang g f).freeCtr = s.freeCtr := by rw [modGang_eq]

/-! ### Accessors -/

@[simp] theorem core_setCore (s : State) (c : Nat) (k : Core) : (s.setCore c k).core c = k := by simp [State.core, State.setCore]
theorem core_setCore_ne (s : State) (c d : Nat) (k : Core) (h : d ≠ c) : (s.setCore c k).core d = s.core d := by
  simp [State.core, State.setCore, getD_set_ne _ _ _ _ _ h]
@[simp] theorem bank_setBank (k : Core) (l : Nat) (x : Ctx) : (k.setBank l x).bank l = x := by simp [Core.bank, Core.setBank]
theorem bank_setBank_ne (k : Core) (l i : Nat) (x : Ctx) (h : i ≠ l) : (k.setBank l x).bank i = k.bank i := by
  simp [Core.bank, Core.setBank, getD_set_ne _ _ _ _ _ h]
@[simp] theorem core_modCore (s : State) (c : Nat) (f : Core → Core) : (s.modCore c f).core c = f (s.core c) := by simp [State.modCore]
theorem core_modCore_ne (s : State) (c d : Nat) (f : Core → Core) (h : d ≠ c) : (s.modCore c f).core d = s.core d := by
  simp [State.modCore, core_setCore_ne _ _ _ _ h]
@[simp] theorem core_modCtx (s : State) (c l : Nat) (f : Ctx → Ctx) : (s.modCtx c l f).core c = (s.core c).setBank l (f (s.ctx c l)) := by
  simp [State.modCtx, State.setCtx]
theorem core_modCtx_ne (s : State) (c d l : Nat) (f : Ctx → Ctx) (h : d ≠ c) : (s.modCtx c l f).core d = s.core d := by
  simp [State.modCtx, State.setCtx, core_modCore_ne _ _ _ _ h]
@[simp] theorem ctx_modCtx (s : State) (c l : Nat) (f : Ctx → Ctx) : (s.modCtx c l f).ctx c l = f (s.ctx c l) := by
  simp [State.ctx]
theorem ctx_modCtx_ne (s : State) (c l d i : Nat) (f : Ctx → Ctx) (h : (d, i) ≠ (c, l)) : (s.modCtx c l f).ctx d i = s.ctx d i := by
  by_cases hc : d = c
  · subst hc
    have hi : i ≠ l := fun e => h (by rw [e])
    simp [State.ctx, bank_setBank_ne _ _ _ _ hi]
  · simp [State.ctx, core_modCtx_ne _ _ _ _ _ hc]
@[simp] theorem bank_transfer (k : Core) (t : BitVec 22) (l : Nat) : (k.transfer t).bank l = k.bank l := by
  unfold Core.transfer
  split <;> rfl
@[simp] theorem cluster_modCluster (s : State) (k : Nat) (f : Cluster → Cluster) : (s.modCluster k f).cluster k = f (s.cluster k) := by
  simp [State.cluster, State.modCluster]
theorem cluster_modCluster_ne (s : State) (k j : Nat) (f : Cluster → Cluster) (h : j ≠ k) : (s.modCluster k f).cluster j = s.cluster j := by
  simp [State.cluster, State.modCluster, getD_set_ne _ _ _ _ _ h]
@[simp] theorem quad_modQuad (s : State) (q : Nat) (f : Quad → Quad) : (s.modQuad q f).quad q = f (s.quad q) := by
  simp [State.quad, State.modQuad]
@[simp] theorem slice_modSlice (s : State) (n : Nat) (f : Slice → Slice) : (s.modSlice n f).slice n = f (s.slice n) := by
  simp [State.slice, State.modSlice]
@[simp] theorem soPort_modPort (s : State) (p : Nat) (f : SoPort → SoPort) : (s.modPort p f).soPort p = f (s.soPort p) := by
  simp [State.soPort, State.modPort]

@[simp] theorem core_modCluster (s : State) (i : Nat) (k : Nat) (f : Cluster → Cluster) : (s.modCluster k f).core i = s.core i := rfl
@[simp] theorem core_modQuad (s : State) (i : Nat) (q : Nat) (f : Quad → Quad) : (s.modQuad q f).core i = s.core i := rfl
@[simp] theorem core_modSlice (s : State) (i : Nat) (n : Nat) (f : Slice → Slice) : (s.modSlice n f).core i = s.core i := rfl
@[simp] theorem core_modPort (s : State) (i : Nat) (p : Nat) (f : SoPort → SoPort) : (s.modPort p f).core i = s.core i := rfl
@[simp] theorem core_modNet (s : State) (i : Nat) (f : Net → Net) : (s.modNet f).core i = s.core i := rfl
@[simp] theorem core_modVale (s : State) (i : Nat) (f : Vale → Vale) : (s.modVale f).core i = s.core i := rfl
@[simp] theorem core_modMod (s : State) (i : Nat) (f : Module → Module) : (s.modMod f).core i = s.core i := rfl
@[simp] theorem core_cwrite (s : State) (i : Nat) (k a n x : Nat) : (s.cwrite k a n x).core i = s.core i := by rw [cwrite_eq]; rfl
@[simp] theorem cluster_modCore (s : State) (i : Nat) (c : Nat) (f : Core → Core) : (s.modCore c f).cluster i = s.cluster i := rfl
@[simp] theorem cluster_modCtx (s : State) (i : Nat) (c l : Nat) (f : Ctx → Ctx) : (s.modCtx c l f).cluster i = s.cluster i := rfl
@[simp] theorem cluster_modQuad (s : State) (i : Nat) (q : Nat) (f : Quad → Quad) : (s.modQuad q f).cluster i = s.cluster i := rfl
@[simp] theorem cluster_modSlice (s : State) (i : Nat) (n : Nat) (f : Slice → Slice) : (s.modSlice n f).cluster i = s.cluster i := rfl
@[simp] theorem cluster_modPort (s : State) (i : Nat) (p : Nat) (f : SoPort → SoPort) : (s.modPort p f).cluster i = s.cluster i := rfl
@[simp] theorem cluster_modNet (s : State) (i : Nat) (f : Net → Net) : (s.modNet f).cluster i = s.cluster i := rfl
@[simp] theorem cluster_modVale (s : State) (i : Nat) (f : Vale → Vale) : (s.modVale f).cluster i = s.cluster i := rfl
@[simp] theorem cluster_modMod (s : State) (i : Nat) (f : Module → Module) : (s.modMod f).cluster i = s.cluster i := rfl
@[simp] theorem cluster_cwrite (s : State) (i : Nat) (k a n x : Nat) : (s.cwrite k a n x).cluster i = s.cluster i := by rw [cwrite_eq]; rfl
@[simp] theorem quad_modCore (s : State) (i : Nat) (c : Nat) (f : Core → Core) : (s.modCore c f).quad i = s.quad i := rfl
@[simp] theorem quad_modCtx (s : State) (i : Nat) (c l : Nat) (f : Ctx → Ctx) : (s.modCtx c l f).quad i = s.quad i := rfl
@[simp] theorem quad_modCluster (s : State) (i : Nat) (k : Nat) (f : Cluster → Cluster) : (s.modCluster k f).quad i = s.quad i := rfl
@[simp] theorem quad_modSlice (s : State) (i : Nat) (n : Nat) (f : Slice → Slice) : (s.modSlice n f).quad i = s.quad i := rfl
@[simp] theorem quad_modPort (s : State) (i : Nat) (p : Nat) (f : SoPort → SoPort) : (s.modPort p f).quad i = s.quad i := rfl
@[simp] theorem quad_modNet (s : State) (i : Nat) (f : Net → Net) : (s.modNet f).quad i = s.quad i := rfl
@[simp] theorem quad_modVale (s : State) (i : Nat) (f : Vale → Vale) : (s.modVale f).quad i = s.quad i := rfl
@[simp] theorem quad_modMod (s : State) (i : Nat) (f : Module → Module) : (s.modMod f).quad i = s.quad i := rfl
@[simp] theorem quad_cwrite (s : State) (i : Nat) (k a n x : Nat) : (s.cwrite k a n x).quad i = s.quad i := by rw [cwrite_eq]; rfl
@[simp] theorem slice_modCore (s : State) (i : Nat) (c : Nat) (f : Core → Core) : (s.modCore c f).slice i = s.slice i := rfl
@[simp] theorem slice_modCtx (s : State) (i : Nat) (c l : Nat) (f : Ctx → Ctx) : (s.modCtx c l f).slice i = s.slice i := rfl
@[simp] theorem slice_modCluster (s : State) (i : Nat) (k : Nat) (f : Cluster → Cluster) : (s.modCluster k f).slice i = s.slice i := rfl
@[simp] theorem slice_modQuad (s : State) (i : Nat) (q : Nat) (f : Quad → Quad) : (s.modQuad q f).slice i = s.slice i := rfl
@[simp] theorem slice_modPort (s : State) (i : Nat) (p : Nat) (f : SoPort → SoPort) : (s.modPort p f).slice i = s.slice i := rfl
@[simp] theorem slice_modNet (s : State) (i : Nat) (f : Net → Net) : (s.modNet f).slice i = s.slice i := rfl
@[simp] theorem slice_modVale (s : State) (i : Nat) (f : Vale → Vale) : (s.modVale f).slice i = s.slice i := rfl
@[simp] theorem slice_modMod (s : State) (i : Nat) (f : Module → Module) : (s.modMod f).slice i = s.slice i := rfl
@[simp] theorem slice_cwrite (s : State) (i : Nat) (k a n x : Nat) : (s.cwrite k a n x).slice i = s.slice i := by rw [cwrite_eq]; rfl
@[simp] theorem soPort_modCore (s : State) (i : Nat) (c : Nat) (f : Core → Core) : (s.modCore c f).soPort i = s.soPort i := rfl
@[simp] theorem soPort_modCtx (s : State) (i : Nat) (c l : Nat) (f : Ctx → Ctx) : (s.modCtx c l f).soPort i = s.soPort i := rfl
@[simp] theorem soPort_modCluster (s : State) (i : Nat) (k : Nat) (f : Cluster → Cluster) : (s.modCluster k f).soPort i = s.soPort i := rfl
@[simp] theorem soPort_modQuad (s : State) (i : Nat) (q : Nat) (f : Quad → Quad) : (s.modQuad q f).soPort i = s.soPort i := rfl
@[simp] theorem soPort_modSlice (s : State) (i : Nat) (n : Nat) (f : Slice → Slice) : (s.modSlice n f).soPort i = s.soPort i := rfl
@[simp] theorem soPort_modNet (s : State) (i : Nat) (f : Net → Net) : (s.modNet f).soPort i = s.soPort i := rfl
@[simp] theorem soPort_modVale (s : State) (i : Nat) (f : Vale → Vale) : (s.modVale f).soPort i = s.soPort i := rfl
@[simp] theorem soPort_modMod (s : State) (i : Nat) (f : Module → Module) : (s.modMod f).soPort i = s.soPort i := rfl
@[simp] theorem soPort_cwrite (s : State) (i : Nat) (k a n x : Nat) : (s.cwrite k a n x).soPort i = s.soPort i := by rw [cwrite_eq]; rfl
@[simp] theorem ctx_modCluster (s : State) (i j : Nat) (k : Nat) (f : Cluster → Cluster) : (s.modCluster k f).ctx i j = s.ctx i j := rfl
@[simp] theorem ctx_modQuad (s : State) (i j : Nat) (q : Nat) (f : Quad → Quad) : (s.modQuad q f).ctx i j = s.ctx i j := rfl
@[simp] theorem ctx_modSlice (s : State) (i j : Nat) (n : Nat) (f : Slice → Slice) : (s.modSlice n f).ctx i j = s.ctx i j := rfl
@[simp] theorem ctx_modPort (s : State) (i j : Nat) (p : Nat) (f : SoPort → SoPort) : (s.modPort p f).ctx i j = s.ctx i j := rfl
@[simp] theorem ctx_modNet (s : State) (i j : Nat) (f : Net → Net) : (s.modNet f).ctx i j = s.ctx i j := rfl
@[simp] theorem ctx_modVale (s : State) (i j : Nat) (f : Vale → Vale) : (s.modVale f).ctx i j = s.ctx i j := rfl
@[simp] theorem ctx_modMod (s : State) (i j : Nat) (f : Module → Module) : (s.modMod f).ctx i j = s.ctx i j := rfl
@[simp] theorem ctx_cwrite (s : State) (i j : Nat) (k a n x : Nat) : (s.cwrite k a n x).ctx i j = s.ctx i j := by rw [cwrite_eq]; rfl
@[simp] theorem core_modGang (s : State) (i g : Nat) (f : Gang → Gang) : (s.modGang g f).core i = s.core i := by rw [modGang_eq]; rfl
@[simp] theorem ctx_modGang (s : State) (i j g : Nat) (f : Gang → Gang) : (s.modGang g f).ctx i j = s.ctx i j := by rw [modGang_eq]; rfl

end Sys2Proof.Laws
end

