-- ==== Sys2Proof/Laws/Mem.lean ====
section
/-! SUPPORT. The laws of memory: a read after a write, and the canonical form that every memory operation keeps. -/
namespace Sys2Proof.Laws
open Sys2Proof.Machine

/-! ### One byte -/

theorem read_put (a : Nat) (b : Byte) (r : List Host.Cell) (h : Mem.read r a = 0) : Mem.read (Mem.put a b r) a = b := by
  unfold Mem.put
  split
  · rename_i e
    rw [h, e]
    rfl
  · simp [Mem.read]

theorem read_put_ne (a x : Nat) (b : Byte) (r : List Host.Cell) (h : x ≠ a) : Mem.read (Mem.put a b r) x = Mem.read r x := by
  unfold Mem.put
  split
  · rfl
  · simp [Mem.read, Ne.symm h]

/-- In a canonical list, an address below the bound reads as unlisted. -/
theorem read_below {lo x : Nat} {m : List Host.Cell} (h : Mem.wfFrom lo m = true) (hx : x < lo) : Mem.read m x = 0 := by
  induction m generalizing lo with
  | nil => rfl
  | cons e r ih =>
    obtain ⟨k, v⟩ := e
    simp only [Mem.wfFrom, Bool.and_eq_true, decide_eq_true_eq] at h
    simp only [Mem.read]
    rw [if_neg (by omega)]
    exact ih h.2 (by omega)

theorem wfFrom_mono {lo hi : Nat} {m : List Host.Cell} (h : Mem.wfFrom hi m = true) (hl : lo ≤ hi) : Mem.wfFrom lo m = true := by
  cases m with
  | nil => rfl
  | cons e r =>
    obtain ⟨k, v⟩ := e
    simp only [Mem.wfFrom, Bool.and_eq_true, decide_eq_true_eq] at h ⊢
    exact ⟨⟨by omega, h.1.2⟩, h.2⟩

/-- The byte written is read back. -/
theorem read_write {lo : Nat} (m : List Host.Cell) (a : Nat) (b : Byte) (h : Mem.wfFrom lo m = true) : Mem.read (Mem.write m a b) a = b := by
  induction m generalizing lo with
  | nil => exact read_put a b [] rfl
  | cons e r ih =>
    obtain ⟨k, v⟩ := e
    simp only [Mem.wfFrom, Bool.and_eq_true, decide_eq_true_eq] at h
    simp only [Mem.write]
    split
    · rename_i hk
      apply read_put
      simp only [Mem.read]
      rw [if_neg (by omega)]
      exact read_below h.2 (by omega)
    · split
      · rename_i hk
        subst hk
        exact read_put _ _ _ (read_below h.2 (by omega))
      · rename_i hk
        simp only [Mem.read]
        rw [if_neg hk]
        exact ih h.2

/-- A write leaves every other address alone. -/
theorem read_write_ne (m : List Host.Cell) (a x : Nat) (b : Byte) (h : x ≠ a) : Mem.read (Mem.write m a b) x = Mem.read m x := by
  induction m with
  | nil => exact read_put_ne a x b [] h
  | cons e r ih =>
    obtain ⟨k, v⟩ := e
    simp only [Mem.write]
    split
    · exact read_put_ne a x b _ h
    · split
      · rename_i hk
        subst hk
        rw [read_put_ne _ _ _ _ h]
        simp only [Mem.read]
        rw [if_neg (Ne.symm h)]
      · simp only [Mem.read, ih]

theorem wfFrom_put {lo : Nat} {a : Nat} {b : Byte} {r : List Host.Cell} (h : Mem.wfFrom (a + 1) r = true) (hl : lo ≤ a) :
    Mem.wfFrom lo (Mem.put a b r) = true := by
  unfold Mem.put
  split
  · exact wfFrom_mono h (by omega)
  · rename_i hb
    simp only [Mem.wfFrom, Bool.and_eq_true, decide_eq_true_eq]
    exact ⟨⟨hl, hb⟩, h⟩

theorem wfFrom_write {lo : Nat} (m : List Host.Cell) (a : Nat) (b : Byte) (h : Mem.wfFrom lo m = true) (hl : lo ≤ a) :
    Mem.wfFrom lo (Mem.write m a b) = true := by
  induction m generalizing lo with
  | nil => exact wfFrom_put rfl hl
  | cons e r ih =>
    obtain ⟨k, v⟩ := e
    have h0 := h
    simp only [Mem.wfFrom, Bool.and_eq_true, decide_eq_true_eq] at h
    simp only [Mem.write]
    split
    · rename_i hk
      refine wfFrom_put ?_ hl
      simp only [Mem.wfFrom, Bool.and_eq_true, decide_eq_true_eq]
      exact ⟨⟨by omega, h.1.2⟩, h.2⟩
    · split
      · rename_i hk
        subst hk
        exact wfFrom_put h.2 hl
      · rename_i h1 h2
        simp only [Mem.wfFrom, Bool.and_eq_true, decide_eq_true_eq]
        exact ⟨h.1, ih h.2 (by omega)⟩

/-! ### The canonical form -/

/-- A write of one byte keeps the canonical form. -/
theorem wf_write (m : List Host.Cell) (a : Nat) (b : Byte) (h : Mem.wf m = true) : Mem.wf (Mem.write m a b) = true :=
  wfFrom_write m a b h (Nat.zero_le a)

/-- A write of a number keeps the canonical form. -/
theorem wf_writeN (m : List Host.Cell) (a n x : Nat) (h : Mem.wf m = true) : Mem.wf (Mem.writeN m a n x) = true := by
  induction n generalizing m a x with
  | zero => exact h
  | succ n ih => exact ih _ _ _ (wf_write m a _ h)

/-- A write of bytes keeps the canonical form. -/
theorem wf_writeBytes (m : List Host.Cell) (a : Nat) (l : List Byte) (h : Mem.wf m = true) : Mem.wf (Mem.writeBytes m a l) = true := by
  induction l generalizing m a with
  | nil => exact h
  | cons b r ih => exact ih _ _ (wf_write m a b h)

/-- A fold of writes keeps the canonical form. -/
theorem wf_foldl {β : Type} (f : List Host.Cell → β → List Host.Cell) (hf : ∀ m b, Mem.wf m = true → Mem.wf (f m b) = true)
    (l : List β) (m : List Host.Cell) (h : Mem.wf m = true) : Mem.wf (l.foldl f m) = true := by
  induction l generalizing m with
  | nil => exact h
  | cons b r ih => exact ih _ (hf m b h)

theorem wfFrom_filter (p : Host.Cell → Bool) {lo : Nat} (m : List Host.Cell) (h : Mem.wfFrom lo m = true) :
    Mem.wfFrom lo (m.filter p) = true := by
  induction m generalizing lo with
  | nil => rfl
  | cons e r ih =>
    obtain ⟨k, v⟩ := e
    simp only [Mem.wfFrom, Bool.and_eq_true, decide_eq_true_eq] at h
    rw [List.filter_cons]
    split
    · simp only [Mem.wfFrom, Bool.and_eq_true, decide_eq_true_eq]
      exact ⟨h.1, ih h.2⟩
    · exact wfFrom_mono (ih h.2) (by omega)

/-- The cells of a canonical memory that meet a test are canonical. -/
theorem wf_filter (p : Host.Cell → Bool) (m : List Host.Cell) (h : Mem.wf m = true) : Mem.wf (m.filter p) = true := wfFrom_filter p m h

/-- The memories at reset are canonical. -/
theorem reset_memories : Mem.wf State.reset.cmem = true ∧ Mem.wf State.reset.phys = true := ⟨rfl, rfl⟩

/-- A write to a cluster keeps both memories canonical. -/
theorem wf_cwrite (s : State) (k a n x : Nat) (h : Mem.wf s.cmem = true) : Mem.wf (s.cwrite k a n x).cmem = true :=
  by rw [cwrite_cmem]; exact wf_writeN _ _ _ _ h

/-! ### Several bytes -/

/-- A write of a number leaves every address outside its bytes alone. -/
theorem read_writeN_ne (m : List Host.Cell) (a n x j : Nat) (h : j < a ∨ a + n ≤ j) : Mem.read (Mem.writeN m a n x) j = Mem.read m j := by
  induction n generalizing m a x with
  | zero => rfl
  | succ n ih =>
    simp only [Mem.writeN]
    rw [ih _ _ _ (by omega), read_write_ne _ _ _ _ (by omega)]

/-- A write of bytes leaves every address outside them alone. -/
theorem read_writeBytes_ne (m : List Host.Cell) (a j : Nat) (l : List Byte) (h : j < a ∨ a + l.length ≤ j) :
    Mem.read (Mem.writeBytes m a l) j = Mem.read m j := by
  induction l generalizing m a with
  | nil => rfl
  | cons b r ih =>
    simp only [Mem.writeBytes]
    simp only [List.length_cons] at h
    rw [ih _ _ (by omega), read_write_ne _ _ _ _ (by omega)]

/-- A number read depends on its bytes only. -/
theorem readN_congr (m m' : List Host.Cell) (a n : Nat) (h : ∀ j, a ≤ j → j < a + n → Mem.read m' j = Mem.read m j) :
    Mem.readN m' a n = Mem.readN m a n := by
  induction n generalizing a with
  | zero => rfl
  | succ n ih =>
    simp only [Mem.readN]
    rw [h a (by omega) (by omega), ih (a + 1) fun j h1 h2 => h j (by omega) (by omega)]

/-- The number written is read back, cut to its bytes. -/
theorem readN_writeN (m : List Host.Cell) (a n x : Nat) (h : Mem.wf m = true) : Mem.readN (Mem.writeN m a n x) a n = x % 256 ^ n := by
  induction n generalizing m a x with
  | zero => simp [Mem.readN, Nat.mod_one]
  | succ n ih =>
    simp only [Mem.readN, Mem.writeN]
    rw [ih _ _ _ (wf_write m a _ h), read_writeN_ne _ _ _ _ _ (by omega), read_write m a _ (show Mem.wfFrom 0 m = true from h)]
    simp only [BitVec.toNat_ofNat]
    have e : x % 256 ^ (n + 1) = x % 256 + 256 * (x / 256 % 256 ^ n) := by
      rw [Nat.pow_succ, Nat.mul_comm (256 ^ n) 256, Nat.mod_mul]
    omega

/-- Writes to disjoint places do not see each other. -/
theorem readN_writeN_ne (m : List Host.Cell) (a n x b k : Nat) (h : b + k ≤ a ∨ a + n ≤ b) :
    Mem.readN (Mem.writeN m a n x) b k = Mem.readN m b k :=
  readN_congr _ _ _ _ fun j h1 h2 => read_writeN_ne _ _ _ _ _ (by omega)

/-- Cells of different clusters are apart. -/
theorem cellKey_apart {k j a b : Nat} (h : k ≠ j) (ha : a < Config.clusterBytes) (hb : b < Config.clusterBytes) : cellKey k a ≠ cellKey j b := by
  unfold cellKey
  intro e
  apply h
  have h1 : (k * Config.clusterBytes + a) / Config.clusterBytes = k := by
    rw [Nat.mul_comm, Nat.mul_add_div (by decide), Nat.div_eq_of_lt ha, Nat.add_zero]
  have h2 : (j * Config.clusterBytes + b) / Config.clusterBytes = j := by
    rw [Nat.mul_comm, Nat.mul_add_div (by decide), Nat.div_eq_of_lt hb, Nat.add_zero]
  rw [← h1, ← h2, e]

end Sys2Proof.Laws
end

