-- ==== Sys2Proof/Laws/Monad.lean ====
section
/-! SUPPORT. How the work of an instruction runs: one equation per way to put work together, for work that succeeds and work that does
not, and what `settle` makes of each ending. -/
namespace Sys2Proof.Laws
open Sys2Proof.Machine

theorem bind_ok {α β : Type} {m : M α} {f : α → M β} {s t : State} {a : α} (h : m s = .ok a t) : (m >>= f) s = f a t := by
  show EStateM.bind m f s = f a t
  simp only [EStateM.bind, h]

theorem bind_error {α β : Type} {m : M α} {f : α → M β} {s t : State} {e : Exc} (h : m s = .error e t) : (m >>= f) s = .error e t := by
  show EStateM.bind m f s = .error e t
  simp only [EStateM.bind, h]

@[simp] theorem pure_run {α : Type} (a : α) (s : State) : (pure a : M α) s = .ok a s := rfl
@[simp] theorem get_run (s : State) : (get : M State) s = .ok s s := rfl
@[simp] theorem set_run (s t : State) : (set t : M PUnit) s = .ok ⟨⟩ t := rfl
@[simp] theorem modify_run (f : State → State) (s : State) : (modify f : M PUnit) s = .ok ⟨⟩ (f s) := rfl
@[simp] theorem throw_run {α : Type} (e : Exc) (s : State) : (throw e : M α) s = .error e s := rfl
@[simp] theorem raise_run {α : Type} (c : Nat) (v : Word) (s : State) :
    (raise c v : M α) s = .error (.trap { cause := c, val := v }) s := rfl
@[simp] theorem raiseTree_run {α : Type} (c d : Nat) (v : Word) (s : State) :
    (raiseTree c d v : M α) s = .error (.trap { cause := c, detail := d, val := v }) s := rfl
@[simp] theorem modMe_run (f : Ctx → Ctx) (s : State) : modMe f s = .ok ⟨⟩ (s.modCtx s.cur.1 s.cur.2 f) := rfl
@[simp] theorem modHere_run (f : Core → Core) (s : State) : modHere f s = .ok ⟨⟩ (s.modCore s.cur.1 f) := rfl
@[simp] theorem modHome_run (f : Cluster → Cluster) (s : State) :
    modHome f s = .ok ⟨⟩ (s.modCluster (clusterOf s.cur.1) f) := rfl

/-- `get` followed by work. -/
theorem get_bind {β : Type} (f : State → M β) (s : State) : (get >>= f) s = f s s := rfl
/-- A value followed by work. -/
theorem pure_bind {α β : Type} (a : α) (f : α → M β) (s : State) : (pure a >>= f) s = f a s := rfl
/-- A failure ends the work. -/
theorem throw_bind {α β : Type} (e : Exc) (f : α → M β) (s : State) : ((throw e : M α) >>= f) s = .error e s := rfl

/-- What work followed by work can do. -/
theorem bind_cases {α β : Type} (m : M α) (f : α → M β) (s : State) :
    (∃ a t, m s = .ok a t ∧ (m >>= f) s = f a t) ∨ (∃ e t, m s = .error e t ∧ (m >>= f) s = .error e t) := by
  cases h : m s with
  | ok a t => exact .inl ⟨a, t, rfl, bind_ok h⟩
  | error e t => exact .inr ⟨e, t, rfl, bind_error h⟩

/-! ### An instruction that completes -/

/-- A 32-bit instruction whose work succeeds goes on at the next address. -/
theorem instr_ok {sc : BitVec 3} {m : M Unit} {s t : State} {u : Unit} (h : m s = .ok u t) :
    instr sc m s = .next (t.goOn s.cur.1 s.cur.2 (s.me.pc + 4) sc.toNat) := by
  simp only [instr, instrJ, bind_ok h, settle, pure_run]

/-- A 32-bit instruction whose work raises a precise trap takes it. -/
theorem instr_trap {sc : BitVec 3} {m : M Unit} {s t : State} {i : TrapInfo} (h : m s = .error (.trap i) t) :
    instr sc m s = .next (s.afterTrap i) := by
  simp only [instr, instrJ, bind_error h, settle]

/-- A 32-bit instruction whose work must wait leaves everything as it was, but that its context is READY and has been tried in this cycle. -/
theorem instr_stall {sc : BitVec 3} {m : M Unit} {s t : State} (h : m s = .error .stall t) :
    instr sc m s = .next s.notEligible := by
  simp only [instr, instrJ, bind_error h, settle]

/-- A 16-bit instruction whose work succeeds goes on at the next address. -/
theorem instr16_ok {m : M Unit} {s t : State} {u : Unit} (h : m s = .ok u t) :
    instr16 m s = .next (t.goOn s.cur.1 s.cur.2 (s.me.pc + 2) 0) := by
  simp only [instr16, bind_ok h, settle, pure_run]

/-- An instruction that may transfer control, by how its work ends. -/
theorem instrJ_ok {sc : BitVec 3} {m : M Flow} {s t : State} {f : Flow} (h : m s = .ok f t) :
    instrJ sc m s = .next (settle 4 sc.toNat s (.ok f t)) := by
  simp only [instrJ, h]

/-- The same for a 16-bit one. -/
theorem instr16J_ok {m : M Flow} {s t : State} {f : Flow} (h : m s = .ok f t) :
    instr16J m s = .next (settle 2 0 s (.ok f t)) := by
  simp only [instr16J, h]

/-- A predicated body runs when bit 0 of its predicate is 1, and otherwise nothing is read or written (R55). -/
theorem guardP_ok {p : BitVec 3} {body : M Unit} {s t : State} {v : BitVec 256} (h : readP p.toNat s = .ok v t) :
    guardP p body s = if predBit v 0 then body t else .ok ⟨⟩ t := by
  rw [guardP, bind_ok h]
  cases predBit v 0 <;> rfl

end Sys2Proof.Laws
end

