-- ==== Sys2Proof/Laws/Frame.lean ====
section
/-! SUPPORT. What the shared operations of instructions can do: each leaves the machine as it was but for named registers, links and
results under way. One lemma per operation, and one per way to put operations together. -/
namespace Sys2Proof.Laws
open Sys2Proof.Machine

/-- The state that an end of some work leaves is related to a state. -/
def Ends (P : State → State → Prop) (s : State) {α : Type} (r : EStateM.Result Exc State α) : Prop :=
  match r with
  | .ok _ t => P s t
  | .error _ t => P s t

/-- A relation that holds between the states before and after some work, however it ends. -/
def Within (P : State → State → Prop) {α : Type} (m : M α) : Prop := ∀ s, Ends P s (m s)

/-- A relation that may be chained. -/
structure Chain (P : State → State → Prop) : Prop where
  refl : ∀ s, P s s
  trans : ∀ {s t u}, P s t → P t u → P s u

theorem within_pure {P : State → State → Prop} (h : Chain P) {α : Type} (a : α) : Within P (pure a : M α) := fun s => h.refl s
theorem within_throw {P : State → State → Prop} (h : Chain P) {α : Type} (e : Exc) : Within P (throw e : M α) := fun s => h.refl s
theorem within_raise {P : State → State → Prop} (h : Chain P) {α : Type} (c : Nat) (v : Word) : Within P (raise c v : M α) := fun s => h.refl s
theorem within_raiseTree {P : State → State → Prop} (h : Chain P) {α : Type} (c d : Nat) (v : Word) : Within P (raiseTree c d v : M α) :=
  fun s => h.refl s
theorem within_get {P : State → State → Prop} (h : Chain P) : Within P (get : M State) := fun s => h.refl s
theorem within_modify {P : State → State → Prop} {f : State → State} (h : ∀ s, P s (f s)) : Within P (modify f : M PUnit) := fun s => h s

theorem within_bind {P : State → State → Prop} (h : Chain P) {α β : Type} {m : M α} {f : α → M β} (hm : Within P m)
    (hf : ∀ a, Within P (f a)) : Within P (m >>= f) := by
  intro s
  rcases bind_cases m f s with ⟨a, t, e1, e2⟩ | ⟨e, t, e1, e2⟩
  · have h1 := hm s
    have h2 := hf a t
    rw [e1] at h1
    rw [e2]
    revert h2
    cases f a t with
    | ok b u => exact fun h2 => h.trans h1 h2
    | error b u => exact fun h2 => h.trans h1 h2
  · have h1 := hm s
    rw [e1] at h1
    rw [e2]
    exact h1

/-- Work that looks at the state first. -/
theorem within_get_bind {P : State → State → Prop} {β : Type} {f : State → M β} (hf : ∀ s, Ends P s (f s s)) : Within P (get >>= f) := hf

/-- The same when what follows is within the relation whatever it saw. -/
theorem within_seen {P : State → State → Prop} {β : Type} {f : State → M β} (hf : ∀ s, Within P (f s)) : Within P (get >>= f) :=
  fun s => hf s s

theorem within_ite {P : State → State → Prop} {c : Prop} [Decidable c] {α : Type} {m n : M α} (hm : c → Within P m) (hn : ¬ c → Within P n) :
    Within P (if c then m else n) := by
  split
  · exact hm ‹_›
  · exact hn ‹_›

theorem within_tryCatch {P : State → State → Prop} (h : Chain P) {α : Type} {m : M α} {f : Exc → M α} (hm : Within P m)
    (hf : ∀ e, Within P (f e)) : Within P (tryCatch m f) := by
  intro s
  have h1 := hm s
  have e : (tryCatch m f : M α) s = (match m s with
      | .error e t => f e t
      | r => r) := by
    show EStateM.tryCatch m f s = _
    simp only [EStateM.tryCatch]
    cases m s <;> rfl
  rw [e]
  revert h1
  cases m s with
  | ok a t => exact id
  | error x t =>
    intro h1
    have h2 := hf x t
    simp only
    revert h2
    cases f x t with
    | ok b u => exact fun h2 => h.trans h1 h2
    | error b u => exact fun h2 => h.trans h1 h2

/-! ### Register work -/

/-- The registers that some work may write. -/
abbrev RegTargets := Targets

/-- A bank but for its registers and the results under way. -/
def bankRest (x : Ctx) : Ctx := { x with s := [], v := [], p := [], pend := [], poisoned := [], pendTraps := [] }
/-- A core but for the counts of what its slice corrected or found uncorrectable. -/
def uncounted (k : Core) : Core := { k with corrected := 0, uncorrectable := 0 }
/-- A core but for its banks, its link queues and ports, its instruction buffer, GUARDREC and those counts. -/
def coreRest (k : Core) : Core := { uncounted k with ctx := [], inq := [], outq := [], ports := [], ibuf := none, guardrec := 0 }
/-- The machine but for its cores, the wrong symbols of cluster memory and the counters of the model's own. -/
def stateRest (s : State) : State := { s with cores := [], wrong := [], freeCtr := 0, vale := { s.vale with nextId := 0 } }

/-- Whether a result under way belongs to the targets. -/
def Aims (w : Targets) (q : Pend) : Prop :=
  match q.dest with
  | .scalar r => ∃ d, w.scalar = some d ∧ d.toNat = r
  | .vector r => ∃ d ∈ w.vectors, d.toNat = r
  | .pred r => w.predicate = some r

/-- What work on registers may do: registers named by the targets, results under way for them, links, the instruction buffer,
GUARDREC, symbols that a read corrects. -/
structure RegWork (w : Targets) (s t : State) : Prop where
  rest : stateRest t = stateRest s
  cores : ∀ c, c ≠ s.cur.1 → uncounted (t.core c) = uncounted (s.core c)
  here : coreRest t.here = coreRest s.here
  banks : ∀ l, l ≠ s.cur.2 → t.here.bank l = s.here.bank l
  me : bankRest t.me = bankRest s.me
  scalars : ∀ r : BitVec 5, some r ≠ w.scalar → t.me.sreg r.toNat = s.me.sreg r.toNat
  vectors : ∀ r : BitVec 5, r ∉ w.vectors → t.me.vreg r.toNat = s.me.vreg r.toNat
  predicates : ∀ r, some r ≠ w.predicate → t.me.preg r = s.me.preg r
  pending : ∃ l, t.me.pend = s.me.pend ++ l ∧ ∀ q ∈ l, Aims w q

theorem cur_of_rest {s t : State} (h : stateRest t = stateRest s) : t.cur = s.cur :=
  show (stateRest t).cur = (stateRest s).cur from congrArg State.cur h

theorem regWork_chain (w : Targets) : Chain (RegWork w) where
  refl s := ⟨rfl, fun _ _ => rfl, rfl, fun _ _ => rfl, rfl, fun _ _ => rfl, fun _ _ => rfl, fun _ _ => rfl, [], by simp⟩
  trans := by
    intro s t u h g
    have hc := cur_of_rest h.rest
    obtain ⟨l, hl, hq⟩ := h.pending
    obtain ⟨m, hm, gq⟩ := g.pending
    refine ⟨g.rest.trans h.rest, ?_, g.here.trans h.here, ?_, g.me.trans h.me, ?_, ?_, ?_, l ++ m, ?_, ?_⟩
    · intro c hne
      rw [g.cores c (by rw [hc]; exact hne), h.cores c hne]
    · intro j hne
      rw [g.banks j (by rw [hc]; exact hne), h.banks j hne]
    · intro r hr
      rw [g.scalars r hr, h.scalars r hr]
    · intro r hr
      rw [g.vectors r hr, h.vectors r hr]
    · intro r hr
      rw [g.predicates r hr, h.predicates r hr]
    · rw [hm, hl, List.append_assoc]
    · intro q hmem
      rcases List.mem_append.1 hmem with h1 | h1
      · exact hq q h1
      · exact gq q h1

/-- A change of the acting bank that touches the targets only. -/
theorem regWork_modCtx (w : Targets) (s : State) (f : Ctx → Ctx) (h1 : bankRest (f s.me) = bankRest s.me)
    (h2 : ∀ r : BitVec 5, some r ≠ w.scalar → (f s.me).sreg r.toNat = s.me.sreg r.toNat)
    (h3 : ∀ r : BitVec 5, r ∉ w.vectors → (f s.me).vreg r.toNat = s.me.vreg r.toNat)
    (h4 : ∀ r, some r ≠ w.predicate → (f s.me).preg r = s.me.preg r)
    (h5 : ∃ l, (f s.me).pend = s.me.pend ++ l ∧ ∀ q ∈ l, Aims w q) : RegWork w s (s.modCtx s.cur.1 s.cur.2 f) := by
  have e : (s.modCtx s.cur.1 s.cur.2 f).me = f s.me := by simp [State.me]
  refine ⟨rfl, ?_, ?_, ?_, ?_, ?_, ?_, ?_, ?_⟩
  · intro c hc
    rw [core_modCtx_ne _ _ _ _ _ hc]
  · show coreRest ((s.modCtx s.cur.1 s.cur.2 f).core s.cur.1) = _
    rw [core_modCtx]
    rfl
  · intro l hl
    show ((s.modCtx s.cur.1 s.cur.2 f).core s.cur.1).bank l = _
    rw [core_modCtx, bank_setBank_ne _ _ _ _ hl]
    rfl
  all_goals rw [e]; assumption

/-- A change of the acting core that touches links only. -/
theorem regWork_modCore (w : Targets) (s : State) (f : Core → Core) (h1 : coreRest (f s.here) = coreRest s.here)
    (h2 : (f s.here).ctx = s.here.ctx) : RegWork w s (s.modCore s.cur.1 f) := by
  have e : (s.modCore s.cur.1 f).here = f s.here := by simp [State.here]
  have eb : ∀ l, (s.modCore s.cur.1 f).here.bank l = s.here.bank l := by
    intro l
    rw [e]
    simp only [Core.bank, h2]
  have em : (s.modCore s.cur.1 f).me = s.me := eb s.cur.2
  refine ⟨rfl, fun c hc => by rw [core_modCore_ne _ _ _ _ hc], by rw [e, h1], fun l _ => eb l, by rw [em], ?_, ?_, ?_, [], ?_, by simp⟩
  all_goals intros; simp [em]

/-- A change of counters of the model's own. -/
theorem regWork_counters (w : Targets) (s t : State) (h : stateRest t = stateRest s) (hc : t.cores = s.cores) : RegWork w s t := by
  have e : t.core = s.core := by
    funext c
    simp only [State.core, hc]
  have hcur := cur_of_rest h
  have eh : t.here = s.here := by simp only [State.here, e, hcur]
  have em : t.me = s.me := by simp only [State.me, State.ctx, e, hcur]
  refine ⟨h, fun c _ => by rw [e], by rw [eh], fun l _ => by rw [eh], by rw [em], ?_, ?_, ?_, [], ?_, by simp⟩
  all_goals intros; simp [em]

/-- A change of counts and of wrong symbols. -/
theorem regWork_counts (w : Targets) (s t : State) (h : stateRest t = stateRest s) (hc : ∀ c, uncounted (t.core c) = uncounted (s.core c)) :
    RegWork w s t := by
  have hcur := cur_of_rest h
  have eb : ∀ c l, (t.core c).bank l = (s.core c).bank l := fun c l => (congrArg (fun k : Core => k.bank l) (hc c) : _)
  have em : t.me = s.me := by simp only [State.me, State.ctx, hcur, eb]
  refine ⟨h, fun c _ => hc c, ?_, fun l _ => ?_, by rw [em], ?_, ?_, ?_, [], ?_, by simp⟩
  · show coreRest (t.core t.cur.1) = coreRest (s.core s.cur.1)
    rw [hcur]
    exact (congrArg (fun k : Core => coreRest k) (hc s.cur.1) : _)
  · show (t.core t.cur.1).bank l = (s.core s.cur.1).bank l
    rw [hcur, eb]
  all_goals intros; simp [em]

/-- A count of a core changes nothing else. -/
theorem uncounted_modCore (s : State) (c j : Nat) (f : Core → Core) (h : ∀ k, uncounted (f k) = uncounted k) :
    uncounted ((s.modCore c f).core j) = uncounted (s.core j) := by
  by_cases e : j = c
  · subst e
    rw [core_modCore, h]
  · rw [core_modCore_ne _ _ _ _ e]

/-- The machine but for corrected symbols and their counts. -/
def SameButCounts (s t : State) : Prop := stateRest t = stateRest s ∧ ∀ c, uncounted (t.core c) = uncounted (s.core c)

theorem scrubWord_same (s : State) (k a : Nat) : SameButCounts s (s.scrubWord k a) := by
  unfold State.scrubWord
  split
  · exact ⟨rfl, fun _ => uncounted_modCore _ _ _ _ fun _ => rfl⟩
  · exact ⟨rfl, fun _ => rfl⟩

/-- A read that corrects symbols leaves everything else alone. -/
theorem scrub_same (s : State) (k a n : Nat) : SameButCounts s (s.scrub k a n) := by
  have h : ∀ (l : List Nat) (s : State), SameButCounts s (l.foldl (fun t w => t.scrubWord k w) s) := by
    intro l
    induction l with
    | nil => exact fun s => ⟨rfl, fun _ => rfl⟩
    | cons b r ih =>
      intro s
      have h1 := scrubWord_same s k b
      have h2 := ih (s.scrubWord k b)
      exact ⟨h2.1.trans h1.1, fun c => (h2.2 c).trans (h1.2 c)⟩
  unfold State.scrub
  split
  · exact ⟨rfl, fun _ => rfl⟩
  · exact h _ s

theorem regWork_scrub (w : Targets) (s : State) (k a n : Nat) : RegWork w s (s.scrub k a n) :=
  regWork_counts w s _ (scrub_same s k a n).1 (scrub_same s k a n).2

/-! ### One lemma per operation -/

section Operations
variable (w : Targets)

theorem rw_modHere (f : Core → Core) (h1 : ∀ k, coreRest (f k) = coreRest k) (h2 : ∀ k, (f k).ctx = k.ctx) :
    Within (RegWork w) (modHere f) := fun s => regWork_modCore w s f (h1 _) (h2 _)

theorem rw_popFlits (dir n : Nat) : Within (RegWork w) (popFlits dir n) := by
  unfold popFlits
  refine within_seen fun s => within_ite (fun _ => ?_) fun _ => ?_
  · exact within_bind (regWork_chain w) (rw_modHere w _ (fun _ => rfl) fun _ => rfl) fun _ => within_pure (regWork_chain w) _
  · exact within_ite (fun _ => within_throw (regWork_chain w) _) fun _ => within_raiseTree (regWork_chain w) _ _ _

theorem rw_pushFlits (dir : Nat) (data : List (BitVec 512)) (vtag : Option Tag) : Within (RegWork w) (pushFlits dir data vtag) := by
  unfold pushFlits
  refine within_seen fun s => ?_
  split
  · exact within_raiseTree (regWork_chain w) _ _ _
  · exact within_ite (fun _ => rw_modHere w _ (fun _ => rfl) fun _ => rfl) fun _ => within_throw (regWork_chain w) _

theorem rw_readReady (d : Dest) : Within (RegWork w) (readReady d) := by
  unfold readReady
  refine within_seen fun s => ?_
  split
  · exact within_pure (regWork_chain w) _
  · split
    · exact within_throw (regWork_chain w) _
    · split
      · exact within_raise (regWork_chain w) _ _
      · exact within_pure (regWork_chain w) _

theorem rw_writeReady (d : Dest) : Within (RegWork w) (writeReady d) := by
  unfold writeReady
  refine within_seen fun s => ?_
  split
  · exact within_pure (regWork_chain w) _
  · exact within_throw (regWork_chain w) _

theorem rw_freshId : Within (RegWork w) freshId := by
  intro s
  exact regWork_counters w s _ rfl rfl

theorem rw_readS (r : BitVec 5) : Within (RegWork w) (readS r) := by
  unfold readS
  refine within_ite (fun _ => ?_) fun _ => ?_
  · refine within_bind (regWork_chain w) (rw_readReady w _) fun _ => within_seen fun s => ?_
    simp only
    split
    · refine within_ite (fun _ => within_bind (regWork_chain w) ?_ fun _ => within_pure (regWork_chain w) _) fun _ =>
        within_throw (regWork_chain w) _
      exact fun s => regWork_modCtx w s _ rfl (fun _ _ => rfl) (fun _ _ => rfl) (fun _ _ => rfl) ⟨[], by simp, by simp⟩
    · exact within_pure (regWork_chain w) _
  · exact within_bind (regWork_chain w) (rw_popFlits w _ _) fun _ => within_pure (regWork_chain w) _

theorem rw_readV (r : BitVec 5) : Within (RegWork w) (readV r) := by
  unfold readV
  refine within_ite (fun _ => ?_) fun _ => ?_
  · exact within_bind (regWork_chain w) (rw_readReady w _) fun _ => within_seen fun s => within_pure (regWork_chain w) _
  · exact within_bind (regWork_chain w) (rw_popFlits w _ _) fun _ => within_pure (regWork_chain w) _

theorem rw_readP (r : Nat) : Within (RegWork w) (readP r) := by
  unfold readP
  refine within_ite (fun _ => within_pure (regWork_chain w) _) fun _ => ?_
  exact within_bind (regWork_chain w) (rw_readReady w _) fun _ => within_seen fun s => within_pure (regWork_chain w) _

theorem sreg_setSreg_ne (x : Ctx) (r j : Nat) (v : Word) (h : j ≠ r) : (x.setSreg r v).sreg j = x.sreg j := by
  unfold Ctx.setSreg
  split
  · rfl
  · simp only [Ctx.sreg]
    rw [getD_set_ne _ _ _ _ _ h]

theorem rw_writeS (d : BitVec 5) (v : Word) : Within (RegWork { w with scalar := some d }) (writeS d v) := by
  unfold writeS
  refine within_ite (fun _ => within_ite (fun _ => within_pure (regWork_chain _) _) fun h0 => ?_) fun _ => rw_pushFlits _ _ _ _
  refine within_bind (regWork_chain _) (rw_writeReady _ _) fun _ => ?_
  intro s
  refine regWork_modCtx { w with scalar := some d } s _ ?_ ?_ ?_ ?_ ⟨[], ?_, by simp⟩
  · simp [bankRest, Ctx.setSreg, h0]
  · intro r hr
    have : r.toNat ≠ d.toNat := fun e => hr (congrArg some (BitVec.eq_of_toNat_eq e))
    have := sreg_setSreg_ne s.me d.toNat r.toNat v this
    simpa [Ctx.sreg, Ctx.setSreg, h0] using this
  · intro r _
    simp [Ctx.setSreg, h0, Ctx.vreg]
  · intro r _
    simp [Ctx.setSreg, h0, Ctx.preg]
  · simp [Ctx.setSreg, h0]

theorem rw_addPend (d : Dest) (v : BitVec 2048) (t : Tag) (ready : Option Nat) (n : Nat) (h : ∀ q : Pend, q.dest = d → Aims w q) :
    Within (RegWork w) (addPend d v t ready n) := by
  unfold addPend
  refine within_bind (regWork_chain w) (rw_writeReady w _) fun _ => within_bind (regWork_chain w) (rw_freshId w) fun i => ?_
  refine within_bind (regWork_chain w) (fun s => ?_) fun _ => within_pure (regWork_chain w) _
  refine regWork_modCtx w s _ rfl (fun _ _ => rfl) (fun _ _ => rfl) (fun _ _ => rfl) ⟨_, rfl, ?_⟩
  intro q hq
  rw [List.mem_singleton] at hq
  subst hq
  exact h _ rfl

theorem rw_writeSL (d : BitVec 5) (v : Word) (lat : Nat) : Within (RegWork { w with scalar := some d }) (writeSL d v lat) := by
  unfold writeSL
  refine within_ite (fun _ => rw_writeS w d v) fun _ => within_seen fun s => ?_
  refine within_bind (regWork_chain _) (rw_addPend _ _ _ _ _ _ ?_) fun _ => within_pure (regWork_chain _) _
  intro q hq
  simp only [Aims, hq]
  exact ⟨d, rfl, rfl⟩

theorem rw_linkExists (d : BitVec 5) : Within (RegWork w) (linkExists d) := by
  unfold linkExists
  refine within_seen fun s => within_ite (fun _ => within_raiseTree (regWork_chain w) _ _ _) fun _ => within_pure (regWork_chain w) _

theorem rw_deferS (d : BitVec 5) (v : Word) (n : Nat) : Within (RegWork { w with scalar := some d }) (deferS d v n) := by
  unfold deferS
  refine within_ite (fun _ => within_pure (regWork_chain _) _) fun _ => ?_
  refine within_bind (regWork_chain _) (rw_linkExists _ d) fun _ => rw_addPend _ _ _ _ _ _ ?_
  intro q hq
  simp only [Aims, hq]
  exact ⟨d, rfl, rfl⟩

theorem rw_deferV (d : BitVec 5) (v : VReg) (n : Nat) (h : d ∈ w.vectors) : Within (RegWork w) (deferV d v n) := by
  unfold deferV
  refine within_bind (regWork_chain _) (rw_linkExists _ d) fun _ => rw_addPend _ _ _ _ _ _ ?_
  intro q hq
  simp only [Aims, hq]
  exact ⟨d, h, rfl⟩

theorem rw_writeVL (d : BitVec 5) (v : VReg) (lat : Nat) (h : d ∈ w.vectors) : Within (RegWork w) (writeVL d v lat) := by
  unfold writeVL
  refine within_ite (fun _ => within_ite (fun _ => ?_) fun _ => within_seen fun s => ?_) fun _ => rw_pushFlits _ _ _ _
  · refine within_bind (regWork_chain w) (rw_writeReady w _) fun _ => ?_
    intro s
    refine regWork_modCtx w s _ rfl (fun _ _ => rfl) ?_ (fun _ _ => rfl) ⟨[], by simp [Ctx.setVreg], by simp⟩
    intro r hr
    have : r.toNat ≠ d.toNat := fun e => hr (BitVec.eq_of_toNat_eq e ▸ h)
    simp only [Ctx.vreg, Ctx.setVreg]
    rw [getD_set_ne _ _ _ _ _ this]
  · refine within_bind (regWork_chain w) (rw_addPend _ _ _ _ _ _ ?_) fun _ => within_pure (regWork_chain w) _
    intro q hq
    simp only [Aims, hq]
    exact ⟨d, h, rfl⟩

theorem rw_oldV (d : BitVec 5) : Within (RegWork w) (oldV d) := by
  intro s
  unfold oldV
  by_cases h : d.toNat < 28
  · simp only [get_bind, if_pos h]
    exact (regWork_chain w).refl s
  · simp only [get_bind, if_neg h]
    exact regWork_counters w s _ rfl rfl

theorem rw_writePL (r : Nat) (v : BitVec 256) (lat : Nat) (h : w.predicate = some r) : Within (RegWork w) (writePL r v lat) := by
  unfold writePL
  refine within_ite (fun _ => within_pure (regWork_chain w) _) fun _ => within_seen fun s => ?_
  refine within_bind (regWork_chain w) (rw_addPend _ _ _ _ _ _ ?_) fun _ => within_pure (regWork_chain w) _
  intro q hq
  simp only [Aims, hq]
  exact h

theorem rw_guardP (p : BitVec 3) (body : M Unit) (h : Within (RegWork w) body) : Within (RegWork w) (guardP p body) := by
  unfold guardP
  exact within_bind (regWork_chain w) (rw_readP w _) fun _ => within_ite (fun _ => h) fun _ => within_pure (regWork_chain w) _

theorem rw_notPoison (t : Tag) : Within (RegWork w) (notPoison t) := by
  unfold notPoison
  exact within_ite (fun _ => within_seen fun _ => within_raise (regWork_chain w) _ _) fun _ => within_pure (regWork_chain w) _

theorem rw_raiseFormat {α : Type} (a b : Nat) : Within (RegWork w) (raiseFormat a b : M α) := within_raise (regWork_chain w) _ _

theorem rw_checkTarget (t : Int) : Within (RegWork w) (checkTarget t) := by
  unfold checkTarget
  exact within_ite (fun _ => within_raise (regWork_chain w) _ _) fun _ =>
    within_ite (fun _ => within_raise (regWork_chain w) _ _) fun _ => within_pure (regWork_chain w) _

theorem rw_noteGuard (store : Bool) (a : Nat) : Within (RegWork w) (noteGuard store a) := by
  unfold noteGuard
  exact within_seen fun _ => rw_modHere w _ (fun _ => rfl) fun _ => rfl

theorem rw_freshBits : Within (RegWork w) freshBits := by
  intro s
  exact regWork_counters w s _ rfl rfl

theorem rw_blur (x mask : Nat) : Within (RegWork w) (blur x mask) := by
  unfold blur
  exact within_ite (fun _ => within_pure (regWork_chain w) _) fun _ =>
    within_bind (regWork_chain w) (rw_freshBits w) fun _ => within_pure (regWork_chain w) _

theorem rw_checkRange (A : Word) (n align : Nat) (store : Bool) : Within (RegWork w) (checkRange A n align store) := by
  unfold checkRange
  have r : ∀ c v, Within (RegWork w) (raise c v : M Nat) := fun _ _ => within_raise (regWork_chain w) _ _
  refine within_seen fun s => within_ite (fun _ => r _ _) fun _ => within_ite (fun _ => r _ _) fun _ => within_ite (fun _ => r _ _) fun _ =>
    within_ite (fun _ => r _ _) fun _ => within_ite (fun _ => r _ _) fun _ => ?_
  split
  · exact within_throw (regWork_chain w) _
  · exact within_pure (regWork_chain w) _

theorem rw_checkLocal (A : Word) (n align : Nat) (store : Bool) : Within (RegWork w) (checkLocal A n align store) := by
  unfold checkLocal afterOwnAmo
  exact within_bind (regWork_chain w) (rw_checkRange w _ _ _ _) fun _ => within_bind (regWork_chain w)
    (within_seen fun _ => within_ite (fun _ => within_throw (regWork_chain w) _) fun _ => within_pure (regWork_chain w) _) fun _ =>
    within_pure (regWork_chain w) _

theorem rw_scalarLoad (a n : Nat) : Within (RegWork w) (scalarLoad a n) := by
  unfold scalarLoad
  refine within_get_bind fun s => ?_
  by_cases h1 : s.guarded (clusterOf s.cur.1) a = true
  · rw [if_pos h1]
    exact within_bind (regWork_chain w) (rw_noteGuard w _ _) (fun _ => within_pure (regWork_chain w) _) s
  · rw [if_neg h1]
    by_cases h2 : s.badLocal (clusterOf s.cur.1) a n = true
    · rw [if_pos h2]
      exact within_throw (regWork_chain w) _ s
    · rw [if_neg h2]
      exact regWork_scrub w s _ _ _

theorem rw_releasePoint : Within (RegWork w) releasePoint := by
  unfold releasePoint
  exact within_seen fun s => within_ite (fun _ => within_pure (regWork_chain w) _) fun _ => within_throw (regWork_chain w) _

end Operations

end Sys2Proof.Laws
end

