-- ==== Sys2Proof/Laws/PerInstr.lean ====
section
/-! SUPPORT. Statements made per instruction. Family RoundTrip: the bytes that the encoder gives for a well-formed instruction decode
to it, with every operand at every value (R50 to R60), whatever bytes follow. -/
namespace Sys2Proof.Laws.RoundTrip
set_option Elab.async false
set_option linter.unusedSimpArgs false
open Sys2Proof Decode

/-- Decoding the encoding of a well-formed encoded instruction gives it back, and the bytes after it. -/
def Statement (i : Instr) : Prop := i.wf = true → i.encoded = true → ∀ r, decode (encode i ++ r) = .ok (i, r)

/-! ### Words and bytes -/

theorem leNat_two (w : Nat) (h : w < 2 ^ 16) : leNat [BitVec.ofNat 8 w, BitVec.ofNat 8 (w / 256)] = w := by
  simp [leNat]; omega

theorem leNat_four (w : Nat) (h : w < 2 ^ 32) :
    leNat [BitVec.ofNat 8 w, BitVec.ofNat 8 (w / 256), BitVec.ofNat 8 (w / 256 / 256), BitVec.ofNat 8 (w / 256 / 256 / 256)] = w := by
  simp [leNat]; omega

/-- A 32-bit instruction round-trips when its word is odd, fits, and decodes to it. -/
theorem of_long {i : Instr} (hl : i.len = 4) (hw : i.word < 2 ^ 32) (ho : i.word % 2 = 1)
    (h : i.wf = true → decode32 i.word = .ok i) : Statement i := by
  intro wf _ r
  have e : encode i ++ r = BitVec.ofNat 8 i.word :: BitVec.ofNat 8 (i.word / 256) :: BitVec.ofNat 8 (i.word / 256 / 256)
      :: BitVec.ofNat 8 (i.word / 256 / 256 / 256) :: r := by simp [encode, hl, leBytes]
  have b : (BitVec.ofNat 8 i.word).toNat % 2 = 1 := by simp; omega
  have d : decodeBits i.word = .ok i := by
    rw [decodeBits, ho, Nat.mod_eq_of_lt hw, h wf]; simp [restrict, wf]
  rw [e]
  simp only [decode, b, leNat_four _ hw, d]
  rfl

/-- A 16-bit instruction round-trips when its word is even, fits, and decodes to it. -/
theorem of_short {i : Instr} (hl : i.len = 2) (hw : i.word < 2 ^ 16) (ho : i.word % 2 = 0)
    (h : i.wf = true → decode16 i.word = .ok i) : Statement i := by
  intro wf _ r
  have e : encode i ++ r = BitVec.ofNat 8 i.word :: BitVec.ofNat 8 (i.word / 256) :: r := by simp [encode, hl, leBytes]
  have b : (BitVec.ofNat 8 i.word).toNat % 2 = 0 := by simp; omega
  have d : decodeBits i.word = .ok i := by
    rw [decodeBits, ho, Nat.mod_eq_of_lt hw, h wf]; simp [restrict, wf]
  rw [e]
  simp only [decode, b, leNat_two _ hw, d]
  rfl

/-- An event has no encoding. -/
theorem of_event {i : Instr} (h : i.encoded = false) : Statement i := by
  intro _ e; rw [h] at e; cases e

/-- A field of a word is the register or immediate whose value stands there. -/
theorem bits_eq {w lo n : Nat} (x : BitVec n) (h : w / 2 ^ lo % 2 ^ n = x.toNat) : bits w lo n = x := by
  apply BitVec.eq_of_toNat_eq; simpa [bits] using h

/-- Majors 0x20 to 0x23 share their table: bits 5:4 are the rounding mode (R268). -/
theorem decode32_rounded {w : Nat} (h : fld w 6 4 = 8) : decode32 w = major20 w := by
  have k : fld w 4 6 = 32 ∨ fld w 4 6 = 33 ∨ fld w 4 6 = 34 ∨ fld w 4 6 = 35 := by simp only [fld] at *; omega
  rcases k with k | k | k | k <;> simp only [decode32, k]

/-! ### Words as chunks: values with their widths, lowest first -/

/-- The number that chunks make. -/
def comb : List (Nat × Nat) → Nat
  | [] => 0
  | (x, n) :: r => x + 2 ^ n * comb r

/-- Every value fits its width. -/
def Fits : List (Nat × Nat) → Prop
  | [] => True
  | (x, n) :: r => x < 2 ^ n ∧ Fits r

/-- How wide chunks are together. -/
def width : List (Nat × Nat) → Nat
  | [] => 0
  | (_, n) :: r => n + width r

/-- Every chunk of a word stands at its place, the first at bit lo. -/
def Placed (w : Nat) : Nat → List (Nat × Nat) → Prop
  | _, [] => True
  | lo, (x, n) :: r => fld w lo n = x ∧ Placed w (lo + n) r

/-- The chunks of a number stand at their places, below anything that fits its own. -/
theorem placed_above : ∀ (l : List (Nat × Nat)) (lo v : Nat), Fits l → v < 2 ^ lo → Placed (v + 2 ^ lo * comb l) lo l
  | [], _, _, _, _ => trivial
  | (x, n) :: r, lo, v, h, hv => by
    constructor
    · simp only [fld, comb]
      rw [Nat.add_mul_div_left _ _ (Nat.two_pow_pos lo), Nat.div_eq_of_lt hv, Nat.zero_add, Nat.add_mul_mod_self_left]
      exact Nat.mod_eq_of_lt h.1
    · have e : v + 2 ^ lo * comb ((x, n) :: r) = v + 2 ^ lo * x + 2 ^ (lo + n) * comb r := by
        simp only [comb, Nat.pow_add, Nat.mul_add, Nat.mul_assoc, Nat.add_assoc]
      have p := h.1
      rw [e]
      refine placed_above r _ _ h.2 ?_
      calc v + 2 ^ lo * x < 2 ^ lo + 2 ^ lo * x := by omega
        _ = 2 ^ lo * (x + 1) := by ring
        _ ≤ 2 ^ (lo + n) := by rw [Nat.pow_add]; exact Nat.mul_le_mul_left _ p

theorem placed {l : List (Nat × Nat)} (h : Fits l) : Placed (comb l) 0 l := by
  simpa using placed_above l 0 0 h (by decide)

/-- How large a number of chunks is. -/
theorem comb_lt : ∀ l : List (Nat × Nat), Fits l → comb l < 2 ^ width l
  | [], _ => by simp [comb, width]
  | (x, n) :: r, h => by
    have e := comb_lt r h.2
    simp only [comb, width, Nat.pow_add]
    have p := h.1
    calc x + 2 ^ n * comb r < 2 ^ n + 2 ^ n * comb r := by omega
      _ = 2 ^ n * (comb r + 1) := by ring
      _ ≤ 2 ^ n * 2 ^ width r := Nat.mul_le_mul_left _ e

/-- A register or immediate is the field that holds its value. -/
theorem bits_fld (w lo n : Nat) : bits w lo n = BitVec.ofNat n (fld w lo n) := by
  apply BitVec.eq_of_toNat_eq; simp [bits, fld]

/-- A 32-bit instruction round-trips when its word is made of fields and fixed parts that fill 32 bits, the lowest 1, from which its
table gives it back. -/
theorem long {i : Instr} {r : List (Nat × Nat)} (hl : i.len = 4) (hw : i.word = comb ((1, 1) :: r)) (fit : Fits r)
    (hn : width r = 31) (h : i.wf = true → Placed i.word 1 r → decode32 i.word = .ok i) : Statement i := by
  have f : Fits ((1, 1) :: r) := ⟨by decide, fit⟩
  have p := placed f
  rw [← hw] at p
  have l := comb_lt _ f
  rw [← hw, width, hn] at l
  have o := p.1
  simp only [fld, pow_zero, Nat.div_one, pow_one] at o
  exact of_long hl l o fun wf => h wf p.2

/-- The same for a 16-bit instruction, the lowest bit 0. -/
theorem short {i : Instr} {r : List (Nat × Nat)} (hl : i.len = 2) (hw : i.word = comb ((0, 1) :: r)) (fit : Fits r)
    (hn : width r = 15) (h : i.wf = true → Placed i.word 1 r → decode16 i.word = .ok i) : Statement i := by
  have f : Fits ((0, 1) :: r) := ⟨by decide, fit⟩
  have p := placed f
  rw [← hw] at p
  have l := comb_lt _ f
  rw [← hw, width, hn] at l
  have o := p.1
  simp only [fld, pow_zero, Nat.div_one, pow_one] at o
  exact of_short hl l o fun wf => h wf p.2

/-! ### One lemma per constructor -/

theorem add (p : BitVec 3) (d a b : BitVec 5) (sc : BitVec 3) : Statement (Instr.add p d a b sc) :=
  long (r := [(sc.toNat, 3), (0, 6), (d.toNat, 5), (a.toNat, 5), (b.toNat, 5), (p.toNat, 3), (0, 4)]) rfl
    (by simp only [comb]; omega : 0x1 + p.toNat * 0x2000000 + d.toNat * 0x400 + a.toNat * 0x8000 + b.toNat * 0x100000 + sc.toNat * 0x2 = _) ⟨sc.isLt, (by decide), d.isLt, a.isLt, b.isLt, p.isLt, (by decide), trivial⟩ rfl fun wf h => by
    simp only [Placed, Nat.reduceAdd] at h
    simp only [decode32, major00, must, h, bits_fld, BitVec.ofNat_toNat, BitVec.setWidth_eq, reduceIte, and_self]

theorem sub (p : BitVec 3) (d a b : BitVec 5) (sc : BitVec 3) : Statement (Instr.sub p d a b sc) :=
  long (r := [(sc.toNat, 3), (0, 6), (d.toNat, 5), (a.toNat, 5), (b.toNat, 5), (p.toNat, 3), (1, 4)]) rfl
    (by simp only [comb]; omega : 0x10000001 + p.toNat * 0x2000000 + d.toNat * 0x400 + a.toNat * 0x8000 + b.toNat * 0x100000 + sc.toNat * 0x2 = _) ⟨sc.isLt, (by decide), d.isLt, a.isLt, b.isLt, p.isLt, (by decide), trivial⟩ rfl fun wf h => by
    simp only [Placed, Nat.reduceAdd] at h
    simp only [decode32, major00, must, h, bits_fld, BitVec.ofNat_toNat, BitVec.setWidth_eq, reduceIte, and_self]

theorem mul (p : BitVec 3) (d a b : BitVec 5) (sc : BitVec 3) : Statement (Instr.mul p d a b sc) :=
  long (r := [(sc.toNat, 3), (0, 6), (d.toNat, 5), (a.toNat, 5), (b.toNat, 5), (p.toNat, 3), (2, 4)]) rfl
    (by simp only [comb]; omega : 0x20000001 + p.toNat * 0x2000000 + d.toNat * 0x400 + a.toNat * 0x8000 + b.toNat * 0x100000 + sc.toNat * 0x2 = _) ⟨sc.isLt, (by decide), d.isLt, a.isLt, b.isLt, p.isLt, (by decide), trivial⟩ rfl fun wf h => by
    simp only [Placed, Nat.reduceAdd] at h
    simp only [decode32, major00, must, h, bits_fld, BitVec.ofNat_toNat, BitVec.setWidth_eq, reduceIte, and_self]

theorem mulh (p : BitVec 3) (d a b : BitVec 5) (sc : BitVec 3) : Statement (Instr.mulh p d a b sc) :=
  long (r := [(sc.toNat, 3), (0, 6), (d.toNat, 5), (a.toNat, 5), (b.toNat, 5), (p.toNat, 3), (3, 4)]) rfl
    (by simp only [comb]; omega : 0x30000001 + p.toNat * 0x2000000 + d.toNat * 0x400 + a.toNat * 0x8000 + b.toNat * 0x100000 + sc.toNat * 0x2 = _) ⟨sc.isLt, (by decide), d.isLt, a.isLt, b.isLt, p.isLt, (by decide), trivial⟩ rfl fun wf h => by
    simp only [Placed, Nat.reduceAdd] at h
    simp only [decode32, major00, must, h, bits_fld, BitVec.ofNat_toNat, BitVec.setWidth_eq, reduceIte, and_self]

theorem mulhN (p : BitVec 3) (d a b : BitVec 5) (sc : BitVec 3) : Statement (Instr.mulhN p d a b sc) :=
  long (r := [(sc.toNat, 3), (0, 6), (d.toNat, 5), (a.toNat, 5), (b.toNat, 5), (p.toNat, 3), (4, 4)]) rfl
    (by simp only [comb]; omega : 0x40000001 + p.toNat * 0x2000000 + d.toNat * 0x400 + a.toNat * 0x8000 + b.toNat * 0x100000 + sc.toNat * 0x2 = _) ⟨sc.isLt, (by decide), d.isLt, a.isLt, b.isLt, p.isLt, (by decide), trivial⟩ rfl fun wf h => by
    simp only [Placed, Nat.reduceAdd] at h
    simp only [decode32, major00, must, h, bits_fld, BitVec.ofNat_toNat, BitVec.setWidth_eq, reduceIte, and_self]

theorem div (p : BitVec 3) (d a b : BitVec 5) (sc : BitVec 3) : Statement (Instr.div p d a b sc) :=
  long (r := [(sc.toNat, 3), (0, 6), (d.toNat, 5), (a.toNat, 5), (b.toNat, 5), (p.toNat, 3), (5, 4)]) rfl
    (by simp only [comb]; omega : 0x50000001 + p.toNat * 0x2000000 + d.toNat * 0x400 + a.toNat * 0x8000 + b.toNat * 0x100000 + sc.toNat * 0x2 = _) ⟨sc.isLt, (by decide), d.isLt, a.isLt, b.isLt, p.isLt, (by decide), trivial⟩ rfl fun wf h => by
    simp only [Placed, Nat.reduceAdd] at h
    simp only [decode32, major00, must, h, bits_fld, BitVec.ofNat_toNat, BitVec.setWidth_eq, reduceIte, and_self]

theorem divN (p : BitVec 3) (d a b : BitVec 5) (sc : BitVec 3) : Statement (Instr.divN p d a b sc) :=
  long (r := [(sc.toNat, 3), (0, 6), (d.toNat, 5), (a.toNat, 5), (b.toNat, 5), (p.toNat, 3), (6, 4)]) rfl
    (by simp only [comb]; omega : 0x60000001 + p.toNat * 0x2000000 + d.toNat * 0x400 + a.toNat * 0x8000 + b.toNat * 0x100000 + sc.toNat * 0x2 = _) ⟨sc.isLt, (by decide), d.isLt, a.isLt, b.isLt, p.isLt, (by decide), trivial⟩ rfl fun wf h => by
    simp only [Placed, Nat.reduceAdd] at h
    simp only [decode32, major00, must, h, bits_fld, BitVec.ofNat_toNat, BitVec.setWidth_eq, reduceIte, and_self]

theorem rem (p : BitVec 3) (d a b : BitVec 5) (sc : BitVec 3) : Statement (Instr.rem p d a b sc) :=
  long (r := [(sc.toNat, 3), (0, 6), (d.toNat, 5), (a.toNat, 5), (b.toNat, 5), (p.toNat, 3), (7, 4)]) rfl
    (by simp only [comb]; omega : 0x70000001 + p.toNat * 0x2000000 + d.toNat * 0x400 + a.toNat * 0x8000 + b.toNat * 0x100000 + sc.toNat * 0x2 = _) ⟨sc.isLt, (by decide), d.isLt, a.isLt, b.isLt, p.isLt, (by decide), trivial⟩ rfl fun wf h => by
    simp only [Placed, Nat.reduceAdd] at h
    simp only [decode32, major00, must, h, bits_fld, BitVec.ofNat_toNat, BitVec.setWidth_eq, reduceIte, and_self]

theorem remN (p : BitVec 3) (d a b : BitVec 5) (sc : BitVec 3) : Statement (Instr.remN p d a b sc) :=
  long (r := [(sc.toNat, 3), (0, 6), (d.toNat, 5), (a.toNat, 5), (b.toNat, 5), (p.toNat, 3), (8, 4)]) rfl
    (by simp only [comb]; omega : 0x80000001 + p.toNat * 0x2000000 + d.toNat * 0x400 + a.toNat * 0x8000 + b.toNat * 0x100000 + sc.toNat * 0x2 = _) ⟨sc.isLt, (by decide), d.isLt, a.isLt, b.isLt, p.isLt, (by decide), trivial⟩ rfl fun wf h => by
    simp only [Placed, Nat.reduceAdd] at h
    simp only [decode32, major00, must, h, bits_fld, BitVec.ofNat_toNat, BitVec.setWidth_eq, reduceIte, and_self]

theorem and (p : BitVec 3) (d a b : BitVec 5) (sc : BitVec 3) : Statement (Instr.and p d a b sc) :=
  long (r := [(sc.toNat, 3), (0, 6), (d.toNat, 5), (a.toNat, 5), (b.toNat, 5), (p.toNat, 3), (9, 4)]) rfl
    (by simp only [comb]; omega : 0x90000001 + p.toNat * 0x2000000 + d.toNat * 0x400 + a.toNat * 0x8000 + b.toNat * 0x100000 + sc.toNat * 0x2 = _) ⟨sc.isLt, (by decide), d.isLt, a.isLt, b.isLt, p.isLt, (by decide), trivial⟩ rfl fun wf h => by
    simp only [Placed, Nat.reduceAdd] at h
    simp only [decode32, major00, must, h, bits_fld, BitVec.ofNat_toNat, BitVec.setWidth_eq, reduceIte, and_self]

theorem or (p : BitVec 3) (d a b : BitVec 5) (sc : BitVec 3) : Statement (Instr.or p d a b sc) :=
  long (r := [(sc.toNat, 3), (0, 6), (d.toNat, 5), (a.toNat, 5), (b.toNat, 5), (p.toNat, 3), (10, 4)]) rfl
    (by simp only [comb]; omega : 0xa0000001 + p.toNat * 0x2000000 + d.toNat * 0x400 + a.toNat * 0x8000 + b.toNat * 0x100000 + sc.toNat * 0x2 = _) ⟨sc.isLt, (by decide), d.isLt, a.isLt, b.isLt, p.isLt, (by decide), trivial⟩ rfl fun wf h => by
    simp only [Placed, Nat.reduceAdd] at h
    simp only [decode32, major00, must, h, bits_fld, BitVec.ofNat_toNat, BitVec.setWidth_eq, reduceIte, and_self]

theorem xor (p : BitVec 3) (d a b : BitVec 5) (sc : BitVec 3) : Statement (Instr.xor p d a b sc) :=
  long (r := [(sc.toNat, 3), (0, 6), (d.toNat, 5), (a.toNat, 5), (b.toNat, 5), (p.toNat, 3), (11, 4)]) rfl
    (by simp only [comb]; omega : 0xb0000001 + p.toNat * 0x2000000 + d.toNat * 0x400 + a.toNat * 0x8000 + b.toNat * 0x100000 + sc.toNat * 0x2 = _) ⟨sc.isLt, (by decide), d.isLt, a.isLt, b.isLt, p.isLt, (by decide), trivial⟩ rfl fun wf h => by
    simp only [Placed, Nat.reduceAdd] at h
    simp only [decode32, major00, must, h, bits_fld, BitVec.ofNat_toNat, BitVec.setWidth_eq, reduceIte, and_self]

theorem andn (p : BitVec 3) (d a b : BitVec 5) (sc : BitVec 3) : Statement (Instr.andn p d a b sc) :=
  long (r := [(sc.toNat, 3), (0, 6), (d.toNat, 5), (a.toNat, 5), (b.toNat, 5), (p.toNat, 3), (12, 4)]) rfl
    (by simp only [comb]; omega : 0xc0000001 + p.toNat * 0x2000000 + d.toNat * 0x400 + a.toNat * 0x8000 + b.toNat * 0x100000 + sc.toNat * 0x2 = _) ⟨sc.isLt, (by decide), d.isLt, a.isLt, b.isLt, p.isLt, (by decide), trivial⟩ rfl fun wf h => by
    simp only [Placed, Nat.reduceAdd] at h
    simp only [decode32, major00, must, h, bits_fld, BitVec.ofNat_toNat, BitVec.setWidth_eq, reduceIte, and_self]

theorem min (p : BitVec 3) (d a b : BitVec 5) (sc : BitVec 3) : Statement (Instr.min p d a b sc) :=
  long (r := [(sc.toNat, 3), (0, 6), (d.toNat, 5), (a.toNat, 5), (b.toNat, 5), (p.toNat, 3), (13, 4)]) rfl
    (by simp only [comb]; omega : 0xd0000001 + p.toNat * 0x2000000 + d.toNat * 0x400 + a.toNat * 0x8000 + b.toNat * 0x100000 + sc.toNat * 0x2 = _) ⟨sc.isLt, (by decide), d.isLt, a.isLt, b.isLt, p.isLt, (by decide), trivial⟩ rfl fun wf h => by
    simp only [Placed, Nat.reduceAdd] at h
    simp only [decode32, major00, must, h, bits_fld, BitVec.ofNat_toNat, BitVec.setWidth_eq, reduceIte, and_self]

theorem max (p : BitVec 3) (d a b : BitVec 5) (sc : BitVec 3) : Statement (Instr.max p d a b sc) :=
  long (r := [(sc.toNat, 3), (0, 6), (d.toNat, 5), (a.toNat, 5), (b.toNat, 5), (p.toNat, 3), (14, 4)]) rfl
    (by simp only [comb]; omega : 0xe0000001 + p.toNat * 0x2000000 + d.toNat * 0x400 + a.toNat * 0x8000 + b.toNat * 0x100000 + sc.toNat * 0x2 = _) ⟨sc.isLt, (by decide), d.isLt, a.isLt, b.isLt, p.isLt, (by decide), trivial⟩ rfl fun wf h => by
    simp only [Placed, Nat.reduceAdd] at h
    simp only [decode32, major00, must, h, bits_fld, BitVec.ofNat_toNat, BitVec.setWidth_eq, reduceIte, and_self]

theorem minN (p : BitVec 3) (d a b : BitVec 5) (sc : BitVec 3) : Statement (Instr.minN p d a b sc) :=
  long (r := [(sc.toNat, 3), (1, 6), (d.toNat, 5), (a.toNat, 5), (b.toNat, 5), (p.toNat, 3), (0, 4)]) rfl
    (by simp only [comb]; omega : 0x11 + p.toNat * 0x2000000 + d.toNat * 0x400 + a.toNat * 0x8000 + b.toNat * 0x100000 + sc.toNat * 0x2 = _) ⟨sc.isLt, (by decide), d.isLt, a.isLt, b.isLt, p.isLt, (by decide), trivial⟩ rfl fun wf h => by
    simp only [Placed, Nat.reduceAdd] at h
    simp only [decode32, major01, must, h, bits_fld, BitVec.ofNat_toNat, BitVec.setWidth_eq, reduceIte, and_self]

theorem maxN (p : BitVec 3) (d a b : BitVec 5) (sc : BitVec 3) : Statement (Instr.maxN p d a b sc) :=
  long (r := [(sc.toNat, 3), (1, 6), (d.toNat, 5), (a.toNat, 5), (b.toNat, 5), (p.toNat, 3), (1, 4)]) rfl
    (by simp only [comb]; omega : 0x10000011 + p.toNat * 0x2000000 + d.toNat * 0x400 + a.toNat * 0x8000 + b.toNat * 0x100000 + sc.toNat * 0x2 = _) ⟨sc.isLt, (by decide), d.isLt, a.isLt, b.isLt, p.isLt, (by decide), trivial⟩ rfl fun wf h => by
    simp only [Placed, Nat.reduceAdd] at h
    simp only [decode32, major01, must, h, bits_fld, BitVec.ofNat_toNat, BitVec.setWidth_eq, reduceIte, and_self]

theorem shl (p : BitVec 3) (d a b : BitVec 5) (sc : BitVec 3) : Statement (Instr.shl p d a b sc) :=
  long (r := [(sc.toNat, 3), (1, 6), (d.toNat, 5), (a.toNat, 5), (b.toNat, 5), (p.toNat, 3), (2, 4)]) rfl
    (by simp only [comb]; omega : 0x20000011 + p.toNat * 0x2000000 + d.toNat * 0x400 + a.toNat * 0x8000 + b.toNat * 0x100000 + sc.toNat * 0x2 = _) ⟨sc.isLt, (by decide), d.isLt, a.isLt, b.isLt, p.isLt, (by decide), trivial⟩ rfl fun wf h => by
    simp only [Placed, Nat.reduceAdd] at h
    simp only [decode32, major01, must, h, bits_fld, BitVec.ofNat_toNat, BitVec.setWidth_eq, reduceIte, and_self]

theorem shr (p : BitVec 3) (d a b : BitVec 5) (sc : BitVec 3) : Statement (Instr.shr p d a b sc) :=
  long (r := [(sc.toNat, 3), (1, 6), (d.toNat, 5), (a.toNat, 5), (b.toNat, 5), (p.toNat, 3), (3, 4)]) rfl
    (by simp only [comb]; omega : 0x30000011 + p.toNat * 0x2000000 + d.toNat * 0x400 + a.toNat * 0x8000 + b.toNat * 0x100000 + sc.toNat * 0x2 = _) ⟨sc.isLt, (by decide), d.isLt, a.isLt, b.isLt, p.isLt, (by decide), trivial⟩ rfl fun wf h => by
    simp only [Placed, Nat.reduceAdd] at h
    simp only [decode32, major01, must, h, bits_fld, BitVec.ofNat_toNat, BitVec.setWidth_eq, reduceIte, and_self]

theorem sra (p : BitVec 3) (d a b : BitVec 5) (sc : BitVec 3) : Statement (Instr.sra p d a b sc) :=
  long (r := [(sc.toNat, 3), (1, 6), (d.toNat, 5), (a.toNat, 5), (b.toNat, 5), (p.toNat, 3), (4, 4)]) rfl
    (by simp only [comb]; omega : 0x40000011 + p.toNat * 0x2000000 + d.toNat * 0x400 + a.toNat * 0x8000 + b.toNat * 0x100000 + sc.toNat * 0x2 = _) ⟨sc.isLt, (by decide), d.isLt, a.isLt, b.isLt, p.isLt, (by decide), trivial⟩ rfl fun wf h => by
    simp only [Placed, Nat.reduceAdd] at h
    simp only [decode32, major01, must, h, bits_fld, BitVec.ofNat_toNat, BitVec.setWidth_eq, reduceIte, and_self]

theorem rot (p : BitVec 3) (d a b : BitVec 5) (sc : BitVec 3) : Statement (Instr.rot p d a b sc) :=
  long (r := [(sc.toNat, 3), (1, 6), (d.toNat, 5), (a.toNat, 5), (b.toNat, 5), (p.toNat, 3), (5, 4)]) rfl
    (by simp only [comb]; omega : 0x50000011 + p.toNat * 0x2000000 + d.toNat * 0x400 + a.toNat * 0x8000 + b.toNat * 0x100000 + sc.toNat * 0x2 = _) ⟨sc.isLt, (by decide), d.isLt, a.isLt, b.isLt, p.isLt, (by decide), trivial⟩ rfl fun wf h => by
    simp only [Placed, Nat.reduceAdd] at h
    simp only [decode32, major01, must, h, bits_fld, BitVec.ofNat_toNat, BitVec.setWidth_eq, reduceIte, and_self]

theorem clz (p : BitVec 3) (d a : BitVec 5) (sc : BitVec 3) : Statement (Instr.clz p d a sc) :=
  long (r := [(sc.toNat, 3), (1, 6), (d.toNat, 5), (a.toNat, 5), (0, 5), (p.toNat, 3), (6, 4)]) rfl
    (by simp only [comb]; omega : 0x60000011 + p.toNat * 0x2000000 + d.toNat * 0x400 + a.toNat * 0x8000 + sc.toNat * 0x2 = _) ⟨sc.isLt, (by decide), d.isLt, a.isLt, (by decide), p.isLt, (by decide), trivial⟩ rfl fun wf h => by
    simp only [Placed, Nat.reduceAdd] at h
    simp only [decode32, major01, must, h, bits_fld, BitVec.ofNat_toNat, BitVec.setWidth_eq, reduceIte, and_self]

theorem ctz (p : BitVec 3) (d a : BitVec 5) (sc : BitVec 3) : Statement (Instr.ctz p d a sc) :=
  long (r := [(sc.toNat, 3), (1, 6), (d.toNat, 5), (a.toNat, 5), (0, 5), (p.toNat, 3), (7, 4)]) rfl
    (by simp only [comb]; omega : 0x70000011 + p.toNat * 0x2000000 + d.toNat * 0x400 + a.toNat * 0x8000 + sc.toNat * 0x2 = _) ⟨sc.isLt, (by decide), d.isLt, a.isLt, (by decide), p.isLt, (by decide), trivial⟩ rfl fun wf h => by
    simp only [Placed, Nat.reduceAdd] at h
    simp only [decode32, major01, must, h, bits_fld, BitVec.ofNat_toNat, BitVec.setWidth_eq, reduceIte, and_self]

theorem popc (p : BitVec 3) (d a : BitVec 5) (sc : BitVec 3) : Statement (Instr.popc p d a sc) :=
  long (r := [(sc.toNat, 3), (1, 6), (d.toNat, 5), (a.toNat, 5), (0, 5), (p.toNat, 3), (8, 4)]) rfl
    (by simp only [comb]; omega : 0x80000011 + p.toNat * 0x2000000 + d.toNat * 0x400 + a.toNat * 0x8000 + sc.toNat * 0x2 = _) ⟨sc.isLt, (by decide), d.isLt, a.isLt, (by decide), p.isLt, (by decide), trivial⟩ rfl fun wf h => by
    simp only [Placed, Nat.reduceAdd] at h
    simp only [decode32, major01, must, h, bits_fld, BitVec.ofNat_toNat, BitVec.setWidth_eq, reduceIte, and_self]

theorem taz (p : BitVec 3) (d a b : BitVec 5) (sc : BitVec 3) : Statement (Instr.taz p d a b sc) :=
  long (r := [(sc.toNat, 3), (1, 6), (d.toNat, 5), (a.toNat, 5), (b.toNat, 5), (p.toNat, 3), (9, 4)]) rfl
    (by simp only [comb]; omega : 0x90000011 + p.toNat * 0x2000000 + d.toNat * 0x400 + a.toNat * 0x8000 + b.toNat * 0x100000 + sc.toNat * 0x2 = _) ⟨sc.isLt, (by decide), d.isLt, a.isLt, b.isLt, p.isLt, (by decide), trivial⟩ rfl fun wf h => by
    simp only [Placed, Nat.reduceAdd] at h
    simp only [decode32, major01, must, h, bits_fld, BitVec.ofNat_toNat, BitVec.setWidth_eq, reduceIte, and_self]

theorem tax (p : BitVec 3) (d a : BitVec 5) (sc : BitVec 3) : Statement (Instr.tax p d a sc) :=
  long (r := [(sc.toNat, 3), (1, 6), (d.toNat, 5), (a.toNat, 5), (0, 5), (p.toNat, 3), (10, 4)]) rfl
    (by simp only [comb]; omega : 0xa0000011 + p.toNat * 0x2000000 + d.toNat * 0x400 + a.toNat * 0x8000 + sc.toNat * 0x2 = _) ⟨sc.isLt, (by decide), d.isLt, a.isLt, (by decide), p.isLt, (by decide), trivial⟩ rfl fun wf h => by
    simp only [Placed, Nat.reduceAdd] at h
    simp only [decode32, major01, must, h, bits_fld, BitVec.ofNat_toNat, BitVec.setWidth_eq, reduceIte, and_self]

theorem tadepth (p : BitVec 3) (d a : BitVec 5) (sc : BitVec 3) : Statement (Instr.tadepth p d a sc) :=
  long (r := [(sc.toNat, 3), (1, 6), (d.toNat, 5), (a.toNat, 5), (0, 5), (p.toNat, 3), (11, 4)]) rfl
    (by simp only [comb]; omega : 0xb0000011 + p.toNat * 0x2000000 + d.toNat * 0x400 + a.toNat * 0x8000 + sc.toNat * 0x2 = _) ⟨sc.isLt, (by decide), d.isLt, a.isLt, (by decide), p.isLt, (by decide), trivial⟩ rfl fun wf h => by
    simp only [Placed, Nat.reduceAdd] at h
    simp only [decode32, major01, must, h, bits_fld, BitVec.ofNat_toNat, BitVec.setWidth_eq, reduceIte, and_self]

theorem tanb (p : BitVec 3) (d a b : BitVec 5) (sc : BitVec 3) : Statement (Instr.tanb p d a b sc) :=
  long (r := [(sc.toNat, 3), (1, 6), (d.toNat, 5), (a.toNat, 5), (b.toNat, 5), (p.toNat, 3), (12, 4)]) rfl
    (by simp only [comb]; omega : 0xc0000011 + p.toNat * 0x2000000 + d.toNat * 0x400 + a.toNat * 0x8000 + b.toNat * 0x100000 + sc.toNat * 0x2 = _) ⟨sc.isLt, (by decide), d.isLt, a.isLt, b.isLt, p.isLt, (by decide), trivial⟩ rfl fun wf h => by
    simp only [Placed, Nat.reduceAdd] at h
    simp only [decode32, major01, must, h, bits_fld, BitVec.ofNat_toNat, BitVec.setWidth_eq, reduceIte, and_self]

theorem taup (p : BitVec 3) (d a b : BitVec 5) (sc : BitVec 3) : Statement (Instr.taup p d a b sc) :=
  long (r := [(sc.toNat, 3), (1, 6), (d.toNat, 5), (a.toNat, 5), (b.toNat, 5), (p.toNat, 3), (13, 4)]) rfl
    (by simp only [comb]; omega : 0xd0000011 + p.toNat * 0x2000000 + d.toNat * 0x400 + a.toNat * 0x8000 + b.toNat * 0x100000 + sc.toNat * 0x2 = _) ⟨sc.isLt, (by decide), d.isLt, a.isLt, b.isLt, p.isLt, (by decide), trivial⟩ rfl fun wf h => by
    simp only [Placed, Nat.reduceAdd] at h
    simp only [decode32, major01, must, h, bits_fld, BitVec.ofNat_toNat, BitVec.setWidth_eq, reduceIte, and_self]

theorem tadown (p : BitVec 3) (d a b : BitVec 5) (sc : BitVec 3) : Statement (Instr.tadown p d a b sc) :=
  long (r := [(sc.toNat, 3), (1, 6), (d.toNat, 5), (a.toNat, 5), (b.toNat, 5), (p.toNat, 3), (14, 4)]) rfl
    (by simp only [comb]; omega : 0xe0000011 + p.toNat * 0x2000000 + d.toNat * 0x400 + a.toNat * 0x8000 + b.toNat * 0x100000 + sc.toNat * 0x2 = _) ⟨sc.isLt, (by decide), d.isLt, a.isLt, b.isLt, p.isLt, (by decide), trivial⟩ rfl fun wf h => by
    simp only [Placed, Nat.reduceAdd] at h
    simp only [decode32, major01, must, h, bits_fld, BitVec.ofNat_toNat, BitVec.setWidth_eq, reduceIte, and_self]

theorem sel (d a b : BitVec 5) (k sc : BitVec 3) : Statement (Instr.sel d a b k sc) :=
  long (r := [(sc.toNat, 3), (1, 6), (d.toNat, 5), (a.toNat, 5), (b.toNat, 5), (k.toNat, 3), (15, 4)]) rfl
    (by simp only [comb]; omega : 0xf0000011 + d.toNat * 0x400 + a.toNat * 0x8000 + b.toNat * 0x100000 + k.toNat * 0x2000000 + sc.toNat * 0x2 = _) ⟨sc.isLt, (by decide), d.isLt, a.isLt, b.isLt, k.isLt, (by decide), trivial⟩ rfl fun wf h => by
    simp only [Placed, Nat.reduceAdd] at h
    simp only [decode32, major01, must, h, bits_fld, BitVec.ofNat_toNat, BitVec.setWidth_eq, reduceIte, and_self]

theorem cmpEq (p : BitVec 3) (d a b : BitVec 5) (sc : BitVec 3) : Statement (Instr.cmpEq p d a b sc) :=
  long (r := [(sc.toNat, 3), (2, 6), (d.toNat, 5), (a.toNat, 5), (b.toNat, 5), (p.toNat, 3), (0, 4)]) rfl
    (by simp only [comb]; omega : 0x21 + p.toNat * 0x2000000 + d.toNat * 0x400 + a.toNat * 0x8000 + b.toNat * 0x100000 + sc.toNat * 0x2 = _) ⟨sc.isLt, (by decide), d.isLt, a.isLt, b.isLt, p.isLt, (by decide), trivial⟩ rfl fun wf h => by
    simp only [Placed, Nat.reduceAdd] at h
    simp only [decode32, major02, must, h, bits_fld, BitVec.ofNat_toNat, BitVec.setWidth_eq, reduceIte, and_self]

theorem cmpNe (p : BitVec 3) (d a b : BitVec 5) (sc : BitVec 3) : Statement (Instr.cmpNe p d a b sc) :=
  long (r := [(sc.toNat, 3), (2, 6), (d.toNat, 5), (a.toNat, 5), (b.toNat, 5), (p.toNat, 3), (1, 4)]) rfl
    (by simp only [comb]; omega : 0x10000021 + p.toNat * 0x2000000 + d.toNat * 0x400 + a.toNat * 0x8000 + b.toNat * 0x100000 + sc.toNat * 0x2 = _) ⟨sc.isLt, (by decide), d.isLt, a.isLt, b.isLt, p.isLt, (by decide), trivial⟩ rfl fun wf h => by
    simp only [Placed, Nat.reduceAdd] at h
    simp only [decode32, major02, must, h, bits_fld, BitVec.ofNat_toNat, BitVec.setWidth_eq, reduceIte, and_self]

theorem cmpLt (p : BitVec 3) (d a b : BitVec 5) (sc : BitVec 3) : Statement (Instr.cmpLt p d a b sc) :=
  long (r := [(sc.toNat, 3), (2, 6), (d.toNat, 5), (a.toNat, 5), (b.toNat, 5), (p.toNat, 3), (2, 4)]) rfl
    (by simp only [comb]; omega : 0x20000021 + p.toNat * 0x2000000 + d.toNat * 0x400 + a.toNat * 0x8000 + b.toNat * 0x100000 + sc.toNat * 0x2 = _) ⟨sc.isLt, (by decide), d.isLt, a.isLt, b.isLt, p.isLt, (by decide), trivial⟩ rfl fun wf h => by
    simp only [Placed, Nat.reduceAdd] at h
    simp only [decode32, major02, must, h, bits_fld, BitVec.ofNat_toNat, BitVec.setWidth_eq, reduceIte, and_self]

theorem cmpGe (p : BitVec 3) (d a b : BitVec 5) (sc : BitVec 3) : Statement (Instr.cmpGe p d a b sc) :=
  long (r := [(sc.toNat, 3), (2, 6), (d.toNat, 5), (a.toNat, 5), (b.toNat, 5), (p.toNat, 3), (3, 4)]) rfl
    (by simp only [comb]; omega : 0x30000021 + p.toNat * 0x2000000 + d.toNat * 0x400 + a.toNat * 0x8000 + b.toNat * 0x100000 + sc.toNat * 0x2 = _) ⟨sc.isLt, (by decide), d.isLt, a.isLt, b.isLt, p.isLt, (by decide), trivial⟩ rfl fun wf h => by
    simp only [Placed, Nat.reduceAdd] at h
    simp only [decode32, major02, must, h, bits_fld, BitVec.ofNat_toNat, BitVec.setWidth_eq, reduceIte, and_self]

theorem cmpLtu (p : BitVec 3) (d a b : BitVec 5) (sc : BitVec 3) : Statement (Instr.cmpLtu p d a b sc) :=
  long (r := [(sc.toNat, 3), (2, 6), (d.toNat, 5), (a.toNat, 5), (b.toNat, 5), (p.toNat, 3), (4, 4)]) rfl
    (by simp only [comb]; omega : 0x40000021 + p.toNat * 0x2000000 + d.toNat * 0x400 + a.toNat * 0x8000 + b.toNat * 0x100000 + sc.toNat * 0x2 = _) ⟨sc.isLt, (by decide), d.isLt, a.isLt, b.isLt, p.isLt, (by decide), trivial⟩ rfl fun wf h => by
    simp only [Placed, Nat.reduceAdd] at h
    simp only [decode32, major02, must, h, bits_fld, BitVec.ofNat_toNat, BitVec.setWidth_eq, reduceIte, and_self]

theorem cmpGeu (p : BitVec 3) (d a b : BitVec 5) (sc : BitVec 3) : Statement (Instr.cmpGeu p d a b sc) :=
  long (r := [(sc.toNat, 3), (2, 6), (d.toNat, 5), (a.toNat, 5), (b.toNat, 5), (p.toNat, 3), (5, 4)]) rfl
    (by simp only [comb]; omega : 0x50000021 + p.toNat * 0x2000000 + d.toNat * 0x400 + a.toNat * 0x8000 + b.toNat * 0x100000 + sc.toNat * 0x2 = _) ⟨sc.isLt, (by decide), d.isLt, a.isLt, b.isLt, p.isLt, (by decide), trivial⟩ rfl fun wf h => by
    simp only [Placed, Nat.reduceAdd] at h
    simp only [decode32, major02, must, h, bits_fld, BitVec.ofNat_toNat, BitVec.setWidth_eq, reduceIte, and_self]

theorem cmpAny (p : BitVec 3) (d a b : BitVec 5) (sc : BitVec 3) : Statement (Instr.cmpAny p d a b sc) :=
  long (r := [(sc.toNat, 3), (2, 6), (d.toNat, 5), (a.toNat, 5), (b.toNat, 5), (p.toNat, 3), (6, 4)]) rfl
    (by simp only [comb]; omega : 0x60000021 + p.toNat * 0x2000000 + d.toNat * 0x400 + a.toNat * 0x8000 + b.toNat * 0x100000 + sc.toNat * 0x2 = _) ⟨sc.isLt, (by decide), d.isLt, a.isLt, b.isLt, p.isLt, (by decide), trivial⟩ rfl fun wf h => by
    simp only [Placed, Nat.reduceAdd] at h
    simp only [decode32, major02, must, h, bits_fld, BitVec.ofNat_toNat, BitVec.setWidth_eq, reduceIte, and_self]

theorem cmpNone (p : BitVec 3) (d a b : BitVec 5) (sc : BitVec 3) : Statement (Instr.cmpNone p d a b sc) :=
  long (r := [(sc.toNat, 3), (2, 6), (d.toNat, 5), (a.toNat, 5), (b.toNat, 5), (p.toNat, 3), (7, 4)]) rfl
    (by simp only [comb]; omega : 0x70000021 + p.toNat * 0x2000000 + d.toNat * 0x400 + a.toNat * 0x8000 + b.toNat * 0x100000 + sc.toNat * 0x2 = _) ⟨sc.isLt, (by decide), d.isLt, a.isLt, b.isLt, p.isLt, (by decide), trivial⟩ rfl fun wf h => by
    simp only [Placed, Nat.reduceAdd] at h
    simp only [decode32, major02, must, h, bits_fld, BitVec.ofNat_toNat, BitVec.setWidth_eq, reduceIte, and_self]

theorem addImm12 (d a : BitVec 5) (i : BitVec 12) (sc : BitVec 3) : Statement (Instr.addImm12 d a i sc) :=
  long (r := [(sc.toNat, 3), (3, 6), (d.toNat, 5), (a.toNat, 5), (i.toNat, 12)]) rfl
    (by simp only [comb]; omega : 0x31 + d.toNat * 0x400 + a.toNat * 0x8000 + i.toNat * 0x100000 + sc.toNat * 0x2 = _) ⟨sc.isLt, (by decide), d.isLt, a.isLt, i.isLt, trivial⟩ rfl fun wf h => by
    simp only [Placed, Nat.reduceAdd] at h
    simp only [decode32, major03, must, h, bits_fld, BitVec.ofNat_toNat, BitVec.setWidth_eq, reduceIte, and_self]

theorem andImm (d a : BitVec 5) (i : BitVec 8) (sc : BitVec 3) : Statement (Instr.andImm d a i sc) :=
  long (r := [(sc.toNat, 3), (4, 6), (d.toNat, 5), (a.toNat, 5), (i.toNat, 8), (0, 4)]) rfl
    (by simp only [comb]; omega : 0x41 + d.toNat * 0x400 + a.toNat * 0x8000 + i.toNat * 0x100000 + sc.toNat * 0x2 = _) ⟨sc.isLt, (by decide), d.isLt, a.isLt, i.isLt, (by decide), trivial⟩ rfl fun wf h => by
    simp only [Placed, Nat.reduceAdd] at h
    simp only [decode32, major04, must, h, bits_fld, BitVec.ofNat_toNat, BitVec.setWidth_eq, reduceIte, and_self]

theorem orImm (d a : BitVec 5) (i : BitVec 8) (sc : BitVec 3) : Statement (Instr.orImm d a i sc) :=
  long (r := [(sc.toNat, 3), (4, 6), (d.toNat, 5), (a.toNat, 5), (i.toNat, 8), (1, 4)]) rfl
    (by simp only [comb]; omega : 0x10000041 + d.toNat * 0x400 + a.toNat * 0x8000 + i.toNat * 0x100000 + sc.toNat * 0x2 = _) ⟨sc.isLt, (by decide), d.isLt, a.isLt, i.isLt, (by decide), trivial⟩ rfl fun wf h => by
    simp only [Placed, Nat.reduceAdd] at h
    simp only [decode32, major04, must, h, bits_fld, BitVec.ofNat_toNat, BitVec.setWidth_eq, reduceIte, and_self]

theorem xorImm (d a : BitVec 5) (i : BitVec 8) (sc : BitVec 3) : Statement (Instr.xorImm d a i sc) :=
  long (r := [(sc.toNat, 3), (4, 6), (d.toNat, 5), (a.toNat, 5), (i.toNat, 8), (2, 4)]) rfl
    (by simp only [comb]; omega : 0x20000041 + d.toNat * 0x400 + a.toNat * 0x8000 + i.toNat * 0x100000 + sc.toNat * 0x2 = _) ⟨sc.isLt, (by decide), d.isLt, a.isLt, i.isLt, (by decide), trivial⟩ rfl fun wf h => by
    simp only [Placed, Nat.reduceAdd] at h
    simp only [decode32, major04, must, h, bits_fld, BitVec.ofNat_toNat, BitVec.setWidth_eq, reduceIte, and_self]

theorem andnImm (d a : BitVec 5) (i : BitVec 8) (sc : BitVec 3) : Statement (Instr.andnImm d a i sc) :=
  long (r := [(sc.toNat, 3), (4, 6), (d.toNat, 5), (a.toNat, 5), (i.toNat, 8), (3, 4)]) rfl
    (by simp only [comb]; omega : 0x30000041 + d.toNat * 0x400 + a.toNat * 0x8000 + i.toNat * 0x100000 + sc.toNat * 0x2 = _) ⟨sc.isLt, (by decide), d.isLt, a.isLt, i.isLt, (by decide), trivial⟩ rfl fun wf h => by
    simp only [Placed, Nat.reduceAdd] at h
    simp only [decode32, major04, must, h, bits_fld, BitVec.ofNat_toNat, BitVec.setWidth_eq, reduceIte, and_self]

theorem shlImm (d a : BitVec 5) (i : BitVec 6) (sc : BitVec 3) : Statement (Instr.shlImm d a i sc) :=
  long (r := [(sc.toNat, 3), (4, 6), (d.toNat, 5), (a.toNat, 5), (i.toNat, 6), (0, 2), (4, 4)]) rfl
    (by simp only [comb]; omega : 0x40000041 + d.toNat * 0x400 + a.toNat * 0x8000 + i.toNat * 0x100000 + sc.toNat * 0x2 = _) ⟨sc.isLt, (by decide), d.isLt, a.isLt, i.isLt, (by decide), (by decide), trivial⟩ rfl fun wf h => by
    simp only [Placed, Nat.reduceAdd] at h
    simp only [decode32, major04, must, h, bits_fld, BitVec.ofNat_toNat, BitVec.setWidth_eq, reduceIte, and_self]

theorem shrImm (d a : BitVec 5) (i : BitVec 6) (sc : BitVec 3) : Statement (Instr.shrImm d a i sc) :=
  long (r := [(sc.toNat, 3), (4, 6), (d.toNat, 5), (a.toNat, 5), (i.toNat, 6), (0, 2), (5, 4)]) rfl
    (by simp only [comb]; omega : 0x50000041 + d.toNat * 0x400 + a.toNat * 0x8000 + i.toNat * 0x100000 + sc.toNat * 0x2 = _) ⟨sc.isLt, (by decide), d.isLt, a.isLt, i.isLt, (by decide), (by decide), trivial⟩ rfl fun wf h => by
    simp only [Placed, Nat.reduceAdd] at h
    simp only [decode32, major04, must, h, bits_fld, BitVec.ofNat_toNat, BitVec.setWidth_eq, reduceIte, and_self]

theorem sraImm (d a : BitVec 5) (i : BitVec 6) (sc : BitVec 3) : Statement (Instr.sraImm d a i sc) :=
  long (r := [(sc.toNat, 3), (4, 6), (d.toNat, 5), (a.toNat, 5), (i.toNat, 6), (0, 2), (6, 4)]) rfl
    (by simp only [comb]; omega : 0x60000041 + d.toNat * 0x400 + a.toNat * 0x8000 + i.toNat * 0x100000 + sc.toNat * 0x2 = _) ⟨sc.isLt, (by decide), d.isLt, a.isLt, i.isLt, (by decide), (by decide), trivial⟩ rfl fun wf h => by
    simp only [Placed, Nat.reduceAdd] at h
    simp only [decode32, major04, must, h, bits_fld, BitVec.ofNat_toNat, BitVec.setWidth_eq, reduceIte, and_self]

theorem rotImm (d a : BitVec 5) (i : BitVec 6) (sc : BitVec 3) : Statement (Instr.rotImm d a i sc) :=
  long (r := [(sc.toNat, 3), (4, 6), (d.toNat, 5), (a.toNat, 5), (i.toNat, 6), (0, 2), (7, 4)]) rfl
    (by simp only [comb]; omega : 0x70000041 + d.toNat * 0x400 + a.toNat * 0x8000 + i.toNat * 0x100000 + sc.toNat * 0x2 = _) ⟨sc.isLt, (by decide), d.isLt, a.isLt, i.isLt, (by decide), (by decide), trivial⟩ rfl fun wf h => by
    simp only [Placed, Nat.reduceAdd] at h
    simp only [decode32, major04, must, h, bits_fld, BitVec.ofNat_toNat, BitVec.setWidth_eq, reduceIte, and_self]

theorem mulImm (d a : BitVec 5) (i : BitVec 8) (sc : BitVec 3) : Statement (Instr.mulImm d a i sc) :=
  long (r := [(sc.toNat, 3), (4, 6), (d.toNat, 5), (a.toNat, 5), (i.toNat, 8), (8, 4)]) rfl
    (by simp only [comb]; omega : 0x80000041 + d.toNat * 0x400 + a.toNat * 0x8000 + i.toNat * 0x100000 + sc.toNat * 0x2 = _) ⟨sc.isLt, (by decide), d.isLt, a.isLt, i.isLt, (by decide), trivial⟩ rfl fun wf h => by
    simp only [Placed, Nat.reduceAdd] at h
    simp only [decode32, major04, must, h, bits_fld, BitVec.ofNat_toNat, BitVec.setWidth_eq, reduceIte, and_self]

theorem minImm (d a : BitVec 5) (i : BitVec 8) (sc : BitVec 3) : Statement (Instr.minImm d a i sc) :=
  long (r := [(sc.toNat, 3), (4, 6), (d.toNat, 5), (a.toNat, 5), (i.toNat, 8), (9, 4)]) rfl
    (by simp only [comb]; omega : 0x90000041 + d.toNat * 0x400 + a.toNat * 0x8000 + i.toNat * 0x100000 + sc.toNat * 0x2 = _) ⟨sc.isLt, (by decide), d.isLt, a.isLt, i.isLt, (by decide), trivial⟩ rfl fun wf h => by
    simp only [Placed, Nat.reduceAdd] at h
    simp only [decode32, major04, must, h, bits_fld, BitVec.ofNat_toNat, BitVec.setWidth_eq, reduceIte, and_self]

theorem maxImm (d a : BitVec 5) (i : BitVec 8) (sc : BitVec 3) : Statement (Instr.maxImm d a i sc) :=
  long (r := [(sc.toNat, 3), (4, 6), (d.toNat, 5), (a.toNat, 5), (i.toNat, 8), (10, 4)]) rfl
    (by simp only [comb]; omega : 0xa0000041 + d.toNat * 0x400 + a.toNat * 0x8000 + i.toNat * 0x100000 + sc.toNat * 0x2 = _) ⟨sc.isLt, (by decide), d.isLt, a.isLt, i.isLt, (by decide), trivial⟩ rfl fun wf h => by
    simp only [Placed, Nat.reduceAdd] at h
    simp only [decode32, major04, must, h, bits_fld, BitVec.ofNat_toNat, BitVec.setWidth_eq, reduceIte, and_self]

theorem minNImm (d a : BitVec 5) (i : BitVec 8) (sc : BitVec 3) : Statement (Instr.minNImm d a i sc) :=
  long (r := [(sc.toNat, 3), (4, 6), (d.toNat, 5), (a.toNat, 5), (i.toNat, 8), (11, 4)]) rfl
    (by simp only [comb]; omega : 0xb0000041 + d.toNat * 0x400 + a.toNat * 0x8000 + i.toNat * 0x100000 + sc.toNat * 0x2 = _) ⟨sc.isLt, (by decide), d.isLt, a.isLt, i.isLt, (by decide), trivial⟩ rfl fun wf h => by
    simp only [Placed, Nat.reduceAdd] at h
    simp only [decode32, major04, must, h, bits_fld, BitVec.ofNat_toNat, BitVec.setWidth_eq, reduceIte, and_self]

theorem maxNImm (d a : BitVec 5) (i : BitVec 8) (sc : BitVec 3) : Statement (Instr.maxNImm d a i sc) :=
  long (r := [(sc.toNat, 3), (4, 6), (d.toNat, 5), (a.toNat, 5), (i.toNat, 8), (12, 4)]) rfl
    (by simp only [comb]; omega : 0xc0000041 + d.toNat * 0x400 + a.toNat * 0x8000 + i.toNat * 0x100000 + sc.toNat * 0x2 = _) ⟨sc.isLt, (by decide), d.isLt, a.isLt, i.isLt, (by decide), trivial⟩ rfl fun wf h => by
    simp only [Placed, Nat.reduceAdd] at h
    simp only [decode32, major04, must, h, bits_fld, BitVec.ofNat_toNat, BitVec.setWidth_eq, reduceIte, and_self]

theorem taupImm (d a : BitVec 5) (i : BitVec 8) (sc : BitVec 3) : Statement (Instr.taupImm d a i sc) :=
  long (r := [(sc.toNat, 3), (4, 6), (d.toNat, 5), (a.toNat, 5), (i.toNat, 8), (13, 4)]) rfl
    (by simp only [comb]; omega : 0xd0000041 + d.toNat * 0x400 + a.toNat * 0x8000 + i.toNat * 0x100000 + sc.toNat * 0x2 = _) ⟨sc.isLt, (by decide), d.isLt, a.isLt, i.isLt, (by decide), trivial⟩ rfl fun wf h => by
    simp only [Placed, Nat.reduceAdd] at h
    simp only [decode32, major04, must, h, bits_fld, BitVec.ofNat_toNat, BitVec.setWidth_eq, reduceIte, and_self]

theorem tadownImm (d a : BitVec 5) (i : BitVec 2) (sc : BitVec 3) : Statement (Instr.tadownImm d a i sc) :=
  long (r := [(sc.toNat, 3), (4, 6), (d.toNat, 5), (a.toNat, 5), (i.toNat, 2), (0, 6), (14, 4)]) rfl
    (by simp only [comb]; omega : 0xe0000041 + d.toNat * 0x400 + a.toNat * 0x8000 + i.toNat * 0x100000 + sc.toNat * 0x2 = _) ⟨sc.isLt, (by decide), d.isLt, a.isLt, i.isLt, (by decide), (by decide), trivial⟩ rfl fun wf h => by
    simp only [Placed, Nat.reduceAdd] at h
    simp only [decode32, major04, must, h, bits_fld, BitVec.ofNat_toNat, BitVec.setWidth_eq, reduceIte, and_self]

theorem fsh (d a b c : BitVec 5) (sc : BitVec 3) : Statement (Instr.fsh d a b c sc) :=
  long (r := [(sc.toNat, 3), (5, 6), (d.toNat, 5), (a.toNat, 5), (b.toNat, 5), (c.toNat, 5), (0, 2)]) rfl
    (by simp only [comb]; omega : 0x51 + d.toNat * 0x400 + a.toNat * 0x8000 + b.toNat * 0x100000 + c.toNat * 0x2000000 + sc.toNat * 0x2 = _) ⟨sc.isLt, (by decide), d.isLt, a.isLt, b.isLt, c.isLt, (by decide), trivial⟩ rfl fun wf h => by
    simp only [Placed, Nat.reduceAdd] at h
    simp only [decode32, major05, must, h, bits_fld, BitVec.ofNat_toNat, BitVec.setWidth_eq, reduceIte, and_self]

theorem bfx (d a b c : BitVec 5) (sc : BitVec 3) : Statement (Instr.bfx d a b c sc) :=
  long (r := [(sc.toNat, 3), (5, 6), (d.toNat, 5), (a.toNat, 5), (b.toNat, 5), (c.toNat, 5), (1, 2)]) rfl
    (by simp only [comb]; omega : 0x40000051 + d.toNat * 0x400 + a.toNat * 0x8000 + b.toNat * 0x100000 + c.toNat * 0x2000000 + sc.toNat * 0x2 = _) ⟨sc.isLt, (by decide), d.isLt, a.isLt, b.isLt, c.isLt, (by decide), trivial⟩ rfl fun wf h => by
    simp only [Placed, Nat.reduceAdd] at h
    simp only [decode32, major05, must, h, bits_fld, BitVec.ofNat_toNat, BitVec.setWidth_eq, reduceIte, and_self]

theorem bfxs (d a b c : BitVec 5) (sc : BitVec 3) : Statement (Instr.bfxs d a b c sc) :=
  long (r := [(sc.toNat, 3), (5, 6), (d.toNat, 5), (a.toNat, 5), (b.toNat, 5), (c.toNat, 5), (2, 2)]) rfl
    (by simp only [comb]; omega : 0x80000051 + d.toNat * 0x400 + a.toNat * 0x8000 + b.toNat * 0x100000 + c.toNat * 0x2000000 + sc.toNat * 0x2 = _) ⟨sc.isLt, (by decide), d.isLt, a.isLt, b.isLt, c.isLt, (by decide), trivial⟩ rfl fun wf h => by
    simp only [Placed, Nat.reduceAdd] at h
    simp only [decode32, major05, must, h, bits_fld, BitVec.ofNat_toNat, BitVec.setWidth_eq, reduceIte, and_self]

theorem bfi (d a b c : BitVec 5) (sc : BitVec 3) : Statement (Instr.bfi d a b c sc) :=
  long (r := [(sc.toNat, 3), (5, 6), (d.toNat, 5), (a.toNat, 5), (b.toNat, 5), (c.toNat, 5), (3, 2)]) rfl
    (by simp only [comb]; omega : 0xc0000051 + d.toNat * 0x400 + a.toNat * 0x8000 + b.toNat * 0x100000 + c.toNat * 0x2000000 + sc.toNat * 0x2 = _) ⟨sc.isLt, (by decide), d.isLt, a.isLt, b.isLt, c.isLt, (by decide), trivial⟩ rfl fun wf h => by
    simp only [Placed, Nat.reduceAdd] at h
    simp only [decode32, major05, must, h, bits_fld, BitVec.ofNat_toNat, BitVec.setWidth_eq, reduceIte, and_self]

theorem bfxImm (d a : BitVec 5) (w o : BitVec 6) (sc : BitVec 3) : Statement (Instr.bfxImm d a w o sc) :=
  long (r := [(sc.toNat, 3), (6, 6), (d.toNat, 5), (a.toNat, 5), (o.toNat, 6), (w.toNat, 6)]) rfl
    (by simp only [comb]; omega : 0x61 + d.toNat * 0x400 + a.toNat * 0x8000 + w.toNat * 0x4000000 + o.toNat * 0x100000 + sc.toNat * 0x2 = _) ⟨sc.isLt, (by decide), d.isLt, a.isLt, o.isLt, w.isLt, trivial⟩ rfl fun wf h => by
    simp only [Placed, Nat.reduceAdd] at h
    simp only [decode32, major06, must, h, bits_fld, BitVec.ofNat_toNat, BitVec.setWidth_eq, reduceIte, and_self]

theorem lui (d : BitVec 5) (i : BitVec 17) (sc : BitVec 3) : Statement (Instr.lui d i sc) :=
  long (r := [(sc.toNat, 3), (7, 6), (d.toNat, 5), (i.toNat, 17)]) rfl
    (by simp only [comb]; omega : 0x71 + d.toNat * 0x400 + i.toNat * 0x8000 + sc.toNat * 0x2 = _) ⟨sc.isLt, (by decide), d.isLt, i.isLt, trivial⟩ rfl fun wf h => by
    simp only [Placed, Nat.reduceAdd] at h
    simp only [decode32, major07, must, h, bits_fld, BitVec.ofNat_toNat, BitVec.setWidth_eq, reduceIte, and_self]

theorem bra (o : BitVec 22) (sc : BitVec 3) : Statement (Instr.bra o sc) :=
  long (r := [(sc.toNat, 3), (8, 6), (o.toNat, 22)]) rfl
    (by simp only [comb]; omega : 0x81 + o.toNat * 0x400 + sc.toNat * 0x2 = _) ⟨sc.isLt, (by decide), o.isLt, trivial⟩ rfl fun wf h => by
    simp only [Placed, Nat.reduceAdd] at h
    simp only [decode32, major08, must, h, bits_fld, BitVec.ofNat_toNat, BitVec.setWidth_eq, reduceIte, and_self]

theorem call (o : BitVec 22) (sc : BitVec 3) : Statement (Instr.call o sc) :=
  long (r := [(sc.toNat, 3), (9, 6), (o.toNat, 22)]) rfl
    (by simp only [comb]; omega : 0x91 + o.toNat * 0x400 + sc.toNat * 0x2 = _) ⟨sc.isLt, (by decide), o.isLt, trivial⟩ rfl fun wf h => by
    simp only [Placed, Nat.reduceAdd] at h
    simp only [decode32, major09, must, h, bits_fld, BitVec.ofNat_toNat, BitVec.setWidth_eq, reduceIte, and_self]

theorem bcEq (a b : BitVec 5) (o : BitVec 9) (sc : BitVec 3) : Statement (Instr.bcEq a b o sc) :=
  long (r := [(sc.toNat, 3), (10, 6), (a.toNat, 5), (b.toNat, 5), (0, 3), (o.toNat, 9)]) rfl
    (by simp only [comb]; omega : 0xa1 + a.toNat * 0x400 + b.toNat * 0x8000 + o.toNat * 0x800000 + sc.toNat * 0x2 = _) ⟨sc.isLt, (by decide), a.isLt, b.isLt, (by decide), o.isLt, trivial⟩ rfl fun wf h => by
    simp only [Placed, Nat.reduceAdd] at h
    simp only [decode32, major0A, must, h, bits_fld, BitVec.ofNat_toNat, BitVec.setWidth_eq, reduceIte, and_self]

theorem bcNe (a b : BitVec 5) (o : BitVec 9) (sc : BitVec 3) : Statement (Instr.bcNe a b o sc) :=
  long (r := [(sc.toNat, 3), (10, 6), (a.toNat, 5), (b.toNat, 5), (1, 3), (o.toNat, 9)]) rfl
    (by simp only [comb]; omega : 0x1000a1 + a.toNat * 0x400 + b.toNat * 0x8000 + o.toNat * 0x800000 + sc.toNat * 0x2 = _) ⟨sc.isLt, (by decide), a.isLt, b.isLt, (by decide), o.isLt, trivial⟩ rfl fun wf h => by
    simp only [Placed, Nat.reduceAdd] at h
    simp only [decode32, major0A, must, h, bits_fld, BitVec.ofNat_toNat, BitVec.setWidth_eq, reduceIte, and_self]

theorem bcLt (a b : BitVec 5) (o : BitVec 9) (sc : BitVec 3) : Statement (Instr.bcLt a b o sc) :=
  long (r := [(sc.toNat, 3), (10, 6), (a.toNat, 5), (b.toNat, 5), (2, 3), (o.toNat, 9)]) rfl
    (by simp only [comb]; omega : 0x2000a1 + a.toNat * 0x400 + b.toNat * 0x8000 + o.toNat * 0x800000 + sc.toNat * 0x2 = _) ⟨sc.isLt, (by decide), a.isLt, b.isLt, (by decide), o.isLt, trivial⟩ rfl fun wf h => by
    simp only [Placed, Nat.reduceAdd] at h
    simp only [decode32, major0A, must, h, bits_fld, BitVec.ofNat_toNat, BitVec.setWidth_eq, reduceIte, and_self]

theorem bcGe (a b : BitVec 5) (o : BitVec 9) (sc : BitVec 3) : Statement (Instr.bcGe a b o sc) :=
  long (r := [(sc.toNat, 3), (10, 6), (a.toNat, 5), (b.toNat, 5), (3, 3), (o.toNat, 9)]) rfl
    (by simp only [comb]; omega : 0x3000a1 + a.toNat * 0x400 + b.toNat * 0x8000 + o.toNat * 0x800000 + sc.toNat * 0x2 = _) ⟨sc.isLt, (by decide), a.isLt, b.isLt, (by decide), o.isLt, trivial⟩ rfl fun wf h => by
    simp only [Placed, Nat.reduceAdd] at h
    simp only [decode32, major0A, must, h, bits_fld, BitVec.ofNat_toNat, BitVec.setWidth_eq, reduceIte, and_self]

theorem bcLtu (a b : BitVec 5) (o : BitVec 9) (sc : BitVec 3) : Statement (Instr.bcLtu a b o sc) :=
  long (r := [(sc.toNat, 3), (10, 6), (a.toNat, 5), (b.toNat, 5), (4, 3), (o.toNat, 9)]) rfl
    (by simp only [comb]; omega : 0x4000a1 + a.toNat * 0x400 + b.toNat * 0x8000 + o.toNat * 0x800000 + sc.toNat * 0x2 = _) ⟨sc.isLt, (by decide), a.isLt, b.isLt, (by decide), o.isLt, trivial⟩ rfl fun wf h => by
    simp only [Placed, Nat.reduceAdd] at h
    simp only [decode32, major0A, must, h, bits_fld, BitVec.ofNat_toNat, BitVec.setWidth_eq, reduceIte, and_self]

theorem bcGeu (a b : BitVec 5) (o : BitVec 9) (sc : BitVec 3) : Statement (Instr.bcGeu a b o sc) :=
  long (r := [(sc.toNat, 3), (10, 6), (a.toNat, 5), (b.toNat, 5), (5, 3), (o.toNat, 9)]) rfl
    (by simp only [comb]; omega : 0x5000a1 + a.toNat * 0x400 + b.toNat * 0x8000 + o.toNat * 0x800000 + sc.toNat * 0x2 = _) ⟨sc.isLt, (by decide), a.isLt, b.isLt, (by decide), o.isLt, trivial⟩ rfl fun wf h => by
    simp only [Placed, Nat.reduceAdd] at h
    simp only [decode32, major0A, must, h, bits_fld, BitVec.ofNat_toNat, BitVec.setWidth_eq, reduceIte, and_self]

theorem bcAny (a b : BitVec 5) (o : BitVec 9) (sc : BitVec 3) : Statement (Instr.bcAny a b o sc) :=
  long (r := [(sc.toNat, 3), (10, 6), (a.toNat, 5), (b.toNat, 5), (6, 3), (o.toNat, 9)]) rfl
    (by simp only [comb]; omega : 0x6000a1 + a.toNat * 0x400 + b.toNat * 0x8000 + o.toNat * 0x800000 + sc.toNat * 0x2 = _) ⟨sc.isLt, (by decide), a.isLt, b.isLt, (by decide), o.isLt, trivial⟩ rfl fun wf h => by
    simp only [Placed, Nat.reduceAdd] at h
    simp only [decode32, major0A, must, h, bits_fld, BitVec.ofNat_toNat, BitVec.setWidth_eq, reduceIte, and_self]

theorem bcNone (a b : BitVec 5) (o : BitVec 9) (sc : BitVec 3) : Statement (Instr.bcNone a b o sc) :=
  long (r := [(sc.toNat, 3), (10, 6), (a.toNat, 5), (b.toNat, 5), (7, 3), (o.toNat, 9)]) rfl
    (by simp only [comb]; omega : 0x7000a1 + a.toNat * 0x400 + b.toNat * 0x8000 + o.toNat * 0x800000 + sc.toNat * 0x2 = _) ⟨sc.isLt, (by decide), a.isLt, b.isLt, (by decide), o.isLt, trivial⟩ rfl fun wf h => by
    simp only [Placed, Nat.reduceAdd] at h
    simp only [decode32, major0A, must, h, bits_fld, BitVec.ofNat_toNat, BitVec.setWidth_eq, reduceIte, and_self]

theorem loop (a : BitVec 5) (l : BitVec 2) (e : BitVec 12) (sc : BitVec 3) : Statement (Instr.loop a l e sc) :=
  long (r := [(sc.toNat, 3), (11, 6), (l.toNat, 2), (0, 3), (a.toNat, 5), (e.toNat, 12)]) rfl
    (by simp only [comb]; omega : 0xb1 + a.toNat * 0x8000 + l.toNat * 0x400 + e.toNat * 0x100000 + sc.toNat * 0x2 = _) ⟨sc.isLt, (by decide), l.isLt, (by decide), a.isLt, e.isLt, trivial⟩ rfl fun wf h => by
    simp only [Placed, Nat.reduceAdd] at h
    simp only [decode32, major0B, must, h, bits_fld, BitVec.ofNat_toNat, BitVec.setWidth_eq, reduceIte, and_self]

theorem ret (a : BitVec 5) (sc : BitVec 3) : Statement (Instr.ret a sc) :=
  long (r := [(sc.toNat, 3), (12, 6), (0, 5), (a.toNat, 5), (0, 8), (0, 4)]) rfl
    (by simp only [comb]; omega : 0xc1 + a.toNat * 0x8000 + sc.toNat * 0x2 = _) ⟨sc.isLt, (by decide), (by decide), a.isLt, (by decide), (by decide), trivial⟩ rfl fun wf h => by
    simp only [Placed, Nat.reduceAdd] at h
    simp only [decode32, major0C, must, h, bits_fld, BitVec.ofNat_toNat, BitVec.setWidth_eq, reduceIte, and_self]

theorem callr (d a : BitVec 5) (sc : BitVec 3) : Statement (Instr.callr d a sc) :=
  long (r := [(sc.toNat, 3), (12, 6), (d.toNat, 5), (a.toNat, 5), (0, 8), (1, 4)]) rfl
    (by simp only [comb]; omega : 0x100000c1 + d.toNat * 0x400 + a.toNat * 0x8000 + sc.toNat * 0x2 = _) ⟨sc.isLt, (by decide), d.isLt, a.isLt, (by decide), (by decide), trivial⟩ rfl fun wf h => by
    simp only [Placed, Nat.reduceAdd] at h
    simp only [decode32, major0C, must, h, bits_fld, BitVec.ofNat_toNat, BitVec.setWidth_eq, reduceIte, and_self]

theorem jt (a b : BitVec 5) (sc : BitVec 3) : Statement (Instr.jt a b sc) :=
  long (r := [(sc.toNat, 3), (12, 6), (0, 5), (a.toNat, 5), (b.toNat, 5), (0, 3), (2, 4)]) rfl
    (by simp only [comb]; omega : 0x200000c1 + a.toNat * 0x8000 + b.toNat * 0x100000 + sc.toNat * 0x2 = _) ⟨sc.isLt, (by decide), (by decide), a.isLt, b.isLt, (by decide), (by decide), trivial⟩ rfl fun wf h => by
    simp only [Placed, Nat.reduceAdd] at h
    simp only [decode32, major0C, must, h, bits_fld, BitVec.ofNat_toNat, BitVec.setWidth_eq, reduceIte, and_self]

theorem isync (sc : BitVec 3) : Statement (Instr.isync sc) :=
  long (r := [(sc.toNat, 3), (12, 6), (0, 18), (3, 4)]) rfl
    (by simp only [comb]; omega : 0x300000c1 + sc.toNat * 0x2 = _) ⟨sc.isLt, (by decide), (by decide), (by decide), trivial⟩ rfl fun wf h => by
    simp only [Placed, Nat.reduceAdd] at h
    simp only [decode32, major0C, must, h, bits_fld, BitVec.ofNat_toNat, BitVec.setWidth_eq, reduceIte, and_self]

theorem halt (sc : BitVec 3) : Statement (Instr.halt sc) :=
  long (r := [(sc.toNat, 3), (12, 6), (0, 18), (4, 4)]) rfl
    (by simp only [comb]; omega : 0x400000c1 + sc.toNat * 0x2 = _) ⟨sc.isLt, (by decide), (by decide), (by decide), trivial⟩ rfl fun wf h => by
    simp only [Placed, Nat.reduceAdd] at h
    simp only [decode32, major0C, must, h, bits_fld, BitVec.ofNat_toNat, BitVec.setWidth_eq, reduceIte, and_self]

theorem rft (sc : BitVec 3) : Statement (Instr.rft sc) :=
  long (r := [(sc.toNat, 3), (12, 6), (0, 18), (5, 4)]) rfl
    (by simp only [comb]; omega : 0x500000c1 + sc.toNat * 0x2 = _) ⟨sc.isLt, (by decide), (by decide), (by decide), trivial⟩ rfl fun wf h => by
    simp only [Placed, Nat.reduceAdd] at h
    simp only [decode32, major0C, must, h, bits_fld, BitVec.ofNat_toNat, BitVec.setWidth_eq, reduceIte, and_self]

theorem align (k : BitVec 8) (sc : BitVec 3) : Statement (Instr.align k sc) :=
  long (r := [(sc.toNat, 3), (13, 6), (0, 10), (k.toNat, 8), (0, 4)]) rfl
    (by simp only [comb]; omega : 0xd1 + k.toNat * 0x100000 + sc.toNat * 0x2 = _) ⟨sc.isLt, (by decide), (by decide), k.isLt, (by decide), trivial⟩ rfl fun wf h => by
    simp only [Placed, Nat.reduceAdd] at h
    simp only [decode32, major0D, must, h, bits_fld, BitVec.ofNat_toNat, BitVec.setWidth_eq, reduceIte, and_self]

theorem prio (c : BitVec 2) (sc : BitVec 3) : Statement (Instr.prio c sc) :=
  long (r := [(sc.toNat, 3), (13, 6), (0, 10), (c.toNat, 2), (0, 6), (1, 4)]) rfl
    (by simp only [comb]; omega : 0x100000d1 + c.toNat * 0x100000 + sc.toNat * 0x2 = _) ⟨sc.isLt, (by decide), (by decide), c.isLt, (by decide), (by decide), trivial⟩ rfl fun wf h => by
    simp only [Placed, Nat.reduceAdd] at h
    simp only [decode32, major0D, must, h, bits_fld, BitVec.ofNat_toNat, BitVec.setWidth_eq, reduceIte, and_self]

theorem trap (k : BitVec 8) (sc : BitVec 3) : Statement (Instr.trap k sc) :=
  long (r := [(sc.toNat, 3), (13, 6), (0, 10), (k.toNat, 8), (2, 4)]) rfl
    (by simp only [comb]; omega : 0x200000d1 + k.toNat * 0x100000 + sc.toNat * 0x2 = _) ⟨sc.isLt, (by decide), (by decide), k.isLt, (by decide), trivial⟩ rfl fun wf h => by
    simp only [Placed, Nat.reduceAdd] at h
    simp only [decode32, major0D, must, h, bits_fld, BitVec.ofNat_toNat, BitVec.setWidth_eq, reduceIte, and_self]

theorem mfc (d : BitVec 5) (n : BitVec 12) (sc : BitVec 3) : Statement (Instr.mfc d n sc) :=
  long (r := [(sc.toNat, 3), (15, 6), (d.toNat, 5), (0, 5), (n.toNat, 12)]) rfl
    (by simp only [comb]; omega : 0xf1 + d.toNat * 0x400 + n.toNat * 0x100000 + sc.toNat * 0x2 = _) ⟨sc.isLt, (by decide), d.isLt, (by decide), n.isLt, trivial⟩ rfl fun wf h => by
    simp only [Placed, Nat.reduceAdd] at h
    replace wf : (WellFormed.destGiven d && WellFormed.knownRegister n) = true := wf
    have k : ¬ d.toNat = 0 := by intro e; simp [WellFormed.destGiven, e] at wf
    simp only [decode32, major0F, h, bits_fld, BitVec.ofNat_toNat, BitVec.setWidth_eq, reduceIte, k]

theorem mtc (a : BitVec 5) (n : BitVec 12) (sc : BitVec 3) : Statement (Instr.mtc a n sc) :=
  long (r := [(sc.toNat, 3), (15, 6), (0, 5), (a.toNat, 5), (n.toNat, 12)]) rfl
    (by simp only [comb]; omega : 0xf1 + a.toNat * 0x8000 + n.toNat * 0x100000 + sc.toNat * 0x2 = _) ⟨sc.isLt, (by decide), (by decide), a.isLt, n.isLt, trivial⟩ rfl fun wf h => by
    simp only [Placed, Nat.reduceAdd] at h
    simp only [decode32, major0F, h, bits_fld, BitVec.ofNat_toNat, BitVec.setWidth_eq, reduceIte]

theorem mxc (d a : BitVec 5) (n : BitVec 12) (sc : BitVec 3) : Statement (Instr.mxc d a n sc) :=
  long (r := [(sc.toNat, 3), (15, 6), (d.toNat, 5), (a.toNat, 5), (n.toNat, 12)]) rfl
    (by simp only [comb]; omega : 0xf1 + d.toNat * 0x400 + a.toNat * 0x8000 + n.toNat * 0x100000 + sc.toNat * 0x2 = _) ⟨sc.isLt, (by decide), d.isLt, a.isLt, n.isLt, trivial⟩ rfl fun wf h => by
    simp only [Placed, Nat.reduceAdd] at h
    replace wf : (WellFormed.destGiven d && WellFormed.sourceGiven a && WellFormed.knownRegister n) = true := wf
    have k : ¬ d.toNat = 0 := by intro e; simp [WellFormed.destGiven, e] at wf
    have j : ¬ a.toNat = 0 := by intro e; simp [WellFormed.sourceGiven, e] at wf
    simp only [decode32, major0F, h, bits_fld, BitVec.ofNat_toNat, BitVec.setWidth_eq, reduceIte, k, j]

theorem mov (d a : BitVec 5) : Statement (Instr.mov d a) :=
  short (r := [(1, 5), (d.toNat, 5), (a.toNat, 5)]) rfl
    (by simp only [comb]; omega : 0x2 + d.toNat * 0x40 + a.toNat * 0x800 = _) ⟨(by decide), d.isLt, a.isLt, trivial⟩ rfl fun wf h => by
    simp only [Placed, Nat.reduceAdd] at h
    simp only [decode16, must, h, bits_fld, BitVec.ofNat_toNat, BitVec.setWidth_eq, reduceIte, and_self]

theorem add16 (d a : BitVec 5) : Statement (Instr.add16 d a) :=
  short (r := [(2, 5), (d.toNat, 5), (a.toNat, 5)]) rfl
    (by simp only [comb]; omega : 0x4 + d.toNat * 0x40 + a.toNat * 0x800 = _) ⟨(by decide), d.isLt, a.isLt, trivial⟩ rfl fun wf h => by
    simp only [Placed, Nat.reduceAdd] at h
    simp only [decode16, must, h, bits_fld, BitVec.ofNat_toNat, BitVec.setWidth_eq, reduceIte, and_self]

theorem sub16 (d a : BitVec 5) : Statement (Instr.sub16 d a) :=
  short (r := [(3, 5), (d.toNat, 5), (a.toNat, 5)]) rfl
    (by simp only [comb]; omega : 0x6 + d.toNat * 0x40 + a.toNat * 0x800 = _) ⟨(by decide), d.isLt, a.isLt, trivial⟩ rfl fun wf h => by
    simp only [Placed, Nat.reduceAdd] at h
    simp only [decode16, must, h, bits_fld, BitVec.ofNat_toNat, BitVec.setWidth_eq, reduceIte, and_self]

theorem and16 (d a : BitVec 5) : Statement (Instr.and16 d a) :=
  short (r := [(4, 5), (d.toNat, 5), (a.toNat, 5)]) rfl
    (by simp only [comb]; omega : 0x8 + d.toNat * 0x40 + a.toNat * 0x800 = _) ⟨(by decide), d.isLt, a.isLt, trivial⟩ rfl fun wf h => by
    simp only [Placed, Nat.reduceAdd] at h
    simp only [decode16, must, h, bits_fld, BitVec.ofNat_toNat, BitVec.setWidth_eq, reduceIte, and_self]

theorem or16 (d a : BitVec 5) : Statement (Instr.or16 d a) :=
  short (r := [(5, 5), (d.toNat, 5), (a.toNat, 5)]) rfl
    (by simp only [comb]; omega : 0xa + d.toNat * 0x40 + a.toNat * 0x800 = _) ⟨(by decide), d.isLt, a.isLt, trivial⟩ rfl fun wf h => by
    simp only [Placed, Nat.reduceAdd] at h
    simp only [decode16, must, h, bits_fld, BitVec.ofNat_toNat, BitVec.setWidth_eq, reduceIte, and_self]

theorem xor16 (d a : BitVec 5) : Statement (Instr.xor16 d a) :=
  short (r := [(6, 5), (d.toNat, 5), (a.toNat, 5)]) rfl
    (by simp only [comb]; omega : 0xc + d.toNat * 0x40 + a.toNat * 0x800 = _) ⟨(by decide), d.isLt, a.isLt, trivial⟩ rfl fun wf h => by
    simp only [Placed, Nat.reduceAdd] at h
    simp only [decode16, must, h, bits_fld, BitVec.ofNat_toNat, BitVec.setWidth_eq, reduceIte, and_self]

theorem li (d i : BitVec 5) : Statement (Instr.li d i) :=
  short (r := [(7, 5), (d.toNat, 5), (i.toNat, 5)]) rfl
    (by simp only [comb]; omega : 0xe + d.toNat * 0x40 + i.toNat * 0x800 = _) ⟨(by decide), d.isLt, i.isLt, trivial⟩ rfl fun wf h => by
    simp only [Placed, Nat.reduceAdd] at h
    simp only [decode16, must, h, bits_fld, BitVec.ofNat_toNat, BitVec.setWidth_eq, reduceIte, and_self]

theorem addImm5 (d i : BitVec 5) : Statement (Instr.addImm5 d i) :=
  short (r := [(8, 5), (d.toNat, 5), (i.toNat, 5)]) rfl
    (by simp only [comb]; omega : 0x10 + d.toNat * 0x40 + i.toNat * 0x800 = _) ⟨(by decide), d.isLt, i.isLt, trivial⟩ rfl fun wf h => by
    simp only [Placed, Nat.reduceAdd] at h
    simp only [decode16, must, h, bits_fld, BitVec.ofNat_toNat, BitVec.setWidth_eq, reduceIte, and_self]

theorem shl16 (d i : BitVec 5) : Statement (Instr.shl16 d i) :=
  short (r := [(9, 5), (d.toNat, 5), (i.toNat, 5)]) rfl
    (by simp only [comb]; omega : 0x12 + d.toNat * 0x40 + i.toNat * 0x800 = _) ⟨(by decide), d.isLt, i.isLt, trivial⟩ rfl fun wf h => by
    simp only [Placed, Nat.reduceAdd] at h
    simp only [decode16, must, h, bits_fld, BitVec.ofNat_toNat, BitVec.setWidth_eq, reduceIte, and_self]

theorem shr16 (d i : BitVec 5) : Statement (Instr.shr16 d i) :=
  short (r := [(10, 5), (d.toNat, 5), (i.toNat, 5)]) rfl
    (by simp only [comb]; omega : 0x14 + d.toNat * 0x40 + i.toNat * 0x800 = _) ⟨(by decide), d.isLt, i.isLt, trivial⟩ rfl fun wf h => by
    simp only [Placed, Nat.reduceAdd] at h
    simp only [decode16, must, h, bits_fld, BitVec.ofNat_toNat, BitVec.setWidth_eq, reduceIte, and_self]

theorem sra16 (d i : BitVec 5) : Statement (Instr.sra16 d i) :=
  short (r := [(11, 5), (d.toNat, 5), (i.toNat, 5)]) rfl
    (by simp only [comb]; omega : 0x16 + d.toNat * 0x40 + i.toNat * 0x800 = _) ⟨(by decide), d.isLt, i.isLt, trivial⟩ rfl fun wf h => by
    simp only [Placed, Nat.reduceAdd] at h
    simp only [decode16, must, h, bits_fld, BitVec.ofNat_toNat, BitVec.setWidth_eq, reduceIte, and_self]

theorem ret16 (a : BitVec 5) : Statement (Instr.ret16 a) :=
  short (r := [(12, 5), (0, 5), (a.toNat, 5)]) rfl
    (by simp only [comb]; omega : 0x18 + a.toNat * 0x800 = _) ⟨(by decide), (by decide), a.isLt, trivial⟩ rfl fun wf h => by
    simp only [Placed, Nat.reduceAdd] at h
    simp only [decode16, must, h, bits_fld, BitVec.ofNat_toNat, BitVec.setWidth_eq, reduceIte, and_self]

theorem nop : Statement (Instr.nop) :=
  short (r := [(13, 5), (0, 10)]) rfl
    (by simp only [comb]; omega : 0x1a = _) ⟨(by decide), (by decide), trivial⟩ rfl fun wf h => by
    simp only [Placed, Nat.reduceAdd] at h
    simp only [decode16, must, h, bits_fld, BitVec.ofNat_toNat, BitVec.setWidth_eq, reduceIte, and_self]

theorem halt16 : Statement (Instr.halt16) :=
  short (r := [(14, 5), (0, 10)]) rfl
    (by simp only [comb]; omega : 0x1c = _) ⟨(by decide), (by decide), trivial⟩ rfl fun wf h => by
    simp only [Placed, Nat.reduceAdd] at h
    simp only [decode16, must, h, bits_fld, BitVec.ofNat_toNat, BitVec.setWidth_eq, reduceIte, and_self]

theorem bbinit (a b : BitVec 5) (sc : BitVec 3) : Statement (Instr.bbinit a b sc) :=
  long (r := [(sc.toNat, 3), (60, 6), (0, 5), (a.toNat, 5), (b.toNat, 5), (0, 3), (0, 4)]) rfl
    (by simp only [comb]; omega : 0x3c1 + a.toNat * 0x8000 + b.toNat * 0x100000 + sc.toNat * 0x2 = _) ⟨sc.isLt, (by decide), (by decide), a.isLt, b.isLt, (by decide), (by decide), trivial⟩ rfl fun wf h => by
    simp only [Placed, Nat.reduceAdd] at h
    simp only [decode32, major3C, must, h, bits_fld, BitVec.ofNat_toNat, BitVec.setWidth_eq, reduceIte, and_self]

theorem bbpeek (d a : BitVec 5) (sc : BitVec 3) : Statement (Instr.bbpeek d a sc) :=
  long (r := [(sc.toNat, 3), (60, 6), (d.toNat, 5), (a.toNat, 5), (0, 8), (1, 4)]) rfl
    (by simp only [comb]; omega : 0x100003c1 + d.toNat * 0x400 + a.toNat * 0x8000 + sc.toNat * 0x2 = _) ⟨sc.isLt, (by decide), d.isLt, a.isLt, (by decide), (by decide), trivial⟩ rfl fun wf h => by
    simp only [Placed, Nat.reduceAdd] at h
    simp only [decode32, major3C, must, h, bits_fld, BitVec.ofNat_toNat, BitVec.setWidth_eq, reduceIte, and_self]

theorem bbtake (d a : BitVec 5) (sc : BitVec 3) : Statement (Instr.bbtake d a sc) :=
  long (r := [(sc.toNat, 3), (60, 6), (d.toNat, 5), (a.toNat, 5), (0, 8), (2, 4)]) rfl
    (by simp only [comb]; omega : 0x200003c1 + d.toNat * 0x400 + a.toNat * 0x8000 + sc.toNat * 0x2 = _) ⟨sc.isLt, (by decide), d.isLt, a.isLt, (by decide), (by decide), trivial⟩ rfl fun wf h => by
    simp only [Placed, Nat.reduceAdd] at h
    simp only [decode32, major3C, must, h, bits_fld, BitVec.ofNat_toNat, BitVec.setWidth_eq, reduceIte, and_self]

theorem bbskip (a : BitVec 5) (sc : BitVec 3) : Statement (Instr.bbskip a sc) :=
  long (r := [(sc.toNat, 3), (60, 6), (0, 5), (a.toNat, 5), (0, 8), (3, 4)]) rfl
    (by simp only [comb]; omega : 0x300003c1 + a.toNat * 0x8000 + sc.toNat * 0x2 = _) ⟨sc.isLt, (by decide), (by decide), a.isLt, (by decide), (by decide), trivial⟩ rfl fun wf h => by
    simp only [Placed, Nat.reduceAdd] at h
    simp only [decode32, major3C, must, h, bits_fld, BitVec.ofNat_toNat, BitVec.setWidth_eq, reduceIte, and_self]

theorem bbfill (sc : BitVec 3) : Statement (Instr.bbfill sc) :=
  long (r := [(sc.toNat, 3), (60, 6), (0, 18), (4, 4)]) rfl
    (by simp only [comb]; omega : 0x400003c1 + sc.toNat * 0x2 = _) ⟨sc.isLt, (by decide), (by decide), (by decide), trivial⟩ rfl fun wf h => by
    simp only [Placed, Nat.reduceAdd] at h
    simp only [decode32, major3C, must, h, bits_fld, BitVec.ofNat_toNat, BitVec.setWidth_eq, reduceIte, and_self]

theorem ld (d a : BitVec 5) (z : BitVec 2) (o : BitVec 10) (sc : BitVec 3) : Statement (Instr.ld d a z o sc) :=
  long (r := [(sc.toNat, 3), (16, 6), (d.toNat, 5), (a.toNat, 5), (o.toNat, 10), (z.toNat, 2)]) rfl
    (by simp only [comb]; omega : 0x101 + d.toNat * 0x400 + a.toNat * 0x8000 + z.toNat * 0x40000000 + o.toNat * 0x100000 + sc.toNat * 0x2 = _) ⟨sc.isLt, (by decide), d.isLt, a.isLt, o.isLt, z.isLt, trivial⟩ rfl fun wf h => by
    simp only [Placed, Nat.reduceAdd] at h
    simp only [decode32, major10, must, h, bits_fld, BitVec.ofNat_toNat, BitVec.setWidth_eq, reduceIte, and_self]

theorem ldSx (d a : BitVec 5) (z : BitVec 2) (o : BitVec 10) (sc : BitVec 3) : Statement (Instr.ldSx d a z o sc) :=
  long (r := [(sc.toNat, 3), (17, 6), (d.toNat, 5), (a.toNat, 5), (o.toNat, 10), (z.toNat, 2)]) rfl
    (by simp only [comb]; omega : 0x111 + d.toNat * 0x400 + a.toNat * 0x8000 + z.toNat * 0x40000000 + o.toNat * 0x100000 + sc.toNat * 0x2 = _) ⟨sc.isLt, (by decide), d.isLt, a.isLt, o.isLt, z.isLt, trivial⟩ rfl fun wf h => by
    simp only [Placed, Nat.reduceAdd] at h
    simp only [decode32, major11, must, h, bits_fld, BitVec.ofNat_toNat, BitVec.setWidth_eq, reduceIte, and_self]

theorem st (d a : BitVec 5) (z : BitVec 2) (o : BitVec 10) (sc : BitVec 3) : Statement (Instr.st d a z o sc) :=
  long (r := [(sc.toNat, 3), (18, 6), (d.toNat, 5), (a.toNat, 5), (o.toNat, 10), (z.toNat, 2)]) rfl
    (by simp only [comb]; omega : 0x121 + d.toNat * 0x400 + a.toNat * 0x8000 + z.toNat * 0x40000000 + o.toNat * 0x100000 + sc.toNat * 0x2 = _) ⟨sc.isLt, (by decide), d.isLt, a.isLt, o.isLt, z.isLt, trivial⟩ rfl fun wf h => by
    simp only [Placed, Nat.reduceAdd] at h
    simp only [decode32, major12, must, h, bits_fld, BitVec.ofNat_toNat, BitVec.setWidth_eq, reduceIte, and_self]

theorem ldAcq (d a : BitVec 5) (c : BitVec 3) (z : BitVec 2) (o : BitVec 6) (sc : BitVec 3) : Statement (Instr.ldAcq d a c z o sc) :=
  long (r := [(sc.toNat, 3), (19, 6), (d.toNat, 5), (a.toNat, 5), (o.toNat, 6), (z.toNat, 2), (c.toNat, 3), (0, 1)]) rfl
    (by simp only [comb]; omega : 0x131 + d.toNat * 0x400 + a.toNat * 0x8000 + c.toNat * 0x10000000 + z.toNat * 0x4000000 + o.toNat * 0x100000 + sc.toNat * 0x2 = _) ⟨sc.isLt, (by decide), d.isLt, a.isLt, o.isLt, z.isLt, c.isLt, (by decide), trivial⟩ rfl fun wf h => by
    simp only [Placed, Nat.reduceAdd] at h
    simp only [decode32, major13, must, h, bits_fld, BitVec.ofNat_toNat, BitVec.setWidth_eq, reduceIte, and_self]

theorem stRel (d a : BitVec 5) (c : BitVec 3) (z : BitVec 2) (o : BitVec 6) (sc : BitVec 3) : Statement (Instr.stRel d a c z o sc) :=
  long (r := [(sc.toNat, 3), (19, 6), (d.toNat, 5), (a.toNat, 5), (o.toNat, 6), (z.toNat, 2), (c.toNat, 3), (1, 1)]) rfl
    (by simp only [comb]; omega : 0x80000131 + d.toNat * 0x400 + a.toNat * 0x8000 + c.toNat * 0x10000000 + z.toNat * 0x4000000 + o.toNat * 0x100000 + sc.toNat * 0x2 = _) ⟨sc.isLt, (by decide), d.isLt, a.isLt, o.isLt, z.isLt, c.isLt, (by decide), trivial⟩ rfl fun wf h => by
    simp only [Placed, Nat.reduceAdd] at h
    simp only [decode32, major13, must, h, bits_fld, BitVec.ofNat_toNat, BitVec.setWidth_eq, reduceIte, and_self]

theorem vld (d a : BitVec 5) (o : BitVec 10) (sc : BitVec 3) : Statement (Instr.vld d a o sc) :=
  long (r := [(sc.toNat, 3), (20, 6), (d.toNat, 5), (a.toNat, 5), (o.toNat, 10), (0, 2)]) rfl
    (by simp only [comb]; omega : 0x141 + d.toNat * 0x400 + a.toNat * 0x8000 + o.toNat * 0x100000 + sc.toNat * 0x2 = _) ⟨sc.isLt, (by decide), d.isLt, a.isLt, o.isLt, (by decide), trivial⟩ rfl fun wf h => by
    simp only [Placed, Nat.reduceAdd] at h
    simp only [decode32, major14, must, h, bits_fld, BitVec.ofNat_toNat, BitVec.setWidth_eq, reduceIte, and_self]

theorem vst (d a : BitVec 5) (o : BitVec 10) (sc : BitVec 3) : Statement (Instr.vst d a o sc) :=
  long (r := [(sc.toNat, 3), (20, 6), (d.toNat, 5), (a.toNat, 5), (o.toNat, 10), (1, 2)]) rfl
    (by simp only [comb]; omega : 0x40000141 + d.toNat * 0x400 + a.toNat * 0x8000 + o.toNat * 0x100000 + sc.toNat * 0x2 = _) ⟨sc.isLt, (by decide), d.isLt, a.isLt, o.isLt, (by decide), trivial⟩ rfl fun wf h => by
    simp only [Placed, Nat.reduceAdd] at h
    simp only [decode32, major14, must, h, bits_fld, BitVec.ofNat_toNat, BitVec.setWidth_eq, reduceIte, and_self]

theorem vldtRaw (d a b : BitVec 5) (k : BitVec 4) (sc : BitVec 3) : Statement (Instr.vldtRaw d a b k sc) :=
  long (r := [(sc.toNat, 3), (21, 6), (d.toNat, 5), (a.toNat, 5), (b.toNat, 5), (k.toNat, 4), (0, 1), (0, 2)]) rfl
    (by simp only [comb]; omega : 0x151 + d.toNat * 0x400 + a.toNat * 0x8000 + b.toNat * 0x100000 + k.toNat * 0x2000000 + sc.toNat * 0x2 = _) ⟨sc.isLt, (by decide), d.isLt, a.isLt, b.isLt, k.isLt, (by decide), (by decide), trivial⟩ rfl fun wf h => by
    simp only [Placed, Nat.reduceAdd] at h
    simp only [decode32, major15, must, h, bits_fld, BitVec.ofNat_toNat, BitVec.setWidth_eq, reduceIte, and_self]

theorem ldtMap (d a b : BitVec 5) (k : BitVec 4) (sc : BitVec 3) : Statement (Instr.ldtMap d a b k sc) :=
  long (r := [(sc.toNat, 3), (22, 6), (d.toNat, 5), (a.toNat, 5), (b.toNat, 5), (k.toNat, 4), (0, 3)]) rfl
    (by simp only [comb]; omega : 0x161 + d.toNat * 0x400 + a.toNat * 0x8000 + b.toNat * 0x100000 + k.toNat * 0x2000000 + sc.toNat * 0x2 = _) ⟨sc.isLt, (by decide), d.isLt, a.isLt, b.isLt, k.isLt, (by decide), trivial⟩ rfl fun wf h => by
    simp only [Placed, Nat.reduceAdd] at h
    simp only [decode32, major16, must, h, bits_fld, BitVec.ofNat_toNat, BitVec.setWidth_eq, reduceIte, and_self]

theorem ldtTa (d a : BitVec 5) (sc : BitVec 3) : Statement (Instr.ldtTa d a sc) :=
  long (r := [(sc.toNat, 3), (22, 6), (d.toNat, 5), (a.toNat, 5), (0, 9), (1, 3)]) rfl
    (by simp only [comb]; omega : 0x20000161 + d.toNat * 0x400 + a.toNat * 0x8000 + sc.toNat * 0x2 = _) ⟨sc.isLt, (by decide), d.isLt, a.isLt, (by decide), (by decide), trivial⟩ rfl fun wf h => by
    simp only [Placed, Nat.reduceAdd] at h
    simp only [decode32, major16, must, h, bits_fld, BitVec.ofNat_toNat, BitVec.setWidth_eq, reduceIte, and_self]

theorem sttMap (d a b : BitVec 5) (k : BitVec 4) (sc : BitVec 3) : Statement (Instr.sttMap d a b k sc) :=
  long (r := [(sc.toNat, 3), (22, 6), (d.toNat, 5), (a.toNat, 5), (b.toNat, 5), (k.toNat, 4), (2, 3)]) rfl
    (by simp only [comb]; omega : 0x40000161 + d.toNat * 0x400 + a.toNat * 0x8000 + b.toNat * 0x100000 + k.toNat * 0x2000000 + sc.toNat * 0x2 = _) ⟨sc.isLt, (by decide), d.isLt, a.isLt, b.isLt, k.isLt, (by decide), trivial⟩ rfl fun wf h => by
    simp only [Placed, Nat.reduceAdd] at h
    simp only [decode32, major16, must, h, bits_fld, BitVec.ofNat_toNat, BitVec.setWidth_eq, reduceIte, and_self]

theorem sttTa (d a : BitVec 5) (sc : BitVec 3) : Statement (Instr.sttTa d a sc) :=
  long (r := [(sc.toNat, 3), (22, 6), (d.toNat, 5), (a.toNat, 5), (0, 9), (3, 3)]) rfl
    (by simp only [comb]; omega : 0x60000161 + d.toNat * 0x400 + a.toNat * 0x8000 + sc.toNat * 0x2 = _) ⟨sc.isLt, (by decide), d.isLt, a.isLt, (by decide), (by decide), trivial⟩ rfl fun wf h => by
    simp only [Placed, Nat.reduceAdd] at h
    simp only [decode32, major16, must, h, bits_fld, BitVec.ofNat_toNat, BitVec.setWidth_eq, reduceIte, and_self]

theorem vldtMap (d a b : BitVec 5) (k : BitVec 4) (sc : BitVec 3) : Statement (Instr.vldtMap d a b k sc) :=
  long (r := [(sc.toNat, 3), (22, 6), (d.toNat, 5), (a.toNat, 5), (b.toNat, 5), (k.toNat, 4), (4, 3)]) rfl
    (by simp only [comb]; omega : 0x80000161 + d.toNat * 0x400 + a.toNat * 0x8000 + b.toNat * 0x100000 + k.toNat * 0x2000000 + sc.toNat * 0x2 = _) ⟨sc.isLt, (by decide), d.isLt, a.isLt, b.isLt, k.isLt, (by decide), trivial⟩ rfl fun wf h => by
    simp only [Placed, Nat.reduceAdd] at h
    simp only [decode32, major16, must, h, bits_fld, BitVec.ofNat_toNat, BitVec.setWidth_eq, reduceIte, and_self]

theorem vldtTa (d a : BitVec 5) (sc : BitVec 3) : Statement (Instr.vldtTa d a sc) :=
  long (r := [(sc.toNat, 3), (22, 6), (d.toNat, 5), (a.toNat, 5), (0, 9), (5, 3)]) rfl
    (by simp only [comb]; omega : 0xa0000161 + d.toNat * 0x400 + a.toNat * 0x8000 + sc.toNat * 0x2 = _) ⟨sc.isLt, (by decide), d.isLt, a.isLt, (by decide), (by decide), trivial⟩ rfl fun wf h => by
    simp only [Placed, Nat.reduceAdd] at h
    simp only [decode32, major16, must, h, bits_fld, BitVec.ofNat_toNat, BitVec.setWidth_eq, reduceIte, and_self]

theorem vsttMap (d a b : BitVec 5) (k : BitVec 4) (sc : BitVec 3) : Statement (Instr.vsttMap d a b k sc) :=
  long (r := [(sc.toNat, 3), (22, 6), (d.toNat, 5), (a.toNat, 5), (b.toNat, 5), (k.toNat, 4), (6, 3)]) rfl
    (by simp only [comb]; omega : 0xc0000161 + d.toNat * 0x400 + a.toNat * 0x8000 + b.toNat * 0x100000 + k.toNat * 0x2000000 + sc.toNat * 0x2 = _) ⟨sc.isLt, (by decide), d.isLt, a.isLt, b.isLt, k.isLt, (by decide), trivial⟩ rfl fun wf h => by
    simp only [Placed, Nat.reduceAdd] at h
    simp only [decode32, major16, must, h, bits_fld, BitVec.ofNat_toNat, BitVec.setWidth_eq, reduceIte, and_self]

theorem vsttTa (d a : BitVec 5) (sc : BitVec 3) : Statement (Instr.vsttTa d a sc) :=
  long (r := [(sc.toNat, 3), (22, 6), (d.toNat, 5), (a.toNat, 5), (0, 9), (7, 3)]) rfl
    (by simp only [comb]; omega : 0xe0000161 + d.toNat * 0x400 + a.toNat * 0x8000 + sc.toNat * 0x2 = _) ⟨sc.isLt, (by decide), d.isLt, a.isLt, (by decide), (by decide), trivial⟩ rfl fun wf h => by
    simp only [Placed, Nat.reduceAdd] at h
    simp only [decode32, major16, must, h, bits_fld, BitVec.ofNat_toNat, BitVec.setWidth_eq, reduceIte, and_self]

theorem bcopy (d a b : BitVec 5) (sc : BitVec 3) : Statement (Instr.bcopy d a b sc) :=
  long (r := [(sc.toNat, 3), (23, 6), (d.toNat, 5), (a.toNat, 5), (b.toNat, 5), (0, 3), (0, 4)]) rfl
    (by simp only [comb]; omega : 0x171 + d.toNat * 0x400 + a.toNat * 0x8000 + b.toNat * 0x100000 + sc.toNat * 0x2 = _) ⟨sc.isLt, (by decide), d.isLt, a.isLt, b.isLt, (by decide), (by decide), trivial⟩ rfl fun wf h => by
    simp only [Placed, Nat.reduceAdd] at h
    simp only [decode32, major17, must, h, bits_fld, BitVec.ofNat_toNat, BitVec.setWidth_eq, reduceIte, and_self]

theorem bfill (d a b : BitVec 5) (sc : BitVec 3) : Statement (Instr.bfill d a b sc) :=
  long (r := [(sc.toNat, 3), (23, 6), (d.toNat, 5), (a.toNat, 5), (b.toNat, 5), (0, 3), (1, 4)]) rfl
    (by simp only [comb]; omega : 0x10000171 + d.toNat * 0x400 + a.toNat * 0x8000 + b.toNat * 0x100000 + sc.toNat * 0x2 = _) ⟨sc.isLt, (by decide), d.isLt, a.isLt, b.isLt, (by decide), (by decide), trivial⟩ rfl fun wf h => by
    simp only [Placed, Nat.reduceAdd] at h
    simp only [decode32, major17, must, h, bits_fld, BitVec.ofNat_toNat, BitVec.setWidth_eq, reduceIte, and_self]

theorem bzero (d a b : BitVec 5) (sc : BitVec 3) : Statement (Instr.bzero d a b sc) :=
  long (r := [(sc.toNat, 3), (23, 6), (d.toNat, 5), (a.toNat, 5), (b.toNat, 5), (0, 3), (2, 4)]) rfl
    (by simp only [comb]; omega : 0x20000171 + d.toNat * 0x400 + a.toNat * 0x8000 + b.toNat * 0x100000 + sc.toNat * 0x2 = _) ⟨sc.isLt, (by decide), d.isLt, a.isLt, b.isLt, (by decide), (by decide), trivial⟩ rfl fun wf h => by
    simp only [Placed, Nat.reduceAdd] at h
    simp only [decode32, major17, must, h, bits_fld, BitVec.ofNat_toNat, BitVec.setWidth_eq, reduceIte, and_self]

theorem pftLift (d a b : BitVec 5) (sc : BitVec 3) : Statement (Instr.pftLift d a b sc) :=
  long (r := [(sc.toNat, 3), (23, 6), (d.toNat, 5), (a.toNat, 5), (b.toNat, 5), (0, 3), (3, 4)]) rfl
    (by simp only [comb]; omega : 0x30000171 + d.toNat * 0x400 + a.toNat * 0x8000 + b.toNat * 0x100000 + sc.toNat * 0x2 = _) ⟨sc.isLt, (by decide), d.isLt, a.isLt, b.isLt, (by decide), (by decide), trivial⟩ rfl fun wf h => by
    simp only [Placed, Nat.reduceAdd] at h
    simp only [decode32, major17, must, h, bits_fld, BitVec.ofNat_toNat, BitVec.setWidth_eq, reduceIte, and_self]

theorem pftDrop (d a b : BitVec 5) (sc : BitVec 3) : Statement (Instr.pftDrop d a b sc) :=
  long (r := [(sc.toNat, 3), (23, 6), (d.toNat, 5), (a.toNat, 5), (b.toNat, 5), (0, 3), (4, 4)]) rfl
    (by simp only [comb]; omega : 0x40000171 + d.toNat * 0x400 + a.toNat * 0x8000 + b.toNat * 0x100000 + sc.toNat * 0x2 = _) ⟨sc.isLt, (by decide), d.isLt, a.isLt, b.isLt, (by decide), (by decide), trivial⟩ rfl fun wf h => by
    simp only [Placed, Nat.reduceAdd] at h
    simp only [decode32, major17, must, h, bits_fld, BitVec.ofNat_toNat, BitVec.setWidth_eq, reduceIte, and_self]

theorem fship (d a b : BitVec 5) (sc : BitVec 3) : Statement (Instr.fship d a b sc) :=
  long (r := [(sc.toNat, 3), (23, 6), (d.toNat, 5), (a.toNat, 5), (b.toNat, 5), (0, 3), (5, 4)]) rfl
    (by simp only [comb]; omega : 0x50000171 + d.toNat * 0x400 + a.toNat * 0x8000 + b.toNat * 0x100000 + sc.toNat * 0x2 = _) ⟨sc.isLt, (by decide), d.isLt, a.isLt, b.isLt, (by decide), (by decide), trivial⟩ rfl fun wf h => by
    simp only [Placed, Nat.reduceAdd] at h
    simp only [decode32, major17, must, h, bits_fld, BitVec.ofNat_toNat, BitVec.setWidth_eq, reduceIte, and_self]

theorem vgath (p : BitVec 3) (d a : BitVec 5) (b : BitVec 4) (sc : BitVec 3) : Statement (Instr.vgath p d a b sc) :=
  long (r := [(sc.toNat, 3), (23, 6), (d.toNat, 5), (a.toNat, 5), (b.toNat, 4), (0, 1), (p.toNat, 3), (6, 4)]) rfl
    (by simp only [comb]; omega : 0x60000171 + p.toNat * 0x2000000 + d.toNat * 0x400 + a.toNat * 0x8000 + b.toNat * 0x100000 + sc.toNat * 0x2 = _) ⟨sc.isLt, (by decide), d.isLt, a.isLt, b.isLt, (by decide), p.isLt, (by decide), trivial⟩ rfl fun wf h => by
    simp only [Placed, Nat.reduceAdd] at h
    simp only [decode32, major17, must, h, bits_fld, BitVec.ofNat_toNat, BitVec.setWidth_eq, reduceIte, and_self]

theorem vscat (p : BitVec 3) (d a : BitVec 5) (b : BitVec 4) (sc : BitVec 3) : Statement (Instr.vscat p d a b sc) :=
  long (r := [(sc.toNat, 3), (23, 6), (d.toNat, 5), (a.toNat, 5), (b.toNat, 4), (0, 1), (p.toNat, 3), (7, 4)]) rfl
    (by simp only [comb]; omega : 0x70000171 + p.toNat * 0x2000000 + d.toNat * 0x400 + a.toNat * 0x8000 + b.toNat * 0x100000 + sc.toNat * 0x2 = _) ⟨sc.isLt, (by decide), d.isLt, a.isLt, b.isLt, (by decide), p.isLt, (by decide), trivial⟩ rfl fun wf h => by
    simp only [Placed, Nat.reduceAdd] at h
    simp only [decode32, major17, must, h, bits_fld, BitVec.ofNat_toNat, BitVec.setWidth_eq, reduceIte, and_self]

theorem guard (a b : BitVec 5) (sc : BitVec 3) : Statement (Instr.guard a b sc) :=
  long (r := [(sc.toNat, 3), (23, 6), (0, 5), (a.toNat, 5), (b.toNat, 5), (0, 3), (8, 4)]) rfl
    (by simp only [comb]; omega : 0x80000171 + a.toNat * 0x8000 + b.toNat * 0x100000 + sc.toNat * 0x2 = _) ⟨sc.isLt, (by decide), (by decide), a.isLt, b.isLt, (by decide), (by decide), trivial⟩ rfl fun wf h => by
    simp only [Placed, Nat.reduceAdd] at h
    simp only [decode32, major17, must, h, bits_fld, BitVec.ofNat_toNat, BitVec.setWidth_eq, reduceIte, and_self]

theorem unguard (a b : BitVec 5) (sc : BitVec 3) : Statement (Instr.unguard a b sc) :=
  long (r := [(sc.toNat, 3), (23, 6), (0, 5), (a.toNat, 5), (b.toNat, 5), (0, 3), (9, 4)]) rfl
    (by simp only [comb]; omega : 0x90000171 + a.toNat * 0x8000 + b.toNat * 0x100000 + sc.toNat * 0x2 = _) ⟨sc.isLt, (by decide), (by decide), a.isLt, b.isLt, (by decide), (by decide), trivial⟩ rfl fun wf h => by
    simp only [Placed, Nat.reduceAdd] at h
    simp only [decode32, major17, must, h, bits_fld, BitVec.ofNat_toNat, BitVec.setWidth_eq, reduceIte, and_self]

theorem tmld (d : BitVec 4) (a : BitVec 5) (sc : BitVec 3) : Statement (Instr.tmld d a sc) :=
  long (r := [(sc.toNat, 3), (23, 6), (d.toNat, 4), (0, 1), (a.toNat, 5), (0, 8), (10, 4)]) rfl
    (by simp only [comb]; omega : 0xa0000171 + d.toNat * 0x400 + a.toNat * 0x8000 + sc.toNat * 0x2 = _) ⟨sc.isLt, (by decide), d.isLt, (by decide), a.isLt, (by decide), (by decide), trivial⟩ rfl fun wf h => by
    simp only [Placed, Nat.reduceAdd] at h
    simp only [decode32, major17, must, h, bits_fld, BitVec.ofNat_toNat, BitVec.setWidth_eq, reduceIte, and_self]

theorem tmst (d : BitVec 4) (a : BitVec 5) (sc : BitVec 3) : Statement (Instr.tmst d a sc) :=
  long (r := [(sc.toNat, 3), (23, 6), (d.toNat, 4), (0, 1), (a.toNat, 5), (0, 8), (11, 4)]) rfl
    (by simp only [comb]; omega : 0xb0000171 + d.toNat * 0x400 + a.toNat * 0x8000 + sc.toNat * 0x2 = _) ⟨sc.isLt, (by decide), d.isLt, (by decide), a.isLt, (by decide), (by decide), trivial⟩ rfl fun wf h => by
    simp only [Placed, Nat.reduceAdd] at h
    simp only [decode32, major17, must, h, bits_fld, BitVec.ofNat_toNat, BitVec.setWidth_eq, reduceIte, and_self]

theorem send (r : BitVec 1) (a b : BitVec 5) (c : BitVec 8) (n sc : BitVec 3) : Statement (Instr.send r a b c n sc) :=
  long (r := [(sc.toNat, 3), (24, 6), (a.toNat, 5), (b.toNat, 5), (c.toNat, 8), (n.toNat, 3), (r.toNat, 1)]) rfl
    (by simp only [comb]; omega : 0x181 + r.toNat * 0x80000000 + a.toNat * 0x400 + b.toNat * 0x8000 + c.toNat * 0x100000 + n.toNat * 0x10000000 + sc.toNat * 0x2 = _) ⟨sc.isLt, (by decide), a.isLt, b.isLt, c.isLt, n.isLt, r.isLt, trivial⟩ rfl fun wf h => by
    simp only [Placed, Nat.reduceAdd] at h
    simp only [decode32, major18, must, h, bits_fld, BitVec.ofNat_toNat, BitVec.setWidth_eq, reduceIte, and_self]

theorem deposit (a b : BitVec 5) (sc : BitVec 3) : Statement (Instr.deposit a b sc) :=
  long (r := [(sc.toNat, 3), (25, 6), (0, 5), (a.toNat, 5), (b.toNat, 5), (0, 3), (0, 4)]) rfl
    (by simp only [comb]; omega : 0x191 + a.toNat * 0x8000 + b.toNat * 0x100000 + sc.toNat * 0x2 = _) ⟨sc.isLt, (by decide), (by decide), a.isLt, b.isLt, (by decide), (by decide), trivial⟩ rfl fun wf h => by
    simp only [Placed, Nat.reduceAdd] at h
    simp only [decode32, major19, must, h, bits_fld, BitVec.ofNat_toNat, BitVec.setWidth_eq, reduceIte, and_self]

theorem dset (r : BitVec 1) (a b : BitVec 5) (l : BitVec 2) (sc : BitVec 3) : Statement (Instr.dset r a b l sc) :=
  long (r := [(sc.toNat, 3), (25, 6), (0, 5), (a.toNat, 5), (b.toNat, 5), (l.toNat, 2), (r.toNat, 1), (1, 4)]) rfl
    (by simp only [comb]; omega : 0x10000191 + r.toNat * 0x8000000 + a.toNat * 0x8000 + b.toNat * 0x100000 + l.toNat * 0x2000000 + sc.toNat * 0x2 = _) ⟨sc.isLt, (by decide), (by decide), a.isLt, b.isLt, l.isLt, r.isLt, (by decide), trivial⟩ rfl fun wf h => by
    simp only [Placed, Nat.reduceAdd] at h
    simp only [decode32, major19, must, h, bits_fld, BitVec.ofNat_toNat, BitVec.setWidth_eq, reduceIte, and_self]

theorem dget (d a : BitVec 5) (sc : BitVec 3) : Statement (Instr.dget d a sc) :=
  long (r := [(sc.toNat, 3), (25, 6), (d.toNat, 5), (a.toNat, 5), (0, 8), (2, 4)]) rfl
    (by simp only [comb]; omega : 0x20000191 + d.toNat * 0x400 + a.toNat * 0x8000 + sc.toNat * 0x2 = _) ⟨sc.isLt, (by decide), d.isLt, a.isLt, (by decide), (by decide), trivial⟩ rfl fun wf h => by
    simp only [Placed, Nat.reduceAdd] at h
    simp only [decode32, major19, must, h, bits_fld, BitVec.ofNat_toNat, BitVec.setWidth_eq, reduceIte, and_self]

theorem mbxcfg (a : BitVec 5) (sc : BitVec 3) : Statement (Instr.mbxcfg a sc) :=
  long (r := [(sc.toNat, 3), (25, 6), (0, 5), (a.toNat, 5), (0, 8), (3, 4)]) rfl
    (by simp only [comb]; omega : 0x30000191 + a.toNat * 0x8000 + sc.toNat * 0x2 = _) ⟨sc.isLt, (by decide), (by decide), a.isLt, (by decide), (by decide), trivial⟩ rfl fun wf h => by
    simp only [Placed, Nat.reduceAdd] at h
    simp only [decode32, major19, must, h, bits_fld, BitVec.ofNat_toNat, BitVec.setWidth_eq, reduceIte, and_self]

theorem amoAdd (d a b : BitVec 5) (z : BitVec 1) (sc : BitVec 3) : Statement (Instr.amoAdd d a b z sc) :=
  long (r := [(sc.toNat, 3), (26, 6), (d.toNat, 5), (a.toNat, 5), (b.toNat, 5), (z.toNat, 1), (0, 2), (0, 4)]) rfl
    (by simp only [comb]; omega : 0x1a1 + d.toNat * 0x400 + a.toNat * 0x8000 + b.toNat * 0x100000 + z.toNat * 0x2000000 + sc.toNat * 0x2 = _) ⟨sc.isLt, (by decide), d.isLt, a.isLt, b.isLt, z.isLt, (by decide), (by decide), trivial⟩ rfl fun wf h => by
    simp only [Placed, Nat.reduceAdd] at h
    simp only [decode32, major1A, must, h, bits_fld, BitVec.ofNat_toNat, BitVec.setWidth_eq, reduceIte, and_self]

theorem amoMin (d a b : BitVec 5) (z : BitVec 1) (sc : BitVec 3) : Statement (Instr.amoMin d a b z sc) :=
  long (r := [(sc.toNat, 3), (26, 6), (d.toNat, 5), (a.toNat, 5), (b.toNat, 5), (z.toNat, 1), (0, 2), (1, 4)]) rfl
    (by simp only [comb]; omega : 0x100001a1 + d.toNat * 0x400 + a.toNat * 0x8000 + b.toNat * 0x100000 + z.toNat * 0x2000000 + sc.toNat * 0x2 = _) ⟨sc.isLt, (by decide), d.isLt, a.isLt, b.isLt, z.isLt, (by decide), (by decide), trivial⟩ rfl fun wf h => by
    simp only [Placed, Nat.reduceAdd] at h
    simp only [decode32, major1A, must, h, bits_fld, BitVec.ofNat_toNat, BitVec.setWidth_eq, reduceIte, and_self]

theorem amoMax (d a b : BitVec 5) (z : BitVec 1) (sc : BitVec 3) : Statement (Instr.amoMax d a b z sc) :=
  long (r := [(sc.toNat, 3), (26, 6), (d.toNat, 5), (a.toNat, 5), (b.toNat, 5), (z.toNat, 1), (0, 2), (2, 4)]) rfl
    (by simp only [comb]; omega : 0x200001a1 + d.toNat * 0x400 + a.toNat * 0x8000 + b.toNat * 0x100000 + z.toNat * 0x2000000 + sc.toNat * 0x2 = _) ⟨sc.isLt, (by decide), d.isLt, a.isLt, b.isLt, z.isLt, (by decide), (by decide), trivial⟩ rfl fun wf h => by
    simp only [Placed, Nat.reduceAdd] at h
    simp only [decode32, major1A, must, h, bits_fld, BitVec.ofNat_toNat, BitVec.setWidth_eq, reduceIte, and_self]

theorem amoAnd (d a b : BitVec 5) (z : BitVec 1) (sc : BitVec 3) : Statement (Instr.amoAnd d a b z sc) :=
  long (r := [(sc.toNat, 3), (26, 6), (d.toNat, 5), (a.toNat, 5), (b.toNat, 5), (z.toNat, 1), (0, 2), (3, 4)]) rfl
    (by simp only [comb]; omega : 0x300001a1 + d.toNat * 0x400 + a.toNat * 0x8000 + b.toNat * 0x100000 + z.toNat * 0x2000000 + sc.toNat * 0x2 = _) ⟨sc.isLt, (by decide), d.isLt, a.isLt, b.isLt, z.isLt, (by decide), (by decide), trivial⟩ rfl fun wf h => by
    simp only [Placed, Nat.reduceAdd] at h
    simp only [decode32, major1A, must, h, bits_fld, BitVec.ofNat_toNat, BitVec.setWidth_eq, reduceIte, and_self]

theorem amoOr (d a b : BitVec 5) (z : BitVec 1) (sc : BitVec 3) : Statement (Instr.amoOr d a b z sc) :=
  long (r := [(sc.toNat, 3), (26, 6), (d.toNat, 5), (a.toNat, 5), (b.toNat, 5), (z.toNat, 1), (0, 2), (4, 4)]) rfl
    (by simp only [comb]; omega : 0x400001a1 + d.toNat * 0x400 + a.toNat * 0x8000 + b.toNat * 0x100000 + z.toNat * 0x2000000 + sc.toNat * 0x2 = _) ⟨sc.isLt, (by decide), d.isLt, a.isLt, b.isLt, z.isLt, (by decide), (by decide), trivial⟩ rfl fun wf h => by
    simp only [Placed, Nat.reduceAdd] at h
    simp only [decode32, major1A, must, h, bits_fld, BitVec.ofNat_toNat, BitVec.setWidth_eq, reduceIte, and_self]

theorem amoXor (d a b : BitVec 5) (z : BitVec 1) (sc : BitVec 3) : Statement (Instr.amoXor d a b z sc) :=
  long (r := [(sc.toNat, 3), (26, 6), (d.toNat, 5), (a.toNat, 5), (b.toNat, 5), (z.toNat, 1), (0, 2), (5, 4)]) rfl
    (by simp only [comb]; omega : 0x500001a1 + d.toNat * 0x400 + a.toNat * 0x8000 + b.toNat * 0x100000 + z.toNat * 0x2000000 + sc.toNat * 0x2 = _) ⟨sc.isLt, (by decide), d.isLt, a.isLt, b.isLt, z.isLt, (by decide), (by decide), trivial⟩ rfl fun wf h => by
    simp only [Placed, Nat.reduceAdd] at h
    simp only [decode32, major1A, must, h, bits_fld, BitVec.ofNat_toNat, BitVec.setWidth_eq, reduceIte, and_self]

theorem amoSwap (d a b : BitVec 5) (z : BitVec 1) (sc : BitVec 3) : Statement (Instr.amoSwap d a b z sc) :=
  long (r := [(sc.toNat, 3), (26, 6), (d.toNat, 5), (a.toNat, 5), (b.toNat, 5), (z.toNat, 1), (0, 2), (6, 4)]) rfl
    (by simp only [comb]; omega : 0x600001a1 + d.toNat * 0x400 + a.toNat * 0x8000 + b.toNat * 0x100000 + z.toNat * 0x2000000 + sc.toNat * 0x2 = _) ⟨sc.isLt, (by decide), d.isLt, a.isLt, b.isLt, z.isLt, (by decide), (by decide), trivial⟩ rfl fun wf h => by
    simp only [Placed, Nat.reduceAdd] at h
    simp only [decode32, major1A, must, h, bits_fld, BitVec.ofNat_toNat, BitVec.setWidth_eq, reduceIte, and_self]

theorem amoCas (d a b : BitVec 5) (z : BitVec 1) (sc : BitVec 3) : Statement (Instr.amoCas d a b z sc) :=
  long (r := [(sc.toNat, 3), (26, 6), (d.toNat, 5), (a.toNat, 5), (b.toNat, 5), (z.toNat, 1), (0, 2), (7, 4)]) rfl
    (by simp only [comb]; omega : 0x700001a1 + d.toNat * 0x400 + a.toNat * 0x8000 + b.toNat * 0x100000 + z.toNat * 0x2000000 + sc.toNat * 0x2 = _) ⟨sc.isLt, (by decide), d.isLt, a.isLt, b.isLt, z.isLt, (by decide), (by decide), trivial⟩ rfl fun wf h => by
    simp only [Placed, Nat.reduceAdd] at h
    simp only [decode32, major1A, must, h, bits_fld, BitVec.ofNat_toNat, BitVec.setWidth_eq, reduceIte, and_self]

theorem amoMinN (d a b : BitVec 5) (z : BitVec 1) (sc : BitVec 3) : Statement (Instr.amoMinN d a b z sc) :=
  long (r := [(sc.toNat, 3), (26, 6), (d.toNat, 5), (a.toNat, 5), (b.toNat, 5), (z.toNat, 1), (0, 2), (8, 4)]) rfl
    (by simp only [comb]; omega : 0x800001a1 + d.toNat * 0x400 + a.toNat * 0x8000 + b.toNat * 0x100000 + z.toNat * 0x2000000 + sc.toNat * 0x2 = _) ⟨sc.isLt, (by decide), d.isLt, a.isLt, b.isLt, z.isLt, (by decide), (by decide), trivial⟩ rfl fun wf h => by
    simp only [Placed, Nat.reduceAdd] at h
    simp only [decode32, major1A, must, h, bits_fld, BitVec.ofNat_toNat, BitVec.setWidth_eq, reduceIte, and_self]

theorem amoMaxN (d a b : BitVec 5) (z : BitVec 1) (sc : BitVec 3) : Statement (Instr.amoMaxN d a b z sc) :=
  long (r := [(sc.toNat, 3), (26, 6), (d.toNat, 5), (a.toNat, 5), (b.toNat, 5), (z.toNat, 1), (0, 2), (9, 4)]) rfl
    (by simp only [comb]; omega : 0x900001a1 + d.toNat * 0x400 + a.toNat * 0x8000 + b.toNat * 0x100000 + z.toNat * 0x2000000 + sc.toNat * 0x2 = _) ⟨sc.isLt, (by decide), d.isLt, a.isLt, b.isLt, z.isLt, (by decide), (by decide), trivial⟩ rfl fun wf h => by
    simp only [Placed, Nat.reduceAdd] at h
    simp only [decode32, major1A, must, h, bits_fld, BitVec.ofNat_toNat, BitVec.setWidth_eq, reduceIte, and_self]

theorem salloc (d : BitVec 5) (sc : BitVec 3) : Statement (Instr.salloc d sc) :=
  long (r := [(sc.toNat, 3), (27, 6), (d.toNat, 5), (0, 13), (0, 4)]) rfl
    (by simp only [comb]; omega : 0x1b1 + d.toNat * 0x400 + sc.toNat * 0x2 = _) ⟨sc.isLt, (by decide), d.isLt, (by decide), (by decide), trivial⟩ rfl fun wf h => by
    simp only [Placed, Nat.reduceAdd] at h
    simp only [decode32, major1B, must, h, bits_fld, BitVec.ofNat_toNat, BitVec.setWidth_eq, reduceIte, and_self]

theorem sfree (a : BitVec 5) (sc : BitVec 3) : Statement (Instr.sfree a sc) :=
  long (r := [(sc.toNat, 3), (27, 6), (0, 5), (a.toNat, 5), (0, 8), (1, 4)]) rfl
    (by simp only [comb]; omega : 0x100001b1 + a.toNat * 0x8000 + sc.toNat * 0x2 = _) ⟨sc.isLt, (by decide), (by decide), a.isLt, (by decide), (by decide), trivial⟩ rfl fun wf h => by
    simp only [Placed, Nat.reduceAdd] at h
    simp only [decode32, major1B, must, h, bits_fld, BitVec.ofNat_toNat, BitVec.setWidth_eq, reduceIte, and_self]

theorem bar (d a b : BitVec 5) (sc : BitVec 3) : Statement (Instr.bar d a b sc) :=
  long (r := [(sc.toNat, 3), (27, 6), (d.toNat, 5), (a.toNat, 5), (b.toNat, 5), (0, 3), (2, 4)]) rfl
    (by simp only [comb]; omega : 0x200001b1 + d.toNat * 0x400 + a.toNat * 0x8000 + b.toNat * 0x100000 + sc.toNat * 0x2 = _) ⟨sc.isLt, (by decide), d.isLt, a.isLt, b.isLt, (by decide), (by decide), trivial⟩ rfl fun wf h => by
    simp only [Placed, Nat.reduceAdd] at h
    simp only [decode32, major1B, must, h, bits_fld, BitVec.ofNat_toNat, BitVec.setWidth_eq, reduceIte, and_self]

theorem barrive (a b : BitVec 5) (sc : BitVec 3) : Statement (Instr.barrive a b sc) :=
  long (r := [(sc.toNat, 3), (27, 6), (0, 5), (a.toNat, 5), (b.toNat, 5), (0, 3), (3, 4)]) rfl
    (by simp only [comb]; omega : 0x300001b1 + a.toNat * 0x8000 + b.toNat * 0x100000 + sc.toNat * 0x2 = _) ⟨sc.isLt, (by decide), (by decide), a.isLt, b.isLt, (by decide), (by decide), trivial⟩ rfl fun wf h => by
    simp only [Placed, Nat.reduceAdd] at h
    simp only [decode32, major1B, must, h, bits_fld, BitVec.ofNat_toNat, BitVec.setWidth_eq, reduceIte, and_self]

theorem bcancel (a : BitVec 5) (sc : BitVec 3) : Statement (Instr.bcancel a sc) :=
  long (r := [(sc.toNat, 3), (27, 6), (0, 5), (a.toNat, 5), (0, 8), (4, 4)]) rfl
    (by simp only [comb]; omega : 0x400001b1 + a.toNat * 0x8000 + sc.toNat * 0x2 = _) ⟨sc.isLt, (by decide), (by decide), a.isLt, (by decide), (by decide), trivial⟩ rfl fun wf h => by
    simp only [Placed, Nat.reduceAdd] at h
    simp only [decode32, major1B, must, h, bits_fld, BitVec.ofNat_toNat, BitVec.setWidth_eq, reduceIte, and_self]

theorem lock (a : BitVec 5) (sc : BitVec 3) : Statement (Instr.lock a sc) :=
  long (r := [(sc.toNat, 3), (27, 6), (0, 5), (a.toNat, 5), (0, 8), (5, 4)]) rfl
    (by simp only [comb]; omega : 0x500001b1 + a.toNat * 0x8000 + sc.toNat * 0x2 = _) ⟨sc.isLt, (by decide), (by decide), a.isLt, (by decide), (by decide), trivial⟩ rfl fun wf h => by
    simp only [Placed, Nat.reduceAdd] at h
    simp only [decode32, major1B, must, h, bits_fld, BitVec.ofNat_toNat, BitVec.setWidth_eq, reduceIte, and_self]

theorem unlock (a : BitVec 5) (sc : BitVec 3) : Statement (Instr.unlock a sc) :=
  long (r := [(sc.toNat, 3), (27, 6), (0, 5), (a.toNat, 5), (0, 8), (6, 4)]) rfl
    (by simp only [comb]; omega : 0x600001b1 + a.toNat * 0x8000 + sc.toNat * 0x2 = _) ⟨sc.isLt, (by decide), (by decide), a.isLt, (by decide), (by decide), trivial⟩ rfl fun wf h => by
    simp only [Placed, Nat.reduceAdd] at h
    simp only [decode32, major1B, must, h, bits_fld, BitVec.ofNat_toNat, BitVec.setWidth_eq, reduceIte, and_self]

theorem waitv (a b : BitVec 5) (sc : BitVec 3) : Statement (Instr.waitv a b sc) :=
  long (r := [(sc.toNat, 3), (27, 6), (0, 5), (a.toNat, 5), (b.toNat, 5), (0, 3), (7, 4)]) rfl
    (by simp only [comb]; omega : 0x700001b1 + a.toNat * 0x8000 + b.toNat * 0x100000 + sc.toNat * 0x2 = _) ⟨sc.isLt, (by decide), (by decide), a.isLt, b.isLt, (by decide), (by decide), trivial⟩ rfl fun wf h => by
    simp only [Placed, Nat.reduceAdd] at h
    simp only [decode32, major1B, must, h, bits_fld, BitVec.ofNat_toNat, BitVec.setWidth_eq, reduceIte, and_self]

theorem phopen (a : BitVec 5) (sc : BitVec 3) : Statement (Instr.phopen a sc) :=
  long (r := [(sc.toNat, 3), (28, 6), (0, 5), (a.toNat, 5), (0, 8), (0, 4)]) rfl
    (by simp only [comb]; omega : 0x1c1 + a.toNat * 0x8000 + sc.toNat * 0x2 = _) ⟨sc.isLt, (by decide), (by decide), a.isLt, (by decide), (by decide), trivial⟩ rfl fun wf h => by
    simp only [Placed, Nat.reduceAdd] at h
    simp only [decode32, major1C, must, h, bits_fld, BitVec.ofNat_toNat, BitVec.setWidth_eq, reduceIte, and_self]

theorem phset (a : BitVec 5) (sc : BitVec 3) : Statement (Instr.phset a sc) :=
  long (r := [(sc.toNat, 3), (28, 6), (0, 5), (a.toNat, 5), (0, 8), (1, 4)]) rfl
    (by simp only [comb]; omega : 0x100001c1 + a.toNat * 0x8000 + sc.toNat * 0x2 = _) ⟨sc.isLt, (by decide), (by decide), a.isLt, (by decide), (by decide), trivial⟩ rfl fun wf h => by
    simp only [Placed, Nat.reduceAdd] at h
    simp only [decode32, major1C, must, h, bits_fld, BitVec.ofNat_toNat, BitVec.setWidth_eq, reduceIte, and_self]

theorem phend (a : BitVec 5) (sc : BitVec 3) : Statement (Instr.phend a sc) :=
  long (r := [(sc.toNat, 3), (28, 6), (0, 5), (a.toNat, 5), (0, 8), (2, 4)]) rfl
    (by simp only [comb]; omega : 0x200001c1 + a.toNat * 0x8000 + sc.toNat * 0x2 = _) ⟨sc.isLt, (by decide), (by decide), a.isLt, (by decide), (by decide), trivial⟩ rfl fun wf h => by
    simp only [Placed, Nat.reduceAdd] at h
    simp only [decode32, major1C, must, h, bits_fld, BitVec.ofNat_toNat, BitVec.setWidth_eq, reduceIte, and_self]

theorem phwait (a : BitVec 5) (sc : BitVec 3) : Statement (Instr.phwait a sc) :=
  long (r := [(sc.toNat, 3), (28, 6), (0, 5), (a.toNat, 5), (0, 8), (3, 4)]) rfl
    (by simp only [comb]; omega : 0x300001c1 + a.toNat * 0x8000 + sc.toNat * 0x2 = _) ⟨sc.isLt, (by decide), (by decide), a.isLt, (by decide), (by decide), trivial⟩ rfl fun wf h => by
    simp only [Placed, Nat.reduceAdd] at h
    simp only [decode32, major1C, must, h, bits_fld, BitVec.ofNat_toNat, BitVec.setWidth_eq, reduceIte, and_self]

theorem stv (d a b : BitVec 5) (sc : BitVec 3) : Statement (Instr.stv d a b sc) :=
  long (r := [(sc.toNat, 3), (29, 6), (d.toNat, 5), (a.toNat, 5), (b.toNat, 5), (0, 3), (0, 4)]) rfl
    (by simp only [comb]; omega : 0x1d1 + d.toNat * 0x400 + a.toNat * 0x8000 + b.toNat * 0x100000 + sc.toNat * 0x2 = _) ⟨sc.isLt, (by decide), d.isLt, a.isLt, b.isLt, (by decide), (by decide), trivial⟩ rfl fun wf h => by
    simp only [Placed, Nat.reduceAdd] at h
    simp only [decode32, major1D, must, h, bits_fld, BitVec.ofNat_toNat, BitVec.setWidth_eq, reduceIte, and_self]

theorem ldv (d a b : BitVec 5) (sc : BitVec 3) : Statement (Instr.ldv d a b sc) :=
  long (r := [(sc.toNat, 3), (29, 6), (d.toNat, 5), (a.toNat, 5), (b.toNat, 5), (0, 3), (1, 4)]) rfl
    (by simp only [comb]; omega : 0x100001d1 + d.toNat * 0x400 + a.toNat * 0x8000 + b.toNat * 0x100000 + sc.toNat * 0x2 = _) ⟨sc.isLt, (by decide), d.isLt, a.isLt, b.isLt, (by decide), (by decide), trivial⟩ rfl fun wf h => by
    simp only [Placed, Nat.reduceAdd] at h
    simp only [decode32, major1D, must, h, bits_fld, BitVec.ofNat_toNat, BitVec.setWidth_eq, reduceIte, and_self]

theorem recl (a b : BitVec 5) (sc : BitVec 3) : Statement (Instr.recl a b sc) :=
  long (r := [(sc.toNat, 3), (29, 6), (0, 5), (a.toNat, 5), (b.toNat, 5), (0, 3), (2, 4)]) rfl
    (by simp only [comb]; omega : 0x200001d1 + a.toNat * 0x8000 + b.toNat * 0x100000 + sc.toNat * 0x2 = _) ⟨sc.isLt, (by decide), (by decide), a.isLt, b.isLt, (by decide), (by decide), trivial⟩ rfl fun wf h => by
    simp only [Placed, Nat.reduceAdd] at h
    simp only [decode32, major1D, must, h, bits_fld, BitVec.ofNat_toNat, BitVec.setWidth_eq, reduceIte, and_self]

theorem fenceLd (c sc : BitVec 3) : Statement (Instr.fenceLd c sc) :=
  long (r := [(sc.toNat, 3), (30, 6), (0, 15), (c.toNat, 3), (0, 4)]) rfl
    (by simp only [comb]; omega : 0x1e1 + c.toNat * 0x2000000 + sc.toNat * 0x2 = _) ⟨sc.isLt, (by decide), (by decide), c.isLt, (by decide), trivial⟩ rfl fun wf h => by
    simp only [Placed, Nat.reduceAdd] at h
    simp only [decode32, major1E, must, h, bits_fld, BitVec.ofNat_toNat, BitVec.setWidth_eq, reduceIte, and_self]

theorem fenceSt (c sc : BitVec 3) : Statement (Instr.fenceSt c sc) :=
  long (r := [(sc.toNat, 3), (30, 6), (0, 15), (c.toNat, 3), (1, 4)]) rfl
    (by simp only [comb]; omega : 0x100001e1 + c.toNat * 0x2000000 + sc.toNat * 0x2 = _) ⟨sc.isLt, (by decide), (by decide), c.isLt, (by decide), trivial⟩ rfl fun wf h => by
    simp only [Placed, Nat.reduceAdd] at h
    simp only [decode32, major1E, must, h, bits_fld, BitVec.ofNat_toNat, BitVec.setWidth_eq, reduceIte, and_self]

theorem fenceAll (c sc : BitVec 3) : Statement (Instr.fenceAll c sc) :=
  long (r := [(sc.toNat, 3), (30, 6), (0, 15), (c.toNat, 3), (2, 4)]) rfl
    (by simp only [comb]; omega : 0x200001e1 + c.toNat * 0x2000000 + sc.toNat * 0x2 = _) ⟨sc.isLt, (by decide), (by decide), c.isLt, (by decide), trivial⟩ rfl fun wf h => by
    simp only [Placed, Nat.reduceAdd] at h
    simp only [decode32, major1E, must, h, bits_fld, BitVec.ofNat_toNat, BitVec.setWidth_eq, reduceIte, and_self]

theorem vadd (p : BitVec 3) (d a b : BitVec 5) (m : BitVec 2) (sc : BitVec 3) : Statement (Instr.vadd p d a b m sc) :=
  long (r := [(sc.toNat, 3), (m.toNat, 2), (8, 4), (d.toNat, 5), (a.toNat, 5), (b.toNat, 5), (p.toNat, 3), (0, 4)]) rfl
    (by simp only [comb]; omega : 0x201 + p.toNat * 0x2000000 + d.toNat * 0x400 + a.toNat * 0x8000 + b.toNat * 0x100000 + m.toNat * 0x10 + sc.toNat * 0x2 = _) ⟨sc.isLt, m.isLt, (by decide), d.isLt, a.isLt, b.isLt, p.isLt, (by decide), trivial⟩ rfl fun wf h => by
    simp only [Placed, Nat.reduceAdd] at h
    simp only [decode32_rounded h.2.2.1, major20, must, h, bits_fld, BitVec.ofNat_toNat, BitVec.setWidth_eq, reduceIte, and_self]

theorem vsub (p : BitVec 3) (d a b : BitVec 5) (m : BitVec 2) (sc : BitVec 3) : Statement (Instr.vsub p d a b m sc) :=
  long (r := [(sc.toNat, 3), (m.toNat, 2), (8, 4), (d.toNat, 5), (a.toNat, 5), (b.toNat, 5), (p.toNat, 3), (1, 4)]) rfl
    (by simp only [comb]; omega : 0x10000201 + p.toNat * 0x2000000 + d.toNat * 0x400 + a.toNat * 0x8000 + b.toNat * 0x100000 + m.toNat * 0x10 + sc.toNat * 0x2 = _) ⟨sc.isLt, m.isLt, (by decide), d.isLt, a.isLt, b.isLt, p.isLt, (by decide), trivial⟩ rfl fun wf h => by
    simp only [Placed, Nat.reduceAdd] at h
    simp only [decode32_rounded h.2.2.1, major20, must, h, bits_fld, BitVec.ofNat_toNat, BitVec.setWidth_eq, reduceIte, and_self]

theorem vmul (p : BitVec 3) (d a b : BitVec 5) (m : BitVec 2) (sc : BitVec 3) : Statement (Instr.vmul p d a b m sc) :=
  long (r := [(sc.toNat, 3), (m.toNat, 2), (8, 4), (d.toNat, 5), (a.toNat, 5), (b.toNat, 5), (p.toNat, 3), (2, 4)]) rfl
    (by simp only [comb]; omega : 0x20000201 + p.toNat * 0x2000000 + d.toNat * 0x400 + a.toNat * 0x8000 + b.toNat * 0x100000 + m.toNat * 0x10 + sc.toNat * 0x2 = _) ⟨sc.isLt, m.isLt, (by decide), d.isLt, a.isLt, b.isLt, p.isLt, (by decide), trivial⟩ rfl fun wf h => by
    simp only [Placed, Nat.reduceAdd] at h
    simp only [decode32_rounded h.2.2.1, major20, must, h, bits_fld, BitVec.ofNat_toNat, BitVec.setWidth_eq, reduceIte, and_self]

theorem vfma (p : BitVec 3) (d a b : BitVec 5) (m : BitVec 2) (sc : BitVec 3) : Statement (Instr.vfma p d a b m sc) :=
  long (r := [(sc.toNat, 3), (m.toNat, 2), (8, 4), (d.toNat, 5), (a.toNat, 5), (b.toNat, 5), (p.toNat, 3), (3, 4)]) rfl
    (by simp only [comb]; omega : 0x30000201 + p.toNat * 0x2000000 + d.toNat * 0x400 + a.toNat * 0x8000 + b.toNat * 0x100000 + m.toNat * 0x10 + sc.toNat * 0x2 = _) ⟨sc.isLt, m.isLt, (by decide), d.isLt, a.isLt, b.isLt, p.isLt, (by decide), trivial⟩ rfl fun wf h => by
    simp only [Placed, Nat.reduceAdd] at h
    simp only [decode32_rounded h.2.2.1, major20, must, h, bits_fld, BitVec.ofNat_toNat, BitVec.setWidth_eq, reduceIte, and_self]

theorem vfms (p : BitVec 3) (d a b : BitVec 5) (m : BitVec 2) (sc : BitVec 3) : Statement (Instr.vfms p d a b m sc) :=
  long (r := [(sc.toNat, 3), (m.toNat, 2), (8, 4), (d.toNat, 5), (a.toNat, 5), (b.toNat, 5), (p.toNat, 3), (4, 4)]) rfl
    (by simp only [comb]; omega : 0x40000201 + p.toNat * 0x2000000 + d.toNat * 0x400 + a.toNat * 0x8000 + b.toNat * 0x100000 + m.toNat * 0x10 + sc.toNat * 0x2 = _) ⟨sc.isLt, m.isLt, (by decide), d.isLt, a.isLt, b.isLt, p.isLt, (by decide), trivial⟩ rfl fun wf h => by
    simp only [Placed, Nat.reduceAdd] at h
    simp only [decode32_rounded h.2.2.1, major20, must, h, bits_fld, BitVec.ofNat_toNat, BitVec.setWidth_eq, reduceIte, and_self]

theorem vdiv (p : BitVec 3) (d a b : BitVec 5) (m : BitVec 2) (sc : BitVec 3) : Statement (Instr.vdiv p d a b m sc) :=
  long (r := [(sc.toNat, 3), (m.toNat, 2), (8, 4), (d.toNat, 5), (a.toNat, 5), (b.toNat, 5), (p.toNat, 3), (5, 4)]) rfl
    (by simp only [comb]; omega : 0x50000201 + p.toNat * 0x2000000 + d.toNat * 0x400 + a.toNat * 0x8000 + b.toNat * 0x100000 + m.toNat * 0x10 + sc.toNat * 0x2 = _) ⟨sc.isLt, m.isLt, (by decide), d.isLt, a.isLt, b.isLt, p.isLt, (by decide), trivial⟩ rfl fun wf h => by
    simp only [Placed, Nat.reduceAdd] at h
    simp only [decode32_rounded h.2.2.1, major20, must, h, bits_fld, BitVec.ofNat_toNat, BitVec.setWidth_eq, reduceIte, and_self]

theorem vsqrt (p : BitVec 3) (d a : BitVec 5) (m : BitVec 2) (sc : BitVec 3) : Statement (Instr.vsqrt p d a m sc) :=
  long (r := [(sc.toNat, 3), (m.toNat, 2), (8, 4), (d.toNat, 5), (a.toNat, 5), (0, 5), (p.toNat, 3), (6, 4)]) rfl
    (by simp only [comb]; omega : 0x60000201 + p.toNat * 0x2000000 + d.toNat * 0x400 + a.toNat * 0x8000 + m.toNat * 0x10 + sc.toNat * 0x2 = _) ⟨sc.isLt, m.isLt, (by decide), d.isLt, a.isLt, (by decide), p.isLt, (by decide), trivial⟩ rfl fun wf h => by
    simp only [Placed, Nat.reduceAdd] at h
    simp only [decode32_rounded h.2.2.1, major20, must, h, bits_fld, BitVec.ofNat_toNat, BitVec.setWidth_eq, reduceIte, and_self]

theorem vaddSat (p : BitVec 3) (d a b : BitVec 5) (m : BitVec 2) (sc : BitVec 3) : Statement (Instr.vaddSat p d a b m sc) :=
  long (r := [(sc.toNat, 3), (m.toNat, 2), (8, 4), (d.toNat, 5), (a.toNat, 5), (b.toNat, 5), (p.toNat, 3), (7, 4)]) rfl
    (by simp only [comb]; omega : 0x70000201 + p.toNat * 0x2000000 + d.toNat * 0x400 + a.toNat * 0x8000 + b.toNat * 0x100000 + m.toNat * 0x10 + sc.toNat * 0x2 = _) ⟨sc.isLt, m.isLt, (by decide), d.isLt, a.isLt, b.isLt, p.isLt, (by decide), trivial⟩ rfl fun wf h => by
    simp only [Placed, Nat.reduceAdd] at h
    simp only [decode32_rounded h.2.2.1, major20, must, h, bits_fld, BitVec.ofNat_toNat, BitVec.setWidth_eq, reduceIte, and_self]

theorem vsubSat (p : BitVec 3) (d a b : BitVec 5) (m : BitVec 2) (sc : BitVec 3) : Statement (Instr.vsubSat p d a b m sc) :=
  long (r := [(sc.toNat, 3), (m.toNat, 2), (8, 4), (d.toNat, 5), (a.toNat, 5), (b.toNat, 5), (p.toNat, 3), (8, 4)]) rfl
    (by simp only [comb]; omega : 0x80000201 + p.toNat * 0x2000000 + d.toNat * 0x400 + a.toNat * 0x8000 + b.toNat * 0x100000 + m.toNat * 0x10 + sc.toNat * 0x2 = _) ⟨sc.isLt, m.isLt, (by decide), d.isLt, a.isLt, b.isLt, p.isLt, (by decide), trivial⟩ rfl fun wf h => by
    simp only [Placed, Nat.reduceAdd] at h
    simp only [decode32_rounded h.2.2.1, major20, must, h, bits_fld, BitVec.ofNat_toNat, BitVec.setWidth_eq, reduceIte, and_self]

theorem vmulSat (p : BitVec 3) (d a b : BitVec 5) (m : BitVec 2) (sc : BitVec 3) : Statement (Instr.vmulSat p d a b m sc) :=
  long (r := [(sc.toNat, 3), (m.toNat, 2), (8, 4), (d.toNat, 5), (a.toNat, 5), (b.toNat, 5), (p.toNat, 3), (9, 4)]) rfl
    (by simp only [comb]; omega : 0x90000201 + p.toNat * 0x2000000 + d.toNat * 0x400 + a.toNat * 0x8000 + b.toNat * 0x100000 + m.toNat * 0x10 + sc.toNat * 0x2 = _) ⟨sc.isLt, m.isLt, (by decide), d.isLt, a.isLt, b.isLt, p.isLt, (by decide), trivial⟩ rfl fun wf h => by
    simp only [Placed, Nat.reduceAdd] at h
    simp only [decode32_rounded h.2.2.1, major20, must, h, bits_fld, BitVec.ofNat_toNat, BitVec.setWidth_eq, reduceIte, and_self]

theorem vfmaSat (p : BitVec 3) (d a b : BitVec 5) (m : BitVec 2) (sc : BitVec 3) : Statement (Instr.vfmaSat p d a b m sc) :=
  long (r := [(sc.toNat, 3), (m.toNat, 2), (8, 4), (d.toNat, 5), (a.toNat, 5), (b.toNat, 5), (p.toNat, 3), (10, 4)]) rfl
    (by simp only [comb]; omega : 0xa0000201 + p.toNat * 0x2000000 + d.toNat * 0x400 + a.toNat * 0x8000 + b.toNat * 0x100000 + m.toNat * 0x10 + sc.toNat * 0x2 = _) ⟨sc.isLt, m.isLt, (by decide), d.isLt, a.isLt, b.isLt, p.isLt, (by decide), trivial⟩ rfl fun wf h => by
    simp only [Placed, Nat.reduceAdd] at h
    simp only [decode32_rounded h.2.2.1, major20, must, h, bits_fld, BitVec.ofNat_toNat, BitVec.setWidth_eq, reduceIte, and_self]

theorem vaddNSat (p : BitVec 3) (d a b : BitVec 5) (m : BitVec 2) (sc : BitVec 3) : Statement (Instr.vaddNSat p d a b m sc) :=
  long (r := [(sc.toNat, 3), (m.toNat, 2), (8, 4), (d.toNat, 5), (a.toNat, 5), (b.toNat, 5), (p.toNat, 3), (11, 4)]) rfl
    (by simp only [comb]; omega : 0xb0000201 + p.toNat * 0x2000000 + d.toNat * 0x400 + a.toNat * 0x8000 + b.toNat * 0x100000 + m.toNat * 0x10 + sc.toNat * 0x2 = _) ⟨sc.isLt, m.isLt, (by decide), d.isLt, a.isLt, b.isLt, p.isLt, (by decide), trivial⟩ rfl fun wf h => by
    simp only [Placed, Nat.reduceAdd] at h
    simp only [decode32_rounded h.2.2.1, major20, must, h, bits_fld, BitVec.ofNat_toNat, BitVec.setWidth_eq, reduceIte, and_self]

theorem vsubNSat (p : BitVec 3) (d a b : BitVec 5) (m : BitVec 2) (sc : BitVec 3) : Statement (Instr.vsubNSat p d a b m sc) :=
  long (r := [(sc.toNat, 3), (m.toNat, 2), (8, 4), (d.toNat, 5), (a.toNat, 5), (b.toNat, 5), (p.toNat, 3), (12, 4)]) rfl
    (by simp only [comb]; omega : 0xc0000201 + p.toNat * 0x2000000 + d.toNat * 0x400 + a.toNat * 0x8000 + b.toNat * 0x100000 + m.toNat * 0x10 + sc.toNat * 0x2 = _) ⟨sc.isLt, m.isLt, (by decide), d.isLt, a.isLt, b.isLt, p.isLt, (by decide), trivial⟩ rfl fun wf h => by
    simp only [Placed, Nat.reduceAdd] at h
    simp only [decode32_rounded h.2.2.1, major20, must, h, bits_fld, BitVec.ofNat_toNat, BitVec.setWidth_eq, reduceIte, and_self]

theorem vmin (p : BitVec 3) (d a b : BitVec 5) (sc : BitVec 3) : Statement (Instr.vmin p d a b sc) :=
  long (r := [(sc.toNat, 3), (36, 6), (d.toNat, 5), (a.toNat, 5), (b.toNat, 5), (p.toNat, 3), (0, 4)]) rfl
    (by simp only [comb]; omega : 0x241 + p.toNat * 0x2000000 + d.toNat * 0x400 + a.toNat * 0x8000 + b.toNat * 0x100000 + sc.toNat * 0x2 = _) ⟨sc.isLt, (by decide), d.isLt, a.isLt, b.isLt, p.isLt, (by decide), trivial⟩ rfl fun wf h => by
    simp only [Placed, Nat.reduceAdd] at h
    simp only [decode32, major24, must, h, bits_fld, BitVec.ofNat_toNat, BitVec.setWidth_eq, reduceIte, and_self]

theorem vmax (p : BitVec 3) (d a b : BitVec 5) (sc : BitVec 3) : Statement (Instr.vmax p d a b sc) :=
  long (r := [(sc.toNat, 3), (36, 6), (d.toNat, 5), (a.toNat, 5), (b.toNat, 5), (p.toNat, 3), (1, 4)]) rfl
    (by simp only [comb]; omega : 0x10000241 + p.toNat * 0x2000000 + d.toNat * 0x400 + a.toNat * 0x8000 + b.toNat * 0x100000 + sc.toNat * 0x2 = _) ⟨sc.isLt, (by decide), d.isLt, a.isLt, b.isLt, p.isLt, (by decide), trivial⟩ rfl fun wf h => by
    simp only [Placed, Nat.reduceAdd] at h
    simp only [decode32, major24, must, h, bits_fld, BitVec.ofNat_toNat, BitVec.setWidth_eq, reduceIte, and_self]

theorem vminN (p : BitVec 3) (d a b : BitVec 5) (sc : BitVec 3) : Statement (Instr.vminN p d a b sc) :=
  long (r := [(sc.toNat, 3), (36, 6), (d.toNat, 5), (a.toNat, 5), (b.toNat, 5), (p.toNat, 3), (2, 4)]) rfl
    (by simp only [comb]; omega : 0x20000241 + p.toNat * 0x2000000 + d.toNat * 0x400 + a.toNat * 0x8000 + b.toNat * 0x100000 + sc.toNat * 0x2 = _) ⟨sc.isLt, (by decide), d.isLt, a.isLt, b.isLt, p.isLt, (by decide), trivial⟩ rfl fun wf h => by
    simp only [Placed, Nat.reduceAdd] at h
    simp only [decode32, major24, must, h, bits_fld, BitVec.ofNat_toNat, BitVec.setWidth_eq, reduceIte, and_self]

theorem vmaxN (p : BitVec 3) (d a b : BitVec 5) (sc : BitVec 3) : Statement (Instr.vmaxN p d a b sc) :=
  long (r := [(sc.toNat, 3), (36, 6), (d.toNat, 5), (a.toNat, 5), (b.toNat, 5), (p.toNat, 3), (3, 4)]) rfl
    (by simp only [comb]; omega : 0x30000241 + p.toNat * 0x2000000 + d.toNat * 0x400 + a.toNat * 0x8000 + b.toNat * 0x100000 + sc.toNat * 0x2 = _) ⟨sc.isLt, (by decide), d.isLt, a.isLt, b.isLt, p.isLt, (by decide), trivial⟩ rfl fun wf h => by
    simp only [Placed, Nat.reduceAdd] at h
    simp only [decode32, major24, must, h, bits_fld, BitVec.ofNat_toNat, BitVec.setWidth_eq, reduceIte, and_self]

theorem vabs (p : BitVec 3) (d a : BitVec 5) (sc : BitVec 3) : Statement (Instr.vabs p d a sc) :=
  long (r := [(sc.toNat, 3), (36, 6), (d.toNat, 5), (a.toNat, 5), (0, 5), (p.toNat, 3), (4, 4)]) rfl
    (by simp only [comb]; omega : 0x40000241 + p.toNat * 0x2000000 + d.toNat * 0x400 + a.toNat * 0x8000 + sc.toNat * 0x2 = _) ⟨sc.isLt, (by decide), d.isLt, a.isLt, (by decide), p.isLt, (by decide), trivial⟩ rfl fun wf h => by
    simp only [Placed, Nat.reduceAdd] at h
    simp only [decode32, major24, must, h, bits_fld, BitVec.ofNat_toNat, BitVec.setWidth_eq, reduceIte, and_self]

theorem vneg (p : BitVec 3) (d a : BitVec 5) (sc : BitVec 3) : Statement (Instr.vneg p d a sc) :=
  long (r := [(sc.toNat, 3), (36, 6), (d.toNat, 5), (a.toNat, 5), (0, 5), (p.toNat, 3), (5, 4)]) rfl
    (by simp only [comb]; omega : 0x50000241 + p.toNat * 0x2000000 + d.toNat * 0x400 + a.toNat * 0x8000 + sc.toNat * 0x2 = _) ⟨sc.isLt, (by decide), d.isLt, a.isLt, (by decide), p.isLt, (by decide), trivial⟩ rfl fun wf h => by
    simp only [Placed, Nat.reduceAdd] at h
    simp only [decode32, major24, must, h, bits_fld, BitVec.ofNat_toNat, BitVec.setWidth_eq, reduceIte, and_self]

theorem vand (p : BitVec 3) (d a b : BitVec 5) (sc : BitVec 3) : Statement (Instr.vand p d a b sc) :=
  long (r := [(sc.toNat, 3), (36, 6), (d.toNat, 5), (a.toNat, 5), (b.toNat, 5), (p.toNat, 3), (6, 4)]) rfl
    (by simp only [comb]; omega : 0x60000241 + p.toNat * 0x2000000 + d.toNat * 0x400 + a.toNat * 0x8000 + b.toNat * 0x100000 + sc.toNat * 0x2 = _) ⟨sc.isLt, (by decide), d.isLt, a.isLt, b.isLt, p.isLt, (by decide), trivial⟩ rfl fun wf h => by
    simp only [Placed, Nat.reduceAdd] at h
    simp only [decode32, major24, must, h, bits_fld, BitVec.ofNat_toNat, BitVec.setWidth_eq, reduceIte, and_self]

theorem vor (p : BitVec 3) (d a b : BitVec 5) (sc : BitVec 3) : Statement (Instr.vor p d a b sc) :=
  long (r := [(sc.toNat, 3), (36, 6), (d.toNat, 5), (a.toNat, 5), (b.toNat, 5), (p.toNat, 3), (7, 4)]) rfl
    (by simp only [comb]; omega : 0x70000241 + p.toNat * 0x2000000 + d.toNat * 0x400 + a.toNat * 0x8000 + b.toNat * 0x100000 + sc.toNat * 0x2 = _) ⟨sc.isLt, (by decide), d.isLt, a.isLt, b.isLt, p.isLt, (by decide), trivial⟩ rfl fun wf h => by
    simp only [Placed, Nat.reduceAdd] at h
    simp only [decode32, major24, must, h, bits_fld, BitVec.ofNat_toNat, BitVec.setWidth_eq, reduceIte, and_self]

theorem vxor (p : BitVec 3) (d a b : BitVec 5) (sc : BitVec 3) : Statement (Instr.vxor p d a b sc) :=
  long (r := [(sc.toNat, 3), (36, 6), (d.toNat, 5), (a.toNat, 5), (b.toNat, 5), (p.toNat, 3), (8, 4)]) rfl
    (by simp only [comb]; omega : 0x80000241 + p.toNat * 0x2000000 + d.toNat * 0x400 + a.toNat * 0x8000 + b.toNat * 0x100000 + sc.toNat * 0x2 = _) ⟨sc.isLt, (by decide), d.isLt, a.isLt, b.isLt, p.isLt, (by decide), trivial⟩ rfl fun wf h => by
    simp only [Placed, Nat.reduceAdd] at h
    simp only [decode32, major24, must, h, bits_fld, BitVec.ofNat_toNat, BitVec.setWidth_eq, reduceIte, and_self]

theorem vshl (p : BitVec 3) (d a b : BitVec 5) (sc : BitVec 3) : Statement (Instr.vshl p d a b sc) :=
  long (r := [(sc.toNat, 3), (36, 6), (d.toNat, 5), (a.toNat, 5), (b.toNat, 5), (p.toNat, 3), (9, 4)]) rfl
    (by simp only [comb]; omega : 0x90000241 + p.toNat * 0x2000000 + d.toNat * 0x400 + a.toNat * 0x8000 + b.toNat * 0x100000 + sc.toNat * 0x2 = _) ⟨sc.isLt, (by decide), d.isLt, a.isLt, b.isLt, p.isLt, (by decide), trivial⟩ rfl fun wf h => by
    simp only [Placed, Nat.reduceAdd] at h
    simp only [decode32, major24, must, h, bits_fld, BitVec.ofNat_toNat, BitVec.setWidth_eq, reduceIte, and_self]

theorem vshr (p : BitVec 3) (d a b : BitVec 5) (sc : BitVec 3) : Statement (Instr.vshr p d a b sc) :=
  long (r := [(sc.toNat, 3), (36, 6), (d.toNat, 5), (a.toNat, 5), (b.toNat, 5), (p.toNat, 3), (10, 4)]) rfl
    (by simp only [comb]; omega : 0xa0000241 + p.toNat * 0x2000000 + d.toNat * 0x400 + a.toNat * 0x8000 + b.toNat * 0x100000 + sc.toNat * 0x2 = _) ⟨sc.isLt, (by decide), d.isLt, a.isLt, b.isLt, p.isLt, (by decide), trivial⟩ rfl fun wf h => by
    simp only [Placed, Nat.reduceAdd] at h
    simp only [decode32, major24, must, h, bits_fld, BitVec.ofNat_toNat, BitVec.setWidth_eq, reduceIte, and_self]

theorem vsra (p : BitVec 3) (d a b : BitVec 5) (sc : BitVec 3) : Statement (Instr.vsra p d a b sc) :=
  long (r := [(sc.toNat, 3), (36, 6), (d.toNat, 5), (a.toNat, 5), (b.toNat, 5), (p.toNat, 3), (11, 4)]) rfl
    (by simp only [comb]; omega : 0xb0000241 + p.toNat * 0x2000000 + d.toNat * 0x400 + a.toNat * 0x8000 + b.toNat * 0x100000 + sc.toNat * 0x2 = _) ⟨sc.isLt, (by decide), d.isLt, a.isLt, b.isLt, p.isLt, (by decide), trivial⟩ rfl fun wf h => by
    simp only [Placed, Nat.reduceAdd] at h
    simp only [decode32, major24, must, h, bits_fld, BitVec.ofNat_toNat, BitVec.setWidth_eq, reduceIte, and_self]

theorem vmov (p : BitVec 3) (d a : BitVec 5) (sc : BitVec 3) : Statement (Instr.vmov p d a sc) :=
  long (r := [(sc.toNat, 3), (36, 6), (d.toNat, 5), (a.toNat, 5), (0, 5), (p.toNat, 3), (12, 4)]) rfl
    (by simp only [comb]; omega : 0xc0000241 + p.toNat * 0x2000000 + d.toNat * 0x400 + a.toNat * 0x8000 + sc.toNat * 0x2 = _) ⟨sc.isLt, (by decide), d.isLt, a.isLt, (by decide), p.isLt, (by decide), trivial⟩ rfl fun wf h => by
    simp only [Placed, Nat.reduceAdd] at h
    simp only [decode32, major24, must, h, bits_fld, BitVec.ofNat_toNat, BitVec.setWidth_eq, reduceIte, and_self]

theorem vtag (d a t : BitVec 5) (sc : BitVec 3) : Statement (Instr.vtag d a t sc) :=
  long (r := [(sc.toNat, 3), (36, 6), (d.toNat, 5), (a.toNat, 5), (t.toNat, 5), (0, 3), (13, 4)]) rfl
    (by simp only [comb]; omega : 0xd0000241 + d.toNat * 0x400 + a.toNat * 0x8000 + t.toNat * 0x100000 + sc.toNat * 0x2 = _) ⟨sc.isLt, (by decide), d.isLt, a.isLt, t.isLt, (by decide), (by decide), trivial⟩ rfl fun wf h => by
    simp only [Placed, Nat.reduceAdd] at h
    simp only [decode32, major24, must, h, bits_fld, BitVec.ofNat_toNat, BitVec.setWidth_eq, reduceIte, and_self]

theorem vbcast (p : BitVec 3) (d a t : BitVec 5) (sc : BitVec 3) : Statement (Instr.vbcast p d a t sc) :=
  long (r := [(sc.toNat, 3), (36, 6), (d.toNat, 5), (a.toNat, 5), (t.toNat, 5), (p.toNat, 3), (14, 4)]) rfl
    (by simp only [comb]; omega : 0xe0000241 + p.toNat * 0x2000000 + d.toNat * 0x400 + a.toNat * 0x8000 + t.toNat * 0x100000 + sc.toNat * 0x2 = _) ⟨sc.isLt, (by decide), d.isLt, a.isLt, t.isLt, p.isLt, (by decide), trivial⟩ rfl fun wf h => by
    simp only [Placed, Nat.reduceAdd] at h
    simp only [decode32, major24, must, h, bits_fld, BitVec.ofNat_toNat, BitVec.setWidth_eq, reduceIte, and_self]

theorem vcmpEq (p : BitVec 3) (d a b : BitVec 5) (sc : BitVec 3) : Statement (Instr.vcmpEq p d a b sc) :=
  long (r := [(sc.toNat, 3), (37, 6), (d.toNat, 5), (a.toNat, 5), (b.toNat, 5), (p.toNat, 3), (0, 4)]) rfl
    (by simp only [comb]; omega : 0x251 + p.toNat * 0x2000000 + d.toNat * 0x400 + a.toNat * 0x8000 + b.toNat * 0x100000 + sc.toNat * 0x2 = _) ⟨sc.isLt, (by decide), d.isLt, a.isLt, b.isLt, p.isLt, (by decide), trivial⟩ rfl fun wf h => by
    simp only [Placed, Nat.reduceAdd] at h
    simp only [decode32, major25, must, h, bits_fld, BitVec.ofNat_toNat, BitVec.setWidth_eq, reduceIte, and_self]

theorem vcmpNe (p : BitVec 3) (d a b : BitVec 5) (sc : BitVec 3) : Statement (Instr.vcmpNe p d a b sc) :=
  long (r := [(sc.toNat, 3), (37, 6), (d.toNat, 5), (a.toNat, 5), (b.toNat, 5), (p.toNat, 3), (1, 4)]) rfl
    (by simp only [comb]; omega : 0x10000251 + p.toNat * 0x2000000 + d.toNat * 0x400 + a.toNat * 0x8000 + b.toNat * 0x100000 + sc.toNat * 0x2 = _) ⟨sc.isLt, (by decide), d.isLt, a.isLt, b.isLt, p.isLt, (by decide), trivial⟩ rfl fun wf h => by
    simp only [Placed, Nat.reduceAdd] at h
    simp only [decode32, major25, must, h, bits_fld, BitVec.ofNat_toNat, BitVec.setWidth_eq, reduceIte, and_self]

theorem vcmpLt (p : BitVec 3) (d a b : BitVec 5) (sc : BitVec 3) : Statement (Instr.vcmpLt p d a b sc) :=
  long (r := [(sc.toNat, 3), (37, 6), (d.toNat, 5), (a.toNat, 5), (b.toNat, 5), (p.toNat, 3), (2, 4)]) rfl
    (by simp only [comb]; omega : 0x20000251 + p.toNat * 0x2000000 + d.toNat * 0x400 + a.toNat * 0x8000 + b.toNat * 0x100000 + sc.toNat * 0x2 = _) ⟨sc.isLt, (by decide), d.isLt, a.isLt, b.isLt, p.isLt, (by decide), trivial⟩ rfl fun wf h => by
    simp only [Placed, Nat.reduceAdd] at h
    simp only [decode32, major25, must, h, bits_fld, BitVec.ofNat_toNat, BitVec.setWidth_eq, reduceIte, and_self]

theorem vcmpGe (p : BitVec 3) (d a b : BitVec 5) (sc : BitVec 3) : Statement (Instr.vcmpGe p d a b sc) :=
  long (r := [(sc.toNat, 3), (37, 6), (d.toNat, 5), (a.toNat, 5), (b.toNat, 5), (p.toNat, 3), (3, 4)]) rfl
    (by simp only [comb]; omega : 0x30000251 + p.toNat * 0x2000000 + d.toNat * 0x400 + a.toNat * 0x8000 + b.toNat * 0x100000 + sc.toNat * 0x2 = _) ⟨sc.isLt, (by decide), d.isLt, a.isLt, b.isLt, p.isLt, (by decide), trivial⟩ rfl fun wf h => by
    simp only [Placed, Nat.reduceAdd] at h
    simp only [decode32, major25, must, h, bits_fld, BitVec.ofNat_toNat, BitVec.setWidth_eq, reduceIte, and_self]

theorem vcmpLe (p : BitVec 3) (d a b : BitVec 5) (sc : BitVec 3) : Statement (Instr.vcmpLe p d a b sc) :=
  long (r := [(sc.toNat, 3), (37, 6), (d.toNat, 5), (a.toNat, 5), (b.toNat, 5), (p.toNat, 3), (4, 4)]) rfl
    (by simp only [comb]; omega : 0x40000251 + p.toNat * 0x2000000 + d.toNat * 0x400 + a.toNat * 0x8000 + b.toNat * 0x100000 + sc.toNat * 0x2 = _) ⟨sc.isLt, (by decide), d.isLt, a.isLt, b.isLt, p.isLt, (by decide), trivial⟩ rfl fun wf h => by
    simp only [Placed, Nat.reduceAdd] at h
    simp only [decode32, major25, must, h, bits_fld, BitVec.ofNat_toNat, BitVec.setWidth_eq, reduceIte, and_self]

theorem vcmpGt (p : BitVec 3) (d a b : BitVec 5) (sc : BitVec 3) : Statement (Instr.vcmpGt p d a b sc) :=
  long (r := [(sc.toNat, 3), (37, 6), (d.toNat, 5), (a.toNat, 5), (b.toNat, 5), (p.toNat, 3), (5, 4)]) rfl
    (by simp only [comb]; omega : 0x50000251 + p.toNat * 0x2000000 + d.toNat * 0x400 + a.toNat * 0x8000 + b.toNat * 0x100000 + sc.toNat * 0x2 = _) ⟨sc.isLt, (by decide), d.isLt, a.isLt, b.isLt, p.isLt, (by decide), trivial⟩ rfl fun wf h => by
    simp only [Placed, Nat.reduceAdd] at h
    simp only [decode32, major25, must, h, bits_fld, BitVec.ofNat_toNat, BitVec.setWidth_eq, reduceIte, and_self]

theorem vcmpUn (p : BitVec 3) (d a b : BitVec 5) (sc : BitVec 3) : Statement (Instr.vcmpUn p d a b sc) :=
  long (r := [(sc.toNat, 3), (37, 6), (d.toNat, 5), (a.toNat, 5), (b.toNat, 5), (p.toNat, 3), (6, 4)]) rfl
    (by simp only [comb]; omega : 0x60000251 + p.toNat * 0x2000000 + d.toNat * 0x400 + a.toNat * 0x8000 + b.toNat * 0x100000 + sc.toNat * 0x2 = _) ⟨sc.isLt, (by decide), d.isLt, a.isLt, b.isLt, p.isLt, (by decide), trivial⟩ rfl fun wf h => by
    simp only [Placed, Nat.reduceAdd] at h
    simp only [decode32, major25, must, h, bits_fld, BitVec.ofNat_toNat, BitVec.setWidth_eq, reduceIte, and_self]

theorem vcmpOrd (p : BitVec 3) (d a b : BitVec 5) (sc : BitVec 3) : Statement (Instr.vcmpOrd p d a b sc) :=
  long (r := [(sc.toNat, 3), (37, 6), (d.toNat, 5), (a.toNat, 5), (b.toNat, 5), (p.toNat, 3), (7, 4)]) rfl
    (by simp only [comb]; omega : 0x70000251 + p.toNat * 0x2000000 + d.toNat * 0x400 + a.toNat * 0x8000 + b.toNat * 0x100000 + sc.toNat * 0x2 = _) ⟨sc.isLt, (by decide), d.isLt, a.isLt, b.isLt, p.isLt, (by decide), trivial⟩ rfl fun wf h => by
    simp only [Placed, Nat.reduceAdd] at h
    simp only [decode32, major25, must, h, bits_fld, BitVec.ofNat_toNat, BitVec.setWidth_eq, reduceIte, and_self]

theorem vcmpLtN (p : BitVec 3) (d a b : BitVec 5) (sc : BitVec 3) : Statement (Instr.vcmpLtN p d a b sc) :=
  long (r := [(sc.toNat, 3), (37, 6), (d.toNat, 5), (a.toNat, 5), (b.toNat, 5), (p.toNat, 3), (8, 4)]) rfl
    (by simp only [comb]; omega : 0x80000251 + p.toNat * 0x2000000 + d.toNat * 0x400 + a.toNat * 0x8000 + b.toNat * 0x100000 + sc.toNat * 0x2 = _) ⟨sc.isLt, (by decide), d.isLt, a.isLt, b.isLt, p.isLt, (by decide), trivial⟩ rfl fun wf h => by
    simp only [Placed, Nat.reduceAdd] at h
    simp only [decode32, major25, must, h, bits_fld, BitVec.ofNat_toNat, BitVec.setWidth_eq, reduceIte, and_self]

theorem vcmpGeN (p : BitVec 3) (d a b : BitVec 5) (sc : BitVec 3) : Statement (Instr.vcmpGeN p d a b sc) :=
  long (r := [(sc.toNat, 3), (37, 6), (d.toNat, 5), (a.toNat, 5), (b.toNat, 5), (p.toNat, 3), (9, 4)]) rfl
    (by simp only [comb]; omega : 0x90000251 + p.toNat * 0x2000000 + d.toNat * 0x400 + a.toNat * 0x8000 + b.toNat * 0x100000 + sc.toNat * 0x2 = _) ⟨sc.isLt, (by decide), d.isLt, a.isLt, b.isLt, p.isLt, (by decide), trivial⟩ rfl fun wf h => by
    simp only [Placed, Nat.reduceAdd] at h
    simp only [decode32, major25, must, h, bits_fld, BitVec.ofNat_toNat, BitVec.setWidth_eq, reduceIte, and_self]

theorem vcmpLeN (p : BitVec 3) (d a b : BitVec 5) (sc : BitVec 3) : Statement (Instr.vcmpLeN p d a b sc) :=
  long (r := [(sc.toNat, 3), (37, 6), (d.toNat, 5), (a.toNat, 5), (b.toNat, 5), (p.toNat, 3), (10, 4)]) rfl
    (by simp only [comb]; omega : 0xa0000251 + p.toNat * 0x2000000 + d.toNat * 0x400 + a.toNat * 0x8000 + b.toNat * 0x100000 + sc.toNat * 0x2 = _) ⟨sc.isLt, (by decide), d.isLt, a.isLt, b.isLt, p.isLt, (by decide), trivial⟩ rfl fun wf h => by
    simp only [Placed, Nat.reduceAdd] at h
    simp only [decode32, major25, must, h, bits_fld, BitVec.ofNat_toNat, BitVec.setWidth_eq, reduceIte, and_self]

theorem vcmpGtN (p : BitVec 3) (d a b : BitVec 5) (sc : BitVec 3) : Statement (Instr.vcmpGtN p d a b sc) :=
  long (r := [(sc.toNat, 3), (37, 6), (d.toNat, 5), (a.toNat, 5), (b.toNat, 5), (p.toNat, 3), (11, 4)]) rfl
    (by simp only [comb]; omega : 0xb0000251 + p.toNat * 0x2000000 + d.toNat * 0x400 + a.toNat * 0x8000 + b.toNat * 0x100000 + sc.toNat * 0x2 = _) ⟨sc.isLt, (by decide), d.isLt, a.isLt, b.isLt, p.isLt, (by decide), trivial⟩ rfl fun wf h => by
    simp only [Placed, Nat.reduceAdd] at h
    simp only [decode32, major25, must, h, bits_fld, BitVec.ofNat_toNat, BitVec.setWidth_eq, reduceIte, and_self]

theorem vcvt (p : BitVec 3) (d a : BitVec 5) (m : BitVec 3) (t : BitVec 5) (sc : BitVec 3) : Statement (Instr.vcvt p d a m t sc) :=
  long (r := [(sc.toNat, 3), (38, 6), (d.toNat, 5), (a.toNat, 5), (t.toNat, 5), (p.toNat, 3), (m.toNat, 3), (0, 1)]) rfl
    (by simp only [comb]; omega : 0x261 + p.toNat * 0x2000000 + d.toNat * 0x400 + a.toNat * 0x8000 + m.toNat * 0x10000000 + t.toNat * 0x100000 + sc.toNat * 0x2 = _) ⟨sc.isLt, (by decide), d.isLt, a.isLt, t.isLt, p.isLt, m.isLt, (by decide), trivial⟩ rfl fun wf h => by
    simp only [Placed, Nat.reduceAdd] at h
    simp only [decode32, major26, must, h, bits_fld, BitVec.ofNat_toNat, BitVec.setWidth_eq, reduceIte, and_self]

theorem vredSum (p : BitVec 3) (d a : BitVec 5) (sc : BitVec 3) : Statement (Instr.vredSum p d a sc) :=
  long (r := [(sc.toNat, 3), (39, 6), (d.toNat, 5), (a.toNat, 5), (0, 5), (p.toNat, 3), (0, 4)]) rfl
    (by simp only [comb]; omega : 0x271 + p.toNat * 0x2000000 + d.toNat * 0x400 + a.toNat * 0x8000 + sc.toNat * 0x2 = _) ⟨sc.isLt, (by decide), d.isLt, a.isLt, (by decide), p.isLt, (by decide), trivial⟩ rfl fun wf h => by
    simp only [Placed, Nat.reduceAdd] at h
    simp only [decode32, major27, must, h, bits_fld, BitVec.ofNat_toNat, BitVec.setWidth_eq, reduceIte, and_self]

theorem vredMin (p : BitVec 3) (d a : BitVec 5) (sc : BitVec 3) : Statement (Instr.vredMin p d a sc) :=
  long (r := [(sc.toNat, 3), (39, 6), (d.toNat, 5), (a.toNat, 5), (0, 5), (p.toNat, 3), (1, 4)]) rfl
    (by simp only [comb]; omega : 0x10000271 + p.toNat * 0x2000000 + d.toNat * 0x400 + a.toNat * 0x8000 + sc.toNat * 0x2 = _) ⟨sc.isLt, (by decide), d.isLt, a.isLt, (by decide), p.isLt, (by decide), trivial⟩ rfl fun wf h => by
    simp only [Placed, Nat.reduceAdd] at h
    simp only [decode32, major27, must, h, bits_fld, BitVec.ofNat_toNat, BitVec.setWidth_eq, reduceIte, and_self]

theorem vredMax (p : BitVec 3) (d a : BitVec 5) (sc : BitVec 3) : Statement (Instr.vredMax p d a sc) :=
  long (r := [(sc.toNat, 3), (39, 6), (d.toNat, 5), (a.toNat, 5), (0, 5), (p.toNat, 3), (2, 4)]) rfl
    (by simp only [comb]; omega : 0x20000271 + p.toNat * 0x2000000 + d.toNat * 0x400 + a.toNat * 0x8000 + sc.toNat * 0x2 = _) ⟨sc.isLt, (by decide), d.isLt, a.isLt, (by decide), p.isLt, (by decide), trivial⟩ rfl fun wf h => by
    simp only [Placed, Nat.reduceAdd] at h
    simp only [decode32, major27, must, h, bits_fld, BitVec.ofNat_toNat, BitVec.setWidth_eq, reduceIte, and_self]

theorem vredAnd (p : BitVec 3) (d a : BitVec 5) (sc : BitVec 3) : Statement (Instr.vredAnd p d a sc) :=
  long (r := [(sc.toNat, 3), (39, 6), (d.toNat, 5), (a.toNat, 5), (0, 5), (p.toNat, 3), (3, 4)]) rfl
    (by simp only [comb]; omega : 0x30000271 + p.toNat * 0x2000000 + d.toNat * 0x400 + a.toNat * 0x8000 + sc.toNat * 0x2 = _) ⟨sc.isLt, (by decide), d.isLt, a.isLt, (by decide), p.isLt, (by decide), trivial⟩ rfl fun wf h => by
    simp only [Placed, Nat.reduceAdd] at h
    simp only [decode32, major27, must, h, bits_fld, BitVec.ofNat_toNat, BitVec.setWidth_eq, reduceIte, and_self]

theorem vredOr (p : BitVec 3) (d a : BitVec 5) (sc : BitVec 3) : Statement (Instr.vredOr p d a sc) :=
  long (r := [(sc.toNat, 3), (39, 6), (d.toNat, 5), (a.toNat, 5), (0, 5), (p.toNat, 3), (4, 4)]) rfl
    (by simp only [comb]; omega : 0x40000271 + p.toNat * 0x2000000 + d.toNat * 0x400 + a.toNat * 0x8000 + sc.toNat * 0x2 = _) ⟨sc.isLt, (by decide), d.isLt, a.isLt, (by decide), p.isLt, (by decide), trivial⟩ rfl fun wf h => by
    simp only [Placed, Nat.reduceAdd] at h
    simp only [decode32, major27, must, h, bits_fld, BitVec.ofNat_toNat, BitVec.setWidth_eq, reduceIte, and_self]

theorem vredMinN (p : BitVec 3) (d a : BitVec 5) (sc : BitVec 3) : Statement (Instr.vredMinN p d a sc) :=
  long (r := [(sc.toNat, 3), (39, 6), (d.toNat, 5), (a.toNat, 5), (0, 5), (p.toNat, 3), (5, 4)]) rfl
    (by simp only [comb]; omega : 0x50000271 + p.toNat * 0x2000000 + d.toNat * 0x400 + a.toNat * 0x8000 + sc.toNat * 0x2 = _) ⟨sc.isLt, (by decide), d.isLt, a.isLt, (by decide), p.isLt, (by decide), trivial⟩ rfl fun wf h => by
    simp only [Placed, Nat.reduceAdd] at h
    simp only [decode32, major27, must, h, bits_fld, BitVec.ofNat_toNat, BitVec.setWidth_eq, reduceIte, and_self]

theorem vredMaxN (p : BitVec 3) (d a : BitVec 5) (sc : BitVec 3) : Statement (Instr.vredMaxN p d a sc) :=
  long (r := [(sc.toNat, 3), (39, 6), (d.toNat, 5), (a.toNat, 5), (0, 5), (p.toNat, 3), (6, 4)]) rfl
    (by simp only [comb]; omega : 0x60000271 + p.toNat * 0x2000000 + d.toNat * 0x400 + a.toNat * 0x8000 + sc.toNat * 0x2 = _) ⟨sc.isLt, (by decide), d.isLt, a.isLt, (by decide), p.isLt, (by decide), trivial⟩ rfl fun wf h => by
    simp only [Placed, Nat.reduceAdd] at h
    simp only [decode32, major27, must, h, bits_fld, BitVec.ofNat_toNat, BitVec.setWidth_eq, reduceIte, and_self]

theorem vperm (p : BitVec 3) (d a b : BitVec 5) (sc : BitVec 3) : Statement (Instr.vperm p d a b sc) :=
  long (r := [(sc.toNat, 3), (39, 6), (d.toNat, 5), (a.toNat, 5), (b.toNat, 5), (p.toNat, 3), (7, 4)]) rfl
    (by simp only [comb]; omega : 0x70000271 + p.toNat * 0x2000000 + d.toNat * 0x400 + a.toNat * 0x8000 + b.toNat * 0x100000 + sc.toNat * 0x2 = _) ⟨sc.isLt, (by decide), d.isLt, a.isLt, b.isLt, p.isLt, (by decide), trivial⟩ rfl fun wf h => by
    simp only [Placed, Nat.reduceAdd] at h
    simp only [decode32, major27, must, h, bits_fld, BitVec.ofNat_toNat, BitVec.setWidth_eq, reduceIte, and_self]

theorem vslide (p : BitVec 3) (d a b : BitVec 5) (sc : BitVec 3) : Statement (Instr.vslide p d a b sc) :=
  long (r := [(sc.toNat, 3), (39, 6), (d.toNat, 5), (a.toNat, 5), (b.toNat, 5), (p.toNat, 3), (8, 4)]) rfl
    (by simp only [comb]; omega : 0x80000271 + p.toNat * 0x2000000 + d.toNat * 0x400 + a.toNat * 0x8000 + b.toNat * 0x100000 + sc.toNat * 0x2 = _) ⟨sc.isLt, (by decide), d.isLt, a.isLt, b.isLt, p.isLt, (by decide), trivial⟩ rfl fun wf h => by
    simp only [Placed, Nat.reduceAdd] at h
    simp only [decode32, major27, must, h, bits_fld, BitVec.ofNat_toNat, BitVec.setWidth_eq, reduceIte, and_self]

theorem vcompress (p : BitVec 3) (d a : BitVec 5) (sc : BitVec 3) : Statement (Instr.vcompress p d a sc) :=
  long (r := [(sc.toNat, 3), (39, 6), (d.toNat, 5), (a.toNat, 5), (0, 5), (p.toNat, 3), (9, 4)]) rfl
    (by simp only [comb]; omega : 0x90000271 + p.toNat * 0x2000000 + d.toNat * 0x400 + a.toNat * 0x8000 + sc.toNat * 0x2 = _) ⟨sc.isLt, (by decide), d.isLt, a.isLt, (by decide), p.isLt, (by decide), trivial⟩ rfl fun wf h => by
    simp only [Placed, Nat.reduceAdd] at h
    simp only [decode32, major27, must, h, bits_fld, BitVec.ofNat_toNat, BitVec.setWidth_eq, reduceIte, and_self]

theorem vgl (p : BitVec 3) (d a : BitVec 5) (sc : BitVec 3) : Statement (Instr.vgl p d a sc) :=
  long (r := [(sc.toNat, 3), (39, 6), (d.toNat, 5), (a.toNat, 5), (0, 5), (p.toNat, 3), (10, 4)]) rfl
    (by simp only [comb]; omega : 0xa0000271 + p.toNat * 0x2000000 + d.toNat * 0x400 + a.toNat * 0x8000 + sc.toNat * 0x2 = _) ⟨sc.isLt, (by decide), d.isLt, a.isLt, (by decide), p.isLt, (by decide), trivial⟩ rfl fun wf h => by
    simp only [Placed, Nat.reduceAdd] at h
    simp only [decode32, major27, must, h, bits_fld, BitVec.ofNat_toNat, BitVec.setWidth_eq, reduceIte, and_self]

theorem vsel (d a b : BitVec 5) (k sc : BitVec 3) : Statement (Instr.vsel d a b k sc) :=
  long (r := [(sc.toNat, 3), (39, 6), (d.toNat, 5), (a.toNat, 5), (b.toNat, 5), (k.toNat, 3), (11, 4)]) rfl
    (by simp only [comb]; omega : 0xb0000271 + d.toNat * 0x400 + a.toNat * 0x8000 + b.toNat * 0x100000 + k.toNat * 0x2000000 + sc.toNat * 0x2 = _) ⟨sc.isLt, (by decide), d.isLt, a.isLt, b.isLt, k.isLt, (by decide), trivial⟩ rfl fun wf h => by
    simp only [Placed, Nat.reduceAdd] at h
    simp only [decode32, major27, must, h, bits_fld, BitVec.ofNat_toNat, BitVec.setWidth_eq, reduceIte, and_self]

theorem vcx (d j k : BitVec 5) (sc : BitVec 3) : Statement (Instr.vcx d j k sc) :=
  long (r := [(sc.toNat, 3), (40, 6), (d.toNat, 5), (j.toNat, 5), (k.toNat, 5), (0, 3), (0, 4)]) rfl
    (by simp only [comb]; omega : 0x281 + d.toNat * 0x400 + j.toNat * 0x8000 + k.toNat * 0x100000 + sc.toNat * 0x2 = _) ⟨sc.isLt, (by decide), d.isLt, j.isLt, k.isLt, (by decide), (by decide), trivial⟩ rfl fun wf h => by
    simp only [Placed, Nat.reduceAdd] at h
    simp only [decode32, major28, must, h, bits_fld, BitVec.ofNat_toNat, BitVec.setWidth_eq, reduceIte, and_self]

theorem vdistDot (d a b : BitVec 5) (q sc : BitVec 3) : Statement (Instr.vdistDot d a b q sc) :=
  long (r := [(sc.toNat, 3), (40, 6), (d.toNat, 5), (a.toNat, 5), (b.toNat, 5), (q.toNat, 3), (1, 4)]) rfl
    (by simp only [comb]; omega : 0x10000281 + d.toNat * 0x400 + a.toNat * 0x8000 + b.toNat * 0x100000 + q.toNat * 0x2000000 + sc.toNat * 0x2 = _) ⟨sc.isLt, (by decide), d.isLt, a.isLt, b.isLt, q.isLt, (by decide), trivial⟩ rfl fun wf h => by
    simp only [Placed, Nat.reduceAdd] at h
    simp only [decode32, major28, must, h, bits_fld, BitVec.ofNat_toNat, BitVec.setWidth_eq, reduceIte, and_self]

theorem vdistL2 (d a b : BitVec 5) (q sc : BitVec 3) : Statement (Instr.vdistL2 d a b q sc) :=
  long (r := [(sc.toNat, 3), (40, 6), (d.toNat, 5), (a.toNat, 5), (b.toNat, 5), (q.toNat, 3), (2, 4)]) rfl
    (by simp only [comb]; omega : 0x20000281 + d.toNat * 0x400 + a.toNat * 0x8000 + b.toNat * 0x100000 + q.toNat * 0x2000000 + sc.toNat * 0x2 = _) ⟨sc.isLt, (by decide), d.isLt, a.isLt, b.isLt, q.isLt, (by decide), trivial⟩ rfl fun wf h => by
    simp only [Placed, Nat.reduceAdd] at h
    simp only [decode32, major28, must, h, bits_fld, BitVec.ofNat_toNat, BitVec.setWidth_eq, reduceIte, and_self]

theorem vchol8 (d a : BitVec 5) (k sc : BitVec 3) : Statement (Instr.vchol8 d a k sc) :=
  long (r := [(sc.toNat, 3), (41, 6), (d.toNat, 5), (a.toNat, 5), (0, 5), (k.toNat, 3), (0, 4)]) rfl
    (by simp only [comb]; omega : 0x291 + d.toNat * 0x400 + a.toNat * 0x8000 + k.toNat * 0x2000000 + sc.toNat * 0x2 = _) ⟨sc.isLt, (by decide), d.isLt, a.isLt, (by decide), k.isLt, (by decide), trivial⟩ rfl fun wf h => by
    simp only [Placed, Nat.reduceAdd] at h
    simp only [decode32, major29, must, h, bits_fld, BitVec.ofNat_toNat, BitVec.setWidth_eq, reduceIte, and_self]

theorem vtrs8 (d a b : BitVec 5) (sc : BitVec 3) : Statement (Instr.vtrs8 d a b sc) :=
  long (r := [(sc.toNat, 3), (41, 6), (d.toNat, 5), (a.toNat, 5), (b.toNat, 5), (0, 3), (1, 4)]) rfl
    (by simp only [comb]; omega : 0x10000291 + d.toNat * 0x400 + a.toNat * 0x8000 + b.toNat * 0x100000 + sc.toNat * 0x2 = _) ⟨sc.isLt, (by decide), d.isLt, a.isLt, b.isLt, (by decide), (by decide), trivial⟩ rfl fun wf h => by
    simp only [Placed, Nat.reduceAdd] at h
    simp only [decode32, major29, must, h, bits_fld, BitVec.ofNat_toNat, BitVec.setWidth_eq, reduceIte, and_self]

theorem pand (d a b : BitVec 5) (sc : BitVec 3) : Statement (Instr.pand d a b sc) :=
  long (r := [(sc.toNat, 3), (42, 6), (d.toNat, 5), (a.toNat, 5), (b.toNat, 5), (0, 3), (0, 4)]) rfl
    (by simp only [comb]; omega : 0x2a1 + d.toNat * 0x400 + a.toNat * 0x8000 + b.toNat * 0x100000 + sc.toNat * 0x2 = _) ⟨sc.isLt, (by decide), d.isLt, a.isLt, b.isLt, (by decide), (by decide), trivial⟩ rfl fun wf h => by
    simp only [Placed, Nat.reduceAdd] at h
    simp only [decode32, major2A, must, h, bits_fld, BitVec.ofNat_toNat, BitVec.setWidth_eq, reduceIte, and_self]

theorem por (d a b : BitVec 5) (sc : BitVec 3) : Statement (Instr.por d a b sc) :=
  long (r := [(sc.toNat, 3), (42, 6), (d.toNat, 5), (a.toNat, 5), (b.toNat, 5), (0, 3), (1, 4)]) rfl
    (by simp only [comb]; omega : 0x100002a1 + d.toNat * 0x400 + a.toNat * 0x8000 + b.toNat * 0x100000 + sc.toNat * 0x2 = _) ⟨sc.isLt, (by decide), d.isLt, a.isLt, b.isLt, (by decide), (by decide), trivial⟩ rfl fun wf h => by
    simp only [Placed, Nat.reduceAdd] at h
    simp only [decode32, major2A, must, h, bits_fld, BitVec.ofNat_toNat, BitVec.setWidth_eq, reduceIte, and_self]

theorem pxor (d a b : BitVec 5) (sc : BitVec 3) : Statement (Instr.pxor d a b sc) :=
  long (r := [(sc.toNat, 3), (42, 6), (d.toNat, 5), (a.toNat, 5), (b.toNat, 5), (0, 3), (2, 4)]) rfl
    (by simp only [comb]; omega : 0x200002a1 + d.toNat * 0x400 + a.toNat * 0x8000 + b.toNat * 0x100000 + sc.toNat * 0x2 = _) ⟨sc.isLt, (by decide), d.isLt, a.isLt, b.isLt, (by decide), (by decide), trivial⟩ rfl fun wf h => by
    simp only [Placed, Nat.reduceAdd] at h
    simp only [decode32, major2A, must, h, bits_fld, BitVec.ofNat_toNat, BitVec.setWidth_eq, reduceIte, and_self]

theorem pnot (d a : BitVec 5) (sc : BitVec 3) : Statement (Instr.pnot d a sc) :=
  long (r := [(sc.toNat, 3), (42, 6), (d.toNat, 5), (a.toNat, 5), (0, 8), (3, 4)]) rfl
    (by simp only [comb]; omega : 0x300002a1 + d.toNat * 0x400 + a.toNat * 0x8000 + sc.toNat * 0x2 = _) ⟨sc.isLt, (by decide), d.isLt, a.isLt, (by decide), (by decide), trivial⟩ rfl fun wf h => by
    simp only [Placed, Nat.reduceAdd] at h
    simp only [decode32, major2A, must, h, bits_fld, BitVec.ofNat_toNat, BitVec.setWidth_eq, reduceIte, and_self]

theorem pcnt (d a : BitVec 5) (sc : BitVec 3) : Statement (Instr.pcnt d a sc) :=
  long (r := [(sc.toNat, 3), (42, 6), (d.toNat, 5), (a.toNat, 5), (0, 8), (4, 4)]) rfl
    (by simp only [comb]; omega : 0x400002a1 + d.toNat * 0x400 + a.toNat * 0x8000 + sc.toNat * 0x2 = _) ⟨sc.isLt, (by decide), d.isLt, a.isLt, (by decide), (by decide), trivial⟩ rfl fun wf h => by
    simp only [Placed, Nat.reduceAdd] at h
    simp only [decode32, major2A, must, h, bits_fld, BitVec.ofNat_toNat, BitVec.setWidth_eq, reduceIte, and_self]

theorem pfirst (d a : BitVec 5) (sc : BitVec 3) : Statement (Instr.pfirst d a sc) :=
  long (r := [(sc.toNat, 3), (42, 6), (d.toNat, 5), (a.toNat, 5), (0, 8), (5, 4)]) rfl
    (by simp only [comb]; omega : 0x500002a1 + d.toNat * 0x400 + a.toNat * 0x8000 + sc.toNat * 0x2 = _) ⟨sc.isLt, (by decide), d.isLt, a.isLt, (by decide), (by decide), trivial⟩ rfl fun wf h => by
    simp only [Placed, Nat.reduceAdd] at h
    simp only [decode32, major2A, must, h, bits_fld, BitVec.ofNat_toNat, BitVec.setWidth_eq, reduceIte, and_self]

theorem xreq (d a b : BitVec 5) (sc : BitVec 3) : Statement (Instr.xreq d a b sc) :=
  long (r := [(sc.toNat, 3), (58, 6), (d.toNat, 5), (a.toNat, 5), (b.toNat, 5), (0, 3), (0, 4)]) rfl
    (by simp only [comb]; omega : 0x3a1 + d.toNat * 0x400 + a.toNat * 0x8000 + b.toNat * 0x100000 + sc.toNat * 0x2 = _) ⟨sc.isLt, (by decide), d.isLt, a.isLt, b.isLt, (by decide), (by decide), trivial⟩ rfl fun wf h => by
    simp only [Placed, Nat.reduceAdd] at h
    simp only [decode32, major3A, must, h, bits_fld, BitVec.ofNat_toNat, BitVec.setWidth_eq, reduceIte, and_self]

theorem xget (d : BitVec 5) (sc : BitVec 3) : Statement (Instr.xget d sc) :=
  long (r := [(sc.toNat, 3), (58, 6), (d.toNat, 5), (0, 13), (1, 4)]) rfl
    (by simp only [comb]; omega : 0x100003a1 + d.toNat * 0x400 + sc.toNat * 0x2 = _) ⟨sc.isLt, (by decide), d.isLt, (by decide), (by decide), trivial⟩ rfl fun wf h => by
    simp only [Placed, Nat.reduceAdd] at h
    simp only [decode32, major3A, must, h, bits_fld, BitVec.ofNat_toNat, BitVec.setWidth_eq, reduceIte, and_self]

theorem kinit (d a b : BitVec 5) (sc : BitVec 3) : Statement (Instr.kinit d a b sc) :=
  long (r := [(sc.toNat, 3), (59, 6), (d.toNat, 5), (a.toNat, 5), (b.toNat, 5), (0, 3), (0, 4)]) rfl
    (by simp only [comb]; omega : 0x3b1 + d.toNat * 0x400 + a.toNat * 0x8000 + b.toNat * 0x100000 + sc.toNat * 0x2 = _) ⟨sc.isLt, (by decide), d.isLt, a.isLt, b.isLt, (by decide), (by decide), trivial⟩ rfl fun wf h => by
    simp only [Placed, Nat.reduceAdd] at h
    simp only [decode32, major3B, must, h, bits_fld, BitVec.ofNat_toNat, BitVec.setWidth_eq, reduceIte, and_self]

theorem kadd (p : BitVec 3) (d a b : BitVec 5) (sc : BitVec 3) : Statement (Instr.kadd p d a b sc) :=
  long (r := [(sc.toNat, 3), (59, 6), (d.toNat, 5), (a.toNat, 5), (b.toNat, 5), (p.toNat, 3), (1, 4)]) rfl
    (by simp only [comb]; omega : 0x100003b1 + p.toNat * 0x2000000 + d.toNat * 0x400 + a.toNat * 0x8000 + b.toNat * 0x100000 + sc.toNat * 0x2 = _) ⟨sc.isLt, (by decide), d.isLt, a.isLt, b.isLt, p.isLt, (by decide), trivial⟩ rfl fun wf h => by
    simp only [Placed, Nat.reduceAdd] at h
    simp only [decode32, major3B, must, h, bits_fld, BitVec.ofNat_toNat, BitVec.setWidth_eq, reduceIte, and_self]

theorem kdrain (d a b : BitVec 5) (sc : BitVec 3) : Statement (Instr.kdrain d a b sc) :=
  long (r := [(sc.toNat, 3), (59, 6), (d.toNat, 5), (a.toNat, 5), (b.toNat, 5), (0, 3), (2, 4)]) rfl
    (by simp only [comb]; omega : 0x200003b1 + d.toNat * 0x400 + a.toNat * 0x8000 + b.toNat * 0x100000 + sc.toNat * 0x2 = _) ⟨sc.isLt, (by decide), d.isLt, a.isLt, b.isLt, (by decide), (by decide), trivial⟩ rfl fun wf h => by
    simp only [Placed, Nat.reduceAdd] at h
    simp only [decode32, major3B, must, h, bits_fld, BitVec.ofNat_toNat, BitVec.setWidth_eq, reduceIte, and_self]

theorem mlease (sc : BitVec 3) : Statement (Instr.mlease sc) :=
  long (r := [(sc.toNat, 3), (48, 6), (0, 18), (0, 4)]) rfl
    (by simp only [comb]; omega : 0x301 + sc.toNat * 0x2 = _) ⟨sc.isLt, (by decide), (by decide), (by decide), trivial⟩ rfl fun wf h => by
    simp only [Placed, Nat.reduceAdd] at h
    simp only [decode32, major30, must, h, bits_fld, BitVec.ofNat_toNat, BitVec.setWidth_eq, reduceIte, and_self]

theorem mfree (sc : BitVec 3) : Statement (Instr.mfree sc) :=
  long (r := [(sc.toNat, 3), (48, 6), (0, 18), (1, 4)]) rfl
    (by simp only [comb]; omega : 0x10000301 + sc.toNat * 0x2 = _) ⟨sc.isLt, (by decide), (by decide), (by decide), trivial⟩ rfl fun wf h => by
    simp only [Placed, Nat.reduceAdd] at h
    simp only [decode32, major30, must, h, bits_fld, BitVec.ofNat_toNat, BitVec.setWidth_eq, reduceIte, and_self]

theorem mstat (d : BitVec 5) (sc : BitVec 3) : Statement (Instr.mstat d sc) :=
  long (r := [(sc.toNat, 3), (48, 6), (d.toNat, 5), (0, 13), (2, 4)]) rfl
    (by simp only [comb]; omega : 0x20000301 + d.toNat * 0x400 + sc.toNat * 0x2 = _) ⟨sc.isLt, (by decide), d.isLt, (by decide), (by decide), trivial⟩ rfl fun wf h => by
    simp only [Placed, Nat.reduceAdd] at h
    simp only [decode32, major30, must, h, bits_fld, BitVec.ofNat_toNat, BitVec.setWidth_eq, reduceIte, and_self]

theorem mcheck (d a : BitVec 5) (sc : BitVec 3) : Statement (Instr.mcheck d a sc) :=
  long (r := [(sc.toNat, 3), (48, 6), (d.toNat, 5), (a.toNat, 5), (0, 8), (3, 4)]) rfl
    (by simp only [comb]; omega : 0x30000301 + d.toNat * 0x400 + a.toNat * 0x8000 + sc.toNat * 0x2 = _) ⟨sc.isLt, (by decide), d.isLt, a.isLt, (by decide), (by decide), trivial⟩ rfl fun wf h => by
    simp only [Placed, Nat.reduceAdd] at h
    simp only [decode32, major30, must, h, bits_fld, BitVec.ofNat_toNat, BitVec.setWidth_eq, reduceIte, and_self]

theorem mload (d : BitVec 5) (a : BitVec 4) (sc : BitVec 3) : Statement (Instr.mload d a sc) :=
  long (r := [(sc.toNat, 3), (49, 6), (d.toNat, 5), (a.toNat, 4), (0, 9), (0, 4)]) rfl
    (by simp only [comb]; omega : 0x311 + d.toNat * 0x400 + a.toNat * 0x8000 + sc.toNat * 0x2 = _) ⟨sc.isLt, (by decide), d.isLt, a.isLt, (by decide), (by decide), trivial⟩ rfl fun wf h => by
    simp only [Placed, Nat.reduceAdd] at h
    simp only [decode32, major31, must, h, bits_fld, BitVec.ofNat_toNat, BitVec.setWidth_eq, reduceIte, and_self]

theorem mscale (d : BitVec 5) (a : BitVec 4) (sc : BitVec 3) : Statement (Instr.mscale d a sc) :=
  long (r := [(sc.toNat, 3), (49, 6), (d.toNat, 5), (a.toNat, 4), (0, 9), (1, 4)]) rfl
    (by simp only [comb]; omega : 0x10000311 + d.toNat * 0x400 + a.toNat * 0x8000 + sc.toNat * 0x2 = _) ⟨sc.isLt, (by decide), d.isLt, a.isLt, (by decide), (by decide), trivial⟩ rfl fun wf h => by
    simp only [Placed, Nat.reduceAdd] at h
    simp only [decode32, major31, must, h, bits_fld, BitVec.ofNat_toNat, BitVec.setWidth_eq, reduceIte, and_self]

theorem mswap (sc : BitVec 3) : Statement (Instr.mswap sc) :=
  long (r := [(sc.toNat, 3), (49, 6), (0, 18), (2, 4)]) rfl
    (by simp only [comb]; omega : 0x20000311 + sc.toNat * 0x2 = _) ⟨sc.isLt, (by decide), (by decide), (by decide), trivial⟩ rfl fun wf h => by
    simp only [Placed, Nat.reduceAdd] at h
    simp only [decode32, major31, must, h, bits_fld, BitVec.ofNat_toNat, BitVec.setWidth_eq, reduceIte, and_self]

theorem mmul (p : BitVec 2) (d : BitVec 5) (a : BitVec 4) (sc : BitVec 3) : Statement (Instr.mmul p d a sc) :=
  long (r := [(sc.toNat, 3), (50, 6), (d.toNat, 5), (a.toNat, 4), (0, 1), (p.toNat, 2), (0, 6), (0, 4)]) rfl
    (by simp only [comb]; omega : 0x321 + p.toNat * 0x100000 + d.toNat * 0x400 + a.toNat * 0x8000 + sc.toNat * 0x2 = _) ⟨sc.isLt, (by decide), d.isLt, a.isLt, (by decide), p.isLt, (by decide), (by decide), trivial⟩ rfl fun wf h => by
    simp only [Placed, Nat.reduceAdd] at h
    simp only [decode32, major32, must, h, bits_fld, BitVec.ofNat_toNat, BitVec.setWidth_eq, reduceIte, and_self]

theorem mdrain (p : BitVec 1) (d : BitVec 5) (a : BitVec 4) (sc : BitVec 3) : Statement (Instr.mdrain p d a sc) :=
  long (r := [(sc.toNat, 3), (51, 6), (d.toNat, 5), (a.toNat, 4), (0, 1), (p.toNat, 1), (0, 7), (0, 4)]) rfl
    (by simp only [comb]; omega : 0x331 + p.toNat * 0x100000 + d.toNat * 0x400 + a.toNat * 0x8000 + sc.toNat * 0x2 = _) ⟨sc.isLt, (by decide), d.isLt, a.isLt, (by decide), p.isLt, (by decide), (by decide), trivial⟩ rfl fun wf h => by
    simp only [Placed, Nat.reduceAdd] at h
    simp only [decode32, major33, must, h, bits_fld, BitVec.ofNat_toNat, BitVec.setWidth_eq, reduceIte, and_self]

theorem nalloc (d : BitVec 5) (sc : BitVec 3) : Statement (Instr.nalloc d sc) :=
  long (r := [(sc.toNat, 3), (54, 6), (d.toNat, 5), (0, 13), (0, 4)]) rfl
    (by simp only [comb]; omega : 0x361 + d.toNat * 0x400 + sc.toNat * 0x2 = _) ⟨sc.isLt, (by decide), d.isLt, (by decide), (by decide), trivial⟩ rfl fun wf h => by
    simp only [Placed, Nat.reduceAdd] at h
    simp only [decode32, major36, must, h, bits_fld, BitVec.ofNat_toNat, BitVec.setWidth_eq, reduceIte, and_self]

theorem nfree (a b : BitVec 5) (sc : BitVec 3) : Statement (Instr.nfree a b sc) :=
  long (r := [(sc.toNat, 3), (54, 6), (0, 5), (a.toNat, 5), (b.toNat, 5), (0, 3), (1, 4)]) rfl
    (by simp only [comb]; omega : 0x10000361 + a.toNat * 0x8000 + b.toNat * 0x100000 + sc.toNat * 0x2 = _) ⟨sc.isLt, (by decide), (by decide), a.isLt, b.isLt, (by decide), (by decide), trivial⟩ rfl fun wf h => by
    simp only [Placed, Nat.reduceAdd] at h
    simp only [decode32, major36, must, h, bits_fld, BitVec.ofNat_toNat, BitVec.setWidth_eq, reduceIte, and_self]

theorem nld (d a : BitVec 5) (w : BitVec 2) (sc : BitVec 3) : Statement (Instr.nld d a w sc) :=
  long (r := [(sc.toNat, 3), (54, 6), (d.toNat, 5), (a.toNat, 5), (w.toNat, 2), (0, 6), (2, 4)]) rfl
    (by simp only [comb]; omega : 0x20000361 + d.toNat * 0x400 + a.toNat * 0x8000 + w.toNat * 0x100000 + sc.toNat * 0x2 = _) ⟨sc.isLt, (by decide), d.isLt, a.isLt, w.isLt, (by decide), (by decide), trivial⟩ rfl fun wf h => by
    simp only [Placed, Nat.reduceAdd] at h
    simp only [decode32, major36, must, h, bits_fld, BitVec.ofNat_toNat, BitVec.setWidth_eq, reduceIte, and_self]

theorem nst (d a : BitVec 5) (w : BitVec 2) (sc : BitVec 3) : Statement (Instr.nst d a w sc) :=
  long (r := [(sc.toNat, 3), (54, 6), (d.toNat, 5), (a.toNat, 5), (w.toNat, 2), (0, 6), (3, 4)]) rfl
    (by simp only [comb]; omega : 0x30000361 + d.toNat * 0x400 + a.toNat * 0x8000 + w.toNat * 0x100000 + sc.toNat * 0x2 = _) ⟨sc.isLt, (by decide), d.isLt, a.isLt, w.isLt, (by decide), (by decide), trivial⟩ rfl fun wf h => by
    simp only [Placed, Nat.reduceAdd] at h
    simp only [decode32, major36, must, h, bits_fld, BitVec.ofNat_toNat, BitVec.setWidth_eq, reduceIte, and_self]

theorem link (a b : BitVec 5) (sc : BitVec 3) : Statement (Instr.link a b sc) :=
  long (r := [(sc.toNat, 3), (55, 6), (0, 5), (a.toNat, 5), (b.toNat, 5), (0, 3), (0, 4)]) rfl
    (by simp only [comb]; omega : 0x371 + a.toNat * 0x8000 + b.toNat * 0x100000 + sc.toNat * 0x2 = _) ⟨sc.isLt, (by decide), (by decide), a.isLt, b.isLt, (by decide), (by decide), trivial⟩ rfl fun wf h => by
    simp only [Placed, Nat.reduceAdd] at h
    simp only [decode32, major37, must, h, bits_fld, BitVec.ofNat_toNat, BitVec.setWidth_eq, reduceIte, and_self]

theorem nrun (sc : BitVec 3) : Statement (Instr.nrun sc) :=
  long (r := [(sc.toNat, 3), (55, 6), (0, 18), (1, 4)]) rfl
    (by simp only [comb]; omega : 0x10000371 + sc.toNat * 0x2 = _) ⟨sc.isLt, (by decide), (by decide), (by decide), trivial⟩ rfl fun wf h => by
    simp only [Placed, Nat.reduceAdd] at h
    simp only [decode32, major37, must, h, bits_fld, BitVec.ofNat_toNat, BitVec.setWidth_eq, reduceIte, and_self]

theorem npush (a b : BitVec 5) (sc : BitVec 3) : Statement (Instr.npush a b sc) :=
  long (r := [(sc.toNat, 3), (55, 6), (0, 5), (a.toNat, 5), (b.toNat, 5), (0, 3), (2, 4)]) rfl
    (by simp only [comb]; omega : 0x20000371 + a.toNat * 0x8000 + b.toNat * 0x100000 + sc.toNat * 0x2 = _) ⟨sc.isLt, (by decide), (by decide), a.isLt, b.isLt, (by decide), (by decide), trivial⟩ rfl fun wf h => by
    simp only [Placed, Nat.reduceAdd] at h
    simp only [decode32, major37, must, h, bits_fld, BitVec.ofNat_toNat, BitVec.setWidth_eq, reduceIte, and_self]

theorem nmove (d a : BitVec 5) (sc : BitVec 3) : Statement (Instr.nmove d a sc) :=
  long (r := [(sc.toNat, 3), (55, 6), (d.toNat, 5), (a.toNat, 5), (0, 8), (3, 4)]) rfl
    (by simp only [comb]; omega : 0x30000371 + d.toNat * 0x400 + a.toNat * 0x8000 + sc.toNat * 0x2 = _) ⟨sc.isLt, (by decide), d.isLt, a.isLt, (by decide), (by decide), trivial⟩ rfl fun wf h => by
    simp only [Placed, Nat.reduceAdd] at h
    simp only [decode32, major37, must, h, bits_fld, BitVec.ofNat_toNat, BitVec.setWidth_eq, reduceIte, and_self]

theorem nbal (d : BitVec 5) (sc : BitVec 3) : Statement (Instr.nbal d sc) :=
  long (r := [(sc.toNat, 3), (55, 6), (d.toNat, 5), (0, 13), (4, 4)]) rfl
    (by simp only [comb]; omega : 0x40000371 + d.toNat * 0x400 + sc.toNat * 0x2 = _) ⟨sc.isLt, (by decide), d.isLt, (by decide), (by decide), trivial⟩ rfl fun wf h => by
    simp only [Placed, Nat.reduceAdd] at h
    simp only [decode32, major37, must, h, bits_fld, BitVec.ofNat_toNat, BitVec.setWidth_eq, reduceIte, and_self]

theorem snap (d a : BitVec 5) (sc : BitVec 3) : Statement (Instr.snap d a sc) :=
  long (r := [(sc.toNat, 3), (62, 6), (d.toNat, 5), (a.toNat, 5), (0, 8), (0, 4)]) rfl
    (by simp only [comb]; omega : 0x3e1 + d.toNat * 0x400 + a.toNat * 0x8000 + sc.toNat * 0x2 = _) ⟨sc.isLt, (by decide), d.isLt, a.isLt, (by decide), (by decide), trivial⟩ rfl fun wf h => by
    simp only [Placed, Nat.reduceAdd] at h
    simp only [decode32, major3E, must, h, bits_fld, BitVec.ofNat_toNat, BitVec.setWidth_eq, reduceIte, and_self]

theorem eret (a : BitVec 5) (sc : BitVec 3) : Statement (Instr.eret a sc) :=
  long (r := [(sc.toNat, 3), (62, 6), (0, 5), (a.toNat, 5), (0, 8), (1, 4)]) rfl
    (by simp only [comb]; omega : 0x100003e1 + a.toNat * 0x8000 + sc.toNat * 0x2 = _) ⟨sc.isLt, (by decide), (by decide), a.isLt, (by decide), (by decide), trivial⟩ rfl fun wf h => by
    simp only [Placed, Nat.reduceAdd] at h
    simp only [decode32, major3E, must, h, bits_fld, BitVec.ofNat_toNat, BitVec.setWidth_eq, reduceIte, and_self]

theorem cfgrd (d a : BitVec 5) (sc : BitVec 3) : Statement (Instr.cfgrd d a sc) :=
  long (r := [(sc.toNat, 3), (62, 6), (d.toNat, 5), (a.toNat, 5), (0, 8), (2, 4)]) rfl
    (by simp only [comb]; omega : 0x200003e1 + d.toNat * 0x400 + a.toNat * 0x8000 + sc.toNat * 0x2 = _) ⟨sc.isLt, (by decide), d.isLt, a.isLt, (by decide), (by decide), trivial⟩ rfl fun wf h => by
    simp only [Placed, Nat.reduceAdd] at h
    simp only [decode32, major3E, must, h, bits_fld, BitVec.ofNat_toNat, BitVec.setWidth_eq, reduceIte, and_self]

theorem cfgwr (d a b : BitVec 5) (sc : BitVec 3) : Statement (Instr.cfgwr d a b sc) :=
  long (r := [(sc.toNat, 3), (62, 6), (d.toNat, 5), (a.toNat, 5), (b.toNat, 5), (0, 3), (3, 4)]) rfl
    (by simp only [comb]; omega : 0x300003e1 + d.toNat * 0x400 + a.toNat * 0x8000 + b.toNat * 0x100000 + sc.toNat * 0x2 = _) ⟨sc.isLt, (by decide), d.isLt, a.isLt, b.isLt, (by decide), (by decide), trivial⟩ rfl fun wf h => by
    simp only [Placed, Nat.reduceAdd] at h
    simp only [decode32, major3E, must, h, bits_fld, BitVec.ofNat_toNat, BitVec.setWidth_eq, reduceIte, and_self]

theorem sleep (d a : BitVec 5) (sc : BitVec 3) : Statement (Instr.sleep d a sc) :=
  long (r := [(sc.toNat, 3), (62, 6), (d.toNat, 5), (a.toNat, 5), (0, 8), (4, 4)]) rfl
    (by simp only [comb]; omega : 0x400003e1 + d.toNat * 0x400 + a.toNat * 0x8000 + sc.toNat * 0x2 = _) ⟨sc.isLt, (by decide), d.isLt, a.isLt, (by decide), (by decide), trivial⟩ rfl fun wf h => by
    simp only [Placed, Nat.reduceAdd] at h
    simp only [decode32, major3E, must, h, bits_fld, BitVec.ofNat_toNat, BitVec.setWidth_eq, reduceIte, and_self]

theorem wake (a : BitVec 5) (sc : BitVec 3) : Statement (Instr.wake a sc) :=
  long (r := [(sc.toNat, 3), (62, 6), (0, 5), (a.toNat, 5), (0, 8), (5, 4)]) rfl
    (by simp only [comb]; omega : 0x500003e1 + a.toNat * 0x8000 + sc.toNat * 0x2 = _) ⟨sc.isLt, (by decide), (by decide), a.isLt, (by decide), (by decide), trivial⟩ rfl fun wf h => by
    simp only [Placed, Nat.reduceAdd] at h
    simp only [decode32, major3E, must, h, bits_fld, BitVec.ofNat_toNat, BitVec.setWidth_eq, reduceIte, and_self]

theorem sopen (a : BitVec 5) (b : BitVec 2) (sc : BitVec 3) : Statement (Instr.sopen a b sc) :=
  long (r := [(sc.toNat, 3), (62, 6), (0, 5), (a.toNat, 5), (b.toNat, 2), (7, 6), (6, 4)]) rfl
    (by simp only [comb]; omega : 0x61c003e1 + a.toNat * 0x8000 + b.toNat * 0x100000 + sc.toNat * 0x2 = _) ⟨sc.isLt, (by decide), (by decide), a.isLt, b.isLt, (by decide), (by decide), trivial⟩ rfl fun wf h => by
    simp only [Placed, Nat.reduceAdd] at h
    simp only [decode32, major3E, must, h, bits_fld, BitVec.ofNat_toNat, BitVec.setWidth_eq, reduceIte, and_self]

theorem sclose (b : BitVec 2) (sc : BitVec 3) : Statement (Instr.sclose b sc) :=
  long (r := [(sc.toNat, 3), (62, 6), (0, 10), (b.toNat, 2), (7, 6), (7, 4)]) rfl
    (by simp only [comb]; omega : 0x71c003e1 + b.toNat * 0x100000 + sc.toNat * 0x2 = _) ⟨sc.isLt, (by decide), (by decide), b.isLt, (by decide), (by decide), trivial⟩ rfl fun wf h => by
    simp only [Placed, Nat.reduceAdd] at h
    simp only [decode32, major3E, must, h, bits_fld, BitVec.ofNat_toNat, BitVec.setWidth_eq, reduceIte, and_self]

theorem alignTimeout (core level : Nat) : Statement (Instr.alignTimeout core level) := of_event rfl
theorem waitvWake (core level : Nat) : Statement (Instr.waitvWake core level) := of_event rfl
theorem xuCompute (cluster : Nat) : Statement (Instr.xuCompute cluster) := of_event rfl
theorem kuTakePair (cluster inst : Nat) : Statement (Instr.kuTakePair cluster inst) := of_event rfl
theorem kdrainWrite (core level : Nat) : Statement (Instr.kdrainWrite core level) := of_event rfl
theorem sleepDeadline (core level : Nat) : Statement (Instr.sleepDeadline core level) := of_event rfl
theorem closeMarkerArrival (core dir : Nat) : Statement (Instr.closeMarkerArrival core dir) := of_event rfl
theorem rawWordArrival (core dir : Nat) : Statement (Instr.rawWordArrival core dir) := of_event rfl
theorem instructionFetch (cluster base : Nat) : Statement (Instr.instructionFetch cluster base) := of_event rfl
theorem resultLands (core level idx : Nat) : Statement (Instr.resultLands core level idx) := of_event rfl
theorem messageArrival (idx : Nat) : Statement (Instr.messageArrival idx) := of_event rfl
theorem acceptance (idx : Nat) : Statement (Instr.acceptance idx) := of_event rfl
theorem refusal (idx : Nat) : Statement (Instr.refusal idx) := of_event rfl
theorem depositDataWrite (core idx : Nat) : Statement (Instr.depositDataWrite core idx) := of_event rfl
theorem dispatch (core : Nat) : Statement (Instr.dispatch core) := of_event rfl
theorem retirement (idx : Nat) : Statement (Instr.retirement idx) := of_event rfl
theorem phaseClose (gang phase : Nat) : Statement (Instr.phaseClose gang phase) := of_event rfl
theorem phaseCloseDelivery (idx : Nat) : Statement (Instr.phaseCloseDelivery idx) := of_event rfl
theorem faultNotice (idx : Nat) : Statement (Instr.faultNotice idx) := of_event rfl
theorem amoRequest (core : Nat) : Statement (Instr.amoRequest core) := of_event rfl
theorem amoResult (idx : Nat) : Statement (Instr.amoResult idx) := of_event rfl
theorem nodeStep (core level : Nat) : Statement (Instr.nodeStep core level) := of_event rfl
theorem churnPush (core level : Nat) : Statement (Instr.churnPush core level) := of_event rfl
theorem autoBalance (core : Nat) : Statement (Instr.autoBalance core) := of_event rfl
theorem trapEntry (core level : Nat) : Statement (Instr.trapEntry core level) := of_event rfl
theorem stewardRecord (r : StewardFinding) : Statement (Instr.stewardRecord r) := of_event rfl
theorem coreResume (core : Nat) : Statement (Instr.coreResume core) := of_event rfl
theorem coreRestart (core : Nat) : Statement (Instr.coreRestart core) := of_event rfl
theorem spareColumnRemap (col : Nat) : Statement (Instr.spareColumnRemap col) := of_event rfl
theorem markBankFailed (core bank : Nat) : Statement (Instr.markBankFailed core bank) := of_event rfl
theorem gangAllocation : Statement (Instr.gangAllocation) := of_event rfl
theorem bandPromotion (asid queue idx : Nat) : Statement (Instr.bandPromotion asid queue idx) := of_event rfl
theorem gangStart (gang cluster : Nat) : Statement (Instr.gangStart gang cluster) := of_event rfl
theorem segmentArrival (cluster : Nat) : Statement (Instr.segmentArrival cluster) := of_event rfl
theorem launchContextStart (gang : Nat) : Statement (Instr.launchContextStart gang) := of_event rfl
theorem gangCompletion (gang : Nat) : Statement (Instr.gangCompletion gang) := of_event rfl
theorem preemptionRequest (gang : Nat) : Statement (Instr.preemptionRequest gang) := of_event rfl
theorem preemptDistribution (core : Nat) : Statement (Instr.preemptDistribution core) := of_event rfl
theorem rtcLateHalt (core : Nat) : Statement (Instr.rtcLateHalt core) := of_event rfl
theorem imageWrite (gang : Nat) : Statement (Instr.imageWrite gang) := of_event rfl
theorem gangRestore (gang cx cy : Nat) : Statement (Instr.gangRestore gang cx cy) := of_event rfl
theorem timeSliceSwitch (instant : Nat) (gangs : List Nat) : Statement (Instr.timeSliceSwitch instant gangs) := of_event rfl
theorem ptpMessage (port : Nat) (m : PtpMsg) : Statement (Instr.ptpMessage port m) := of_event rfl
theorem engineUnit (u : UnitStep) : Statement (Instr.engineUnit u) := of_event rfl
theorem pftNoticeInjection (idx : Nat) : Statement (Instr.pftNoticeInjection idx) := of_event rfl
theorem translationWalk (slice : Nat) : Statement (Instr.translationWalk slice) := of_event rfl
theorem leaseGrant (quad : Nat) : Statement (Instr.leaseGrant quad) := of_event rfl
theorem leaseLimit (quad : Nat) : Statement (Instr.leaseLimit quad) := of_event rfl
theorem leaseHandover (quad : Nat) : Statement (Instr.leaseHandover quad) := of_event rfl
theorem suspensionTimeout (quad : Nat) : Statement (Instr.suspensionTimeout quad) := of_event rfl
theorem leaseRelease (quad : Nat) : Statement (Instr.leaseRelease quad) := of_event rfl
theorem matrixStep (quad : Nat) (lane : Nat) (first : List (Nat × BitVec 32)) (second : List (Nat × BitVec 32)) : Statement (Instr.matrixStep quad lane first second) := of_event rfl
theorem mswapEffect (quad : Nat) : Statement (Instr.mswapEffect quad) := of_event rfl
theorem kvWriteRequest (slice idx : Nat) : Statement (Instr.kvWriteRequest slice idx) := of_event rfl
theorem relayoutSlotGrant (slice : Nat) : Statement (Instr.relayoutSlotGrant slice) := of_event rfl
theorem relayoutDequantise (slice idx : Nat) : Statement (Instr.relayoutDequantise slice idx) := of_event rfl
theorem relayoutApply (slice idx : Nat) : Statement (Instr.relayoutApply slice idx) := of_event rfl
theorem relayoutFlip (slice idx : Nat) : Statement (Instr.relayoutFlip slice idx) := of_event rfl
theorem kvReadRequest (slice idx : Nat) : Statement (Instr.kvReadRequest slice idx) := of_event rfl
theorem kvTick (slice : Nat) : Statement (Instr.kvTick slice) := of_event rfl
theorem skimmerBegin (slice : Nat) : Statement (Instr.skimmerBegin slice) := of_event rfl
theorem skimmerQuantise (slice : Nat) : Statement (Instr.skimmerQuantise slice) := of_event rfl
theorem skimmerFlip (slice : Nat) : Statement (Instr.skimmerFlip slice) := of_event rfl
theorem fshipPerform (bdp idx : Nat) : Statement (Instr.fshipPerform bdp idx) := of_event rfl
theorem bankRefresh (slice channel bank : Nat) : Statement (Instr.bankRefresh slice channel bank) := of_event rfl
theorem layerOverheat (stack layer temp : Nat) : Statement (Instr.layerOverheat stack layer temp) := of_event rfl
theorem refreshDue (slice channel : Nat) : Statement (Instr.refreshDue slice channel) := of_event rfl
theorem allBankRefresh (slice channel : Nat) : Statement (Instr.allBankRefresh slice channel) := of_event rfl
theorem remapTableError (slice channel : Nat) : Statement (Instr.remapTableError slice channel) := of_event rfl
theorem remapReload (slice channel : Nat) (goldenBad : Bool) : Statement (Instr.remapReload slice channel goldenBad) := of_event rfl
theorem frameStart : Statement (Instr.frameStart) := of_event rfl
theorem flitForward (router dir : Nat) : Statement (Instr.flitForward router dir) := of_event rfl
theorem linkFlitReceive (port : Nat) (flit : WireFlit) (crc : BitVec 32) (badLanes : BitVec 8) : Statement (Instr.linkFlitReceive port flit crc badLanes) := of_event rfl
theorem replayRequest (port seq : Nat) : Statement (Instr.replayRequest port seq) := of_event rfl
theorem laneRepair (port lane : Nat) (replayFails : Bool) : Statement (Instr.laneRepair port lane replayFails) := of_event rfl
theorem snapshotTrigger (source : Nat) (word : BitVec 64) : Statement (Instr.snapshotTrigger source word) := of_event rfl
theorem snapshotLatch : Statement (Instr.snapshotLatch) := of_event rfl
theorem snapshotRelease : Statement (Instr.snapshotRelease) := of_event rfl
theorem snapin : Statement (Instr.snapin) := of_event rfl
theorem perst : Statement (Instr.perst) := of_event rfl
theorem pwrgood : Statement (Instr.pwrgood) := of_event rfl
theorem blockCalibration (block : Nat) (found : Trained) : Statement (Instr.blockCalibration block found) := of_event rfl
theorem firmwareVerify (image : List (BitVec 8)) (version : Nat) : Statement (Instr.firmwareVerify image version) := of_event rfl
theorem valeLoad (image : List (BitVec 8)) (version : Nat) : Statement (Instr.valeLoad image version) := of_event rfl
theorem doorbell (ring : Nat) : Statement (Instr.doorbell ring) := of_event rfl
theorem completionEntry (c : RingCompletion) : Statement (Instr.completionEntry c) := of_event rfl
theorem attestationQuote (nonce : BitVec 512) : Statement (Instr.attestationQuote nonce) := of_event rfl
theorem islandDvfs (island : Nat) (point : DvfsPoint) (watts : Nat) (temp : Nat) : Statement (Instr.islandDvfs island point watts temp) := of_event rfl
theorem thermtrip (temp : Nat) : Statement (Instr.thermtrip temp) := of_event rfl
theorem systemCallReturn (core level : Nat) : Statement (Instr.systemCallReturn core level) := of_event rfl
theorem time (c : Caller) : Statement (Instr.time c) := of_event rfl
theorem post (c : Caller) : Statement (Instr.post c) := of_event rfl
theorem waitjob (c : Caller) : Statement (Instr.waitjob c) := of_event rfl
theorem xutable (c : Caller) : Statement (Instr.xutable c) := of_event rfl
theorem routine (c : Caller) : Statement (Instr.routine c) := of_event rfl
theorem map (c : Caller) : Statement (Instr.map c) := of_event rfl
theorem mapSub (c : Caller) : Statement (Instr.mapSub c) := of_event rfl
theorem unmapSub (c : Caller) : Statement (Instr.unmapSub c) := of_event rfl
theorem realloc (c : Caller) : Statement (Instr.realloc c) := of_event rfl
theorem kvalloc (c : Caller) : Statement (Instr.kvalloc c) := of_event rfl
theorem kvfree (c : Caller) : Statement (Instr.kvfree c) := of_event rfl
theorem kvslots (c : Caller) : Statement (Instr.kvslots c) := of_event rfl
theorem pooladd (c : Caller) : Statement (Instr.pooladd c) := of_event rfl
theorem unassignedCall (c : Caller) : Statement (Instr.unassignedCall c) := of_event rfl
theorem registerWrite (r : RegSel) (v : BitVec 64) : Statement (Instr.registerWrite r v) := of_event rfl
theorem hostBarAccess (write : Bool) (bar off : Nat) (v : BitVec 64) : Statement (Instr.hostBarAccess write bar off v) := of_event rfl

end Sys2Proof.Laws.RoundTrip
end

