-- ==== Sys2Proof/Tests/Slice0.lean ====
section
/-! SUPPORT. The model's own tests: states and operands that meet the hypotheses of the statements, ill-formed terms, one word of each
encoding, and worked cases of the spec. -/

set_option Elab.async false
namespace Sys2Proof.Tests
open Sys2Proof Sys2Proof.Machine

/-! ### States of the tests -/

/-- Gang 0 runs on cluster 0; core 0 is at its first instruction. -/
def at0 : State := State.reset.withFetchWord 32 0
/-- The same with another acting context. -/
def ctx0 (f : Ctx → Ctx) : State := at0.modCtx 0 0 f
/-- The same with another core 0. -/
def core0 (f : Core → Core) : State := at0.modCore 0 f
/-- The same with another cluster 0. -/
def home0 (f : Cluster → Cluster) : State := at0.modCluster 0 f
/-- The same with scalar registers. -/
def regs (l : List (Nat × Word)) : State := ctx0 fun x => { x with s := l.foldl (fun m q => Map.set m q.1 q.2) x.s }
/-- The same with vector registers. -/
def vecs (l : List (Nat × VReg)) : State := ctx0 fun x => { x with v := l.foldl (fun m q => Map.set m q.1 q.2) x.v, vl := 256 }

/-! ### Witnesses: states and operands that meet the hypotheses of the statements -/

theorem witness_ScalarOperationResults :
    (∃ p d a b s s1 s2 s3 t x y, Enabled p s s1 ∧ readS a s1 = .ok x s2 ∧ readS b s2 = .ok y s3 ∧ writeSL d (x + y) 3 s3 = .ok ⟨⟩ t)
    ∧ (∃ p d a s s1 s2 t x, Enabled p s s1 ∧ readS a s1 = .ok x s2 ∧ writeSL d x 1 s2 = .ok ⟨⟩ t)
    ∧ (∃ d a s s1 t x, readS a s = .ok x s1 ∧ writeSL d (x + 5) 1 s1 = .ok ⟨⟩ t)
    ∧ (∃ p d a b s s1 s2 s3 t, Enabled p s s1 ∧ readS a s1 = .ok (2 ^ 63) s2 ∧ readS b s2 = .ok (-1) s3
        ∧ writeSL d (2 ^ 63) 20 s3 = .ok ⟨⟩ t) :=
  ⟨⟨0, 5, 3, 4, at0, _, _, _, _, _, _, ⟨_, rfl, rfl⟩, rfl, rfl, rfl⟩, ⟨0, 5, 3, at0, _, _, _, _, ⟨_, rfl, rfl⟩, rfl, rfl⟩,
    ⟨5, 3, at0, _, _, _, rfl, rfl⟩, ⟨0, 5, 3, 4, regs [(3, 2 ^ 63), (4, -1)], _, _, _, _, ⟨_, rfl, rfl⟩, rfl, rfl, rfl⟩⟩

theorem witness_ComparisonsSelectionFields :
    (∃ (d a b : BitVec 5) (k : BitVec 3), ∃ s : State, ∃ s1 s2 s3 t x y v, readS a s = .ok x s1 ∧ readS b s1 = .ok y s2 ∧ readP k.toNat s2 = .ok v s3
        ∧ writeSL d (if v.getLsbD 0 then x else y) 1 s3 = .ok ⟨⟩ t)
    ∧ (∃ d s t, writeSL d (BitVec.signExtend 64 (5 : BitVec 17) * 4096 + 2048) 1 s = .ok ⟨⟩ t)
    ∧ (∃ w : Nat, w < 2 ^ 32 ∧ w % 2 = 1 ∧ w / 16 % 64 = 0x02 ∧ 8 ≤ w / 2 ^ 28)
    ∧ (∃ d a b c s s1 s2 s3 t x y z, readS a s = .ok x s1 ∧ readS b s1 = .ok y s2 ∧ readS c s2 = .ok z s3 ∧ writeSL d (x + z) 1 s3 = .ok ⟨⟩ t
        ∧ y = 0)
    ∧ (∃ d a b c s s1 s2 s3 s4 t x y z u, readS a s = .ok x s1 ∧ readS b s1 = .ok y s2 ∧ readS c s2 = .ok z s3 ∧ readS d s3 = .ok u s4
        ∧ z ≠ 0 ∧ y.toNat < 64 ∧ writeSL d u 1 s4 = .ok ⟨⟩ t)
    ∧ (∃ d a b c s s1 s2 s3 t x y z u, readS a s = .ok x s1 ∧ readS b s1 = .ok y s2 ∧ readS c s2 = .ok z s3 ∧ readS d s3 = .ok u t
        ∧ (z = 0 ∨ 64 ≤ y.toNat))
    ∧ (∃ d a s s1 t x, readS a s = .ok x s1 ∧ (32 : BitVec 6).toNat + (32 : BitVec 6).toNat ≤ 64 ∧ writeSL d x 1 s1 = .ok ⟨⟩ t) :=
  ⟨⟨5, 3, 4, 1, at0, _, _, _, _, _, _, _, rfl, rfl, rfl, rfl⟩, ⟨5, at0, _, rfl⟩, ⟨0x80000021, by decide⟩,
    ⟨5, 3, 4, 6, at0, _, _, _, _, _, _, _, rfl, rfl, rfl, rfl, rfl⟩,
    ⟨5, 3, 4, 6, regs [(4, 63), (6, 1)], _, _, _, _, _, _, _, _, _, rfl, rfl, rfl, rfl, by decide, by decide, rfl⟩,
    ⟨5, 3, 4, 6, regs [(4, 64), (6, 1)], _, _, _, _, _, _, _, _, rfl, rfl, rfl, rfl, .inr (by decide)⟩,
    ⟨5, 3, at0, _, _, _, rfl, by decide, rfl⟩⟩

theorem witness_TreeAddressArithmetic :
    (∃ x, (canon x).2.1 = 24) ∧ (∃ x, (canon x).2.1 < 24)
    ∧ (∃ p d a b s s1 s2 s3 t x y, Enabled p s s1 ∧ readS a s1 = .ok x s2 ∧ readS b s2 = .ok y s3 ∧ writeSL d (tanbOf x y) 1 s3 = .ok ⟨⟩ t) :=
  ⟨⟨24 * 2 ^ 51, by decide⟩, ⟨23 * 2 ^ 51, by decide⟩, ⟨0, 5, 3, 4, at0, _, _, _, _, _, _, ⟨_, rfl, rfl⟩, rfl, rfl, rfl⟩⟩

theorem witness_PredicatedOffAndShortForms :
    (∃ (p : BitVec 3), ∃ s : State, ∃ t v, readP p.toNat s = .ok v t ∧ predBit v 0 = false)
    ∧ (∃ d a s s1 s2 t x y, readS d s = .ok x s1 ∧ readS a s1 = .ok y s2 ∧ writeSL d (x + y) 1 s2 = .ok ⟨⟩ t)
    ∧ (∃ d s s1 t x, readS d s = .ok x s1 ∧ writeSL d (x + 5) 1 s1 = .ok ⟨⟩ t) :=
  ⟨⟨1, at0, _, _, rfl, rfl⟩, ⟨5, 3, at0, _, _, _, _, _, rfl, rfl, rfl⟩, ⟨5, at0, _, _, _, rfl, rfl⟩⟩

/-- A pending result of s5. -/
def pend5 (ready : Option Nat) : Pend := { id := 1, dest := .scalar 5, val := 7, ready := ready }
/-- Core 0 with words of the eastern link. -/
def linked (n : Nat) : State := core0 fun k => { k with inq := [(1, List.replicate n { data := 9, dst := 0, inDir := 1 })], outq := [(1, List.replicate n { data := 9, dst := 1, inDir := 3 })] }

/-- Core 0 with an eastern stream port in state p. -/
def ported (p : Port) (n : Nat) : State := (linked n).modCore 0 fun k => { k with inq := [], ports := [(1, p)] }

theorem witness_ScalarSourcesAndResults :
    (at0.me.pendingTo (.scalar 5) = none ∧ Map.get? at0.me.poisoned 5 = none)
    ∧ (∃ s : State, ∃ q n, s.me.pendingTo (.scalar 5) = some q ∧ q.ready = some n ∧ s.me.sbc = true)
    ∧ (∃ s : State, ∃ q n, s.me.pendingTo (.scalar 5) = some q ∧ q.ready = some n ∧ s.me.sbc = false ∧ Map.get? s.me.poisoned 5 = none)
    ∧ (∃ s : State, ∃ q, s.me.pendingTo (.scalar 5) = some q ∧ q.ready = none)
    ∧ (∃ s : State, ∃ ta, s.me.pendingTo (.scalar 5) = none ∧ Map.get? s.me.poisoned 5 = some ta ∧ s.me.td = false)
    ∧ (∃ s : State, ∃ ta, s.me.pendingTo (.scalar 5) = none ∧ Map.get? s.me.poisoned 5 = some ta ∧ s.me.td = true)
    ∧ (∃ s : State, ∃ f q, Map.getD s.here.inq ((29 : BitVec 5).toNat - 28) [] = f :: q)
    ∧ (∃ s : State, ∃ id, Map.getD s.here.inq 1 [] = [] ∧ Map.getD s.here.ports 1 .closed = .open id)
    ∧ (∃ (s : State), ∃ g n, Map.getD s.here.inq 1 [] = [] ∧ (∀ id, Map.getD s.here.ports 1 .closed ≠ .open id) ∧ s.gangOf s.cur.1 = some g
        ∧ neighbour s.cur.1 1 = some n ∧ g.holds n = true)
    ∧ (Map.getD at0.here.inq 0 [] = [] ∧ neighbour at0.cur.1 0 = none)
    ∧ (∃ (s : State), ∃ n g, Map.getD s.here.ports 1 .closed = .closed ∧ neighbour s.cur.1 1 = some n ∧ s.gangOf s.cur.1 = some g
        ∧ g.holds n = true ∧ (Map.getD s.here.outq 1 []).length < 16)
    ∧ (∃ (s : State), ∃ n g, Map.getD s.here.ports 1 .closed = .closed ∧ neighbour s.cur.1 1 = some n ∧ s.gangOf s.cur.1 = some g
        ∧ g.holds n = true ∧ 16 ≤ (Map.getD s.here.outq 1 []).length)
    ∧ (∃ (s : State), ∃ n g, Map.getD s.here.ports 1 .closed = .armed 2 ∧ s.gangOf s.cur.1 = some g ∧ g.toPhys 2 = some n
        ∧ (Map.getD s.here.outq 1 []).length < 16)
    ∧ (Map.getD at0.here.ports 0 .closed = .closed) :=
  ⟨⟨rfl, rfl⟩, ⟨ctx0 fun x => { x with pend := [pend5 (some 4)], sbc := true }, _, _, rfl, rfl, rfl⟩,
    ⟨ctx0 fun x => { x with pend := [pend5 (some 4)] }, _, _, rfl, rfl, rfl, rfl⟩, ⟨ctx0 fun x => { x with pend := [pend5 none] }, _, rfl, rfl⟩,
    ⟨ctx0 fun x => { x with poisoned := [(5, 9)] }, _, rfl, rfl, rfl⟩, ⟨ctx0 fun x => { x with poisoned := [(5, 9)], td := true }, _, rfl, rfl, rfl⟩,
    ⟨linked 1, { data := 9, dst := 0, inDir := 1 }, [], rfl⟩, ⟨ported (.open 2) 0, _, rfl, rfl⟩,
    ⟨at0, _, _, rfl, by intro i h; exact Port.noConfusion h, rfl, rfl, rfl⟩, ⟨rfl, rfl⟩, ⟨linked 15, _, _, rfl, rfl, rfl, rfl, by decide⟩,
    ⟨linked 16, _, _, rfl, rfl, rfl, rfl, by decide⟩, ⟨ported (.armed 2) 15, _, _, rfl, rfl, rfl, by decide⟩, rfl⟩

theorem witness_EndCheckAfterEachInstruction :
    (∃ (s : State), ∃ c l next, (endCheck (s.ctx c l) next).pc ≠ next ∧ (s.core c).buffered (endCheck (s.ctx c l) next).pc = false)
    ∧ (∃ (s : State), ∃ c l next, (endCheck (s.ctx c l) next).pc = next)
    ∧ (∃ (k : Core), ∃ base bytes bad, k.ibuf = some (base, bytes, bad)) :=
  ⟨⟨ctx0 fun x => { x with lc := [(0, 2)], ls := [(0, 0x100)], le := [(0, 8)] }, 0, 0, 8, by decide, by decide⟩, ⟨at0, 0, 0, 8, by decide⟩,
    ⟨{ ibuf := some (0, [], []) }, _, _, _, rfl⟩⟩

/-- Core 0 may take a trap. -/
def trapping : State := ctx0 fun x => { x with tvec := 0x100 }

theorem witness_TrapEntrySavesAndTransfers :
    ((trapping.ctx 0 0).td = false ∧ (trapping.ctx 0 0).rtc = false ∧ (trapping.ctx 0 0).tvec ≠ 0 ∧ trapping.me.pend = [])
    ∧ (∃ s : State, s.me.pend ≠ [] ∧ s.me.td = false ∧ s.me.rtc = false ∧ s.me.tvec ≠ 0) :=
  ⟨by decide, ⟨trapping.modCtx 0 0 fun x => { x with pend := [pend5 none] }, by decide⟩⟩

theorem witness_TrapTurnedIntoStop :
    (∃ s : State, (s.ctx 0 0).td = true ∧ ∃ g, s.gangOf 0 = some g) ∧ (∃ s : State, (s.ctx 0 0).rtc = true) ∧ ((at0.ctx 0 0).tvec = 0)
    ∧ (∀ k m d, (State.reset.ctx k m).wait ≠ .mcheck d) :=
  ⟨⟨ctx0 fun x => { x with td := true }, rfl, _, rfl⟩, ⟨ctx0 fun x => { x with rtc := true }, rfl⟩, rfl,
    by intro k m d h; rcases m with _ | _ | _ | m <;> exact Wait.noConfusion h⟩

/-- Core 0 in a trap handler. -/
def handling (l : List (Nat × Word)) : State := (regs l).modCtx 0 0 fun x => { x with tvec := 0x100, td := true }

theorem witness_TrapReturnAndPipeControl :
    (trapping.me.pend = [] ∧ trapping.me.td = false ∧ trapping.me.rtc = false ∧ trapping.me.tvec ≠ 0)
    ∧ ((handling []).me.td = true ∧ (handling []).me.pend = [])
    ∧ (∃ s : State, ∃ x, s.me.td = true ∧ s.me.pend = [] ∧ readS 3 s = .ok x s ∧ x ≠ 0 ∧ LegalTarget x.toNat)
    ∧ (∃ s : State, ∃ x, s.me.td = true ∧ readS 3 s = .ok x s ∧ 0x3FFFFE < x.toNat) ∧ (∃ s : State, ∃ x, s.me.td = true ∧ readS 3 s = .ok x s ∧ x.toNat ≤ 0x3FFFFE ∧ x.toNat % 2 = 1)
    ∧ (∃ s : State, s.me.td = true ∧ readS 3 s = .ok 0 s ∧ (s.modCtx s.cur.1 s.cur.2 fun x => { x with td := false }).mayEnd s.cur.1 s.cur.2 = true)
    ∧ at0.performed 0 0 = true ∧ (∃ s : State, s.performed 0 0 = false) ∧ (∃ s : State, s.alignMet 0 0 1 0 = false)
    ∧ (∃ s : State, (s.ctx 0 0).alignUntil = some 0 ∧ 0 ≤ (s.core 0).cycle) :=
  ⟨by decide, by decide, ⟨handling [(3, 0x3FFFFE)], _, rfl, rfl, rfl, by decide, by unfold LegalTarget; decide⟩,
    ⟨handling [(3, 0x3FFFFF)], _, rfl, rfl, by decide⟩, ⟨handling [(3, 0x3FFFFD)], _, rfl, rfl, by decide, by decide⟩,
    ⟨handling [], rfl, rfl, by decide⟩, by decide,
    ⟨at0.modCore 0 fun k => { k with sysq := [{ core := 0, level := 0, id := none, addr := 0, size := 8, fn := 0, y := 0, c := 0, pc := 0 }] }, by decide⟩, ⟨(home0 fun k => { k with hdr := { k.hdr with routines := [(0, 64)] } }).modCtx 1 0 fun x => { x with st := .ready }, by decide⟩,
    ⟨ctx0 fun x => { x with alignUntil := some 0 }, rfl, by decide⟩⟩
theorem legal_zero : LegalTarget 0 := by unfold LegalTarget; decide

theorem witness_BranchesAndCalls :
    LegalTarget (at0.me.pc.toNat + (0 : BitVec 22).toInt * 2) ∧ (∃ t, writeS 1 (BitVec.ofNat 64 (at0.me.pc.toNat + 4)) at0 = .ok ⟨⟩ t)
    ∧ (∃ s : State, ∃ s1 t x y, readS 3 s = .ok x s1 ∧ readS 4 s1 = .ok y t ∧ x = y ∧ LegalTarget (s.me.pc.toNat + (0 : BitVec 9).toInt * 2))
    ∧ (∃ s : State, ∃ s1 t x y, readS 3 s = .ok x s1 ∧ readS 4 s1 = .ok y t ∧ x ≠ y ∧ s.me.pc.toNat + (-1 : BitVec 9).toInt * 2 < 0)
    ∧ (∃ s : State, ∃ s1 t x, readS 3 s = .ok x s1 ∧ LegalTarget x.toNat ∧ writeS 5 (BitVec.ofNat 64 (s.me.pc.toNat + 4)) s1 = .ok ⟨⟩ t)
    ∧ (∃ s : State, ∃ t x, readS 3 s = .ok x t ∧ x ≠ 0 ∧ LegalTarget x.toNat)
    ∧ (∃ s : State, ∃ t, readS 3 s = .ok 0 t ∧ t.mayEnd t.cur.1 t.cur.2 = true) :=
  ⟨legal_zero, ⟨_, rfl⟩, ⟨at0, _, _, _, _, rfl, rfl, rfl, legal_zero⟩, ⟨regs [(3, 1)], _, _, _, _, rfl, rfl, by decide, by decide⟩,
    ⟨at0, _, _, _, rfl, legal_zero, rfl⟩, ⟨regs [(3, 0x3FFFFE)], _, _, rfl, by decide, by unfold LegalTarget; decide⟩, ⟨at0, _, rfl, by decide⟩⟩

/-- Core 0 with a jump table of one entry at 0x1000. -/
def tabled (l : List (Nat × Word)) : State := (regs l).cwrite 0 0x1000 8 (1 + 2 ^ 32 * 0x3FFFFE)

theorem witness_LoopsTablesHalts :
    (∃ s : State, ∃ t n, readS 3 s = .ok n t ∧ LegalTarget (s.me.pc.toNat + (3 : BitVec 12).toNat * 2 : Nat))
    ∧ (∃ s : State, ∃ t n, readS 3 s = .ok n t ∧ 0x3FFFFE < s.me.pc.toNat + (3 : BitVec 12).toNat * 2)
    ∧ (∃ s : State, ∃ s1 s2 t x i n, readS 3 s = .ok x s1 ∧ readS 4 s1 = .ok i s2 ∧ x.toNat % 4 = 0 ∧ tableLoad (x.toNat % 2 ^ 22) s2 = .ok n t ∧ n ≤ i.toNat)
    ∧ (∃ s : State, ∃ s1 s2 s3 t x i n v, readS 3 s = .ok x s1 ∧ readS 4 s1 = .ok i s2 ∧ x.toNat % 4 = 0 ∧ tableLoad (x.toNat % 2 ^ 22) s2 = .ok n s3
        ∧ i.toNat < n ∧ tableLoad (x.toNat % 2 ^ 22 + 4 + 4 * i.toNat) s3 = .ok v t ∧ v < 2 ^ 64 ∧ LegalTarget v)
    ∧ (∃ s : State, ∃ s1 t x i, readS 3 s = .ok x s1 ∧ readS 4 s1 = .ok i t ∧ x.toNat % 4 ≠ 0)
    ∧ ((0x6D000 : Nat) % 4 = 0 ∧ 0x6D000 < 2 ^ 22 ∧ at0.inMailbox (clusterOf at0.cur.1) 0x6D000 4 = true)
    ∧ at0.mayEnd 0 0 = true ∧ (∃ s : State, s.mayEnd 0 0 = false) ∧ (∃ s : State, (s.ctx 0 0).pend ≠ []) :=
  ⟨⟨at0, _, _, rfl, by unfold LegalTarget; decide⟩, ⟨ctx0 fun x => { x with pc := 0x3FFFFC }, _, _, rfl, by decide⟩,
    ⟨tabled [(3, 0x1000), (4, 1)], _, _, _, _, _, _, rfl, rfl, by decide, rfl, by decide⟩,
    ⟨tabled [(3, 0x1000)], _, _, _, _, _, _, _, _, rfl, rfl, by decide, rfl, by decide, rfl, by decide, by unfold LegalTarget; decide⟩,
    ⟨regs [(3, 2)], _, _, _, _, rfl, rfl, by decide⟩, by decide, by decide, ⟨ctx0 fun x => { x with pend := [pend5 none] }, by decide⟩,
    ⟨ctx0 fun x => { x with pend := [pend5 none] }, by decide⟩⟩

theorem witness_ControlRegisterAccess :
    (∃ s : State, ∃ t, writeSL 5 (s.cr s.cur.1 s.cur.2 0x101) 1 s = .ok ⟨⟩ t)
    ∧ (∃ s : State, ∃ t v, readS 3 s = .ok v t ∧ ((0x1F : BitVec 12).toNat < 0x20 ∨ 0x28 < (0x1F : BitVec 12).toNat))
    ∧ (∃ s : State, ∃ s1 t v, readS 3 s = .ok v s1 ∧ writeSL 5 (s.cr s.cur.1 s.cur.2 0x20) 1 s1 = .ok ⟨⟩ t ∧ 0x20 ≤ (0x20 : BitVec 12).toNat
        ∧ (0x28 : BitVec 12).toNat ≤ 0x28) :=
  ⟨⟨at0, _, rfl⟩, ⟨at0, _, _, rfl, by decide⟩, ⟨at0, _, _, _, rfl, rfl, by decide, by decide⟩⟩

/-- Core 0 with a stream of two bytes at 0x1000 and valid bits in its buffer. -/
def streaming (n : Nat) (l : List (Nat × Word)) : State :=
  ((regs l).modCtx 0 0 fun x => { x with bbpos := n, bbptr := 0x1000, bbend := 0x1002 }).cwrite 0 0x1000 2 0x1234

theorem witness_BitStreamBuffer :
    (∃ s : State, ∃ s1 t x y, readS 3 s = .ok x s1 ∧ readS 4 s1 = .ok y t) ∧ (∃ s : State, ∃ t, refill s 17 s = .ok ⟨⟩ t)
    ∧ (∃ s : State, ∃ s1 t x, readS 3 s = .ok x s1 ∧ min x.toNat 64 ≤ s1.me.bbpos
        ∧ writeS 5 (BitVec.ofNat 64 (s1.me.bits % 2 ^ min x.toNat 64)) s1 = .ok ⟨⟩ t)
    ∧ (∃ s : State, ∃ s1 s2 t x, readS 3 s = .ok x s1 ∧ s1.me.bbpos < min x.toNat 64 ∧ refill s 17 s1 = .ok ⟨⟩ s2
        ∧ writeS 5 (BitVec.ofNat 64 (s2.me.bits % 2 ^ min (min x.toNat 64) s2.me.bbpos)) s2 = .ok ⟨⟩ t)
    ∧ (∃ s : State, ∃ t x, readS 3 s = .ok x t ∧ x.toNat ≤ t.me.bbpos)
    ∧ (∃ s : State, ∃ s1 s2 x, readS 3 s = .ok x s1 ∧ s1.me.bbpos < x.toNat ∧ refill s 17 (s1.modCtx s1.cur.1 s1.cur.2 fun z =>
        { z with bblo := 0, bbhi := 0, bbpos := 0, bbptr := BitVec.ofNat 22 (min (z.bbptr.toNat + (x.toNat - s1.me.bbpos) / 8) z.bbend.toNat) }) = .ok ⟨⟩ s2)
    ∧ (∃ s : State, ∃ a v u, s.me.bbpos ≤ 120 ∧ s.me.bbptr.toNat < s.me.bbend.toNat ∧ checkLocal (s.me.bbptr.setWidth 64) 1 1 false s = .ok a s
        ∧ scalarLoad a 1 s = .ok v u)
    ∧ (∃ s : State, 120 < s.me.bbpos ∨ s.me.bbend.toNat ≤ s.me.bbptr.toNat) :=
  ⟨⟨at0, _, _, _, _, rfl, rfl⟩, ⟨at0, _, rfl⟩, ⟨streaming 8 [(3, 8)], _, _, _, rfl, by decide, rfl⟩,
    ⟨streaming 7 [(3, 8)], _, _, _, _, rfl, by decide, rfl, rfl⟩, ⟨streaming 8 [(3, 8)], _, _, rfl, by decide⟩,
    ⟨streaming 7 [(3, 8)], _, _, _, rfl, by decide, rfl⟩, ⟨streaming 120 [], _, _, _, by decide, by decide, rfl, rfl⟩,
    ⟨streaming 121 [], .inl (by decide)⟩⟩

/-- A range of a cluster that is locked for writing. -/
def locked : State := home0 fun k => { k with ranges := [{ id := 1, dest := true, tree := false, core := 1, level := 0, addr := 0x2000, len := 64 }] }

/-- A wrong symbol of a code word. -/
def flaw (row bank : Nat) : SymErr := { core := 0, row := row, bank := bank, lane := 0, flagged := false }

theorem witness_ClusterMemoryAccess :
    (2 ^ 22 ≤ (0x400000 : Word).toNat) ∧ ((0x3FFFFF : Word).toNat < 2 ^ 22 ∧ (0x3FFFFF : Word).toNat % 8 ≠ 0)
    ∧ ((0x3FFFC0 : Word).toNat < 2 ^ 22 ∧ (0x3FFFC0 : Word).toNat % 64 = 0 ∧ 2 ^ 22 < (0x3FFFC0 : Word).toNat + 65)
    ∧ (∃ A, A < 2 ^ 22 ∧ at0.inMailbox (clusterOf at0.cur.1) A 8 = true)
    ∧ (at0.inMailbox 0 0x2000 8 = false ∧ locked.inMailbox (clusterOf locked.cur.1) 0x2000 8 = false
        ∧ locked.lockedLocal (clusterOf locked.cur.1) 0x2000 8 true = true)
    ∧ (at0.lockedLocal (clusterOf at0.cur.1) 0x2000 8 true = false ∧ at0.firstAbsent (clusterOf at0.cur.1) 0x2000 8 = none
        ∧ at0.ownAmo 0x2000 8 = false)
    ∧ (at0.guarded 0 0x2000 = false ∧ at0.badLocal 0 0x2000 8 = false)
    ∧ (∃ s : State, s.guarded (clusterOf s.cur.1) 0x2000 = true)
    ∧ (∃ s : State, s.guarded (clusterOf s.cur.1) 0x2000 = false ∧ s.badLocal (clusterOf s.cur.1) 0x2000 8 = true) :=
  ⟨by decide, by decide, by decide, ⟨0x6D000, by decide⟩, by decide, by decide, by decide,
    ⟨{ at0 with guards := [0x2000 / 64] }, by decide⟩, ⟨{ at0 with wrong := [flaw 64 0, flaw 64 1] }, by decide⟩⟩

theorem witness_LoadsAndStoresComplete :
    (∃ s1 s2 s3 t x v addr, readS 3 at0 = .ok x s1 ∧ checkLocal (formAddress x (1 : BitVec 10) 8) 8 8 false s1 = .ok addr s2
        ∧ scalarLoad addr 8 s2 = .ok v s3 ∧ (true && s3.inHome addr) = true ∧ writeSL 5 (BitVec.ofNat 64 v) 4 s3 = .ok ⟨⟩ t)
    ∧ (∃ s : State, ∃ s1 s2 s3 t x v addr i, readS 3 s = .ok x s1 ∧ checkLocal (formAddress x (1 : BitVec 10) 8) 8 8 false s1 = .ok addr s2
        ∧ scalarLoad addr 8 s2 = .ok v s3 ∧ (true && s3.inHome addr) = false ∧ deferS 5 (BitVec.ofNat 64 v) 0 s3 = .ok i t)
    ∧ (∃ s1 s2 s3 t x v addr, readS 3 at0 = .ok x s1 ∧ checkLocal (formAddress x (1 : BitVec 10) 8) 8 8 true s1 = .ok addr s2
        ∧ readS 5 s2 = .ok v s3 ∧ scalarStore addr 8 (v.toNat % 2 ^ 64) s3 = .ok ⟨⟩ t ∧ (true = true → t.performed t.cur.1 t.cur.2 = true)) :=
  ⟨⟨_, _, _, _, _, _, _, rfl, rfl, rfl, by decide, rfl⟩, ⟨regs [(3, 0x80000)], _, _, _, _, _, _, _, _, rfl, rfl, rfl, by decide, rfl⟩,
    ⟨_, _, _, _, _, _, _, rfl, rfl, rfl, rfl, fun _ => by decide⟩⟩

set_option maxRecDepth 20000 in
theorem witness_VectorClusterMemory :
    (∃ s : State, ∃ s1 t x addr, readS 3 s = .ok x s1 ∧ checkLocal (formAddress x (1 : BitVec 10) 256) s.me.vl 64 false s1 = .ok addr s1
        ∧ s.firstGuarded (clusterOf s.cur.1) addr s.me.vl 4 = none ∧ s.badLocal (clusterOf s.cur.1) addr s.me.vl = false
        ∧ (s.inHome addr = true ∧ s.inHome (addr + s.me.vl - 1) = true)
        ∧ writeVL 5 { val := lowBytes s.me.vl (s.loadGranules (clusterOf s.cur.1) addr s.me.vl 4) (s1.me.vreg 5).val, tag := .raw } 6
            (s1.scrub (clusterOf s.cur.1) addr s.me.vl) = .ok ⟨⟩ t)
    ∧ (∃ s : State, ∃ s1 t x addr b, readS 3 s = .ok x s1 ∧ checkLocal (formAddress x (1 : BitVec 10) 256) s.me.vl 64 false s1 = .ok addr s1
        ∧ s.firstGuarded (clusterOf s.cur.1) addr s.me.vl 4 = some b ∧ s.badLocal (clusterOf s.cur.1) addr s.me.vl = false
        ∧ s.inHome addr = true ∧ s.inHome (addr + s.me.vl - 1) = true
        ∧ writeVL 5 { val := lowBytes s.me.vl (s.loadGranules (clusterOf s.cur.1) addr s.me.vl 4) (s1.me.vreg 5).val, tag := .poison } 6
            ((s1.modCore s1.cur.1 fun k => { k with guardrec := guardRecord k.guardrec false false s1.cur.2 b s1.me.pc.toNat }).scrub
              (clusterOf s.cur.1) addr s.me.vl) = .ok ⟨⟩ t)
    ∧ (∃ s : State, ∃ s1 s2 x addr v, readS 3 s = .ok x s1 ∧ checkLocal (formAddress x (1 : BitVec 10) 256) s.me.vl 64 true s1 = .ok addr s1
        ∧ readV 5 s1 = .ok v s2 ∧ v.tag ≠ .poison ∧ s.firstGuarded (clusterOf s.cur.1) addr s.me.vl 4 = none)
    ∧ (∃ s : State, ∃ s1 s2 x addr v, readS 3 s = .ok x s1 ∧ checkLocal (formAddress x (1 : BitVec 10) 256) s.me.vl 64 true s1 = .ok addr s1
        ∧ readV 5 s1 = .ok v s2 ∧ v.tag = .poison)
    ∧ (∀ i < 256, at0.guarded 0 (0x1000 + i) = false) :=
  ⟨⟨vecs [], _, _, _, _, rfl, rfl, by decide, by decide, by decide, rfl⟩,
    ⟨{ (ctx0 fun x => { x with vl := 4 }) with guards := [0x100 / 64] }, _, _, _, 0x100, 0x100, rfl, rfl, by decide, by decide, by decide, by decide, rfl⟩, ⟨vecs [], _, _, _, _, _, rfl, rfl, rfl, by decide, by decide⟩,
    ⟨vecs [(5, { val := 0, tag := .poison })], _, _, _, _, _, rfl, rfl, rfl, rfl⟩, fun _ _ => rfl⟩

/-- A valid image at 0x1000. -/
def imaged (v : Nat) : State := (regs [(3, 0x1000)]).cwrite 0 0x1000 32 v

theorem witness_GuardBitsAndTensorMaps :
    (∃ s : State, ∃ s1 t A n, readS 3 s = .ok A s1 ∧ readS 4 s1 = .ok n t ∧ A.toNat % 64 = 0 ∧ A.toNat < 2 ^ 22 ∧ A.toNat + 64 * n.toNat ≤ 2 ^ 22
        ∧ t.inMailbox (clusterOf t.cur.1) A.toNat (64 * n.toNat) = false)
    ∧ List.Pairwise (· < ·) [3, 5]
    ∧ (∃ s : State, ∃ s1 s2 t A addr v, readS 3 s = .ok A s1 ∧ checkLocal A 32 32 false s1 = .ok addr s2 ∧ scalarLoad addr 32 s2 = .ok v t
        ∧ imageValid v = true)
    ∧ (∃ s : State, ∃ s1 s2 t A addr v, readS 3 s = .ok A s1 ∧ checkLocal A 32 32 false s1 = .ok addr s2 ∧ scalarLoad addr 32 s2 = .ok v t
        ∧ imageValid v = false)
    ∧ (∃ s : State, ∃ s1 s2 t A addr, readS 3 s = .ok A s1 ∧ checkLocal A 32 32 true s1 = .ok addr s2
        ∧ scalarStore addr 32 (s2.me.mreg 1).image s2 = .ok ⟨⟩ t) :=
  ⟨⟨regs [(3, 0x3FFFC0), (4, 1)], _, _, _, _, rfl, rfl, by decide, by decide, by decide, by decide⟩, by decide,
    ⟨imaged 0, _, _, _, _, _, _, rfl, rfl, rfl, by decide⟩, ⟨imaged (2 ^ 51), _, _, _, _, _, _, rfl, rfl, rfl, by decide⟩,
    ⟨imaged 0, _, _, _, _, _, rfl, rfl, rfl⟩⟩

/-! Tree memory: root 0 of tenant 0 has an ESIZE, a DFMT and one leaf; map m1 lays a map of 4 rows of 64 over it. -/
/-- Root 0 with a leaf of a level above the last. -/
def treed (w0 : Word) (bits : Word) (tag : Tag) (l : List (Nat × Word)) : State :=
  let s := (regs l).modCtx 0 0 fun x => { x with vl := 8, m := [(1, { val := (3 * 2 ^ 24 + 63) * 2 ^ 64, tag := tag })] }
  { s with roots := [(0, (2 ^ 63 + w0, 1, 0, 0))], entries := [(64, (0, 2 ^ 63 + bits * 2 ^ 60 + 8))] }
/-- FP32 elements, readable and writable. -/
def tree32 : State := treed (3 * 2 ^ 60 + 5 * 2 ^ 56) 3 .fp32 [(6, 24 * 2 ^ 51)]
/-- A root whose page leaf has its first sub-block present, or not. -/
def paged (w0 bits : Word) : State :=
  let t := fun n : Nat => (n * 64, ((0 : Word), BitVec.ofNat 64 (2 ^ 62 + n + 1)))
  { at0 with roots := [(0, (2 ^ 63 + 3 * 2 ^ 60, 1, 0, 0))], entries := [t 1, t 2, t 3, t 4, t 5, (6 * 64, (w0, 3 * 2 ^ 62 + bits * 2 ^ 60 + 8))] }

set_option maxRecDepth 8000 in
theorem witness_TreeScalarsAndTranslation :
    (∃ s : State, ∃ s1 s2 s3 s4 t i j r e x rest n, readS 3 s = .ok i s1 ∧ readS 4 s1 = .ok j s2 ∧ (s2.me.mreg 1).view.headed = false
        ∧ mapFormat (s2.me.mreg 1).view s2 = .ok r s3
        ∧ reachMap (s2.me.mreg 1).view r .read false [(0, i.toNat, j.toNat)] s3 = .ok ((e, x) :: rest) s4 ∧ s4.badLoc x = false
        ∧ deferS 5 (BitVec.ofNat 64 (s4.getLoc x)) 0 s4 = .ok n t)
    ∧ (∃ s : State, ∃ s1 s2 s3 s4 t i j r n, readS 3 s = .ok i s1 ∧ readS 4 s1 = .ok j s2 ∧ (s2.me.mreg 1).view.headed = false
        ∧ mapFormat (s2.me.mreg 1).view s2 = .ok r s3 ∧ reachMap (s2.me.mreg 1).view r .read false [(0, i.toNat, j.toNat)] s3 = .ok [] s4
        ∧ deferS 5 (BitVec.ofNat 64 ((s2.me.mreg 1).view.fill % 2 ^ (s2.me.mreg 1).view.width r)) 0 s4 = .ok n t)
    ∧ (∃ s : State, ∃ s1 s2 s3 t A r e x rest n, readS 6 s = .ok A s1 ∧ rawRoot A s1 = .ok r s2 ∧ taDepth A = 24
        ∧ reachRaw .read false [(0, A)] s2 = .ok ((e, x) :: rest) s3 ∧ s3.badLoc x = false
        ∧ deferS 5 (BitVec.ofNat 64 (s3.getLoc x)) 0 s3 = .ok n t)
    ∧ (∃ s : State, ∃ s1 s2 s3 s4 t i j v r got, readS 3 s = .ok i s1 ∧ readS 4 s1 = .ok j s2 ∧ readS 5 s2 = .ok v s3
        ∧ (s3.me.mreg 1).view.headed = false ∧ mapFormat (s3.me.mreg 1).view s3 = .ok r s4
        ∧ reachMap (s3.me.mreg 1).view r .write true [(0, i.toNat, j.toNat)] s4 = .ok got t)
    ∧ (∃ s : State, ∃ s1 s2 s3 t A v r got, readS 6 s = .ok A s1 ∧ readS 5 s1 = .ok v s2 ∧ rawRoot A s2 = .ok r s3 ∧ taDepth A = 24
        ∧ reachRaw .write true [(0, A)] s3 = .ok got t)
    ∧ (∃ s : State, ∃ s1 s2 A r, readS 3 s = .ok A s1 ∧ rawRoot A s1 = .ok r s2 ∧ taDepth A ≠ 24)
    ∧ (∃ s : State, ∃ s1 s2 s3 s4 i j r e x rest, readS 3 s = .ok i s1 ∧ readS 4 s1 = .ok j s2 ∧ (s2.me.mreg 1).view.headed = false
        ∧ mapFormat (s2.me.mreg 1).view s2 = .ok r s3
        ∧ reachMap (s2.me.mreg 1).view r .read false [(0, i.toNat, j.toNat)] s3 = .ok ((e, x) :: rest) s4 ∧ s4.badLoc x = true ∧ s4.stale x = false)
    ∧ (∃ s : State, ∃ s1 s2 s3 s4 i j r e x rest, readS 3 s = .ok i s1 ∧ readS 4 s1 = .ok j s2 ∧ (s2.me.mreg 1).view.headed = false
        ∧ mapFormat (s2.me.mreg 1).view s2 = .ok r s3
        ∧ reachMap (s2.me.mreg 1).view r .read false [(0, i.toNat, j.toNat)] s3 = .ok ((e, x) :: rest) s4 ∧ s4.badLoc x = true ∧ s4.stale x = true
        ∧ s4.retired x.phys = false)
    ∧ (∃ t f, checkTA t = some f) ∧ (checkTA 0 = none ∧ (at0.root 0 (taRoot 0)).valid = false)
    ∧ (∃ s : State, (s.root 0 (taRoot 0)).valid = true ∧ (s.root 0 (taRoot 0)).malformed = true)
    ∧ (∃ s : State, ∃ e, (s.root 0 (taRoot 0)).valid = true ∧ (s.root 0 (taRoot 0)).malformed = false
        ∧ s.walkFrom (s.root 0 (taRoot 0)) (taPath 0) 6 (s.root 0 (taRoot 0)).tbase = .ok e)
    ∧ (∃ s : State, s.retired 2048 = true)
    ∧ ((paged 0 3).retired 2048 = false ∧ entryType (Map.getD (paged 0 3).entries 64 (0, 0)).2 = 1
        ∧ entryMalformed (Map.getD (paged 0 3).entries 64 (0, 0)).1 (Map.getD (paged 0 3).entries 64 (0, 0)).2 1 ((paged 0 3).root 0 0) = false)
    ∧ (∃ s : State, ∃ d e, s.walk 0 0 = .ok (d, e) ∧ entryEncv e.w1 = d.bver % 256 ∧ e.w1.getLsbD 61 = true ∧ e.w1.getLsbD 60 = true
        ∧ entryType e.w1 = 2 ∧ e.w1.getLsbD 58 = false)
    ∧ (∃ s : State, ∃ d e, s.walk 0 0 = .ok (d, e) ∧ entryEncv e.w1 ≠ d.bver % 256)
    ∧ (∃ s : State, ∃ d e, s.walk 0 0 = .ok (d, e) ∧ entryEncv e.w1 = d.bver % 256 ∧ e.w1.getLsbD 61 = false ∧ e.w1.getLsbD 60 = false)
    ∧ (∃ s : State, ∃ d e, s.walk 0 0 = .ok (d, e) ∧ entryEncv e.w1 = d.bver % 256 ∧ e.w1.getLsbD 61 = true ∧ e.w1.getLsbD 60 = true
        ∧ entryType e.w1 = 3 ∧ e.w0.getLsbD (taPath 0 / 64 % 64) = false)
    ∧ (∃ s : State, ∃ d e, s.walk 0 0 = .ok (d, e) ∧ entryEncv e.w1 = d.bver % 256 ∧ e.w1.getLsbD 61 = true ∧ e.w1.getLsbD 60 = true
        ∧ entryType e.w1 = 3 ∧ e.w0.getLsbD (taPath 0 / 64 % 64) = true) :=
  ⟨⟨tree32, _, _, _, _, _, _, _, _, _, _, _, _, rfl, rfl, rfl, rfl, rfl, rfl, rfl⟩,
    ⟨treed (3 * 2 ^ 60) 3 .fp32 [(4, 64)], _, _, _, _, _, _, _, _, _, rfl, rfl, rfl, rfl, rfl, rfl⟩,
    ⟨tree32, _, _, _, _, _, _, _, _, _, _, rfl, rfl, rfl, rfl, rfl, rfl⟩, ⟨tree32, _, _, _, _, _, _, _, _, _, _, rfl, rfl, rfl, rfl, rfl, rfl⟩,
    ⟨tree32, _, _, _, _, _, _, _, _, rfl, rfl, rfl, rfl, rfl⟩, ⟨tree32, _, _, _, _, rfl, rfl, by decide⟩,
    ⟨{ tree32 with badPhys := [8 * 2048 / 32] }, _, _, _, _, _, _, _, _, _, _, rfl, rfl, rfl, rfl, rfl, rfl, rfl⟩,
    ⟨{ tree32 with roots := [(0, (2 ^ 63 + 3 * 2 ^ 60 + 5 * 2 ^ 56 + 2 ^ 44 + 256, 1, 0, 0))] }, _, _, _, _, _, _, _, _, _, _, rfl, rfl, rfl, rfl, rfl, rfl, rfl, rfl⟩, ⟨1, _, rfl⟩, by decide,
    ⟨{ at0 with roots := [(0, (2 ^ 63 + 2 ^ 40, 1, 0, 0))] }, by decide, by decide⟩, ⟨paged 0 3, _, by decide, by decide, rfl⟩,
    ⟨at0.modSlice (homeSlice 2048) fun y => { y with retired := [0, 1] }, by decide⟩, by decide, ⟨treed (3 * 2 ^ 60) 3 .fp32 [], _, _, rfl, by decide⟩,
    ⟨treed (3 * 2 ^ 60 + 1) 3 .fp32 [], _, _, rfl, by decide⟩, ⟨treed (3 * 2 ^ 60) 0 .fp32 [], _, _, rfl, by decide⟩,
    ⟨paged 0 3, _, _, rfl, by decide⟩, ⟨paged 1 3, _, _, rfl, by decide⟩⟩
/-- The same root with vector registers. -/
def withVec (s : State) (l : List (Nat × VReg)) : State := s.modCtx 0 0 fun x => { x with v := l.foldl (fun m q => Map.set m q.1 q.2) x.v }
/-- Root 0 headed, with one page of header 40, through a headed map of FP16. -/
def headed (raw : Nat) (l : List (Nat × Word)) : State :=
  let t := fun n : Nat => (n * 64, ((0 : Word), BitVec.ofNat 64 (2 ^ 62 + n + 1)))
  let w0 : Nat := 2 ^ 48 + raw * 2 ^ 49
  let s := (regs l).modCtx 0 0 fun x => { x with vl := 8, m := [(1, { val := BitVec.ofNat 256 (w0 + (3 * 2 ^ 24 + 63) * 2 ^ 64), tag := .fp16 })] }
  { s with roots := [(0, (2 ^ 63 + 2 ^ 62 + 2 ^ 60, 1, 1, 0))]
           entries := [t 1, t 2, t 3, t 4, t 5, (6 * 64, (BitVec.allOnes 64, 3 * 2 ^ 62 + 3 * 2 ^ 60 + 2 ^ 58 + 8))]
           headers := [(40, { slot := 2 ^ 30 })] }

set_option maxRecDepth 20000 in
theorem witness_TreeVectors :
    (∃ s : State, ∃ s1 s2 s3 s4 t i j r got, readS 3 s = .ok i s1 ∧ readS 4 s1 = .ok j s2 ∧ (s2.me.mreg 1).view.headed = false
        ∧ mapFormat (s2.me.mreg 1).view s2 = .ok r s3 ∧ reachMap (s2.me.mreg 1).view r .read false (stripFrom i.toNat j.toNat 0 2) s3 = .ok got s4
        ∧ finishLoad 5 32 got (fillOut got ((s2.me.mreg 1).view.fillCode 32) 2) (lowMask 2 32) (s2.me.mreg 1).view.tag s4 = .ok ⟨⟩ t)
    ∧ (∃ s : State, ∃ s1 s2 s3 t A r got, readS 6 s = .ok A s1 ∧ rawRoot A s1 = .ok r s2 ∧ reachRaw .read false (blockElems A r.esize s.me.vl) s2 = .ok got s3
        ∧ finishLoad 5 r.esize got [] (lowMask s.me.vl 8) r.dfmt s3 = .ok ⟨⟩ t)
    ∧ (∃ s : State, ∃ s1 s2 s3 s4 t i j x r got, readS 3 s = .ok i s1 ∧ readS 4 s1 = .ok j s2 ∧ readV 5 s2 = .ok x s3 ∧ x.tag ≠ .poison
        ∧ (s3.me.mreg 1).view.headed = false ∧ mapFormat (s3.me.mreg 1).view s3 = .ok r s4 ∧ (x.tag = (s3.me.mreg 1).view.tag ∨ (s3.me.mreg 1).view.tag = .raw)
        ∧ reachMap (s3.me.mreg 1).view r .write true (stripFrom i.toNat j.toNat 0 2) s4 = .ok got t)
    ∧ (∃ s : State, ∃ s1 s2 s3 t A x r got, readS 6 s = .ok A s1 ∧ readV 5 s1 = .ok x s2 ∧ rawRoot A s2 = .ok r s3 ∧ x.tag ≠ .poison
        ∧ (x.tag = r.dfmt ∨ x.tag = .raw) ∧ reachRaw .write true (blockElems A r.esize s.me.vl) s3 = .ok got t)
    ∧ (∃ s : State, ∃ s1 s2 s3 s4 t pr idx r got, readP 0 s = .ok pr s1 ∧ readV 7 s1 = .ok idx s2 ∧ idx.tag = .int64 ∧ (s2.me.mreg 1).view.headed = false
        ∧ (s2.me.mreg 1).view.tag ≠ .mx4 ∧ (s2.me.mreg 1).view.tag ≠ .ds8 ∧ mapFormat (s2.me.mreg 1).view s2 = .ok r s3
        ∧ reachMap (s2.me.mreg 1).view r .read false (gatherLanes idx.val.toNat s.me.vl pr) s3 = .ok got s4
        ∧ finishLoad 5 32 got (gatherFill (gatherLanes idx.val.toNat s.me.vl pr) got ((s2.me.mreg 1).view.fillCode 32))
            (packAt 32 ((gatherLanes idx.val.toNat s.me.vl pr).map fun e => (e.1, 2 ^ 32 - 1))) (s2.me.mreg 1).view.tag s4 = .ok ⟨⟩ t)
    ∧ (∃ s : State, ∃ s1 s2 s3 s4 t pr idx x r got, readP 0 s = .ok pr s1 ∧ readV 7 s1 = .ok idx s2 ∧ readV 5 s2 = .ok x s3 ∧ idx.tag = .int64 ∧ x.tag ≠ .poison
        ∧ (s3.me.mreg 1).view.headed = false ∧ mapFormat (s3.me.mreg 1).view s3 = .ok r s4 ∧ x.tag = (s3.me.mreg 1).view.tag
        ∧ reachMap (s3.me.mreg 1).view r .write true (gatherLanes idx.val.toNat s.me.vl pr) s4 = .ok got t)
    ∧ (∃ s : State, ∃ s1 s2 pr idx, readP 0 s = .ok pr s1 ∧ readV 7 s1 = .ok idx s2 ∧ idx.tag ≠ .int64)
    ∧ (∃ s : State, ∃ w got, s.me.pendingTo (.vector 5) = none ∧ s.badElems w got = 0) :=
  ⟨⟨tree32, _, _, _, _, _, _, _, _, _, rfl, rfl, rfl, rfl, rfl, rfl⟩, ⟨tree32, _, _, _, _, _, _, _, rfl, rfl, rfl, rfl⟩,
    ⟨withVec tree32 [(5, { tag := .fp32 })], _, _, _, _, _, _, _, _, _, _, rfl, rfl, rfl, by decide, rfl, rfl, .inl rfl, rfl⟩,
    ⟨withVec tree32 [(5, { tag := .fp32 })], _, _, _, _, _, _, _, _, rfl, rfl, rfl, by decide, .inl (by decide), rfl⟩,
    ⟨withVec tree32 [(7, { tag := .int64 })], _, _, _, _, _, _, _, _, _, rfl, rfl, rfl, rfl, by decide, by decide, rfl, rfl, rfl⟩,
    ⟨withVec tree32 [(5, { tag := .fp32 }), (7, { tag := .int64 })], _, _, _, _, _, _, _, _, _, _, rfl, rfl, rfl, rfl, by decide, rfl, rfl, rfl, rfl⟩,
    ⟨at0, _, _, _, _, rfl, rfl, by decide⟩, ⟨at0, 8, [], rfl, rfl⟩⟩

set_option maxRecDepth 20000 in
theorem witness_HeadedMaps :
    (∃ s : State, ∃ s1 s2 s3 s4 i j r got, readS 3 s = .ok i s1 ∧ readS 4 s1 = .ok j s2 ∧ (s2.me.mreg 1).view.headed = true ∧ (s2.me.mreg 1).view.raw = false
        ∧ computeFormat (s2.me.mreg 1).view.tag = true ∧ mapFormat (s2.me.mreg 1).view s2 = .ok r s3
        ∧ reachMap (s2.me.mreg 1).view r .read false (stripFrom i.toNat j.toNat 0 (s3.me.vl * 8 / (s2.me.mreg 1).view.tag.width)) s3 = .ok got s4
        ∧ ∃ id t, deferV 5 { val := BitVec.ofNat 2048 (overlay (s4.me.vreg 5).val.toNat (lowMask 4 16) (packAt 16 (fillOut got ((s2.me.mreg 1).view.fillCode 16) 4))), tag := .fp16 }
            (byPage (got.map fun q => (q.2.headed.getD 0, elemNo q.2.ta, q.1))).length s4 = .ok id t)
    ∧ (∃ s : State, ∃ s1 s2 s3 s4 i j r, readS 3 s = .ok i s1 ∧ readS 4 s1 = .ok j s2 ∧ (s2.me.mreg 1).view.headed = true ∧ (s2.me.mreg 1).view.raw = true
        ∧ mapFormat (s2.me.mreg 1).view s2 = .ok r s3 ∧ reachMap (s2.me.mreg 1).view r .read false [(0, i.toNat, j.toNat)] s3 = .ok [] s4)
    ∧ (∃ s : State, ∃ s1 s2 s3 s4 i j r q rest, readS 3 s = .ok i s1 ∧ readS 4 s1 = .ok j s2 ∧ (s2.me.mreg 1).view.headed = true ∧ (s2.me.mreg 1).view.raw = true
        ∧ mapFormat (s2.me.mreg 1).view s2 = .ok r s3 ∧ reachMap (s2.me.mreg 1).view r .read false [(0, i.toNat, j.toNat)] s3 = .ok (q :: rest) s4
        ∧ ∃ s5 got, reachMap (s2.me.mreg 1).view r .read false (stripFrom i.toNat j.toNat 0
            (min (s3.me.vl * 8 / (if (s4.header (q.2.headed.getD 0)).mx4 then 4 else 8)) (64 - ((s2.me.mreg 1).view.col0 + j.toNat) % 64))) s4 = .ok got s5)
    ∧ (∃ s : State, ∃ s1 s2 s3 s4 t i j x r got, readS 3 s = .ok i s1 ∧ readS 4 s1 = .ok j s2 ∧ readV 5 s2 = .ok x s3 ∧ x.tag ≠ .poison
        ∧ (s3.me.mreg 1).view.headed = true ∧ (s3.me.mreg 1).view.raw = false ∧ x.tag = (s3.me.mreg 1).view.tag
        ∧ computeFormat (s3.me.mreg 1).view.tag = true ∧ mapFormat (s3.me.mreg 1).view s3 = .ok r s4
        ∧ reachMap (s3.me.mreg 1).view r .write true (stripFrom i.toNat j.toNat 0 (s4.me.vl * 8 / (s3.me.mreg 1).view.tag.width)) s4 = .ok got t)
    ∧ (∃ s : State, ∃ s1 s2 i j, readS 3 s = .ok i s1 ∧ readS 4 s1 = .ok j s2 ∧ (s2.me.mreg 1).view.headed = false)
    ∧ (∃ s : State, ∃ s1 s2 i j, readS 3 s = .ok i s1 ∧ readS 4 s1 = .ok j s2 ∧ (s2.me.mreg 1).view.headed = true
        ∧ 27 ≤ (27 : BitVec 5).toNat ∧ (s2.me.mreg 1).view.raw = true) :=
  ⟨⟨headed 0 [], _, _, _, _, _, _, _, _, rfl, rfl, rfl, rfl, rfl, rfl, rfl, _, _, rfl⟩,
    ⟨headed 1 [(4, 64)], _, _, _, _, _, _, _, rfl, rfl, rfl, rfl, rfl, rfl⟩,
    ⟨headed 1 [], _, _, _, _, _, _, _, _, _, rfl, rfl, rfl, rfl, rfl, rfl, _, _, rfl⟩,
    ⟨withVec (headed 0 []) [(5, { tag := .fp16 })], _, _, _, _, _, _, _, _, _, _, rfl, rfl, rfl, by decide, rfl, rfl, rfl, rfl, rfl, rfl⟩,
    ⟨at0, _, _, _, _, rfl, rfl, by decide⟩, ⟨headed 1 [], _, _, _, _, rfl, rfl, by decide, by decide, by decide⟩⟩

/-- Root 0 of INT32 elements and routine slot 5: a wrapping sum of 32 bits. -/
def shipping (ctl : Word) : State :=
  let s := treed (3 * 2 ^ 60 + 3 * 2 ^ 56) 3 .int32 [(6, 24 * 2 ^ 51), (7, ctl)]
  { s with vale := { s.vale with routines := [(5, 2 ^ 63 + 2 * 2 ^ 6 + 2)] } }

set_option maxRecDepth 20000 in
theorem witness_EngineAndShippedFunctions :
    (∃ s : State, ∃ src second w, readS 6 s = .ok src s ∧ readS 7 s = .ok second s ∧ readS 0 s = .ok w s ∧ w = 0 ∧ checkTA src = none ∧ checkTA second = none
        ∧ taDepth src = taDepth second ∧ (s.root 0 (taRoot src)).headed = false ∧ s.me.pendingTo (.scalar 5) = none
        ∧ s.home.ranges.length + 2 ≤ 64 ∧ s.performed s.cur.1 s.cur.2 = true)
    ∧ (∃ s : State, 64 < s.home.ranges.length + 2)
    ∧ (∃ s : State, ∃ s1 s2 s3 s4 s5 s6 A w q r n, readS 6 s = .ok A s1 ∧ readS 7 s1 = .ok w s2 ∧ s3 = s2 ∧ checkTA A = none ∧ taDepth A = 24
        ∧ r = s.root 0 (taRoot A) ∧ r.headed = false ∧ n = slotWidth (Map.getD s.vale.routines (w.toNat % 64) 0) ∧ taPath A * r.esize % n = 0
        ∧ locksRaw true (targetElems A n r.esize ++ (if (Map.getD s.vale.routines (w.toNat % 64) 0).toNat % 32 = 20
            then [(0, counterAt A (slotBin (Map.getD s.vale.routines (w.toNat % 64) 0) 0))] else [])) s3 = .ok ⟨⟩ s4 ∧ translateShip A .both s4 = .ok q s5 ∧ noteWalk q s5 = .ok ⟨⟩ s6
        ∧ slotFits (Map.getD s.vale.routines (w.toNat % 64) 0) r.esizeCode = true ∧ badShip w 5 = false ∧ w.getLsbD 6 = false
        ∧ ∃ id t, deferS 5 0 1 s6 = .ok id t)
    ∧ (∃ s w : _, s = shipping (5 + 64 + 2 ^ 16) ∧ w = (5 + 64 + 2 ^ 16 : Word) ∧ badShip w 0 = false ∧ w.getLsbD 6 = true
        ∧ ∃ g, s.gangOf s.cur.1 = some g ∧ (g.toPhys (w.toNat / 2 ^ 16 % 2 ^ 13)).isSome = true ∧ s.here.acks < 16) :=
  ⟨⟨treed (3 * 2 ^ 60) 3 .fp32 [], _, _, _, rfl, rfl, rfl, by decide, by decide, by decide, by decide, rfl, rfl, by decide, by decide⟩,
    ⟨home0 fun k => { k with ranges := List.replicate 63 { id := 1, dest := true, tree := true, core := 1, level := 0 } }, by decide⟩,
    ⟨shipping 5, _, _, _, _, _, _, _, _, _, _, _, rfl, rfl, rfl, by decide, by decide, rfl, rfl, rfl, by decide, rfl, rfl, rfl, by decide, by decide,
      by decide, _, _, rfl⟩, ⟨_, _, rfl, rfl, by decide, by decide, _, rfl, by decide, by decide⟩⟩

set_option maxRecDepth 20000 in
theorem witness_MessageSends :
    (∃ s : State, ∃ s1 s2 dw dst dg sg w, readS 3 s = .ok dw s1 ∧ (0xEF : BitVec 8).toNat < 0xF0 ∧ s1.receiver s1.cur.1 dw = some (dst, dg, sg) ∧ s1.here.acks < 16
        ∧ s1.here.mayInject (dw.toNat / 2 ^ 16 % 4) 1 = true ∧ s1.performed s1.cur.1 s1.cur.2 = true ∧ readPayload 4 7 2 s1 = .ok w s2)
    ∧ 0xF0 ≤ (0xF0 : BitVec 8).toNat ∧ (∃ s : State, ∃ t dw, readS 3 s = .ok dw t ∧ t.receiver t.cur.1 dw = none)
    ∧ (∃ s : State, ∃ t dw x, readS 3 s = .ok dw t ∧ t.receiver t.cur.1 dw = some x ∧ t.here.acks = 16 ∧ (t.me.rtc = false ∨ t.here.refusals = [])) :=
  ⟨⟨regs [(3, 1)], _, _, _, _, _, _, _, rfl, by decide, rfl, by decide, by decide, by decide, rfl⟩, by decide, ⟨regs [(3, 6143)], _, _, rfl, by decide⟩,
    ⟨core0 fun k => { k with acks := 16 }, _, _, _, rfl, rfl, by decide, .inl (by decide)⟩⟩

/-- A descriptor at 0x1000: class 1, one data flit from 0x2000 to 0x3000 of the receiver's cluster. -/
def depositing : State := (regs [(3, 1), (4, 0x1000)]).cwrite 0 0x1000 16 (2 ^ 46 + 2 ^ 38 + 0x3000 / 64 * 2 ^ 22 + 2 ^ 64 * 0x2000)

set_option maxRecDepth 20000 in
theorem witness_DepositInjection :
    (∃ s : State, ∃ s1 s2 s3 s4 s5 dw D head dst dg sg data, readS 3 s = .ok dw s1 ∧ readS 4 s1 = .ok D s2 ∧ D.toNat < 2 ^ 22 ∧ D.toNat % 64 = 0
        ∧ depositRead D.toNat 64 16 s2 = .ok head s3 ∧ cwClass (BitVec.ofNat 64 (head % 2 ^ 64)) < 0xF0
        ∧ s.badDescriptor (clusterOf s.cur.1) (BitVec.ofNat 64 (head % 2 ^ 64)) (BitVec.ofNat 64 (head / 2 ^ 64 % 2 ^ 64)) = false
        ∧ s3.receiver s3.cur.1 dw = some (dst, dg, sg) ∧ s3.here.acks < 16 ∧ s3.here.mayInject (dw.toNat / 2 ^ 16 % 4) 2 = true
        ∧ depositBad (D.toNat + 16) 48 s3 = .ok ⟨⟩ s4 ∧ depositRead 0x2000 64 64 s4 = .ok data s5 ∧ s5.performed s5.cur.1 s5.cur.2 = true)
    ∧ (∃ s : State, ∃ s1 s2 dw D, readS 3 s = .ok dw s1 ∧ readS 4 s1 = .ok D s2 ∧ 2 ^ 22 ≤ D.toNat)
    ∧ (∃ s : State, ∃ s1 s2 dw D, readS 3 s = .ok dw s1 ∧ readS 4 s1 = .ok D s2 ∧ D.toNat < 2 ^ 22 ∧ D.toNat % 64 ≠ 0)
    ∧ (∃ s : State, ∃ x, s.inMailbox (clusterOf s.cur.1) 0x1000 64 = false ∧ s.lockedLocal (clusterOf s.cur.1) 0x1000 64 false = false
        ∧ s.firstAbsent (clusterOf s.cur.1) 0x1000 64 = some x) :=
  ⟨⟨depositing, _, _, _, _, _, _, _, _, _, _, _, _, rfl, rfl, by decide, by decide, rfl, by decide, by decide, rfl, by decide, by decide, rfl, rfl, by decide⟩,
    ⟨regs [(4, 0x400000)], _, _, _, _, rfl, rfl, by decide⟩, ⟨regs [(4, 0x3FFFFF)], _, _, _, _, rfl, rfl, by decide, by decide⟩,
    ⟨home0 fun k => { k with segments := [{ addr := 0x1010, bytes := [1, 2] }] }, _, by decide, by decide, rfl⟩⟩

set_option maxRecDepth 20000 in
theorem witness_DispatchStoreBinding :
    (∃ s : State, ∃ s1 t x h, readS 3 s = .ok x s1 ∧ readS 4 s1 = .ok h t ∧ x.toNat % 256 = 0xEF ∧ (2 : BitVec 2) ≠ 0 ∧ h.toNat < 2 ^ 22 ∧ h.toNat % 2 = 0)
    ∧ (∃ s : State, ∃ s1 t x h, readS 3 s = .ok x s1 ∧ readS 4 s1 = .ok h t ∧ x.toNat % 256 = 0xFC ∧ 2 ^ 22 ≤ h.toNat)
    ∧ (∃ s : State, ∃ s1 t x h, readS 3 s = .ok x s1 ∧ readS 4 s1 = .ok h t ∧ x.toNat % 256 = 0xFE ∧ h.toNat < 2 ^ 22 ∧ h.toNat % 2 = 1)
    ∧ (∃ s : State, ∃ s1 t x h, readS 3 s = .ok x s1 ∧ readS 4 s1 = .ok h t ∧ 0xF0 ≤ x.toNat % 256 ∧ x.toNat % 256 ≠ 0xFC ∧ x.toNat % 256 ≠ 0xFD ∧ x.toNat % 256 ≠ 0xFE)
    ∧ (∃ s : State, ∃ s1 t x, readS 3 s = .ok x s1 ∧ writeSL 5 ((Map.getD s.here.dispatch (x.toNat % 256) 0).setWidth 64) 1 s1 = .ok ⟨⟩ t) :=
  ⟨⟨regs [(3, 0xEF), (4, 0x3FFFFE)], _, _, _, _, rfl, rfl, by decide, by decide, by decide, by decide⟩,
    ⟨regs [(3, 0xFC), (4, 0x400000)], _, _, _, _, rfl, rfl, by decide, by decide⟩,
    ⟨regs [(3, 0xFE), (4, 0x3FFFFF)], _, _, _, _, rfl, rfl, by decide, by decide, by decide⟩,
    ⟨regs [(3, 0xFB)], _, _, _, _, rfl, rfl, by decide, by decide, by decide, by decide⟩, ⟨at0, _, _, _, rfl, rfl⟩⟩

/-- A message from core 1 to core 0 at a router. -/
def msgAt (pos : Nat) : Msg := { hdr := 0, w := [7], src := 1, dst := 0, retire := { router := 1, phase := 0 }, pos := pos }
/-- With messages in flight. -/
def flying (l : List Msg) : State := { at0 with net := { at0.net with msgs := l } }
/-- A flit at core 0 that brings something else than a message. -/
def msgWith (l : Load) : Msg := { msgAt 0 with load := some l }
/-- Such a flit is under way. -/
def bringing (l : Load) : State := flying [msgWith l]
/-- An amo on a word of the home slice of core 0. -/
def amoAt (id : Option Nat) : AmoReq := { core := 0, level := 0, id := id, addr := 0x2000, size := 8, fn := 0, y := 1, c := 0, pc := 0 }

set_option maxRecDepth 20000 in
theorem witness_AtomicOperations :
    (∃ s : State, ∃ s1 s2 s3 s4 t A v c addr id, readS 3 s = .ok A s1 ∧ readS 4 s1 = .ok v s2 ∧ readS 5 s2 = .ok c s3 ∧ checkRange A 8 8 true s3 = .ok addr s4
        ∧ s4.amoCredits (ownerCore (clusterOf s4.cur.1) addr) < 16 ∧ deferS 5 0 1 s4 = .ok id t)
    ∧ (∃ s : State, ∃ s1 A addr s2, readS 3 s = .ok A s1 ∧ checkRange A 8 8 true s1 = .ok addr s2 ∧ 16 ≤ s2.amoCredits (ownerCore (clusterOf s2.cur.1) addr))
    ∧ (∃ s : State, (s.core 0).sysq = [amoAt none] ∧ s.guarded (clusterOf (amoAt none).core) (amoAt none).addr = false
        ∧ s.badLocal (clusterOf (amoAt none).core) (amoAt none).addr 8 = false)
    ∧ (∃ s : State, ∃ m, s.leaving 0 = some m ∧ m.load = some (.result 0 1 7))
    ∧ (∃ x : Ctx, ∃ q, x.pend.find? (fun q => decide (q.id = 1)) = some q ∧ q.dest = .scalar 5) ∧ 255 < 2 ^ (8 * 4) :=
  ⟨⟨regs [(3, 0x2000)], _, _, _, _, _, _, _, _, _, _, rfl, rfl, rfl, rfl, by decide, rfl⟩,
    ⟨(regs [(3, 0x2000)]).modCore 0 fun k => { k with sysq := List.replicate 16 (amoAt none) }, _, _, _, _, rfl, rfl, by decide⟩,
    ⟨core0 fun k => { k with sysq := [amoAt none] }, rfl, by decide, by decide⟩,
    ⟨bringing (.result 0 1 7), msgWith (.result 0 1 7), by decide +kernel, rfl⟩, ⟨{ pend := [pend5 none] }, pend5 none, rfl, rfl⟩, by decide⟩

/-- A live slot 3 with two words, and its handle in s3. -/
def slotted (w : Word × Word) (l : List (Nat × Word)) : State := (regs ((3, 3) :: l)).modCluster 0 fun k => { k with slots := [(3, w)] }
/-- A lock held by context 0 of core 0. -/
def heldLock : Word × Word := (objWord 2 0 0 0, lockWord 0 0)

/-- Core 0 with a valid record of a guarded access, in a trap handler or not. -/
def guardHit (td : Bool) : State := (core0 fun k => { k with guardrec := 2 ^ 63 }).modCtx 0 0 fun x => { x with td := td }

set_option maxRecDepth 20000 in
theorem witness_SlotsLocksBarriers :
    (∃ s : State, ∃ n t i, lowestFree s.home.slots 64 0 = some n
        ∧ deferS 5 (BitVec.ofNat 64 n) 0 (s.modCluster (clusterOf s.cur.1) fun k => { k with slots := Map.set k.slots n (0, 0) }) = .ok i t)
    ∧ (∃ s : State, ∃ t i, lowestFree s.home.slots 64 0 = none ∧ deferS 5 (BitVec.allOnes 64) 0 s = .ok i t)
    ∧ (∃ s : State, ∃ t h o, readS 3 s = .ok h t ∧ t.handleKey (clusterOf t.cur.1) h = some o ∧ s.objBusy (clusterOf s.cur.1) o = false ∧ o < 64)
    ∧ (∃ s : State, ∃ t h o, readS 3 s = .ok h t ∧ t.handleKey (clusterOf t.cur.1) h = some o ∧ s.objBusy (clusterOf s.cur.1) o = false ∧ 64 ≤ o)
    ∧ (∃ s : State, ∃ t h o, readS 3 s = .ok h t ∧ t.handleKey (clusterOf t.cur.1) h = some o ∧ s.objBusy (clusterOf s.cur.1) o = true)
    ∧ (∃ s : State, ∃ t h o, readS 3 s = .ok h t ∧ t.handleKey (clusterOf t.cur.1) h = some o ∧ objKind (s.obj (clusterOf s.cur.1) o) = 2
        ∧ objHeld (s.obj (clusterOf s.cur.1) o) = true ∧ s.holdsLock (clusterOf s.cur.1) o s.cur.1 s.cur.2 = false ∧ s.me.rtc = false)
    ∧ (∃ s : State, ∃ t h o, readS 3 s = .ok h t ∧ t.handleKey (clusterOf t.cur.1) h = some o ∧ objKind (s.obj (clusterOf s.cur.1) o) = 2
        ∧ s.holdsLock (clusterOf s.cur.1) o s.cur.1 s.cur.2 = true ∧ t.performed t.cur.1 t.cur.2 = true ∧ Map.getD s.home.lockQ o [] = [])
    ∧ (∃ s : State, ∃ t h, readS 3 s = .ok h t ∧ t.handleKey (clusterOf t.cur.1) h = none)
    ∧ (∃ s : State, ∃ s1 s3 s4 t h o n i, claimDest 5 s = .ok ⟨⟩ s ∧ readS 3 s = .ok h s1 ∧ s.me.rtc = false ∧ s1.here.guardrec.getLsbD 63 = false
        ∧ (s1.endMarks s1.cur.1 s1.cur.2).handleKey (clusterOf (s1.endMarks s1.cur.1 s1.cur.2).cur.1) h = some o
        ∧ expected 4 (s1.endMarks s1.cur.1 s1.cur.2) = .ok n s3 ∧ s3.performed s3.cur.1 s3.cur.2 = true
        ∧ s3.arrive (clusterOf s3.cur.1) o n = some (s4, true) ∧ deferS 5 0 0 s4 = .ok i t)
    ∧ (∃ s : State, ∃ s1 s3 s4 h o n, claimDest 5 s = .ok ⟨⟩ s ∧ readS 3 s = .ok h s1 ∧ s.me.rtc = false ∧ s1.here.guardrec.getLsbD 63 = false
        ∧ (s1.endMarks s1.cur.1 s1.cur.2).handleKey (clusterOf (s1.endMarks s1.cur.1 s1.cur.2).cur.1) h = some o
        ∧ expected 0 (s1.endMarks s1.cur.1 s1.cur.2) = .ok n s3 ∧ s3.performed s3.cur.1 s3.cur.2 = true
        ∧ s3.arrive (clusterOf s3.cur.1) o n = some (s4, false))
    ∧ (∃ s : State, ∃ s1 h, claimDest 5 s = .ok ⟨⟩ s ∧ readS 3 s = .ok h s1 ∧ s.me.rtc = true)
    ∧ (∃ s : State, ∃ s1 h, claimDest 5 s = .ok ⟨⟩ s ∧ readS 3 s = .ok h s1 ∧ s.me.rtc = false ∧ s1.here.guardrec.getLsbD 63 = true ∧ s1.me.td = false)
    ∧ (∃ s : State, ∃ s1 h, claimDest 5 s = .ok ⟨⟩ s ∧ readS 3 s = .ok h s1 ∧ s.me.rtc = false ∧ s1.here.guardrec.getLsbD 63 = true ∧ s1.me.td = true)
    ∧ (∃ s : State, ∃ gi g, claimDest 5 s = .ok ⟨⟩ s ∧ s.me.rtc = false ∧ s.cur.2 = 0 ∧ (s.endMarks s.cur.1 s.cur.2).here.guardrec.getLsbD 63 = false
        ∧ (s.endMarks s.cur.1 s.cur.2).performed 0 0 = true ∧ (s.endMarks s.cur.1 s.cur.2).here.gang = some gi
        ∧ (s.endMarks s.cur.1 s.cur.2).gangOf 0 = some g ∧ s.cur.1 = 0) :=
  ⟨⟨at0, _, _, _, rfl, rfl⟩,
    ⟨home0 fun k => { k with slots := (List.range 64).map fun i => (i, ((0, 0) : Word × Word)) }, _, _, by decide, rfl⟩,
    ⟨slotted (0, 0) [], _, _, _, rfl, rfl, rfl, by decide⟩, ⟨regs [(3, 0x80002000)], _, _, _, rfl, rfl, rfl, by decide⟩,
    ⟨slotted (objWord 1 0 2 1, 0) [], _, _, _, rfl, rfl, rfl⟩, ⟨slotted (objWord 2 0 0 0, lockWord 1 0) [], _, _, _, rfl, rfl, by decide, by decide, by decide, by decide⟩,
    ⟨slotted heldLock [], _, _, _, rfl, rfl, by decide, by decide, by decide, by decide⟩, ⟨regs [(3, 63)], _, _, rfl, by decide⟩,
    ⟨slotted (0, 0) [(4, 1)], _, _, _, _, _, _, _, _, rfl, rfl, by decide, by decide, rfl, rfl, by decide, rfl, rfl⟩,
    ⟨slotted (0, 0) [], _, _, _, _, _, _, rfl, rfl, by decide, by decide, rfl, rfl, by decide, rfl⟩,
    ⟨ctx0 fun x => { x with rtc := true }, _, _, rfl, rfl, rfl⟩, ⟨guardHit false, _, _, rfl, rfl, by decide, by decide, by decide⟩,
    ⟨guardHit true, _, _, rfl, rfl, by decide, by decide, by decide⟩,
    ⟨at0, _, _, rfl, by decide, by decide, by decide, by decide, rfl, rfl, by decide⟩⟩

/-- Context 0 of core 0 waits while the word at 0x2000 reads v, and a write has reached that word since. -/
def Wakes (s : State) (v : Word) : Prop :=
  (s.ctx 0 0).st = .waiting ∧ (s.ctx 0 0).wait = .waitv 0x2000 v ∧ Map.get? s.watch (4 * 0 + 0) = some (0x2000, true)
    ∧ (s.ctx 0 0).takeable = none ∧ (s.core 0).halting = none
/-- Such a state: the word is 0. -/
def waking (v : Word) : State := { ctx0 fun x => { x with st := .waiting, wait := .waitv 0x2000 v } with watch := [(0, (0x2000, true))] }

set_option maxRecDepth 20000 in
theorem witness_WaitsAndPhaseInstructions :
    (∃ s : State, ∃ s1 s2 t A v x, readS 3 s = .ok A s1 ∧ readS 4 s1 = .ok v s2 ∧ A.toNat < 2 ^ 22 ∧ A.toNat % 8 = 0 ∧ s.me.rtc = false
        ∧ s2.firstAbsent (clusterOf s2.cur.1) A.toNat 8 = none∧ s2.ownAmo A.toNat 8 = false ∧ scalarLoad A.toNat 8 s2 = .ok x t ∧ BitVec.ofNat 64 x = v)
    ∧ (∃ s : State, ∃ s1 s2 t A v x, readS 3 s = .ok A s1 ∧ readS 4 s1 = .ok v s2 ∧ A.toNat < 2 ^ 22 ∧ A.toNat % 8 = 0 ∧ s.me.rtc = false
        ∧ s2.firstAbsent (clusterOf s2.cur.1) A.toNat 8 = none∧ s2.ownAmo A.toNat 8 = false ∧ scalarLoad A.toNat 8 s2 = .ok x t ∧ BitVec.ofNat 64 x ≠ v)
    ∧ (∃ s : State, Wakes s 5 ∧ s.guarded (clusterOf 0) 0x2000 = false ∧ s.badLocal (clusterOf 0) 0x2000 8 = false
        ∧ BitVec.ofNat 64 (s.cread (clusterOf 0) 0x2000 8) ≠ 5)
    ∧ (∃ s : State, Wakes s 0 ∧ s.guarded (clusterOf 0) 0x2000 = false ∧ s.badLocal (clusterOf 0) 0x2000 8 = false
        ∧ BitVec.ofNat 64 (s.cread (clusterOf 0) 0x2000 8) = 0)
    ∧ (∃ s : State, Wakes s 5 ∧ s.guarded (clusterOf 0) 0x2000 = true) ∧ (∃ s : State, Wakes s 0 ∧ s.guarded (clusterOf 0) 0x2000 = true)
    ∧ (∃ s : State, Wakes s 5 ∧ s.guarded (clusterOf 0) 0x2000 = false ∧ s.badLocal (clusterOf 0) 0x2000 8 = true)
    ∧ (∃ s : State, ∃ t x, readS 3 s = .ok x t ∧ s.me.rtc = false ∧ t.here.guardrec.getLsbD 63 = true ∧ t.me.td = false)
    ∧ (∃ s : State, ∃ t x g, readS 3 s = .ok x t ∧ s.net.closes.contains (s.cur.1, x.toNat % 16) = false ∧ s.here.gang = some g)
    ∧ (∃ s : State, ∃ t x, readS 3 s = .ok x t ∧ s.net.closes.contains (s.cur.1, x.toNat % 16) = false ∧ s.here.gang = none)
    ∧ (∃ s : State, ∃ t x, readS 3 s = .ok x t ∧ t.performed t.cur.1 t.cur.2 = true ∧ s.here.ended.getLsbD (x.toNat % 16) = false)
    ∧ (∃ s : State, ∃ t x, readS 3 s = .ok x t ∧ t.performed t.cur.1 t.cur.2 = true ∧ s.here.ended.getLsbD (x.toNat % 16) = true)
    ∧ (∃ s : State, ∃ t x, readS 3 s = .ok x t ∧ s.me.rtc = false ∧ t.here.guardrec.getLsbD 63 = false ∧ s.here.closed.getLsbD (x.toNat % 16) = false) :=
  ⟨⟨regs [(3, 0x3FFFF8)], _, _, _, _, _, _, rfl, rfl, by decide, by decide, by decide, rfl, by decide, rfl, by decide⟩,
    ⟨regs [(3, 0x2000), (4, 1)], _, _, _, _, _, _, rfl, rfl, by decide, by decide, by decide, rfl, by decide, rfl, by decide⟩,
    ⟨waking 5, by unfold Wakes; decide, by decide, by decide, by decide⟩, ⟨waking 0, by unfold Wakes; decide, by decide, by decide, by decide⟩,
    ⟨{ waking 5 with guards := [0x2000 / 64] }, by unfold Wakes; decide, by decide⟩, ⟨{ waking 0 with guards := [0x2000 / 64] }, by unfold Wakes; decide, by decide⟩,
    ⟨{ waking 5 with wrong := [flaw 64 0, flaw 64 1] }, by unfold Wakes; decide, by decide, by decide⟩, ⟨guardHit false, _, _, rfl, by decide, by decide, by decide⟩, ⟨regs [(3, 15)], _, _, _, rfl, by decide, rfl⟩,
    ⟨core0 fun k => { k with gang := none }, _, _, rfl, by decide, rfl⟩, ⟨core0 fun k => { k with ended := 0 }, _, _, rfl, by decide, by decide⟩,
    ⟨core0 fun k => { k with ended := 1 }, _, _, rfl, by decide, by decide⟩, ⟨at0, _, _, rfl, by decide, by decide, by decide⟩⟩

/-- A versioned word at 0x70000 of cluster 0 with HEAD h, in its owner's table. -/
def versioned (h : Nat) (l : List (Nat × Word)) : State :=
  (regs ((3, 0x70000) :: l)).modCore (ownerCore 0 0x70000) fun k => { k with versions := [(0x70000, { h := h, f := 0, live := [(h, 9)] })] }

set_option maxRecDepth 20000 in
theorem witness_VersionedWords :
    (∃ s : State, ∃ s1 s2 s3 t A v n, readS 3 s = .ok A s1 ∧ readS 4 s1 = .ok v s2 ∧ readS 5 s2 = .ok n s3 ∧ A.toNat < 2 ^ 22 ∧ A.toNat / 2 ^ 16 % 8 = 7
        ∧ A.toNat % 8 = 0 ∧ 0 < n.toNat % 2 ^ 32
        ∧ (∀ r, (s.core (ownerCore (clusterOf s.cur.1) A.toNat)).version A.toNat = some r → r.h < n.toNat % 2 ^ 32)
        ∧ (s.core (ownerCore (clusterOf s.cur.1) A.toNat)).versionRoom A.toNat = true ∧ s3.performed s3.cur.1 s3.cur.2 = true
        ∧ scalarStore A.toNat 8 v.toNat (s3.makeVersion (clusterOf s.cur.1) A.toNat (n.toNat % 2 ^ 32) v) = .ok ⟨⟩ t)
    ∧ (∃ s : State, ∃ s1 s2 s3 A v n r, readS 3 s = .ok A s1 ∧ readS 4 s1 = .ok v s2 ∧ readS 5 s2 = .ok n s3 ∧ A.toNat < 2 ^ 22 ∧ A.toNat / 2 ^ 16 % 8 = 7
        ∧ A.toNat % 8 = 0 ∧ 0 < n.toNat % 2 ^ 32 ∧ (s.core (ownerCore (clusterOf s.cur.1) A.toNat)).version A.toNat = some r ∧ n.toNat % 2 ^ 32 ≤ r.h)
    ∧ (∃ s : State, ∃ s1 s2 t A n r e i, claimDest 5 s = .ok ⟨⟩ s ∧ readS 3 s = .ok A s1 ∧ readS 4 s1 = .ok n s2 ∧ A.toNat < 2 ^ 22
        ∧ A.toNat / 2 ^ 16 % 8 = 7 ∧ A.toNat % 8 = 0 ∧ 0 < n.toNat % 2 ^ 32
        ∧ (s.core (ownerCore (clusterOf s.cur.1) A.toNat)).version A.toNat = some r
        ∧ r.live.find? (fun e => decide (e.1 = n.toNat % 2 ^ 32)) = some e ∧ deferS 5 e.2 0 s2 = .ok i t)
    ∧ (∃ s : State, ∃ s1 s2 A n, claimDest 5 s = .ok ⟨⟩ s ∧ readS 3 s = .ok A s1 ∧ readS 4 s1 = .ok n s2 ∧ A.toNat < 2 ^ 22 ∧ A.toNat / 2 ^ 16 % 8 = 7
        ∧ A.toNat % 8 = 0 ∧ 0 < n.toNat % 2 ^ 32 ∧ s.me.rtc = false ∧ (s.core (ownerCore (clusterOf s.cur.1) A.toNat)).version A.toNat = none)
    ∧ (∃ s : State, ∃ s1 t A n r, readS 3 s = .ok A s1 ∧ readS 4 s1 = .ok n t ∧ A.toNat < 2 ^ 22 ∧ A.toNat / 2 ^ 16 % 8 = 7 ∧ A.toNat % 8 = 0
        ∧ 0 < n.toNat % 2 ^ 32 ∧ (t.core (ownerCore (clusterOf s.cur.1) A.toNat)).version A.toNat = some r ∧ ∃ e ∈ r.live, n.toNat % 2 ^ 32 < e.1)
    ∧ (∃ s : State, ∃ s1 s2 A n r, claimDest 5 s = .ok ⟨⟩ s ∧ readS 3 s = .ok A s1 ∧ readS 4 s1 = .ok n s2 ∧ A.toNat < 2 ^ 22 ∧ A.toNat / 2 ^ 16 % 8 = 7
        ∧ A.toNat % 8 = 0 ∧ 0 < n.toNat % 2 ^ 32 ∧ (s.core (ownerCore (clusterOf s.cur.1) A.toNat)).version A.toNat = some r
        ∧ r.live.find? (fun e => decide (e.1 = n.toNat % 2 ^ 32)) = none ∧ (n.toNat % 2 ^ 32 ≤ r.f ∨ n.toNat % 2 ^ 32 ≤ r.h))
    ∧ (∃ s : State, ∃ s1 t A n r, readS 3 s = .ok A s1 ∧ readS 4 s1 = .ok n t ∧ A.toNat < 2 ^ 22 ∧ A.toNat / 2 ^ 16 % 8 = 7 ∧ A.toNat % 8 = 0
        ∧ 0 < n.toNat % 2 ^ 32 ∧ (t.core (ownerCore (clusterOf s.cur.1) A.toNat)).version A.toNat = some r ∧ ∀ e ∈ r.live, e.1 ≤ n.toNat % 2 ^ 32)
    ∧ (∃ s : State, ∃ s1 s2 s3 A v n, readS 3 s = .ok A s1 ∧ readS 4 s1 = .ok v s2 ∧ readS 5 s2 = .ok n s3 ∧ A.toNat / 2 ^ 16 % 8 ≠ 7)
    ∧ (∃ s : State, ∃ s1 s2 s3 A v n, readS 3 s = .ok A s1 ∧ readS 4 s1 = .ok v s2 ∧ readS 5 s2 = .ok n s3 ∧ A.toNat < 2 ^ 22 ∧ A.toNat / 2 ^ 16 % 8 = 7
        ∧ A.toNat % 8 ≠ 0)
    ∧ (∃ s : State, ∃ s1 s2 s3 A v n, readS 3 s = .ok A s1 ∧ readS 4 s1 = .ok v s2 ∧ readS 5 s2 = .ok n s3 ∧ A.toNat < 2 ^ 22 ∧ A.toNat / 2 ^ 16 % 8 = 7
        ∧ A.toNat % 8 = 0 ∧ v.toNat % 2 ^ 32 = 0 ∧ n.toNat % 2 ^ 32 = 0) :=
  ⟨⟨versioned 4 [(5, 5)], _, _, _, _, _, _, _, rfl, rfl, rfl, by decide, by decide, by decide, by decide,
      fun r h => by cases h; decide, by decide, by decide, rfl⟩,
    ⟨versioned 4 [(5, 4)], _, _, _, _, _, _, _, rfl, rfl, rfl, by decide, by decide, by decide, by decide, rfl, by decide⟩,
    ⟨versioned 4 [(4, 4)], _, _, _, _, _, _, _, _, rfl, rfl, rfl, by decide, by decide, by decide, by decide, rfl, rfl, rfl⟩,
    ⟨regs [(3, 0x7FFF8), (4, 1)], _, _, _, _, rfl, rfl, rfl, by decide, by decide, by decide, by decide, by decide, rfl⟩,
    ⟨versioned 4 [(4, 3)], _, _, _, _, _, rfl, rfl, by decide, by decide, by decide, by decide, rfl, (4, 9), by decide, by decide⟩,
    ⟨versioned 4 [(4, 3)], _, _, _, _, _, rfl, rfl, rfl, by decide, by decide, by decide, by decide, rfl, rfl, .inr (by decide)⟩,
    ⟨versioned 4 [(4, 4)], _, _, _, _, _, rfl, rfl, by decide, by decide, by decide, by decide, rfl, by decide⟩,
    ⟨regs [(3, 0x6FFF8)], _, _, _, _, _, _, rfl, rfl, rfl, by decide⟩, ⟨regs [(3, 0x7FFFC)], _, _, _, _, _, _, rfl, rfl, rfl, by decide, by decide, by decide⟩,
    ⟨regs [(3, 0x7FFF8)], _, _, _, _, _, _, rfl, rfl, rfl, by decide, by decide, by decide, by decide, by decide⟩⟩

set_option maxRecDepth 20000 in
theorem witness_FencesComplete :
    ((∀ q ∈ at0.me.pend, q.open_ = 0) ∧ at0.storesDone at0.cur.1 at0.cur.2 = true ∧ at0.messagesDone at0.cur.1 at0.cur.2 = true)
    ∧ (∃ s : State, ∃ q, q ∈ s.me.pend ∧ q.open_ ≠ 0)
    ∧ (∃ s : State, s.storesDone s.cur.1 s.cur.2 = false) ∧ (∃ s : State, ∃ m, m ∈ s.net.msgs ∧ m.load = none ∧ m.src = s.cur.1 ∧ m.level = s.cur.2) :=
  ⟨⟨by decide, by decide, by decide⟩, ⟨ctx0 fun x => { x with pend := [{ pend5 none with open_ := 1 }] }, { pend5 none with open_ := 1 }, by decide, by decide⟩,
    ⟨core0 fun k => { k with sysq := [amoAt none] }, by decide⟩,
    ⟨{ at0 with net := { at0.net with msgs := [{ hdr := 0, w := [], src := 0, level := 0, dst := 1, pos := 0, retire := { router := 0, phase := 0 } }] } }, _, .head _, rfl, rfl, rfl⟩⟩

/-- v3 = 5, v4 = 7, v5 and v6 zero, of a tag. -/
def pair (t u : Tag) : State := vecs [(3, { val := 5, tag := t }), (4, { val := 7, tag := u }), (5, { val := 0, tag := t }), (6, { val := 0, tag := u })]

/-- The zeros of a register under a function that keeps zero. -/
theorem holds_zero (w : Nat) (keep : Nat → Prop) : HoldsElems w 0 0 keep (fun _ => 0) := by
  intro e _; simp [lane]

set_option maxRecDepth 20000 in
theorem witness_VectorElementArithmetic :
    (∃ s : State, ∃ s1 s2 s3 s4 t pr x y old r, readP 0 s = .ok pr s1 ∧ readV 3 s1 = .ok x s2 ∧ readV 4 s2 = .ok y s3 ∧ x.tag ≠ .poison ∧ y.tag = x.tag
        ∧ x.tag.inFI = true ∧ oldV 5 s3 = .ok old s4
        ∧ HoldsElems x.tag.width old r (Active s4.me.vl pr x.tag.width)
          (fun e => byClass 0 false (fun r x y => fpAdd x y r) (fun x y => x + y) x.tag (lane x.val.toNat x.tag.width e) (lane y.val.toNat x.tag.width e))
        ∧ writeVL 5 { val := r, tag := x.tag } (latencyOf x.tag) s4 = .ok ⟨⟩ t)
    ∧ (∃ s : State, ∃ s1 s2 s3 pr x y, readP 0 s = .ok pr s1 ∧ readV 3 s1 = .ok x s2 ∧ readV 4 s2 = .ok y s3 ∧ x.tag ≠ .poison ∧ y.tag = .poison)
    ∧ (∃ s : State, ∃ s1 s2 s3 pr x y, readP 0 s = .ok pr s1 ∧ readV 3 s1 = .ok x s2 ∧ readV 4 s2 = .ok y s3 ∧ x.tag ≠ .poison ∧ y.tag ≠ .poison
        ∧ (x.tag ≠ y.tag ∨ x.tag.inFI = false))
    ∧ (∃ s : State, ∃ s1 s2 s3 s4 t pr x y c r, readP 0 s = .ok pr s1 ∧ readV 3 s1 = .ok x s2 ∧ readV 4 s2 = .ok y s3 ∧ readV 5 s3 = .ok c s4
        ∧ y.tag = x.tag ∧ c.tag = x.tag ∧ x.tag.inFI = true
        ∧ HoldsElems x.tag.width c.val r (Active s4.me.vl pr x.tag.width)
          (fun e => byClass3 0 true (fun r x y c => fpAdd (fpMul x y) c r) (fun x y c => x * y + c) x.tag (lane x.val.toNat x.tag.width e)
            (lane y.val.toNat x.tag.width e) (lane c.val.toNat x.tag.width e))
        ∧ writeVL 5 { val := r, tag := x.tag } (if x.tag.isFloat then 4 else 2) s4 = .ok ⟨⟩ t) :=
  ⟨⟨pair .int32 .int32, _, _, _, _, _, _, _, _, _, 12, rfl, rfl, rfl, by decide, rfl, rfl, rfl, by unfold HoldsElems Active; decide, rfl⟩,
    ⟨pair .int8 .poison, _, _, _, _, _, _, rfl, rfl, rfl, by decide, rfl⟩, ⟨pair .raw .raw, _, _, _, _, _, _, rfl, rfl, rfl, by decide, by decide, .inr rfl⟩,
    ⟨pair .int32 .int32, _, _, _, _, _, _, _, _, _, 35, rfl, rfl, rfl, rfl, rfl, rfl, rfl, by unfold HoldsElems Active; decide, rfl⟩⟩

set_option maxRecDepth 20000 in
theorem witness_VectorLogicMovesTags :
    (∃ s : State, ∃ s1 s2 s3 t pr x old r, readP 0 s = .ok pr s1 ∧ readV 3 s1 = .ok x s2 ∧ oldV 5 s2 = .ok old s3
        ∧ HoldsElems x.tag.width old r (Active s3.me.vl pr x.tag.width) (lane x.val.toNat x.tag.width)
        ∧ writeVL 5 { val := r, tag := x.tag } (latencyOf x.tag) s3 = .ok ⟨⟩ t)
    ∧ (∃ s : State, ∃ s1 t x, readV 3 s = .ok x s1 ∧ x.tag = .raw ∧ writeVL 5 { val := x.val, tag := Tag.ofCode (13 : BitVec 5).toNat } 2 s1 = .ok ⟨⟩ t)
    ∧ (∃ s : State, ∃ s1 x, readV 3 s = .ok x s1 ∧ x.tag ≠ .raw ∧ x.tag ≠ .poison) ∧ (∃ s : State, ∃ s1 x, readV 3 s = .ok x s1 ∧ x.tag = .poison)
    ∧ (∃ s : State, ∃ s1 s2 s3 t pr x old r, readP 0 s = .ok pr s1 ∧ readS 3 s1 = .ok x s2 ∧ oldV 5 s2 = .ok old s3
        ∧ HoldsElems (Tag.ofCode 9).width old r (Active s3.me.vl pr (Tag.ofCode 9).width) (fun _ => x.toNat)
        ∧ writeVL 5 { val := r, tag := Tag.ofCode 9 } 3 s3 = .ok ⟨⟩ t)
    ∧ (∃ w : Nat, w < 2 ^ 32 ∧ w % 2 = 1 ∧ w / 16 % 64 = 0x24 ∧ 15 ≤ w / 2 ^ 28) :=
  ⟨⟨pair .int32 .raw, _, _, _, _, _, _, _, 5, rfl, rfl, rfl, by unfold HoldsElems Active; decide, rfl⟩, ⟨pair .raw .raw, _, _, _, rfl, rfl, rfl⟩,
    ⟨pair .fp16 .raw, _, _, rfl, by decide, by decide⟩, ⟨pair .poison .raw, _, _, rfl, rfl⟩,
    ⟨pair .raw .raw, _, _, _, _, _, _, _, 0, rfl, rfl, rfl, by unfold HoldsElems Active; decide, rfl⟩, 0xF0000241, by decide⟩

set_option maxRecDepth 20000 in
theorem witness_VectorComparisons :
    (∃ s : State, ∃ s1 s2 s3 t pr x y, ∃ r : BitVec 256, readP 0 s = .ok pr s1 ∧ readV 3 s1 = .ok x s2 ∧ readV 4 s2 = .ok y s3 ∧ y.tag = x.tag ∧ x.tag.inI = true
        ∧ (∀ j, r.getLsbD j = true ↔ ∃ e, e < 2048 / x.tag.width ∧ j = e * x.tag.width / 8 ∧ Active s3.me.vl pr x.tag.width e
          ∧ (if x.tag.inF then False else lane x.val.toNat x.tag.width e < lane y.val.toNat x.tag.width e))
        ∧ writeP 2 r s3 = .ok ⟨⟩ t)
    ∧ (∃ s : State, ∃ s1 s2 s3 pr x y, readP 0 s = .ok pr s1 ∧ readV 3 s1 = .ok x s2 ∧ readV 4 s2 = .ok y s3 ∧ y.tag ≠ x.tag)
    ∧ (∃ w : Nat, w < 2 ^ 32 ∧ w % 2 = 1 ∧ w / 16 % 64 = 0x25 ∧ 12 ≤ w / 2 ^ 28) := by
  refine ⟨⟨pair .int32 .int32, _, _, _, _, _, _, _, 1, rfl, rfl, rfl, rfl, rfl, fun j => ?_, rfl⟩, ⟨pair .int32 .int8, _, _, _, _, _, _, rfl, rfl, rfl, by decide⟩,
    0xC0000251, by decide⟩
  by_cases h : j < 256
  · exact (show ∀ j < 256, (1 : BitVec 256).getLsbD j = true ↔ ∃ e < 64, j = e * 32 / 8 ∧ (e * 32 / 8 < 256 ∧ (BitVec.allOnes 256).getLsbD (e * 32 / 8) = true)
      ∧ lane 5 32 e < lane 7 32 e by decide) j h
  · constructor
    · intro g
      have := BitVec.lt_of_getLsbD g
      omega
    · rintro ⟨e, he, rfl, -⟩
      have : e < 64 := he
      have : e * 32 / 8 < 256 := by omega
      exact absurd this h

/-- The same with another VL. -/
def withVl (s : State) (n : Nat) : State := s.modCtx 0 0 fun x => { x with vl := n }
/-- What a conversion under a predicate reads from v a and the register of its scales. -/
def Converts (s : State) (p : Nat) (a : BitVec 5) (P : VReg → VReg → Prop) : Prop :=
  ∃ s1 s2 s3 pr x q, readP p s = .ok pr s1 ∧ readV a s1 = .ok x s2 ∧ scaleSource x.tag a s2 = .ok q s3 ∧ P x q
/-- v3 of MX4 or FP32 codes, v4 of scales, VL a number of bytes. -/
def scaledPair (n : Nat) : State := (vecs [(3, { tag := .mx4 }), (4, { tag := .e8m0 })]).modCtx 0 0 fun x => { x with vl := n }

set_option maxRecDepth 20000 in
theorem witness_VectorConversion :
    (∃ s : State, ∃ s1 s2 s3 t pr x old r, readP 0 s = .ok pr s1 ∧ readV 3 s1 = .ok x s2 ∧ oldV 5 s2 = .ok old s3 ∧ (Tag.ofCode 4).scaled = false
        ∧ x.tag ≠ .raw ∧ x.tag ≠ .poison ∧ x.tag.scaled = false
        ∧ HoldsElems (Tag.ofCode 4).width old r (fun e => e < s3.me.vl * 8 / max x.tag.width (Tag.ofCode 4).width
            ∧ pr.getLsbD (e * max x.tag.width (Tag.ofCode 4).width / 8) = true)
          (fun e => let c := lane x.val.toNat x.tag.width e
            if x.tag = Tag.ofCode 4 ∧ x.tag.isFloat = true then if tagValue x.tag c = .nan then toFloatTag .nan (Tag.ofCode 4) .rne false else c
            else convert x.tag (Tag.ofCode 4) c (.ofCode 0) false)
        ∧ writeVL 5 { val := r, tag := Tag.ofCode 4 } 3 s3 = .ok ⟨⟩ t)
    ∧ (∃ s : State, ∃ s1 s2 s3 s4 t pr x q old r, readP 0 s = .ok pr s1 ∧ readV 3 s1 = .ok x s2 ∧ x.tag.scaled = true ∧ (3 : BitVec 5).toNat < 27
        ∧ readV (3 + 1) s2 = .ok q s3 ∧ q.tag = .e8m0 ∧ oldV 5 s3 = .ok old s4 ∧ (Tag.ofCode 7).scaled = false
        ∧ HoldsElems (Tag.ofCode 7).width old r (fun e => e < s4.me.vl * 8 / max x.tag.width (Tag.ofCode 7).width
            ∧ pr.getLsbD (e * max x.tag.width (Tag.ofCode 7).width / 8) = true)
          (fun e => toFloatTag (fpMul (tagValue x.tag (lane x.val.toNat x.tag.width e)) (scaleValue (lane q.val.toNat 8 (e / 16)))) (Tag.ofCode 7) .rne false)
        ∧ writeVL 5 { val := r, tag := Tag.ofCode 7 } 3 s4 = .ok ⟨⟩ t)
    ∧ (∃ s : State, ∃ s1 s2 s3 s4 s5 t x q old oldq codes scales, readV 3 s = .ok x s1 ∧ x.tag ≠ .raw ∧ x.tag ≠ .poison
        ∧ scaleSource x.tag 3 s1 = .ok q s2 ∧ q.tag = .e8m0 ∧ x.tag.scaled = false ∧ oldV 5 s2 = .ok old s3 ∧ oldV (5 + 1) s3 = .ok oldq s4
        ∧ HoldsElems (Tag.ofCode 11).width old codes (fun e => e < s4.me.vl * 8 / max x.tag.width (Tag.ofCode 11).width)
            (fun e => (quantDs8 ((List.range (min 16 (s4.me.vl * 8 / max x.tag.width (Tag.ofCode 11).width - 16 * (e / 16)))).map fun j =>
              scaledValue x.tag x.val.toNat q.val.toNat (16 * (e / 16) + j))).2.getD (e % 16) 0)
        ∧ HoldsElems 8 oldq scales (fun i => 16 * i < s4.me.vl * 8 / max x.tag.width (Tag.ofCode 11).width)
            (fun i => (quantDs8 ((List.range (min 16 (s4.me.vl * 8 / max x.tag.width (Tag.ofCode 11).width - 16 * i))).map fun j =>
              scaledValue x.tag x.val.toNat q.val.toNat (16 * i + j))).1)
        ∧ s4.me.vl ≤ 256 ∧ writeVL 5 { val := codes, tag := Tag.ofCode 11 } 3 s4 = .ok ⟨⟩ s5 ∧ writeVL (5 + 1) { val := scales, tag := .e8m0 } 3 s5 = .ok ⟨⟩ t)
    ∧ (Tag.scaled .ds8 = true ∧ 27 ≤ (27 : BitVec 5).toNat ∧ Tag.scaled .fp16 = false)
    ∧ (∃ s : State, Converts s 0 3 fun x q => x.tag = .poison ∨ q.tag = .poison)
    ∧ (∃ s : State, Converts s 0 3 fun x q => x.tag ≠ .poison ∧ q.tag ≠ .poison ∧ x.tag = .raw)
    ∧ (∃ s : State, Converts s 0 27 fun x q => x.tag ≠ .poison ∧ q.tag ≠ .poison ∧ x.tag.scaled = true)
    ∧ (∃ s : State, Converts s 0 3 fun x q => x.tag ≠ .poison ∧ q.tag ≠ .poison ∧ x.tag.scaled = true ∧ q.tag ≠ .e8m0)
    ∧ (∃ s : State, Converts s 3 3 fun x q => x.tag ≠ .poison ∧ q.tag ≠ .poison ∧ x.tag ≠ .raw ∧ x.tag.scaled = false) :=
  ⟨⟨pair .int32 .raw, _, _, _, _, _, _, _, 5, rfl, rfl, rfl, by decide, by decide, by decide, by decide, by unfold HoldsElems; decide, rfl⟩,
    ⟨scaledPair 0, _, _, _, _, _, _, _, _, _, 0, rfl, rfl, by decide, by decide, rfl, by decide, rfl, by decide, by unfold HoldsElems; decide, rfl⟩,
    ⟨withVl (pair .fp32 .raw) 0, _, _, _, _, _, _, _, _, _, _, 0, 0, rfl, by decide, by decide, rfl, by decide, by decide, rfl, rfl, by unfold HoldsElems; decide,
      by unfold HoldsElems; decide, by decide, rfl, rfl⟩, by decide,
    ⟨pair .poison .raw, _, _, _, _, _, _, rfl, rfl, rfl, .inl (by decide)⟩, ⟨pair .raw .raw, _, _, _, _, _, _, rfl, rfl, rfl, by decide⟩,
    ⟨vecs [(27, { tag := .ds8 })], _, _, _, _, _, _, rfl, rfl, rfl, by decide⟩, ⟨pair .mx4 .fp16, _, _, _, _, _, _, rfl, rfl, rfl, by decide⟩,
    ⟨pair .fp16 .raw, _, _, _, _, _, _, rfl, rfl, rfl, by decide⟩⟩

theorem witness_VectorReductions :
    (∃ s : State, ∃ s1 s2 t pr x, readP 0 s = .ok pr s1 ∧ readV 3 s1 = .ok x s2 ∧ x.tag.inI = true ∧ writeSL 5 5 8 s2 = .ok ⟨⟩ t)
    ∧ (∃ s : State, ∃ s1 s2 t pr x, readP 0 s = .ok pr s1 ∧ readV 3 s1 = .ok x s2 ∧ x.tag.inF = true
        ∧ writeSL 5 (BitVec.ofNat 64 (codeOf fmtFp32 ((treeRoot add32 9 ((presentLanes x s2.me.vl pr).map (·.map (valueOf x.tag.fmtF)))).getD
          (.fin false 0 0)))) 8 s2 = .ok ⟨⟩ t) :=
  ⟨⟨pair .int64 .raw, _, _, _, _, _, rfl, rfl, rfl, rfl⟩, ⟨pair .fp32 .raw, _, _, _, _, _, rfl, rfl, rfl, rfl⟩⟩

set_option maxRecDepth 20000 in
theorem witness_PermutationsAndPredicates :
    (∃ s : State, ∃ s1 s2 s3 s4 t pr x y old r, readP 0 s = .ok pr s1 ∧ readV 3 s1 = .ok x s2 ∧ readV 4 s2 = .ok y s3 ∧ oldV 5 s3 = .ok old s4
        ∧ x.tag ≠ .poison ∧ y.tag.inI = true ∧ y.tag.width ≤ x.tag.width
        ∧ HoldsElems x.tag.width old r (Active s4.me.vl pr x.tag.width)
          (fun e => lane x.val.toNat x.tag.width (lane y.val.toNat y.tag.width e % (2048 / x.tag.width)))
        ∧ writeVL 5 { val := r, tag := x.tag } 3 s4 = .ok ⟨⟩ t)
    ∧ (∃ s : State, ∃ s1 s2 s3 pr x y, readP 0 s = .ok pr s1 ∧ readV 3 s1 = .ok x s2 ∧ readV 4 s2 = .ok y s3 ∧ x.tag ≠ .poison ∧ y.tag ≠ .poison
        ∧ (y.tag.inI = false ∨ x.tag.width < y.tag.width))
    ∧ (∃ s : State, ∃ s1 s2 s3 s4 t pr x y old r, readP 0 s = .ok pr s1 ∧ readV 3 s1 = .ok x s2 ∧ readV 4 s2 = .ok y s3 ∧ oldV 5 s3 = .ok old s4 ∧ y.tag = .poison
        ∧ HoldsElems (movedWidth x.tag y.tag) old r (Active s4.me.vl pr (movedWidth x.tag y.tag)) (fun e => lane x.val.toNat (movedWidth x.tag y.tag)
            (lane y.val.toNat (movedWidth y.tag x.tag) e % (2048 / movedWidth x.tag y.tag)))
        ∧ writeVL 5 { val := r, tag := .poison } 3 s4 = .ok ⟨⟩ t)
    ∧ (∃ s : State, ∃ s1 s2 s3 pr x y, readP 1 s = .ok pr s1 ∧ readV 3 s1 = .ok x s2 ∧ readV 4 s2 = .ok y s3 ∧ x.tag ≠ .poison ∧ y.tag ≠ .poison ∧ x.tag ≠ y.tag)
    ∧ (∃ s : State, ∃ s1 s2 s3 s4 t pr x y old r, readP 1 s = .ok pr s1 ∧ readV 3 s1 = .ok x s2 ∧ readV 4 s2 = .ok y s3 ∧ oldV 5 s3 = .ok old s4 ∧ x.tag = .poison
        ∧ HoldsElems (movedWidth x.tag y.tag) old r (fun e => e * movedWidth x.tag y.tag / 8 < s4.me.vl) (fun e =>
            if pr.getLsbD (e * movedWidth x.tag y.tag / 8) = true then lane x.val.toNat (movedWidth x.tag y.tag) e else lane y.val.toNat (movedWidth x.tag y.tag) e)
        ∧ writeVL 5 { val := r, tag := .poison } 2 s4 = .ok ⟨⟩ t)
    ∧ (∃ s : State, ∃ s1 s2 s3 s4 t pr x k old r, readP 0 s = .ok pr s1 ∧ readV 3 s1 = .ok x s2 ∧ readS 4 s2 = .ok k s3 ∧ oldV 5 s3 = .ok old s4
        ∧ HoldsElems x.tag.width old r (Active s4.me.vl pr x.tag.width)
          (fun e => if 0 ≤ (e : Int) + k.toInt ∧ (e : Int) + k.toInt < 2048 / x.tag.width then lane x.val.toNat x.tag.width ((e : Int) + k.toInt).toNat else 0)
        ∧ writeVL 5 { val := r, tag := x.tag } 3 s4 = .ok ⟨⟩ t)
    ∧ (∃ s : State, ∃ s1 s2 t x i, Enabled 0 s s1 ∧ readS 3 s1 = .ok x s2
        ∧ deferS 5 (BitVec.ofNat 64 (min x.toNat 256)) 0 (s2.modCtx s2.cur.1 s2.cur.2 fun y => { y with vl := min x.toNat 256 }) = .ok i t)
    ∧ (∃ s : State, ∃ s1 s2 t x y, ∃ r : BitVec 256, readP 1 s = .ok x s1 ∧ readP 2 s1 = .ok y s2 ∧ (∀ j, j < 256 → r.getLsbD j = (x.getLsbD j && y.getLsbD j))
        ∧ writeP 3 r s2 = .ok ⟨⟩ t)
    ∧ (∃ s : State, ∃ s1 t x i, readP 0 s = .ok x s1 ∧ i < s.me.vl ∧ x.getLsbD i = true ∧ (∀ j, j < i → x.getLsbD j = false)
        ∧ writeSL 5 (BitVec.ofNat 64 i) 2 s1 = .ok ⟨⟩ t)
    ∧ (∃ s : State, ∃ s1 t x, readP 1 s = .ok x s1 ∧ (∀ j, j < s.me.vl → x.getLsbD j = false) ∧ writeSL 5 (BitVec.allOnes 64) 2 s1 = .ok ⟨⟩ t)
    ∧ (∃ s : State, ∃ t, writeP 3 0 s = .ok ⟨⟩ t) :=
  ⟨⟨pair .int32 .int32, _, _, _, _, _, _, _, _, _, BitVec.ofNat 2048 (packAt 32 ((List.range 63).map fun e => (e + 1, 5))), rfl, rfl, rfl, rfl, by decide, rfl,
      by decide, by unfold HoldsElems Active; decide, rfl⟩,
    ⟨pair .int8 .int32, _, _, _, _, _, _, rfl, rfl, rfl, by decide, by decide, .inr (by decide)⟩,
    ⟨withVl (pair .int32 .poison) 0, _, _, _, _, _, _, _, _, _, 0, rfl, rfl, rfl, rfl, by decide, by unfold HoldsElems Active; decide, rfl⟩,
    ⟨pair .int8 .int32, _, _, _, _, _, _, rfl, rfl, rfl, by decide, by decide, by decide⟩,
    ⟨withVl (pair .poison .int32) 0, _, _, _, _, _, _, _, _, _, 0, rfl, rfl, rfl, rfl, by decide, by unfold HoldsElems; decide, rfl⟩,
    ⟨pair .int32 .raw, _, _, _, _, _, _, _, _, _, 5, rfl, rfl, rfl, rfl, by unfold HoldsElems Active; decide, rfl⟩,
    ⟨regs [(3, 300)], _, _, _, _, _, ⟨_, rfl, rfl⟩, rfl, rfl⟩, ⟨at0, _, _, _, _, _, 0, rfl, rfl, by decide, rfl⟩,
    ⟨vecs [], _, _, _, 0, rfl, by decide, by decide, fun _ h => absurd h (by omega), rfl⟩, ⟨vecs [], _, _, _, rfl, by decide, rfl⟩, ⟨at0, _, rfl⟩⟩

/-- What a distance reads: the database, the queries, the accumulator and the register of scales. -/
def Distances (s : State) (a : BitVec 5) (P : VReg → VReg → VReg → VReg → Prop) : Prop :=
  ∃ s1 s2 s3 s4 x y c z, readV a s = .ok x s1 ∧ readV 4 s1 = .ok y s2 ∧ readV 5 s2 = .ok c s3 ∧ scaleSource x.tag a s3 = .ok z s4 ∧ P x y c z

set_option maxRecDepth 20000 in
set_option synthInstance.maxSize 2000 in
theorem witness_BitonicDistanceSolvers :
    (∃ s : State, ∃ s1 s2 s3 t x y, ∃ kk pp : BitVec 2048, readV 3 s = .ok x s1 ∧ readV (3 + 1) s1 = .ok y s2 ∧ x.tag = .int32 ∧ y.tag = .raw
        ∧ (∀ i, i < 64 → i.testBit 0 = false →
          (i + 2 ^ 0 < s.me.vl / 4 ∧ (if i.testBit 6 then before 2 (lane x.val.toNat 32 i, lane y.val.toNat 32 i) (lane x.val.toNat 32 (i + 2 ^ 0), lane y.val.toNat 32 (i + 2 ^ 0))
              else before 2 (lane x.val.toNat 32 (i + 2 ^ 0), lane y.val.toNat 32 (i + 2 ^ 0)) (lane x.val.toNat 32 i, lane y.val.toNat 32 i)) = true →
            (lane kk.toNat 32 i, lane pp.toNat 32 i) = (lane x.val.toNat 32 (i + 2 ^ 0), lane y.val.toNat 32 (i + 2 ^ 0))
            ∧ (lane kk.toNat 32 (i + 2 ^ 0), lane pp.toNat 32 (i + 2 ^ 0)) = (lane x.val.toNat 32 i, lane y.val.toNat 32 i))
          ∧ (¬ (i + 2 ^ 0 < s.me.vl / 4 ∧ (if i.testBit 6 then before 2 (lane x.val.toNat 32 i, lane y.val.toNat 32 i) (lane x.val.toNat 32 (i + 2 ^ 0), lane y.val.toNat 32 (i + 2 ^ 0))
              else before 2 (lane x.val.toNat 32 (i + 2 ^ 0), lane y.val.toNat 32 (i + 2 ^ 0)) (lane x.val.toNat 32 i, lane y.val.toNat 32 i)) = true) →
            (lane kk.toNat 32 i, lane pp.toNat 32 i) = (lane x.val.toNat 32 i, lane y.val.toNat 32 i)
            ∧ (lane kk.toNat 32 (i + 2 ^ 0), lane pp.toNat 32 (i + 2 ^ 0)) = (lane x.val.toNat 32 (i + 2 ^ 0), lane y.val.toNat 32 (i + 2 ^ 0))))
        ∧ s.me.vl ≤ 256 ∧ writeVL 3 { val := kk, tag := x.tag } 3 s2 = .ok ⟨⟩ s3 ∧ writeVL (3 + 1) { val := pp, tag := y.tag } 3 s3 = .ok ⟨⟩ t)
    ∧ (∃ s : State, ∃ s1 s2 s3 s4 t x y c r z, readV 3 s = .ok x s1 ∧ readV 4 s1 = .ok y s2 ∧ readV 5 s2 = .ok c s3 ∧ distTag x.tag y.tag = some c.tag
        ∧ scaleSource x.tag 3 s3 = .ok z s4 ∧ z.tag = .e8m0 ∧ x.tag.scaled = false
        ∧ HoldsElems 32 c.val r (fun i => i < s4.me.vl * 8 / x.tag.width / 16)
          (fun i => if c.tag = .int32 then
              ((signedOf 32 (lane c.val.toNat 32 i) + (segmentSum false (scaledValue x.tag x.val.toNat z.val.toNat)
                (fun e => tagValue y.tag (lane y.val.toNat y.tag.width (e % (2048 / y.tag.width)))) (i * 16) 16).toInt) % 2 ^ 32).toNat else 0)
        ∧ writeVL 5 { val := r, tag := c.tag } 6 s4 = .ok ⟨⟩ t)
    ∧ (∃ s : State, ∃ s1 s2 x y, readV 3 s = .ok x s1 ∧ readV (3 + 1) s1 = .ok y s2 ∧ y.tag = .poison)
    ∧ (∃ s : State, ∃ s1 s2 x y, readV 3 s = .ok x s1 ∧ readV (3 + 1) s1 = .ok y s2 ∧ x.tag ≠ .poison ∧ y.tag ≠ .poison ∧ y.tag ≠ .int32 ∧ y.tag ≠ .raw)
    ∧ (∃ s : State, Distances s 3 fun x y c z => x.tag = .poison ∨ y.tag = .poison ∨ c.tag = .poison ∨ z.tag = .poison)
    ∧ (∃ s : State, Distances s 3 fun x y c z => (x.tag ≠ .poison ∧ y.tag ≠ .poison ∧ c.tag ≠ .poison ∧ z.tag ≠ .poison) ∧ distTag x.tag y.tag ≠ some c.tag)
    ∧ (∃ s : State, Distances s 27 fun x y c z => (x.tag ≠ .poison ∧ y.tag ≠ .poison ∧ c.tag ≠ .poison ∧ z.tag ≠ .poison) ∧ distTag x.tag y.tag = some c.tag
        ∧ x.tag.scaled = true)
    ∧ (∃ s : State, Distances s 3 fun x y c z => (x.tag ≠ .poison ∧ y.tag ≠ .poison ∧ c.tag ≠ .poison ∧ z.tag ≠ .poison) ∧ distTag x.tag y.tag = some c.tag
        ∧ x.tag.scaled = true ∧ z.tag ≠ .e8m0)
    ∧ (∃ s : State, ∃ s1 x, readV 3 s = .ok x s1 ∧ x.tag = .poison) ∧ (∃ s : State, ∃ s1 x, readV 3 s = .ok x s1 ∧ x.tag ≠ .poison ∧ x.tag ≠ .fp32)
    ∧ (∃ s : State, ∃ s1 s2 t x, readV 3 s = .ok x s1 ∧ x.tag = .fp32 ∧ writeVL 5 x 24 s1 = .ok ⟨⟩ s2 ∧ writePL 3 0 24 s2 = .ok ⟨⟩ t)
    ∧ (∃ s : State, ∃ s1 s2 t x y, readV 3 s = .ok x s1 ∧ readV 4 s1 = .ok y s2 ∧ x.tag = .fp32 ∧ y.tag = .fp32 ∧ writeVL 5 x 16 s2 = .ok ⟨⟩ t) :=
  ⟨⟨pair .int32 .raw, _, _, _, _, _, _, BitVec.ofNat 2048 (5 * 2 ^ 32), BitVec.ofNat 2048 (7 * 2 ^ 32), rfl, rfl, rfl, rfl, by decide, by decide, rfl, rfl⟩,
    ⟨withVl (withVec (pair .int8 .int8) [(5, { tag := .int32 })]) 16, _, _, _, _, _, _, _, _, 35, _, rfl, rfl, rfl, rfl, rfl, by decide, by decide, by unfold HoldsElems; decide, rfl⟩,
    ⟨pair .fp32 .poison, _, _, _, _, rfl, rfl, by decide⟩, ⟨pair .fp32 .fp32, _, _, _, _, rfl, rfl, by decide, by decide, by decide, by decide⟩,
    ⟨pair .poison .int8, _, _, _, _, _, _, _, _, rfl, rfl, rfl, rfl, .inl (by decide)⟩, ⟨pair .int8 .int8, _, _, _, _, _, _, _, _, rfl, rfl, rfl, rfl, by decide⟩,
    ⟨withVec (vecs [(27, { tag := .mx4 })]) [(4, { tag := .fp16 }), (5, { tag := .fp32 })], _, _, _, _, _, _, _, _, rfl, rfl, rfl, rfl, by decide⟩,
    ⟨withVec (vecs [(3, { tag := .mx4 })]) [(4, { tag := .fp16 }), (5, { tag := .fp32 })], _, _, _, _, _, _, _, _, rfl, rfl, rfl, rfl, by decide⟩,
    ⟨pair .poison .raw, _, _, rfl, by decide⟩, ⟨pair .int8 .raw, _, _, rfl, by decide, by decide⟩,
    ⟨pair .fp32 .raw, _, _, _, _, rfl, rfl, rfl, rfl⟩, ⟨pair .fp32 .fp32, _, _, _, _, _, rfl, rfl, rfl, rfl, rfl⟩⟩

/-- An XU place of context 0 of core 0. -/
def place (r : Option (BitVec 2048)) : XuPlace := { core := 0, level := 0, sel := 3, vl := 256, x := { val := 0, tag := .fp32 }, result := r }

set_option maxRecDepth 20000 in
theorem witness_TransformUnitRequests :
    (∃ s : State, ∃ s1 s2 x v i t, readV 3 s = .ok x s1 ∧ readS 4 s1 = .ok v s2 ∧ x.tag = .fp32 ∧ v.toNat % 32 < 7
        ∧ (s.home.places.filter XuPlace.held).length < Config.xuPlaces
        ∧ deferS 5 0 0 (s2.modCluster (clusterOf s2.cur.1) fun k => { k with places := k.places ++ [place none] }) = .ok i t)
    ∧ (∃ s : State, Config.xuPlaces ≤ (s.home.places.filter XuPlace.held).length)
    ∧ (∃ s : State, ∃ s1 s2 x v, readV 3 s = .ok x s1 ∧ readS 4 s1 = .ok v s2 ∧ x.tag = .bf16 ∧ 7 ≤ v.toNat % 32 ∧ v.toNat % 32 < 16)
    ∧ (∀ q ∈ at0.home.places, q.heldBy at0.cur.1 at0.cur.2 = false)
    ∧ (∃ s : State, ∃ l q r res old s1 i t, s.home.places = l ++ q :: r ∧ (∀ x ∈ l, x.heldBy s.cur.1 s.cur.2 = false) ∧ q.heldBy s.cur.1 s.cur.2 = true
        ∧ q.result = some res ∧ oldV 5 s = .ok old s1 ∧ deferV 5 { val := lowOver q.vl res old, tag := q.x.tag } 0 s1 = .ok i t)
    ∧ (∃ s : State, ∃ l q r, (s.cluster 0).places = l ++ q :: r ∧ (∀ x ∈ l, XuPlace.result x |>.isSome) ∧ q.result = none ∧ q.taken = none)
    ∧ (∃ s : State, ∃ l q r, (s.cluster 0).places = l ++ q :: r ∧ (∀ x ∈ l, XuPlace.result x |>.isSome) ∧ q.result = none ∧ q.taken = some 1)
    ∧ (∃ s : State, ∃ s1 s2 x v, readV 3 s = .ok x s1 ∧ readS 4 s1 = .ok v s2 ∧ x.tag ≠ .poison ∧ x.tag ≠ .fp32 ∧ x.tag ≠ .fp16 ∧ x.tag ≠ .bf16) :=
  ⟨⟨pair .fp32 .raw, _, _, _, _, _, _, rfl, rfl, rfl, by decide, by decide, rfl⟩, ⟨home0 fun k => { k with places := List.replicate 64 (place none) }, by decide⟩,
    ⟨(pair .bf16 .raw).modCtx 0 0 fun x => { x with s := [(4, 15)] }, _, _, _, _, rfl, rfl, rfl, by decide, by decide⟩, by decide,
    ⟨home0 fun k => { k with places := [place (some 0)] }, [], _, [], _, _, _, _, _, rfl, by decide, rfl, rfl, rfl, rfl⟩,
    ⟨home0 fun k => { k with places := [place none] }, [], _, [], rfl, by decide, rfl, rfl⟩,
    ⟨home0 fun k => { k with places := [{ place none with taken := some 1 }] }, [], _, [], rfl, by decide, rfl, rfl⟩,
    ⟨pair .int8 .raw, _, _, _, _, rfl, rfl, by decide, by decide, by decide, by decide⟩⟩

/-- Context 0 of core 0 holds top-k instance 0. -/
def topk (b : List (BitVec 32 × BitVec 32)) (s : State) : State := s.modCluster 0 fun k => { k with ku := [(0, { owner := some (0, 0), k := 4, buf := b })] }

set_option maxRecDepth 20000 in
theorem witness_TopKUnit :
    (∃ s : State, ∃ s1 s2 w th, readS 3 s = .ok w s1 ∧ readS 4 s1 = .ok th s2 ∧ 1024 < w.toNat % 2 ^ 11)
    ∧ (∃ s : State, ∃ s1 s2 w th j t, readS 3 s = .ok w s1 ∧ readS 4 s1 = .ok th s2 ∧ w.toNat < 2 ^ 16 ∧ w.getLsbD 11 = false ∧ w.toNat / 2 ^ 12 % 4 < 3
        ∧ 1 ≤ w.toNat % 2 ^ 11 ∧ w.toNat % 2 ^ 11 ≤ 1024 ∧ (Map.getD s.home.ku 1 {}).owner = none ∧ s.home.kuOf s.cur.1 s.cur.2 = none
        ∧ deferS 5 0 0 (s2.modCluster (clusterOf s2.cur.1) fun y => y.setKu 1 { owner := some s.cur, k := 1024 }) = .ok j t)
    ∧ (∃ s : State, ∃ s1 s2 s3 pr x y i q, readP 0 s = .ok pr s1 ∧ readV 3 s1 = .ok x s2 ∧ readV 4 s2 = .ok y s3 ∧ s.home.kuOf s.cur.1 s.cur.2 = some (i, q)
        ∧ x.tag = (if q.key = 0 then .fp32 else .int32) ∧ (y.tag = .int32 ∨ y.tag = .raw) ∧ q.buf = [])
    ∧ (∃ s : State, ∃ s1 s2 s3 pr x y, readP 0 s = .ok pr s1 ∧ readV 3 s1 = .ok x s2 ∧ readV 4 s2 = .ok y s3 ∧ s.home.kuOf s.cur.1 s.cur.2 = none)
    ∧ (∃ s : State, ∃ s1 s2 w th j q, readS 3 s = .ok w s1 ∧ readS 4 s1 = .ok th s2 ∧ w.toNat < 2 ^ 16 ∧ w.getLsbD 11 = false ∧ w.toNat / 2 ^ 12 % 4 < 3
        ∧ 1 ≤ w.toNat % 2 ^ 11 ∧ w.toNat % 2 ^ 11 ≤ 1024 ∧ (Map.getD s.home.ku 1 {}).owner = none ∧ s.home.kuOf s.cur.1 s.cur.2 = some (j, q) ∧ j ≠ 1)
    ∧ (∃ s : State, ∃ s1 s2 s3 pr x y i q, readP 0 s = .ok pr s1 ∧ readV 3 s1 = .ok x s2 ∧ readV 4 s2 = .ok y s3 ∧ s.home.kuOf s.cur.1 s.cur.2 = some (i, q)
        ∧ y.tag = .poison)
    ∧ (∃ s : State, ∃ s1 s2 s3 pr x y i q, readP 0 s = .ok pr s1 ∧ readV 3 s1 = .ok x s2 ∧ readV 4 s2 = .ok y s3 ∧ s.home.kuOf s.cur.1 s.cur.2 = some (i, q)
        ∧ x.tag ≠ .poison ∧ y.tag ≠ .poison ∧ x.tag ≠ (if q.key = 0 then .fp32 else .int32))
    ∧ (∃ s : State, ∃ q, Map.get? (s.cluster 0).ku 0 = some q ∧ q.buf ≠ [])
    ∧ (∃ s : State, ∃ s0 s1 s2 A f, claimDest 5 s = .ok ⟨⟩ s0 ∧ readS 6 s0 = .ok A s1 ∧ readS 7 s1 = .ok f s2 ∧ s.home.kuOf s.cur.1 s.cur.2 = none)
    ∧ (∃ s : State, ∃ s0 s1 s2 A f i q, claimDest 5 s = .ok ⟨⟩ s0 ∧ readS 6 s0 = .ok A s1 ∧ readS 7 s1 = .ok f s2 ∧ s.home.kuOf s.cur.1 s.cur.2 = some (i, q) ∧ 2 ≤ f.toNat)
    ∧ (∃ s : State, ∃ s0 s1 s2 s3 A f i q x, claimDest 5 s = .ok ⟨⟩ s0 ∧ readS 6 s0 = .ok A s1 ∧ readS 7 s1 = .ok f s2 ∧ s.home.kuOf s.cur.1 s.cur.2 = some (i, q)
        ∧ f.toNat < 2 ∧ checkLocal A (8 * q.k) 8 true s2 = .error (.trap x) s3)
    ∧ (∃ s : State, ∃ s0 s1 s2 s3 A f i q addr, claimDest 5 s = .ok ⟨⟩ s0 ∧ readS 6 s0 = .ok A s1 ∧ readS 7 s1 = .ok f s2
        ∧ s.home.kuOf s.cur.1 s.cur.2 = some (i, q) ∧ f.toNat < 2 ∧ checkLocal A (8 * q.k) 8 true s2 = .ok addr s3 ∧ s.home.ranges.length < Config.rangeMax)
    ∧ (∃ s : State, ∃ addr rel d id i q, (s.ctx 0 0).op = .kdrain addr rel d id ∧ (s.cluster (clusterOf 0)).kuOf 0 0 = some (i, q) ∧ q.buf = []) :=
  ⟨⟨regs [(3, 1025)], _, _, _, _, rfl, rfl, by decide⟩, ⟨regs [(3, 0x8400)], _, _, _, _, _, _, rfl, rfl, by decide, by decide, by decide, by decide, by decide, rfl, rfl, rfl⟩,
    ⟨topk [] (pair .fp32 .raw), _, _, _, _, _, _, _, _, rfl, rfl, rfl, rfl, rfl, .inr rfl, rfl⟩, ⟨pair .fp32 .raw, _, _, _, _, _, _, rfl, rfl, rfl, rfl⟩,
    ⟨topk [] (regs [(3, 0x8400)]), _, _, _, _, _, _, rfl, rfl, by decide, by decide, by decide, by decide, by decide, by decide, rfl, by decide⟩,
    ⟨topk [] (pair .fp32 .poison), _, _, _, _, _, _, _, _, rfl, rfl, rfl, rfl, by decide⟩, ⟨topk [] (pair .int32 .raw), _, _, _, _, _, _, _, _, rfl, rfl, rfl, rfl, by decide, by decide, by decide⟩,
    ⟨topk [(1, 2)] at0, _, rfl, by decide⟩, ⟨at0, _, _, _, _, _, rfl, rfl, rfl, rfl⟩, ⟨topk [] (regs [(7, 2)]), _, _, _, _, _, _, _, rfl, rfl, rfl, rfl, by decide⟩,
    ⟨topk [] (regs [(6, 2)]), _, _, _, _, _, _, _, _, _, rfl, rfl, rfl, rfl, by decide, rfl⟩,
    ⟨topk [] (regs [(6, 0x2000), (7, 1)]), _, _, _, _, _, _, _, _, _, rfl, rfl, rfl, rfl, by decide, rfl, by decide⟩,
    ⟨(topk [] at0).modCtx 0 0 fun x => { x with op := .kdrain 0x2000 true 5 1 }, _, _, _, _, _, _, rfl, rfl, rfl⟩⟩

/-- Quad 0 in another state. -/
def quad0 (q : Quad) (s : State) : State := { s with quads := [(0, q)] }
/-- Quad 0 leased to context 0 of core 0. -/
def leased (c : List MCmd) (susp : Bool) : State := quad0 { holder := some (0, 0), cmds := c, suspended := susp } at0

set_option maxRecDepth 20000 in
theorem witness_MatrixArrayLeases :
    (quadOf at0.cur.1 = 0 ∧ (at0.quad 0).awaits at0.cur.1 at0.cur.2 = false ∧ (at0.quad 0).otherLevel at0.cur.1 at0.cur.2 = false ∧ (at0.quad 0).holder = none
        ∧ (at0.quad 0).queue = [] ∧ at0.me.wait = .none)
    ∧ (∃ s : State, (s.quad (quadOf s.cur.1)).awaits s.cur.1 s.cur.2 = false ∧ (s.quad (quadOf s.cur.1)).otherLevel s.cur.1 s.cur.2 = false
        ∧ (s.quad (quadOf s.cur.1)).holder = some s.cur ∧ (s.quad (quadOf s.cur.1)).expiring = false ∧ (s.quad (quadOf s.cur.1)).freeing = false)
    ∧ (∃ s : State, (s.quad (quadOf s.cur.1)).awaits s.cur.1 s.cur.2 = false ∧ (s.quad (quadOf s.cur.1)).otherLevel s.cur.1 s.cur.2 = true)
    ∧ (∃ s : State, (s.quad (quadOf s.cur.1)).awaits s.cur.1 s.cur.2 = false ∧ (s.quad (quadOf s.cur.1)).otherLevel s.cur.1 s.cur.2 = false
        ∧ (s.quad (quadOf s.cur.1)).holder = none ∧ (s.quad (quadOf s.cur.1)).queue ≠ [] ∧ s.me.rtc = false)
    ∧ (∃ s : State, ∃ h, (s.quad (quadOf s.cur.1)).awaits s.cur.1 s.cur.2 = false ∧ (s.quad (quadOf s.cur.1)).otherLevel s.cur.1 s.cur.2 = false
        ∧ (s.quad (quadOf s.cur.1)).holder = some h ∧ h ≠ s.cur ∧ s.me.rtc = false)
    ∧ (∃ s : State, ∃ h, (s.quad (quadOf s.cur.1)).awaits s.cur.1 s.cur.2 = false ∧ (s.quad (quadOf s.cur.1)).otherLevel s.cur.1 s.cur.2 = false
        ∧ (s.quad (quadOf s.cur.1)).holder = some h ∧ h ≠ s.cur ∧ s.me.rtc = true)
    ∧ (∃ s : State, ∃ r rs, (s.quad 0).holder = none ∧ (s.quad 0).queue = r :: rs ∧ r.saved = none)
    ∧ (∃ s : State, ∃ h, (s.quad 0).holder = some h ∧ (s.quad 0).expiring = false ∧ 64 ≤ (s.quad 0).commands ∧ (s.quad 0).queue = [])
    ∧ (∃ s : State, ∃ h r rs, (s.quad 0).holder = some h ∧ (s.quad 0).expiring = true ∧ (s.quad 0).cmds = [] ∧ (s.quad 0).queue = r :: rs)
    ∧ (∃ s : State, ∃ h, (s.quad 0).holder = some h ∧ (s.quad 0).freeing = true ∧ (s.quad 0).cmds = [])
    ∧ (∃ s : State, ∃ h, (s.quad 0).holder = some h ∧ (s.quad 0).expiring = true ∧ (s.quad 0).suspended = true ∧ 65536 ≤ (s.quad 0).suspCycles) :=
  ⟨by decide, ⟨leased [] false, by decide⟩, ⟨quad0 { holder := some (0, 1) } at0, by decide⟩,
    ⟨quad0 { queue := [{ core := 1, level := 0 }] } at0, by decide, by decide, rfl, by decide, rfl⟩, ⟨quad0 { holder := some (1, 0) } at0, _, by decide, by decide, rfl, by decide, rfl⟩,
    ⟨quad0 { holder := some (1, 0) } (ctx0 fun x => { x with rtc := true }), _, by decide, by decide, rfl, by decide, rfl⟩,
    ⟨quad0 { queue := [{ core := 1, level := 0 }] } at0, _, _, rfl, rfl, rfl⟩, ⟨quad0 { holder := some (0, 0), commands := 64 } at0, _, rfl, by decide, by decide, rfl⟩,
    ⟨quad0 { holder := some (0, 0), expiring := true, queue := [{ core := 1, level := 0 }] } at0, _, _, _, rfl, rfl, rfl, rfl⟩,
    ⟨quad0 { holder := some (0, 0), freeing := true } at0, _, rfl, rfl, rfl⟩,
    ⟨quad0 { holder := some (0, 0), expiring := true, suspended := true, suspCycles := 65536 } at0, _, rfl, rfl, rfl, by decide⟩⟩

/-- The lease of the tree's core; map m1 gives 64 columns of E4M3. -/
def commanding : State :=
  quad0 { holder := some (0, 0) } (treed (2 ^ 60 + 8 * 2 ^ 56) 3 .e4m3 [])

set_option maxRecDepth 20000 in
theorem witness_MatrixCommandIssue :
    (∃ s : State, ∃ r j t, (s.quad 0).awaits s.cur.1 s.cur.2 = false ∧ quadOf s.cur.1 = 0 ∧ (s.quad 0).atLimit = false ∧ (s.quad 0).holder = some s.cur
        ∧ (s.quad 0).expiring = false ∧ (s.quad 0).freeing = false ∧ MOp.accepts .mload (s.me.mreg 1).view.tag = true ∧ (s.me.mreg 1).view.headed = false
        ∧ (s.me.mreg 1).view.height ≤ MOp.maxRows .mload ∧ (s.me.mreg 1).view.cols ≤ 256 ∧ mapFormat (s.me.mreg 1).view s = .ok r s
        ∧ mapHeaded (s.me.mreg 1).view r s = .ok ⟨⟩ s ∧ (s.quad 0).cmds.length < 16 ∧ s.home.ranges.length < 64 ∧ s.performed s.cur.1 s.cur.2 = true
        ∧ deferS 5 0 0 (s.modQuad 0 fun y => { y with accepted := 1 }) = .ok j t)
    ∧ ((at0.quad (quadOf at0.cur.1)).awaits at0.cur.1 at0.cur.2 = false ∧ (at0.quad (quadOf at0.cur.1)).atLimit = false
        ∧ (at0.quad (quadOf at0.cur.1)).holder ≠ some at0.cur)
    ∧ (∃ s : State, (s.quad (quadOf s.cur.1)).awaits s.cur.1 s.cur.2 = false ∧ (s.quad (quadOf s.cur.1)).atLimit = false
        ∧ (s.quad (quadOf s.cur.1)).holder = some s.cur ∧ 16 ≤ (s.quad (quadOf s.cur.1)).cmds.length)
    ∧ (∃ s : State, ∃ j t, deferS 5 (s.mstatWord s.cur.1 s.cur.2) 0 s = .ok j t ∧ (s.quad (quadOf s.cur.1)).awaits s.cur.1 s.cur.2 = false)
    ∧ (∃ s : State, ∃ s1 x, (s.quad 0).awaits s.cur.1 s.cur.2 = false ∧ claimDest 5 s = .ok ⟨⟩ s ∧ readS 3 s = .ok x s1 ∧ x = 0 ∧ (s1.quad 0).holder = some s.cur
        ∧ (s1.quad 0).cmds ≠ [] ∧ (s1.quad 0).suspended = false ∧ s1.me.rtc = false)
    ∧ (∃ s : State, ∃ s1 x, (s.quad 0).awaits s.cur.1 s.cur.2 = false ∧ claimDest 5 s = .ok ⟨⟩ s ∧ readS 3 s = .ok x s1 ∧ x = 2 ∧ (s1.quad 0).holder = some s.cur
        ∧ (s1.quad 0).suspended = true)
    ∧ (∃ s : State, ∃ s1 x, claimDest 5 s = .ok ⟨⟩ s ∧ readS 3 s = .ok x s1 ∧ 2 < x.toNat)
    ∧ (∃ s : State, ∃ s1 x, (s.quad 0).awaits s.cur.1 s.cur.2 = false ∧ claimDest 5 s = .ok ⟨⟩ s ∧ readS 3 s = .ok x s1 ∧ x = 0 ∧ (s1.quad 0).holder = some s.cur
        ∧ (s1.quad 0).cmds ≠ [] ∧ (s1.quad 0).suspended = false ∧ s1.me.rtc = true)
    ∧ (∃ s : State, ∃ s1 x, (s.quad 0).awaits s.cur.1 s.cur.2 = false ∧ claimDest 5 s = .ok ⟨⟩ s ∧ readS 3 s = .ok x s1 ∧ x = 1 ∧ (s1.quad 0).holder ≠ some s.cur)
    ∧ (∃ s : State, ∃ s1 x, (s.quad 0).awaits s.cur.1 s.cur.2 = false ∧ claimDest 5 s = .ok ⟨⟩ s ∧ readS 3 s = .ok x s1 ∧ x = 1 ∧ (s1.quad 0).holder = some s.cur
        ∧ (s1.quad 0).suspended = false) :=
  ⟨⟨commanding, _, _, _, by decide, by decide, by decide, by decide, by decide, by decide, by decide, by decide, by decide, by decide, rfl, rfl, by decide, by decide,
      by decide, rfl⟩, by decide,
    ⟨leased (List.replicate 16 { op := .mload }) false, by decide, by decide, by decide, by decide⟩, ⟨at0, _, _, rfl, by decide⟩,
    ⟨leased [{ op := .mload }] false, _, _, by decide, rfl, rfl, rfl, rfl, by decide, rfl, rfl⟩,
    ⟨quad0 { holder := some (0, 0), cmds := [{ op := .mload }], suspended := true } (regs [(3, 2)]), _, _, by decide, rfl, rfl, rfl, rfl, rfl⟩,
    ⟨regs [(3, 3)], _, _, rfl, rfl, by decide⟩,
    ⟨(leased [{ op := .mload }] false).modCtx 0 0 fun x => { x with rtc := true }, _, _, by decide, rfl, rfl, rfl, rfl, by decide, rfl, rfl⟩,
    ⟨regs [(3, 1)], _, _, by decide, rfl, rfl, rfl, by decide⟩, ⟨quad0 { holder := some (0, 0) } (regs [(3, 1)]), _, _, by decide, rfl, rfl, rfl, rfl, rfl⟩⟩

/-- A sum of equal terms that leave zero as it is. -/
theorem sum_of_zeros (x : Fp) (h : fpAdd (.fin false 0 0) x .rne = .fin false 0 0) (n : Nat) : fpSum (List.replicate n x) = .fin false 0 0 := by
  unfold fpSum
  induction n with
  | zero => rfl
  | succ n ih => rw [List.replicate_succ, List.foldl_cons, h, ih]

/-- A plane of zero codes passes its check of a column. -/
theorem zeros_pass (j : Nat) : ({} : Plane).colFails [] j [] = false := by
  have e : ∀ x : Fp, (count 0 256).map (fun _ => x) = List.replicate 256 x := by
    intro x
    simp [show (count 0 256).length = 256 by decide +kernel]
  have c : ({} : Plane).col j = List.replicate 256 (tagValue .e4m3 0) := e _
  unfold Plane.colFails
  rw [c]
  simp only [List.map_nil, List.map_replicate, e]
  simp only [fpDot, List.zip_replicate', List.map_replicate]
  rw [sum_of_zeros _ (by decide), sum_of_zeros _ (by decide)]
  show compareFails (.fin false 0 0) (.fin false 0 0) (.fin false 0 0) = false
  decide

/-- And all checks. -/
theorem zeros_try : ({} : Plane).tryFails [] [] = false := by
  simp [Plane.tryFails, Plane.badCols, zeros_pass]

/-- The array makes 1 of the sum of column 0. -/
def one0 : List (Nat × BitVec 32) := [(0, 0x3F800000)]
set_option maxRecDepth 20000 in
/-- Then the check of that column fails. -/
theorem one_fails : ({} : Plane).tryFails [] one0 = true := by decide +kernel
/-- An mmul past its last row, whose map has four. -/
def product : MCmd := { op := .mmul, map := { val := (3 * 2 ^ 24 + 63) * 2 ^ 64, tag := .e4m3 }, row := 4, started := true }
/-- The array of commanding runs it. -/
def multiplying : State := (quad0 { holder := some (0, 0), cmds := [product] } commanding)
/-- What its checks come to. -/
theorem product_checks (f g : List (Nat × BitVec 32)) : multiplying.stepChecks 0 0 product f g =
    if ({} : Plane).tryFails [] f = true then
      some (({} : Plane).tryFails [] g, BitVec.ofNat 16 ((({} : Plane).badCols [] g).foldl (fun w j => w ||| 2 ^ (j / 16)) 0)) else none := rfl

set_option maxRecDepth 20000 in
theorem witness_MatrixStepsAndProducts :
    (∃ s : State, ∃ i m, (s.quad 0).laneHead 0 = some (i, m) ∧ (s.quad 0).holder = some (0, 0) ∧ s.arrayRuns 0 = true ∧ m.started = false
        ∧ canStart m ((s.quad 0).cmds.take i) = true)
    ∧ (∃ s : State, ∃ i m t next, (s.quad 0).laneHead 1 = some (i, m) ∧ (s.quad 0).holder = some (0, 0) ∧ s.arrayRuns 0 = true ∧ m.started = true
        ∧ s.stepCmd 0 0 m = .ok (t, next) ∧ m.op = .mmul ∧ m.map.view.height ≤ 256)
    ∧ (∃ s : State, ∃ m f val row, m.started = true ∧ s.stepCmd 0 0 m = .error (.fault f val row))
    ∧ (∃ s : State, ∃ m r, (s.quad 0).cmds = m :: r ∧ m.op = .mswap ∧ s.arrayRuns 0 = true)
    ∧ (multiplying.stepChecks 0 0 product [] [] = none) ∧ (∃ w, multiplying.stepChecks 0 0 product one0 [] = some (false, w))
    ∧ (∃ w, multiplying.stepChecks 0 0 product one0 one0 = some (true, w)) ∧ product.op ≠ .mload ∧ multiplying.stepActs 0 product = .ok [] :=
  ⟨⟨leased [{ op := .mload }] false, _, _, rfl, rfl, by decide, rfl, rfl⟩,
    ⟨quad0 { holder := some (0, 0), cmds := [{ op := .mmul, map := { val := (3 * 2 ^ 24 + 63) * 2 ^ 64, tag := .e4m3 }, started := true }] } commanding,
      _, _, _, _, rfl, rfl, by decide, rfl, rfl, rfl, by decide⟩,
    ⟨at0, { op := .mload, map := { val := (3 * 2 ^ 24 + 63) * 2 ^ 64, tag := .e4m3 }, started := true }, _, _, _, rfl, rfl⟩,
    ⟨leased [{ op := .mswap }] false, _, _, rfl, rfl, by decide⟩, product_checks _ _ |>.trans (if_neg (by simp [zeros_try])),
    ⟨_, product_checks _ _ |>.trans ((if_pos one_fails).trans (by rw [zeros_try]))⟩, ⟨_, product_checks _ _ |>.trans ((if_pos one_fails).trans (by rw [one_fails]))⟩,
    by decide, rfl⟩

/-- Two nodes of core 0, at 0x40 and 0x60, of arity 2, and a free list. -/
def noded (l : List (Nat × Word)) : State :=
  (((regs l).cwrite 0 0x40 8 (2 * 2 ^ 6)).cwrite 0 0x60 8 (2 * 2 ^ 6 + 1)).modCore 0 fun k => { k with freeHead := 0x80, freeLen := 1 }

set_option maxRecDepth 20000 in
theorem witness_RewritingNodes :
    (∃ s : State, ∃ j t, s.here.freeHead = 0 ∧ deferS 5 0 0 s = .ok j t)
    ∧ (∃ s : State, ∃ j u, s.here.freeHead ≠ 0 ∧ s.here.freeLen ≠ 0 ∧ s.performed s.cur.1 s.cur.2 = true ∧ deferS 5 (BitVec.ofNat 64 0x80) 0 s = .ok j u)
    ∧ (∃ s : State, ∃ s1 pr j t, claimDest 5 s = .ok ⟨⟩ s ∧ readS 3 s = .ok pr s1 ∧ OwnRef s1 pr false ∧ s1.performed s1.cur.1 s1.cur.2 = true
        ∧ deferS 5 (s1.nword s1.cur.1 pr 1) 0 s1 = .ok j t)
    ∧ (∃ s : State, ∃ s1 pr o, claimDest 5 s = .ok ⟨⟩ s ∧ readS 3 s = .ok pr s1 ∧ s1.prFault s1.cur.1 pr false = none ∧ s1.prOwner s1.cur.1 pr = some o
        ∧ o ≠ s1.cur.1 ∧ s1.performed s1.cur.1 s1.cur.2 = true)
    ∧ (∃ s : State, ∃ s1 s2 pr v, readS 3 s = .ok pr s1 ∧ readS 5 s1 = .ok v s2 ∧ OwnRef s2 pr false ∧ fwdBit (s2.nword s2.cur.1 pr 0) = false
        ∧ s2.performed s2.cur.1 s2.cur.2 = true ∧ fwdBit v = false ∧ claimedBit (s2.nword s2.cur.1 pr 0) = false)
    ∧ (∃ s : State, ∃ s1 s2 pr v, readS 3 s = .ok pr s1 ∧ readS 5 s1 = .ok v s2 ∧ OwnRef s2 pr false ∧ fwdBit (s2.nword s2.cur.1 pr 0) = false
        ∧ s2.performed s2.cur.1 s2.cur.2 = true ∧ fwdBit v = false ∧ claimedBit (s2.nword s2.cur.1 pr 0) = true ∧ claimant (s2.nword s2.cur.1 pr 0) = s2.whoAmI)
    ∧ (∃ s : State, ∃ s1 s2 pr v, readS 3 s = .ok pr s1 ∧ readS 5 s1 = .ok v s2 ∧ s2.prFault s2.cur.1 pr false = none ∧ fwdBit v = true)
    ∧ (∃ s : State, ∃ s1 s2 pr v, readS 3 s = .ok pr s1 ∧ readS 5 s1 = .ok v s2 ∧ OwnRef s2 pr false ∧ fwdBit (s2.nword s2.cur.1 pr 0) = true
        ∧ s2.performed s2.cur.1 s2.cur.2 = true)
    ∧ (∃ s : State, ∃ s1 pr, ∃ x : Nat → Word, ∃ σ : Nat → State, readS 3 s = .ok pr s1 ∧ s1.prFault s1.cur.1 pr false = none ∧ σ 0 = s1
        ∧ (∀ k, k < 3 → if (0 : BitVec 5) = 0 ∨ nodeArity (s1.nword s.cur.1 pr 0) < k then x k = 0 ∧ σ (k + 1) = σ k
          else readS (0 + BitVec.ofNat 5 k) (σ k) = .ok (x k) (σ (k + 1)) ∧ (x k = 0 ∨ (σ (k + 1)).prFault (σ (k + 1)).cur.1 (x k) true = none))
        ∧ OwnRef (σ 3) pr false ∧ fwdBit ((σ 3).nword (σ 3).cur.1 pr 0) = false ∧ claimedByOther ((σ 3).nword (σ 3).cur.1 pr 0) (σ 3).whoAmI = false
        ∧ (σ 3).performed (σ 3).cur.1 (σ 3).cur.2 = true)
    ∧ (Mem.wf at0.cmem = true ∧ at0.prFault 0 0x40 false = none)
    ∧ (∃ s : State, ∃ pr w v, (s.ctx 0 0).op = .node (.nst pr w v) ∧ w ≠ 0 ∧ fwdBit (s.nword 0 pr 0) = false ∧ (s.ctx 0 0).st ≠ .idle) :=
  ⟨⟨at0, _, _, by decide, rfl⟩, ⟨noded [], _, _, by decide, by decide, by decide, rfl⟩, ⟨noded [(3, 0x40)], _, _, _, _, rfl, rfl, ⟨by decide, by decide⟩, by decide, rfl⟩,
    ⟨regs [(3, 2 ^ 22 + 0x80040)], _, _, 1, rfl, rfl, by decide, by decide, by decide, by decide⟩,
    ⟨noded [(3, 0x40)], _, _, _, _, rfl, rfl, ⟨by decide, by decide⟩, by decide, by decide, by decide, by decide⟩,
    ⟨(regs [(3, 0x40)]).cwrite 0 0x40 8 (2 ^ 13), _, _, _, _, rfl, rfl, ⟨by decide, by decide⟩, by decide, by decide, by decide, by decide, by decide⟩,
    ⟨noded [(3, 0x40), (5, 256)], _, _, _, _, rfl, rfl, by decide, by decide⟩,
    ⟨(regs [(3, 0x40)]).cwrite 0 0x40 8 256, _, _, _, _, rfl, rfl, ⟨by decide, by decide⟩, by decide, by decide⟩,
    ⟨noded [(3, 0x40)], _, _, fun _ => 0, fun _ => noded [(3, 0x40)], rfl, by decide, rfl, fun _ _ => by simp, ⟨by decide, by decide⟩, by decide, by decide, by decide⟩,
    by decide,
    ⟨at0.modCtx 0 0 fun x => { x with op := .node (.nst 0x40 1 5) }, _, _, _, rfl, by decide, by decide, by decide⟩⟩

set_option maxRecDepth 20000 in
theorem witness_RewritingLinks :
    (∃ s : State, ∃ s1 s2 p q, readS 3 s = .ok p s1 ∧ readS 4 s1 = .ok q s2 ∧ OwnRef s2 p true ∧ OwnRef s2 q true ∧ LivePort s2 p ∧ LivePort s2 q
        ∧ s2.performed s2.cur.1 s2.cur.2 = true ∧ s2.slot s2.cur.1 q = 0 ∧ (s2.setSlot s2.cur.1 q p).slot s2.cur.1 p = 0
        ∧ (s2.setSlot s2.cur.1 q p).nword s2.cur.1 p 0 = s2.nword s2.cur.1 p 0 ∧ prPort p = 0 ∧ prPort q = 0
        ∧ ((s2.setSlot s2.cur.1 q p).setSlot s2.cur.1 p q).here.churn.length < 1280)
    ∧ (∃ s : State, ∃ s1 s2 p q, readS 3 s = .ok p s1 ∧ readS 4 s1 = .ok q s2 ∧ prPort p = 3)
    ∧ (∃ s : State, ∃ s1 s2 p q, readS 3 s = .ok p s1 ∧ readS 4 s1 = .ok q s2 ∧ OwnRef s2 p true ∧ OwnRef s2 q true ∧ s2.performed s2.cur.1 s2.cur.2 = true
        ∧ prPort p ≤ nodeArity (s2.nword s2.cur.1 p 0) ∧ fwdBit (s2.nword s2.cur.1 p 0) = true ∧ s2.slot s2.cur.1 p = 0)
    ∧ (∃ s : State, ∃ x o, (s.ctx 0 0).op = .node (.link x) ∧ x.part = .push ∧ s.prOwner 0 x.p = some o ∧ (s.core o).churn.length < 1280)
    ∧ (∃ s : State, ∃ x o, (s.ctx 0 0).op = .node (.link x) ∧ x.part = .push ∧ s.prOwner 0 x.p = some o ∧ (s.core o).churn.length < 1280 ∧ o ≠ 0
        ∧ (s.core o).sysq.length < 16) :=
  ⟨⟨noded [(3, 0x40), (4, 0x60)], _, _, _, _, rfl, rfl, ⟨by decide, by decide⟩, ⟨by decide, by decide⟩, by unfold LivePort; decide, by unfold LivePort; decide, by decide, by decide, by decide, by decide, by decide,
      by decide, by decide⟩, ⟨regs [(3, 0x43)], _, _, _, _, rfl, rfl, by decide⟩,
    ⟨(noded [(3, 0x40), (4, 0x60)]).cwrite 0 0x40 8 256, _, _, _, _, rfl, rfl, ⟨by decide, by decide⟩, ⟨by decide, by decide⟩, by decide, by decide, by decide, by decide⟩,
    ⟨at0.modCtx 0 0 fun x => { x with op := .node (.link { part := .push, p := 0x40, q := 0x60, b := 4 }) }, _, 0, rfl, rfl, by decide, by decide⟩,
    ⟨at0.modCtx 0 0 fun x => { x with op := .node (.link { part := .push, p := 2 ^ 22 + 0x80040, q := 0x60, b := 4 }) }, _, 1, rfl, rfl, by decide, by decide, by decide, by decide⟩⟩

/-- An active pair in the churn of core 0, and a rule word for the types 0 and 1. -/
def ruled (l : List (Nat × Word)) (w : Nat) : State :=
  ((noded l).modCore 0 fun k => { k with churn := [{ phase := 0, counter := 0, pra := 0x40, prb := 0x60 }], rulebase := 0x1000 }).cwrite 0 0x1004 4 w
/-- With a valid rule. -/
def churning (l : List (Nat × Word)) : State := ruled l (2 ^ 31 + 0x100)
/-- With a rule of an odd address. -/
def oddRule : State := ruled [] (2 ^ 31 + 0x101)
/-- With a rule that is not valid. -/
def noRule : State := ruled [] 0x100

/-- Its eastern neighbour may take the pair; its southern one has an entry of its own. -/
def balanced (l : List (Nat × Word)) : State :=
  ((((churning l).cwrite 0 0x80088 8 0x800A0).modCore 1 fun k => { k with freeHead := 0x80080, freeLen := 2 }).modCore 0 fun k => { k with balThreshold := 0 }).modCore 128 fun k =>
    { k with churn := [{ phase := 0, counter := 0, pra := 0, prb := 0 }] }

set_option maxRecDepth 20000 in
/-- R354: the 257th entry on chip sends the oldest to the ring: PHASE in bits 63:60, COUNTER in 59:47, PRA in 34:0; PRB in word 1. -/
theorem test_push_spills :
    (let s := core0 fun k => { k with rulebase := 0x68000 * 2 ^ 32, churn := List.replicate 256 { phase := 3, counter := 1, pra := 0x40, prb := 0x60 } }
     let t := s.pushChurn 0 { phase := 0, counter := 0, pra := 0x80, prb := 0xA0 }
     (t.cread 0 0x68000 8, t.cread 0 0x68008 8, (t.core 0).churn.length)) = (0x3000800000000040, 0x60, 257) := by decide +kernel

/-- The churn of core 0 is full. -/
def fullChurn (rtc : Bool) : State :=
  ((noded [(3, 0x40), (4, 0x60)]).modCore 0 fun k => { k with churn := List.replicate 1280 { phase := 0, counter := 0, pra := 0, prb := 0 } }).modCtx 0 0 fun x =>
    { x with rtc := rtc }

/-- An nrun takes a pair of this core as far as its rule word. -/
def Pops (s : State) (P : Word → Word → Nat → Prop) : Prop :=
  ∃ i : Nat, ∃ e h1 h2 s3 s4 s5 x, s.me.rtc = false ∧ (∀ r, r = 20 ∨ r = 21 ∨ r = 22 ∨ r = 23 → s.me.pendingTo (.scalar r) = none)
    ∧ s.performed s.cur.1 s.cur.2 = true ∧ s.nextEntry s.cur.1 (some s.cur.2) = some i ∧ s.here.churn[i]? = some e
    ∧ (∀ q ∈ s.here.churn, q.taken ≠ some s.cur.2)
    ∧ (let s1 := s.modCore s.cur.1 fun k => { k with churn := k.churn.set i { e with taken := some s.cur.2 } }
       s1.prOwner s.cur.1 e.pra = some s.cur.1 ∧ claimNode e.pra s1 = .ok h1 s3) ∧ s3.prOwner s.cur.1 e.prb = some s.cur.1
    ∧ claimNode e.prb s3 = .ok h2 s4 ∧ ruleEntry (nodeType h1) (nodeType h2) s4 = .ok x s5 ∧ P h1 h2 x

set_option maxRecDepth 20000 in
theorem witness_ChurnAndBalancing_rule : (∃ s : State, Pops s fun h1 h2 x => fwdBit h1 = false ∧ fwdBit h2 = false ∧ x.testBit 31 = true ∧ x % 2 = 0)
    ∧ (∃ s : State, ∃ i : Nat, ∃ e s3 s4 s5 u h1 h2 x, s.here.churn[i]? = some e ∧ claimNode e.pra s = .ok h1 s3 ∧ claimNode e.prb s3 = .ok h2 s4
        ∧ ruleEntry (nodeType h1) (nodeType h2) s4 = .ok x s5 ∧ commitPop e e.pra e.prb h1 h2 s5 = .ok ⟨⟩ u) :=
  ⟨⟨churning [], 0, _, _, _, _, _, _, _, by decide, by rintro r (rfl | rfl | rfl | rfl) <;> rfl, by decide, by decide, rfl, by decide, ⟨by decide, rfl⟩, by decide, rfl, rfl, by decide⟩, ⟨churning [], 0, _, _, _, _, _, _, _, _, rfl, rfl, rfl, rfl, rfl⟩⟩

set_option maxRecDepth 20000 in
theorem witness_ChurnAndBalancing_odd : ∃ s : State, Pops s fun h1 h2 x => fwdBit h1 = false ∧ fwdBit h2 = false ∧ x.testBit 31 = true ∧ x % 2 = 1 :=
  ⟨oddRule, 0, _, _, _, _, _, _, _, by decide, by rintro r (rfl | rfl | rfl | rfl) <;> rfl, by decide, by decide, rfl, by decide, ⟨by decide, rfl⟩, by decide, rfl, rfl, by decide +kernel⟩

set_option maxRecDepth 20000 in
theorem witness_ChurnAndBalancing_none : ∃ s : State, Pops s fun _ _ x => x.testBit 31 = false :=
  ⟨noRule, 0, _, _, _, _, _, _, _, by decide, by rintro r (rfl | rfl | rfl | rfl) <;> rfl, by decide, by decide, rfl, by decide, ⟨by decide, rfl⟩, by decide, rfl, rfl, by decide +kernel⟩

set_option maxRecDepth 20000 in
theorem witness_ChurnAndBalancing :
    (∃ s : State, ∃ t, s.me.rtc = false ∧ s.performed s.cur.1 s.cur.2 = true ∧ s.nextEntry s.cur.1 (some s.cur.2) = none
        ∧ writeS 20 0 s.beforePop = .ok ⟨⟩ t)
    ∧ (∃ s : State, s.me.rtc = true)
    ∧ (∃ s : State, ∃ s1 s2 p q, readS 3 s = .ok p s1 ∧ readS 4 s1 = .ok q s2 ∧ s2.prFault s2.cur.1 p true = none ∧ s2.prFault s2.cur.1 q true = none
        ∧ prPort p = 0 ∧ prPort q = 0 ∧ s.here.churn.length < 1280)
    ∧ (∃ s : State, ∃ s1 s2 p q, readS 3 s = .ok p s1 ∧ readS 4 s1 = .ok q s2 ∧ s2.prFault s2.cur.1 p true = none ∧ s2.prFault s2.cur.1 q true = none
        ∧ prPort p = 0 ∧ prPort q = 0 ∧ 1280 ≤ s.here.churn.length ∧ s.me.rtc = false)
    ∧ (∃ s : State, ∃ s1 s2 p q, readS 3 s = .ok p s1 ∧ readS 4 s1 = .ok q s2 ∧ s2.prFault s2.cur.1 p true = none ∧ s2.prFault s2.cur.1 q true = none
        ∧ prPort p = 0 ∧ prPort q = 0 ∧ 1280 ≤ s.here.churn.length ∧ s.me.rtc = true)
    ∧ (∃ s : State, ∃ s1 s2 p q, readS 3 s = .ok p s1 ∧ readS 4 s1 = .ok q s2 ∧ s2.prFault s2.cur.1 p true = none ∧ s2.prFault s2.cur.1 q true = none
        ∧ prPort p ≠ 0)
    ∧ (∃ s : State, ∃ s1 s2 p q, readS 3 s = .ok p s1 ∧ readS 4 s1 = .ok q s2 ∧ s2.prFault s2.cur.1 p true = none ∧ s2.prFault s2.cur.1 q true = none
        ∧ prPort p = 0 ∧ prPort q ≠ 0)
    ∧ (∃ s : State, ∃ x, Mem.wf s.cmem = true ∧ 256 ≤ (s.core 0).churn.length ∧ (s.core 0).churn.length < 1280 ∧ (s.core 0).churn[255]? = some x)
    ∧ (∃ s : State, (s.core 0).churn.length < 256)
    ∧ (∃ s : State, ∃ s1 x g k u j t, claimDest 5 s = .ok ⟨⟩ s ∧ readS 3 s = .ok x s1 ∧ s1.gangOf s.cur.1 = some g ∧ g.toPhys (x.toNat % 2 ^ 13) = some k
        ∧ k ≠ s.cur.1 ∧ s1.performed s1.cur.1 s1.cur.2 = true ∧ s1.here.halting = none ∧ s1.migrate s.cur.1 k = some u ∧ deferS 5 1 0 u = .ok j t)
    ∧ (∃ s : State, ∃ s1 x g k, claimDest 5 s = .ok ⟨⟩ s ∧ readS 3 s = .ok x s1 ∧ s1.gangOf s.cur.1 = some g ∧ g.toPhys (x.toNat % 2 ^ 13) = some k ∧ k ≠ s.cur.1
        ∧ s1.performed s1.cur.1 s1.cur.2 = true ∧ s1.here.halting ≠ none)
    ∧ (∃ s : State, ∃ s1 x g, claimDest 5 s = .ok ⟨⟩ s ∧ readS 3 s = .ok x s1 ∧ s1.gangOf s.cur.1 = some g ∧ g.toPhys (x.toNat % 2 ^ 13) = some s.cur.1)
    ∧ (∃ s : State, ∃ s1 x g, claimDest 5 s = .ok ⟨⟩ s ∧ readS 3 s = .ok x s1 ∧ s1.gangOf s.cur.1 = some g ∧ g.toPhys (x.toNat % 2 ^ 13) = none)
    ∧ (∃ s : State, ∃ n u, s.here.halting = none ∧ s.exchange 0 = some (n, u)) ∧ (at0.exchange at0.cur.1 = none)
    ∧ (∃ s : State, ∃ n, (s.core 0).balNext = some n ∧ n ≤ (s.core 0).cycle ∧ (s.core 0).halting = none ∧ (s.core 0).stop = none ∧ s.counting 0 = true) :=
  ⟨⟨at0, _, by decide, by decide, by decide, rfl⟩, ⟨ctx0 fun x => { x with rtc := true }, by decide⟩,
    ⟨noded [(3, 0x40), (4, 0x60)], _, _, _, _, rfl, rfl, by decide, by decide, by decide, by decide, by decide⟩,
    ⟨fullChurn false, _, _, _, _, rfl, rfl, by decide, by decide, by decide, by decide, by decide, rfl⟩,
    ⟨fullChurn true, _, _, _, _, rfl, rfl, by decide, by decide, by decide, by decide, by decide, rfl⟩,
    ⟨noded [(3, 0x41), (4, 0x60)], _, _, _, _, rfl, rfl, by decide, by decide, by decide⟩,
    ⟨noded [(3, 0x40), (4, 0x61)], _, _, _, _, rfl, rfl, by decide, by decide, by decide, by decide⟩,
    ⟨core0 fun k => { k with churn := List.replicate 1279 { phase := 0, counter := 0, pra := 0, prb := 0 } }, _, by decide, by decide, by decide, rfl⟩,
    ⟨at0, by decide⟩,
    ⟨balanced [(3, 1)], _, _, _, 1, _, _, _, rfl, rfl, rfl, by decide, by decide, by decide, rfl, rfl, rfl⟩,
    ⟨(regs [(3, 1)]).modCore 0 fun k => { k with halting := some 0 }, _, _, _, 1, rfl, rfl, rfl, by decide, by decide, by decide, by decide⟩, ⟨at0, _, _, _, rfl, rfl, rfl, by decide⟩,
    ⟨regs [(3, 6143)], _, _, _, rfl, rfl, rfl, by decide⟩,
    ⟨balanced [], 1, _, rfl, rfl⟩, by decide,
    ⟨core0 fun k => { k with balNext := some 0 }, 0, rfl, by decide, by decide, by decide, by decide⟩⟩

/-- A context in a system call. -/
def calling (k : Nat) (arg : Word) (a : Option Word) (s : State) : State := s.modCtx 0 0 fun x => { x with op := .call k arg 5 a }

set_option maxRecDepth 20000 in
theorem witness_SystemAndStreamInstructions :
    (∃ s : State, ∃ s1 x j t, claimDest 5 s = .ok ⟨⟩ s ∧ s.here.snapAllow = true ∧ readS 3 s = .ok x s1 ∧ s.mod.snapHeld = true ∧ deferS 5 1 0 s1.trigger = .ok j t)
    ∧ (∃ s : State, ∃ s1 x j t, claimDest 5 s = .ok ⟨⟩ s ∧ s.here.snapAllow = true ∧ readS 3 s = .ok x s1 ∧ s.mod.snapHeld = false ∧ deferS 5 0 1 s1 = .ok j t)
    ∧ (claimDest 5 at0 = .ok ⟨⟩ at0 ∧ at0.here.snapAllow = false) ∧ (∃ s : State, s.mod.snapHeld = true) ∧ at0.mod.snapHeld = false
    ∧ (∃ s : State, ∃ s1 x v j t, claimDest 5 s = .ok ⟨⟩ s ∧ readS 3 s = .ok x s1 ∧ x.toNat < 0x80000000 ∧ s1.config x.toNat = some v ∧ deferS 5 v 0 s1 = .ok j t)
    ∧ (∃ s : State, ∃ s1 x, claimDest 5 s = .ok ⟨⟩ s ∧ readS 3 s = .ok x s1 ∧ 0x80000100 ≤ x.toNat ∧ s1.config x.toNat = none)
    ∧ (∃ s : State, ∃ s1 s2 x y, claimDest 5 s = .ok ⟨⟩ s ∧ readS 3 s = .ok x s1 ∧ readS 4 s1 = .ok y s2 ∧ 0x80000000 ≤ x.toNat ∧ x.toNat < 0x80000100
        ∧ s2.me.rtc = false ∧ s2.performed s2.cur.1 s2.cur.2 = true)
    ∧ (∃ s : State, ∃ k arg d v, (s.ctx 0 0).op = .call k arg d (some v) ∧ 0 < d ∧ d < 28)
    ∧ (∃ s : State, ∃ s1 t, claimDest 5 s = .ok ⟨⟩ s ∧ readS 3 s = .ok t s1 ∧ s.me.token = false ∧ (t = 0 ∨ s.here.cycle < t.toNat) ∧ s.me.rtc = false)
    ∧ (∃ s : State, ∃ s1 t j u, claimDest 5 s = .ok ⟨⟩ s ∧ readS 3 s = .ok t s1 ∧ s.me.token = true
        ∧ deferS 5 0 0 (s1.modCtx s1.cur.1 s1.cur.2 fun x => { x with token := false }) = .ok j u)
    ∧ (∃ s : State, ∃ s1 t g c, readS 3 s = .ok t s1 ∧ s.gangOf s.cur.1 = some g ∧ g.toPhys (t.toNat % 2 ^ 13) = some c ∧ s1.performed s1.cur.1 s1.cur.2 = true)
    ∧ (∃ s : State, ∃ t d, (s.ctx 0 0).wait = .sleep t d ∧ t ≠ 0 ∧ t.toNat ≤ (s.core 0).cycle)
    ∧ (∃ s : State, ∃ s1 x g k, readS 3 s = .ok x s1 ∧ s.gangOf s.cur.1 = some g ∧ g.toPhys (x.toNat % 2 ^ 13) = some k ∧ x.toNat % 2 ^ 13 ≠ s.coreId s.cur.1
        ∧ Map.getD s.here.ports 1 .closed = .closed)
    ∧ (∃ s : State, ∃ id, Map.getD s.here.ports 1 .closed = .open id ∧ 16 ≤ (Map.getD s.here.outq 1 []).length)
    ∧ (∃ s : State, ∃ f r, Map.getD (s.core 0).outq 1 [] = f :: r ∧ LinkFlit.marker f = false ∧ (Map.getD (s.core f.dst).inq f.inDir []).length < 16
        ∧ s.mayTravel 0 1 f = true) :=
  ⟨⟨(core0 fun k => { k with snapAllow := true }).modMod fun m => { m with snapHeld := true }, _, _, _, _, rfl, rfl, rfl, rfl, rfl⟩,
    ⟨core0 fun k => { k with snapAllow := true }, _, _, _, _, rfl, rfl, rfl, rfl, rfl⟩, ⟨rfl, rfl⟩, ⟨{ at0 with mod := { at0.mod with snapHeld := true } }, rfl⟩, rfl,
    ⟨regs [(3, 0x40020000)], _, _, _, _, _, rfl, rfl, by decide, rfl, rfl⟩, ⟨regs [(3, 0x80000100)], _, _, rfl, rfl, by decide, by decide⟩,
    ⟨regs [(3, 0x800000FF)], _, _, _, _, rfl, rfl, rfl, by decide, by decide, by decide, by decide⟩, ⟨calling 1 0 (some 7) at0, _, _, _, _, rfl, by decide, by decide⟩,
    ⟨at0, _, _, rfl, rfl, rfl, .inl rfl, rfl⟩, ⟨ctx0 fun x => { x with token := true }, _, _, _, _, rfl, rfl, rfl, rfl⟩,
    ⟨regs [(3, 1)], _, _, _, _, rfl, rfl, rfl, by decide⟩,
    ⟨(core0 fun k => { k with cycle := 9 }).modCtx 0 0 fun x => { x with wait := .sleep 9 5 }, 9, 5, rfl, by decide, by decide⟩,
    ⟨regs [(3, 1)], _, _, _, _, rfl, rfl, rfl, by decide, rfl⟩, ⟨(linked 16).modCore 0 fun k => { k with ports := [(1, .open 1)] }, 1, rfl, by decide⟩,
    ⟨linked 1, _, _, rfl, rfl, by decide, by decide⟩⟩

/-- A page header 40 in slice state y. -/
def kvPage (n : Nat) (h : PageHdr) (y : Slice) : State := { at0 with headers := [(40, h)], slices := [(n, y)] }
/-- A request of page 40. -/
def pageReq (write : Bool) : PageReq := { page := 40, write := write, core := 0, level := 0, id := 1, elems := [(0, 3)] }
/-- The home slice of page 40. -/
def home40 : Nat := homeSlice 2560
/-- Page 40 lies in a channel that is retired. -/
def retired40 : State := kvPage home40 {} { reqs := [pageReq true], retired := [0, 1] }
/-- The slice of page 40 skims a table with that page, old enough, and has slots for its conversion. -/
def skimming (pos : Nat × Nat) : State :=
  let y : Slice := { tables := [1], mx4 := { back := [4096] }, sc := { back := [8192] }, skimPos := pos }
  let s := kvPage home40 { age := 9, pscale := 127 } y
  { s with vale := { s.vale with control := [(1, (2 ^ 63 + 1, 8))] } }

set_option maxRecDepth 20000 in
theorem witness_KeyValuePages_requests :
    (∃ s : State, ∃ n, ∃ q : PageReq, (s.slice n).reqs[0]? = some q ∧ (∀ r ∈ (s.slice n).reqs.take 0, r.page ≠ q.page) ∧ s.reqWaits q = false
        ∧ ∀ (j : Nat) (r : PageReq), (s.slice n).reqs[j]? = some r → j ≠ 0 → s.reqWaits r = false → (∀ x ∈ (s.slice n).reqs.take j, x.page ≠ r.page) →
          r.age s.frameNo < q.age s.frameNo ∨ r.age s.frameNo = q.age s.frameNo ∧ (q.turn (s.slice n).lastIn < r.turn (s.slice n).lastIn
            ∨ q.turn (s.slice n).lastIn = r.turn (s.slice n).lastIn ∧ 0 < j))
    ∧ (∃ s : State, ∃ (n i : Nat) (q : PageReq), (s.slice n).reqs[i]? = some q ∧ s.reqWaits q = true)
    ∧ (∃ s : State, ∃ n i, ∃ q : PageReq, (s.slice n).reqs[i]? = some q ∧ ∃ r ∈ (s.slice n).reqs.take i, r.page = q.page)
    ∧ (∃ s : State, ∃ n i q, s.turnOf n i = some q ∧ q.write = false ∧ (s.header q.page).state ≠ .relayout ∧ s.pageStalled q.page (s.header q.page) = false)
    ∧ (∃ s : State, ∃ n i q, s.turnOf n i = some q ∧ q.write = true ∧ s.pageStalled q.page (s.header q.page) = false
        ∧ s.retired (q.page * 64) = false ∧ (s.header q.page).mx4 = false ∧ (s.header q.page).state = .stable)
    ∧ (∃ s : State, ∃ n i q, s.turnOf n i = some q ∧ q.write = true ∧ s.pageStalled q.page (s.header q.page) = false
        ∧ s.retired (q.page * 64) = false ∧ (s.header q.page).mx4 = false ∧ (s.header q.page).state = .converting)
    ∧ (∃ s : State, ∃ n i q, s.turnOf n i = some q ∧ q.write = true ∧ s.pageStalled q.page (s.header q.page) = false
        ∧ (s.header q.page).state ≠ .relayout ∧ s.retired (q.page * 64) = true)
    ∧ (∃ s : State, ∃ n i q, s.turnOf n i = some q ∧ q.write = true ∧ s.pageStalled q.page (s.header q.page) = false
        ∧ s.retired (q.page * 64) = false ∧ (s.header q.page).mx4 = true ∧ (s.header q.page).state ≠ .relayout ∧ (s.slice n).waiting ≠ []) :=
  ⟨⟨kvPage 0 {} { reqs := [pageReq true] }, 0, _, rfl, by decide, by decide, fun j r h hj => by
      match j, hj with
      | j + 1, _ => simp [kvPage, State.slice, Map.getD, Map.get?] at h⟩, ⟨kvPage 0 { state := .relayout } { reqs := [pageReq true] }, 0, 0, _, rfl, by decide⟩,
    ⟨kvPage 0 {} { reqs := [pageReq true, pageReq false] }, 0, 1, _, rfl, by decide⟩,
    ⟨kvPage 0 {} { reqs := [pageReq false] }, 0, 0, _, rfl, rfl, by decide, by decide⟩,
    ⟨kvPage 0 {} { reqs := [pageReq true] }, 0, 0, _, rfl, rfl, by decide, by decide, rfl, rfl⟩,
    ⟨kvPage 0 { state := .converting } { reqs := [pageReq true] }, 0, 0, _, rfl, rfl, by decide, by decide, rfl, rfl⟩,
    ⟨retired40, home40, 0, pageReq true, by decide, rfl, by decide, by decide, by decide⟩,
    ⟨kvPage 0 { mx4 := true } { reqs := [pageReq true], waiting := [41] }, 0, 0, _, rfl, rfl, by decide, by decide, rfl, by decide, by decide⟩⟩

set_option maxRecDepth 20000 in
theorem witness_KeyValuePages_relayout :
    (∃ s : State, ∃ n key r a b, (s.slice n).waiting = key :: r ∧ (s.slice n).fp8.back = a :: b ∧ s.retired a = false ∧ a ∉ b ∧ s.headerStalled key = false)
    ∧ (∃ s : State, ∃ n key, (s.header key).state = .relayout ∧ (s.header key).step = 1 ∧ homeSlice (key * 64) = n
        ∧ s.pageStalled key (s.header key) = false ∧ s.newStalled (s.header key) = false)
    ∧ (∃ s : State, ∃ n key l q r, (s.header key).state = .relayout ∧ (s.header key).step = 2 ∧ s.headerStalled key = false ∧ s.newStalled (s.header key) = false
        ∧ (s.slice n).reqs = l ++ q :: r ∧ (∀ x ∈ l, PageReq.page x ≠ key) ∧ q.page = key)
    ∧ (∃ s : State, ∃ n key, (s.header key).state = .relayout ∧ (s.header key).step = 3 ∧ homeSlice (key * 64) = n
        ∧ s.headerStalled key = false) :=
  ⟨⟨kvPage 0 {} { waiting := [40], fp8 := { back := [2048] } }, 0, _, _, _, _, rfl, rfl, by decide, by decide, by decide⟩,
    ⟨kvPage 0 { state := .relayout, step := 1 } {}, _, 40, rfl, rfl, rfl, by decide, by decide⟩,
    ⟨kvPage 0 { state := .relayout, step := 2 } { reqs := [pageReq true] }, 0, 40, [], _, _, rfl, rfl, by decide, by decide, rfl, by decide, rfl⟩,
    ⟨kvPage 0 { state := .relayout, step := 3 } {}, _, 40, rfl, rfl, rfl, by decide⟩⟩

set_option maxRecDepth 20000 in
theorem witness_KeyValuePages_skimmer :
    (∃ s : State, ∃ n key h, Map.get? s.headers key = some h ∧ (s.slice n).lateTicks = [key] ∧ s.ages n (key, h) = true ∧ s.headerStalled key = false
        ∧ s.retired (key * 64) = false)
    ∧ (∃ s : State, ∃ n p key a b c d, (s.candidates n).find? (fun e => after e.1 (s.slice n).skimPos) = some (p, key)
        ∧ (s.slice n).conv = none ∧ (s.slice n).waiting = [] ∧ s.headerStalled key = false ∧ (s.slice n).mx4.back = a :: b
        ∧ (s.slice n).sc.back = c :: d ∧ s.retired a = false ∧ s.retired c = false)
    ∧ (∃ s : State, ∃ n p key, (s.candidates n).find? (fun e => after e.1 (s.slice n).skimPos) = none ∧ (s.candidates n).head? = some (p, key)) :=
  ⟨⟨(skimming (0, 0)).modSlice home40 fun y => { y with lateTicks := [40] }, home40, 40, { age := 9, pscale := 127 }, rfl, by decide, by decide, by decide, by decide⟩, ⟨skimming (0, 0), home40, (0, 8), 40, 4096, [], 8192, [], by decide, by decide, by decide, by decide, by decide, by decide, by decide, by decide⟩,
    ⟨skimming (5, 0), home40, (0, 8), 40, by decide, by decide⟩⟩

set_option maxRecDepth 20000 in
theorem witness_KeyValuePages_conversion :
    (∃ s : State, ∃ n key, (s.slice n).conv = some key ∧ (s.header key).state = .converting ∧ (s.header key).step = 0
        ∧ s.pageStalled key (s.header key) = false ∧ s.newStalled (s.header key) = false ∧ s.retired (key * 64) = false ∧ ∃ e, e < 4096 ∧ (s.badPageElem (s.header key) e = true ∨ s.pageCode (s.header key) e % 128 = 127))
    ∧ (∃ s : State, ∃ n key, (s.slice n).conv = some key ∧ (s.header key).state = .converting ∧ (s.header key).step = 2
        ∧ s.headerStalled key = false ∧ s.retired (key * 64) = false ∧ s.writeQueued key = false)
    ∧ (∃ s : State, ∃ n key, (s.slice n).conv = some key ∧ s.writeQueued key = true)
    ∧ (∃ s : State, ∃ n key, (s.slice n).conv = some key ∧ (s.header key).state = .converting ∧ s.headerStalled key = false ∧ s.retired (key * 64) = true
        ∧ (s.header key).step = 0 ∧ s.pageStalled key (s.header key) = false ∧ s.newStalled (s.header key) = false)
    ∧ (∃ s : State, ∃ n key, (s.slice n).conv = some key ∧ (s.header key).state = .converting ∧ s.headerStalled key = false ∧ s.retired (key * 64) = true
        ∧ (s.header key).step = 2 ∧ s.writeQueued key = false) :=
  ⟨⟨{ kvPage 0 { state := .converting, slot := 2048 } { conv := some 40 } with phys := [⟨2048, 127⟩] }, 0, 40, rfl, rfl, rfl, by decide, by decide, by decide, 0, by decide, by decide⟩,
    ⟨kvPage 0 { state := .converting, step := 2 } { conv := some 40 }, 0, 40, rfl, rfl, rfl, by decide, by decide, by decide⟩,
    ⟨kvPage home40 { state := .converting, step := 2 } { conv := some 40, reqs := [pageReq true] }, home40, 40, by decide, by decide⟩,
    ⟨kvPage home40 { state := .converting } { conv := some 40, retired := [0, 1] }, home40, 40, by decide, by decide, by decide, by decide, by decide, by decide, by decide⟩,
    ⟨kvPage home40 { state := .converting, step := 2 } { conv := some 40, retired := [0, 1] }, home40, 40, by decide, by decide, by decide, by decide, by decide, by decide⟩⟩

/-- A conversion of page 40, all zeros, at slice 0. -/
def convertingPage : State := kvPage 0 { state := .converting, slot := 2048 } { conv := some 40 }
theorem convertingPage_retired (a : Nat) : convertingPage.retired a = false := by
  unfold State.retired
  split
  · rename_i n _
    have h : (convertingPage.slice (n / 2)).retired = [] := by
      by_cases h0 : n / 2 = 0
      · rw [h0]; rfl
      · simp [convertingPage, kvPage, State.slice, Map.getD, Map.get?, Ne.symm h0]
    simp [h]
  · rfl
theorem witness_KeyValuePages_quantised :
    ∃ s : State, ∃ n key, (s.slice n).conv = some key ∧ (s.header key).state = .converting ∧ (s.header key).step = 0
        ∧ s.pageStalled key (s.header key) = false ∧ s.newStalled (s.header key) = false ∧ s.retired (key * 64) = false ∧ ∀ e, e < 4096 → s.badPageElem (s.header key) e = false ∧ s.pageCode (s.header key) e % 128 ≠ 127 := by
  refine ⟨convertingPage, 0, 40, rfl, rfl, rfl, by decide, by decide, convertingPage_retired _, fun e _ => ⟨?_, ?_⟩⟩
  · have hb : convertingPage.badPhys = [] := rfl
    have hm : (convertingPage.header 40).mx4 = false := rfl
    simp [State.badPageElem, State.badByte, convertingPage_retired, hb, hm]
  · have h : (Mem.read convertingPage.phys ((convertingPage.header 40).codeAddr e)) = 0 := rfl
    have hm : (convertingPage.header 40).mx4 = false := rfl
    simp [State.pageCode, h, hm]

/-- A shipped function of core 0 by slot 5. -/
def ship (ta : Word) (seq : Nat) : Ship :=
  { core := 0, level := 0, asid := 0, ta := ta, phys := 0, op1 := 3, op2 := 0, slot := 5, width := 32, id := none, msg := none, seq := seq }
/-- Base-die processor 0 holds shipped functions. -/
def shipped (l : List Ship) : State := { at0 with bdps := [(0, l)] }
/-- Slice 0 in state y. -/
def slice0 (y : Slice) : State := { at0 with slices := [(0, y)] }

set_option maxRecDepth 20000 in
theorem witness_EdgeSliceEvents :
    (∃ s : State, ∃ p i : Nat, ∃ q : Ship, (Map.getD s.bdps p [])[i]? = some q ∧ i < 64 ∧ s.locStalled (s.shipLoc q) = false ∧ s.walkWaits q.asid q.ta = false
        ∧ (∀ r ∈ s.ships, r.core = q.core → q.samePage r = true → q.seq ≤ r.seq)
        ∧ (∀ r ∈ (Map.getD s.bdps p []).take i, (s.shipLoc r).phys / 64 ≠ (s.shipLoc q).phys / 64)
        ∧ ∃ t, s.lookUp (homeSlice (s.shipLoc q).phys) q.asid (s.shipLoc q).entry = some t)
    ∧ (∃ s : State, ∃ q : Ship, (Map.getD s.bdps 0 [])[0]? = some q ∧ s.locStalled (s.shipLoc q) = false ∧ s.walkWaits q.asid q.ta = false
        ∧ (∀ r ∈ s.ships, r.core = q.core → q.samePage r = true → q.seq ≤ r.seq) ∧ 64 ≤ (s.slice (homeSlice (s.shipLoc q).phys)).misses.length)
    ∧ (∃ s : State, (s.slice 0).misses.length < 64 ∧ (3, (5 : Word)) ∈ (s.slice 0).cached) ∧ (∃ s : State, (s.slice 0).misses.length < 64 ∧ (s.slice 0).walkers.length < 8)
    ∧ (∃ s : State, (s.slice 0).misses.length < 64 ∧ (s.slice 0).cached = [] ∧ (∀ r ∈ (s.slice 0).walkers ++ (s.slice 0).misses, r.asid ≠ 3) ∧ 8 ≤ (s.slice 0).walkers.length)
    ∧ (∃ s : State, ∃ p i : Nat, ∃ q r : Ship, (Map.getD s.bdps p [])[i]? = some q ∧ r ∈ s.ships ∧ r.core = q.core ∧ q.samePage r = true ∧ r.seq < q.seq)
    ∧ (0 < 8 ∧ 5 < 2 ^ 8 ∧ 255 < 2 ^ 8) ∧ (255 < 2 ^ 16 ∧ 255 < 2 ^ 32 ∧ 255 < 2 ^ 64)
    ∧ (∃ s : State, ∃ q x, s.memWf = true ∧ s.translate (Ship.asid q) q.ta .both = .ok x
        ∧ slotPrim (Map.getD s.vale.routines (q.asid * 64 + q.slot) 0) ≠ 20
        ∧ s.badTarget x (slotWidth (Map.getD s.vale.routines (q.asid * 64 + q.slot) 0) / 8) = false
        ∧ slotFits (Map.getD s.vale.routines (q.asid * 64 + q.slot) 0) (s.root q.asid (taRoot q.ta)).esizeCode = true) :=
  ⟨⟨shipped [ship 0 1], 0, 0, _, rfl, by decide, by decide, by decide, by decide, by decide, _, rfl⟩,
    ⟨{ shipped [ship 0 1] with slices := [(homeSlice ((shipped []).shipLoc (ship 0 1)).phys, { misses := List.replicate 64 ⟨0, 64, 0⟩ })] }, _, rfl, by decide, by decide, by decide, by decide⟩,
    ⟨slice0 { cached := [(3, 5)] }, by decide⟩, ⟨slice0 {}, by decide⟩, ⟨slice0 { walkers := List.replicate 8 ⟨0, 64, 0⟩ }, by decide⟩,
    ⟨shipped [ship 0 1, ship 0 0], 0, 0, _, ship 0 0, rfl, by decide, rfl, by decide, by decide⟩,
    by decide, by decide, ⟨shipping 5, ship (24 * 2 ^ 51) 1, _, by decide, rfl, by decide, by decide, by decide⟩⟩

theorem witness_EdgeSliceEvents_refresh :
    ((slice0 {}).slice 0).privOn.getLsbD 1 = false
    ∧ (∃ s : State, (s.slice 0).priv.getLsbD 0 = true ∧ (s.slice 0).privOn.getLsbD 0 = true ∧ (Map.getD (s.slice 0).refresh 0 {}).debt < 8
        ∧ -8 < (Map.getD (s.slice 0).refresh 0 {}).debt ∧ s.channelBusy 0 0 = false)
    ∧ (∃ s : State, (s.slice 0).privOn.getLsbD 1 = true ∧ (Map.getD (s.slice 0).refresh 1 {}).debt = 8)
    ∧ (∃ s : State, (s.slice 0).privOn.getLsbD 0 ≠ (s.slice 0).priv.getLsbD 0)
    ∧ 1 ∉ (at0.slice 0).retired ∧ (∃ s : State, 1 ∈ (s.slice 0).stalled)
    ∧ (∃ s : State, ∃ x r, (s.slice 0).walkers = x :: r ∧ (s.slice 0).misses = [])
    ∧ (∃ s : State, ∃ x r i m, (s.slice 0).walkers = x :: r ∧ oldestMiss s.frameNo (s.slice 0).misses 0 none = some i ∧ (s.slice 0).misses[i]? = some m)
    ∧ (∃ s : State, ∃ x r d e, (s.slice 0).walkers = x :: r ∧ s.walk (WalkReq.asid x) x.ta = .ok (d, e)) :=
  ⟨by decide, ⟨slice0 { priv := 1, privOn := 1 }, by decide⟩, ⟨slice0 { priv := 2, privOn := 2, refresh := [(1, { debt := 8 })] }, by decide⟩,
    ⟨slice0 { priv := 1 }, by decide⟩, by decide, ⟨slice0 { stalled := [1] }, by decide⟩, ⟨slice0 { walkers := [⟨0, 0, 0⟩] }, _, _, rfl, rfl⟩,
    ⟨slice0 { walkers := [⟨0, 0, 0⟩], misses := [⟨0, 64, 0⟩] }, _, _, 0, _, rfl, rfl, rfl⟩,
    ⟨{ tree32 with slices := [(0, { walkers := [⟨0, 24 * 2 ^ 51, 0⟩] })] }, _, _, _, _, rfl, rfl⟩⟩

set_option maxRecDepth 20000 in
theorem witness_MessageAndFabricEvents_arrival :
    (∃ s : State, ∃ m, s.net.msgs[0]? = some m ∧ s.mayLeave 0 m = true
        ∧ ∀ j q, s.net.msgs[j]? = some q → j ≠ 0 → q.exitKey = m.exitKey → s.mayLeave j q = true → q.age s.mod.frame < m.age s.mod.frame)
    ∧ (∃ s : State, ∃ m, s.net.msgs[0]? = some m ∧ s.mayLeave 0 m = false)
    ∧ (∃ s : State, ∃ m, s.leaving 0 = some m ∧ m.load = none ∧ (s.core m.dst).mailbox.length < (s.core m.dst).mbxcfg)
    ∧ (∃ s : State, ∃ m, s.leaving 0 = some m ∧ m.load = none ∧ (s.core m.dst).mbxcfg ≤ (s.core m.dst).mailbox.length)
    ∧ (∃ s : State, ∃ m q, s.leaving 0 = some m ∧ m.load = some (.page q)) ∧ (∃ s : State, ∃ m q, s.leaving 0 = some m ∧ m.load = some (.ship q))
    ∧ (∃ s : State, ∃ m q, s.leaving 0 = some m ∧ m.load = some (.amo q)) ∧ (∃ s : State, ∃ m, s.leaving 0 = some m ∧ m.load = some .accept)
    ∧ (∃ s : State, ∃ m, s.leaving 0 = some m ∧ m.load = some .refused)
    ∧ (∃ s : State, ∃ e, (s.core 0).mailbox[0]? = some e ∧ e.written = false ∧ e.flits = [] ∧ cwVstamp e.msg.cw = false
        ∧ ∀ j, j < e.msg.data.length / 64 → s.lockedLocal (clusterOf 0) (cwDblk e.msg.cw * 64 + 64 * j) 64 true = false) :=
  ⟨⟨flying [msgAt 0], _, rfl, by decide, fun j q h hj => by
      match j, hj with
      | j + 1, _ => simp [flying] at h⟩, ⟨flying [msgAt 1], _, rfl, by decide⟩,
    ⟨flying [msgAt 0], msgAt 0, by decide +kernel, rfl, by decide⟩,
    ⟨(flying [msgAt 0]).modCore 0 fun k => { k with mbxcfg := 1, mailbox := [{ msg := msgAt 0, written := true }] }, msgAt 0, by decide +kernel, rfl, by decide⟩,
    ⟨bringing (.page (pageReq true)), msgWith (.page (pageReq true)), _, by decide +kernel, rfl⟩, ⟨bringing (.ship (ship 0 1)), msgWith (.ship (ship 0 1)), _, by decide +kernel, rfl⟩,
    ⟨bringing (.amo (amoAt none)), msgWith (.amo (amoAt none)), _, by decide +kernel, rfl⟩, ⟨bringing .accept, msgWith .accept, by decide +kernel, rfl⟩,
    ⟨bringing .refused, msgWith .refused, by decide +kernel, rfl⟩,
    ⟨core0 fun k => { k with mailbox := [{ msg := msgAt 0, written := false }] }, _, rfl, rfl, rfl, by decide, by decide⟩⟩

set_option maxRecDepth 20000 in
theorem witness_MessageAndFabricEvents_dispatch :
    (∃ s : State, ∃ f a, bestArrival ((s.arrivals 0).filter fun q => (s.core 0).mayStart q.2.level) none = some (f, a) ∧ s.counting 0 = true)
    ∧ (∃ s : State, ∃ r, s.net.retires[0]? = some r) ∧ (∃ s : State, ∃ c p, s.net.closes[0]? = some (c, p) ∧ p < 16)
    ∧ (∃ s : State, ∃ g, Map.get? s.gangs 0 = some g ∧ g.armed.getLsbD 15 = true ∧ g.image = none ∧ ∀ c ∈ g.cores, s.phaseOf c 15 = 0)
    ∧ (∃ s : State, ∃ c w, s.net.notices[0]? = some (c, w) ∧ c < 6144 ∧ (s.core c).notices.length < 8)
    ∧ (∃ s : State, ∃ r d m, s.net.msgs = [] ++ m :: [] ∧ m.nextChannel = some (r, d))
    ∧ (∃ s : State, ∃ r d m x, s.net.msgs = [m] ++ x :: [] ∧ m.nextChannel = some (r, d) ∧ x.nextChannel = some (r, d)
        ∧ m.age s.mod.frame = x.age s.mod.frame
        ∧ turnDistance (Map.getD s.net.lastIn (outputKey r d) 6) x.input < turnDistance (Map.getD s.net.lastIn (outputKey r d) 6) m.input)
    ∧ at0.mod.snapDue = none
    ∧ (∃ s : State, ∃ q, (s.ctx 0 0).pend[0]? = some q ∧ q.ready = none ∧ q.open_ = 0 ∧ q.dest = .scalar 5)
    ∧ (∃ s : State, ∃ pc, s.wantsBlock (coreIn 0 0) 0 = some pc ∧ ∀ i, i < 8 → i ≠ 0 → s.wantsBlock (coreIn 0 i) 0 = none) :=
  ⟨⟨core0 fun k => { k with mailbox := [{ msg := msgAt 0, written := true }], dispatch := [(0, BitVec.ofNat 32 (2 ^ 31 + 2 ^ 29 + 0x100))] }, _, _, rfl, by decide⟩,
    ⟨{ at0 with net := { at0.net with retires := [{ router := 0, phase := 0 }] } }, _, rfl⟩, ⟨{ at0 with net := { at0.net with closes := [(0, 15)] } }, _, _, rfl, by decide⟩,
    ⟨{ at0 with gangs := [(0, { launchedGang with armed := BitVec.ofNat 16 (2 ^ 15) })] }, _, rfl, by decide, rfl, by decide⟩,
    ⟨{ at0 with net := { at0.net with notices := [(0, 1, 2, 3)] } }, _, _, rfl, by decide, by decide⟩, ⟨flying [msgAt 1], _, _, _, rfl, rfl⟩,
    ⟨flying [msgAt 1, { msgAt 1 with input := 1 }], _, _, _, _, rfl, rfl, by decide, by decide, by decide⟩, rfl,
    ⟨ctx0 fun x => { x with pend := [pend5 none] }, _, rfl, rfl, rfl, rfl⟩, ⟨at0, _, rfl, by decide⟩⟩

/-- An engine operation of core 0: bfill under a tree address of depth k of root 0. -/
def filling (k : Word) (n : Nat) : EngineOp := { id := 1, core := 0, level := 0, fn := .bfill, src := k * 2 ^ 51, ctrl := 0, unit := n }
/-- A lift of a page of root 0. -/
def lifting : EngineOp := { filling 18 0 with fn := .lift }

set_option maxRecDepth 20000 in
theorem witness_EngineUnits :
    (∃ s : State, ∃ o, s.engines[0]? = some o ∧ s.engineMoves o = true ∧ unitCount (taDepth o.src) ≤ o.unit)
    ∧ (∃ s : State, ∃ o t, s.engines[0]? = some o ∧ s.engineMoves o = true ∧ o.unit < unitCount (taDepth o.src) ∧ o.fn.isPft = false
        ∧ s.runUnit (s.engineAsid o) o 0 = .done t 0)
    ∧ (∃ s : State, ∃ o t k, s.engines[0]? = some o ∧ s.engineMoves o = true ∧ o.unit < unitCount (taDepth o.src) ∧ o.fn.isPft = false
        ∧ s.runUnit (s.engineAsid o) o 1 = .done t k ∧ k ≠ 0)
    ∧ (∃ s : State, ∃ o t side f ta, s.engines[0]? = some o ∧ s.engineMoves o = true ∧ o.unit < unitCount (taDepth o.src) ∧ o.fn.isPft = false
        ∧ s.runUnit (s.engineAsid o) o 0 = .stop t side f ta)
    ∧ (∃ s : State, ∃ o, s.engines[0]? = some o ∧ s.engineMoves o = true ∧ o.unit < unitCount (taDepth o.src) ∧ o.fn.isPft = false
        ∧ s.runUnit (s.engineAsid o) o 0 = .wait)
    ∧ (∃ s : State, ∃ o t k, s.engines[0]? = some o ∧ s.engineMoves o = true ∧ o.unit < unitCount (taDepth o.src) ∧ o.fn.isPft = true
        ∧ s.runPage (s.engineAsid o) o = .done t k)
    ∧ (∃ s : State, ∃ o t side f ta, s.engines[0]? = some o ∧ s.engineMoves o = true ∧ o.unit < unitCount (taDepth o.src) ∧ o.fn.isPft = true
        ∧ s.runPage (s.engineAsid o) o = .stop t side f ta)
    ∧ (∃ s : State, ∃ q g p, s.net.outbox[0]? = some q ∧ s.gangOf q.core = some g ∧ g.toPhys q.dst = some p ∧ (s.core q.core).mayInject q.tc 1 = true) :=
  ⟨⟨{ tree32 with engines := [filling 24 1] }, _, rfl, by decide, by decide⟩,
    ⟨{ tree32 with engines := [filling 24 0] }, _, _, rfl, by decide, by decide, rfl, rfl⟩,
    ⟨{ tree32 with engines := [filling 23 0] }, _, _, 3, rfl, by decide, by decide, rfl, rfl, by decide⟩,
    ⟨{ at0 with engines := [filling 24 0] }, _, _, _, _, _, rfl, by decide, by decide, rfl, rfl⟩,
    ⟨{ tree32 with engines := [filling 24 0], slices := [(0, { stalled := [1] })] }, _, rfl, by decide, by decide, rfl, rfl⟩,
    ⟨{ paged 1 3 with engines := [lifting] }, _, _, _, rfl, by decide, by decide, rfl, rfl⟩,
    ⟨{ tree32 with engines := [lifting] }, _, _, _, _, _, rfl, by decide, by decide, rfl, rfl⟩,
    ⟨{ at0 with net := { at0.net with outbox := [{ core := 0, level := 0, word := 0, cls := 1, tc := 0, dst := 1, phase := 0, w := [] }] } }, _, _, _, rfl, rfl, rfl,
      by decide⟩⟩

/-- How core 0 stopped, its column replaced since or not. -/
def stopped (remap : Bool) : StopRec := { level := 0, info := { cause := 1 }, pc := 0, remap := remap }
/-- Core 0 stopped, with the steward's record of it. -/
def recorded (remap : Bool) (finding : Nat) (marked : Bool) : State := core0 fun k =>
  { k with
    stop := some (stopped remap)
    record := some { banks := k.ctx, inq := [], outq := [], mailbox := [], refusals := [], notices := [], stop := stopped remap, regs := k.latch 0, finding := finding, marked := marked } }

set_option maxRecDepth 20000 in
theorem witness_DueTraps :
    (∃ s : State, ∃ t, s.counting 0 = true ∧ (s.core 0).stop = none ∧ (s.ctx 0 0).pend = [] ∧ (s.ctx 0 0).op = .trap t true)
    ∧ (∃ s : State, ∃ t, s.counting 0 = true ∧ (s.core 0).stop = none ∧ (s.ctx 0 0).pend = [] ∧ (s.ctx 0 0).op = .trap t false ∧ (s.ctx 0 0).takeable = none)
    ∧ (∃ s : State, ∃ t r, s.counting 0 = true ∧ (s.core 0).stop = none ∧ (s.ctx 0 0).pend = [] ∧ (s.ctx 0 0).op = .none ∧ (s.core 0).halting = none
        ∧ (s.ctx 0 0).st = .ready ∧ (s.ctx 0 0).td = false ∧ (s.ctx 0 0).rtc = false ∧ (s.ctx 0 0).tvec ≠ 0 ∧ (s.ctx 0 0).pendTraps = t :: r
        ∧ (s.ctx 0 0).wait = .none)
    ∧ (∃ s : State, ∃ q t r, s.counting 0 = true ∧ (s.core 0).stop = none ∧ (s.ctx 0 0).pend = [] ∧ (s.ctx 0 0).op = .trap q false ∧ (s.core 0).halting = none
        ∧ (s.ctx 0 0).st = .ready ∧ (s.ctx 0 0).td = false ∧ (s.ctx 0 0).rtc = false ∧ (s.ctx 0 0).tvec ≠ 0 ∧ (s.ctx 0 0).pendTraps = t :: r
        ∧ (s.ctx 0 0).wait = .none) :=
  ⟨⟨ctx0 fun x => { x with op := .trap { cause := 1 } true }, _, by decide, rfl, rfl, rfl⟩,
    ⟨ctx0 fun x => { x with op := .trap { cause := 1 } false }, _, by decide, rfl, rfl, rfl, by decide⟩,
    ⟨ctx0 fun x => { x with tvec := 0x100, pendTraps := [{ cause := 0x0D }] }, _, _, by decide, rfl, rfl, rfl, rfl, rfl, rfl, rfl, by decide, rfl, rfl⟩,
    ⟨ctx0 fun x => { x with tvec := 0x100, op := .trap { cause := 1 } false, pendTraps := [{ cause := 0x0D }] }, _, _, _, by decide, rfl, rfl, rfl, rfl, rfl, rfl, rfl,
      by decide, rfl, rfl⟩⟩

set_option maxRecDepth 20000 in
theorem witness_StewardActions :
    (∃ s : State, ∃ r, (s.core 0).stop = some r ∧ (s.core 0).record = none)
    ∧ (∃ s : State, ∃ r q, (s.core 0).stop = some r ∧ (s.core 0).record = some q ∧ q.finding = 1 ∧ q.marked = true)
    ∧ (∃ s : State, ∃ r q, (s.core 0).stop = some r ∧ (s.core 0).record = some q ∧ q.finding = 2 ∧ r.remap = true)
    ∧ (∃ s : State, ∃ r q, (s.core 0).stop = some r ∧ (s.core 0).record = some q ∧ q.finding = 0 ∧ ∀ g, s.gangOf 0 = some g → g.barWait = [])
    ∧ (∃ s : State, ∃ r q, (s.core 0).stop = some r ∧ (s.core 0).record = some q ∧ q.finding = 2 ∧ r.remap = false ∧ 2 ≤ Map.getD s.mod.spares (dieOf 0) 0
        ∧ ∀ g, s.gangOf 0 = some g → g.barWait = [])
    ∧ (Map.getD State.reset.mod.spares (0 / 32) 0 < 2 ∧ ∀ y, y < 48 → (State.reset.core (y * 128 + 0)).gang = none)
    ∧ (17 < 18 ∧ ((recorded false 1 false).core 0).failedBanks = [] ∧ ((recorded false 1 false).core 0).record ≠ none) :=
  ⟨⟨core0 fun k => { k with stop := some (stopped false) }, _, rfl, rfl⟩, ⟨recorded false 1 true, _, _, rfl, rfl, rfl, rfl⟩, ⟨recorded true 2 false, _, _, rfl, rfl, rfl, rfl⟩,
    ⟨recorded false 0 false, _, _, rfl, rfl, rfl, by intro g h; cases h; rfl⟩,
    ⟨{ recorded false 2 false with mod := { at0.mod with spares := [(dieOf 0, 2)] } }, _, _, rfl, rfl, rfl, rfl, by decide, by intro g h; cases h; rfl⟩,
    by decide, by decide⟩

/-- A job of one gang of one cluster. -/
def job : Job :=
  { asid := 0, queue := 0, band := 0, diemask := 1, xgang := false, ngang := 1, height := 1, width := 1, xumask := 0, code := 0, imageTA := 0, poolOff := 0
    poolN := 0, frameq := 0, args := [], need := [], doneCtr := 0, hdr := {}, toPlace := 1, live := 1 }

/-- A state with the root and the block of `tree32`, and no channel or granule lost. -/
structure OneBlock (s : State) : Prop where
  roots : s.roots = tree32.roots
  entries : s.entries = tree32.entries
  slices : s.slices = []
  good : s.badPhys = []
theorem OneBlock.retired {s : State} (o : OneBlock s) (a : Nat) : s.retired a = false := by
  unfold State.retired
  split
  · simp [State.slice, o.slices, Map.getD, Map.get?]
  · rfl
theorem OneBlock.root {s : State} (o : OneBlock s) (k r : Nat) : s.root k r = tree32.root k r := by simp only [State.root, o.roots]
set_option maxRecDepth 20000 in
/-- Every byte of an object at tree address 0 can be read, as far as the block reaches. -/
theorem OneBlock.objectByte {s : State} (o : OneBlock s) (b : Nat) (h : b < 2 ^ 44) : ∃ x, s.objectByte 0 0 b = some x := by
  have hm : b * 8 / 32 < 2 ^ 42 := by omega
  have ht : (taOf 0 24 (b * 8 / 32)).toNat = 24 * 2 ^ 51 + b * 8 / 32 := by simp [taOf, w64]; omega
  have hp : taPath (taOf 0 24 (b * 8 / 32)) = b * 8 / 32 := by simp only [taPath, ht]; omega
  have hr : taRoot (taOf 0 24 (b * 8 / 32)) = 0 := by simp only [taRoot, ht]; omega
  have hd : taDepth (taOf 0 24 (b * 8 / 32)) = 24 := by simp only [taDepth, ht]; omega
  have hc : checkTA (taOf 0 24 (b * 8 / 32)) = none := by
    have : (24 * 2 ^ 51 + b * 8 / 32) / 2 ^ 48 % 8 = 0 := by omega
    simp [checkTA, hp, hd, ht, cutPath]; omega
  have hw : s.walkFrom (tree32.root 0 0) (b * 8 / 32) 6 (tree32.root 0 0).tbase
      = .ok { key := 64, w0 := 0, w1 := 2 ^ 63 + 3 * 2 ^ 60 + 8, level := 1 } := by
    have hk : entryKey 1 (b * 8 / 32) 1 = 64 := by simp only [entryKey]; omega
    have hb : (tree32.root 0 0).tbase = 1 := rfl
    rw [hb]; unfold State.walkFrom; simp only [hk, o.retired, o.entries]; rfl
  have hx : s.translate 0 (taOf 0 24 (b * 8 / 32)) .read = .ok (locate 0 (tree32.root 0 0)
      { key := 64, w0 := 0, w1 := 2 ^ 63 + 3 * 2 ^ 60 + 8, level := 1 } (taOf 0 24 (b * 8 / 32))) := by
    have hv : (tree32.root 0 0).valid = true := rfl
    have hmf : (tree32.root 0 0).malformed = false := by decide
    simp only [State.translate, State.walk, o.root, hc, hr, hp, hv, hmf, hw]
    rfl
  have he : (tree32.root 0 0).esize = 32 := rfl
  have hz : taPath 0 = 0 := rfl
  have hq : taRoot 0 = 0 := rfl
  have hs : ∀ e t, (locate 0 (tree32.root 0 0) e t).sector = none := fun _ _ => rfl
  have hh : ∀ t, (locate 0 (tree32.root 0 0) { key := 64, w0 := 0, w1 := 2 ^ 63 + 3 * 2 ^ 60 + 8, level := 1 } t).headed = none := fun _ => rfl
  unfold State.objectByte
  simp only [o.root, hq, he, hz, Nat.zero_add, hx]
  rw [if_neg (by omega), if_neg (by simp only [State.badLoc, State.stale, o.retired, hs, o.good, hh]; simp)]
  exact ⟨_, rfl⟩
theorem OneBlock.objectBytes {s : State} (o : OneBlock s) (n off : Nat) (h : off + n ≤ 2 ^ 44) : ∃ l, s.objectBytes 0 0 off n = some l := by
  induction n generalizing off with
  | zero => exact ⟨[], rfl⟩
  | succ n ih =>
    obtain ⟨x, hx⟩ := o.objectByte off (by omega)
    obtain ⟨l, hl⟩ := ih (off + 1) (by omega)
    exact ⟨x :: l, by simp only [State.objectBytes, hx, hl]⟩
theorem OneBlock.segmentTable {s : State} (o : OneBlock s) : ∃ b, s.segmentTable 0 0 1 = some b :=
  o.objectBytes (Config.segmentEntryBytes.val * 1) 64 (by have := Config.segmentEntryBytes.isLt; omega)
theorem OneBlock.segments {s : State} (o : OneBlock s) : ∃ seg, (s.segmentTable 0 0 1).bind (fun b => s.objectSegments 0 0 b 0 1) = some (seg :: []) := by
  obtain ⟨b, hb⟩ := o.segmentTable
  obtain ⟨l, hl⟩ := o.objectBytes (segmentPlace b 0).2.1 (segmentPlace b 0).2.2 (by simp only [segmentPlace]; omega)
  exact ⟨{ addr := (segmentPlace b 0).1, bytes := l }, by
    simp only [hb, Option.bind_some, State.objectSegments, State.objectSegment, hl, Option.map_some]⟩

/-- A gang whose code object lies in such a tree is to start. -/
def starting : State := { tree32 with gangs := [(0, {})] }
theorem witness_GangStart : ∃ s : State, ∃ g seg later tables, Map.get? s.gangs 0 = some g ∧ g.st = .allocated ∧ 0 ∉ g.begun ∧ 0 ∈ g.clusters
    ∧ (s.segmentTable g.asid g.code g.hdr.nseg).bind (fun b => s.objectSegments g.asid g.code b 0 g.hdr.nseg) = some (seg :: later)
    ∧ s.objectTables g.asid g.code g.hdr g.xumask (count 0 16) = some tables := by
  obtain ⟨seg, h⟩ := OneBlock.segments (s := starting) ⟨rfl, rfl, rfl, rfl⟩
  exact ⟨starting, {}, seg, [], [], rfl, rfl, by decide, by decide, h, rfl⟩

set_option maxRecDepth 20000 in
theorem witness_GangLifeCycle :
    (∃ s : State, ∃ i j cx cy, firstJob (s.queued.filterMap fun q =>
        if s.needsMet q.2 && decide (0 < q.2.toPlace) then (s.originFor q.2).map fun o => (q.1, q.2, o.1, o.2) else none) = some (i, j, cx, cy))
    ∧ (∃ s : State, ∃ cx cy, s.originFor job = some (cx, cy))
    ∧ (∃ s : State, ∃ i j, (s.queued.filter fun x => decide (x.2.asid = 0) && decide (x.2.queue = 0))[0]? = some (i, j) ∧ j.band < 3
        ∧ max j.posted j.promoted + 8 * s.vale.period * 140000 ≤ s.mod.frame)
    ∧ (∃ s : State, ∃ x r, s.memWf = true ∧ (s.cluster 0).segments = x :: r)
    ∧ (∃ s : State, ∃ g, Map.get? s.gangs 0 = some g ∧ g.st = .allocated ∧ ∀ k ∈ g.clusters, k ∈ g.begun)
    ∧ (∃ s : State, ∃ g j, (s.gangs.map (·.1)).Nodup ∧ Map.get? s.gangs 0 = some g ∧ s.jobFailed g = false ∧ g.st = .running ∧ g.image = none
        ∧ (∀ c ∈ g.cores, (s.core c).complete = true) ∧ s.inFlight g = false ∧ Map.get? s.vale.jobs g.job = some j ∧ j.toPlace = 0
        ∧ ∀ e ∈ s.gangs, e.1 ≠ 0 → e.2.job ≠ g.job)
    ∧ (∃ s : State, ∃ g, Map.get? s.gangs 0 = some g ∧ s.jobFailed g = true ∧ g.image = none ∧ s.writesLeft g = true)
    ∧ (∃ s : State, ∃ g, Map.get? s.gangs 0 = some g ∧ s.jobFailed g = true ∧ g.image = none ∧ s.writesLeft g = false) :=
  ⟨⟨{ State.reset with vale := { jobs := [(16, job)], queue := [16] } }, _, _, _, _, rfl⟩, ⟨State.reset, _, _, rfl⟩,
    ⟨{ State.reset with vale := { jobs := [(16, job)], queue := [16] }, mod := { frame := 11200000 } }, _, _, rfl, by decide, by decide⟩,
    ⟨home0 fun k => { k with segments := [{ addr := 0x3FFFFF, bytes := [1, 2] }] }, _, _, by decide, rfl⟩,
    ⟨{ at0 with gangs := [(0, { begun := [0] })] }, _, rfl, rfl, by decide⟩,
    ⟨{ ctx0 (fun x => { x with st := .idle }) with vale := { jobs := [(0, { job with toPlace := 0 })] } }, _, _, by decide, rfl, by decide, rfl, rfl, by decide, by decide, rfl,
      rfl, by decide⟩,
    ⟨{ shipped [ship 0 0] with vale := { jobs := [(0, { job with fault := true })] } }, _, rfl, by decide, rfl, by decide⟩,
    ⟨{ at0 with vale := { jobs := [(0, { job with fault := true })] } }, _, rfl, by decide, rfl, by decide⟩⟩

set_option maxRecDepth 20000 in
theorem witness_GangPreemption :
    (∃ s : State, ∃ g, Map.get? s.gangs 0 = some g ∧ g.st = .running)
    ∧ (∃ s : State, ∃ g, s.gangOf 0 = some g ∧ g.st = .preempting ∧ (s.core 0).halting = none)
    ∧ (∃ s : State, ∃ h, (s.core 0).halting = some h ∧ h + s.rtcHaltCycles 0 ≤ (s.core 0).cycle ∧ (s.core 0).lateHalt = false ∧ (s.ctx 0 0).rtc = true
        ∧ (s.ctx 0 0).st = .ready)
    ∧ (∃ s : State, ∃ g, Map.get? s.gangs 0 = some g ∧ s.maySave 0 g = true)
    ∧ (∃ s : State, ∃ g m, Map.get? s.gangs 0 = some g ∧ g.image = some m ∧ g.st = .parked ∧ s.fits 31 23 g.width g.height = true ∧ s.jobFailed g = false
        ∧ ∀ q ∈ m.cores, q.2.stop = none)
    ∧ (∃ s : State, 0 < s.mod.clock + frameNs ∧ ∀ g ∈ [0], s.runs g = true) :=
  ⟨⟨at0, _, rfl, rfl⟩, ⟨{ at0 with gangs := [(0, { launchedGang with st := .preempting })] }, _, rfl, rfl, rfl⟩,
    ⟨(core0 fun k => { k with halting := some 40, cycle := 600 }).modCtx 0 0 fun x => { x with rtc := true }, _, rfl, by decide, rfl, rfl, rfl⟩,
    ⟨{ at0 with gangs := [(0, { launchedGang with st := .preempting })], cores := (count 0 8).foldl (fun m i => Map.set m (coreIn 0 i) { Core.idle with gang := some 0, halting := some 0 }) [] },
      _, rfl, by decide⟩,
    ⟨{ State.reset with gangs := [(0, { st := .parked, image := some { cores := [], clusters := [], mem := [], guards := [], leases := [], engines := [], outbox := [], routes := [] } })] },
      _, _, rfl, rfl, rfl, by decide, by decide, by decide⟩, ⟨at0, by decide, by decide⟩⟩

/-- The package is up: Vale runs or is about to. -/
def packaged (m : Module) : State := { State.reset with mod := m }
/-- Every block is READY and the firmware verified. -/
def upModule : Module := { fwok := true, ready := List.range 7162 }

theorem witness_ModuleEvents_ports :
    (∃ s : State, ∃ y, (s.soPort 0).width ≠ 0 ∧ (s.soPort 0).send 0 = some y)
    ∧ (∃ p : SoPort, p.width = 0) ∧ (∃ p : SoPort, 4096 ≤ p.unacked.length) ∧ (∃ p : SoPort, p.width ≠ 0 ∧ p.unacked.length < 4096)
    ∧ (∃ s : State, ∃ (h : BitVec 64) (x : BitVec 512) (c : BitVec 32), (s.soPort 0).width ≠ 0 ∧ c = flitCrc h x ∧ h.toNat % 2 ^ 24 = (s.soPort 0).expect)
    ∧ (∃ s : State, ∃ (h : BitVec 64) (x : BitVec 512) (c : BitVec 32), (s.soPort 0).width ≠ 0 ∧ c = flitCrc h x ∧ h.toNat % 2 ^ 24 ≠ (s.soPort 0).expect)
    ∧ (∃ s : State, ∃ (h : BitVec 64) (x : BitVec 512) (c : BitVec 32), (s.soPort 0).width ≠ 0 ∧ c ≠ flitCrc h x)
    ∧ (∃ s : State, (s.soPort 0).width ≠ 0 ∧ (s.soPort 0).unacked ≠ [])
    ∧ (∃ s : State, (s.soPort 0).width ≠ 0 ∧ 3 ∈ (s.soPort 0).due ∧ (s.soPort 0).replaying = none ∧ (s.soPort 0).awaited = none)
    ∧ (∃ s : State, (s.soPort 0).replaying ≠ none) ∧ (∃ s : State, (s.soPort 0).awaited ≠ none)
    ∧ (∃ p : SoPort, ∃ l x r a b, p.unacked = l ++ x :: r ∧ x.1 = 3 ∧ (∀ y ∈ l, y.1 ≠ 3) ∧ p.replaying = some (a, b) ∧ ∀ y ∈ r, y.1 ≠ b)
    ∧ (∃ p : SoPort, ∃ a b, (fromSeq 0 p.unacked).head? = some a ∧ (fromSeq 0 p.unacked).getLast? = some b) :=
  ⟨⟨at0, _, by decide, rfl⟩, ⟨{ width := 0 }, rfl⟩, ⟨{ unacked := List.replicate 4096 (0, 0, 0) }, by rw [List.length_replicate]⟩, ⟨{}, by decide⟩,
    ⟨at0, 0, 0, _, by decide, rfl, by decide⟩, ⟨at0, 1, 0, _, by decide, rfl, by decide⟩, ⟨at0, 0, 0, flitCrc 0 0 + 1, by decide, by simp⟩,
    ⟨{ at0 with ports := [(0, { unacked := [(0, 0, 0)] })] }, by decide⟩, ⟨{ at0 with ports := [(0, { due := [3] })] }, by decide⟩,
    ⟨{ at0 with ports := [(0, { replaying := some (1, 2) })] }, by decide⟩, ⟨{ at0 with ports := [(0, { awaited := some 1 })] }, by decide⟩,
    ⟨{ unacked := [(2, 0, 0), (3, 0, 0)], replaying := some (2, 3) }, [(2, 0, 0)], (3, 0, 0), [], 2, 3, rfl, rfl, by decide, rfl, by decide⟩,
    ⟨{ unacked := [(0, 0, 0), (1, 0, 0)] }, _, _, rfl, rfl⟩⟩

theorem witness_ModuleEvents_snapshots :
    (∃ s : State, ∃ x, s.mod.snapWords = [] ++ x :: [] ∧ x.source = 2 ∧ x.answer = none ∧ ∀ y ∈ s.mod.snapWords, 2 ≤ y.source)
    ∧ (∃ s : State, ∃ x c k i, s.mod.snapWords = [] ++ x :: [] ∧ x.source = 3 ∧ x.answer = some (c, k, i) ∧ ∀ y ∈ s.mod.snapWords, 3 ≤ y.source)
    ∧ (∃ s : State, ∃ d, s.mod.snapDue = some d ∧ d < (s.mod.frame / 8192 + 1) * 8192) ∧ (∃ s : State, s.mod.snapHeld = true ∧ s.mod.snapDue = none) :=
  ⟨⟨packaged { snapWords := [⟨2, none⟩] }, _, rfl, rfl, rfl, by decide⟩, ⟨packaged { snapWords := [⟨3, some (0, 0, 1)⟩] }, _, _, _, _, rfl, rfl, rfl, by decide⟩,
    ⟨packaged { snapDue := some 512 }, _, rfl, by decide⟩, ⟨packaged { snapHeld := true }, by decide⟩⟩

theorem witness_ModuleEvents_bringUp :
    State.reset.mod.powered = false ∧ (∃ s : State, s.mod.locked = true ∧ 6720 ∉ s.mod.ready)
    ∧ (∃ s : State, s.mod.locked = true ∧ s.mod.ready.length = 7162 ∧ s.mod.fwok = false ∧ s.mod.fwfail = false)
    ∧ (∃ s : State, s.mod.pkg = true ∧ s.mod.vale = false ∧ s.mod.fwfail = false) ∧ (∃ s : State, s.mod.vale = true ∧ 5 ∈ s.vale.doorbells)
    ∧ (State.reset.mod.pkg = false ∧ State.reset.mod.fwfail = false) ∧ (∃ s : State, s.mod.fwfail = true)
    ∧ (255 < 256 ∧ 1400 ≤ 1800 ∧ 4199 < 4200) ∧ (∃ s : State, 4200 ≤ 5000 ∧ s.mod.islands ≠ []) ∧ 95 < 96 :=
  ⟨rfl, ⟨packaged { locked := true }, by decide⟩, ⟨packaged { locked := true, ready := List.range 7162 }, by decide +kernel⟩,
    ⟨packaged upModule, by decide +kernel⟩, ⟨{ packaged { vale := true } with vale := { doorbells := [5] } }, by decide⟩, by decide, ⟨packaged { fwfail := true }, rfl⟩,
    by decide, ⟨packaged { islands := [(0, (1800, 900))] }, by decide⟩, by decide⟩

theorem witness_ModuleEvents_host :
    (∃ s : State, s.mod.serves 0 (0 / 8 * 8) = false) ∧ (∃ s : State, s.mod.serves 0 (65535 / 8 * 8) = true) ∧ (∃ s : State, s.mod.serves 0 (65536 / 8 * 8) = false)
    ∧ (∃ s : State, ∃ x, s.mod.serves 2 ((2 ^ 24 - 1) / 8 * 8) = true ∧ Map.get? s.mod.bar2 ((2 ^ 24 - 1) / 8 * 8) = some x)
    ∧ (∃ s : State, s.mod.serves 2 (0 / 8 * 8) = true ∧ Map.get? s.mod.bar2 (0 / 8 * 8) = none) ∧ (∃ s : State, s.mod.serves 1 (0 / 8 * 8) = false) :=
  ⟨⟨State.reset, by decide +kernel⟩, ⟨packaged upModule, by decide +kernel⟩, ⟨packaged upModule, by decide +kernel⟩,
    ⟨packaged { upModule with bar2 := [(2 ^ 24 - 8, 7)] }, _, by decide +kernel, rfl⟩, ⟨packaged upModule, by decide +kernel⟩, ⟨packaged upModule, by decide +kernel⟩⟩

/-- Core 0 asks, and its call is the first of Vale's queue. -/
def asks (k : Nat) (arg : Word) (s : State) : State :=
  let t := calling k arg none s
  { t with vale := { t.vale with calls := [(.context 0 0, k)] } }
/-- Core 0 asks, with a descriptor at 0x1000. -/
def asking (k : Nat) (d : Nat) (s : State) : State := asks k 0x1000 (s.cwrite 0 0x1000 256 d)
theorem asks_Asks (k : Nat) (arg : Word) (s : State) (h : (asks k arg s).ctx 0 0 = { s.ctx 0 0 with op := .call k arg 5 none }) :
    Asks (asks k arg s) 0 0 k arg := by
  refine ⟨5, by rw [h], ?_⟩
  simp [State.firstCall, asks]

set_option maxRecDepth 20000 in
theorem witness_ValeSystemCalls :
    (∃ s : State, Asks s 0 0 0x01 0) ∧ (∃ s : State, Asks s 0 0 0x01 5)
    ∧ (∃ s : State, ∃ j st, Asks s 0 0 0x11 16 ∧ Map.get? s.vale.jobs (16 : Word).toNat = some j ∧ j.asid = s.asidOf 0 ∧ j.status = some st)
    ∧ (∃ s : State, Asks s 0 0 0x11 17 ∧ Map.get? s.vale.jobs (17 : Word).toNat = none)
    ∧ (∃ s : State, ∃ j, Asks s 0 0 0x11 16 ∧ Map.get? s.vale.jobs (16 : Word).toNat = some j ∧ j.asid ≠ s.asidOf 0)
    ∧ (∃ s : State, Asks s 0 0 0x60 0 ∧ 0x60 ∉ [0x01, 0x10, 0x11, 0x20, 0x21, 0x30, 0x31, 0x32, 0x33, 0x40, 0x41, 0x42, 0x50])
    ∧ (∃ s : State, Asks s 0 0 0x21 0x1000 ∧ DescriptorAt 0x1000 16 ∧ dword (s.argBytes 0 0x1000 16) 0 < 64 ∧ slotClean (dword (s.argBytes 0 0x1000 16) 1) = true)
    ∧ (∃ s : State, ∃ e, Asks s 0 0 0x31 (21 * 2 ^ 51) ∧ s.subEntry (s.asidOf 0) (21 * 2 ^ 51) = some e)
    ∧ (∃ s : State, Asks s 0 0 0x31 0 ∧ s.subEntry (s.asidOf 0) 0 = none)
    ∧ (∃ s : State, ∃ e, Asks s 0 0 0x32 (21 * 2 ^ 51) ∧ s.subEntry (s.asidOf 0) (21 * 2 ^ 51) = some e ∧ s.unitOpen (s.asidOf 0) (21 * 2 ^ 51) = false)
    ∧ (∃ s : State, Asks s 0 0 0x32 0 ∧ s.subEntry (s.asidOf 0) 0 = none)
    ∧ (∃ s : State, Asks s 0 0 0x33 0 ∧ (0 : Word).toNat < 256 ∧ (s.root (s.asidOf 0) (0 : Word).toNat).valid = true
        ∧ s.unitOpen (s.asidOf 0) (taOf (0 : Word).toNat 0 0) = false)
    ∧ (∃ s : State, Asks s 0 0 0x33 256 ∧ 256 ≤ (256 : Word).toNat) ∧ (∃ s : State, Asks s 0 0 0x33 1 ∧ (s.root (s.asidOf 0) (1 : Word).toNat).valid = false)
    ∧ (∃ s : State, ∃ z, Asks s 0 0 0x50 0x1000 ∧ DescriptorAt 0x1000 64 ∧ sizeCode (dword (s.argBytes 0 0x1000 64) 1) = some z
        ∧ zeroWords (s.argBytes 0 0x1000 64) 2 6 = true ∧ s.vale.hbm + dword (s.argBytes 0 0x1000 64) 0 / dword (s.argBytes 0 0x1000 64) 1 ≤ 2 ^ 25)
    ∧ (∃ s : State, Asks s 0 0 0x42 0x1000 ∧ DescriptorAt 0x1000 64 ∧ dword (s.argBytes 0 0x1000 64) 0 < 256 ∧ dword (s.argBytes 0 0x1000 64) 1 < 2 ^ 32
        ∧ dword (s.argBytes 0 0x1000 64) 2 < 2 ^ 32 ∧ dword (s.argBytes 0 0x1000 64) 3 < 2 ^ 32 ∧ zeroWords (s.argBytes 0 0x1000 64) 4 4 = true
        ∧ s.slotsTaken (dword (s.argBytes 0 0x1000 64) 0) + dword (s.argBytes 0 0x1000 64) 1 + dword (s.argBytes 0 0x1000 64) 2 + dword (s.argBytes 0 0x1000 64) 3 ≤ 2 ^ 18) :=
  ⟨⟨asks 1 0 at0, asks_Asks _ _ _ rfl⟩, ⟨asks 1 5 at0, asks_Asks _ _ _ rfl⟩,
    ⟨asks 0x11 16 { at0 with vale := { jobs := [(16, { job with status := some 0 })] } }, _, _, asks_Asks _ _ _ rfl, rfl, by decide +kernel, rfl⟩,
    ⟨asks 0x11 17 at0, asks_Asks _ _ _ rfl, rfl⟩,
    ⟨asks 0x11 16 { at0 with vale := { jobs := [(16, { job with asid := 1 })] } }, _, asks_Asks _ _ _ rfl, rfl, by decide +kernel⟩,
    ⟨asks 0x60 0 at0, asks_Asks _ _ _ rfl, by decide +kernel⟩,
    ⟨asking 0x21 0 at0, asks_Asks _ _ _ rfl, by unfold DescriptorAt; decide +kernel, by decide +kernel, by decide +kernel⟩,
    ⟨asks 0x31 (21 * 2 ^ 51) (paged 1 3), _, asks_Asks _ _ _ rfl, rfl⟩, ⟨asks 0x31 0 at0, asks_Asks _ _ _ rfl, rfl⟩,
    ⟨asks 0x32 (21 * 2 ^ 51) (paged 1 3), _, asks_Asks _ _ _ rfl, rfl, rfl⟩, ⟨asks 0x32 0 at0, asks_Asks _ _ _ rfl, rfl⟩,
    ⟨asks 0x33 0 (paged 1 3), asks_Asks _ _ _ rfl, by decide, by decide +kernel, by decide +kernel⟩,
    ⟨asks 0x33 256 at0, asks_Asks _ _ _ rfl, by decide⟩, ⟨asks 0x33 1 at0, asks_Asks _ _ _ rfl, by decide +kernel⟩,
    ⟨asking 0x50 (4096 + 2 ^ 64 * 2048) at0, 0, asks_Asks _ _ _ rfl, by unfold DescriptorAt; decide +kernel, by decide +kernel, by decide +kernel, by decide +kernel⟩,
    ⟨asking 0x42 (2 ^ 64) at0, asks_Asks _ _ _ rfl, by unfold DescriptorAt; decide +kernel, by decide +kernel, by decide +kernel, by decide +kernel, by decide +kernel, by decide +kernel, by decide +kernel⟩⟩

set_option maxRecDepth 20000 in
set_option maxHeartbeats 2000000 in
theorem witness_ValeSystemCalls_map :
    ∃ s : State, ∃ d s1 key base s2, Asks s 0 0 0x30 0x1000 ∧ DescriptorAt 0x1000 64 ∧ dword (s.argBytes 0 0x1000 64) 1 < 8
        ∧ zeroWords (s.argBytes 0 0x1000 64) 3 5 = true ∧ s.pageRoot (s.asidOf 0) (BitVec.ofNat 64 (dword (s.argBytes 0 0x1000 64) 0)) false = some d
        ∧ s.pageSlot d (taPath (BitVec.ofNat 64 (dword (s.argBytes 0 0x1000 64) 0))) = some (s1, key)
        ∧ s1.takeBacking ((dword (s.argBytes 0 0x1000 64) 1).testBit 2) = some (base, s2)
        ∧ s1.walkStalls (taPath (BitVec.ofNat 64 (dword (s.argBytes 0 0x1000 64) 0))) 6 d.tbase = false ∧ s1.stalledAt (base * 2048) = false
        ∧ s.tableRoom 5 = true :=
  ⟨asking 0x30 (18 * 2 ^ 51 + 3 * 2 ^ 64) { at0 with roots := [(0, (2 ^ 63 + 3 * 2 ^ 60, 1, 0, 0))] }, _, _, _, _, _, asks_Asks _ _ _ rfl,
      by unfold DescriptorAt; decide +kernel, by decide +kernel, by decide +kernel, rfl, rfl, rfl, rfl, rfl, by decide +kernel⟩

/-- Core 0 asks with an argument that names no descriptor. -/
theorem witness_ValeSystemCalls_arguments :
    (∃ s : State, Asks s 0 0 0x10 1 ∧ ¬ DescriptorAt 1 256) ∧ (∃ s : State, Asks s 0 0 0x20 1 ∧ ¬ DescriptorAt 1 1052)
    ∧ (∃ s : State, Asks s 0 0 0x21 1 ∧ ¬ DescriptorAt 1 16) ∧ (∃ s : State, Asks s 0 0 0x30 1 ∧ ¬ DescriptorAt 1 64)
    ∧ (∃ s : State, Asks s 0 0 0x40 1 ∧ ¬ DescriptorAt 1 64) ∧ (∃ s : State, Asks s 0 0 0x42 1 ∧ ¬ DescriptorAt 1 64)
    ∧ (∃ s : State, Asks s 0 0 0x50 1 ∧ ¬ DescriptorAt 1 64) ∧ (∃ s : State, ∃ d, (s.ctx 0 0).op = .call 1 0 d none) :=
  ⟨⟨asks 0x10 1 at0, asks_Asks _ _ _ rfl, by unfold DescriptorAt; decide⟩, ⟨asks 0x20 1 at0, asks_Asks _ _ _ rfl, by unfold DescriptorAt; decide⟩,
    ⟨asks 0x21 1 at0, asks_Asks _ _ _ rfl, by unfold DescriptorAt; decide⟩, ⟨asks 0x30 1 at0, asks_Asks _ _ _ rfl, by unfold DescriptorAt; decide⟩,
    ⟨asks 0x40 1 at0, asks_Asks _ _ _ rfl, by unfold DescriptorAt; decide⟩, ⟨asks 0x42 1 at0, asks_Asks _ _ _ rfl, by unfold DescriptorAt; decide⟩,
    ⟨asks 0x50 1 at0, asks_Asks _ _ _ rfl, by unfold DescriptorAt; decide⟩, ⟨calling 1 0 none at0, 5, rfl⟩⟩

/-- A table image of zeros but for hi = 1. -/
def tableCall : State := asks 0x20 0x1000 (at0.cwrite 0 0x1000 64 (0x3F800000 * 2 ^ 96))
set_option maxRecDepth 20000 in
theorem witness_ValeSystemCalls_table :
    ∃ s : State, ∃ t, Asks s 0 0 0x20 0x1000 ∧ DescriptorAt 0x1000 1052 ∧ tableImage ((s.argBytes 0 0x1000 1052).drop 8) = some t
      ∧ dword (s.argBytes 0 0x1000 1052) 0 < 16 := by
  obtain ⟨t, h⟩ := Option.isSome_iff_exists.mp (show (tableImage ((tableCall.argBytes 0 0x1000 1052).drop 8)).isSome = true by decide +kernel)
  exact ⟨tableCall, t, asks_Asks _ _ _ rfl, by unfold DescriptorAt; decide, h, by decide +kernel⟩

/-- A root of FP8 pages, headers from 32 on, in a table of eight pages; its home slices have slots. -/
def headedRoot : State :=
  { at0 with
    roots := [(0, (2 ^ 63 + 2 ^ 62 + 2 ^ 60, 1, 1, 0))], vale := { at0.vale with control := [(1, (2 ^ 63 + 1, 8))] }
    slices := [(homeSlice (33 * 64), { fp8 := { back := [2048] } })] }
/-- Core 0 asks for page 1 there. -/
def allocating : State := asking 0x40 (18 * 2 ^ 51 + 2 ^ 128) headedRoot
set_option maxRecDepth 20000 in
set_option maxHeartbeats 2000000 in
theorem witness_ValeSystemCalls_kvalloc :
    ∃ s : State, ∃ d s1 key a p s2, Asks s 0 0 0x40 0x1000 ∧ DescriptorAt 0x1000 64 ∧ (let b := s.argBytes 0 0x1000 64
       let n := homeSlice ((d.hbase * 32 + dword b 2) * 64)
       dword b 1 ≤ 0xFE ∧ dword b 2 < 2 ^ 32 ∧ dword b 3 < 4 ∧ zeroWords b 4 4 = true
        ∧ s.pageRoot (s.asidOf 0) (BitVec.ofNat 64 (dword b 0)) true = some d ∧ 0 < dword b 2 ∧ dword b 2 ≤ s.npages d.hbase
        ∧ Map.get? s.headers (d.hbase * 32 + dword b 2) = none ∧ s.pageSlot d (taPath (BitVec.ofNat 64 (dword b 0))) = some (s1, key)
        ∧ (s1.slice n).waiting.length < (s1.slice n).fp8.free + (s1.slice n).fp8.back.length
        ∧ s1.takeSliceSlot n (s1.slice n).fp8 = some (a, p, s2)
        ∧ s1.walkStalls (taPath (BitVec.ofNat 64 (dword b 0))) 6 d.tbase = false ∧ s1.stalledAt ((d.hbase * 32 + dword b 2) * 64) = false
        ∧ s1.stalledAt a = false) ∧ s.tableRoom 5 = true :=
  ⟨allocating, allocating.root 0 0, _, _, _, _, _, asks_Asks _ _ _ rfl, by unfold DescriptorAt; decide, ⟨by decide +kernel, by decide +kernel, by decide +kernel, by decide +kernel,
    rfl, by decide +kernel, by decide +kernel, rfl, rfl, by decide, rfl, rfl, rfl, rfl⟩, by decide +kernel⟩

/-- Page 1 is allocated in the first page of the tree. -/
def allocated : State :=
  let t := fun n : Nat => (n * 64, ((0 : Word), BitVec.ofNat 64 (2 ^ 62 + n + 1)))
  asks 0x41 (18 * 2 ^ 51) { headedRoot with
    entries := [t 1, t 2, t 3, t 4, t 5, (6 * 64, (0, 3 * 2 ^ 62 + 3 * 2 ^ 60 + 2 ^ 58 + 1))], headers := [(33, { slot := 2048 })] }
set_option maxRecDepth 20000 in
theorem witness_ValeSystemCalls_kvfree :
    ∃ s : State, ∃ d dd e h, Asks s 0 0 0x41 (18 * 2 ^ 51) ∧ s.pageRoot (s.asidOf 0) (18 * 2 ^ 51) true = some d ∧ s.walk (s.asidOf 0) (18 * 2 ^ 51) = .ok (dd, e)
      ∧ Map.get? s.headers (d.hbase * 32 + entryBase e.w1) = some h ∧ h.state = .stable ∧ h.mx4 = false
      ∧ ∀ q ∈ (s.slice (homeSlice ((d.hbase * 32 + entryBase e.w1) * 64))).reqs, PageReq.page q ≠ d.hbase * 32 + entryBase e.w1 :=
  ⟨allocated, _, _, _, _, asks_Asks _ _ _ rfl, rfl, rfl, rfl, rfl, rfl, by decide⟩

/-- Core 0 posts a record with this word 0 of the object at tree address 0, whose header is that of one empty segment or not. -/
def posting (w0 : Nat) (good : Bool) : State :=
  let s := asking 0x10 w0 tree32
  { s with phys := Mem.writeN s.phys (8 * 2048) 8 (if good then 0x42454843 * 2 ^ 32 + 2 ^ 16 + 2 ^ 8 else 0) }
/-- Word 0 of a record: version 1, die 0, one gang of one cluster by w. -/
def recordWord (w : Nat) : Nat := 2 ^ 56 + 2 ^ 48 + 2 ^ 40 + 2 ^ 32 + w * 2 ^ 28
/-- The header that `posting` lays out. -/
def emptyHdr : CodeHdr := { dispoff := 0, mboxoff := 0, ringoff := 0, table := 0 }
theorem posting_Asks (w : Nat) (good : Bool) : Asks (posting w good) 0 0 0x10 0x1000 := by
  refine ⟨5, rfl, ?_⟩
  have h : (posting w good).vale.calls = [(.context 0 0, 0x10)] := rfl
  simp [State.firstCall, h]

set_option maxRecDepth 20000 in
theorem witness_ValeSystemCalls_post :
    (∃ s : State, ∃ h obj, Asks s 0 0 0x10 0x1000 ∧ DescriptorAt 0x1000 256 ∧ (let b := s.argBytes 0 0x1000 256
       let code := BitVec.ofNat 64 (dword b 1)
       let j := recordJob b (s.asidOf 0) s.mod.frame s.vale.nextJob h
       recordOk b = true ∧ (s.objectBytes (s.asidOf 0) code 0 64).bind codeHeader = some h ∧ j.xumask &&& ~~~h.tmask = 0
        ∧ (s.objectTables (s.asidOf 0) code h j.xumask (count 0 16)).isSome = true ∧ s.wholeObject (s.asidOf 0) code h = some obj ∧ s.canFit j = true
        ∧ s.objectStalls (s.asidOf 0) code .read 0 64 = false ∧ s.wholeStalls (s.asidOf 0) code h = false))
    ∧ (∃ s : State, ∃ h obj, Asks s 0 0 0x10 0x1000 ∧ DescriptorAt 0x1000 256 ∧ (let b := s.argBytes 0 0x1000 256
       let code := BitVec.ofNat 64 (dword b 1)
       let j := recordJob b (s.asidOf 0) s.mod.frame s.vale.nextJob h
       recordOk b = true ∧ (s.objectBytes (s.asidOf 0) code 0 64).bind codeHeader = some h ∧ j.xumask &&& ~~~h.tmask = 0
        ∧ (s.objectTables (s.asidOf 0) code h j.xumask (count 0 16)).isSome = true ∧ s.wholeObject (s.asidOf 0) code h = some obj ∧ s.canFit j = false
        ∧ s.objectStalls (s.asidOf 0) code .read 0 64 = false ∧ s.wholeStalls (s.asidOf 0) code h = false)) := by
  have key : ∀ s : State, OneBlock s → ∃ obj, s.wholeObject 0 0 emptyHdr = some obj := by
    intro s o
    obtain ⟨b, hb⟩ := o.segmentTable
    obtain ⟨l, hl⟩ := o.objectBytes (objectLength emptyHdr b) 0 (by
      have h1 : b.length = Config.segmentEntryBytes.val * 1 := by
        have : ∀ n off l, s.objectBytes 0 0 off n = some l → l.length = n := by
          intro n
          induction n with
          | zero => intro off l h; cases h; rfl
          | succ n ih =>
            intro off l h
            simp only [State.objectBytes] at h
            split at h
            · rename_i x r _ hr; cases h; simp [ih _ _ hr]
            · cases h
        exact this _ _ _ hb
      have h2 := Config.segmentEntryBytes.isLt
      simp [objectLength, emptyHdr, segmentPlace, count, h1]
      omega)
    have hn : s.segmentTable 0 0 emptyHdr.nseg = some b := hb
    exact ⟨l, by simp only [State.wholeObject, hn, Option.bind_some]; exact hl⟩
  obtain ⟨o1, h1⟩ := key (posting (recordWord 1) true) ⟨rfl, rfl, rfl, rfl⟩
  obtain ⟨o2, h2⟩ := key (posting (recordWord 9) true) ⟨rfl, rfl, rfl, rfl⟩
  exact ⟨⟨posting (recordWord 1) true, emptyHdr, o1, posting_Asks _ _, by unfold DescriptorAt; decide, by decide +kernel, by decide +kernel, by decide +kernel, by decide +kernel, h1,
      by decide +kernel, rfl, rfl⟩,
    ⟨posting (recordWord 9) true, emptyHdr, o2, posting_Asks _ _, by unfold DescriptorAt; decide, by decide +kernel, by decide +kernel, by decide +kernel, by decide +kernel, h2,
      by decide +kernel, rfl, rfl⟩⟩

set_option maxRecDepth 20000 in
theorem witness_ValeSystemCalls_refusedPost :
    (∃ s : State, Asks s 0 0 0x10 0x1000 ∧ DescriptorAt 0x1000 256 ∧ recordOk (s.argBytes 0 0x1000 256) = false)
    ∧ (∃ s : State, Asks s 0 0 0x10 0x1000 ∧ DescriptorAt 0x1000 256 ∧ (s.objectBytes (s.asidOf 0) 0 0 64).bind codeHeader = none)
    ∧ (∃ s : State, ∃ h, Asks s 0 0 0x10 0x1000 ∧ DescriptorAt 0x1000 256 ∧ (s.objectBytes (s.asidOf 0) 0 0 64).bind codeHeader = some h
        ∧ BitVec.ofNat 16 (dword (s.argBytes 0 0x1000 256) 0) &&& ~~~h.tmask ≠ 0) :=
  ⟨⟨posting 0 true, posting_Asks _ _, by unfold DescriptorAt; decide, by decide +kernel⟩,
    ⟨posting (recordWord 1) false, posting_Asks _ _, by unfold DescriptorAt; decide, by decide +kernel⟩,
    ⟨posting (recordWord 1 + 1) true, emptyHdr, posting_Asks _ _, by unfold DescriptorAt; decide, by decide +kernel, by decide +kernel⟩⟩

theorem witness_EncodingStatements :
    ((Instr.add 7 31 30 29 7).wf = true ∧ (Instr.add 7 31 30 29 7).encoded = true) ∧ (∃ i r, decode [0x1A, 0x00] = .ok (i, r))
    ∧ (0xE1 < 2 ^ 32 ∧ 0xE1 % 2 = 1 ∧ 0xE1 / 16 % 64 ∈ [0x0E, 0x1F, 0x2B, 0x2C, 0x2D, 0x2E, 0x2F, 0x34, 0x35, 0x38, 0x39, 0x3D, 0x3F])
    ∧ (0x80000021 < 2 ^ 32 ∧ 0x80000021 % 2 = 1 ∧ 0x80000021 / 16 % 64 = 0x02 ∧ 8 ≤ 0x80000021 / 2 ^ 28)
    ∧ (0x1E < 2 ^ 16 ∧ 0x1E % 2 = 0 ∧ 15 ≤ 0x1E / 2 % 32) :=
  ⟨by decide, ⟨_, _, rfl⟩, by decide, by decide, by decide⟩

/-- Core 0 is at `add s1, s5, s5` while a result on its way to s5 is not there yet. -/
def holding : State :=
  (State.reset.withFetchWord 32 (Decode.leNat (encode (.add 0 1 5 5 0)))).modCtx 0 0 fun x => { x with pend := [pend5 none] }

set_option maxRecDepth 20000 in
theorem witness_StepRunsDecodedInstruction :
    (∃ s : State, ∃ s1 b i r, IssuesNext s 0 0 ∧ ((s.begun 0).running 0 0).fetch 0 (((s.begun 0).running 0 0).ctx 0 0).pc.toNat = .bytes s1 b
        ∧ decode b = .ok (i, r) ∧ (s1.me.rtc = true → s1.me.rtcCount < 512) ∧ s1.heldBack i = false)
    ∧ (∃ s : State, ∃ s1 b i r, IssuesNext s 0 0 ∧ ((s.begun 0).running 0 0).fetch 0 (((s.begun 0).running 0 0).ctx 0 0).pc.toNat = .bytes s1 b
        ∧ decode b = .ok (i, r) ∧ (s1.me.rtc = true → s1.me.rtcCount < 512) ∧ s1.heldBack i = true)
    ∧ (∃ s : State, ∃ s1 b e, IssuesNext s 0 0 ∧ ((s.begun 0).running 0 0).fetch 0 (((s.begun 0).running 0 0).ctx 0 0).pc.toNat = .bytes s1 b ∧ decode b = .error e)
    ∧ (∃ s : State, ∃ s1 b i r, IssuesNext s 0 0 ∧ ((s.begun 0).running 0 0).fetch 0 (((s.begun 0).running 0 0).ctx 0 0).pc.toNat = .bytes s1 b
        ∧ decode b = .ok (i, r) ∧ s1.me.rtc = true ∧ 512 ≤ s1.me.rtcCount)
    ∧ (∃ s : State, ∃ e, s.mod.therm = false ∧ s.nextTurn = .event e ∧ e.encoded = false)
    ∧ (0x3FFFFC + 4 ≤ 2 ^ 22 ∧ at0.inMailbox (clusterOf 0) 0x3FFFFC 4 = false ∧ at0.firstAbsent (clusterOf 0) 0x3FFFFC 4 = none
        ∧ at0.badLocal (clusterOf 0) 0x3FFFFC 4 = false ∧ (at0.core 0).ibuf = none) :=
  ⟨⟨State.reset.withFetchWord 16 0x1A, _, _, _, _, by unfold IssuesNext; decide, rfl, rfl, by decide, rfl⟩,
    ⟨holding, _, _, _, _, by unfold IssuesNext; decide, rfl, rfl, by decide, rfl⟩, ⟨at0, _, _, _, by unfold IssuesNext; decide, rfl, rfl⟩,
    ⟨(State.reset.withFetchWord 16 0x1A).modCtx 0 0 fun x => { x with rtc := true, rtcCount := 512 }, _, _, _, _, by unfold IssuesNext; decide, rfl, rfl, by decide, by decide⟩,
    ⟨{ State.reset with agenda := [.event .frameStart] }, _, rfl, rfl, rfl⟩, by decide⟩

theorem witness_StepKeepsMemoryCanonical : (at0.memWf = true ∧ at0.mod.therm = false) ∧ (∃ s : State, s.memWf = true ∧ s.mod.therm = true) :=
  ⟨by decide, ⟨packaged { therm := true }, by decide⟩⟩

/-- Core 0's context runs. -/
def going (s : State) : State := s.modCtx 0 0 fun x => { x with st := .running }

set_option maxRecDepth 20000 in
theorem witness_RegisterInstructionFrames :
    (∃ i w s t, registerTargets i = some w ∧ exec i s = .next t ∧ s.me.st = .running ∧ t.here.stop = none)
    ∧ (∃ i w s t, quietTargets i = some w ∧ exec i s = .next t ∧ s.me.st = .running)
    ∧ (∃ i s t, endsRoutine i = true ∧ exec i s = .next t ∧ s.me.st = .running) :=
  ⟨⟨.vcvt 0 5 3 0 4 0, _, going (pair .int32 .raw), _, rfl, rfl, rfl, rfl⟩, ⟨.salloc 5 0, _, going at0, _, rfl, rfl, rfl⟩, ⟨.halt16, going at0, _, rfl, rfl, rfl⟩⟩

set_option maxRecDepth 20000 in
theorem witness_StoreFrames :
    (∃ s t, exec (.st 5 3 2 1 0) s = .next t ∧ s.me.st = .running) ∧ (∃ s t, exec (.stRel 5 3 1 3 (-1) 0) s = .next t ∧ s.me.st = .running)
    ∧ (∃ s t, exec (.vst 5 3 1 0) s = .next t ∧ s.me.st = .running) ∧ (∃ s t, exec (.tmst 1 3 0) s = .next t ∧ s.me.st = .running)
    ∧ (∃ s t, exec (.sttMap 5 3 4 1 0) s = .next t ∧ s.me.st = .running) ∧ (∃ s t, exec (.vsttMap 5 3 4 1 0) s = .next t ∧ s.me.st = .running)
    ∧ (∃ s t, exec (.sttTa 5 6 0) s = .next t ∧ s.me.st = .running) ∧ (∃ s t, exec (.vsttTa 5 6 0) s = .next t ∧ s.me.st = .running)
    ∧ (∃ s t, exec (.vscat 0 5 7 1 0) s = .next t ∧ s.me.st = .running) :=
  ⟨⟨going at0, _, rfl, rfl⟩, ⟨going (regs [(3, 0x2008)]), _, rfl, rfl⟩, ⟨going (vecs []), _, rfl, rfl⟩, ⟨going at0, _, rfl, rfl⟩, ⟨going tree32, _, rfl, rfl⟩,
    ⟨going (withVec tree32 [(5, { tag := .fp32 })]), _, rfl, rfl⟩, ⟨going tree32, _, rfl, rfl⟩, ⟨going (withVec tree32 [(5, { tag := .fp32 })]), _, rfl, rfl⟩,
    ⟨going (withVec tree32 [(5, { tag := .fp32 }), (7, { tag := .int64 })]), _, rfl, rfl⟩⟩

/-! ### Well-formedness: a term that each check refuses -/

theorem test_wf_noLink : ((.bfi 28 1 2 3 0 : Instr)).wf = false := by decide
theorem test_wf_reg16 : ((.mov 28 1 : Instr)).wf = false := by decide
theorem test_wf_pairFirst : ((.vldtRaw 27 1 2 1 0 : Instr)).wf = false := by decide
theorem test_wf_operandPair : ((.fship 5 3 27 0 : Instr)).wf = false := by decide
theorem test_wf_targetTriple : ((.nfree 3 26 0 : Instr)).wf = false := by decide
theorem test_wf_predicateCode : ((.pcnt 5 8 0 : Instr)).wf = false := by decide
theorem test_wf_tagCode : ((.vtag 1 2 14 0 : Instr)).wf = false := by decide
theorem test_wf_targetCode : ((.vcvt 0 1 2 0 16 0 : Instr)).wf = false := by decide
theorem test_wf_targetPair : ((.vcvt 0 27 2 0 10 0 : Instr)).wf = false := by decide
theorem test_wf_stageFits : ((.vcx 4 3 3 0 : Instr)).wf = false := by decide
theorem test_wf_stageFits_k : ((.vcx 4 0 7 0 : Instr)).wf = false := by decide
theorem test_wf_loopEnd : ((.loop 4 0 2 0 : Instr)).wf = false := by decide
theorem test_wf_loopLevel : ((.loop 4 3 3 0 : Instr)).wf = false := by decide
theorem test_wf_fieldFits : ((.bfxImm 1 2 33 32 0 : Instr)).wf = false := by decide
theorem test_wf_destGiven : ((.mfc 0 0x049 0 : Instr)).wf = false := by decide
theorem test_wf_sourceGiven : ((.mxc 5 0 0x049 0 : Instr)).wf = false := by decide
theorem test_wf_knownRegister : ((.mtc 5 0x006 0 : Instr)).wf = false := by decide
theorem test_wf_signedSize : ((.ldSx 5 3 3 0 0 : Instr)).wf = false := by decide
theorem test_wf_scopeKnown : ((.fenceAll 5 0 : Instr)).wf = false := by decide
theorem test_wf_payloadFits : ((.send 3 0 26 4 3 0 : Instr)).wf = false := by decide
theorem test_wf_payloadFits_none : ((.send 3 0 1 4 0 0 : Instr)).wf = false := by decide
theorem test_wf_levelGiven : ((.dset 1 3 4 0 0 : Instr)).wf = false := by decide
theorem test_wf_distinct : ((.link 4 4 0 : Instr)).wf = false := by decide
theorem test_wf_coreId : ((.dispatch 6144 : Instr)).wf = false := by decide
theorem test_wf_levelId : ((.trapEntry 0 4 : Instr)).wf = false := by decide
theorem test_wf_clusterId : ((.xuCompute 768 : Instr)).wf = false := by decide
theorem test_wf_sliceId : ((.kvTick 256 : Instr)).wf = false := by decide
theorem test_wf_quadId : ((.leaseGrant 192 : Instr)).wf = false := by decide
theorem test_wf_dirId : ((.flitForward 0 6 : Instr)).wf = false := by decide
theorem test_wf_phaseId : ((.phaseClose 0 16 : Instr)).wf = false := by decide
theorem test_wf_bdpId : ((.fshipPerform 128 0 : Instr)).wf = false := by decide
theorem test_wf_portId : ((.replayRequest 16 0 : Instr)).wf = false := by decide
theorem test_wf_bankId : ((.markBankFailed 0 18 : Instr)).wf = false := by decide

/-! ### Decoding: one word of each encoding, put together from the fixed bits and the field places of the opcode table -/

/-- The bytes of a word of n bytes decode to an instruction and nothing is left. -/
def Reads (n w : Nat) (i : Instr) : Prop := decode (Decode.leBytes n w) = .ok (i, [])

theorem test_decode_halfwords_0 :
    Reads 2 0xA902 (.mov 4 21) ∧ Reads 2 0x0D44 (.add16 21 1) ∧ Reads 2 0xA3C6 (.sub16 15 20) ∧ Reads 2 0x5608 (.and16 24 10)
    ∧ Reads 2 0xC60A (.or16 24 24) ∧ Reads 2 0x218C (.xor16 6 4) ∧ Reads 2 0xC3CE (.li 15 24) ∧ Reads 2 0x4190 (.addImm5 6 8) := ⟨rfl, rfl, rfl, rfl, rfl, rfl, rfl, rfl⟩
theorem test_decode_halfwords_1 :
    Reads 2 0x1552 (.shl16 21 2) ∧ Reads 2 0xD514 (.shr16 20 26) ∧ Reads 2 0x5516 (.sra16 20 10) ∧ Reads 2 0xA818 (.ret16 21)
    ∧ Reads 2 0x001A (.nop) ∧ Reads 2 0x001C (.halt16) := ⟨rfl, rfl, rfl, rfl, rfl, rfl⟩
theorem test_decode_major_00_0 :
    Reads 4 0x07569403 (.add 3 5 13 21 1) ∧ Reads 4 0x19A71807 (.sub 4 6 14 26 3) ∧ Reads 4 0x2A242C05 (.mul 5 11 8 2 2)
    ∧ Reads 4 0x3A969C03 (.mulh 5 7 13 9 1) ∧ Reads 4 0x4E952807 (.mulhN 7 10 10 9 3) ∧ Reads 4 0x52F6540B (.div 1 21 12 15 5)
    ∧ Reads 4 0x6248300D (.divN 1 12 16 4 6) ∧ Reads 4 0x7712E807 (.rem 3 26 5 17 3) := ⟨rfl, rfl, rfl, rfl, rfl, rfl, rfl, rfl⟩
theorem test_decode_major_00_1 :
    Reads 4 0x837AD00B (.remN 1 20 21 23 5) ∧ Reads 4 0x96E61809 (.and 3 6 12 14 4) ∧ Reads 4 0xAF82440D (.or 7 17 4 24 6)
    ∧ Reads 4 0xB883C409 (.xor 4 17 7 8 4) ∧ Reads 4 0xCE242403 (.andn 7 9 8 2 1) ∧ Reads 4 0xDD6C1407 (.min 6 5 24 22 3)
    ∧ Reads 4 0xE6880407 (.max 3 1 16 8 3) := ⟨rfl, rfl, rfl, rfl, rfl, rfl, rfl⟩
theorem test_decode_major_01_0 :
    Reads 4 0x0EC9DC1D (.minN 7 23 19 12 6) ∧ Reads 4 0x13110813 (.maxN 1 2 2 17 1) ∧ Reads 4 0x277B281D (.shl 3 10 22 23 6)
    ∧ Reads 4 0x3634D819 (.shr 3 22 9 3 4) ∧ Reads 4 0x438B881D (.sra 1 2 23 24 6) ∧ Reads 4 0x582C581D (.rot 4 22 24 2 6)
    ∧ Reads 4 0x620A0C1D (.clz 1 3 20 6) ∧ Reads 4 0x76062817 (.ctz 3 10 12 3) := ⟨rfl, rfl, rfl, rfl, rfl, rfl, rfl, rfl⟩
theorem test_decode_major_01_1 :
    Reads 4 0x8407181B (.popc 2 6 14 5) ∧ Reads 4 0x9693B41D (.taz 3 13 7 9 6) ∧ Reads 4 0xAA031415 (.tax 5 5 6 2)
    ∧ Reads 4 0xB8054819 (.tadepth 4 18 10 4) ∧ Reads 4 0xC7A32019 (.tanb 3 8 6 26 4) ∧ Reads 4 0xD6934017 (.taup 3 16 6 9 3)
    ∧ Reads 4 0xE8EB3417 (.tadown 4 13 22 14 3) ∧ Reads 4 0xF37BAC15 (.sel 11 23 23 1 2) := ⟨rfl, rfl, rfl, rfl, rfl, rfl, rfl, rfl⟩
theorem test_decode_major_02 :
    Reads 4 0x09274823 (.cmpEq 4 18 14 18 1) ∧ Reads 4 0x15896827 (.cmpNe 2 26 18 24 3) ∧ Reads 4 0x2A579C2D (.cmpLt 5 7 15 5 6)
    ∧ Reads 4 0x3BA83423 (.cmpGe 5 13 16 26 1) ∧ Reads 4 0x428C0C27 (.cmpLtu 1 3 24 8 3) ∧ Reads 4 0x5265842B (.cmpGeu 1 1 11 6 5)
    ∧ Reads 4 0x64F5902B (.cmpAny 2 4 11 15 5) ∧ Reads 4 0x7499BC27 (.cmpNone 2 15 19 9 3) := ⟨rfl, rfl, rfl, rfl, rfl, rfl, rfl, rfl⟩
theorem test_decode_major_03 :
    Reads 4 0x1584E433 (.addImm12 25 9 344 1) := rfl
theorem test_decode_major_04_0 :
    Reads 4 0x034D3C45 (.andImm 15 26 52 2) ∧ Reads 4 0x13894449 (.orImm 17 18 56 4) ∧ Reads 4 0x20388443 (.xorImm 1 17 3 1)
    ∧ Reads 4 0x3CC9C44D (.andnImm 17 19 204 6) ∧ Reads 4 0x40BA4443 (.shlImm 17 20 11 1) ∧ Reads 4 0x5157CC43 (.shrImm 19 15 21 1)
    ∧ Reads 4 0x62752C45 (.sraImm 11 10 39 2) ∧ Reads 4 0x73EB1049 (.rotImm 4 22 62 4) := ⟨rfl, rfl, rfl, rfl, rfl, rfl, rfl, rfl⟩
theorem test_decode_major_04_1 :
    Reads 4 0x84AD604D (.mulImm 24 26 74 6) ∧ Reads 4 0x94A98447 (.minImm 1 19 74 3) ∧ Reads 4 0xA78AD045 (.maxImm 20 21 120 2)
    ∧ Reads 4 0xB8651043 (.minNImm 4 10 134 1) ∧ Reads 4 0xCA449845 (.maxNImm 6 9 164 2) ∧ Reads 4 0xD0193043 (.taupImm 12 18 1 1)
    ∧ Reads 4 0xE038944B (.tadownImm 5 17 3 5) := ⟨rfl, rfl, rfl, rfl, rfl, rfl, rfl⟩
theorem test_decode_major_05 :
    Reads 4 0x32885459 (.fsh 21 16 8 25 4) ∧ Reads 4 0x567C5059 (.bfx 20 24 7 11 4) ∧ Reads 4 0x855A285D (.bfxs 10 20 21 2 6)
    ∧ Reads 4 0xCE9AA453 (.bfi 9 21 9 7 1) := ⟨rfl, rfl, rfl, rfl⟩
theorem test_decode_major_06 :
    Reads 4 0x13ABD463 (.bfxImm 21 23 4 58 1) := rfl
theorem test_decode_major_07 :
    Reads 4 0xBBBF8873 (.lui 2 96127 1) := rfl
theorem test_decode_major_08 :
    Reads 4 0x67711C8B (.bra 1694791 5) := rfl
theorem test_decode_major_09 :
    Reads 4 0x08E13895 (.call 145486 2) := rfl
theorem test_decode_major_0A :
    Reads 4 0x124998AB (.bcLtu 6 19 36 5) ∧ Reads 4 0x186C98AD (.bcAny 6 25 48 6) ∧ Reads 4 0x3B3A04AB (.bcGe 1 20 118 5)
    ∧ Reads 4 0x3ADA98A9 (.bcGeu 6 21 117 4) ∧ Reads 4 0xB51C64AB (.bcNe 25 24 362 5) ∧ Reads 4 0xC5065CA5 (.bcEq 23 12 394 2)
    ∧ Reads 4 0xDF2CACAB (.bcLt 11 25 446 5) ∧ Reads 4 0xF6F744A9 (.bcNone 17 14 493 4) := ⟨rfl, rfl, rfl, rfl, rfl, rfl, rfl, rfl⟩
theorem test_decode_major_0B :
    Reads 4 0x7F1308BB (.loop 6 2 2033 5) := rfl
theorem test_decode_major_0C :
    Reads 4 0x000300CD (.ret 6 6) ∧ Reads 4 0x10060CC9 (.callr 3 12 4) ∧ Reads 4 0x218B80CD (.jt 23 24 6) ∧ Reads 4 0x300000CB (.isync 5)
    ∧ Reads 4 0x400000C5 (.halt 2) ∧ Reads 4 0x500000CB (.rft 5) := ⟨rfl, rfl, rfl, rfl, rfl, rfl⟩
theorem test_decode_major_0D :
    Reads 4 0x0A3000D3 (.align 163 1) ∧ Reads 4 0x102000D9 (.prio 2 4) ∧ Reads 4 0x2A2000DB (.trap 162 5) := ⟨rfl, rfl, rfl⟩
theorem test_decode_major_0F :
    Reads 4 0x004A00F7 (.mtc 20 4 3) ∧ Reads 4 0x009D54FB (.mxc 21 26 9 5) ∧ Reads 4 0x049024F5 (.mfc 9 0x049 2) := ⟨rfl, rfl, rfl⟩
theorem test_decode_major_10 :
    Reads 4 0xD3813905 (.ld 14 2 3 312 2) := rfl
theorem test_decode_major_11 :
    Reads 4 0x9A038519 (.ldSx 1 7 2 416 4) := rfl
theorem test_decode_major_12 :
    Reads 4 0xBA95C923 (.st 18 11 2 937 1) := rfl
theorem test_decode_major_13 :
    Reads 4 0x4947A53B (.ldAcq 9 15 4 2 20 5) ∧ Reads 4 0x95476939 (.stRel 26 14 1 1 20 4) := ⟨rfl, rfl⟩
theorem test_decode_major_14 :
    Reads 4 0x04986149 (.vld 24 16 73 4) ∧ Reads 4 0x71955547 (.vst 21 10 793 3) := ⟨rfl, rfl⟩
theorem test_decode_major_15 :
    Reads 4 0x05142555 (.vldtRaw 9 8 17 2 2) := rfl
theorem test_decode_major_16 :
    Reads 4 0x04B50969 (.ldtMap 2 10 11 2 4) ∧ Reads 4 0x200B656D (.ldtTa 25 22 6) ∧ Reads 4 0x5B654167 (.sttMap 16 10 22 13 3)
    ∧ Reads 4 0x6007C563 (.sttTa 17 15 1) ∧ Reads 4 0x8A35C96D (.vldtMap 18 11 3 5 6) ∧ Reads 4 0xA00C556B (.vldtTa 21 24 5)
    ∧ Reads 4 0xC2473D65 (.vsttMap 15 14 4 1 2) ∧ Reads 4 0xE008D963 (.vsttTa 22 17 1) := ⟨rfl, rfl, rfl, rfl, rfl, rfl, rfl, rfl⟩
theorem test_decode_major_17_0 :
    Reads 4 0x0111E579 (.bcopy 25 3 17 4) ∧ Reads 4 0x1075AD79 (.bfill 11 11 7 4) ∧ Reads 4 0x21386573 (.bzero 25 16 19 1)
    ∧ Reads 4 0x30EA5177 (.pftLift 20 20 14 3) ∧ Reads 4 0x4170E979 (.pftDrop 26 1 23 4) ∧ Reads 4 0x509A8577 (.fship 1 21 9 3)
    ∧ Reads 4 0x669AB973 (.vgath 3 14 21 9 1) ∧ Reads 4 0x78910D77 (.vscat 4 3 2 9 3) := ⟨rfl, rfl, rfl, rfl, rfl, rfl, rfl, rfl⟩
theorem test_decode_major_17_1 :
    Reads 4 0x80B70177 (.guard 14 11 3) ∧ Reads 4 0x91140173 (.unguard 8 17 1) ∧ Reads 4 0xA002A175 (.tmld 8 5 2)
    ∧ Reads 4 0xB0041975 (.tmst 6 8 2) := ⟨rfl, rfl, rfl, rfl⟩
theorem test_decode_major_18 :
    Reads 4 0xC2A81183 (.send 1 4 16 42 4 1) := rfl
theorem test_decode_major_19 :
    Reads 4 0x01458195 (.deposit 11 20 2) ∧ Reads 4 0x1F75019B (.dset 1 10 23 3 5) ∧ Reads 4 0x2005959B (.dget 5 11 5)
    ∧ Reads 4 0x3001019B (.mbxcfg 2 5) := ⟨rfl, rfl, rfl, rfl⟩
theorem test_decode_major_1A_0 :
    Reads 4 0x02599DA3 (.amoAdd 7 19 5 1 1) ∧ Reads 4 0x12DD49A5 (.amoMin 18 26 13 1 2) ∧ Reads 4 0x2381D1A3 (.amoMax 20 3 24 1 1)
    ∧ Reads 4 0x336B65AB (.amoAnd 25 22 22 1 5) ∧ Reads 4 0x434905AB (.amoOr 1 18 20 1 5) ∧ Reads 4 0x52443DA5 (.amoXor 15 8 4 1 2)
    ∧ Reads 4 0x62849DA5 (.amoSwap 7 9 8 1 2) ∧ Reads 4 0x738395A3 (.amoCas 5 7 24 1 1) := ⟨rfl, rfl, rfl, rfl, rfl, rfl, rfl, rfl⟩
theorem test_decode_major_1A_1 :
    Reads 4 0x8267C5A5 (.amoMinN 17 15 6 1 2) ∧ Reads 4 0x931451AD (.amoMaxN 20 8 17 1 6) := ⟨rfl, rfl⟩
theorem test_decode_major_1B :
    Reads 4 0x00004DB9 (.salloc 19 4) ∧ Reads 4 0x100701B5 (.sfree 14 2) ∧ Reads 4 0x214189B7 (.bar 2 3 20 3)
    ∧ Reads 4 0x308781BB (.barrive 15 8 5) ∧ Reads 4 0x400801B7 (.bcancel 16 3) ∧ Reads 4 0x500381B7 (.lock 7 3)
    ∧ Reads 4 0x600401B5 (.unlock 8 2) ∧ Reads 4 0x71A481B9 (.waitv 9 26 4) := ⟨rfl, rfl, rfl, rfl, rfl, rfl, rfl, rfl⟩
theorem test_decode_major_1C :
    Reads 4 0x000581C7 (.phopen 11 3) ∧ Reads 4 0x100501C3 (.phset 10 1) ∧ Reads 4 0x200C01CD (.phend 24 6)
    ∧ Reads 4 0x300301C3 (.phwait 6 1) := ⟨rfl, rfl, rfl, rfl⟩
theorem test_decode_major_1D :
    Reads 4 0x005A55D9 (.stv 21 20 5 4) ∧ Reads 4 0x1023B5D5 (.ldv 13 7 2 2) ∧ Reads 4 0x219201D5 (.recl 4 25 2) := ⟨rfl, rfl, rfl⟩
theorem test_decode_major_1E :
    Reads 4 0x060001ED (.fenceLd 3 6) ∧ Reads 4 0x140001E9 (.fenceSt 2 4) ∧ Reads 4 0x260001E9 (.fenceAll 3 4) := ⟨rfl, rfl, rfl⟩
theorem test_decode_major_21 :
    Reads 4 0x17468A1B (.vsub 3 2 13 20 1 5) ∧ Reads 4 0x2360D219 (.vmul 1 20 1 22 1 4) ∧ Reads 4 0x680AE21D (.vsqrt 4 24 21 1 6)
    ∧ Reads 4 0xB2424A13 (.vaddNSat 1 18 4 4 1 1) ∧ Reads 4 0xCEA8CA1B (.vsubNSat 7 18 17 10 1 5) := ⟨rfl, rfl, rfl, rfl, rfl⟩
theorem test_decode_major_22 :
    Reads 4 0x4EA78623 (.vfms 7 1 15 10 2 1) ∧ Reads 4 0x54F8162B (.vdiv 2 5 16 15 2 5) ∧ Reads 4 0x8D392225 (.vsubSat 6 8 18 19 2 2)
    ∧ Reads 4 0x92A18A27 (.vmulSat 1 2 3 10 2 3) := ⟨rfl, rfl, rfl, rfl⟩
theorem test_decode_major_23 :
    Reads 4 0x0592E235 (.vadd 2 24 5 25 3 2) ∧ Reads 4 0x36A50E37 (.vfma 3 3 10 10 3 3) ∧ Reads 4 0x7525E639 (.vaddSat 2 25 11 18 3 4)
    ∧ Reads 4 0xACB9AA3B (.vfmaSat 6 10 19 11 3 5) := ⟨rfl, rfl, rfl, rfl⟩
theorem test_decode_major_24_0 :
    Reads 4 0x0B025A4B (.vmin 5 22 4 16 5) ∧ Reads 4 0x1C1C0649 (.vmax 6 1 24 1 4) ∧ Reads 4 0x27034643 (.vminN 3 17 6 16 1)
    ∧ Reads 4 0x38B11A45 (.vmaxN 4 6 2 11 2) ∧ Reads 4 0x48011245 (.vabs 4 4 2 2) ∧ Reads 4 0x5A0D124D (.vneg 5 4 26 6)
    ∧ Reads 4 0x6FA96647 (.vand 7 25 18 26 3) ∧ Reads 4 0x7770E647 (.vor 3 25 1 23 3) := ⟨rfl, rfl, rfl, rfl, rfl, rfl, rfl, rfl⟩
theorem test_decode_major_24_1 :
    Reads 4 0x84584E4D (.vxor 2 19 16 5 6) ∧ Reads 4 0x9F36524B (.vshl 7 20 12 19 5) ∧ Reads 4 0xA4E36A43 (.vshr 2 26 6 14 1)
    ∧ Reads 4 0xB72C1643 (.vsra 3 5 24 18 1) ∧ Reads 4 0xC80A5247 (.vmov 4 20 20 3) ∧ Reads 4 0xD05C4645 (.vtag 17 24 5 2)
    ∧ Reads 4 0xE2A9A243 (.vbcast 1 8 19 10 1) := ⟨rfl, rfl, rfl, rfl, rfl, rfl, rfl⟩
theorem test_decode_major_25_0 :
    Reads 4 0x0B961653 (.vcmpEq 5 5 12 25 1) ∧ Reads 4 0x1A13865D (.vcmpNe 5 1 7 1 6) ∧ Reads 4 0x23989A59 (.vcmpLt 1 6 17 25 4)
    ∧ Reads 4 0x36E60A53 (.vcmpGe 3 2 12 14 1) ∧ Reads 4 0x48CC9659 (.vcmpLe 4 5 25 12 4) ∧ Reads 4 0x573B1A53 (.vcmpGt 3 6 22 19 1)
    ∧ Reads 4 0x68549659 (.vcmpUn 4 5 9 5 4) ∧ Reads 4 0x79059E53 (.vcmpOrd 4 7 11 16 1) := ⟨rfl, rfl, rfl, rfl, rfl, rfl, rfl, rfl⟩
theorem test_decode_major_25_1 :
    Reads 4 0x876A1E5D (.vcmpLtN 3 7 20 22 6) ∧ Reads 4 0x94A30659 (.vcmpGeN 2 1 6 10 4) ∧ Reads 4 0xA93B1255 (.vcmpLeN 4 4 22 19 2)
    ∧ Reads 4 0xBB6B8E5B (.vcmpGtN 5 3 23 22 5) := ⟨rfl, rfl, rfl, rfl⟩
theorem test_decode_major_26 :
    Reads 4 0x66240A67 (.vcvt 3 2 8 6 2 3) := rfl
theorem test_decode_major_27_0 :
    Reads 4 0x0409E27D (.vredSum 2 24 19 6) ∧ Reads 4 0x1E025A7B (.vredMin 7 22 4 5) ∧ Reads 4 0x2A09327B (.vredMax 5 12 18 5)
    ∧ Reads 4 0x3A0B267B (.vredAnd 5 9 22 5) ∧ Reads 4 0x42059E77 (.vredOr 1 7 11 3) ∧ Reads 4 0x560BDE73 (.vredMinN 3 23 23 1)
    ∧ Reads 4 0x6C050E73 (.vredMaxN 6 3 10 1) ∧ Reads 4 0x788B5E77 (.vperm 4 23 22 8 3) := ⟨rfl, rfl, rfl, rfl, rfl, rfl, rfl, rfl⟩
theorem test_decode_major_27_1 :
    Reads 4 0x8C932277 (.vslide 6 8 6 9 3) ∧ Reads 4 0x9A03C67B (.vcompress 5 17 7 5) ∧ Reads 4 0xA8046A73 (.vgl 4 26 8 1)
    ∧ Reads 4 0xBE63CA77 (.vsel 18 7 6 7 3) := ⟨rfl, rfl, rfl, rfl⟩
theorem test_decode_major_28 :
    Reads 4 0x0051968B (.vcx 5 3 5 5) ∧ Reads 4 0x1B460A85 (.vdistDot 2 12 20 5 2) ∧ Reads 4 0x27440E8B (.vdistL2 3 8 20 3 5) := ⟨rfl, rfl, rfl⟩
theorem test_decode_major_29 :
    Reads 4 0x0A023A93 (.vchol8 14 4 5 1) ∧ Reads 4 0x102CBA93 (.vtrs8 14 25 2 1) := ⟨rfl, rfl⟩
theorem test_decode_major_2A :
    Reads 4 0x00238AAB (.pand 2 7 2 5) ∧ Reads 4 0x104396A5 (.por 5 7 4 2) ∧ Reads 4 0x202396A7 (.pxor 5 7 2 3)
    ∧ Reads 4 0x30011AAD (.pnot 6 2 6) ∧ Reads 4 0x400252A9 (.pcnt 20 4 4) ∧ Reads 4 0x50009AAD (.pfirst 6 1 6) := ⟨rfl, rfl, rfl, rfl, rfl, rfl⟩
theorem test_decode_major_30 :
    Reads 4 0x00000305 (.mlease 2) ∧ Reads 4 0x10000307 (.mfree 3) ∧ Reads 4 0x20003705 (.mstat 13 2)
    ∧ Reads 4 0x300CB709 (.mcheck 13 25 4) := ⟨rfl, rfl, rfl, rfl⟩
theorem test_decode_major_31 :
    Reads 4 0x0006BB17 (.mload 14 13 3) ∧ Reads 4 0x10039F1D (.mscale 7 7 6) ∧ Reads 4 0x2000031D (.mswap 6) := ⟨rfl, rfl, rfl⟩
theorem test_decode_major_32 :
    Reads 4 0x0032DB29 (.mmul 3 22 5 4) := rfl
theorem test_decode_major_33 :
    Reads 4 0x0012273D (.mdrain 1 9 4 6) := rfl
theorem test_decode_major_36 :
    Reads 4 0x00002F67 (.nalloc 11 3) ∧ Reads 4 0x10C60369 (.nfree 12 12 4) ∧ Reads 4 0x20118B6B (.nld 2 3 1 5)
    ∧ Reads 4 0x3037676B (.nst 25 14 3 5) := ⟨rfl, rfl, rfl, rfl⟩
theorem test_decode_major_37 :
    Reads 4 0x0073037B (.link 6 7 5) ∧ Reads 4 0x1000037D (.nrun 6) ∧ Reads 4 0x20940375 (.npush 8 9 2)
    ∧ Reads 4 0x3009D775 (.nmove 21 19 2) ∧ Reads 4 0x40000775 (.nbal 1 2) := ⟨rfl, rfl, rfl, rfl, rfl⟩
theorem test_decode_major_3A :
    Reads 4 0x00FCD7A9 (.xreq 21 25 15 4) ∧ Reads 4 0x100007A7 (.xget 1 3) := ⟨rfl, rfl⟩
theorem test_decode_major_3B :
    Reads 4 0x0052CFB3 (.kinit 19 5 5 1) ∧ Reads 4 0x1C8B43BB (.kadd 6 16 22 8 5) ∧ Reads 4 0x21A5EBB3 (.kdrain 26 11 26 1) := ⟨rfl, rfl, rfl⟩
theorem test_decode_major_3C :
    Reads 4 0x012183C9 (.bbinit 3 18 4) ∧ Reads 4 0x100D0FCD (.bbpeek 3 26 6) ∧ Reads 4 0x200897CD (.bbtake 5 17 6)
    ∧ Reads 4 0x300883C5 (.bbskip 17 2) ∧ Reads 4 0x400003C9 (.bbfill 4) := ⟨rfl, rfl, rfl, rfl, rfl⟩
theorem test_decode_major_3E :
    Reads 4 0x0003CFE3 (.snap 19 7 1) ∧ Reads 4 0x100903E3 (.eret 18 1) ∧ Reads 4 0x200CCFE3 (.cfgrd 19 25 1)
    ∧ Reads 4 0x317463E9 (.cfgwr 24 8 23 4) ∧ Reads 4 0x400267E7 (.sleep 25 4 3) ∧ Reads 4 0x500B83E3 (.wake 23 1)
    ∧ Reads 4 0x61E783E9 (.sopen 15 2 4) ∧ Reads 4 0x71D003E7 (.sclose 1 3) := ⟨rfl, rfl, rfl, rfl, rfl, rfl, rfl, rfl⟩

/-- Worked encodings that the chapters give beside their examples. -/
theorem test_decode_examples :
    Reads 4 0x091A1071 (.lui 4 0x1234 0) ∧ Reads 4 0xD6721031 (.addImm12 4 4 (-665) 0) ∧ Reads 4 0x82629161 (.vldtMap 4 5 6 1 0)
    ∧ Reads 4 0x100B83E1 (.eret 23 0) ∧ Reads 4 0x000293E1 (.snap 4 5 0) ∧ Reads 4 0x00601281 (.vcx 4 0 6 0)
    ∧ Reads 4 0x26622281 (.vdistL2 8 4 6 3 0) ∧ Reads 4 0x06021A91 (.vchol8 6 4 3 0) ∧ Reads 4 0x10531E91 (.vtrs8 7 6 5 0)
    ∧ Reads 4 0x00029BB1 (.kinit 6 5 0 0) ∧ Reads 4 0x20629FB1 (.kdrain 7 5 6 0) ∧ Reads 4 0xC4521961 (.vsttMap 6 4 5 2 0)
    ∧ Reads 4 0x20001F01 (.mstat 7 0) ∧ Reads 4 0x30029F01 (.mcheck 7 5 0) ∧ Reads 4 0x00203721 (.mmul 2 13 0 0)
    ∧ Reads 4 0x00001361 (.nalloc 4 0) ∧ Reads 4 0x215A0371 (.npush 20 21 0) ∧ Reads 4 0x3002B771 (.nmove 13 5 0)
    ∧ Reads 4 0x61D283E1 (.sopen 5 1 0) ∧ Reads 4 0x71D003E1 (.sclose 1 0) ∧ Reads 4 0x400317E1 (.sleep 5 6 0)
    ∧ Reads 4 0x500383E1 (.wake 7 0) ∧ Reads 4 0x14D61BB1 (.kadd 2 6 12 13 0) := ⟨rfl, rfl, rfl, rfl, rfl, rfl, rfl, rfl, rfl, rfl, rfl, rfl, rfl, rfl, rfl, rfl, rfl, rfl, rfl, rfl, rfl, rfl, rfl⟩

/-! ### Results: worked cases of the chapters, and values worked out by hand from the rules -/

/-- What scalar r will read after an instruction that gives a next state. -/
def scalarAfter (o : Outcome) (r : Nat) : Option Nat :=
  match o with
  | .next t => some (match t.me.pendingTo (.scalar r) with
    | some q => q.val.toNat % 2 ^ 64
    | none => (t.me.sreg r).toNat)
  | _ => none
/-- What vector r will read. -/
def vectorAfter (o : Outcome) (r : Nat) : Option (Nat × Tag) :=
  match o with
  | .next t => some (match t.me.pendingTo (.vector r) with
    | some q => (q.val.toNat, q.tag)
    | none => ((t.me.vreg r).val.toNat, (t.me.vreg r).tag))
  | _ => none
/-- What predicate r will read. -/
def predicateAfter (o : Outcome) (r : Nat) : Option Nat :=
  match o with
  | .next t => some (match t.me.pendingTo (.pred r) with
    | some q => q.val.toNat
    | none => (t.me.preg r).toNat)
  | _ => none
/-- The cause and TRAPVAL of the trap that an instruction raised into a handler. -/
def trapAfter (o : Outcome) : Option (Nat × Nat × Nat) :=
  match o with
  | .next t => if t.me.td then some (t.me.trapcause.toNat % 256, t.me.trapval.toNat, t.me.trappc.toNat) else none
  | _ => none
/-- 32-bit lanes from bit 0 upwards. -/
def lanes32 (l : List Nat) : BitVec 2048 := BitVec.ofNat 2048 (l.foldr (fun x a => x + 2 ^ 32 * a) 0)

-- R87, R88
theorem test_add_wraps : scalarAfter (exec (.add 0 5 3 4 0) (regs [(3, 2 ^ 64 - 1), (4, 3)])) 5 = some 2 := by decide +kernel
theorem test_div_most_negative : scalarAfter (exec (.div 0 5 3 4 0) (regs [(3, 2 ^ 63), (4, -1)])) 5 = some (2 ^ 63) := by decide +kernel
theorem test_rem_sign : scalarAfter (exec (.rem 0 5 3 4 0) (regs [(3, -7), (4, 2)])) 5 = some (2 ^ 64 - 1) := by decide +kernel
-- the tree-address case of R96: element (5, 3), its ancestor at depth 2, that block's eastern and northern neighbours
theorem test_taz : scalarAfter (exec (.taz 0 5 6 7 0) (regs [(6, 5), (7, 3)])) 5 = some 0x00C0000000000027 := by decide +kernel
theorem test_taup : scalarAfter (exec (.taupImm 8 5 22 0) (regs [(5, 0x02C0000000000027)])) 8 = some 0x0210000000000000 := by decide +kernel
theorem test_tanb_east : scalarAfter (exec (.tanb 0 9 8 10 0) (regs [(8, 0x0210000000000000), (10, 1)])) 9 = some 0x0210100000000000 := by decide +kernel
theorem test_tanb_north : scalarAfter (exec (.tanb 0 9 8 0 0) (regs [(8, 0x0210000000000000)])) 9 = some 0x0211A00000000000 := by decide +kernel
-- R94: offset 60 and width 8 take bits 63:60, sign-extended from bit 63
theorem test_bfxs_top : scalarAfter (exec (.bfxs 5 3 4 6 0) (regs [(3, 0x8000000000000000), (4, 60), (6, 8)])) 5 = some (2 ^ 64 - 8) := by decide +kernel
-- the loop case of R107: loop 0 with n = 2 goes on at 0x1004; loop 1 with n = 0 at the end of loop 0 goes back to it
theorem test_loop_skip : (match exec (.loop 5 1 3 0) ((regs [(5, 0)]).modCtx 0 0 fun x => { x with pc := 0x100A, lc := [(0, 2)], ls := [(0, 0x1004)], le := [(0, 0x1010)] }) with
    | .next t => some (t.me.pc, Map.getD t.me.lc 0 0) | _ => none) = some (0x1004, 1) := by decide +kernel
-- R61 to R63: with SBC = 1 the add after a mul of stall count 0 raises STALL_SHORT with TRAPVAL 5
theorem test_stall_short : (match exec (.add 0 8 5 5 0) ((trapping.modCtx 0 0 fun x => { x with sbc := true, pend := [{ pend5 (some 103) with val := 9 }] }).modCore 0 fun k => { k with cycle := 101 }) with
    | .next t => some t.me.op | _ => none) = some (.trap { cause := 0x04, val := 5 } false) := by decide +kernel
-- R177: an unaligned ld.64 raises ALIGN with the address, and saves the PC
theorem test_ld_align : trapAfter (exec (.ld 5 3 3 0 0) ((regs [(3, 0x2004)]).modCtx 0 0 fun x => { x with tvec := 0x100, pc := 0x40 })) = some (0x05, 0x2004, 0x40) := by decide +kernel
-- R177: bytes lie little-endian, and ld.sx extends the sign
theorem test_ldsx_16 : scalarAfter (exec (.ldSx 5 3 1 1 0) ((regs [(3, 0x2000)]).cwrite 0 0x2002 2 0xFF80)) 5 = some (2 ^ 64 - 128) := by decide +kernel
-- the table of R255
theorem test_vcvt_bf16 : vectorAfter (exec (.vcvt 0 5 4 0 7 0) (withVl (vecs [(4, { val := 0x3EAAAAAB, tag := .fp32 })]) 4)) 5 = some (0x3EAB, .bf16) := by decide +kernel
theorem test_conversions :
    (convert .fp32 .fp16 0x4788B800 .rne false = 0x7C00 ∧ convert .fp32 .fp16 0x4788B800 .rne true = 0x7BFF ∧ convert .fp32 .fp16 0x4788B800 .rz false = 0x7BFF)
    ∧ (convert .fp32 .e4m3 0x43E88000 .rne false = 0x7F ∧ convert .fp32 .e4m3 0x43E88000 .rne true = 0x7E ∧ convert .fp32 .e5m2 0x476A6000 .rne false = 0x7B)
    ∧ (convert .fp32 .e5m2 0x47723000 .rne false = 0x7E ∧ convert .fp32 .e4m3 0x3A800000 .rne false = 0 ∧ convert .fp32 .e4m3 0x3A800000 .ru false = 1)
    ∧ (convert .fp32 .int8 0xC0200000 .rne false = 0xFE ∧ convert .fp32 .int8 0xC0200000 .rd false = 0xFD ∧ convert .fp32 .int8 0x4396599A .rne false = 0x7F)
    ∧ (convert .fp32 .e8m0 0x40400000 .rne false = 0x81 ∧ convert .fp32 .e8m0 0x40400000 .rz false = 0x80)
    ∧ (convert .fp32 .ds8 0x3F400000 .rne false = 0x0A ∧ convert .fp32 .ds8 0x3E99999A .rne false = 0x24 ∧ convert .fp32 .ds8 0 .rne false = 0x08) := by decide +kernel
-- the bitonic case of R279
theorem test_vcx : (match exec (.vcx 4 2 3 0) (withVl (vecs [(4, { val := lanes32 ([1, 4, 6, 9, 8, 5, 3, 2].map fun n => codeOf fmtFp32 (fpOfInt n)), tag := .fp32 }),
      (5, { val := lanes32 [10, 11, 12, 13, 14, 15, 16, 17], tag := .int32 })]) 32) with
    | .next t => some ((vectorAfter (.next t) 4).map (·.1), (vectorAfter (.next t) 5).map (·.1)) | _ => none) =
    some (some (lanes32 ([1, 4, 3, 2, 8, 5, 6, 9].map fun n => codeOf fmtFp32 (fpOfInt n))).toNat, some (lanes32 [10, 11, 16, 17, 14, 15, 12, 13]).toNat) := by decide +kernel
-- the distance case of R283: two segments of 128 elements, each adds 128 × 4
theorem test_vdist_l2 : vectorAfter (exec (.vdistL2 8 4 6 3 0) (vecs [(4, { val := BitVec.ofNat 2048 ((2 ^ 2048 - 1) / 255 * 3), tag := .int8 }),
    (6, { val := BitVec.ofNat 2048 ((2 ^ 2048 - 1) / 255), tag := .int8 }), (8, { tag := .int32 })])) 8 = some (512 + 2 ^ 32 * 512, .int32) := by decide +kernel
-- the solver case of R284: A = 4I with A[3][3] = 0
theorem test_vchol8 : predicateAfter (exec (.vchol8 6 4 3 0) ((vecs [(4, { val := BitVec.ofNat 2048 (packAt 32 ([0, 9, 18, 36, 45, 54, 63].map fun e => (e, 0x40800000))), tag := .fp32 })]).modCtx 0 0 fun x =>
    { x with choleps := 0x35800000, cholreg := 0x3F800000 })) 3 = some (2 ^ 12) := by decide +kernel
-- the top-k case of R292: what the instance keeps of (3.0, 7), (1.0, 9), (3.0, 2) and (NaN, 1)
theorem test_topk : (([(0x40400000, 7), (0x3F800000, 9), (0x40400000, 2), (0x7FC00000, 1)] : List (BitVec 32 × BitVec 32)).foldl (fun q x => (Ku.take { q with buf := [x] }))
    { k := 2 }).list = [(0x3F800000, 9), (0x40400000, 2)] := by decide +kernel
-- R258, R270: INT8 elements wrap, or saturate
theorem test_vadd_int8 : vectorAfter (exec (.vadd 0 5 3 4 0 0) (withVl (vecs [(3, { val := 0x7F, tag := .int8 }), (4, { val := 0x01, tag := .int8 }), (5, { val := 0, tag := .int8 })]) 1)) 5 = some (0x80, .int8) := by decide +kernel
theorem test_vadd_sat_int8 : vectorAfter (exec (.vaddSat 0 5 3 4 0 0) (withVl (vecs [(3, { val := 0x7F, tag := .int8 }), (4, { val := 0x01, tag := .int8 }), (5, { val := 0, tag := .int8 })]) 1)) 5 = some (0x7F, .int8) := by decide +kernel
-- the histogram case of R205: slot 0x8000000400030014 with op1 0x25 takes bin 2
theorem test_fship_histogram : (match exec (.fshipPerform 0 0) { shipping 5 with
      vale := { routines := [(5, 0x8000000400030014)] }
      bdps := [(0, [{ core := 0, level := 0, asid := 0, ta := 24 * 2 ^ 51 + 0x100, phys := 0, op1 := 0x25, op2 := 1, slot := 5, width := 32, id := none, msg := none }])] } with
    | .next t => (t.phys.map fun c => ((c.1 : Nat) % 2048, c.2.toNat)) | _ => []) = [(0x102 * 4, 1)] := by decide +kernel

/-! ### Witnesses of further clauses -/

/-- Core 3 of cluster 0 acts; its eastern neighbour is in another cluster. -/
def atEdge : State := { at0 with cur := (3, 0) }

set_option maxRecDepth 20000 in
theorem witness_ScalarSourcesAndResults_outside :
    (∃ s : State, ∃ n g, Map.getD s.here.inq 1 [] = [] ∧ neighbour s.cur.1 1 = some n ∧ s.gangOf s.cur.1 = some g ∧ g.holds n = false
        ∧ ∀ id, Map.getD s.here.ports 1 .closed ≠ .open id)
    ∧ (∃ s : State, ∃ n g, Map.getD s.here.ports 1 .closed = .closed ∧ neighbour s.cur.1 1 = some n ∧ s.gangOf s.cur.1 = some g ∧ g.holds n = false) :=
  ⟨⟨atEdge, _, _, by decide, rfl, rfl, by decide, fun id h => by cases h⟩, ⟨atEdge, _, _, by decide, rfl, rfl, by decide⟩⟩

set_option maxRecDepth 20000 in
theorem witness_BranchesAndCalls_traps :
    (at0.me.pc.toNat : Int) + (-1 : BitVec 22).toInt * 2 < 0
    ∧ (∃ s : State, 0x3FFFFE < (s.me.pc.toNat : Int) + (2 : BitVec 22).toInt * 2)
    ∧ (∃ s : State, ∃ s1 t x, readS 3 s = .ok x s1 ∧ writeS 5 (BitVec.ofNat 64 (s.me.pc.toNat + 4)) s1 = .ok ⟨⟩ t ∧ 0x3FFFFE < x.toNat)
    ∧ (∃ s : State, ∃ s1 t x, readS 3 s = .ok x s1 ∧ writeS 5 (BitVec.ofNat 64 (s.me.pc.toNat + 4)) s1 = .ok ⟨⟩ t ∧ x.toNat ≤ 0x3FFFFE ∧ x.toNat % 2 = 1)
    ∧ (∃ s : State, ∃ s1 u x f, readS 3 s = .ok x s1 ∧ writeS 29 (BitVec.ofNat 64 (s.me.pc.toNat + 4)) s1 = .error (.trap f) u)
    ∧ (∃ s : State, ∃ t x, readS 3 s = .ok x t ∧ x ≠ 0 ∧ 0x3FFFFE < x.toNat)
    ∧ (∃ s : State, ∃ t x, readS 3 s = .ok x t ∧ x ≠ 0 ∧ x.toNat ≤ 0x3FFFFE ∧ x.toNat % 2 = 1) :=
  ⟨by decide, ⟨ctx0 fun x => { x with pc := 0x3FFFFC }, by decide⟩, ⟨regs [(3, 0x3FFFFF)], _, _, _, rfl, rfl, by decide⟩,
    ⟨regs [(3, 0x3FFFFD)], _, _, _, rfl, rfl, by decide, by decide⟩, ⟨atEdge, _, _, _, _, rfl, rfl⟩, ⟨regs [(3, 0x3FFFFF)], _, _, rfl, by decide, by decide⟩,
    ⟨regs [(3, 1)], _, _, rfl, by decide, by decide, by decide⟩⟩

set_option maxRecDepth 20000 in
theorem witness_LoopsTablesHalts_locked :
    (0x2000 : Nat) % 4 = 0 ∧ locked.inMailbox (clusterOf locked.cur.1) 0x2000 4 = false ∧ locked.lockedLocal (clusterOf locked.cur.1) 0x2000 4 false = true := by decide

/-- What a vld of core 0 at 0x1040 or another address meets: s3 holds the address less 256. -/
def Loads (s : State) (d : BitVec 5) (P : Nat → State → VReg → Prop) : Prop :=
  ∃ s1 s3 s4 x addr old got, readS 3 s = .ok x s1 ∧ checkLocal (formAddress x (1 : BitVec 10) 256) s.me.vl 64 false s1 = .ok addr s1
    ∧ oldV d (match s.firstGuarded (clusterOf s.cur.1) addr s.me.vl 4 with
        | some b => s1.modCore s1.cur.1 fun y => { y with guardrec := guardRecord y.guardrec false false s1.cur.2 b s1.me.pc.toNat }
        | none => s1) = .ok old s3
    ∧ blur (s.loadGranules (clusterOf s.cur.1) addr s.me.vl 4)
        (if s.badLocal (clusterOf s.cur.1) addr s.me.vl then s.badMask (clusterOf s.cur.1) addr s.me.vl else 0)
        ((s3.countRead (clusterOf s.cur.1) addr s.me.vl).scrub (clusterOf s.cur.1) addr s.me.vl) = .ok got s4
    ∧ P addr s4
      { val := lowBytes s.me.vl got old
        tag := if (s.firstGuarded (clusterOf s.cur.1) addr s.me.vl 4).isSome || s.badLocal (clusterOf s.cur.1) addr s.me.vl then .poison else .raw }

set_option maxRecDepth 20000 in
theorem witness_VectorClusterMemory_more :
    (∃ s : State, Loads s 5 fun addr s4 r => s.inHome addr = false ∧ s.me.vl ≠ 0 ∧ ∃ i t, deferV 5 r 0 s4 = .ok i t)
    ∧ (∃ s : State, Loads s 29 fun addr s4 r => s.inHome addr = true ∧ s.inHome (addr + s.me.vl - 1) = true ∧ ∃ t, writeVL 29 r 6 s4 = .ok ⟨⟩ t)
    ∧ (∃ s : State, s.badLocal 0 0x100 4 = true ∧ Loads s 5 fun addr s4 r => s.inHome addr = true ∧ ∃ t, writeVL 5 r 6 s4 = .ok ⟨⟩ t)
    ∧ (∃ s : State, ∀ w ∈ wordsOf 0x100 4, s.wordBad 0 w = false) ∧ (∃ s : State, s.wordBad 0 0x100 = true ∧ s.guarded 0 0x100 = false)
    ∧ (∃ s : State, ∃ s1 s2 x addr v b, readS 3 s = .ok x s1 ∧ checkLocal (formAddress x (1 : BitVec 10) 256) s.me.vl 64 true s1 = .ok addr s1
        ∧ readV 5 s1 = .ok v s2 ∧ v.tag ≠ .poison ∧ s.firstGuarded (clusterOf s.cur.1) addr s.me.vl 4 = some b) :=
  ⟨⟨(vecs []).modCtx 0 0 fun x => { x with s := [(3, 0x80000)] }, _, _, _, _, _, _, _, rfl, rfl, rfl, rfl, by decide, by decide, _, _, rfl⟩,
    ⟨vecs [], _, _, _, _, _, _, _, rfl, rfl, rfl, rfl, by decide, by decide, _, rfl⟩,
    ⟨{ (ctx0 fun x => { x with vl := 4 }) with wrong := [flaw 0 4, flaw 0 5] }, by decide, _, _, _, _, _, _, _, rfl, rfl, rfl, rfl, by decide, _, rfl⟩,
    ⟨at0, by decide⟩, ⟨{ at0 with wrong := [flaw 0 4, flaw 0 5] }, by decide⟩,
    ⟨{ (ctx0 fun x => { x with vl := 4 }) with guards := [0x100 / 64] }, _, _, _, 0x100, _, 0x100, rfl, rfl, rfl, by decide, by decide⟩⟩

set_option maxRecDepth 20000 in
theorem witness_TreeVectors_scatter :
    (∃ s : State, ∃ s1 s2 s3 pr idx x, readP 0 s = .ok pr s1 ∧ readV 7 s1 = .ok idx s2 ∧ readV 5 s2 = .ok x s3 ∧ idx.tag = .poison)
    ∧ (∃ s : State, ∃ s1 s2 s3 pr idx x, readP 0 s = .ok pr s1 ∧ readV 7 s1 = .ok idx s2 ∧ readV 5 s2 = .ok x s3 ∧ x.tag = .poison)
    ∧ (∃ s : State, ∃ s1 s2 s3 pr idx x, readP 0 s = .ok pr s1 ∧ readV 7 s1 = .ok idx s2 ∧ readV 5 s2 = .ok x s3 ∧ idx.tag ≠ .poison ∧ x.tag ≠ .poison
        ∧ idx.tag ≠ .int64) :=
  ⟨⟨vecs [(7, { tag := .poison })], _, _, _, _, _, _, rfl, rfl, rfl, rfl⟩, ⟨vecs [(5, { tag := .poison })], _, _, _, _, _, _, rfl, rfl, rfl, rfl⟩,
    ⟨vecs [(5, { tag := .fp32 }), (7, { tag := .int32 })], _, _, _, _, _, _, rfl, rfl, rfl, by decide, by decide, by decide⟩⟩

/-- Root 0 unheaded, with the operands of an engine function in s6, s7 and s8. -/
def engined (src second w : Word) : State := treed (3 * 2 ^ 60) 3 .fp32 [(6, src), (7, second), (8, w)]
/-- An engine function there, its checks passed or not. -/
def Issues (s : State) (fn : EngFn) (P : State → Word → Word → Word → Prop) : Prop :=
  ∃ s1 s2 s3 src second w, readS 6 s = .ok src s1 ∧ (fn ≠ .bzero → readS 7 s1 = .ok second s2) ∧ (fn = .bzero → second = 0 ∧ s2 = s1) ∧ readS 8 s2 = .ok w s3
    ∧ P s3 src second w

set_option maxRecDepth 20000 in
theorem witness_EngineAndShippedFunctions_issue :
    (∃ s : State, Issues s .bcopy fun _ src second _ => ∃ n, addressRefusal .bcopy src second = some n)
    ∧ (∃ s : State, Issues s .bfill fun u src second w => addressRefusal .bfill src second = none ∧ ∃ t, engineRefusal .bfill u 0 src second w = some t)
    ∧ (∃ s : State, Issues s .bzero fun u src second w => addressRefusal .bzero src second = none ∧ engineRefusal .bzero u 0 src second w = none
        ∧ 64 < u.home.ranges.length + 1 ∧ ∃ n t, deferS 5 1 0 u = .ok n t)
    ∧ (∃ s : State, Issues s .bcopy fun u src second w => addressRefusal .bcopy src second = none ∧ engineRefusal .bcopy u 0 src second w = none
        ∧ u.home.ranges.length + 2 ≤ 64 ∧ u.performed u.cur.1 u.cur.2 = true ∧ ∃ u1, takeCounts (w.getLsbD 7) none u = .ok ⟨⟩ u1)
    ∧ (∃ s : State, Issues s .bfill fun u src second w => addressRefusal .bfill src second = none ∧ engineRefusal .bfill u 0 src second w = none
        ∧ u.home.ranges.length + 1 ≤ 64 ∧ u.performed u.cur.1 u.cur.2 = false)
    ∧ (∃ s : State, Issues s .lift fun u src second w => addressRefusal .lift src second = none ∧ engineRefusal .lift u 0 src second w = none ∧ second ≠ 0
        ∧ ∃ g, u.gangOf u.cur.1 = some g ∧ (g.toPhys (second.toNat % 2 ^ 13)).isSome = true ∧ u.here.acks < 16)
    ∧ (∃ s : State, Issues s .drop fun u src second w => addressRefusal .drop src second = none ∧ engineRefusal .drop u 0 src second w = none ∧ second ≠ 0
        ∧ ∃ g, u.gangOf u.cur.1 = some g ∧ g.toPhys (second.toNat % 2 ^ 13) = none)
    ∧ (∃ s : State, Issues s .drop fun u src second w => addressRefusal .drop src second = none ∧ engineRefusal .drop u 0 src second w = none ∧ second ≠ 0
        ∧ ∃ g, u.gangOf u.cur.1 = some g ∧ (g.toPhys (second.toNat % 2 ^ 13)).isSome = true ∧ u.here.acks = 16)
    ∧ (∃ s : State, s.me.held = [3]) :=
  ⟨⟨engined (25 * 2 ^ 51) 0 0, _, _, _, _, _, _, rfl, fun _ => rfl, (fun h => by cases h), rfl, _, rfl⟩,
    ⟨engined 0 0 (2 ^ 24), _, _, _, _, _, _, rfl, fun _ => rfl, (fun h => by cases h), rfl, by decide, _, rfl⟩,
    ⟨(engined 0 0 0).modCluster 0 fun k => { k with ranges := List.replicate 64 { id := 1, dest := true, tree := true, core := 1, level := 0 } },
      _, _, _, _, _, _, rfl, fun h => absurd rfl h, fun _ => ⟨rfl, rfl⟩, rfl, by decide, by decide, by decide, _, _, rfl⟩,
    ⟨engined (2 ^ 51) (2 ^ 51) 0, _, _, _, _, _, _, rfl, fun _ => rfl, (fun h => by cases h), rfl, by decide, by decide, by decide, by decide, _, rfl⟩,
    ⟨(engined 0 0 0).modCore 0 fun k => { k with sysq := [amoAt none] }, _, _, _, _, _, _, rfl, fun _ => rfl, (fun h => by cases h), rfl, by decide, by decide, by decide, by decide⟩,
    ⟨engined 0 (2 ^ 20 + 1) 0, _, _, _, _, _, _, rfl, fun _ => rfl, (fun h => by cases h), rfl, by decide, by decide, by decide, _, rfl, by decide, by decide⟩,
    ⟨engined 0 (2 ^ 20 + 6143) 0, _, _, _, _, _, _, rfl, fun _ => rfl, (fun h => by cases h), rfl, by decide, by decide, by decide, _, rfl, by decide⟩,
    ⟨(engined 0 1 0).modCore 0 fun k => { k with acks := 16 }, _, _, _, _, _, _, rfl, fun _ => rfl, (fun h => by cases h), rfl, by decide, by decide, by decide, _, rfl,
      by decide, by decide⟩, ⟨ctx0 fun x => { x with held := [3] }, rfl⟩⟩

set_option maxRecDepth 20000 in
theorem witness_MessageSends_quota : ∃ s : State, ∃ t dw x, readS 3 s = .ok dw t ∧ t.receiver t.cur.1 dw = some x ∧ t.here.acks < 16
    ∧ t.here.mayInject (dw.toNat / 2 ^ 16 % 4) 1 = false :=
  ⟨core0 fun k => { k with frameq := 1, frameCount := [(0, 1)] }, _, _, _, rfl, rfl, by decide, by decide⟩

/-- Core 0 deposits, up to the checks of its descriptor. -/
def Deposits (s : State) (P : State → Word → Word → Word → Prop) : Prop :=
  ∃ s1 s2 s3 dw D head x, readS 3 s = .ok dw s1 ∧ readS 4 s1 = .ok D s2 ∧ D.toNat < 2 ^ 22 ∧ D.toNat % 64 = 0 ∧ depositRead D.toNat 64 16 s2 = .ok head s3
    ∧ cwClass (BitVec.ofNat 64 (head % 2 ^ 64)) < 0xF0
    ∧ s.badDescriptor (clusterOf s.cur.1) (BitVec.ofNat 64 (head % 2 ^ 64)) (BitVec.ofNat 64 (head / 2 ^ 64 % 2 ^ 64)) = false
    ∧ s3.receiver s3.cur.1 dw = some x ∧ P s3 dw D (BitVec.ofNat 64 (head % 2 ^ 64))

/-- The same to a versioned block, with a stamp. -/
def stamping : State := (regs [(3, 1), (4, 0x1000)]).cwrite 0 0x1000 16 (2 ^ 46 + 2 ^ 45 + 2 ^ 38 + 0x70000 / 64 * 2 ^ 22 + 2 ^ 64 * 0x2000)

set_option maxRecDepth 20000 in
theorem witness_DepositInjection_waits :
    (∃ s : State, Deposits s fun s3 _ _ _ => s3.here.acks = 16 ∧ s3.me.rtc = false)
    ∧ (∃ s : State, Deposits s fun s3 dw _ cw => s3.here.acks < 16 ∧ s3.here.mayInject (dw.toNat / 2 ^ 16 % 4) (1 + cwFlits cw) = false)
    ∧ (∃ s : State, Deposits s fun s3 dw D cw => s3.here.acks < 16 ∧ s3.here.mayInject (dw.toNat / 2 ^ 16 % 4) (1 + cwFlits cw) = true ∧ cwVstamp cw = true
        ∧ ∃ s4 s5 data, depositBad (D.toNat + 16) 48 s3 = .ok ⟨⟩ s4 ∧ depositRead 0x2000 64 64 s4 = .ok data s5 ∧ s5.performed s5.cur.1 s5.cur.2 = false) :=
  ⟨⟨depositing.modCore 0 fun k => { k with acks := 16 }, _, _, _, _, _, _, _, rfl, rfl, by decide, by decide, rfl, by decide, by decide, rfl, by decide, by decide⟩,
    ⟨depositing.modCore 0 fun k => { k with frameq := 2, frameCount := [(0, 1)] }, _, _, _, _, _, _, _, rfl, rfl, by decide, by decide, rfl, by decide, by decide, rfl,
      by decide, by decide⟩,
    ⟨stamping.modCore 0 fun k => { k with sysq := [{ amoAt none with addr := 0x8000 }] },
      _, _, _, _, _, _, _, rfl, rfl, by decide, by decide, rfl, by decide, by decide, rfl, by decide, by decide, by decide, _, _, _, rfl, rfl, by decide⟩⟩

/-- A slot with a barrier at which one of two has arrived. -/
def halfBar : Word × Word := (objWord 1 0 2 1, 0)
/-- Context 1 of core 0 waits. -/
def waiter (s : State) : State := s.modCtx 0 1 fun x => { x with st := .waiting }
/-- A core's handle in s3 is read. -/
def Handles (s : State) (P : State → Word → Nat → Prop) : Prop :=
  ∃ t h o, readS 3 s = .ok h t ∧ t.handleKey (clusterOf t.cur.1) h = some o ∧ P t h o

set_option maxRecDepth 20000 in
theorem witness_SlotsLocksBarriers_locks :
    (∃ s : State, Handles s fun t _ o => objKind (s.obj (clusterOf s.cur.1) o) = 2 ∧ s.holdsLock (clusterOf s.cur.1) o s.cur.1 s.cur.2 = true
        ∧ t.performed t.cur.1 t.cur.2 = true ∧ Map.getD s.home.lockQ o [] = (0, 1) :: [] ∧ (s.ctx 0 1).st = .waiting)
    ∧ (∃ s : State, Handles s fun _ _ o => objKind (s.obj (clusterOf s.cur.1) o) = 1 ∧ s.objBusy (clusterOf s.cur.1) o = true)
    ∧ (∃ s : State, Handles s fun _ _ o => objHeld (s.obj (clusterOf s.cur.1) o) = true ∧ objKind (s.obj (clusterOf s.cur.1) o) ≠ 1
        ∧ s.holdsLock (clusterOf s.cur.1) o s.cur.1 s.cur.2 = true)
    ∧ (∃ s : State, Handles s fun _ _ o => objHeld (s.obj (clusterOf s.cur.1) o) = true ∧ objKind (s.obj (clusterOf s.cur.1) o) ≠ 1 ∧ s.me.rtc = true)
    ∧ (∃ s : State, Handles s fun _ _ o => objKind (s.obj (clusterOf s.cur.1) o) ≠ 2)
    ∧ (∃ s : State, Handles s fun t _ o => objKind (s.obj (clusterOf s.cur.1) o) = 2 ∧ s.holdsLock (clusterOf s.cur.1) o s.cur.1 s.cur.2 = true
        ∧ t.performed t.cur.1 t.cur.2 = false) :=
  ⟨⟨waiter ((slotted heldLock []).modCluster 0 fun k => { k with lockQ := [(3, [(0, 1)])] }), _, _, _, rfl, rfl, by decide, by decide, by decide, rfl, rfl⟩,
    ⟨slotted halfBar [], _, _, _, rfl, rfl, by decide, by decide⟩, ⟨slotted heldLock [], _, _, _, rfl, rfl, by decide, by decide, by decide⟩,
    ⟨(slotted heldLock []).modCtx 0 0 fun x => { x with rtc := true }, _, _, _, rfl, rfl, by decide, by decide, by decide⟩,
    ⟨slotted halfBar [], _, _, _, rfl, rfl, by decide⟩,
    ⟨(slotted heldLock []).modCore 0 fun k => { k with sysq := [amoAt none] }, _, _, _, rfl, rfl, by decide, by decide, by decide⟩⟩

/-- A bar on the handle of s3 comes to its object. -/
def Bars (s : State) (P : State → Word → Prop) : Prop :=
  ∃ s1 h, claimDest 5 s = .ok ⟨⟩ s ∧ readS 3 s = .ok h s1 ∧ s.me.rtc = false ∧ s1.here.guardrec.getLsbD 63 = false ∧ P (s1.endMarks s1.cur.1 s1.cur.2) h

set_option maxRecDepth 20000 in
theorem witness_SlotsLocksBarriers_bars :
    (∃ s : State, Bars s fun u h => u.handleKey (clusterOf u.cur.1) h = none)
    ∧ (∃ s : State, Bars s fun u h => ∃ o n t, u.handleKey (clusterOf u.cur.1) h = some o ∧ readS 4 u = .ok n t ∧ n.toNat = 0)
    ∧ (∃ s : State, Bars s fun u h => ∃ o n t, u.handleKey (clusterOf u.cur.1) h = some o ∧ readS 4 u = .ok n t ∧ 65535 < n.toNat)
    ∧ (∃ s : State, Bars s fun u h => ∃ o n t, u.handleKey (clusterOf u.cur.1) h = some o ∧ expected 4 u = .ok n t ∧ t.performed t.cur.1 t.cur.2 = true
        ∧ t.arrive (clusterOf t.cur.1) o n = none ∧ objKind (t.obj (clusterOf t.cur.1) o) = 2 ∧ t.objBusy (clusterOf t.cur.1) o = true)
    ∧ (∃ s : State, Bars s fun u h => ∃ o n t, u.handleKey (clusterOf u.cur.1) h = some o ∧ expected 4 u = .ok n t ∧ t.performed t.cur.1 t.cur.2 = true
        ∧ t.arrive (clusterOf t.cur.1) o n = none ∧ objArrived (t.obj (clusterOf t.cur.1) o) ≠ 0 ∧ objExpect (t.obj (clusterOf t.cur.1) o) ≠ n)
    ∧ (∃ s : State, s.performed s.cur.1 s.cur.2 = true ∧ ∃ h t, readS 3 s = .ok h t ∧ t.handleKey (clusterOf t.cur.1) h = none)
    ∧ (∃ s : State, s.performed s.cur.1 s.cur.2 = true ∧ Handles s fun u _ o => ∃ n t, expected 4 u = .ok n t ∧ t.arrive (clusterOf t.cur.1) o n = none)
    ∧ (∃ s : State, s.performed s.cur.1 s.cur.2 = true ∧ Handles s fun u _ _ => ∃ n t, readS 4 u = .ok n t ∧ 65535 < n.toNat)
    ∧ (∃ s : State, Handles s fun _ _ o => objKind (s.obj (clusterOf s.cur.1) o) = 2 ∧ s.objBusy (clusterOf s.cur.1) o = true)
    ∧ (∃ s : State, claimDest 5 s = .ok ⟨⟩ s ∧ s.me.rtc = false ∧ s.cur.2 ≠ 0 ∧ s.here.guardrec.getLsbD 63 = false
        ∧ (s.endMarks s.cur.1 s.cur.2).performed (s.endMarks s.cur.1 s.cur.2).cur.1 (s.endMarks s.cur.1 s.cur.2).cur.2 = true)
    ∧ (∃ s : State, ((0, 1, 5) ∈ [((0 : Nat), (1 : Nat), (5 : Nat)), (0, 2, 29)]) ∧ (([(0, 1, 5), (0, 2, 29)].map fun w : Nat × Nat × Nat => (w.1, w.2.1)).Nodup)
        ∧ (s.ctx 0 1).st = .waiting) :=
  ⟨⟨regs [(3, 63)], _, _, rfl, rfl, rfl, by decide, by decide⟩, ⟨slotted (0, 0) [], _, _, rfl, rfl, rfl, by decide, _, _, _, rfl, rfl, by decide⟩,
    ⟨slotted (0, 0) [(4, 65536)], _, _, rfl, rfl, rfl, by decide, _, _, _, rfl, rfl, by decide⟩,
    ⟨slotted (objWord 2 0 0 0, lockWord 1 0) [(4, 8)], _, _, rfl, rfl, rfl, by decide, _, _, _, rfl, rfl, by decide, by decide, by decide, by decide⟩,
    ⟨slotted halfBar [(4, 3)], _, _, rfl, rfl, rfl, by decide, _, _, _, rfl, rfl, by decide, by decide, by decide, by decide⟩,
    ⟨regs [(3, 63)], by decide, _, _, rfl, by decide⟩, ⟨slotted halfBar [(4, 3)], by decide, _, _, _, rfl, rfl, _, _, rfl, by decide⟩,
    ⟨slotted (0, 0) [(4, 65536)], by decide, _, _, _, rfl, rfl, _, _, rfl, by decide⟩, ⟨slotted heldLock [], _, _, _, rfl, rfl, by decide, by decide⟩,
    ⟨{ at0 with cur := (0, 1) }, rfl, rfl, by decide, by decide, by decide⟩, ⟨waiter at0, by decide, by decide, rfl⟩⟩

set_option maxRecDepth 20000 in
theorem witness_WaitsAndPhaseInstructions_watch : ∃ s : State, ∃ w f, Map.get? s.watch (4 * 0 + 0) = some (w, f) ∧ w < 0x2007 + 1 ∧ 0x2007 < w + 8 :=
  ⟨{ at0 with watch := [(0, (0x2000, false))] }, _, _, rfl, by decide, by decide⟩

set_option maxRecDepth 20000 in
theorem witness_VersionedWords_waits :
    (∃ s : State, ∃ s1 s2 A n r, claimDest 5 s = .ok ⟨⟩ s ∧ readS 3 s = .ok A s1 ∧ readS 4 s1 = .ok n s2 ∧ A.toNat < 2 ^ 22 ∧ A.toNat / 2 ^ 16 % 8 = 7
        ∧ A.toNat % 8 = 0 ∧ 0 < n.toNat % 2 ^ 32 ∧ (s.core (ownerCore (clusterOf s.cur.1) A.toNat)).version A.toNat = some r
        ∧ (∀ e ∈ r.live, e.1 ≠ n.toNat % 2 ^ 32) ∧ r.f < n.toNat % 2 ^ 32 ∧ r.h < n.toNat % 2 ^ 32 ∧ s.me.rtc = false)
    ∧ (∃ s : State, ∃ s1 s2 A n r, claimDest 5 s = .ok ⟨⟩ s ∧ readS 3 s = .ok A s1 ∧ readS 4 s1 = .ok n s2 ∧ A.toNat < 2 ^ 22 ∧ A.toNat / 2 ^ 16 % 8 = 7
        ∧ A.toNat % 8 = 0 ∧ 0 < n.toNat % 2 ^ 32 ∧ (s.core (ownerCore (clusterOf s.cur.1) A.toNat)).version A.toNat = some r
        ∧ (∀ e ∈ r.live, e.1 ≠ n.toNat % 2 ^ 32) ∧ r.f < n.toNat % 2 ^ 32 ∧ r.h < n.toNat % 2 ^ 32 ∧ s.me.rtc = true)
    ∧ (∃ s : State, ∃ s1 s2 s3 A v n r, readS 3 s = .ok A s1 ∧ readS 4 s1 = .ok v s2 ∧ readS 5 s2 = .ok n s3 ∧ A.toNat < 2 ^ 22 ∧ A.toNat / 2 ^ 16 % 8 = 7
        ∧ A.toNat % 8 = 0 ∧ 0 < n.toNat % 2 ^ 32 ∧ (s.core (ownerCore (clusterOf s.cur.1) A.toNat)).version A.toNat = some r ∧ r.h < n.toNat % 2 ^ 32
        ∧ 4 ≤ r.live.length)
    ∧ (∃ s : State, ∃ s1 s2 s3 A v n, readS 3 s = .ok A s1 ∧ readS 4 s1 = .ok v s2 ∧ readS 5 s2 = .ok n s3 ∧ A.toNat < 2 ^ 22 ∧ A.toNat / 2 ^ 16 % 8 = 7
        ∧ A.toNat % 8 = 0 ∧ 0 < n.toNat % 2 ^ 32 ∧ (s.core (ownerCore (clusterOf s.cur.1) A.toNat)).version A.toNat = none
        ∧ (s.core (ownerCore (clusterOf s.cur.1) A.toNat)).versionRoom A.toNat = true ∧ s3.performed s3.cur.1 s3.cur.2 = false) :=
  ⟨⟨versioned 4 [(4, 5)], _, _, _, _, _, rfl, rfl, rfl, by decide, by decide, by decide, by decide, rfl, by decide, by decide, by decide, rfl⟩,
    ⟨(versioned 4 [(4, 5)]).modCtx 0 0 fun x => { x with rtc := true }, _, _, _, _, _, rfl, rfl, rfl, by decide, by decide, by decide, by decide, rfl, by decide,
      by decide, by decide, rfl⟩,
    ⟨(versioned 4 [(5, 5)]).modCore (ownerCore 0 0x70000) fun k => { k with versions := [(0x70000, { h := 4, f := 0, live := [(1, 0), (2, 0), (3, 0), (4, 0)] })] },
      _, _, _, _, _, _, _, rfl, rfl, rfl, by decide, by decide, by decide, by decide, rfl, by decide, by decide⟩,
    ⟨(regs [(3, 0x70000), (5, 1)]).modCore 0 fun k => { k with sysq := [amoAt none] }, _, _, _, _, _, _, rfl, rfl, rfl, by decide, by decide, by decide, by decide,
      by decide, by decide, by decide⟩⟩

set_option maxRecDepth 20000 in
theorem witness_TopKUnit_order :
    (∃ q : Ku, ∃ x r, q.buf = x :: r ∧ q.rejects x = false ∧ BeforeSorted q.key q.list ∧ q.list ≠ [])
    ∧ (∃ q : Ku, ∃ x r, q.buf = x :: r ∧ q.rejects x = true)
    ∧ (∃ s : State, ∃ (ps : List (BitVec 32 × BitVec 32)) (i : Nat) (x : BitVec 32 × BitVec 32), Mem.wf s.cmem = true
        ∧ (∀ j, j < ps.length → s.guarded 0 (0x1000 + 8 * j) = false) ∧ ps[i]? = some x) :=
  ⟨⟨{ k := 2, key := 2, buf := [(5, 0)], list := [(7, 1)] }, _, _, rfl, by decide, by unfold BeforeSorted; simp, by decide⟩,
    ⟨{ k := 1, key := 2, buf := [(9, 0)], list := [(7, 1)], thr := true, theta := 3 }, _, _, rfl, by decide⟩, ⟨at0, [(7, 1)], 0, _, by decide, fun _ _ => rfl, rfl⟩⟩

set_option maxRecDepth 20000 in
theorem witness_MatrixArrayLeases_rtc :
    ∃ s : State, (s.quad (quadOf s.cur.1)).awaits s.cur.1 s.cur.2 = false ∧ (s.quad (quadOf s.cur.1)).otherLevel s.cur.1 s.cur.2 = false
      ∧ (s.quad (quadOf s.cur.1)).atLimit = false ∧ (s.quad (quadOf s.cur.1)).holder ≠ some s.cur ∧ (s.quad (quadOf s.cur.1)).holder ≠ none ∧ s.me.rtc = true :=
  ⟨quad0 { holder := some (1, 0) } (ctx0 fun x => { x with rtc := true }), by decide, by decide, by decide, by decide, by decide, by decide⟩

set_option maxRecDepth 20000 in
theorem witness_SystemAndStreamInstructions_sleep :
    (∃ s : State, ∃ t d, (s.ctx 0 1).st = .waiting ∧ (s.ctx 0 1).wait = .sleep t d ∧ t ≠ 0 ∧ t.toNat ≤ (s.core 0).cycle)
    ∧ (∃ s : State, ∃ t d, (s.ctx 0 1).st ≠ .waiting ∧ (s.ctx 0 1).wait = .sleep t d) ∧ (∃ s : State, ∀ t d, (s.ctx 0 1).wait ≠ .sleep t d) :=
  ⟨⟨(core0 fun k => { k with cycle := 100 }).modCtx 0 1 fun x => { x with st := .waiting, wait := .sleep 9 5 }, _, _, rfl, rfl, by decide, by decide⟩,
    ⟨at0.modCtx 0 1 fun x => { x with wait := .sleep 9 5 }, _, _, by decide, rfl⟩, ⟨at0, fun _ _ h => by cases h⟩⟩

/-- No channel is stalled, so no object waits. -/
theorem objectStalls_of_none {s : State} (h : s.anyStall = false) (a : Nat) (t : Word) (k : Access) (o n : Nat) : s.objectStalls a t k o n = false := by
  simp only [State.objectStalls, h, Bool.false_and]
theorem launchStalls_of_none {s : State} (h : s.anyStall = false) (a : Nat) (t : Word) (c : CodeHdr) (m : BitVec 16) : s.launchStalls a t c m = false := by
  simp [State.launchStalls, objectStalls_of_none h]

/-- The channel of the first bytes of a code object is stalled. -/
def stalledStart : State := { starting with slices := [(homeSlice (8 * 2048), { stalled := [0, 1] })] }
theorem stalledStart_launch : stalledStart.launchStalls 0 0 {} 0 = true := by
  unfold State.launchStalls CodeHdr.parts
  rw [List.cons_append, List.any_cons, Bool.or_eq_true]
  left
  unfold State.objectStalls
  rw [Bool.and_eq_true]
  refine ⟨by decide +kernel, List.any_eq_true.mpr ⟨0, ?_, by decide +kernel⟩⟩
  simp [count, Nat.add_comm 64]

set_option maxRecDepth 20000 in
theorem witness_GangStart_stalls :
    (∃ s : State, ∃ g, Map.get? s.gangs 0 = some g ∧ s.launchStalls g.asid g.code g.hdr g.xumask = false)
    ∧ (∃ s : State, ∃ g, Map.get? s.gangs 0 = some g ∧ s.launchStalls g.asid g.code g.hdr g.xumask = true) :=
  ⟨⟨starting, {}, rfl, launchStalls_of_none (by decide) _ _ _ _⟩, ⟨stalledStart, {}, rfl, stalledStart_launch⟩⟩

set_option maxRecDepth 20000 in
theorem witness_GangPreemption_clock :
    (∃ s : State, ∃ h, (s.cores.map (·.1)).Nodup ∧ (s.core 0).halting = some h ∧ (Map.getD s.mod.islands (quadOf 0) (1400, 0)).1 ≠ 1800)
    ∧ (∃ s : State, ∃ g, Map.get? s.gangs 0 = some g ∧ s.objectStalls g.asid g.imageTA .write 0 (Config.imageBytes s.freeCtr).length = false) :=
  ⟨⟨core0 fun k => { k with halting := some 40 }, _, by decide, rfl, by decide⟩, ⟨at0, _, rfl, objectStalls_of_none (by decide) _ _ _ _ _⟩⟩

/-- A bfill of root 0 has filled a part of its unit. -/
def partFilled : State := { tree32 with engines := [{ filling 24 0 with part := 1 }] }
set_option maxRecDepth 20000 in
theorem witness_ModuleEvents_registers :
    tree32.unitOpen 0 (taOf 0 0 0) = false ∧ partFilled.unitOpen 0 (taOf 0 0 0) = true ∧ (1001 : BitVec 64).toNat > 1000
    ∧ ((0x08 : Nat) ≠ 0 ∧ 0x08 ≠ 0x18 ∧ 0x08 ≠ 0x20 ∧ 0x08 ≠ 0x28) := by decide

set_option maxRecDepth 20000 in
theorem witness_ValeSystemCalls_stalls :
    (∃ s : State, ∃ e, Asks s 0 0 0x31 (21 * 2 ^ 51) ∧ s.subEntry (s.asidOf 0) (21 * 2 ^ 51) = some e ∧ s.walkWaits (s.asidOf 0) (21 * 2 ^ 51) = false)
    ∧ (∃ s : State, ∃ e, Asks s 0 0 0x32 (21 * 2 ^ 51) ∧ s.subEntry (s.asidOf 0) (21 * 2 ^ 51) = some e ∧ s.unitOpen (s.asidOf 0) (21 * 2 ^ 51) = false
        ∧ s.walkWaits (s.asidOf 0) (21 * 2 ^ 51) = false)
    ∧ (∃ s : State, Asks s 0 0 0x33 0 ∧ (s.root (s.asidOf 0) 0).valid = true ∧ s.unitOpen (s.asidOf 0) (taOf 0 0 0) = false
        ∧ ∀ b ∈ s.tablesOf [(s.root (s.asidOf 0) 0).tbase] 5, s.stalledAt (b * 2048) = false)
    ∧ (∃ s : State, ∃ d dd e h, Asks s 0 0 0x41 (18 * 2 ^ 51) ∧ s.pageRoot (s.asidOf 0) (18 * 2 ^ 51) true = some d
        ∧ s.walk (s.asidOf 0) (18 * 2 ^ 51) = .ok (dd, e) ∧ Map.get? s.headers (d.hbase * 32 + entryBase e.w1) = some h ∧ h.state = .stable ∧ h.mx4 = false
        ∧ (∀ q ∈ (s.slice (homeSlice ((d.hbase * 32 + entryBase e.w1) * 64))).reqs, PageReq.page q ≠ d.hbase * 32 + entryBase e.w1)
        ∧ s.headerStalled (d.hbase * 32 + entryBase e.w1) = false ∧ s.walkWaits (s.asidOf 0) (18 * 2 ^ 51) = false) :=
  ⟨⟨asks 0x31 (21 * 2 ^ 51) (paged 1 3), _, asks_Asks _ _ _ rfl, rfl, by decide +kernel⟩,
    ⟨asks 0x32 (21 * 2 ^ 51) (paged 1 3), _, asks_Asks _ _ _ rfl, rfl, rfl, by decide +kernel⟩,
    ⟨asks 0x33 0 (paged 1 3), asks_Asks _ _ _ rfl, by decide +kernel, by decide +kernel, by decide +kernel⟩,
    ⟨allocated, allocated.root 0 0, _, _, _, asks_Asks _ _ _ rfl, rfl, rfl, rfl, rfl, rfl, by decide, by decide +kernel, by decide +kernel⟩⟩

/-- The same with a re-layout of its slice that waits for the slot. -/
def allocatingLate : State := allocating.modSlice (homeSlice (33 * 64)) fun y => { y with waiting := [40] }
set_option maxRecDepth 20000 in
set_option maxHeartbeats 2000000 in
theorem witness_ValeSystemCalls_kvallocFull :
    ∃ s : State, ∃ d s1 key, Asks s 0 0 0x40 0x1000 ∧ DescriptorAt 0x1000 64 ∧ (let b := s.argBytes 0 0x1000 64
       let n := homeSlice ((d.hbase * 32 + dword b 2) * 64)
       dword b 1 ≤ 0xFE ∧ dword b 2 < 2 ^ 32 ∧ dword b 3 < 4 ∧ zeroWords b 4 4 = true
        ∧ s.pageRoot (s.asidOf 0) (BitVec.ofNat 64 (dword b 0)) true = some d ∧ 0 < dword b 2 ∧ dword b 2 ≤ s.npages d.hbase
        ∧ Map.get? s.headers (d.hbase * 32 + dword b 2) = none ∧ s.pageSlot d (taPath (BitVec.ofNat 64 (dword b 0))) = some (s1, key)
        ∧ (s1.slice n).fp8.free + (s1.slice n).fp8.back.length ≤ (s1.slice n).waiting.length) :=
  ⟨allocatingLate, allocatingLate.root 0 0, _, _, ⟨5, rfl, by simp [State.firstCall, allocatingLate, allocating, asking, asks, State.modSlice]⟩, by unfold DescriptorAt; decide,
    ⟨by decide +kernel, by decide +kernel, by decide +kernel, by decide +kernel, rfl, by decide +kernel, by decide +kernel, rfl, rfl, by decide +kernel⟩⟩

set_option maxRecDepth 20000 in
theorem witness_RegisterInstructionFrames_units :
    (∃ i w s t, unitTargets i = some w ∧ exec i s = .next t ∧ s.me.st = .running ∧ i = .lock 3 0)
    ∧ (∃ i w s t, unitTargets i = some w ∧ exec i s = .next t ∧ s.me.st = .running ∧ i = .bar 5 3 4 0)
    ∧ (∃ i w s t, unitTargets i = some w ∧ exec i s = .next t ∧ s.me.st = .running ∧ i = .stv 5 3 4 0)
    ∧ (∃ i w s t, unitTargets i = some w ∧ exec i s = .next t ∧ s.me.st = .running ∧ i = .nfree 3 0 0)
    ∧ (∃ s t, exec (.nrun 0) s = .next t ∧ s.me.st = .running) ∧ (∃ s t, exec (.wake 3 0) s = .next t ∧ s.me.st = .running) :=
  ⟨⟨_, _, going (slotted (0, 0) []), _, rfl, rfl, rfl, rfl⟩, ⟨_, _, going (slotted (0, 0) [(4, 1)]), _, rfl, rfl, rfl, rfl⟩,
    ⟨_, _, going (versioned 4 [(5, 5)]), _, rfl, rfl, rfl, rfl⟩, ⟨_, _, going (noded [(3, 0x40)]), _, rfl, rfl, rfl, rfl⟩, ⟨going at0, _, rfl, rfl⟩,
    ⟨going (regs [(3, 1)]), _, rfl, rfl⟩⟩

end Sys2Proof.Tests
end

section
/-! PROOF. Every step keeps the memories in canonical form (R4, log 6): one lemma per operation of the model. An operation that writes neither
memory leaves both as they were (`sameMem_…`, `quiet_…` for work in the monad); one that writes, writes through the memory's own operations, so
the canonical form is kept (`canonical_…`, `keeping_…`). Instructions and events then go on in a state with canonical memories (`goesOn_…`). -/
namespace Sys2Proof.Laws.MemoryForm
open Sys2Proof.Machine

/-! ### Two relations between the states before and after some work -/

/-- Two states hold the same memories. -/
abbrev SameMem (s t : State) : Prop := t.cmem = s.cmem ∧ t.phys = s.phys

/-- Both memories are in canonical form (log 6). -/
abbrev Canonical (s : State) : Prop := Mem.wf s.cmem = true ∧ Mem.wf s.phys = true

/-- What was canonical before is canonical after. -/
def Keeps (s t : State) : Prop := Canonical s → Canonical t

/-- Work that leaves both memories as they were, however it ends. -/
abbrev Quiet {α : Type} (m : M α) : Prop := Within SameMem m

/-- Work that keeps the canonical form, however it ends. -/
abbrev Keeping {α : Type} (m : M α) : Prop := Within Keeps m

theorem canonical_iff (s : State) : s.memWf = true ↔ Canonical s := by simp [State.memWf]

theorem sameMem_chain : Chain SameMem := ⟨fun _ => ⟨rfl, rfl⟩, fun h g => ⟨g.1.trans h.1, g.2.trans h.2⟩⟩
theorem keeps_chain : Chain Keeps := ⟨fun _ => id, fun h g => g ∘ h⟩

theorem keeps_of_sameMem {s t : State} (h : SameMem s t) : Keeps s t := by
  intro c
  rw [Canonical, h.1, h.2]
  exact c

theorem keeping_of_quiet {α : Type} {m : M α} (h : Quiet m) : Keeping m := by
  intro s
  have hs := h s
  revert hs
  cases m s with
  | ok a t => exact keeps_of_sameMem
  | error e t => exact keeps_of_sameMem

/-- Work from one state stays within a relation. -/
def At (P : State → State → Prop) {α : Type} (m : M α) (s : State) : Prop := Ends P s (m s)

theorem within_look {P : State → State → Prop} {β : Type} {f : State → M β} (h : ∀ s, At P (f s) s) : Within P (get >>= f) := h
theorem at_of_within {P : State → State → Prop} {α : Type} {m : M α} {s : State} (h : Within P m) : At P m s := h s
theorem at_set {P : State → State → Prop} {s t : State} (h : P s t) : At P (set t : M PUnit) s := h
theorem at_bind {P : State → State → Prop} (c : Chain P) {α β : Type} {m : M α} {f : α → M β} {s : State} (hm : At P m s)
    (hf : ∀ a, Within P (f a)) : At P (m >>= f) s := by
  unfold At at hm ⊢
  rcases bind_cases m f s with ⟨a, t, e1, e2⟩ | ⟨e, t, e1, e2⟩
  · have h2 := hf a t
    rw [e1] at hm
    rw [e2]
    revert h2
    cases f a t with
    | ok b u => exact c.trans hm
    | error b u => exact c.trans hm
  · rw [e1] at hm
    rw [e2]
    exact hm

/-! ### The general operations -/

theorem quiet_modMe (f : Ctx → Ctx) : Quiet (modMe f) := fun _ => ⟨rfl, rfl⟩
theorem quiet_modHere (f : Core → Core) : Quiet (modHere f) := fun _ => ⟨rfl, rfl⟩
theorem quiet_modHome (f : Cluster → Cluster) : Quiet (modHome f) := fun _ => ⟨rfl, rfl⟩
theorem sameMem_setCore (s : State) (c : Nat) (k : Core) : SameMem s (s.setCore c k) := ⟨rfl, rfl⟩
theorem sameMem_modCore (s : State) (c : Nat) (f : Core → Core) : SameMem s (s.modCore c f) := ⟨rfl, rfl⟩

theorem sameMem_foldl {β : Type} {f : State → β → State} (h : ∀ s b, SameMem s (f s b)) (l : List β) (s : State) : SameMem s (l.foldl f s) := by
  induction l generalizing s with
  | nil => exact ⟨rfl, rfl⟩
  | cons b r ih => exact sameMem_chain.trans (h s b) (ih _)

theorem canonical_foldl {β : Type} {f : State → β → State} (h : ∀ s b, Canonical s → Canonical (f s b)) (l : List β) (s : State)
    (hs : Canonical s) : Canonical (l.foldl f s) := by
  induction l generalizing s with
  | nil => exact hs
  | cons b r ih => exact ih _ (h s b hs)

/-! ### Operations of the state -/

theorem sameMem_setCtx (s : State) (c l : Nat) (x : Ctx) : SameMem s (s.setCtx c l x) := ⟨rfl, rfl⟩

theorem sameMem_modCtx (s : State) (c l : Nat) (f : Ctx → Ctx) : SameMem s (s.modCtx c l f) := by
  unfold State.modCtx
  grind [sameMem_setCtx]

theorem sameMem_modCluster (s : State) (k : Nat) (f : Cluster → Cluster) : SameMem s (s.modCluster k f) := ⟨rfl, rfl⟩

theorem sameMem_modQuad (s : State) (q : Nat) (f : Quad → Quad) : SameMem s (s.modQuad q f) := ⟨rfl, rfl⟩

theorem sameMem_modSlice (s : State) (n : Nat) (f : Slice → Slice) : SameMem s (s.modSlice n f) := ⟨rfl, rfl⟩

theorem sameMem_modPort (s : State) (p : Nat) (f : SoPort → SoPort) : SameMem s (s.modPort p f) := ⟨rfl, rfl⟩

theorem sameMem_modGang (s : State) (g : Nat) (f : Gang → Gang) : SameMem s (s.modGang g f) := by
  unfold State.modGang
  grind

theorem sameMem_modNet (s : State) (f : Net → Net) : SameMem s (s.modNet f) := ⟨rfl, rfl⟩

theorem sameMem_modVale (s : State) (f : Vale → Vale) : SameMem s (s.modVale f) := ⟨rfl, rfl⟩

theorem sameMem_modMod (s : State) (f : Module → Module) : SameMem s (s.modMod f) := ⟨rfl, rfl⟩

theorem quiet_myCore : Quiet (myCore) := by
  unfold myCore
  grind [within_bind, within_pure, within_get, sameMem_chain]

theorem quiet_freshId : Quiet freshId := fun _ => ⟨rfl, rfl⟩

theorem quiet_popFlits (dir n : Nat) : Quiet (popFlits dir n) := by
  unfold popFlits
  grind [within_bind, within_pure, within_get, within_throw, within_raiseTree, sameMem_chain, quiet_modHere]

theorem quiet_pushFlits (dir : Nat) (data : List (BitVec 512)) (vtag : Option Tag) : Quiet (pushFlits dir data vtag) := by
  unfold pushFlits
  grind [within_bind, within_get, within_throw, within_raiseTree, sameMem_chain, quiet_modHere]

theorem quiet_readReady (d : Dest) : Quiet (readReady d) := by
  unfold readReady
  grind [within_bind, within_pure, within_get, within_throw, within_raise, sameMem_chain]

theorem quiet_writeReady (d : Dest) : Quiet (writeReady d) := by
  unfold writeReady
  grind [within_bind, within_pure, within_get, within_throw, sameMem_chain]

theorem quiet_readS (r : BitVec 5) : Quiet (readS r) := by
  unfold readS
  grind [within_bind, within_pure, within_get, within_throw, sameMem_chain, quiet_modMe, quiet_popFlits, quiet_readReady]

theorem quiet_writeS (r : BitVec 5) (v : Word) : Quiet (writeS r v) := by
  unfold writeS
  grind [within_bind, within_pure, sameMem_chain, quiet_modMe, quiet_pushFlits, quiet_writeReady]

theorem quiet_addPend (d : Dest) (v : BitVec 2048) (t : Tag) (ready : Option Nat) (waitsFor : Nat) : Quiet (addPend d v t ready waitsFor) := by
  unfold addPend
  grind [within_bind, within_pure, sameMem_chain, quiet_modMe, quiet_freshId, quiet_writeReady]

theorem quiet_writeSL (r : BitVec 5) (v : Word) (lat : Nat) : Quiet (writeSL r v lat) := by
  unfold writeSL
  grind [within_bind, within_pure, within_get, sameMem_chain, quiet_addPend, quiet_writeS]

theorem quiet_linkExists (r : BitVec 5) : Quiet (linkExists r) := by
  unfold linkExists
  grind [within_bind, within_pure, within_get, within_raiseTree, sameMem_chain]

theorem quiet_deferS (r : BitVec 5) (v : Word) (n : Nat) : Quiet (deferS r v n) := by
  unfold deferS
  grind [within_bind, within_pure, sameMem_chain, quiet_addPend, quiet_linkExists]

theorem quiet_readV (r : BitVec 5) : Quiet (readV r) := by
  unfold readV
  grind [within_bind, within_pure, within_get, sameMem_chain, quiet_popFlits, quiet_readReady]

theorem quiet_writeVL (r : BitVec 5) (v : VReg) (lat : Nat) : Quiet (writeVL r v lat) := by
  unfold writeVL
  grind [within_bind, within_pure, within_get, sameMem_chain, quiet_modMe, quiet_addPend, quiet_pushFlits, quiet_writeReady]

theorem quiet_deferV (r : BitVec 5) (v : VReg) (n : Nat) : Quiet (deferV r v n) := by
  unfold deferV
  grind [within_bind, sameMem_chain, quiet_addPend, quiet_linkExists]

theorem quiet_oldV (r : BitVec 5) : Quiet (oldV r) := by
  intro s
  by_cases h : r.toNat < 28
  · simp only [oldV, get_bind, if_pos h]
    exact ⟨rfl, rfl⟩
  · simp only [oldV, get_bind, if_neg h]
    exact ⟨rfl, rfl⟩

theorem quiet_readP (r : Nat) : Quiet (readP r) := by
  unfold readP
  grind [within_bind, within_pure, within_get, sameMem_chain, quiet_readReady]

theorem quiet_writePL (r : Nat) (v : BitVec 256) (lat : Nat) : Quiet (writePL r v lat) := by
  unfold writePL
  grind [within_bind, within_pure, within_get, sameMem_chain, quiet_addPend]

theorem quiet_writeP (r : Nat) (v : BitVec 256) : Quiet (writeP r v) := by
  unfold writeP
  grind [sameMem_chain, quiet_writePL]

theorem quiet_readM (r : Nat) : Quiet (readM r) := by
  unfold readM
  grind [within_bind, within_pure, within_get, sameMem_chain]

theorem quiet_guardP (p : BitVec 3) (body : M Unit) (h : Quiet body) : Quiet (guardP p body) := by
  unfold guardP
  grind [within_bind, within_pure, sameMem_chain, quiet_readP]

theorem sameMem_goOnAt (s : State) (c l : Nat) (next : BitVec 22) (issue : Nat) : SameMem s (s.goOnAt c l next issue) := by
  unfold State.goOnAt
  grind [sameMem_setCore]

theorem sameMem_goOn (s : State) (c l : Nat) (next : BitVec 22) (sc : Nat) : SameMem s (s.goOn c l next sc) := by
  unfold State.goOn
  grind [sameMem_goOnAt]

theorem sameMem_jumpTo (s : State) (c l : Nat) (target : BitVec 22) (sc : Nat) : SameMem s (s.jumpTo c l target sc) := by
  unfold State.jumpTo
  grind [sameMem_setCore]

theorem sameMem_finishWait (s : State) (c l : Nat) : SameMem s (s.finishWait c l) := by
  unfold State.finishWait
  grind [sameMem_goOnAt]

theorem sameMem_giveS (s : State) (c l d : Nat) (v : Word) : SameMem s (s.giveS c l d v) := by
  unfold State.giveS
  grind [sameMem_modCtx]

theorem sameMem_sendTrigger (s : State) (w : SnapWord) : SameMem s (s.sendTrigger w) := by
  unfold State.sendTrigger
  grind [sameMem_modMod]

theorem sameMem_trigger (s : State) : SameMem s (s.trigger) := by
  unfold State.trigger
  grind [sameMem_modMod]

theorem sameMem_notifyGang (s : State) (c : Nat) (w0 w1 w2 : Word) : SameMem s (s.notifyGang c w0 w1 w2) := by
  unfold State.notifyGang
  grind [sameMem_modNet]

theorem sameMem_notifyCheck (s : State) (n : Nat) : SameMem s (s.notifyCheck n) := by
  unfold State.notifyCheck
  grind [sameMem_finishWait, sameMem_giveS]

theorem sameMem_stopCore (s : State) (c l : Nat) (t : TrapInfo) (pc : BitVec 22) : SameMem s (s.stopCore c l t pc) := by
  unfold State.stopCore
  grind [sameMem_modCore, sameMem_modQuad, sameMem_notifyCheck, sameMem_notifyGang, sameMem_sendTrigger]

theorem sameMem_takeTrap (s : State) (c l : Nat) (t : TrapInfo) (pc : BitVec 22) : SameMem s (s.takeTrap c l t pc) := by
  unfold State.takeTrap
  grind [sameMem_setCore, sameMem_stopCore]

theorem sameMem_returnFromTrap (s : State) (c l : Nat) (target : BitVec 22) (sc : Nat) : SameMem s (s.returnFromTrap c l target sc) := by
  unfold State.returnFromTrap
  grind [sameMem_setCore]

theorem sameMem_scrubWord (s : State) (k a : Nat) : SameMem s (s.scrubWord k a) := by
  unfold State.scrubWord
  grind [sameMem_modCore]

theorem sameMem_scrub (s : State) (k a n : Nat) : SameMem s (s.scrub k a n) := by
  unfold State.scrub
  grind [sameMem_foldl, sameMem_scrubWord]

theorem sameMem_heal (s : State) (k a n : Nat) : SameMem s (s.heal k a n) := by
  unfold State.heal
  grind

theorem sameMem_noteWrite (s : State) (k a n : Nat) : SameMem s (s.noteWrite k a n) := by
  unfold State.noteWrite
  grind

theorem canonical_cwrite (s : State) (k a n x : Nat) (h : Canonical s) : Canonical (s.cwrite k a n x) := by
  unfold State.cwrite
  grind [sameMem_heal, sameMem_noteWrite, wf_writeN]

theorem canonical_cwriteBytes (s : State) (k a : Nat) (b : List Byte) (h : Canonical s) : Canonical (s.cwriteBytes k a b) := by
  unfold State.cwriteBytes
  grind [sameMem_heal, sameMem_noteWrite, wf_writeBytes]

theorem sameMem_upsetSymbol (s : State) (e : SymErr) : SameMem s (s.upsetSymbol e) := by
  unfold State.upsetSymbol
  grind

theorem sameMem_upsetGranule (s : State) (n : Nat) : SameMem s (s.upsetGranule n) := by
  unfold State.upsetGranule
  grind

theorem canonical_setObj (s : State) (k o : Nat) (w : Word × Word) (h : Canonical s) : Canonical (s.setObj k o w) := by
  unfold State.setObj
  grind [canonical_cwrite, sameMem_modCluster]

theorem sameMem_releaseAll (s : State) (status : Word) (l : List (Nat × Nat × Nat)) : SameMem s (s.releaseAll status l) := by
  induction l generalizing s with
  | nil => exact ⟨rfl, rfl⟩
  | cons e r ih => grind [State.releaseAll, sameMem_giveS, sameMem_finishWait]

theorem canonical_endBar (s : State) (k o : Nat) (status : Word) (h : Canonical s) : Canonical (s.endBar k o status) := by
  unfold State.endBar
  grind [sameMem_modCluster, sameMem_releaseAll, canonical_setObj]

theorem canonical_arrive (s : State) (k o n : Nat) {t : State} {d : Bool} (h : Canonical s) (e : s.arrive k o n = some (t, d)) : Canonical t := by
  unfold State.arrive at e
  grind [canonical_setObj, canonical_endBar]

theorem sameMem_endGangBar (s : State) (gi : Nat) (status : Word) : SameMem s (s.endGangBar gi status) := by
  unfold State.endGangBar
  grind [sameMem_modGang, sameMem_releaseAll]

theorem sameMem_checkGangBar (s : State) (gi : Nat) : SameMem s (s.checkGangBar gi) := by
  unfold State.checkGangBar
  grind [sameMem_endGangBar]

theorem sameMem_countUp (s : State) (c p : Nat) : SameMem s (s.countUp c p) := by
  unfold State.countUp
  grind [sameMem_modCore]

theorem sameMem_countDown (s : State) (c p : Nat) : SameMem s (s.countDown c p) := by
  unfold State.countDown
  grind [sameMem_modCore]

theorem sameMem_sendRetire (s : State) (r : Retire) : SameMem s (s.sendRetire r) := by
  unfold State.sendRetire
  grind [sameMem_modNet]

theorem quiet_releasePoint : Quiet (releasePoint) := by
  unfold releasePoint
  grind [within_bind, within_pure, within_get, within_throw, sameMem_chain]

theorem canonical_setNodeWord (s : State) (owner : Nat) (pr : Word) (w : Nat) (v : Word) (h : Canonical s) :
    Canonical (s.setNodeWord owner pr w v) := by
  unfold State.setNodeWord
  grind [canonical_cwrite]

theorem canonical_endClaim (s : State) (c l : Nat) (pr : Word) (h : Canonical s) : Canonical (s.endClaim c l pr) := by
  unfold State.endClaim
  grind [canonical_setNodeWord]

theorem canonical_endHolds (s : State) (c l : Nat) (a : List Nat) (h : Canonical s) : Canonical (s.endHolds c l a) := by
  induction a generalizing s with
  | nil => exact h
  | cons a r ih => grind [State.endHolds, canonical_cwrite]

theorem canonical_endMarksBut (s : State) (c l : Nat) (keep : List Word) (h : Canonical s) : Canonical (s.endMarksBut c l keep) := by
  unfold State.endMarksBut
  grind [sameMem_foldl, canonical_foldl, canonical_endClaim, canonical_endHolds, sameMem_modCtx]

theorem canonical_endMarks (s : State) (c l : Nat) (h : Canonical s) : Canonical (s.endMarks c l) := by
  unfold State.endMarks
  grind [canonical_endMarksBut]

theorem sameMem_retirePair (s : State) (c l : Nat) : SameMem s (s.retirePair c l) := by
  unfold State.retirePair
  grind [sameMem_modCtx, sameMem_sendRetire]

theorem sameMem_countsDown (s : State) (c : Nat) (l : List Nat) : SameMem s (s.countsDown c l) := by
  induction l generalizing s with
  | nil => exact ⟨rfl, rfl⟩
  | cons p r ih => grind [State.countsDown, sameMem_countDown]

theorem sameMem_retireHeld (s : State) (c l : Nat) : SameMem s (s.retireHeld c l) := by
  unfold State.retireHeld
  grind [sameMem_countsDown, sameMem_modCtx]

theorem sameMem_retireStarted (s : State) (c l : Nat) : SameMem s (s.retireStarted c l) := by
  unfold State.retireStarted
  grind [sameMem_modCtx, sameMem_sendRetire]

theorem canonical_endRoutine (s : State) (c l : Nat) (h : Canonical s) : Canonical (s.endRoutine c l) := by
  unfold State.endRoutine
  grind [sameMem_modCore, sameMem_checkGangBar, canonical_endMarks, sameMem_modCluster, sameMem_modQuad, sameMem_retireHeld, sameMem_retirePair,
    sameMem_retireStarted]

theorem canonical_withdraw (s : State) (c l : Nat) (h : Canonical s) : Canonical (s.withdraw c l) := by
  unfold State.withdraw
  grind [sameMem_modCluster, sameMem_modCtx, sameMem_modGang, sameMem_modQuad, canonical_setObj]

theorem sameMem_countBad (s : State) (k a : Nat) : SameMem s (s.countBad k a) := by
  unfold State.countBad
  grind [sameMem_modCore]

theorem sameMem_countRead (s : State) (k a n : Nat) : SameMem s (s.countRead k a n) := by
  unfold State.countRead
  grind [sameMem_foldl, sameMem_countBad]

theorem sameMem_afterTrap (s0 : State) (t : TrapInfo) (kept : Bool) : SameMem s0 (s0.afterTrap t kept) := by
  unfold State.afterTrap
  grind [sameMem_countBad, sameMem_modCtx, sameMem_takeTrap]

theorem sameMem_notEligible (s : State) : SameMem s (s.notEligible) := by
  unfold State.notEligible
  grind [sameMem_modCtx]

theorem canonical_settle (len : BitVec 22) (sc : Nat) (s : State) (r : EStateM.Result Exc State Flow) (h : Canonical s)
    (hr : Ends Keeps s r) : Canonical (settle len sc s r) := by
  unfold settle
  split <;> simp only [Ends, Keeps] at hr <;>
    grind [sameMem_goOn, sameMem_jumpTo, sameMem_modCore, sameMem_modCtx, sameMem_modSlice, sameMem_afterTrap, sameMem_notEligible]

theorem quiet_leaveOp (sc : BitVec 3) (o : Op) : Quiet (leaveOp sc o) := by
  unfold leaveOp
  grind [within_bind, within_pure, within_get, sameMem_chain, quiet_modMe]

/-! ### Fetch and issue -/

theorem sameMem_nextCycle (s : State) (c : Nat) : SameMem s (s.nextCycle c) := by
  unfold State.nextCycle
  grind [sameMem_setCore, sameMem_modQuad]

theorem sameMem_stopLink (s : State) (c l : Nat) : SameMem s (s.stopLink c l) := by
  unfold State.stopLink
  grind [sameMem_modCtx]

theorem canonical_takeDue (s : State) (c l : Nat) {t : State} (h : Canonical s) (e : s.takeDue c l = some t) : Canonical t := by
  unfold State.takeDue at e
  grind [sameMem_modCtx, sameMem_stopLink, sameMem_takeTrap, canonical_withdraw]

theorem sameMem_endAlign (s : State) (c l : Nat) : SameMem s (s.endAlign c l) := by
  unfold State.endAlign
  grind [sameMem_finishWait]

theorem sameMem_fill (s : State) (c pc : Nat) : SameMem s (s.fill c pc) := by
  unfold State.fill
  grind [sameMem_modCore, sameMem_scrub]

theorem canonical_takeFirst (s : State) (c : Nat) (l : List Nat) {t : State} (h : Canonical s) (e : s.takeFirst c l = some t) : Canonical t := by
  induction l with
  | nil => cases e
  | cons a r ih => grind [State.takeFirst, canonical_takeDue]

/-! ### Flags -/

theorem quiet_raiseFormat {α : Type} (a b : Nat) : Quiet (raiseFormat a b : M α) := within_raise sameMem_chain _ _

theorem quiet_raisePoison {α : Type} : Quiet (raisePoison : M α) :=
  within_bind sameMem_chain (within_get sameMem_chain) fun _ => within_raise sameMem_chain _ _

theorem quiet_notPoison (t : Tag) : Quiet (notPoison t) := by
  unfold notPoison
  grind [within_pure, sameMem_chain, quiet_raisePoison]

/-! ### Operands -/

theorem quiet_afterOwnAmo (a n : Nat) : Quiet (afterOwnAmo a n) := by
  unfold afterOwnAmo
  grind [within_bind, within_pure, within_get, within_throw, sameMem_chain]

theorem quiet_checkRange (A : Word) (n align : Nat) (store : Bool) : Quiet (checkRange A n align store) := by
  unfold checkRange
  grind [within_bind, within_pure, within_get, within_throw, within_raise, sameMem_chain]

theorem quiet_checkLocal (A : Word) (n align : Nat) (store : Bool) : Quiet (checkLocal A n align store) := by
  unfold checkLocal
  grind [within_bind, within_pure, sameMem_chain, quiet_afterOwnAmo, quiet_checkRange]

theorem quiet_noteGuard (store : Bool) (a : Nat) : Quiet (noteGuard store a) := by
  unfold noteGuard
  grind [within_bind, within_get, sameMem_chain, quiet_modHere]

theorem quiet_scalarLoad (a n : Nat) : Quiet (scalarLoad a n) := by
  unfold scalarLoad
  grind [within_look, at_of_within, at_bind, at_set, within_bind, within_pure, within_get, within_throw, sameMem_chain, sameMem_scrub,
    quiet_noteGuard]

theorem keeping_scalarStore (a n x : Nat) : Keeping (scalarStore a n x) := by
  unfold scalarStore
  grind [within_look, at_of_within, at_bind, at_set, within_bind, within_get, keeps_chain, keeping_of_quiet, Keeps, canonical_cwrite, quiet_noteGuard]

theorem canonical_storeGranules (s : State) (k a n x f : Nat) (h : Canonical s) : Canonical (s.storeGranules k a n x f) := by
  induction f generalizing s a n x with
  | zero => exact h
  | succ f ih => grind [State.storeGranules, canonical_cwrite]

theorem quiet_freshBits : Quiet (freshBits) := by
  unfold freshBits
  grind [within_look, at_of_within, at_bind, at_set, within_bind, within_pure, within_get, sameMem_chain]

theorem quiet_blur (x mask : Nat) : Quiet (blur x mask) := by
  unfold blur
  grind [within_bind, within_pure, sameMem_chain, quiet_freshBits]

theorem quiet_checkTarget (t : Int) : Quiet (checkTarget t) := by
  unfold checkTarget
  grind [within_pure, within_raise, sameMem_chain]

/-! ### Control registers and bit streams -/

theorem sameMem_setCr (s : State) (c l n : Nat) (v : Word) : SameMem s (s.setCr c l n v) := by
  unfold State.setCr
  grind [sameMem_modCore, sameMem_modCtx]

theorem quiet_writeCr (n : BitVec 12) (v : Word) : Quiet (writeCr n v) := by
  unfold writeCr
  grind [within_look, at_of_within, at_bind, at_set, within_bind, within_pure, within_get, sameMem_chain, sameMem_setCr]

theorem quiet_regTarget (t : Word) : Quiet (regTarget t) := by
  unfold regTarget
  grind [within_bind, within_pure, sameMem_chain, quiet_checkTarget]

theorem keeping_endHere (sc : Nat) : Keeping (endHere sc) := by
  unfold endHere
  grind [within_look, at_of_within, at_bind, at_set, within_bind, within_pure, within_get, within_throw, keeps_chain, keeping_of_quiet, Keeps,
    canonical_endRoutine, sameMem_modCtx]

theorem keeping_retTo (a : BitVec 5) (sc : Nat) : Keeping (retTo a sc) := by
  unfold retTo
  grind [within_bind, keeps_chain, keeping_of_quiet, keeping_endHere, quiet_readS, quiet_regTarget]

theorem quiet_tableLoad (e : Nat) : Quiet (tableLoad e) := by
  unfold tableLoad
  grind [within_bind, within_get, within_throw, within_tryCatch, sameMem_chain, quiet_checkLocal, quiet_scalarLoad]

theorem quiet_leaveTrap (target : BitVec 22) (sc : BitVec 3) : Quiet (leaveTrap target sc) := by
  unfold leaveTrap
  grind [within_look, at_of_within, at_bind, at_set, within_bind, within_pure, within_get, within_throw, sameMem_chain, sameMem_returnFromTrap]

/-- Where the memories were those of a state, they still are. -/
def StillMem (s t u : State) : Prop := SameMem s t → SameMem s u

theorem stillMem_chain (s : State) : Chain (StillMem s) := ⟨fun _ => id, fun h g => g ∘ h⟩

theorem still_of_quiet {α : Type} {m : M α} (s : State) (h : Quiet m) : Within (StillMem s) m := by
  intro t
  have ht := h t
  revert ht
  cases m t with
  | ok a u => exact fun h1 h2 => sameMem_chain.trans h2 h1
  | error e u => exact fun h1 h2 => sameMem_chain.trans h2 h1

/-- A trap in a refill keeps the bits that came before it in the state that the instruction began from. -/
theorem still_refill (s : State) (n : Nat) : Within (StillMem s) (refill s n) := by
  have hc := stillMem_chain s
  induction n with
  | zero => exact within_pure hc _
  | succ n ih =>
    refine within_seen fun x => within_ite (fun _ => ?_) fun _ => within_pure hc _
    refine within_bind hc (within_tryCatch hc ?_ fun e => ?_) fun v => within_bind hc (still_of_quiet s (quiet_modMe _)) fun _ => ih
    · exact still_of_quiet s (within_bind sameMem_chain (quiet_checkLocal _ _ _ _) fun _ => quiet_scalarLoad _ _)
    · cases e with
      | trap t => exact within_look fun u => at_bind hc (at_set fun _ => ⟨rfl, rfl⟩) fun _ => within_throw hc _
      | _ => exact within_throw hc _

theorem at_of_still {α : Type} {m : M α} {s : State} (h : Within (StillMem s) m) : At SameMem m s := by
  have hs := h s
  unfold At
  revert hs
  cases m s with
  | ok a t => exact fun e => e ⟨rfl, rfl⟩
  | error e t => exact fun e => e ⟨rfl, rfl⟩

theorem still_peek (take : Bool) (d a : BitVec 5) (s : State) : Within (StillMem s) (peek take d a s) := by
  unfold peek
  grind [within_bind, within_pure, within_get, stillMem_chain, still_of_quiet, still_refill, quiet_readS, quiet_modMe, quiet_writeS]

/-! ### Synchronisation -/

theorem quiet_handle (h : Word) : Quiet (handle h) := by
  unfold handle
  grind [within_bind, within_pure, within_get, within_raise, sameMem_chain]

theorem quiet_claimDest (d : BitVec 5) : Quiet (claimDest d) := by
  unfold claimDest
  grind [within_bind, within_pure, sameMem_chain, quiet_linkExists, quiet_writeReady]

theorem quiet_guardPoint : Quiet (guardPoint) := by
  unfold guardPoint
  grind [within_bind, within_pure, within_get, within_raise, sameMem_chain, quiet_modMe]

theorem quiet_expected (b : BitVec 5) : Quiet (expected b) := by
  unfold expected
  grind [within_bind, within_pure, within_raise, sameMem_chain, quiet_readS]

theorem keeping_arriveAt (h : Word) (o n : Nat) : Keeping (arriveAt h o n) := by
  refine within_look fun s => ?_
  cases e : s.arrive (clusterOf s.cur.1) o n with
  | none => grind [at_of_within, within_raise, keeps_chain]
  | some x =>
    simp only [e]
    exact at_bind keeps_chain (at_set fun c => canonical_arrive _ _ _ _ c e) fun _ => within_pure keeps_chain _

theorem quiet_arriveGang : Quiet (arriveGang) := by
  unfold arriveGang
  grind [within_look, at_of_within, at_bind, at_set, within_bind, within_pure, within_get, within_raise, sameMem_chain, sameMem_endGangBar,
    sameMem_modGang]

theorem quiet_waitGang (d : Nat) : Quiet (waitGang d) := by
  unfold waitGang
  grind [within_look, at_of_within, at_bind, at_set, within_bind, within_pure, within_get, within_throw, sameMem_chain, sameMem_modGang]

theorem quiet_waitBar (o d : Nat) : Quiet (waitBar o d) := by
  unfold waitBar
  grind [within_bind, within_get, within_throw, sameMem_chain, quiet_modHome]

theorem keeping_endMyMarks : Keeping (endMyMarks) := by
  unfold endMyMarks
  grind [within_modify, keeps_chain, keeping_of_quiet, Keeps, canonical_endMarks]

theorem sameMem_watchWord (s : State) (c l a : Nat) : SameMem s (s.watchWord c l a) := ⟨rfl, rfl⟩

theorem sameMem_watchLoad (s : State) (c l a : Nat) {t : State} {v : Word} (h : s.watchLoad c l a = .ok (t, v)) : SameMem s t := by
  unfold State.watchLoad at h
  grind [sameMem_modCore, sameMem_scrub]

theorem sameMem_wakeTrap (s : State) (c l : Nat) (t : TrapInfo) : SameMem s (s.wakeTrap c l t) := by
  unfold State.wakeTrap
  grind [sameMem_afterTrap, sameMem_modCtx]

theorem quiet_versionAddr (A : Word) (n : Nat) : Quiet (versionAddr A n) := by
  unfold versionAddr
  grind [within_pure, within_raise, sameMem_chain]

theorem sameMem_wakeLdv (s : State) (a n : Nat) (v : Word) (l : List (Nat × Nat)) : SameMem s (s.wakeLdv a n v l) := by
  induction l generalizing s with
  | nil => exact ⟨rfl, rfl⟩
  | cons e r ih => grind [State.wakeLdv, sameMem_giveS, sameMem_finishWait]

theorem sameMem_makeVersion (s : State) (k a n : Nat) (v : Word) : SameMem s (s.makeVersion k a n v) :=
  sameMem_wakeLdv (s.modCore (ownerCore k a) _) a n v (contextsOf k)

/-! ### Messages -/

theorem sameMem_inject (s : State) (m : Msg) : SameMem s (s.inject m) := ⟨rfl, rfl⟩

theorem sameMem_sendLoad (s : State) (core level dst : Nat) (q : Load) (tc : Nat) : SameMem s (s.sendLoad core level dst q tc) := by
  unfold State.sendLoad
  grind [sameMem_inject]

theorem quiet_waitInject (dw : Word) (tc f : Nat) : Quiet (waitInject dw tc f) := by
  unfold waitInject
  grind [within_bind, within_pure, within_get, within_throw, within_raise, sameMem_chain]

theorem quiet_injectMine (hdr : Word) (w : List Word) (data : List Byte) (dst f : Nat) : Quiet (injectMine hdr w data dst f) := by
  unfold injectMine
  grind [within_look, at_of_within, at_bind, at_set, within_bind, within_get, sameMem_chain, sameMem_modCore, sameMem_countUp, sameMem_inject]

theorem quiet_receiverOf (dw : Word) : Quiet (receiverOf dw) := by
  unfold receiverOf
  grind [within_bind, within_pure, within_get, within_raiseTree, sameMem_chain]

theorem quiet_readPayload (b f n : Nat) : Quiet (readPayload b f n) := by
  induction f generalizing b n with
  | zero => exact within_pure sameMem_chain _
  | succ f ih => grind [readPayload, within_bind, within_pure, sameMem_chain, quiet_readS]

theorem quiet_depositBad (a n : Nat) : Quiet (depositBad a n) := by
  unfold depositBad
  grind [within_bind, within_pure, within_get, within_throw, sameMem_chain]

theorem quiet_depositRead (a n m : Nat) : Quiet (depositRead a n m) := by
  have hs : ∀ k v, Quiet (do let t ← get; set (t.scrub k a m); return v : M Nat) := fun k v =>
    within_look fun u => at_bind sameMem_chain (at_set (sameMem_scrub u k a m)) fun _ => within_pure sameMem_chain _
  unfold depositRead
  refine within_seen fun s => within_ite (fun _ => within_raise sameMem_chain _ _) fun _ => within_ite (fun _ =>
    within_raise sameMem_chain _ _) fun _ => ?_
  split
  · exact within_throw sameMem_chain _
  · refine within_bind sameMem_chain (quiet_afterOwnAmo _ _) fun _ => within_bind sameMem_chain (quiet_depositBad _ _) fun _ => ?_
    split
    · exact within_bind sameMem_chain (quiet_noteGuard _ _) fun _ => hs _ _
    · exact hs _ _

theorem quiet_issueAmo (fn : Nat) (cas : Bool) (d a b : BitVec 5) (z : BitVec 1) : Quiet (issueAmo fn cas d a b z) := by
  unfold issueAmo
  grind [within_bind, within_pure, within_get, within_throw, within_modify, sameMem_chain, sameMem_sendLoad, quiet_checkRange, quiet_deferS,
    quiet_readS]

theorem canonical_performAmo (s : State) (q : AmoReq) {t : State} {v : Nat} (h : Canonical s) (e : s.performAmo q = (t, v)) : Canonical t := by
  unfold State.performAmo at e
  grind [sameMem_modCore, sameMem_countBad, sameMem_scrub, canonical_cwrite]

/-! ### Cluster memory -/

theorem quiet_loadTo {n : Nat} (signed fixed : Bool) (d a : BitVec 5) (z : BitVec 2) (o : BitVec n) : Quiet (loadTo signed fixed d a z o) := by
  unfold loadTo
  grind [within_bind, within_pure, within_get, sameMem_chain, quiet_checkLocal, quiet_deferS, quiet_readS, quiet_scalarLoad, quiet_writeSL]

theorem keeping_storeFrom {n : Nat} (d a : BitVec 5) (z : BitVec 2) (o : BitVec n) : Keeping (storeFrom d a z o) := by
  unfold storeFrom
  grind [within_bind, keeps_chain, keeping_of_quiet, quiet_checkLocal, quiet_readS, keeping_scalarStore]

theorem quiet_guardRange (on : Bool) (a b : BitVec 5) : Quiet (guardRange on a b) := by
  unfold guardRange
  grind [within_look, at_of_within, at_bind, at_set, within_bind, within_get, within_raise, sameMem_chain, quiet_readS]

/-! ### Tree memory: addresses and maps -/

theorem sameMem_countMac (s : State) (l : List Loc) : SameMem s (s.countMac l) := by
  unfold State.countMac
  grind [sameMem_foldl, sameMem_modSlice]

theorem canonical_zeroPhys (s : State) (a n : Nat) (h : Canonical s) : Canonical (s.zeroPhys a n) := ⟨h.1, wf_writeN _ _ _ _ h.2⟩

theorem canonical_freshSector (s : State) (x : Loc) (h : Canonical s) : Canonical (s.freshSector x) := by
  unfold State.freshSector
  grind [canonical_zeroPhys, sameMem_modSlice]

theorem canonical_putLoc (s : State) (x : Loc) (v : Nat) (h : Canonical s) : Canonical (s.putLoc x v) := by
  unfold State.putLoc
  grind [sameMem_modSlice, canonical_freshSector, wf_writeN]

theorem canonical_putAll (s : State) (l : List (Loc × Nat)) (h : Canonical s) : Canonical (s.putAll l) := by
  unfold State.putAll
  grind [sameMem_foldl, canonical_foldl, canonical_putLoc]

theorem sameMem_countFault (s : State) (n : Nat) (f : TreeFault) : SameMem s (s.countFault n f) := by
  unfold State.countFault
  grind [sameMem_modSlice]

theorem quiet_raiseWalk {α : Type} (f : TreeFault) (v : Word) : Quiet (raiseWalk f v : M α) := by
  unfold raiseWalk
  grind [within_bind, within_throw, sameMem_chain, quiet_myCore]

theorem quiet_myAsid : Quiet (myAsid) := by
  unfold myAsid
  grind [within_bind, within_pure, within_get, sameMem_chain]

theorem quiet_checkLockTree (t : Word) (store : Bool) : Quiet (checkLockTree t store) := by
  unfold checkLockTree
  grind [within_bind, within_pure, within_get, within_raise, sameMem_chain]

theorem quiet_translateT (t : Word) (k : Access) : Quiet (translateT t k) := by
  unfold translateT
  grind [within_bind, within_pure, within_get, within_throw, sameMem_chain, quiet_myAsid, quiet_raiseWalk]

theorem quiet_translateShip (t : Word) (k : Access) : Quiet (translateShip t k) := by
  unfold translateShip
  grind [within_bind, within_pure, within_get, within_throw, sameMem_chain, quiet_myAsid, quiet_raiseWalk]

theorem sameMem_lookUp (s : State) (n asid : Nat) (e : Word) {t : State} (h : s.lookUp n asid e = some t) : SameMem s t := by
  unfold State.lookUp at h
  obtain ⟨y, -, rfl⟩ := Option.map_eq_some_iff.1 h
  exact ⟨rfl, rfl⟩

theorem sameMem_lookUps (s : State) (n asid : Nat) (l : List Word) {t : State} (h : s.lookUps n asid l = some t) : SameMem s t := by
  induction l generalizing s with
  | nil => grind [State.lookUps]
  | cons e r ih =>
    obtain ⟨u, hu, ht⟩ := Option.bind_eq_some_iff.1 h
    exact sameMem_chain.trans (sameMem_lookUp _ _ _ _ hu) (ih _ ht)

theorem quiet_noteWalk (x : Loc) : Quiet (noteWalk x) := by
  intro s
  show Ends SameMem s ((match s.lookUp (sliceOfCore s.cur.1) (((s.gangOf s.cur.1).map (·.asid)).getD 0) x.entry with
    | some t => set t
    | none => throw .stall : M Unit) s)
  cases e : s.lookUp (sliceOfCore s.cur.1) (((s.gangOf s.cur.1).map (·.asid)).getD 0) x.entry with
  | none => exact sameMem_chain.refl s
  | some t => exact sameMem_lookUp _ _ _ _ e

theorem quiet_noteWalks (last : Option Word) (l : List (Nat × Loc)) : Quiet (noteWalks last l) := by
  induction l generalizing last with
  | nil => exact within_pure sameMem_chain _
  | cons e r ih => grind [noteWalks, within_bind, within_pure, sameMem_chain, quiet_noteWalk]

theorem sameMem_walkDone (s : State) (n : Nat) {t : State} (h : s.walkDone n = some t) : SameMem s t := by
  unfold State.walkDone at h
  grind [sameMem_foldl, sameMem_modSlice]

theorem sameMem_dropCached (s : State) (asid : Nat) (t : Word) : SameMem s (s.dropCached asid t) := ⟨rfl, rfl⟩

theorem quiet_mapFormat (v : MapView) : Quiet (mapFormat v) := by
  unfold mapFormat
  grind [within_bind, within_pure, within_get, sameMem_chain, quiet_myAsid, quiet_raiseFormat]

theorem quiet_mapHeaded (v : MapView) (d : Root) : Quiet (mapHeaded v d) := by
  unfold mapHeaded
  grind [within_pure, sameMem_chain, quiet_raiseWalk]

theorem quiet_locksOver (v : MapView) (store : Bool) (l : List (Nat × Nat × Nat)) : Quiet (locksOver v store l) := by
  induction l with
  | nil => exact within_pure sameMem_chain _
  | cons e r ih => grind [locksOver, within_bind, within_pure, sameMem_chain, quiet_checkLockTree]

theorem quiet_scaleOver (v : MapView) (i j : Nat) : Quiet (scaleOver v i j) := by
  unfold scaleOver
  grind [within_bind, within_pure, sameMem_chain, quiet_noteWalk, quiet_raiseWalk, quiet_translateT]

theorem quiet_translateOver (v : MapView) (k : Access) (l : List (Nat × Nat × Nat)) : Quiet (translateOver v k l) := by
  induction l with
  | nil => exact within_pure sameMem_chain _
  | cons e r ih => grind [translateOver, within_bind, within_pure, sameMem_chain, quiet_raiseWalk, quiet_translateT, quiet_scaleOver]

theorem quiet_reachMap (v : MapView) (d : Root) (k : Access) (store : Bool) (l : List (Nat × Nat × Nat)) : Quiet (reachMap v d k store l) := by
  unfold reachMap
  grind [within_bind, within_pure, sameMem_chain, quiet_locksOver, quiet_mapHeaded, quiet_noteWalks, quiet_translateOver]

theorem quiet_locksRaw (store : Bool) (l : List (Nat × Word)) : Quiet (locksRaw store l) := by
  induction l with
  | nil => exact within_pure sameMem_chain _
  | cons e r ih => grind [locksRaw, within_bind, sameMem_chain, quiet_checkLockTree]

theorem quiet_translateRaw (k : Access) (l : List (Nat × Word)) : Quiet (translateRaw k l) := by
  induction l with
  | nil => exact within_pure sameMem_chain _
  | cons e r ih => grind [translateRaw, within_bind, within_pure, sameMem_chain, quiet_translateT]

theorem quiet_reachRaw (k : Access) (store : Bool) (l : List (Nat × Word)) : Quiet (reachRaw k store l) := by
  unfold reachRaw
  grind [within_bind, within_pure, sameMem_chain, quiet_locksRaw, quiet_noteWalks, quiet_translateRaw]

/-! ### Tree memory: accesses -/

theorem quiet_notHeaded (v : MapView) : Quiet (notHeaded v) := by
  unfold notHeaded
  grind [within_pure, sameMem_chain, quiet_raiseFormat]

theorem quiet_readOne (x : Loc) : Quiet (readOne x) := by
  unfold readOne
  grind [within_bind, within_pure, within_get, within_throw, within_raise, sameMem_chain]

theorem quiet_rawRoot (t : Word) : Quiet (rawRoot t) := by
  unfold rawRoot
  grind [within_bind, within_pure, within_get, within_raise, sameMem_chain, quiet_myAsid, quiet_raiseWalk]

theorem quiet_finishLoad (d : BitVec 5) (w : Nat) (got : List (Nat × Loc)) (fills : List (Nat × Nat)) (mask : Nat) (t : Tag) :
    Quiet (finishLoad d w got fills mask t) := by
  unfold finishLoad
  grind [within_look, at_of_within, at_bind, at_set, within_bind, within_pure, within_get, sameMem_chain, sameMem_countMac, quiet_blur, quiet_deferV,
    quiet_oldV]

theorem sameMem_sendPage (s : State) (q : PageReq) : SameMem s (s.sendPage q) := by
  unfold State.sendPage
  grind [sameMem_sendLoad]

theorem sameMem_sendPages (s : State) (l : List PageReq) : SameMem s (s.sendPages l) := by
  induction l generalizing s with
  | nil => exact ⟨rfl, rfl⟩
  | cons q r ih => exact sameMem_chain.trans (sameMem_sendPage s q) (ih _)

theorem quiet_loadHeaded (d : BitVec 5) (v : MapView) (i j : Nat) : Quiet (loadHeaded d v i j) := by
  unfold loadHeaded
  grind [within_bind, within_get, within_modify, sameMem_chain, sameMem_sendPages, quiet_deferV, quiet_mapFormat, quiet_oldV, quiet_raiseFormat,
    quiet_reachMap]

theorem quiet_loadNoPage (d : BitVec 5) (vl : Nat) : Quiet (loadNoPage d vl) := by
  unfold loadNoPage
  grind [within_bind, within_pure, sameMem_chain, quiet_deferV, quiet_oldV]

theorem quiet_loadStored (d : BitVec 5) (v : MapView) (i j : Nat) : Quiet (loadStored d v i j) := by
  unfold loadStored
  refine within_ite (fun _ => quiet_raiseFormat _ _) fun _ => within_bind sameMem_chain (quiet_mapFormat _) fun r => within_seen fun s =>
    within_bind sameMem_chain (quiet_reachMap _ _ _ _ _) fun first => ?_
  cases first with
  | nil => exact quiet_loadNoPage _ _
  | cons q _ =>
    have hm : ∀ g : State → PageReq, Quiet (modify fun t => t.sendPage (g t)) := fun g => within_modify fun t => sameMem_sendPage t (g t)
    exact within_seen fun s => within_bind sameMem_chain (quiet_reachMap _ _ _ _ _) fun got => within_bind sameMem_chain quiet_myAsid fun asid =>
      within_bind sameMem_chain (quiet_oldV _) fun old => within_bind sameMem_chain (quiet_deferV _ _ _) fun id =>
      within_bind sameMem_chain (quiet_deferV _ _ _) fun _ => hm fun _ => _

theorem quiet_storeHeaded (v : MapView) (x : VReg) (i j : Nat) : Quiet (storeHeaded v x i j) := by
  unfold storeHeaded
  grind [within_bind, within_get, within_modify, sameMem_chain, sameMem_sendPages, quiet_mapFormat, quiet_raiseFormat, quiet_reachMap]

theorem quiet_gatherCheck (idx : Tag) (v : MapView) : Quiet (gatherCheck idx v) := by
  unfold gatherCheck
  grind [sameMem_chain, quiet_mapFormat, quiet_raiseFormat]

/-! ### Engines -/

theorem quiet_checkAddr (t : Word) : Quiet (checkAddr t) := by
  unfold checkAddr
  grind [within_pure, sameMem_chain, quiet_raiseWalk]

theorem quiet_reserveMessage (core : Nat) : Quiet (reserveMessage core) := by
  unfold reserveMessage
  grind [within_bind, within_pure, within_get, within_throw, within_raiseTree, sameMem_chain]

theorem quiet_countMessage : Quiet (countMessage) := by
  unfold countMessage
  grind [within_look, at_of_within, at_bind, at_set, within_bind, within_get, sameMem_chain, sameMem_modCore, sameMem_countUp]

theorem sameMem_releaseRanges (s : State) (k id : Nat) : SameMem s (s.releaseRanges k id) := by
  unfold State.releaseRanges
  grind [sameMem_modCluster]

theorem quiet_takeCounts (resume : Bool) (phase : Option Nat) : Quiet (takeCounts resume phase) := by
  unfold takeCounts
  grind +splitImp [within_bind, within_get, within_modify, sameMem_chain, quiet_modMe, sameMem_countUp, sameMem_retireHeld]

theorem quiet_issueEngine (fn : EngFn) (d a b : BitVec 5) : Quiet (issueEngine fn d a b) := by
  have hr : ∀ {α : Type} (c : Nat) (v : Word), Quiet (raise c v : M α) := fun c v => within_raise sameMem_chain c v
  have hb : ∀ {α β : Type} {m : M α} {f : α → M β}, Quiet m → (∀ a, Quiet (f a)) → Quiet (m >>= f) := fun h g => within_bind sameMem_chain h g
  unfold issueEngine
  refine hb (quiet_readS _) fun src => ?_
  extract_lets issue
  have hi : ∀ second, Quiet (issue second) := by
    intro second
    refine hb (quiet_readS _) fun w => hb (quiet_checkAddr _) fun _ => ?_
    extract_lets notice phase checks
    have hc : ∀ u, Quiet (checks u) := by
      intro u
      refine within_seen fun s => hb quiet_myAsid fun asid => within_ite (fun _ => hr _ _) fun _ => within_ite (fun _ => hr _ _) fun _ =>
        within_ite (fun _ => hr _ _) fun _ => within_ite (fun _ => hr _ _) fun _ => within_ite (fun _ => hr _ _) fun _ =>
        within_ite (fun _ => hr _ _) fun _ => within_ite (fun _ => hr _ _) fun _ => ?_
      extract_lets go
      have hg : ∀ u, Quiet (go u) := by
        intro u
        refine hb quiet_freshId fun id => within_ite (fun _ => hb (quiet_deferS _ _ _) fun _ => within_pure sameMem_chain _) fun _ =>
          hb quiet_releasePoint fun _ => hb (quiet_takeCounts _ _) fun _ => ?_
        extract_lets add
        have ha : ∀ u, Quiet (add u) := fun u => hb (quiet_modHome _) fun _ =>
          hb (within_modify fun _ => ⟨rfl, rfl⟩) fun _ => hb (quiet_deferS _ _ _) fun _ => within_pure sameMem_chain _
        exact within_ite (fun _ => hb quiet_countMessage ha) fun _ => ha ()
      exact within_ite (fun _ => hb (quiet_reserveMessage _) hg) fun _ => hg ()
    exact within_ite (fun _ => hb (quiet_checkAddr _) hc) fun _ => hc ()
  exact within_ite (fun _ => hi _) fun _ => hb (quiet_readS _) hi

theorem wf_copySubs (m : List Host.Cell) (presence : Word) (src dst sub n : Nat) (h : Mem.wf m = true) :
    Mem.wf (copySubs m presence src dst sub n) = true := by
  induction n with
  | zero => exact h
  | succ n ih => grind [copySubs, wf_writeN]

theorem canonical_copyPage (s : State) (presence : Word) (src dst sub : Nat) (h : Canonical s) : Canonical (s.copyPage presence src dst sub) := by
  unfold State.copyPage
  grind [sameMem_modSlice, wf_copySubs]

theorem sameMem_moveShips (s : State) (asid : Nat) (page : Word) (base dst : Nat) : SameMem s (s.moveShips asid page base dst) := by
  unfold State.moveShips
  grind

theorem sameMem_flipPage (s : State) (asid : Nat) (page : Word) (e : Leaf) (tier lifted base dst : Nat) :
    SameMem s (s.flipPage asid page e tier lifted base dst) := by
  unfold State.flipPage
  grind [sameMem_dropCached, sameMem_moveShips]

theorem sameMem_lookUpPage (s : State) (asid : Nat) (o : EngineOp) (page : Word) {t : State} (h : s.lookUpPage asid o page = some t) :
    SameMem s t := by
  unfold State.lookUpPage at h
  grind [sameMem_lookUp]

theorem sameMem_dropEngine (s : State) (o : EngineOp) : SameMem s (s.dropEngine o) := by
  unfold State.dropEngine
  grind [sameMem_releaseRanges]

theorem sameMem_engineTrap (s : State) (o : EngineOp) (prog : Word) (detail : Nat) (val : Word) : SameMem s (s.engineTrap o prog detail val) := by
  unfold State.engineTrap
  grind [sameMem_modCtx]

theorem sameMem_stopEngine (s : State) (o : EngineOp) (side : Nat) (f : TreeFault) (t : Word) : SameMem s (s.stopEngine o side f t) := by
  unfold State.stopEngine
  grind [sameMem_modCore, sameMem_countFault, sameMem_dropEngine, sameMem_engineTrap, sameMem_modCtx]

theorem canonical_completeEngine (s : State) (o : EngineOp) (h : Canonical s) : Canonical (s.completeEngine o) := by
  unfold State.completeEngine
  grind [sameMem_dropEngine, canonical_arrive, Option.bind_eq_some_iff, sameMem_engineTrap, sameMem_countDown, sameMem_modNet]

theorem sameMem_putEngine (s : State) (o : EngineOp) : SameMem s (s.putEngine o) := ⟨rfl, rfl⟩

/-! ### Key-value pages -/

theorem sameMem_takeSliceSlot (s : State) (n : Nat) (p : Pool) {a : Nat} {q : Pool} {t : State} (h : s.takeSliceSlot n p = some (a, q, t)) :
    SameMem s t := by
  unfold State.takeSliceSlot at h
  grind [sameMem_modVale]

theorem sameMem_setHeader (s : State) (key : Nat) (h : PageHdr) : SameMem s (s.setHeader key h) := ⟨rfl, rfl⟩

theorem canonical_writeSlot (s : State) (slot : Nat) (l : List (Nat × Nat)) (h : Canonical s) : Canonical (s.writeSlot slot l) := by
  have hw : Mem.wf (l.foldl (fun m q => Mem.writeN m (slot + q.1) 1 q.2) s.phys) = true :=
    wf_foldl _ (fun m q => wf_writeN m _ _ _) l s.phys h.2
  unfold State.writeSlot
  grind [sameMem_modSlice]

theorem sameMem_dropReq (s : State) (n idx : Nat) : SameMem s (s.dropReq n idx) := by
  unfold State.dropReq
  grind [sameMem_modSlice]

theorem sameMem_answerPend (s : State) (c l id bits mask : Nat) (t : Option Tag) : SameMem s (s.answerPend c l id bits mask t) := by
  unfold State.answerPend
  grind [sameMem_modCtx]

theorem sameMem_servePlain (s : State) (h : PageHdr) (q : PageReq) : SameMem s (s.servePlain h q) := by
  unfold State.servePlain
  grind [sameMem_answerPend]

theorem sameMem_serveRaw (s : State) (h : PageHdr) (q : PageReq) : SameMem s (s.serveRaw h q) := by
  unfold State.serveRaw
  exact sameMem_chain.trans (sameMem_answerPend s _ _ _ _ _ _) (sameMem_answerPend _ _ _ _ _ _ _)

theorem sameMem_serve (s : State) (h : PageHdr) (q : PageReq) : SameMem s (s.serve h q) := by
  unfold State.serve
  grind [sameMem_servePlain, sameMem_serveRaw]

theorem sameMem_endConversion (s : State) (n key : Nat) : SameMem s (s.endConversion n key) := by
  unfold State.endConversion
  grind [sameMem_modSlice, sameMem_setHeader]

theorem sameMem_grantSlot (s : State) (n key : Nat) {t : State} (h : s.grantSlot n key = some t) : SameMem s t := by
  unfold State.grantSlot at h
  grind [sameMem_modSlice, sameMem_setHeader, sameMem_takeSliceSlot]

theorem sameMem_waitSlot (s : State) (n key : Nat) : SameMem s (s.waitSlot n key) := by
  unfold State.waitSlot
  grind [sameMem_modSlice, sameMem_modVale]

theorem sameMem_agePages (s : State) (p : Nat × PageHdr → Bool) : SameMem s (s.agePages p) := ⟨rfl, rfl⟩

theorem sameMem_lateTick (s : State) (slice : Nat) : SameMem s (s.lateTick slice) := by
  unfold State.lateTick
  grind [sameMem_foldl, sameMem_agePages, sameMem_modSlice]

theorem sameMem_dropConversion (s : State) (n key : Nat) : SameMem s (s.dropConversion n key) := by
  unfold State.dropConversion
  grind [sameMem_modSlice]

/-! ### The matrix array -/

theorem sameMem_grantHead (s : State) (n : Nat) {t : State} (h : s.grantHead n = some t) : SameMem s t := by
  unfold State.grantHead at h
  grind [sameMem_finishWait, sameMem_modQuad]

theorem quiet_awaitRegrant : Quiet (awaitRegrant) := by
  unfold awaitRegrant
  grind [within_bind, within_pure, within_get, within_throw, sameMem_chain]

theorem quiet_modArray (f : Quad → Quad) : Quiet (modArray f) := by
  unfold modArray
  grind [within_modify, sameMem_chain, sameMem_modQuad]

theorem quiet_meetLimit : Quiet (meetLimit) := by
  unfold meetLimit
  grind [within_bind, within_pure, within_get, sameMem_chain, quiet_modArray]

theorem sameMem_clearRowprog (s : State) (c : Nat) : SameMem s (s.clearRowprog c) := by
  unfold State.clearRowprog
  grind [sameMem_modCore]

theorem sameMem_releaseCmds (s : State) (k : Nat) (l : List MCmd) : SameMem s (s.releaseCmds k l) := by
  induction l generalizing s with
  | nil => exact ⟨rfl, rfl⟩
  | cons m r ih => exact sameMem_chain.trans (sameMem_releaseRanges s k m.lockId) (ih _)

theorem sameMem_discardCmds (s : State) (n : Nat) : SameMem s (s.discardCmds n) := by
  unfold State.discardCmds
  grind [sameMem_clearRowprog, sameMem_modQuad, sameMem_notifyCheck, sameMem_releaseCmds]

theorem quiet_checkWait (d : BitVec 5) : Quiet (checkWait d) := by
  unfold checkWait
  grind [within_bind, within_pure, within_get, within_throw, within_raise, sameMem_chain, quiet_deferS]

theorem quiet_checkResume (d : BitVec 5) : Quiet (checkResume d) := by
  unfold checkResume
  grind +splitImp [within_bind, within_pure, within_get, within_modify, sameMem_chain, sameMem_clearRowprog, quiet_deferS, quiet_modArray]

theorem quiet_checkDiscard (d : BitVec 5) : Quiet (checkDiscard d) := by
  unfold checkDiscard
  grind +splitImp [within_bind, within_pure, within_get, within_modify, sameMem_chain, sameMem_discardCmds, quiet_deferS]

theorem quiet_ownChecks (o : MOp) (v : MapView) (q : Quad) : Quiet (ownChecks o v q) := by
  unfold ownChecks
  grind [within_pure, within_raise, sameMem_chain, quiet_raiseFormat]

theorem quiet_mayCommand : Quiet (mayCommand) := by
  unfold mayCommand
  grind [within_bind, within_pure, within_get, within_raise, sameMem_chain, quiet_meetLimit]

theorem quiet_command (o : MOp) (d : BitVec 5) (a : BitVec 4) (plane : Nat) : Quiet (command o d a plane) := by
  unfold command
  refine within_bind sameMem_chain quiet_awaitRegrant fun _ => within_bind sameMem_chain quiet_mayCommand fun _ => within_seen fun s =>
    within_bind sameMem_chain (quiet_readM _) fun map => within_bind sameMem_chain (quiet_ownChecks _ _ _) fun _ =>
    within_bind sameMem_chain (quiet_mapFormat _) fun r => within_bind sameMem_chain (quiet_mapHeaded _ _) fun _ => ?_
  grind [within_bind, within_pure, within_throw, sameMem_chain, quiet_modHome, quiet_deferS, quiet_freshId, quiet_modArray, quiet_releasePoint]

theorem sameMem_stepLooks (s : State) (n asid : Nat) (v : MapView) (k : Access) (last : Nat × Word) (l : List (Nat × Nat)) {t : State}
    (h : s.stepLooks n asid v k last l = some t) : SameMem s t := by
  induction l generalizing s last with
  | nil => grind [State.stepLooks]
  | cons e r ih => grind [State.stepLooks, Option.bind_eq_some_iff, sameMem_lookUp]

theorem sameMem_stopCmd (s : State) (n i : Nat) (m : MCmd) (c l : Nat) (cause : Nat) (t : TrapInfo) : SameMem s (s.stopCmd n i m c l cause t) := by
  unfold State.stopCmd
  grind [sameMem_modCore, sameMem_modCtx, sameMem_modQuad, sameMem_notifyCheck]

theorem sameMem_endStep (s : State) (n i : Nat) (m : MCmd) (c : Nat) (next : Nat) : SameMem s (s.endStep n i m c next) := by
  unfold State.endStep
  grind [sameMem_modCore, sameMem_modQuad, sameMem_notifyCheck, sameMem_releaseRanges]

theorem sameMem_startCmd (s : State) (n i : Nat) (m : MCmd) (c : Nat) : SameMem s (s.startCmd n i m c) := by
  unfold State.startCmd
  grind [sameMem_modCore, sameMem_modQuad]

/-! ### System operations -/

theorem quiet_systemCall (k : Nat) (x arg : Word) (d : BitVec 5) (sc : BitVec 3) : Quiet (systemCall k x arg d sc) := by
  unfold systemCall
  grind +splitImp [within_bind, within_get, within_modify, within_raise, sameMem_chain, sameMem_modVale, quiet_leaveOp, quiet_releasePoint]

theorem sameMem_wakeCtx (s : State) (c l : Nat) : SameMem s (s.wakeCtx c l) := by
  unfold State.wakeCtx
  grind [sameMem_finishWait, sameMem_giveS, sameMem_modCtx]

theorem sameMem_openRoute (s : State) (c dir : Nat) (f : LinkFlit) : SameMem s (s.openRoute c dir f) := by
  unfold State.openRoute
  grind [sameMem_modNet]

/-! ### The mesh -/

theorem sameMem_leave (s : State) (idx : Nat) (m : Msg) : SameMem s (s.leave idx m) := by
  unfold State.leave
  grind [sameMem_modNet]

theorem sameMem_receive (s : State) (m : Msg) : SameMem s (s.receive m) := by
  unfold State.receive
  grind [sameMem_modCore, sameMem_inject, sameMem_sendLoad]

theorem canonical_writeFlit (s : State) (k : Nat) (m : Msg) (i : Nat) (h : Canonical s) : Canonical (s.writeFlit k m i) := by
  unfold State.writeFlit
  grind [canonical_cwrite]

theorem canonical_writeFlits (s : State) (c : Nat) (e : MailEntry) (l : List Nat) {t : State} {m : MailEntry} (h : Canonical s)
    (hw : s.writeFlits c e l = (t, m)) : Canonical t := by
  unfold State.writeFlits at hw
  grind [canonical_foldl, canonical_writeFlit, sameMem_modCore]

theorem canonical_stampStore (s : State) (c a : Nat) (v : Word) (h : Canonical s) : Canonical (s.stampStore c a v) := by
  unfold State.stampStore
  grind [sameMem_modCore, canonical_cwrite]

theorem canonical_stamp (s : State) (c : Nat) (m : Msg) {t : State} (h : Canonical s) (e : s.stamp c m = some t) : Canonical t := by
  unfold State.stamp at e
  grind [sameMem_makeVersion, sameMem_modNet, canonical_stampStore]

theorem sameMem_deposited (s : State) (core idx : Nat) (e : MailEntry) : SameMem s (s.deposited core idx e) := by
  unfold State.deposited
  grind [sameMem_modCore, sameMem_sendRetire]

theorem sameMem_closePhase (s : State) (gang phase : Nat) {t : State} (h : s.closePhase gang phase = some t) : SameMem s t := by
  unfold State.closePhase at h
  grind [sameMem_modGang, sameMem_modNet]

theorem sameMem_closePhases (s : State) : SameMem s s.closePhases := by
  have hp : ∀ (u : State) (g p : Nat), SameMem u ((u.closePhase g p).getD u) := by
    intro u g p
    cases e : u.closePhase g p with
    | none => exact ⟨rfl, rfl⟩
    | some t => exact sameMem_closePhase _ _ _ e
  refine sameMem_foldl (fun t e => ?_) _ _
  split
  · exact ⟨rfl, rfl⟩
  · exact sameMem_foldl (fun u p => hp u _ p) _ _

theorem sameMem_wakePhase (s : State) (c p : Nat) (l : List Nat) : SameMem s (s.wakePhase c p l) := by
  induction l generalizing s with
  | nil => exact ⟨rfl, rfl⟩
  | cons a r ih => grind [State.wakePhase, sameMem_finishWait]

theorem sameMem_pushLanded (s : State) (c dir : Nat) (data : List (BitVec 512)) (vtag : Option Tag) {t : State}
    (h : s.pushLanded c dir data vtag = some t) : SameMem s t := by
  unfold State.pushLanded at h
  grind [sameMem_modCore]

theorem sameMem_landLink (s : State) (c : Nat) (q : Pend) {t : State} (h : s.landLink c q = some (some t)) : SameMem s t := by
  unfold State.landLink at h
  grind [sameMem_pushLanded]

/-! ### Nodes and rewriting -/

theorem quiet_checkPr (pr : Word) (port : Bool) : Quiet (checkPr pr port) := by
  unfold checkPr
  grind [within_bind, within_pure, within_get, within_throw, sameMem_chain]

theorem canonical_setNword (s : State) (c : Nat) (pr : Word) (w : Nat) (v : Word) (h : Canonical s) : Canonical (s.setNword c pr w v) := by
  unfold State.setNword
  grind [canonical_setNodeWord]

theorem canonical_setSlot (s : State) (c : Nat) (pr v : Word) (h : Canonical s) : Canonical (s.setSlot c pr v) := by
  unfold State.setSlot
  grind [canonical_setNword]

theorem sameMem_popFree (s : State) (c : Nat) {a : Nat} {t : State} (h : s.popFree c = some (a, t)) : SameMem s t := by
  unfold State.popFree at h
  grind [sameMem_setCore]

theorem canonical_recycle (s : State) (c : Nat) (pr : Word) (h : Canonical s) : Canonical (s.recycle c pr) := by
  unfold State.recycle
  grind [sameMem_modCore, canonical_setNword]

theorem quiet_stepNld (d : Nat) (pr : Word) (w : Nat) : Quiet (stepNld d pr w) := by
  unfold stepNld
  grind [within_bind, within_pure, within_get, sameMem_chain, quiet_deferS]

theorem keeping_stepNst (pr : Word) (w : Nat) (v : Word) : Keeping (stepNst pr w v) := by
  unfold stepNst
  grind [within_look, at_of_within, at_bind, at_set, within_bind, within_pure, within_get, within_raise, keeps_chain, keeping_of_quiet, Keeps,
    canonical_setNword]

theorem canonical_freeSlots (s : State) (c : Nat) (pr : Word) (k : Nat) (l : List Word) (h : Canonical s) : Canonical (s.freeSlots c pr k l) := by
  induction l generalizing s k with
  | nil => exact h
  | cons t r ih => exact ih _ _ (canonical_setNword _ _ _ _ _ h)

theorem keeping_stepNfree (pr t0 t1 t2 : Word) : Keeping (stepNfree pr t0 t1 t2) := by
  unfold stepNfree
  grind [within_look, at_of_within, at_bind, at_set, within_bind, within_pure, within_get, within_raise, keeps_chain, keeping_of_quiet, Keeps,
    canonical_freeSlots, canonical_recycle, canonical_setNword]

theorem quiet_linkTrap {α : Type} (l : LinkOp) (cause : Nat) : Quiet (linkTrap l cause : M α) :=
  within_bind sameMem_chain (quiet_modMe _) fun _ => within_throw sameMem_chain _

theorem quiet_stepLookThrough (l : LinkOp) : Quiet (stepLookThrough l) := by
  unfold stepLookThrough
  grind [within_bind, within_pure, within_get, within_raise, sameMem_chain, quiet_checkPr]

theorem keeping_stepQ (l : LinkOp) : Keeping (stepQ l) := by
  have trap : ∀ c s, At Keeps (linkTrap l c : M NodeNext) s := fun c s => at_of_within (keeping_of_quiet (quiet_linkTrap l c))
  refine within_look fun s => ?_
  dsimp only
  split
  · exact trap _ _
  · split
    · exact trap _ _
    · grind [at_of_within, at_bind, at_set, within_pure, keeps_chain, Keeps, canonical_setSlot, canonical_recycle]

theorem keeping_stepP (l : LinkOp) : Keeping (stepP l) := by
  unfold stepP
  grind [within_look, at_of_within, at_bind, at_set, within_bind, within_pure, within_get, keeps_chain, keeping_of_quiet, Keeps, canonical_setSlot]

theorem keeping_cleanupPass (o v : Word) (n : Nat) : Keeping (cleanupPass o v n) := by
  unfold cleanupPass
  grind [within_look, at_of_within, at_bind, at_set, within_bind, within_pure, within_get, keeps_chain, keeping_of_quiet, Keeps, canonical_recycle,
    canonical_setSlot]

theorem canonical_writeRing (s : State) (o r : Nat) (e : ChurnEntry) (h : Canonical s) : Canonical (s.writeRing o r e) := by
  unfold State.writeRing
  grind [canonical_cwrite]

theorem canonical_spill (s : State) (o r : Nat) (h : Canonical s) : Canonical (s.spill o r) := by
  unfold State.spill
  grind [sameMem_foldl, canonical_foldl, canonical_writeRing]

theorem canonical_pushChurn (s : State) (o : Nat) (e : ChurnEntry) (h : Canonical s) : Canonical (s.pushChurn o e) := by
  unfold State.pushChurn
  grind [sameMem_modCore, canonical_spill]

theorem canonical_dropChurn (s : State) (o i : Nat) (h : Canonical s) : Canonical (s.dropChurn o i) := by
  unfold State.dropChurn
  grind [sameMem_modCore, canonical_spill]

theorem canonical_pushEntry (s : State) (c : Nat) (phase : Nat) (p q : Word) {t : State} (h : Canonical s) (e : s.pushEntry c phase p q = some t) :
    Canonical t := by
  unfold State.pushEntry at e
  grind [sameMem_countUp, canonical_pushChurn]

theorem keeping_stepPush (l : LinkOp) : Keeping (stepPush l) := by
  unfold stepPush
  grind [within_look, at_of_within, at_bind, at_set, within_bind, within_pure, within_get, keeps_chain, keeping_of_quiet, Keeps, canonical_pushEntry]

theorem keeping_stepLink (l : LinkOp) : Keeping (stepLink l) := by
  unfold stepLink
  grind [within_bind, within_pure, within_modify, keeps_chain, keeping_of_quiet, Keeps, canonical_setSlot, keeping_cleanupPass, quiet_stepLookThrough,
    keeping_stepP, keeping_stepPush, keeping_stepQ]

theorem keeping_claimNode (pr : Word) : Keeping (claimNode pr) := by
  unfold claimNode
  grind [within_look, at_of_within, at_bind, at_set, within_bind, within_pure, within_get, keeps_chain, keeping_of_quiet, Keeps, canonical_setNword]

theorem keeping_unclaim (e : ChurnEntry) : Keeping (unclaim e) := by
  unfold unclaim
  grind [within_modify, keeps_chain, keeping_of_quiet, Keeps, canonical_endClaim]

theorem quiet_ruleEntry (lo hi : Nat) : Quiet (ruleEntry lo hi) := by
  unfold ruleEntry
  grind [within_bind, within_get, sameMem_chain, quiet_checkLocal, quiet_scalarLoad]

theorem keeping_commitPop (e : ChurnEntry) (lo hi hlo hhi : Word) : Keeping (commitPop e lo hi hlo hhi) := by
  unfold commitPop
  grind [within_bind, within_modify, keeps_chain, quiet_modMe, keeping_of_quiet, Keeps, canonical_dropChurn, canonical_endMarksBut,
    sameMem_retirePair]

theorem keeping_enterRule (e : ChurnEntry) (h1 h2 : Word) : Keeping (enterRule e h1 h2) := by
  unfold enterRule
  grind [within_bind, within_pure, within_throw, keeps_chain, keeping_of_quiet, quiet_checkTarget, keeping_commitPop, quiet_ruleEntry,
    keeping_unclaim]

theorem canonical_undoPop (s : State) (o : NodeOp) (h : Canonical s) : Canonical (s.undoPop o) := by
  unfold State.undoPop
  grind [sameMem_modCore, canonical_setNword]

theorem keeping_stepNrun (e : ChurnEntry) (first : Option Word) : Keeping (stepNrun e first) := by
  unfold stepNrun
  grind [within_bind, within_pure, keeps_chain, keeping_of_quiet, keeping_claimNode, keeping_enterRule]

theorem keeping_nodeStep (o : NodeOp) : Keeping (nodeStep o) := by
  cases o with
  | nld d pr w => exact keeping_of_quiet (quiet_stepNld d pr w)
  | nst pr w v => exact keeping_stepNst pr w v
  | nfree pr t0 t1 t2 => exact keeping_stepNfree pr t0 t1 t2
  | link l => exact keeping_stepLink l
  | nrun e first => exact keeping_stepNrun e first

theorem keeping_runNode (sc : BitVec 3) (n : Nat) (o : NodeOp) : Keeping (runNode sc n o) := by
  induction n generalizing o with
  | zero => exact keeping_of_quiet (quiet_leaveOp _ _)
  | succ n ih => grind [runNode, within_bind, within_pure, within_get, keeps_chain, keeping_of_quiet, quiet_leaveOp, keeping_nodeStep]

theorem canonical_moveNode (s : State) (c : Nat) (old new other : Word) (h : Canonical s) : Canonical (s.moveNode c old new other) := by
  unfold State.moveNode
  grind [canonical_recycle, canonical_setNword]

theorem canonical_migrate (s : State) (c to_ : Nat) {t : State} (h : Canonical s) (e : s.migrate c to_ = some t) : Canonical t := by
  unfold State.migrate at e
  split at e
  · cases e
  · split at e
    · cases e
    · split at e
      · cases e
      · split at e
        · cases e
        · rename_i h1
          split at e
          · cases e
          · rename_i h2
            rw [← Option.some.inj e]
            have hc := keeps_of_sameMem (sameMem_chain.trans (sameMem_popFree _ _ h1) (sameMem_popFree _ _ h2)) h
            refine canonical_pushChurn _ _ _ (canonical_dropChurn _ _ _ (canonical_moveNode _ _ _ _ _ ?_))
            exact canonical_moveNode _ _ _ _ _ hc

theorem canonical_exchange (s : State) (c : Nat) {n : Nat} {t : State} (h : Canonical s) (e : s.exchange c = some (n, t)) : Canonical t := by
  unfold State.exchange at e
  grind [canonical_migrate, Option.map_eq_some_iff]

theorem canonical_stepAt (s : State) (c l : Nat) (o : NodeOp) {t : State} (h : Canonical s) (e : s.stepAt c l o = some t) : Canonical t := by
  have hn := keeping_nodeStep o { s with cur := (c, l) }
  unfold State.stepAt at e
  dsimp only at e
  generalize nodeStep o { s with cur := (c, l) } = r at e hn
  cases r with
  | ok a u => cases a <;> grind [Ends, Keeps, sameMem_modCtx, sameMem_finishWait, sameMem_jumpTo, sameMem_stopLink]
  | error x u => cases x <;> grind [Ends, Keeps, canonical_undoPop, sameMem_afterTrap]

/-! ### The vector unit -/

theorem quiet_writeElems (d : BitVec 5) (p : BitVec 256) (w : Nat) (f : Nat → Nat) (old : BitVec 2048) (t : Tag) (lat : Nat) :
    Quiet (writeElems d p w f old t lat) := by
  unfold writeElems
  grind [within_bind, within_get, sameMem_chain, quiet_writeVL]

theorem quiet_twoVectors (ok : Tag → Bool) (a b : BitVec 5) : Quiet (twoVectors ok a b) := by
  unfold twoVectors
  grind [within_bind, within_pure, sameMem_chain, quiet_notPoison, quiet_raiseFormat, quiet_readV]

theorem quiet_oneVector (ok : Tag → Bool) (a : BitVec 5) : Quiet (oneVector ok a) := by
  unfold oneVector
  grind [within_bind, within_pure, sameMem_chain, quiet_notPoison, quiet_raiseFormat, quiet_readV]

theorem quiet_elemOp2 (ok : Tag → Bool) (f : ElemFn) (lat : Tag → Nat) (mode : RoundMode) (p : BitVec 3) (d a b : BitVec 5) :
    Quiet (elemOp2 ok f lat mode p d a b) := by
  unfold elemOp2
  grind [within_bind, sameMem_chain, quiet_oldV, quiet_readP, quiet_twoVectors, quiet_writeElems]

theorem quiet_elemOp3 (f : ElemFn) (mode : RoundMode) (p : BitVec 3) (d a b : BitVec 5) : Quiet (elemOp3 f mode p d a b) := by
  unfold elemOp3
  grind [within_bind, sameMem_chain, quiet_notPoison, quiet_raiseFormat, quiet_readP, quiet_readV, quiet_writeElems]

theorem quiet_elemOp1 (ok : Tag → Bool) (f : ElemFn) (lat : Tag → Nat) (mode : RoundMode) (p : BitVec 3) (d a : BitVec 5) :
    Quiet (elemOp1 ok f lat mode p d a) := by
  unfold elemOp1
  grind [within_bind, sameMem_chain, quiet_oldV, quiet_oneVector, quiet_readP, quiet_writeElems]

theorem quiet_compare (r : VRel) (p : BitVec 3) (d a b : BitVec 5) : Quiet (Machine.compare r p d a b) := by
  unfold Machine.compare
  grind [within_bind, within_get, sameMem_chain, quiet_readP, quiet_twoVectors, quiet_writeP]

theorem quiet_scaleSource (t : Tag) (a : BitVec 5) : Quiet (scaleSource t a) := by
  unfold scaleSource
  grind [within_pure, sameMem_chain, quiet_readV]

theorem quiet_scaleRegister (t : Tag) (a : BitVec 5) (q : VReg) (second : Nat) : Quiet (scaleRegister t a q second) := by
  unfold scaleRegister
  grind [within_pure, sameMem_chain, quiet_raiseFormat]

theorem quiet_convertPlain (d : BitVec 5) (x : VReg) (scales : Nat) (t : Tag) (p : BitVec 256) (mode : RoundMode) (sat : Bool) :
    Quiet (convertPlain d x scales t p mode sat) := by
  unfold convertPlain
  grind [within_bind, within_get, sameMem_chain, quiet_oldV, quiet_writeVL]

theorem quiet_convertBlocks (d : BitVec 5) (x : VReg) (scales : Nat) (t : Tag) : Quiet (convertBlocks d x scales t) := by
  unfold convertBlocks
  grind [within_bind, within_get, sameMem_chain, quiet_oldV, quiet_writeVL]

theorem quiet_reduce (ok : Tag → Bool) (ff : Fp → Fp → Fp) (fid : Fp) (read : Nat → Nat → Int) (fi : Int → Int → Int) (iid : Nat → Int)
    (p : BitVec 3) (d a : BitVec 5) : Quiet (reduce ok ff fid read fi iid p d a) := by
  unfold reduce
  grind [within_bind, within_get, sameMem_chain, quiet_oneVector, quiet_readP, quiet_writeSL]

theorem quiet_distance (l2 : Bool) (d a b : BitVec 5) (q : BitVec 3) : Quiet (distance l2 d a b q) := by
  unfold distance
  refine within_bind sameMem_chain (quiet_readV _) fun x => within_bind sameMem_chain (quiet_readV _) fun y =>
    within_bind sameMem_chain (quiet_readV _) fun c => within_bind sameMem_chain (quiet_scaleSource _ _) fun k => ?_
  grind [within_bind, within_get, sameMem_chain, quiet_notPoison, quiet_raiseFormat, quiet_scaleRegister, quiet_writeVL]

theorem quiet_predOp (f : BitVec 256 → BitVec 256 → BitVec 256) (d a b : BitVec 5) : Quiet (predOp f d a b) := by
  unfold predOp
  grind [within_bind, sameMem_chain, quiet_readP, quiet_writeP]

/-! ### The exponential unit and key units -/

theorem canonical_writePairs (s : State) (c l k a pc : Nat) (x : List (BitVec 32 × BitVec 32)) (h : Canonical s) :
    Canonical (s.writePairs c l k a pc x) := by
  induction x generalizing s a with
  | nil => exact h
  | cons e r ih => grind [State.writePairs, sameMem_modCore, canonical_cwrite]

/-! ### Gangs -/

theorem sameMem_report (s : State) (id : Nat) (r : StopRec) (kind : Nat) : SameMem s (s.report id r kind) := by
  unfold State.report
  grind [sameMem_modVale]

theorem sameMem_notifyParked (s : State) (gi : Nat) (m : Image) (w0 w1 w2 : Word) : SameMem s (s.notifyParked gi m w0 w1 w2) := by
  unfold State.notifyParked
  grind [sameMem_modNet]

theorem canonical_endRoutines (s : State) (c : Nat) (l : List Nat) (h : Canonical s) : Canonical (s.endRoutines c l) := by
  induction l generalizing s with
  | nil => exact h
  | cons a r ih => grind [State.endRoutines, canonical_withdraw, canonical_endRoutine]

theorem sameMem_discardMatrix (s : State) (c : Nat) : SameMem s (s.discardMatrix c) := by
  unfold State.discardMatrix
  grind [sameMem_clearRowprog, sameMem_modQuad, sameMem_releaseCmds]

theorem sameMem_retireAll (s : State) (l : List Msg) : SameMem s (s.retireAll l) := by
  induction l generalizing s with
  | nil => exact ⟨rfl, rfl⟩
  | cons m r ih => exact sameMem_chain.trans (sameMem_sendRetire s m.retire) (ih _)

theorem sameMem_failJob (s : State) (j : Nat) : SameMem s (s.failJob j) := by
  unfold State.failJob
  grind [sameMem_modVale]

theorem canonical_restart (s : State) (c : Nat) (h : Canonical s) : Canonical (s.restart c) := by
  unfold State.restart
  grind [sameMem_modCore, sameMem_discardMatrix, canonical_endRoutines, sameMem_modVale, sameMem_retireAll]

theorem sameMem_place (s : State) (gi : Nat) (g : Gang) : SameMem s (s.place gi g) :=
  sameMem_chain.trans (sameMem_foldl (fun t c => sameMem_modCore t c fun k => { k.freed with gang := some gi }) g.cores s)
    (sameMem_foldl (fun t k => sameMem_modCluster t k Cluster.freed) g.clusters _)

theorem canonical_writeSegment (s : State) (k : Nat) (g : Segment) (h : Canonical s) : Canonical (s.writeSegment k g) := by
  unfold State.writeSegment
  grind [canonical_cwriteBytes]

theorem canonical_writeDispatch (s : State) (c : Nat) (h : Canonical s) : Canonical (s.writeDispatch c) := by
  unfold State.writeDispatch
  grind [canonical_cwriteBytes]

theorem canonical_threadPool (s : State) (k a n : Nat) (h : Canonical s) : Canonical (s.threadPool k a n) := by
  induction n generalizing s a with
  | zero => exact h
  | succ n ih => exact ih _ _ (canonical_cwrite _ _ _ _ _ h)

theorem canonical_startCore (s : State) (g : Gang) (code : List Byte) (k i : Nat) (h : Canonical s) : Canonical (s.startCore g code k i) := by
  unfold State.startCore
  grind [sameMem_modCore, canonical_threadPool, canonical_writeDispatch]

theorem sameMem_wakeSegment (s : State) (k : Nat) (l : List (Nat × Nat)) : SameMem s (s.wakeSegment k l) := by
  induction l generalizing s with
  | nil => exact ⟨rfl, rfl⟩
  | cons e r ih => grind [State.wakeSegment, sameMem_modCtx]

theorem sameMem_vacate (s : State) (g : Gang) : SameMem s (s.vacate g) :=
  sameMem_chain.trans (sameMem_foldl (fun t c => sameMem_modCore t c Core.freed) g.cores s)
    (sameMem_foldl (fun t k => sameMem_modCluster t k Cluster.freed) g.clusters _)

theorem sameMem_removeGang (s : State) (gi : Nat) (g : Gang) : SameMem s (s.removeGang gi g) := by
  unfold State.removeGang
  grind [sameMem_modNet, sameMem_modVale, sameMem_vacate]

theorem sameMem_completeJob (s : State) (i : Nat) (j : Job) (status : Nat) : SameMem s (s.completeJob i j status) := by
  unfold State.completeJob
  grind [sameMem_modVale]

theorem sameMem_gangEnded (s : State) (i parked : Nat) : SameMem s (s.gangEnded i parked) := by
  unfold State.gangEnded
  grind [sameMem_completeJob, sameMem_modVale]

theorem sameMem_preempt (s : State) (gi : Nat) : SameMem s (s.preempt gi) := by
  unfold State.preempt
  grind

theorem sameMem_stopLinks (s : State) (c : Nat) (p : Ctx → Bool) : SameMem s (s.stopLinks c p) := by
  unfold State.stopLinks
  grind [sameMem_foldl, sameMem_stopLink]

theorem sameMem_retune (s : State) (f : Module → Module) : SameMem s (s.retune f) := by
  unfold State.retune
  grind [sameMem_modMod]

theorem sameMem_rn (f : Nat → Nat) (s : State) : SameMem s (State.rn f s) := ⟨rfl, rfl⟩

theorem sameMem_dropParked (s : State) (gi : Nat) : SameMem s (s.dropParked gi) := ⟨rfl, rfl⟩

theorem canonical_putObjectByte (s : State) (asid : Nat) (t : Word) (b : Nat) (v : Byte) (h : Canonical s) :
    Canonical (s.putObjectByte asid t b v) := by
  unfold State.putObjectByte
  grind [canonical_freshSector, sameMem_modSlice, wf_write]

theorem canonical_putImageBytes (s : State) (g : Gang) (h : Canonical s) : Canonical (s.putImageBytes g) := by
  unfold State.putImageBytes
  grind [sameMem_foldl, canonical_foldl, canonical_putObjectByte]

theorem canonical_loadMemory (s : State) (g : Gang) (m : Image) (h : Canonical s) : Canonical (s.loadMemory g m) := by
  refine ⟨?_, h.2⟩
  unfold State.loadMemory
  exact wf_foldl _ (fun t q => wf_write t _ _) _ _ (wf_filter _ _ h.1)

theorem canonical_loadImage (s : State) (gi : Nat) (g : Gang) (m : Image) (h : Canonical s) : Canonical (s.loadImage gi g m) := by
  unfold State.loadImage
  extract_lets s1 s2 s3 s4
  have h1 : SameMem s s1 := sameMem_foldl (fun t q => sameMem_modCore t _ _) _ _
  have h2 : SameMem s1 s2 := sameMem_foldl (fun t q => sameMem_modCluster t _ _) _ _
  have h3 : Canonical s3 := canonical_loadMemory s2 g m (keeps_of_sameMem (sameMem_chain.trans h1 h2) h)
  have h4 : SameMem s3 s4 := sameMem_foldl (fun t r => sameMem_modQuad t _ _) _ _
  exact keeps_of_sameMem h4 h3

theorem sameMem_resumeJob (s : State) (gi : Nat) (g : Gang) : SameMem s (s.resumeJob gi g) := by
  unfold State.resumeJob
  grind

/-! ### Edge slices -/

theorem canonical_putTarget (s : State) (x : Loc) (n v : Nat) (h : Canonical s) : Canonical (s.putTarget x n v) := by
  have hs := canonical_freshSector s x h
  exact ⟨hs.1, wf_writeN _ _ _ _ hs.2⟩

theorem sameMem_shipResult (s : State) (q : Ship) (old : Nat) : SameMem s (s.shipResult q old) := by
  unfold State.shipResult
  grind [sameMem_modCtx, sameMem_modNet]

theorem sameMem_shipPoison (s : State) (q : Ship) : SameMem s (s.shipPoison q) := by
  unfold State.shipPoison
  grind [sameMem_modCtx, sameMem_shipResult]

theorem canonical_performShip (s : State) (q : Ship) (h : Canonical s) : Canonical (s.performShip q) := by
  unfold State.performShip
  grind [sameMem_countMac, sameMem_modSlice, canonical_putTarget, sameMem_shipPoison, sameMem_shipResult]

theorem sameMem_modRefresh (s : State) (n k : Nat) (f : Refresh → Refresh) : SameMem s (s.modRefresh n k f) := by
  unfold State.modRefresh
  grind [sameMem_modSlice]

/-! ### The package -/

theorem sameMem_fabric (s : State) (w : SnapWord) : SameMem s (s.fabric w) := by
  unfold State.fabric
  grind [sameMem_modCtx, sameMem_trigger]

theorem sameMem_writeRoot (s : State) (asid root w : Nat) (v : Word) : SameMem s (s.writeRoot asid root w v) := ⟨rfl, rfl⟩

theorem sameMem_writeReg (s : State) (r : RegSel) (v : BitVec 64) : SameMem s (s.writeReg r v) := by
  unfold State.writeReg
  grind [sameMem_foldl, sameMem_modCore, sameMem_dropCached, sameMem_modCtx, sameMem_modSlice, sameMem_modVale, sameMem_retune, sameMem_setCr,
    sameMem_writeRoot]

/-! ### System calls -/

theorem sameMem_respond (s : State) (c : Caller) (k : Nat) (v : Word) : SameMem s (s.respond c k v) := by
  unfold State.respond
  grind [sameMem_modCtx, sameMem_modVale]

theorem sameMem_invalid (s : State) {t : State} {v : Word} (h : invalid s = some (t, v)) : SameMem s t := by
  cases h
  exact ⟨rfl, rfl⟩

theorem sameMem_makeTables (s : State) (d : Root) (path n base : Nat) {t : State} {b : Nat} (h : s.makeTables d path n base = some (t, b)) :
    SameMem s t := by
  induction n generalizing s base with
  | zero => grind [State.makeTables]
  | succ n ih => grind [State.makeTables, sameMem_modVale]

theorem sameMem_pageSlot (s : State) (d : Root) (path : Nat) {t : State} {k : Nat} (h : s.pageSlot d path = some (t, k)) : SameMem s t := by
  unfold State.pageSlot at h
  grind [sameMem_makeTables]

theorem sameMem_takeBacking (s : State) (tier : Bool) {a : Nat} {t : State} (h : s.takeBacking tier = some (a, t)) : SameMem s t := by
  unfold State.takeBacking at h
  grind [Option.map_eq_some_iff, sameMem_modVale]

theorem canonical_zeroBacking (s : State) (a n : Nat) (h : Canonical s) : Canonical (s.zeroBacking a n) := by
  unfold State.zeroBacking
  grind [canonical_zeroPhys]

theorem sameMem_freshSectors (s : State) (asid : Nat) (d : Root) (t : Word) : SameMem s (s.freshSectors asid d t) := by
  unfold State.freshSectors
  grind [sameMem_foldl]

theorem sameMem_keepMappings (s : State) (d : Root) (bver : Nat) : SameMem s (s.keepMappings d bver) := ⟨rfl, rfl⟩

theorem sameMem_freePage (s : State) (n hk key : Nat) (h : PageHdr) : SameMem s (s.freePage n hk key h) := by
  unfold State.freePage
  grind [sameMem_modSlice]

theorem sameMem_postJob (s : State) (j : Job) (code : List Byte) {t : State} {v : Word} (h : s.postJob j code = (t, v)) : SameMem s t := by
  unfold State.postJob at h
  grind [sameMem_modMod, sameMem_modVale, sameMem_completeJob]

/-! ### Whole cycles -/

/-! ### How instructions and events end -/

/-- An outcome that goes on, in a state whose memories are canonical. -/
def GoesOn (o : Outcome) : Prop := ∃ t, o = .next t ∧ Canonical t

theorem goesOn_next {t : State} (h : Canonical t) : GoesOn (.next t) := ⟨t, rfl, h⟩

theorem quiet_bind {α β : Type} {m : M α} {f : α → M β} (hm : Quiet m) (hf : ∀ a, Quiet (f a)) : Quiet (m >>= f) :=
  within_bind sameMem_chain hm hf
theorem keeping_bind {α β : Type} {m : M α} {f : α → M β} (hm : Keeping m) (hf : ∀ a, Keeping (f a)) : Keeping (m >>= f) :=
  within_bind keeps_chain hm hf
theorem keeping_after {α β : Type} {m : M α} {f : α → M β} (hm : Quiet m) (hf : ∀ a, Keeping (f a)) : Keeping (m >>= f) :=
  keeping_bind (keeping_of_quiet hm) hf

theorem at_keeps {α : Type} {m : M α} {s : State} (hm : Canonical s → At Keeps m s) : At Keeps m s := by
  unfold At at hm ⊢
  cases e : m s with
  | ok a t => exact fun c => (e ▸ hm c) c
  | error x t => exact fun c => (e ▸ hm c) c
theorem keeping_set {t : State} (h : Canonical t) : Keeping (set t : M PUnit) := fun _ _ => h
theorem quiet_deferred {d : BitVec 5} {v : Word} {lat : Nat} : Quiet (do let _ ← deferS d v lat; pure ()) :=
  quiet_bind (quiet_deferS _ _ _) fun _ => within_pure sameMem_chain _

theorem at_keeps_of_sameMem {α : Type} {m : M α} {s : State} (h : At SameMem m s) : At Keeps m s := by
  unfold At at h ⊢
  revert h
  cases m s with
  | ok a t => exact keeps_of_sameMem
  | error e t => exact keeps_of_sameMem

section
variable {sc : BitVec 3} {s : State}

theorem goesOn_instrJ {m : M Flow} (h : Canonical s) (hm : At Keeps m s) : GoesOn (instrJ sc m s) :=
  goesOn_next (canonical_settle _ _ _ _ h hm)
theorem goesOn_instr16J {m : M Flow} (h : Canonical s) (hm : At Keeps m s) : GoesOn (instr16J m s) :=
  goesOn_next (canonical_settle _ _ _ _ h hm)
theorem goesOn_instr {m : M Unit} (h : Canonical s) (hm : At Keeps m s) : GoesOn (instr sc m s) :=
  goesOn_instrJ h (at_bind keeps_chain hm fun _ => within_pure keeps_chain _)
theorem goesOn_instr16 {m : M Unit} (h : Canonical s) (hm : At Keeps m s) : GoesOn (instr16 m s) :=
  goesOn_next (canonical_settle _ _ _ _ h (at_bind keeps_chain hm fun _ => within_pure keeps_chain _))

/-- An instruction whose work is quiet. -/
theorem goesOn_quiet {m : M Unit} (h : Canonical s) (hm : Quiet m) : GoesOn (instr sc m s) := goesOn_instr h (keeping_of_quiet hm s)

theorem goesOn_happen {o : Option State} (h : Canonical s) (ho : ∀ t, o = some t → Canonical t) : GoesOn (happen s o) := by
  cases o with
  | none => exact goesOn_next h
  | some t => exact goesOn_next (ho t rfl)

end

/-! ### Control registers and bit streams: what issues or happens -/

theorem goesOn_execMtc (a : BitVec 5) (n : BitVec 12) (sc : BitVec 3) (s : State) (h : Canonical s) : GoesOn (execMtc a n sc s) := by
  refine goesOn_instrJ h (keeping_of_quiet ?_ _)
  grind [within_bind, sameMem_chain, quiet_readS, quiet_writeCr]

theorem goesOn_execMxc (d a : BitVec 5) (n : BitVec 12) (sc : BitVec 3) (s : State) (h : Canonical s) : GoesOn (execMxc d a n sc s) := by
  refine goesOn_instrJ h (keeping_of_quiet ?_ _)
  grind [within_bind, sameMem_chain, quiet_readS, quiet_writeCr, quiet_writeSL]

theorem goesOn_execBra (o : BitVec 22) (sc : BitVec 3) (s : State) (h : Canonical s) : GoesOn (execBra o sc s) := by
  refine goesOn_instrJ h (keeping_of_quiet ?_ _)
  grind [within_bind, within_pure, sameMem_chain, quiet_checkTarget]

theorem goesOn_execCall (o : BitVec 22) (sc : BitVec 3) (s : State) (h : Canonical s) : GoesOn (execCall o sc s) := by
  refine goesOn_instrJ h (keeping_of_quiet ?_ _)
  grind [within_bind, within_pure, sameMem_chain, quiet_checkTarget, quiet_writeS]

theorem goesOn_branchIf (k : CondCode) (a b : BitVec 5) (o : BitVec 9) (sc : BitVec 3) (s : State) (h : Canonical s) :
    GoesOn (branchIf k a b o sc s) := by
  refine goesOn_instrJ h (keeping_of_quiet ?_ _)
  grind [within_bind, within_pure, sameMem_chain, quiet_checkTarget, quiet_readS]

theorem goesOn_execLoop (a : BitVec 5) (l : BitVec 2) (e : BitVec 12) (sc : BitVec 3) (s : State) (h : Canonical s) :
    GoesOn (execLoop a l e sc s) := by
  refine goesOn_instrJ h (keeping_of_quiet ?_ _)
  grind [within_bind, within_pure, sameMem_chain, quiet_modMe, quiet_checkTarget, quiet_readS]

theorem goesOn_execRet (a : BitVec 5) (sc : BitVec 3) (s : State) (h : Canonical s) : GoesOn (execRet a sc s) := by
  refine goesOn_instrJ h (at_of_within ?_)
  grind [keeps_chain, keeping_of_quiet, keeping_retTo]

theorem goesOn_execRet16 (a : BitVec 5) (s : State) (h : Canonical s) : GoesOn (execRet16 a s) := by
  refine goesOn_instr16J h (at_of_within ?_)
  grind [keeps_chain, keeping_of_quiet, keeping_retTo]

theorem goesOn_execCallr (d a : BitVec 5) (sc : BitVec 3) (s : State) (h : Canonical s) : GoesOn (execCallr d a sc s) := by
  refine goesOn_instrJ h (keeping_of_quiet ?_ _)
  grind [within_bind, sameMem_chain, quiet_readS, quiet_regTarget, quiet_writeS]

theorem goesOn_execJt (a b : BitVec 5) (sc : BitVec 3) (s : State) (h : Canonical s) : GoesOn (execJt a b sc s) := by
  refine goesOn_instrJ h (keeping_of_quiet ?_ _)
  grind [within_bind, within_pure, within_raise, sameMem_chain, quiet_readS, quiet_regTarget, quiet_tableLoad]

theorem goesOn_execIsync (sc : BitVec 3) (s : State) (h : Canonical s) : GoesOn (execIsync sc s) := by
  refine goesOn_quiet h ?_
  grind [within_bind, sameMem_chain, quiet_modHere, quiet_releasePoint]

theorem goesOn_execHalt (sc : BitVec 3) (s : State) (h : Canonical s) : GoesOn (execHalt sc s) := by
  refine goesOn_instrJ h (at_of_within ?_)
  grind [keeps_chain, keeping_of_quiet, keeping_endHere]

theorem goesOn_execHalt16 (s : State) (h : Canonical s) : GoesOn (execHalt16 s) := by
  refine goesOn_instr16J h (at_of_within ?_)
  grind [keeps_chain, keeping_of_quiet, keeping_endHere]

theorem goesOn_execRft (sc : BitVec 3) (s : State) (h : Canonical s) : GoesOn (execRft sc s) := by
  refine goesOn_instrJ h (keeping_of_quiet ?_ _)
  grind [within_raise, sameMem_chain, quiet_leaveTrap]

theorem goesOn_execEret (a : BitVec 5) (sc : BitVec 3) (s : State) (h : Canonical s) : GoesOn (execEret a sc s) := by
  refine goesOn_instrJ h (at_of_within ?_)
  grind [within_bind, within_raise, keeps_chain, keeping_of_quiet, quiet_modMe, quiet_checkTarget, keeping_endHere, quiet_leaveTrap, quiet_readS]

theorem goesOn_execAlign (k : BitVec 8) (sc : BitVec 3) (s : State) (h : Canonical s) : GoesOn (execAlign k sc s) := by
  refine goesOn_instrJ h (keeping_of_quiet ?_ _)
  grind [within_bind, within_pure, sameMem_chain, quiet_modMe]

theorem goesOn_execAlignTimeout (core level : Nat) (s : State) (h : Canonical s) : GoesOn (execAlignTimeout core level s) := by
  refine goesOn_happen h fun t e => ?_
  grind [sameMem_finishWait]

theorem goesOn_execPrio (c : BitVec 2) (sc : BitVec 3) (s : State) (h : Canonical s) : GoesOn (execPrio c sc s) := by
  refine goesOn_quiet h ?_
  grind [sameMem_chain, quiet_modMe]

theorem goesOn_execTrap (k : BitVec 8) (sc : BitVec 3) (s : State) (h : Canonical s) : GoesOn (execTrap k sc s) := by
  refine goesOn_quiet h ?_
  grind [within_raise, sameMem_chain]

theorem goesOn_execBbinit (a b : BitVec 5) (sc : BitVec 3) (s : State) (h : Canonical s) : GoesOn (execBbinit a b sc s) := by
  refine goesOn_quiet h ?_
  grind [within_bind, sameMem_chain, quiet_modMe, quiet_readS]

theorem goesOn_execBbpeek (d a : BitVec 5) (sc : BitVec 3) (s : State) (h : Canonical s) : GoesOn (execBbpeek d a sc s) :=
  goesOn_instr h (at_keeps_of_sameMem (at_of_still (still_peek false d a s)))

theorem goesOn_execBbtake (d a : BitVec 5) (sc : BitVec 3) (s : State) (h : Canonical s) : GoesOn (execBbtake d a sc s) :=
  goesOn_instr h (at_keeps_of_sameMem (at_of_still (still_peek true d a s)))

theorem goesOn_execBbskip (a : BitVec 5) (sc : BitVec 3) (s : State) (h : Canonical s) : GoesOn (execBbskip a sc s) := by
  refine goesOn_instr h (at_keeps_of_sameMem (at_of_still ?_))
  grind [within_bind, within_get, stillMem_chain, still_of_quiet, still_refill, quiet_modMe, quiet_readS]

theorem goesOn_execBbfill (sc : BitVec 3) (s : State) (h : Canonical s) : GoesOn (execBbfill sc s) :=
  goesOn_instr h (at_keeps_of_sameMem (at_of_still (still_refill s 17)))

/-! ### Synchronisation: what issues or happens -/

theorem goesOn_execSalloc (d : BitVec 5) (sc : BitVec 3) (s : State) (h : Canonical s) : GoesOn (execSalloc d sc s) := by
  refine goesOn_quiet h ?_
  grind [within_bind, within_pure, sameMem_chain, quiet_modHome, quiet_deferS]

theorem goesOn_execSfree (a : BitVec 5) (sc : BitVec 3) (s : State) (h : Canonical s) : GoesOn (execSfree a sc s) := by
  refine goesOn_quiet h ?_
  grind [within_bind, within_pure, within_raise, sameMem_chain, quiet_modHome, quiet_handle, quiet_readS]

theorem goesOn_execBar (d a b : BitVec 5) (sc : BitVec 3) (s : State) (h : Canonical s) : GoesOn (execBar d a b sc s) := by
  have hd : Quiet (do let _ ← deferS d 0 0; pure ()) := quiet_bind (quiet_deferS d 0 0) fun _ => within_pure sameMem_chain _
  have hg {m : M Unit} (hm : Keeping m) : Keeping (do if ← guardPoint then pure () else m) :=
    keeping_after quiet_guardPoint fun _ => within_ite (fun _ => within_pure keeps_chain _) fun _ => hm
  refine goesOn_instr h (at_of_within ?_)
  refine keeping_after (quiet_claimDest d) fun _ => within_ite (fun _ => within_ite (fun _ => ?_) fun _ => hg ?_) fun _ => ?_
  · exact within_raise keeps_chain _ _
  · grind [keeping_bind, keeping_after, quiet_arriveGang, keeping_endMyMarks, quiet_releasePoint, keeping_of_quiet, quiet_waitGang]
  · refine keeping_after (quiet_readS a) fun A => within_ite (fun _ => within_raise keeps_chain _ _) fun _ => hg ?_
    grind [keeping_bind, keeping_after, keeping_arriveAt, keeping_endMyMarks, quiet_expected, quiet_handle, quiet_releasePoint,
      keeping_of_quiet, quiet_waitBar]

theorem goesOn_execBarrive (a b : BitVec 5) (sc : BitVec 3) (s : State) (h : Canonical s) : GoesOn (execBarrive a b sc s) := by
  refine goesOn_instr h (at_of_within ?_)
  grind [within_bind, within_pure, keeps_chain, keeping_of_quiet, keeping_arriveAt, quiet_arriveGang, quiet_expected, quiet_handle, quiet_readS,
    quiet_releasePoint]

theorem goesOn_execBcancel (a : BitVec 5) (sc : BitVec 3) (s : State) (h : Canonical s) : GoesOn (execBcancel a sc s) := by
  refine goesOn_instr h (at_of_within ?_)
  grind [within_bind, within_pure, within_modify, within_raise, keeps_chain, keeping_of_quiet, Keeps, canonical_endBar, sameMem_endGangBar,
    quiet_handle, quiet_readS]

theorem goesOn_execLock (a : BitVec 5) (sc : BitVec 3) (s : State) (h : Canonical s) : GoesOn (execLock a sc s) := by
  refine goesOn_instr h (at_of_within ?_)
  grind [within_bind, within_throw, within_modify, within_raise, keeps_chain, keeping_of_quiet, quiet_modHome, Keeps, canonical_setObj, quiet_handle,
    quiet_readS]

theorem goesOn_execUnlock (a : BitVec 5) (sc : BitVec 3) (s : State) (h : Canonical s) : GoesOn (execUnlock a sc s) := by
  refine goesOn_instr h (at_of_within ?_)
  refine keeping_after (quiet_readS a) fun A => keeping_after (quiet_handle A) fun o => ?_
  refine within_ite (fun _ => within_raise keeps_chain _ _) fun _ => keeping_after quiet_releasePoint fun _ => ?_
  split
  · exact within_modify fun t => canonical_setObj t _ _ _
  · refine keeping_after (quiet_modHome _) fun _ => within_modify fun t ht => ?_
    grind [canonical_setObj, sameMem_finishWait]

theorem goesOn_execWaitv (a b : BitVec 5) (sc : BitVec 3) (s : State) (h : Canonical s) : GoesOn (execWaitv a b sc s) := by
  refine goesOn_quiet h (quiet_bind (quiet_readS a) fun A => quiet_bind (quiet_readS b) fun v => ?_)
  refine within_ite (fun _ => within_raise sameMem_chain _ _) fun _ => within_ite (fun _ => within_raise sameMem_chain _ _) fun _ => ?_
  refine within_ite (fun _ => within_raise sameMem_chain _ _) fun _ => ?_
  split
  · exact within_throw sameMem_chain _
  · refine quiet_bind (quiet_afterOwnAmo _ _) fun _ => quiet_bind (quiet_scalarLoad _ _) fun x => within_ite (fun _ => ?_) fun _ => ?_
    · exact quiet_bind (within_modify fun t => sameMem_watchWord t _ _ _) fun _ => within_throw sameMem_chain _
    · exact within_pure sameMem_chain _

theorem goesOn_execWaitvWake (core level : Nat) (s : State) (h : Canonical s) : GoesOn (execWaitvWake core level s) := by
  refine goesOn_happen h fun t e => ?_
  grind [sameMem_finishWait, sameMem_wakeTrap, sameMem_watchLoad, sameMem_watchWord]

theorem goesOn_execPhopen (a : BitVec 5) (sc : BitVec 3) (s : State) (h : Canonical s) : GoesOn (execPhopen a sc s) := by
  refine goesOn_quiet h ?_
  grind [within_bind, within_pure, within_throw, within_modify, sameMem_chain, quiet_modHere, sameMem_modGang, quiet_readS]

theorem goesOn_execPhset (a : BitVec 5) (sc : BitVec 3) (s : State) (h : Canonical s) : GoesOn (execPhset a sc s) := by
  refine goesOn_quiet h ?_
  grind [within_bind, sameMem_chain, quiet_modMe, quiet_readS]

theorem goesOn_execPhend (a : BitVec 5) (sc : BitVec 3) (s : State) (h : Canonical s) : GoesOn (execPhend a sc s) := by
  refine goesOn_instr h (at_of_within ?_)
  refine keeping_after (quiet_readS a) fun x => keeping_after quiet_releasePoint fun _ => keeping_bind keeping_endMyMarks fun _ => ?_
  refine within_ite (fun _ => within_pure keeps_chain _) fun _ => keeping_after (quiet_modHere _) fun _ => within_look fun t => ?_
  split
  · next gi g _ _ =>
    split
    · exact at_set (keeps_of_sameMem (sameMem_modGang t gi _))
    · exact keeps_chain.refl t
  · exact keeps_chain.refl t

theorem goesOn_execPhwait (a : BitVec 5) (sc : BitVec 3) (s : State) (h : Canonical s) : GoesOn (execPhwait a sc s) := by
  refine goesOn_quiet h ?_
  grind [within_bind, within_pure, within_throw, within_raise, sameMem_chain, quiet_guardPoint, quiet_readS]

theorem quiet_makeVersion (k a n : Nat) (v : Word) : Quiet (modify fun t => t.makeVersion k a n v) :=
  within_modify fun t => sameMem_makeVersion t k a n v

theorem goesOn_execStv (d a b : BitVec 5) (sc : BitVec 3) (s : State) (h : Canonical s) : GoesOn (execStv d a b sc s) := by
  refine goesOn_instr h (at_of_within ?_)
  refine keeping_after (quiet_readS a) fun A => keeping_after (quiet_readS b) fun v => keeping_after (quiet_readS d) fun w => ?_
  refine keeping_after (quiet_versionAddr A _) fun addr => within_ite (fun _ => within_raise keeps_chain _ _) fun _ => ?_
  refine within_ite (fun _ => within_throw keeps_chain _) fun _ => keeping_after quiet_releasePoint fun _ => ?_
  have hs := keeping_scalarStore addr 8 v.toNat
  generalize scalarStore addr 8 v.toNat = store at hs ⊢
  exact keeping_after (quiet_makeVersion _ _ _ _) fun _ => hs

theorem goesOn_execLdv (d a b : BitVec 5) (sc : BitVec 3) (s : State) (h : Canonical s) : GoesOn (execLdv d a b sc s) := by
  refine goesOn_quiet h ?_
  refine quiet_bind (quiet_claimDest d) fun _ => quiet_bind (quiet_readS a) fun A => quiet_bind (quiet_readS b) fun v => ?_
  refine quiet_bind (quiet_versionAddr A _) fun addr => ?_
  extract_lets wait
  have hw : Quiet wait := within_ite (fun _ => within_raise sameMem_chain _ _) fun _ => within_throw sameMem_chain _
  split
  · split
    · exact quiet_bind (quiet_deferS _ _ _) fun _ => within_pure sameMem_chain _
    · exact within_ite (fun _ => within_raise sameMem_chain _ _) fun _ => hw
  · exact hw

theorem goesOn_execRecl (a b : BitVec 5) (sc : BitVec 3) (s : State) (h : Canonical s) : GoesOn (execRecl a b sc s) := by
  refine goesOn_quiet h ?_
  grind [within_bind, within_modify, sameMem_chain, sameMem_modCore, quiet_readS, quiet_versionAddr]

theorem goesOn_execFenceLd (_c sc : BitVec 3) (s : State) (h : Canonical s) : GoesOn (execFenceLd _c sc s) := by
  refine goesOn_quiet h ?_
  grind [within_pure, within_throw, sameMem_chain]

theorem goesOn_execFenceSt (_c sc : BitVec 3) (s : State) (h : Canonical s) : GoesOn (execFenceSt _c sc s) := by
  refine goesOn_quiet h ?_
  grind [within_pure, within_throw, sameMem_chain]

theorem goesOn_execFenceAll (_c sc : BitVec 3) (s : State) (h : Canonical s) : GoesOn (execFenceAll _c sc s) := by
  refine goesOn_quiet h ?_
  grind [within_pure, within_throw, sameMem_chain]

/-! ### Messages: what issues or happens -/

theorem goesOn_execSend (r : BitVec 1) (a b : BitVec 5) (c : BitVec 8) (n sc : BitVec 3) (s : State) (h : Canonical s) :
    GoesOn (execSend r a b c n sc s) := by
  refine goesOn_quiet h ?_
  grind [within_bind, within_raise, sameMem_chain, quiet_injectMine, quiet_readPayload, quiet_readS, quiet_receiverOf, quiet_releasePoint,
    quiet_waitInject]

theorem goesOn_execDeposit (a b : BitVec 5) (sc : BitVec 3) (s : State) (h : Canonical s) : GoesOn (execDeposit a b sc s) := by
  refine goesOn_quiet h (quiet_bind (quiet_readS a) fun dw => quiet_bind (quiet_readS b) fun D => ?_)
  refine within_ite (fun _ => within_raise sameMem_chain _ _) fun _ => within_ite (fun _ => within_raise sameMem_chain _ _) fun _ => ?_
  refine quiet_bind (quiet_depositRead _ _ _) fun head => within_ite (fun _ => within_raise sameMem_chain _ _) fun _ => ?_
  refine within_ite (fun _ => within_raise sameMem_chain _ _) fun _ => quiet_bind (quiet_receiverOf dw) fun r => ?_
  grind [quiet_bind, within_pure, sameMem_chain, quiet_depositBad, quiet_depositRead, quiet_injectMine, quiet_releasePoint, quiet_waitInject]

theorem goesOn_execDset (r : BitVec 1) (a b : BitVec 5) (l : BitVec 2) (sc : BitVec 3) (s : State) (h : Canonical s) :
    GoesOn (execDset r a b l sc s) := by
  refine goesOn_quiet h ?_
  grind [within_bind, within_raise, sameMem_chain, quiet_modHere, quiet_readS]

theorem goesOn_execDget (d a : BitVec 5) (sc : BitVec 3) (s : State) (h : Canonical s) : GoesOn (execDget d a sc s) := by
  refine goesOn_quiet h ?_
  grind [within_bind, sameMem_chain, quiet_readS, quiet_writeSL]

theorem goesOn_execMbxcfg (a : BitVec 5) (sc : BitVec 3) (s : State) (h : Canonical s) : GoesOn (execMbxcfg a sc s) := by
  refine goesOn_quiet h ?_
  grind [within_bind, sameMem_chain, quiet_modHere, quiet_readS]

theorem goesOn_execAmoRequest (core : Nat) (s : State) (h : Canonical s) : GoesOn (execAmoRequest core s) := by
  refine goesOn_happen h fun t e => ?_
  grind [sameMem_modCore, canonical_performAmo, sameMem_sendLoad]

/-! ### Cluster memory: what issues or happens -/

theorem goesOn_execSt (d a : BitVec 5) (z : BitVec 2) (o : BitVec 10) (sc : BitVec 3) (s : State) (h : Canonical s) :
    GoesOn (execSt d a z o sc s) := by
  refine goesOn_instr h (at_of_within ?_)
  grind [keeps_chain, keeping_of_quiet, keeping_storeFrom]

theorem goesOn_execLdAcq (d a : BitVec 5) (c : BitVec 3) (z : BitVec 2) (o : BitVec 6) (sc : BitVec 3) (s : State) (h : Canonical s) :
    GoesOn (execLdAcq d a c z o sc s) := goesOn_quiet h (quiet_loadTo _ _ _ _ _ _)

theorem goesOn_execStRel (d a : BitVec 5) (_c : BitVec 3) (z : BitVec 2) (o : BitVec 6) (sc : BitVec 3) (s : State) (h : Canonical s) :
    GoesOn (execStRel d a _c z o sc s) := by
  refine goesOn_instr h (at_of_within ?_)
  grind [within_bind, keeps_chain, keeping_of_quiet, quiet_releasePoint, keeping_storeFrom]

theorem goesOn_execVld (d a : BitVec 5) (o : BitVec 10) (sc : BitVec 3) (s : State) (h : Canonical s) : GoesOn (execVld d a o sc s) := by
  refine goesOn_quiet h (quiet_bind (quiet_readS a) fun x => quiet_bind (quiet_checkLocal _ _ _ _) fun addr => ?_)
  extract_lets k g t rest
  have hr : Quiet (rest ()) := by
    refine quiet_bind (quiet_oldV d) fun old => ?_
    refine quiet_bind (within_modify fun u => sameMem_chain.trans (sameMem_countRead u k addr _) (sameMem_scrub _ k addr _)) fun _ => ?_
    refine quiet_bind (quiet_blur _ _) fun got => within_ite (fun _ => quiet_writeVL _ _ _) fun _ => ?_
    exact quiet_bind (quiet_deferV _ _ _) fun _ => within_pure sameMem_chain _
  cases g with
  | some b => exact quiet_bind (quiet_noteGuard _ _) fun _ => hr
  | none => exact hr

theorem goesOn_execVst (d a : BitVec 5) (o : BitVec 10) (sc : BitVec 3) (s : State) (h : Canonical s) : GoesOn (execVst d a o sc s) := by
  refine goesOn_instr h (at_of_within ?_)
  refine keeping_after (quiet_readS a) fun x => keeping_after (quiet_checkLocal _ _ _ _) fun addr => keeping_after (quiet_readV d) fun v => ?_
  refine keeping_after (quiet_notPoison _) fun _ => ?_
  extract_lets k rest
  have hs : Keeping (rest ()) := within_modify fun t => canonical_storeGranules t _ _ _ _ _
  split
  · exact keeping_after (quiet_noteGuard _ _) fun _ => hs
  · exact hs

theorem goesOn_execTmld (d : BitVec 4) (a : BitVec 5) (sc : BitVec 3) (s : State) (h : Canonical s) : GoesOn (execTmld d a sc s) := by
  refine goesOn_quiet h ?_
  grind [within_bind, within_raise, sameMem_chain, quiet_modMe, quiet_checkLocal, quiet_readS, quiet_scalarLoad]

theorem goesOn_execTmst (d : BitVec 4) (a : BitVec 5) (sc : BitVec 3) (s : State) (h : Canonical s) : GoesOn (execTmst d a sc s) := by
  refine goesOn_instr h (at_of_within ?_)
  grind [within_bind, keeps_chain, keeping_of_quiet, quiet_checkLocal, quiet_readM, quiet_readS, keeping_scalarStore]

/-! ### Tree memory: accesses: what issues or happens -/

theorem goesOn_execLdtMap (d a b : BitVec 5) (k : BitVec 4) (sc : BitVec 3) (s : State) (h : Canonical s) :
    GoesOn (execLdtMap d a b k sc s) := by
  refine goesOn_quiet h (quiet_bind (quiet_readS a) fun i => quiet_bind (quiet_readS b) fun j => quiet_bind (quiet_readM _) fun m => ?_)
  refine quiet_bind (quiet_notHeaded _) fun _ => quiet_bind (quiet_mapFormat _) fun r => quiet_bind (quiet_reachMap _ _ _ _ _) fun got => ?_
  have hd (c : Nat) : Quiet (do let _ ← deferS d (w64 c) 0; pure ()) := quiet_bind (quiet_deferS _ _ _) fun _ => within_pure sameMem_chain _
  cases got with
  | nil => exact hd _
  | cons q l => exact quiet_bind (quiet_readOne _) fun c => hd c

theorem goesOn_execLdtTa (d a : BitVec 5) (sc : BitVec 3) (s : State) (h : Canonical s) : GoesOn (execLdtTa d a sc s) := by
  refine goesOn_quiet h ?_
  grind [within_bind, within_pure, within_raise, sameMem_chain, quiet_deferS, quiet_rawRoot, quiet_reachRaw, quiet_readOne, quiet_readS]

theorem keeping_putAll (l : List (Loc × Nat)) : Keeping (modify fun t => t.putAll l) := within_modify fun t => canonical_putAll t l

theorem goesOn_execSttMap (d a b : BitVec 5) (k : BitVec 4) (sc : BitVec 3) (s : State) (h : Canonical s) :
    GoesOn (execSttMap d a b k sc s) := by
  refine goesOn_instr h (at_of_within ?_)
  refine keeping_after (quiet_readS a) fun i => keeping_after (quiet_readS b) fun j => keeping_after (quiet_readS d) fun x => ?_
  refine keeping_after (quiet_readM _) fun m => keeping_after (quiet_notHeaded _) fun _ => keeping_after (quiet_mapFormat _) fun r => ?_
  exact keeping_after (quiet_reachMap _ _ _ _ _) fun got => keeping_putAll _

theorem goesOn_execSttTa (d a : BitVec 5) (sc : BitVec 3) (s : State) (h : Canonical s) : GoesOn (execSttTa d a sc s) := by
  refine goesOn_instr h (at_of_within ?_)
  grind [within_bind, within_modify, within_raise, keeps_chain, keeping_of_quiet, Keeps, canonical_putAll, quiet_rawRoot, quiet_reachRaw, quiet_readS]

theorem goesOn_execVldtRaw (d a b : BitVec 5) (k : BitVec 4) (sc : BitVec 3) (s : State) (h : Canonical s) : GoesOn (execVldtRaw d a b k sc s) := by
  refine goesOn_quiet h ?_
  grind [within_bind, within_raise, sameMem_chain, quiet_loadStored, quiet_readM, quiet_readS]

theorem goesOn_execVldtMap (d a b : BitVec 5) (k : BitVec 4) (sc : BitVec 3) (s : State) (h : Canonical s) : GoesOn (execVldtMap d a b k sc s) := by
  refine goesOn_quiet h ?_
  grind [within_bind, sameMem_chain, quiet_finishLoad, quiet_loadHeaded, quiet_loadStored, quiet_mapFormat, quiet_raiseFormat, quiet_reachMap,
    quiet_readM, quiet_readS]

theorem goesOn_execVldtTa (d a : BitVec 5) (sc : BitVec 3) (s : State) (h : Canonical s) : GoesOn (execVldtTa d a sc s) := by
  refine goesOn_quiet h ?_
  grind [within_bind, sameMem_chain, quiet_finishLoad, quiet_rawRoot, quiet_reachRaw, quiet_readS]

theorem goesOn_execVsttMap (d a b : BitVec 5) (k : BitVec 4) (sc : BitVec 3) (s : State) (h : Canonical s) :
    GoesOn (execVsttMap d a b k sc s) := by
  refine goesOn_instr h (at_of_within ?_)
  refine keeping_after (quiet_readS a) fun i => keeping_after (quiet_readS b) fun j => keeping_after (quiet_readV d) fun x => ?_
  refine keeping_after (quiet_readM _) fun m => keeping_after (quiet_notPoison _) fun _ => ?_
  refine within_ite (fun _ => keeping_of_quiet (quiet_storeHeaded _ _ _ _)) fun _ => keeping_after (quiet_mapFormat _) fun r => ?_
  refine within_ite (fun _ => keeping_of_quiet (quiet_raiseFormat _ _)) fun _ => ?_
  exact keeping_after (quiet_reachMap _ _ _ _ _) fun got => keeping_putAll _

theorem goesOn_execVsttTa (d a : BitVec 5) (sc : BitVec 3) (s : State) (h : Canonical s) : GoesOn (execVsttTa d a sc s) := by
  refine goesOn_instr h (at_of_within ?_)
  grind [within_bind, within_modify, keeps_chain, keeping_of_quiet, Keeps, canonical_putAll, quiet_notPoison, quiet_raiseFormat, quiet_rawRoot,
    quiet_reachRaw, quiet_readS, quiet_readV]

theorem goesOn_execVgath (p : BitVec 3) (d a : BitVec 5) (b : BitVec 4) (sc : BitVec 3) (s : State) (h : Canonical s) :
    GoesOn (execVgath p d a b sc s) := by
  refine goesOn_quiet h ?_
  grind [within_bind, sameMem_chain, quiet_finishLoad, quiet_gatherCheck, quiet_reachMap, quiet_readM, quiet_readP, quiet_readV]

theorem goesOn_execVscat (p : BitVec 3) (d a : BitVec 5) (b : BitVec 4) (sc : BitVec 3) (s : State) (h : Canonical s) :
    GoesOn (execVscat p d a b sc s) := by
  refine goesOn_instr h (at_of_within ?_)
  refine keeping_after (quiet_readP _) fun pr => keeping_after (quiet_readV a) fun idx => keeping_after (quiet_readV d) fun x => ?_
  refine keeping_after (quiet_notPoison _) fun _ => keeping_after (quiet_notPoison _) fun _ => keeping_after (quiet_readM _) fun m => ?_
  refine keeping_after (quiet_gatherCheck _ _) fun r => within_ite (fun _ => keeping_of_quiet (quiet_raiseFormat _ _)) fun _ => ?_
  exact keeping_after (quiet_reachMap _ _ _ _ _) fun got => keeping_putAll _

/-! ### Engines: what issues or happens -/

/-- The state in which a unit or a page of an operation ends has canonical memories. -/
def CanonicalEnd : UnitEnd → Prop
  | .done t _ => Canonical t
  | .stop t _ _ _ => Canonical t
  | .wait => True

theorem canonicalEnd_movePage (s : State) (asid : Nat) (lift : Bool) (t : Word) (h : Canonical s) : CanonicalEnd (s.movePage asid lift t) := by
  unfold State.movePage
  dsimp only
  split
  · trivial
  · split
    · split
      · exact h
      · exact h
    · next d e _ =>
      have hb : CanonicalEnd (s.stopPage asid d e t) := keeps_of_sameMem (sameMem_countMac s _) h
      have hm (tier lifted a : Nat) (sub : Nat) :=
        keeps_of_sameMem (sameMem_flipPage _ asid (taOf (taRoot t) 18 (cutPath (taPath t) 18)) e tier lifted (entryBase e.w1 * 2048) a)
          (canonical_copyPage s e.w0 (entryBase e.w1 * 2048) a sub h)
      split
      · exact h
      · split
        · exact h
        · split
          · exact h
          · grind [CanonicalEnd]

theorem canonicalEnd_runPage (s : State) (asid : Nat) (o : EngineOp) (h : Canonical s) : CanonicalEnd (s.runPage asid o) := by
  unfold State.runPage
  dsimp only
  split
  · exact h
  · split
    · trivial
    · next u hu => exact canonicalEnd_movePage _ _ _ _ (keeps_of_sameMem (sameMem_lookUpPage _ _ _ _ hu) h)

theorem canonical_unitLookUps (s : State) (o : EngineOp) (asid : Nat) (l : List Word) {t : State} (h : Canonical s)
    (e : (if o.part = 0 then s.lookUps (sliceOfCore o.core) asid l else some s) = some t) : Canonical t := by
  split at e
  · exact keeps_of_sameMem (sameMem_lookUps _ _ _ _ e) h
  · exact Option.some.inj e ▸ h

theorem canonicalEnd_runUnit (s : State) (asid : Nat) (o : EngineOp) (n : Nat) (h : Canonical s) : CanonicalEnd (s.runUnit asid o n) := by
  fun_cases State.runUnit s asid o n with
  | case1 | case3 | case4 => exact h
  | case2 | case5 | case7 => trivial
  | case6 => exact keeps_of_sameMem (sameMem_countMac s _) h
  | case8 => exact canonical_putAll _ _ (canonical_unitLookUps s o asid _ h ‹_›)
  | case9 => exact canonical_putAll _ _ (canonical_unitLookUps s o asid _ h ‹_›)

theorem goesOn_execEngineUnit (u : UnitStep) (s : State) (h : Canonical s) : GoesOn (execEngineUnit u s) := by
  refine goesOn_happen h fun t e => ?_
  have hp (asid : Nat) (o : EngineOp) := canonicalEnd_runPage s asid o h
  have hu (asid : Nat) (o : EngineOp) := canonicalEnd_runUnit s asid o u.elems h
  grind [CanonicalEnd, canonical_completeEngine, sameMem_putEngine, sameMem_stopEngine]

theorem goesOn_execPftNoticeInjection (idx : Nat) (s : State) (h : Canonical s) : GoesOn (execPftNoticeInjection idx s) := by
  refine goesOn_happen h fun t e => ?_
  grind [Option.map_eq_some_iff, Option.bind_eq_some_iff, sameMem_modCore, sameMem_inject, sameMem_modNet]

theorem goesOn_execFship (d a b : BitVec 5) (sc : BitVec 3) (s : State) (h : Canonical s) : GoesOn (execFship d a b sc s) := by
  refine goesOn_quiet h (quiet_bind (quiet_readS a) fun t => quiet_bind (quiet_readS _) fun w => ?_)
  have hp (c : Prop) [Decidable c] (r : BitVec 5) (f : Word → M Unit) (hf : ∀ x, Quiet (f x)) :
      Quiet (if c then pure 0 >>= f else readS r >>= f) :=
    within_ite (fun _ => quiet_bind (within_pure sameMem_chain _) hf) fun _ => quiet_bind (quiet_readS _) hf
  refine hp _ _ _ fun x => hp _ _ _ fun y => quiet_bind (quiet_checkAddr t) fun _ => quiet_bind quiet_myAsid fun asid => ?_
  refine within_ite (fun _ => within_raise sameMem_chain _ _) fun _ => within_ite (fun _ => within_raise sameMem_chain _ _) fun _ => ?_
  refine quiet_bind (quiet_locksRaw _ _) fun _ => quiet_bind (quiet_translateShip _ _) fun q => quiet_bind (quiet_noteWalk _) fun _ => ?_
  refine within_ite (fun _ => within_raise sameMem_chain _ _) fun _ => ?_
  extract_lets msg rest
  have hr : Quiet (rest ()) := by
    refine quiet_bind (quiet_deferS _ _ _) fun id => quiet_bind quiet_freshId fun seq => within_modify fun u => ?_
    exact sameMem_sendLoad _ _ _ _ _ _
  cases msg with
  | some m => exact quiet_bind (quiet_reserveMessage _) fun _ => quiet_bind quiet_countMessage fun _ => hr
  | none => exact hr

/-! ### Key-value pages: what issues or happens -/

theorem goesOn_execKvReadRequest (slice idx : Nat) (s : State) (h : Canonical s) : GoesOn (execKvReadRequest slice idx s) := by
  refine goesOn_happen h fun t e => ?_
  grind [sameMem_dropReq, sameMem_serve]

theorem goesOn_execKvWriteRequest (slice idx : Nat) (s : State) (h : Canonical s) : GoesOn (execKvWriteRequest slice idx s) := by
  refine goesOn_happen h fun t e => ?_
  grind [sameMem_dropReq, sameMem_endConversion, sameMem_grantSlot, sameMem_modSlice, sameMem_setHeader, sameMem_waitSlot, canonical_writeSlot]

theorem goesOn_execRelayoutSlotGrant (slice : Nat) (s : State) (h : Canonical s) : GoesOn (execRelayoutSlotGrant slice s) := by
  refine goesOn_happen h fun t e => ?_
  grind [Option.map_eq_some_iff, sameMem_grantSlot, sameMem_modSlice]

theorem goesOn_execRelayoutDequantise (slice idx : Nat) (s : State) (h : Canonical s) : GoesOn (execRelayoutDequantise slice idx s) := by
  refine goesOn_happen h fun t e => ?_
  grind [sameMem_foldl, canonical_foldl, sameMem_setHeader, canonical_writeSlot]

theorem goesOn_execRelayoutApply (slice idx : Nat) (s : State) (h : Canonical s) : GoesOn (execRelayoutApply slice idx s) := by
  refine goesOn_happen h fun t e => ?_
  grind [sameMem_dropReq, sameMem_setHeader, canonical_writeSlot]

theorem goesOn_execRelayoutFlip (slice idx : Nat) (s : State) (h : Canonical s) : GoesOn (execRelayoutFlip slice idx s) := by
  refine goesOn_happen h fun t e => ?_
  grind [sameMem_modSlice, sameMem_setHeader]

theorem goesOn_execKvTick (slice : Nat) (s : State) (h : Canonical s) : GoesOn (execKvTick slice s) := by
  unfold execKvTick
  grind [goesOn_next, sameMem_agePages, sameMem_modSlice]

theorem goesOn_execSkimmerBegin (slice : Nat) (s : State) (h : Canonical s) : GoesOn (execSkimmerBegin slice s) := by
  refine goesOn_happen h fun t e => ?_
  dsimp only at e
  split at e
  · cases e
  · split at e
    · cases e
    · split at e
      · cases e
      · next h1 =>
        split at e
        · cases e
        · next h2 =>
          rw [← Option.some.inj e]
          refine keeps_of_sameMem ?_ (keeps_of_sameMem (sameMem_chain.trans (sameMem_takeSliceSlot _ _ _ h1) (sameMem_takeSliceSlot _ _ _ h2)) h)
          exact sameMem_chain.trans (sameMem_setHeader _ _ _) (sameMem_modSlice _ _ _)

theorem goesOn_execSkimmerQuantise (slice : Nat) (s : State) (h : Canonical s) : GoesOn (execSkimmerQuantise slice s) := by
  refine goesOn_happen h fun t e => ?_
  grind [sameMem_dropConversion, sameMem_endConversion, sameMem_modSlice, sameMem_setHeader, canonical_writeSlot]

theorem goesOn_execSkimmerFlip (slice : Nat) (s : State) (h : Canonical s) : GoesOn (execSkimmerFlip slice s) := by
  refine goesOn_happen h fun t e => ?_
  grind [sameMem_dropConversion, sameMem_modSlice, sameMem_setHeader]

/-! ### The matrix array: what issues or happens -/

theorem goesOn_execLeaseGrant (quad : Nat) (s : State) (h : Canonical s) : GoesOn (execLeaseGrant quad s) := by
  refine goesOn_happen h fun t e => ?_
  grind [sameMem_grantHead]

theorem goesOn_execLeaseLimit (quad : Nat) (s : State) (h : Canonical s) : GoesOn (execLeaseLimit quad s) := by
  refine goesOn_happen h fun t e => ?_
  grind [sameMem_modQuad]

theorem goesOn_execLeaseHandover (quad : Nat) (s : State) (h : Canonical s) : GoesOn (execLeaseHandover quad s) := by
  refine goesOn_happen h fun t e => ?_
  grind [sameMem_grantHead, sameMem_modQuad]

theorem goesOn_execLeaseRelease (quad : Nat) (s : State) (h : Canonical s) : GoesOn (execLeaseRelease quad s) := by
  refine goesOn_happen h fun t e => ?_
  grind [sameMem_modQuad]

theorem goesOn_execMlease (sc : BitVec 3) (s : State) (h : Canonical s) : GoesOn (execMlease sc s) := by
  refine goesOn_quiet h ?_
  grind [within_bind, within_pure, within_get, within_throw, within_raise, sameMem_chain, quiet_awaitRegrant, quiet_meetLimit, quiet_modArray]

theorem goesOn_execMfree (sc : BitVec 3) (s : State) (h : Canonical s) : GoesOn (execMfree sc s) := by
  refine goesOn_quiet h ?_
  grind [within_bind, within_get, within_raise, sameMem_chain, quiet_awaitRegrant, quiet_modArray]

theorem goesOn_execSuspensionTimeout (quad : Nat) (s : State) (h : Canonical s) : GoesOn (execSuspensionTimeout quad s) := by
  refine goesOn_happen h fun t e => ?_
  grind [sameMem_discardCmds]

theorem goesOn_execMstat (d : BitVec 5) (sc : BitVec 3) (s : State) (h : Canonical s) : GoesOn (execMstat d sc s) := by
  refine goesOn_quiet h ?_
  grind [within_bind, within_pure, within_get, sameMem_chain, quiet_awaitRegrant, quiet_deferS]

theorem goesOn_execMcheck (d a : BitVec 5) (sc : BitVec 3) (s : State) (h : Canonical s) : GoesOn (execMcheck d a sc s) := by
  refine goesOn_quiet h ?_
  grind [within_bind, within_get, within_raise, sameMem_chain, quiet_awaitRegrant, quiet_checkDiscard, quiet_checkResume, quiet_checkWait,
    quiet_claimDest, quiet_readS]

theorem goesOn_execMswap (sc : BitVec 3) (s : State) (h : Canonical s) : GoesOn (execMswap sc s) := by
  refine goesOn_quiet h ?_
  grind [within_bind, within_get, within_throw, sameMem_chain, quiet_awaitRegrant, quiet_mayCommand, quiet_modArray, quiet_releasePoint]

theorem canonical_stepCmd (s : State) (n asid : Nat) (m : MCmd) {t : State} {next : Nat} (h : Canonical s)
    (e : s.stepCmd n asid m = .ok (t, next)) : Canonical t := by
  unfold State.stepCmd at e
  split at e
  · cases e
  · next u hu =>
    have hc := keeps_of_sameMem (sameMem_stepLooks _ _ _ _ _ _ _ hu) h
    split at e
    · grind [State.stepMload, State.modArr, sameMem_modQuad]
    · grind [State.stepMscale, State.modArr, sameMem_modQuad]
    · grind [State.stepMmul, State.modArr, sameMem_modQuad]
    · grind [State.stepMdrain, canonical_putAll]
    · cases e

theorem goesOn_execMatrixStep (quad lane : Nat) (first second : List (Nat × BitVec 32)) (s : State) (h : Canonical s) :
    GoesOn (execMatrixStep quad lane first second s) := by
  refine goesOn_happen h fun t e => ?_
  split at e
  · next i m c l _ _ =>
    split at e
    · cases e
    · grind [canonical_stepCmd, sameMem_startCmd, sameMem_stopCmd, sameMem_endStep, sameMem_countFault, sameMem_modQuad, sameMem_modSlice]
  · cases e

theorem goesOn_execMswapEffect (quad : Nat) (s : State) (h : Canonical s) : GoesOn (execMswapEffect quad s) := by
  refine goesOn_happen h fun t e => ?_
  grind [sameMem_modQuad, sameMem_notifyCheck]

/-! ### System operations: what issues or happens -/

theorem goesOn_execSnap (d a : BitVec 5) (sc : BitVec 3) (s : State) (h : Canonical s) : GoesOn (execSnap d a sc s) := by
  refine goesOn_quiet h (quiet_bind (quiet_claimDest d) fun _ => within_ite (fun _ => ?_) fun _ => within_raise sameMem_chain _ _)
  refine quiet_bind (quiet_readS a) fun _ => within_ite (fun _ => ?_) fun _ => ?_
  · exact quiet_bind (within_modify sameMem_trigger) fun _ => quiet_bind (quiet_deferS _ _ _) fun _ => within_pure sameMem_chain _
  · exact quiet_bind (quiet_deferS _ _ _) fun id => within_modify fun t => sameMem_sendTrigger t _

theorem goesOn_execCfgrd (d a : BitVec 5) (sc : BitVec 3) (s : State) (h : Canonical s) : GoesOn (execCfgrd d a sc s) := by
  refine goesOn_instrJ h (keeping_of_quiet ?_ _)
  grind [within_bind, within_pure, within_raise, sameMem_chain, quiet_claimDest, quiet_deferS, quiet_readS, quiet_systemCall]

theorem goesOn_execCfgwr (d a b : BitVec 5) (sc : BitVec 3) (s : State) (h : Canonical s) : GoesOn (execCfgwr d a b sc s) := by
  refine goesOn_instrJ h (keeping_of_quiet ?_ _)
  grind [within_bind, within_raise, sameMem_chain, quiet_claimDest, quiet_readS, quiet_systemCall]

theorem goesOn_execSystemCallReturn (core level : Nat) (s : State) (h : Canonical s) : GoesOn (execSystemCallReturn core level s) := by
  refine goesOn_happen h fun t e => ?_
  grind [sameMem_finishWait, sameMem_giveS]

theorem goesOn_execSleep (d a : BitVec 5) (sc : BitVec 3) (s : State) (h : Canonical s) : GoesOn (execSleep d a sc s) := by
  refine goesOn_quiet h ?_
  grind [within_bind, within_pure, within_throw, within_raise, sameMem_chain, quiet_modMe, quiet_claimDest, quiet_deferS, quiet_readS]

theorem goesOn_execSleepDeadline (core level : Nat) (s : State) (h : Canonical s) : GoesOn (execSleepDeadline core level s) := by
  refine goesOn_happen h fun t e => ?_
  grind [sameMem_finishWait, sameMem_giveS]

theorem goesOn_execWake (a : BitVec 5) (sc : BitVec 3) (s : State) (h : Canonical s) : GoesOn (execWake a sc s) := by
  refine goesOn_quiet h ?_
  grind [within_bind, within_modify, within_raiseTree, sameMem_chain, sameMem_wakeCtx, quiet_readS, quiet_releasePoint]

theorem goesOn_execSopen (a : BitVec 5) (b : BitVec 2) (sc : BitVec 3) (s : State) (h : Canonical s) : GoesOn (execSopen a b sc s) := by
  refine goesOn_quiet h ?_
  grind [within_bind, within_raise, within_raiseTree, sameMem_chain, quiet_modHere, quiet_readS]

theorem goesOn_execSclose (b : BitVec 2) (sc : BitVec 3) (s : State) (h : Canonical s) : GoesOn (execSclose b sc s) := by
  refine goesOn_quiet h ?_
  grind [within_throw, within_raise, sameMem_chain, quiet_modHere]

theorem goesOn_execRawWordArrival (core dir : Nat) (s : State) (h : Canonical s) : GoesOn (execRawWordArrival core dir s) := by
  refine goesOn_happen h fun t e => ?_
  grind [sameMem_modCore, sameMem_openRoute]

theorem goesOn_execCloseMarkerArrival (core dir : Nat) (s : State) (h : Canonical s) : GoesOn (execCloseMarkerArrival core dir s) := by
  refine goesOn_happen h fun t e => ?_
  grind [sameMem_modCore, sameMem_modNet]

/-! ### The mesh: what issues or happens -/

theorem goesOn_execFlitForward (router dir : Nat) (s : State) (h : Canonical s) : GoesOn (execFlitForward router dir s) := by
  refine goesOn_happen h fun t e => ?_
  grind [sameMem_foldl, sameMem_modNet]

theorem goesOn_execFrameStart (s : State) (h : Canonical s) : GoesOn (execFrameStart s) := by
  refine goesOn_happen h fun t e => ?_
  grind

theorem goesOn_execMessageArrival (idx : Nat) (s : State) (h : Canonical s) : GoesOn (execMessageArrival idx s) := by
  refine goesOn_happen h fun t e => ?_
  grind [sameMem_modCore, sameMem_leave, sameMem_modSlice, sameMem_receive]

theorem goesOn_execAcceptance (idx : Nat) (s : State) (h : Canonical s) : GoesOn (execAcceptance idx s) := by
  refine goesOn_happen h fun t e => ?_
  grind [sameMem_modCore, sameMem_leave]

theorem goesOn_execRefusal (idx : Nat) (s : State) (h : Canonical s) : GoesOn (execRefusal idx s) := by
  refine goesOn_happen h fun t e => ?_
  grind [sameMem_modCore, sameMem_leave]

theorem goesOn_execAmoResult (idx : Nat) (s : State) (h : Canonical s) : GoesOn (execAmoResult idx s) := by
  refine goesOn_happen h fun t e => ?_
  grind [sameMem_leave, sameMem_modCtx]

theorem goesOn_execDepositDataWrite (core idx : Nat) (s : State) (h : Canonical s) : GoesOn (execDepositDataWrite core idx s) := by
  refine goesOn_happen h fun t e => ?_
  grind [sameMem_modCore, sameMem_deposited, canonical_stamp, canonical_writeFlits]

theorem goesOn_execDispatch (core : Nat) (s : State) (h : Canonical s) : GoesOn (execDispatch core s) := by
  refine goesOn_happen h fun t e => ?_
  grind [sameMem_setCore]

theorem goesOn_execRetirement (idx : Nat) (s : State) (h : Canonical s) : GoesOn (execRetirement idx s) := by
  refine goesOn_happen h fun t e => ?_
  grind [sameMem_countDown, sameMem_modNet]

theorem goesOn_execPhaseClose (gang phase : Nat) (s : State) (h : Canonical s) : GoesOn (execPhaseClose gang phase s) := by
  refine goesOn_happen h fun t e => ?_
  grind [sameMem_closePhase]

theorem goesOn_execPhaseCloseDelivery (idx : Nat) (s : State) (h : Canonical s) : GoesOn (execPhaseCloseDelivery idx s) := by
  refine goesOn_happen h fun t e => ?_
  grind [sameMem_modCore, sameMem_modNet, sameMem_wakePhase]

theorem goesOn_execFaultNotice (idx : Nat) (s : State) (h : Canonical s) : GoesOn (execFaultNotice idx s) := by
  refine goesOn_happen h fun t e => ?_
  grind [sameMem_modCore, sameMem_modNet]

theorem goesOn_execResultLands (core level idx : Nat) (s : State) (h : Canonical s) : GoesOn (execResultLands core level idx s) := by
  refine goesOn_happen h fun t e => ?_
  grind [sameMem_landLink, sameMem_modCtx]

theorem goesOn_execInstructionFetch (cluster base : Nat) (s : State) (h : Canonical s) : GoesOn (execInstructionFetch cluster base s) := by
  refine goesOn_happen h fun t e => ?_
  rw [← Option.some.inj e]
  refine canonical_foldl (fun u i hu => ?_) _ s h
  split
  · exact keeps_of_sameMem (sameMem_fill _ _ _) hu
  · exact hu

theorem goesOn_execTranslationWalk (slice : Nat) (s : State) (h : Canonical s) : GoesOn (execTranslationWalk slice s) := by
  refine goesOn_happen h fun t e => ?_
  grind [sameMem_walkDone]

/-! ### Nodes and rewriting: what issues or happens -/

theorem goesOn_execNalloc (d : BitVec 5) (sc : BitVec 3) (s : State) (h : Canonical s) : GoesOn (execNalloc d sc s) := by
  refine goesOn_instr h (at_of_within ?_)
  dsimp only
  split
  · exact keeping_of_quiet quiet_deferred
  · next a t hp =>
    have ht := keeps_of_sameMem (sameMem_popFree _ _ hp) h
    refine keeping_after quiet_releasePoint fun _ => keeping_bind (keeping_set ?_) fun _ => ?_
    · exact canonical_cwrite _ _ _ _ _ (canonical_cwrite _ _ _ _ _ (canonical_cwrite _ _ _ _ _ (canonical_cwrite _ _ _ _ _ ht)))
    · exact keeping_after (quiet_modMe _) fun _ => keeping_of_quiet quiet_deferred

theorem goesOn_execNfree (a b : BitVec 5) (sc : BitVec 3) (s : State) (h : Canonical s) : GoesOn (execNfree a b sc s) := by
  refine goesOn_instrJ h (at_of_within ?_)
  refine keeping_after (quiet_readS a) fun pr => keeping_after (quiet_checkPr pr false) fun _ => within_seen fun t => ?_
  extract_lets n target check
  have ht (k : Nat) : Quiet (target k) := within_ite (fun _ => within_pure sameMem_chain _) fun _ => quiet_readS _
  have hc (w : Word) : Quiet (check w) := within_ite (fun _ => within_pure sameMem_chain _) fun _ => quiet_checkPr _ _
  refine keeping_after (ht 0) fun t0 => keeping_after (ht 1) fun t1 => keeping_after (ht 2) fun t2 => ?_
  refine keeping_after (hc t0) fun _ => keeping_after (hc t1) fun _ => keeping_after (hc t2) fun _ => ?_
  exact keeping_after quiet_releasePoint fun _ => keeping_runNode _ _ _

theorem goesOn_execNld (d a : BitVec 5) (w : BitVec 2) (sc : BitVec 3) (s : State) (h : Canonical s) : GoesOn (execNld d a w sc s) := by
  refine goesOn_instrJ h (at_of_within ?_)
  grind [within_bind, keeps_chain, keeping_of_quiet, quiet_checkPr, quiet_claimDest, quiet_readS, quiet_releasePoint, keeping_runNode]

theorem goesOn_execNst (d a : BitVec 5) (w : BitVec 2) (sc : BitVec 3) (s : State) (h : Canonical s) : GoesOn (execNst d a w sc s) := by
  refine goesOn_instrJ h (at_of_within ?_)
  grind [within_bind, within_raise, keeps_chain, keeping_of_quiet, quiet_checkPr, quiet_readS, quiet_releasePoint, keeping_runNode]

theorem goesOn_execLink (a b : BitVec 5) (sc : BitVec 3) (s : State) (h : Canonical s) : GoesOn (execLink a b sc s) := by
  refine goesOn_instrJ h (at_of_within ?_)
  grind [within_bind, keeps_chain, keeping_of_quiet, quiet_checkPr, quiet_readS, quiet_releasePoint, keeping_runNode]

theorem goesOn_execNrun (sc : BitVec 3) (s : State) (h : Canonical s) : GoesOn (execNrun sc s) := by
  refine goesOn_instrJ h (at_of_within (within_ite (fun _ => within_raise keeps_chain _ _) fun _ => ?_))
  refine keeping_after (quiet_writeReady _) fun _ => keeping_after (quiet_writeReady _) fun _ => keeping_after (quiet_writeReady _) fun _ => ?_
  refine keeping_after (quiet_writeReady _) fun _ => keeping_after quiet_releasePoint fun _ => ?_
  split
  · refine keeping_bind (within_modify fun t ht => ?_) fun _ => keeping_after (quiet_writeS _ _) fun _ => within_pure keeps_chain _
    exact keeps_of_sameMem (sameMem_retirePair _ _ _) (canonical_endMarks t _ _ ht)
  · exact keeping_after (quiet_modHere _) fun _ => keeping_runNode _ _ _

theorem goesOn_execNpush (a b : BitVec 5) (sc : BitVec 3) (s : State) (h : Canonical s) : GoesOn (execNpush a b sc s) := by
  refine goesOn_instr h (at_of_within ?_)
  grind [within_bind, within_throw, within_modify, within_raise, keeps_chain, keeping_of_quiet, Keeps, sameMem_countUp, canonical_pushChurn,
    quiet_checkPr, quiet_readS]

theorem canonical_migrateUnless {s t : State} {c k : Nat} {b : Bool} (h : Canonical s)
    (e : (if b then none else s.migrate c k) = some t) : Canonical t := by
  split at e
  · cases e
  · exact canonical_migrate _ _ _ h e

theorem goesOn_execNmove (d a : BitVec 5) (sc : BitVec 3) (s : State) (h : Canonical s) : GoesOn (execNmove d a sc s) := by
  refine goesOn_instr h (at_of_within ?_)
  refine keeping_after (quiet_claimDest d) fun _ => keeping_after (quiet_readS a) fun x => within_look fun t => at_keeps fun ht => at_of_within ?_
  dsimp only
  split
  · exact within_raiseTree keeps_chain _ _ _
  · refine within_ite (fun _ => within_raise keeps_chain _ _) fun _ => keeping_after quiet_releasePoint fun _ => ?_
    split
    · next hu => exact keeping_bind (keeping_set (canonical_migrateUnless ht hu)) fun _ => keeping_of_quiet quiet_deferred
    · exact keeping_of_quiet quiet_deferred

theorem goesOn_execNbal (d : BitVec 5) (sc : BitVec 3) (s : State) (h : Canonical s) : GoesOn (execNbal d sc s) := by
  refine goesOn_instr h (at_of_within ?_)
  refine keeping_after (quiet_claimDest d) fun _ => keeping_after quiet_releasePoint fun _ => ?_
  split
  · next u hu =>
    split at hu
    · cases hu
    · exact keeping_bind (keeping_set (canonical_exchange _ _ h hu)) fun _ => keeping_of_quiet quiet_deferred
  · exact keeping_of_quiet quiet_deferred

theorem goesOn_execAutoBalance (core : Nat) (s : State) (h : Canonical s) : GoesOn (execAutoBalance core s) := by
  refine goesOn_happen h fun t e => ?_
  grind [sameMem_modCore, canonical_exchange]

theorem goesOn_execNodeStep (core level : Nat) (s : State) (h : Canonical s) : GoesOn (execNodeStep core level s) := by
  refine goesOn_happen h fun t e => ?_
  grind [canonical_stepAt]

theorem goesOn_execChurnPush (core level : Nat) (s : State) (h : Canonical s) : GoesOn (execChurnPush core level s) := by
  refine goesOn_happen h fun t e => ?_
  grind [canonical_stepAt]

/-! ### The vector unit: what issues or happens -/

theorem goesOn_execVmov (p : BitVec 3) (d a : BitVec 5) (sc : BitVec 3) (s : State) (h : Canonical s) : GoesOn (execVmov p d a sc s) := by
  refine goesOn_quiet h ?_
  grind [within_bind, sameMem_chain, quiet_oldV, quiet_readP, quiet_readV, quiet_writeElems]

theorem goesOn_execVtag (d a t : BitVec 5) (sc : BitVec 3) (s : State) (h : Canonical s) : GoesOn (execVtag d a t sc s) := by
  refine goesOn_quiet h ?_
  grind [within_bind, sameMem_chain, quiet_oneVector, quiet_writeVL]

theorem goesOn_execVbcast (p : BitVec 3) (d a t : BitVec 5) (sc : BitVec 3) (s : State) (h : Canonical s) : GoesOn (execVbcast p d a t sc s) := by
  refine goesOn_quiet h ?_
  grind [within_bind, sameMem_chain, quiet_oldV, quiet_readP, quiet_readS, quiet_writeElems]

theorem goesOn_execVcvt (p : BitVec 3) (d a : BitVec 5) (m : BitVec 3) (t : BitVec 5) (sc : BitVec 3) (s : State) (h : Canonical s) :
    GoesOn (execVcvt p d a m t sc s) := by
  refine goesOn_quiet h ?_
  grind [within_bind, sameMem_chain, quiet_convertBlocks, quiet_convertPlain, quiet_notPoison, quiet_raiseFormat, quiet_readP, quiet_readV,
    quiet_scaleRegister, quiet_scaleSource]

theorem goesOn_execVredMin (p : BitVec 3) (d a : BitVec 5) (sc : BitVec 3) (s : State) (h : Canonical s) : GoesOn (execVredMin p d a sc s) := by
  refine goesOn_quiet h ?_
  grind [sameMem_chain, quiet_reduce]

theorem goesOn_execVredMax (p : BitVec 3) (d a : BitVec 5) (sc : BitVec 3) (s : State) (h : Canonical s) : GoesOn (execVredMax p d a sc s) := by
  refine goesOn_quiet h ?_
  grind [sameMem_chain, quiet_reduce]

theorem goesOn_execVredAnd (p : BitVec 3) (d a : BitVec 5) (sc : BitVec 3) (s : State) (h : Canonical s) : GoesOn (execVredAnd p d a sc s) := by
  refine goesOn_quiet h ?_
  grind [sameMem_chain, quiet_reduce]

theorem goesOn_execVredOr (p : BitVec 3) (d a : BitVec 5) (sc : BitVec 3) (s : State) (h : Canonical s) : GoesOn (execVredOr p d a sc s) := by
  refine goesOn_quiet h ?_
  grind [sameMem_chain, quiet_reduce]

theorem goesOn_execVperm (p : BitVec 3) (d a b : BitVec 5) (sc : BitVec 3) (s : State) (h : Canonical s) : GoesOn (execVperm p d a b sc s) := by
  refine goesOn_quiet h ?_
  grind [within_bind, sameMem_chain, quiet_oldV, quiet_raiseFormat, quiet_readP, quiet_readV, quiet_writeElems]

theorem goesOn_execVslide (p : BitVec 3) (d a b : BitVec 5) (sc : BitVec 3) (s : State) (h : Canonical s) : GoesOn (execVslide p d a b sc s) := by
  refine goesOn_quiet h ?_
  grind [within_bind, sameMem_chain, quiet_oldV, quiet_readP, quiet_readS, quiet_readV, quiet_writeElems]

theorem goesOn_execVcompress (p : BitVec 3) (d a : BitVec 5) (sc : BitVec 3) (s : State) (h : Canonical s) : GoesOn (execVcompress p d a sc s) := by
  refine goesOn_quiet h ?_
  grind [within_bind, sameMem_chain, quiet_oldV, quiet_readP, quiet_readV, quiet_writeVL]

theorem goesOn_execVgl (p : BitVec 3) (d a : BitVec 5) (sc : BitVec 3) (s : State) (h : Canonical s) : GoesOn (execVgl p d a sc s) := by
  refine goesOn_quiet h ?_
  grind [within_bind, within_pure, sameMem_chain, quiet_modMe, quiet_deferS, quiet_guardP, quiet_readS]

theorem goesOn_execVsel (d a b : BitVec 5) (k sc : BitVec 3) (s : State) (h : Canonical s) : GoesOn (execVsel d a b k sc s) := by
  refine goesOn_quiet h ?_
  grind [within_bind, sameMem_chain, quiet_oldV, quiet_raiseFormat, quiet_readP, quiet_readV, quiet_writeElems]

theorem goesOn_execVcx (d j k : BitVec 5) (sc : BitVec 3) (s : State) (h : Canonical s) : GoesOn (execVcx d j k sc s) := by
  refine goesOn_quiet h ?_
  grind [within_bind, sameMem_chain, quiet_notPoison, quiet_raiseFormat, quiet_readV, quiet_writeVL]

theorem goesOn_execVchol8 (d a : BitVec 5) (k sc : BitVec 3) (s : State) (h : Canonical s) : GoesOn (execVchol8 d a k sc s) := by
  refine goesOn_quiet h ?_
  grind [within_bind, sameMem_chain, quiet_oneVector, quiet_writePL, quiet_writeVL]

theorem goesOn_execVtrs8 (d a b : BitVec 5) (sc : BitVec 3) (s : State) (h : Canonical s) : GoesOn (execVtrs8 d a b sc s) := by
  refine goesOn_quiet h ?_
  grind [within_bind, sameMem_chain, quiet_notPoison, quiet_raiseFormat, quiet_readV, quiet_writeVL]

theorem goesOn_execPnot (d a : BitVec 5) (sc : BitVec 3) (s : State) (h : Canonical s) : GoesOn (execPnot d a sc s) := by
  refine goesOn_quiet h ?_
  grind [within_bind, sameMem_chain, quiet_readP, quiet_writeP]

theorem goesOn_execPcnt (d a : BitVec 5) (sc : BitVec 3) (s : State) (h : Canonical s) : GoesOn (execPcnt d a sc s) := by
  refine goesOn_quiet h ?_
  grind [within_bind, sameMem_chain, quiet_readP, quiet_writeSL]

theorem goesOn_execPfirst (d a : BitVec 5) (sc : BitVec 3) (s : State) (h : Canonical s) : GoesOn (execPfirst d a sc s) := by
  refine goesOn_quiet h ?_
  grind [within_bind, sameMem_chain, quiet_readP, quiet_writeSL]

/-! ### The exponential unit and key units: what issues or happens -/

theorem goesOn_execXreq (d a b : BitVec 5) (sc : BitVec 3) (s : State) (h : Canonical s) : GoesOn (execXreq d a b sc s) := by
  refine goesOn_quiet h ?_
  grind [within_bind, within_pure, within_raise, sameMem_chain, quiet_modHome, quiet_deferS, quiet_notPoison, quiet_raiseFormat, quiet_readS,
    quiet_readV]

theorem goesOn_execXget (d : BitVec 5) (sc : BitVec 3) (s : State) (h : Canonical s) : GoesOn (execXget d sc s) := by
  refine goesOn_quiet h ?_
  split
  · exact within_raise sameMem_chain _ _
  · split
    · exact within_raise sameMem_chain _ _
    · refine quiet_bind (quiet_oldV d) fun old => ?_
      split
      · exact quiet_bind (quiet_deferV _ _ _) fun _ => quiet_modHome _
      · exact quiet_bind (quiet_deferV _ _ _) fun id => quiet_modHome _

theorem goesOn_execXuCompute (cluster : Nat) (s : State) (h : Canonical s) : GoesOn (execXuCompute cluster s) := by
  refine goesOn_happen h fun t e => ?_
  grind [sameMem_modCluster, sameMem_modCtx]

theorem goesOn_execKinit (d a b : BitVec 5) (sc : BitVec 3) (s : State) (h : Canonical s) : GoesOn (execKinit d a b sc s) := by
  refine goesOn_quiet h ?_
  grind [within_bind, within_pure, within_raise, sameMem_chain, quiet_modHome, quiet_deferS, quiet_readS]

theorem goesOn_execKadd (p : BitVec 3) (d a b : BitVec 5) (sc : BitVec 3) (s : State) (h : Canonical s) : GoesOn (execKadd p d a b sc s) := by
  refine goesOn_quiet h (quiet_bind (quiet_readP _) fun pr => quiet_bind (quiet_readV a) fun x => quiet_bind (quiet_readV b) fun y => ?_)
  split
  · exact within_raise sameMem_chain _ _
  · refine quiet_bind (quiet_notPoison _) fun _ => quiet_bind (quiet_notPoison _) fun _ => ?_
    refine within_ite (fun _ => quiet_raiseFormat _ _) fun _ => within_ite (fun _ => quiet_deferred) fun _ => ?_
    exact quiet_bind (quiet_modHome _) fun _ => quiet_deferred

theorem goesOn_execKuTakePair (cluster inst : Nat) (s : State) (h : Canonical s) : GoesOn (execKuTakePair cluster inst s) := by
  refine goesOn_happen h fun t e => ?_
  grind [sameMem_modCluster]

theorem goesOn_execKdrain (d a b : BitVec 5) (sc : BitVec 3) (s : State) (h : Canonical s) : GoesOn (execKdrain d a b sc s) := by
  refine goesOn_instrJ h (keeping_of_quiet ?_ s)
  refine quiet_bind (quiet_claimDest d) fun _ => quiet_bind (quiet_readS a) fun A => quiet_bind (quiet_readS b) fun f => ?_
  split
  · exact within_raise sameMem_chain _ _
  · refine within_ite (fun _ => within_raise sameMem_chain _ _) fun _ => quiet_bind (quiet_checkLocal _ _ _ _) fun addr => ?_
    refine within_ite (fun _ => ?_) fun _ => ?_
    · exact quiet_bind (quiet_deferS _ _ _) fun _ => within_pure sameMem_chain _
    · exact quiet_bind quiet_freshId fun id => quiet_bind (quiet_modHome _) fun _ => quiet_leaveOp _ _

theorem goesOn_execKdrainWrite (core level : Nat) (s : State) (h : Canonical s) : GoesOn (execKdrainWrite core level s) := by
  refine goesOn_happen h fun t e => ?_
  grind [sameMem_finishWait, sameMem_giveS, sameMem_modCluster, canonical_writePairs]

/-! ### Gangs: what issues or happens -/

theorem goesOn_execTrapEntry (core level : Nat) (s : State) (h : Canonical s) : GoesOn (execTrapEntry core level s) := by
  refine goesOn_happen h fun t e => ?_
  grind [canonical_takeDue]

theorem goesOn_execStewardRecord (r : StewardFinding) (s : State) (h : Canonical s) : GoesOn (execStewardRecord r s) := by
  refine goesOn_happen h fun t e => ?_
  grind [sameMem_setCore]

theorem goesOn_execCoreResume (core : Nat) (s : State) (h : Canonical s) : GoesOn (execCoreResume core s) := by
  refine goesOn_happen h fun t e => ?_
  grind [sameMem_setCore, sameMem_modGang, sameMem_notifyGang, sameMem_notifyParked, sameMem_report]

theorem goesOn_execCoreRestart (core : Nat) (s : State) (h : Canonical s) : GoesOn (execCoreRestart core s) := by
  refine goesOn_happen h fun t e => ?_
  grind [sameMem_failJob, sameMem_modGang, sameMem_notifyGang, sameMem_notifyParked, sameMem_report, canonical_restart]

theorem sameMem_repair (s : State) (l : List Nat) : SameMem s (l.foldl (fun t c => t.modCore c fun k => { k with failedBanks := [] }) s) :=
  sameMem_foldl (fun u c => sameMem_modCore u c _) l s

theorem goesOn_execSpareColumnRemap (col : Nat) (s : State) (h : Canonical s) : GoesOn (execSpareColumnRemap col s) := by
  refine goesOn_happen h fun t e => ?_
  extract_lets used cores s1 s2 at e
  have h1 : SameMem s s1 := sameMem_modMod s _
  have h2 : SameMem s1 s2 := sameMem_repair s1 cores
  clear_value s1 s2
  split at e
  · cases e
  · split at e
    · cases e
    · rw [← Option.some.inj e]
      exact keeps_of_sameMem (sameMem_chain.trans h1 h2) h

theorem goesOn_execMarkBankFailed (core bank : Nat) (s : State) (h : Canonical s) : GoesOn (execMarkBankFailed core bank s) := by
  refine goesOn_happen h fun t e => ?_
  grind [sameMem_modCore]

theorem goesOn_execGangAllocation (s : State) (h : Canonical s) : GoesOn (execGangAllocation s) := by
  refine goesOn_happen h fun t e => ?_
  grind [Option.map_eq_some_iff, sameMem_modVale, sameMem_place]

theorem goesOn_execBandPromotion (asid queue idx : Nat) (s : State) (h : Canonical s) : GoesOn (execBandPromotion asid queue idx s) := by
  refine goesOn_happen h fun t e => ?_
  grind [sameMem_modVale]

theorem goesOn_execGangStart (gang cluster : Nat) (s : State) (h : Canonical s) : GoesOn (execGangStart gang cluster s) := by
  refine goesOn_happen h fun t e => ?_
  grind [Option.bind_eq_some_iff, sameMem_foldl, canonical_foldl, sameMem_modCluster, sameMem_modGang, canonical_startCore, canonical_writeSegment]

theorem goesOn_execSegmentArrival (cluster : Nat) (s : State) (h : Canonical s) : GoesOn (execSegmentArrival cluster s) := by
  refine goesOn_happen h fun t e => ?_
  grind [sameMem_foldl, canonical_foldl, sameMem_modCore, sameMem_modCluster, sameMem_wakeSegment, canonical_writeSegment]

theorem goesOn_execLaunchContextStart (gang : Nat) (s : State) (h : Canonical s) : GoesOn (execLaunchContextStart gang s) := by
  refine goesOn_happen h fun t e => ?_
  split at e
  · cases e
  · next g _ =>
    split at e
    · rw [← Option.some.inj e]
      exact keeps_of_sameMem (sameMem_chain.trans (sameMem_foldl (fun u c => sameMem_modCore u c _) _ s) (sameMem_modGang _ _ _)) h
    · cases e

theorem goesOn_execGangCompletion (gang : Nat) (s : State) (h : Canonical s) : GoesOn (execGangCompletion gang s) := by
  refine goesOn_happen h fun t e => ?_
  grind [sameMem_gangEnded, sameMem_removeGang]

theorem goesOn_execPreemptionRequest (gang : Nat) (s : State) (h : Canonical s) : GoesOn (execPreemptionRequest gang s) := by
  refine goesOn_happen h fun t e => ?_
  grind [sameMem_preempt]

theorem goesOn_execTimeSliceSwitch (instant : Nat) (gangs : List Nat) (s : State) (h : Canonical s) :
    GoesOn (execTimeSliceSwitch instant gangs s) := by
  refine goesOn_happen h fun t e => ?_
  split at e
  · rw [← Option.some.inj e]
    exact keeps_of_sameMem (sameMem_chain.trans (sameMem_modMod s _) (sameMem_foldl sameMem_preempt _ _)) h
  · cases e

theorem goesOn_execPreemptDistribution (core : Nat) (s : State) (h : Canonical s) : GoesOn (execPreemptDistribution core s) := by
  refine goesOn_happen h fun t e => ?_
  grind [sameMem_setCore, sameMem_stopLinks]

theorem goesOn_execRtcLateHalt (core : Nat) (s : State) (h : Canonical s) : GoesOn (execRtcLateHalt core s) := by
  refine goesOn_happen h fun t e => ?_
  dsimp only at e
  split at e
  · cases e
  · split at e
    · rw [← Option.some.inj e]
      exact keeps_of_sameMem (sameMem_chain.trans (sameMem_setCore s core _) (sameMem_stopLinks _ core _)) h
    · cases e

theorem goesOn_execImageWrite (gang : Nat) (s : State) (h : Canonical s) : GoesOn (execImageWrite gang s) := by
  refine goesOn_happen h fun t e => ?_
  grind [sameMem_foldl, canonical_foldl, sameMem_dropParked, sameMem_modGang, sameMem_modVale, canonical_putImageBytes, sameMem_rn, sameMem_vacate,
    canonical_writeDispatch]

theorem goesOn_execGangRestore (gang cx cy : Nat) (s : State) (h : Canonical s) : GoesOn (execGangRestore gang cx cy s) := by
  refine goesOn_happen h fun t e => ?_
  grind [canonical_loadImage, sameMem_resumeJob, sameMem_rn]

/-! ### Edge slices: what issues or happens -/

theorem goesOn_execFshipPerform (bdp idx : Nat) (s : State) (h : Canonical s) : GoesOn (execFshipPerform bdp idx s) := by
  refine goesOn_happen h fun t e => ?_
  grind [Option.map_eq_some_iff, sameMem_lookUp, canonical_performShip]

theorem goesOn_execBankRefresh (slice channel bank : Nat) (s : State) (h : Canonical s) : GoesOn (execBankRefresh slice channel bank s) := by
  refine goesOn_happen h fun t e => ?_
  grind [sameMem_modSlice]

theorem goesOn_execLayerOverheat (stack layer temp : Nat) (s : State) (h : Canonical s) : GoesOn (execLayerOverheat stack layer temp s) := by
  refine goesOn_happen h fun t e => ?_
  grind [sameMem_modMod]

theorem goesOn_execRefreshDue (slice channel : Nat) (s : State) (h : Canonical s) : GoesOn (execRefreshDue slice channel s) := by
  refine goesOn_happen h fun t e => ?_
  grind [sameMem_modRefresh, sameMem_modSlice]

theorem goesOn_execAllBankRefresh (slice channel : Nat) (s : State) (h : Canonical s) : GoesOn (execAllBankRefresh slice channel s) := by
  refine goesOn_happen h fun t e => ?_
  grind [sameMem_modRefresh]

theorem goesOn_execRemapTableError (slice channel : Nat) (s : State) (h : Canonical s) : GoesOn (execRemapTableError slice channel s) := by
  refine goesOn_happen h fun t e => ?_
  grind [sameMem_modSlice]

theorem goesOn_execRemapReload (slice channel : Nat) (goldenBad : Bool) (s : State) (h : Canonical s) :
    GoesOn (execRemapReload slice channel goldenBad s) := by
  refine goesOn_happen h fun t e => ?_
  grind [sameMem_lateTick, sameMem_modSlice, sameMem_modVale]

/-! ### The package: what issues or happens -/

theorem goesOn_execLinkFlitReceive (port : Nat) (flit : WireFlit) (crc : BitVec 32) (badLanes : BitVec 8) (s : State) (h : Canonical s) :
    GoesOn (execLinkFlitReceive port flit crc badLanes s) := by
  refine goesOn_happen h fun t e => ?_
  grind [sameMem_foldl, sameMem_modPort]

theorem goesOn_execReplayRequest (port seq : Nat) (s : State) (h : Canonical s) : GoesOn (execReplayRequest port seq s) := by
  refine goesOn_happen h fun t e => ?_
  grind [sameMem_modPort]

theorem goesOn_execLaneRepair (port lane : Nat) (replayFails : Bool) (s : State) (h : Canonical s) :
    GoesOn (execLaneRepair port lane replayFails s) := by
  refine goesOn_happen h fun t e => ?_
  grind [sameMem_modPort, sameMem_modVale]

theorem goesOn_execPtpMessage (port : Nat) (m : PtpMsg) (s : State) (h : Canonical s) : GoesOn (execPtpMessage port m s) := by
  refine goesOn_happen h fun t e => ?_
  grind [Option.map_eq_some_iff, sameMem_modMod, sameMem_modPort]

theorem goesOn_execSnapshotTrigger (source : Nat) (_word : BitVec 64) (s : State) (h : Canonical s) :
    GoesOn (execSnapshotTrigger source _word s) := by
  refine goesOn_happen h fun t e => ?_
  grind [Option.map_eq_some_iff, sameMem_fabric, sameMem_modMod, sameMem_trigger]

theorem goesOn_execSnapin (s : State) (h : Canonical s) : GoesOn (execSnapin s) := by
  unfold execSnapin
  grind [goesOn_next, sameMem_sendTrigger]

theorem goesOn_execSnapshotLatch (s : State) (h : Canonical s) : GoesOn (execSnapshotLatch s) := by
  refine goesOn_happen h fun t e => ?_
  split at e
  · cases e
  · split at e
    · cases e
    · extract_lets f s1 s2 s3 s4 s5 at e
      have h1 : SameMem s s1 := sameMem_foldl (fun t c => sameMem_modCore t c _) _ _
      have h2 : SameMem s1 s2 := sameMem_foldl (fun t c => sameMem_modCluster t c _) _ _
      have h3 : SameMem s2 s3 := sameMem_foldl (fun t c => sameMem_modQuad t c _) _ _
      have h4 : SameMem s3 s4 := sameMem_foldl (fun t c => sameMem_modSlice t c _) _ _
      have h5 : SameMem s4 s5 := sameMem_foldl (fun t c => sameMem_modPort t c _) _ _
      clear_value s1 s2 s3 s4 s5
      rw [← Option.some.inj e]
      have hc := sameMem_chain
      exact keeps_of_sameMem (hc.trans (hc.trans (hc.trans (hc.trans (hc.trans h1 h2) h3) h4) h5) (sameMem_modMod s5 _)) h

theorem goesOn_execSnapshotRelease (s : State) (h : Canonical s) : GoesOn (execSnapshotRelease s) := by
  refine goesOn_happen h fun t e => ?_
  grind [sameMem_modMod]

theorem goesOn_execPerst (s : State) (h : Canonical s) : GoesOn (execPerst s) := by
  unfold execPerst
  grind [goesOn_next, sameMem_modMod, sameMem_modVale]

theorem goesOn_execDoorbell (ring : Nat) (s : State) (h : Canonical s) : GoesOn (execDoorbell ring s) := by
  refine goesOn_happen h fun t e => ?_
  grind [sameMem_modVale]

theorem goesOn_execCompletionEntry (c : RingCompletion) (s : State) (h : Canonical s) : GoesOn (execCompletionEntry c s) := by
  refine goesOn_happen h fun t e => ?_
  grind [sameMem_modMod, sameMem_modVale]

theorem goesOn_execHostBarAccess (write : Bool) (bar off0 : Nat) (v : BitVec 64) (s : State) (h : Canonical s) :
    GoesOn (execHostBarAccess write bar off0 v s) := by
  unfold execHostBarAccess
  grind [goesOn_next, sameMem_modMod]

theorem goesOn_execPwrgood (s : State) (h : Canonical s) : GoesOn (execPwrgood s) := by
  refine goesOn_happen h fun t e => ?_
  grind [sameMem_modMod]

theorem goesOn_execBlockCalibration (block : Nat) (found : Trained) (s : State) (h : Canonical s) : GoesOn (execBlockCalibration block found s) := by
  refine goesOn_happen h fun t e => ?_
  grind [sameMem_modMod, sameMem_modSlice]

theorem goesOn_execFirmwareVerify (image : List (BitVec 8)) (version : Nat) (s : State) (h : Canonical s) :
    GoesOn (execFirmwareVerify image version s) := by
  refine goesOn_happen h fun t e => ?_
  grind [sameMem_modMod]

theorem goesOn_execValeLoad (image : List (BitVec 8)) (version : Nat) (s : State) (h : Canonical s) : GoesOn (execValeLoad image version s) := by
  refine goesOn_happen h fun t e => ?_
  grind [sameMem_modMod]

theorem goesOn_execAttestationQuote (nonce : BitVec 512) (s : State) (h : Canonical s) : GoesOn (execAttestationQuote nonce s) := by
  refine goesOn_happen h fun t e => ?_
  grind [sameMem_modMod]

theorem goesOn_execIslandDvfs (island : Nat) (point : DvfsPoint) (watts temp : Nat) (s : State) (h : Canonical s) :
    GoesOn (execIslandDvfs island point watts temp s) := by
  refine goesOn_happen h fun t e => ?_
  grind [sameMem_retune]

theorem goesOn_execThermtrip (temp : Nat) (s : State) (h : Canonical s) : GoesOn (execThermtrip temp s) := by
  refine goesOn_happen h fun t e => ?_
  grind [sameMem_modMod]

theorem goesOn_execRegisterWrite (r : RegSel) (v : BitVec 64) (s : State) (h : Canonical s) : GoesOn (execRegisterWrite r v s) := by
  refine goesOn_happen h fun t e => ?_
  grind [sameMem_writeReg]

/-! ### Scalar instructions: what issues or happens -/

theorem goesOn_opRR (f : Word → Word → Word) (lat : Nat) (p : BitVec 3) (d a b : BitVec 5) (sc : BitVec 3) (s : State) (h : Canonical s) :
    GoesOn (opRR f lat p d a b sc s) := by
  refine goesOn_quiet h ?_
  grind [within_bind, sameMem_chain, quiet_guardP, quiet_readS, quiet_writeSL]

theorem goesOn_opR (f : Word → Word) (p : BitVec 3) (d a : BitVec 5) (sc : BitVec 3) (s : State) (h : Canonical s) : GoesOn (opR f p d a sc s) := by
  refine goesOn_quiet h ?_
  grind [within_bind, sameMem_chain, quiet_guardP, quiet_readS, quiet_writeSL]

theorem goesOn_opRI (f : Word → Word → Word) (lat : Nat) (d a : BitVec 5) (y : Word) (sc : BitVec 3) (s : State) (h : Canonical s) :
    GoesOn (opRI f lat d a y sc s) := by
  refine goesOn_quiet h ?_
  grind [within_bind, sameMem_chain, quiet_readS, quiet_writeSL]

theorem goesOn_opRX (f : Word → Word → Word → Word) (d a b c : BitVec 5) (sc : BitVec 3) (s : State) (h : Canonical s) :
    GoesOn (opRX f d a b c sc s) := by
  refine goesOn_quiet h ?_
  grind [within_bind, sameMem_chain, quiet_readS, quiet_writeSL]

theorem goesOn_op16 (f : Word → Word → Word) (d a : BitVec 5) (s : State) (h : Canonical s) : GoesOn (op16 f d a s) := by
  refine goesOn_instr16 h (keeping_of_quiet ?_ _)
  grind [within_bind, sameMem_chain, quiet_readS, quiet_writeSL]

theorem goesOn_op16I (f : Word → Word → Word) (d : BitVec 5) (y : Word) (s : State) (h : Canonical s) : GoesOn (op16I f d y s) := by
  refine goesOn_instr16 h (keeping_of_quiet ?_ _)
  grind [within_bind, sameMem_chain, quiet_readS, quiet_writeSL]

theorem goesOn_execSel (d a b : BitVec 5) (k sc : BitVec 3) (s : State) (h : Canonical s) : GoesOn (execSel d a b k sc s) := by
  refine goesOn_quiet h ?_
  grind [within_bind, sameMem_chain, quiet_readP, quiet_readS, quiet_writeSL]

theorem goesOn_execBfi (d a b c : BitVec 5) (sc : BitVec 3) (s : State) (h : Canonical s) : GoesOn (execBfi d a b c sc s) := by
  refine goesOn_quiet h ?_
  grind [within_bind, within_pure, sameMem_chain, quiet_readS, quiet_writeSL]

theorem goesOn_execLui (d : BitVec 5) (i : BitVec 17) (sc : BitVec 3) (s : State) (h : Canonical s) : GoesOn (execLui d i sc s) := by
  refine goesOn_quiet h ?_
  grind [sameMem_chain, quiet_writeSL]

theorem goesOn_execMov (d a : BitVec 5) (s : State) (h : Canonical s) : GoesOn (execMov d a s) := by
  refine goesOn_instr16 h (keeping_of_quiet ?_ _)
  grind [within_bind, sameMem_chain, quiet_readS, quiet_writeSL]

theorem goesOn_execLi (d i : BitVec 5) (s : State) (h : Canonical s) : GoesOn (execLi d i s) := by
  refine goesOn_instr16 h (keeping_of_quiet ?_ _)
  grind [sameMem_chain, quiet_writeSL]

theorem goesOn_execNop (s : State) (h : Canonical s) : GoesOn (execNop s) := by
  refine goesOn_instr16 h (keeping_of_quiet ?_ _)
  grind [within_pure, sameMem_chain]

/-! ### System calls: what issues or happens -/

theorem goesOn_serveCall (c : Caller) (k : Nat) (s : State) (work : Served → Option (State × Word)) (h : Canonical s)
    (hw : ∀ q t v, work q = some (t, v) → Canonical t) : GoesOn (serveCall c k s work) := by
  refine goesOn_happen h fun t e => ?_
  grind [sameMem_modVale, sameMem_respond]

theorem goesOn_execTime (c : Caller) (s : State) (h : Canonical s) : GoesOn (execTime c s) := by
  refine goesOn_serveCall _ _ _ _ h fun q t v e => ?_
  grind [sameMem_invalid, goesOn_serveCall]

theorem goesOn_execWaitjob (c : Caller) (s : State) (h : Canonical s) : GoesOn (execWaitjob c s) := by
  refine goesOn_serveCall _ _ _ _ h fun q t v e => ?_
  grind [sameMem_invalid, goesOn_serveCall]

theorem goesOn_execUnassignedCall (c : Caller) (s : State) (h : Canonical s) : GoesOn (execUnassignedCall c s) := by
  unfold execUnassignedCall
  split
  · exact goesOn_next h
  · exact goesOn_serveCall _ _ _ _ h fun q t v e => by cases e; exact h

theorem goesOn_execXutable (c : Caller) (s : State) (h : Canonical s) : GoesOn (execXutable c s) := by
  refine goesOn_serveCall _ _ _ _ h fun q t v e => ?_
  grind [sameMem_modCluster, sameMem_invalid, goesOn_serveCall]

theorem goesOn_execRoutine (c : Caller) (s : State) (h : Canonical s) : GoesOn (execRoutine c s) := by
  refine goesOn_serveCall _ _ _ _ h fun q t v e => ?_
  grind [sameMem_modVale, sameMem_invalid, goesOn_serveCall]

theorem goesOn_execMap (c : Caller) (s : State) (h : Canonical s) : GoesOn (execMap c s) := by
  refine goesOn_serveCall _ _ _ _ h fun q t v e => ?_
  have hi (e : invalid s = some (t, v)) : Canonical t := keeps_of_sameMem (sameMem_invalid s e) h
  split at e
  · exact hi e
  · extract_lets ta f at e
    split at e
    · exact hi e
    · split at e
      · exact hi e
      · split at e
        · exact hi e
        · next d _ _ s1 key hp =>
          split at e
          · next base s2 hb _ =>
            split at e
            · cases e
            · have h2 := keeps_of_sameMem (sameMem_chain.trans (sameMem_pageSlot _ _ _ hp) (sameMem_takeBacking _ _ hb)) h
              have h3 := canonical_zeroBacking _ (base * 2048) (512 * d.esize) h2
              obtain ⟨rfl, -⟩ := Prod.mk.inj (Option.some.inj e)
              exact keeps_of_sameMem (sameMem_chain.trans (sameMem_freshSectors _ q.asid d ta) (sameMem_dropCached _ q.asid ta)) h3
          · obtain ⟨rfl, -⟩ := Prod.mk.inj (Option.some.inj e)
            exact h

theorem goesOn_execMapSub (c : Caller) (s : State) (h : Canonical s) : GoesOn (execMapSub c s) := by
  refine goesOn_serveCall _ _ _ _ h fun q t v e => ?_
  grind [sameMem_dropCached, sameMem_invalid, goesOn_serveCall]

theorem goesOn_execUnmapSub (c : Caller) (s : State) (h : Canonical s) : GoesOn (execUnmapSub c s) := by
  refine goesOn_serveCall _ _ _ _ h fun q t v e => ?_
  grind [sameMem_dropCached, sameMem_invalid, goesOn_serveCall]

theorem goesOn_execRealloc (c : Caller) (s : State) (h : Canonical s) : GoesOn (execRealloc c s) := by
  refine goesOn_serveCall _ _ _ _ h fun q t v e => ?_
  grind [sameMem_dropCached, sameMem_keepMappings, sameMem_writeRoot, sameMem_invalid, goesOn_serveCall]

theorem canonical_headSlot (s : State) (n hk a m asid : Nat) (f : Slice → Slice) (w : PageHdr) (ta : Word) (h : Canonical s) :
    Canonical ((((s.modSlice n f).zeroBacking a m).setHeader hk w).dropCached asid ta) :=
  keeps_of_sameMem (sameMem_chain.trans (sameMem_setHeader _ hk w) (sameMem_dropCached _ asid ta))
    (canonical_zeroBacking _ a m (keeps_of_sameMem (sameMem_modSlice s n f) h))

theorem canonical_entries (s : State) (m : Map (Word × Word)) (h : Canonical s) : Canonical { s with entries := m } := h

theorem goesOn_execKvalloc (c : Caller) (s : State) (h : Canonical s) : GoesOn (execKvalloc c s) := by
  refine goesOn_serveCall _ _ _ _ h fun q t v e => ?_
  have hi (e : invalid s = some (t, v)) : Canonical t := keeps_of_sameMem (sameMem_invalid s e) h
  split at e
  · exact hi e
  · dsimp only at e
    split at e
    · exact hi e
    · split at e
      · exact hi e
      · split at e
        · exact hi e
        · split at e
          · exact hi e
          · next hp =>
            split at e
            · next hb _ =>
              split at hb
              · have h2 := keeps_of_sameMem (sameMem_chain.trans (sameMem_pageSlot _ _ _ hp) (sameMem_takeSliceSlot _ _ _ hb)) h
                split at e
                · cases e
                · rw [← (Prod.mk.inj (Option.some.inj e)).1]
                  exact canonical_entries _ _ (canonical_headSlot _ _ _ _ _ _ _ _ _ h2)
              · cases hb
            · rw [← (Prod.mk.inj (Option.some.inj e)).1]
              exact h

theorem goesOn_execKvfree (c : Caller) (s : State) (h : Canonical s) : GoesOn (execKvfree c s) := by
  refine goesOn_serveCall _ _ _ _ h fun q t v e => ?_
  grind [sameMem_dropCached, sameMem_endConversion, sameMem_freePage, sameMem_invalid, goesOn_serveCall]

theorem goesOn_execKvslots (c : Caller) (s : State) (h : Canonical s) : GoesOn (execKvslots c s) := by
  refine goesOn_serveCall _ _ _ _ h fun q t v e => ?_
  grind [sameMem_modSlice, sameMem_invalid, goesOn_serveCall]

theorem goesOn_execPooladd (c : Caller) (s : State) (h : Canonical s) : GoesOn (execPooladd c s) := by
  refine goesOn_serveCall _ _ _ _ h fun q t v e => ?_
  grind [sameMem_modVale, sameMem_invalid, goesOn_serveCall]

theorem goesOn_execPost (c : Caller) (s : State) (h : Canonical s) : GoesOn (execPost c s) := by
  refine goesOn_serveCall _ _ _ _ h fun q t v e => ?_
  grind [Option.bind_eq_some_iff, sameMem_postJob, sameMem_invalid, goesOn_serveCall]

/-! ### Every instruction and event, every turn, every step -/

theorem goesOn_exec (i : Instr) (s : State) (h : Canonical s) : GoesOn (exec i s) := by
  cases i with
  | add | sub | mul | mulh | mulhN | div | divN | rem | remN | and | or | xor | andn | min | max | minN | maxN | shl | shr | sra | rot
    | taz | tanb | taup | tadown | cmpEq | cmpNe | cmpLt | cmpGe | cmpLtu | cmpGeu | cmpAny | cmpNone => exact goesOn_opRR _ _ _ _ _ _ _ _ h
  | clz | ctz | popc | tax | tadepth => exact goesOn_opR _ _ _ _ _ _ h
  | sel => exact goesOn_execSel _ _ _ _ _ _ h
  | addImm12 | andImm | orImm | xorImm | andnImm | shlImm | shrImm | sraImm | rotImm | mulImm | minImm | maxImm | minNImm | maxNImm
    | taupImm | tadownImm | bfxImm => exact goesOn_opRI _ _ _ _ _ _ _ h
  | fsh | bfx | bfxs => exact goesOn_opRX _ _ _ _ _ _ _ h
  | bfi => exact goesOn_execBfi _ _ _ _ _ _ h
  | lui => exact goesOn_execLui _ _ _ _ h
  | bra => exact goesOn_execBra _ _ _ h
  | call => exact goesOn_execCall _ _ _ h
  | bcEq | bcNe | bcLt | bcGe | bcLtu | bcGeu | bcAny | bcNone => exact goesOn_branchIf _ _ _ _ _ _ h
  | loop => exact goesOn_execLoop _ _ _ _ _ h
  | ret => exact goesOn_execRet _ _ _ h
  | callr => exact goesOn_execCallr _ _ _ _ h
  | jt => exact goesOn_execJt _ _ _ _ h
  | isync => exact goesOn_execIsync _ _ h
  | halt => exact goesOn_execHalt _ _ h
  | rft => exact goesOn_execRft _ _ h
  | align => exact goesOn_execAlign _ _ _ h
  | prio => exact goesOn_execPrio _ _ _ h
  | trap => exact goesOn_execTrap _ _ _ h
  | mfc => exact goesOn_quiet h (quiet_writeSL _ _ _)
  | mtc => exact goesOn_execMtc _ _ _ _ h
  | mxc => exact goesOn_execMxc _ _ _ _ _ h
  | mov => exact goesOn_execMov _ _ _ h
  | add16 | sub16 | and16 | or16 | xor16 => exact goesOn_op16 _ _ _ _ h
  | li => exact goesOn_execLi _ _ _ h
  | addImm5 | shl16 | shr16 | sra16 => exact goesOn_op16I _ _ _ _ h
  | ret16 => exact goesOn_execRet16 _ _ h
  | nop => exact goesOn_execNop _ h
  | halt16 => exact goesOn_execHalt16 _ h
  | bbinit => exact goesOn_execBbinit _ _ _ _ h
  | bbpeek => exact goesOn_execBbpeek _ _ _ _ h
  | bbtake => exact goesOn_execBbtake _ _ _ _ h
  | bbskip => exact goesOn_execBbskip _ _ _ h
  | bbfill => exact goesOn_execBbfill _ _ h
  | ld | ldSx => exact goesOn_quiet h (quiet_loadTo _ _ _ _ _ _)
  | st => exact goesOn_execSt _ _ _ _ _ _ h
  | ldAcq d a c z o sc => exact goesOn_execLdAcq d a c z o sc s h
  | stRel d a c z o sc => exact goesOn_execStRel d a c z o sc s h
  | vld => exact goesOn_execVld _ _ _ _ _ h
  | vst => exact goesOn_execVst _ _ _ _ _ h
  | vldtRaw => exact goesOn_execVldtRaw _ _ _ _ _ _ h
  | ldtMap => exact goesOn_execLdtMap _ _ _ _ _ _ h
  | ldtTa => exact goesOn_execLdtTa _ _ _ _ h
  | sttMap => exact goesOn_execSttMap _ _ _ _ _ _ h
  | sttTa => exact goesOn_execSttTa _ _ _ _ h
  | vldtMap => exact goesOn_execVldtMap _ _ _ _ _ _ h
  | vldtTa => exact goesOn_execVldtTa _ _ _ _ h
  | vsttMap => exact goesOn_execVsttMap _ _ _ _ _ _ h
  | vsttTa => exact goesOn_execVsttTa _ _ _ _ h
  | bcopy | bfill | bzero | pftLift | pftDrop => exact goesOn_quiet h (quiet_issueEngine _ _ _ _)
  | fship => exact goesOn_execFship _ _ _ _ _ h
  | vgath => exact goesOn_execVgath _ _ _ _ _ _ h
  | vscat => exact goesOn_execVscat _ _ _ _ _ _ h
  | guard | unguard => exact goesOn_quiet h (quiet_guardRange _ _ _)
  | tmld => exact goesOn_execTmld _ _ _ _ h
  | tmst => exact goesOn_execTmst _ _ _ _ h
  | send => exact goesOn_execSend _ _ _ _ _ _ _ h
  | deposit => exact goesOn_execDeposit _ _ _ _ h
  | dset => exact goesOn_execDset _ _ _ _ _ _ h
  | dget => exact goesOn_execDget _ _ _ _ h
  | mbxcfg => exact goesOn_execMbxcfg _ _ _ h
  | amoAdd | amoMin | amoMax | amoAnd | amoOr | amoXor | amoSwap | amoCas | amoMinN | amoMaxN => exact goesOn_quiet h (quiet_issueAmo _ _ _ _ _ _)
  | salloc => exact goesOn_execSalloc _ _ _ h
  | sfree => exact goesOn_execSfree _ _ _ h
  | bar => exact goesOn_execBar _ _ _ _ _ h
  | barrive => exact goesOn_execBarrive _ _ _ _ h
  | bcancel => exact goesOn_execBcancel _ _ _ h
  | lock => exact goesOn_execLock _ _ _ h
  | unlock => exact goesOn_execUnlock _ _ _ h
  | waitv => exact goesOn_execWaitv _ _ _ _ h
  | phopen => exact goesOn_execPhopen _ _ _ h
  | phset => exact goesOn_execPhset _ _ _ h
  | phend => exact goesOn_execPhend _ _ _ h
  | phwait => exact goesOn_execPhwait _ _ _ h
  | stv => exact goesOn_execStv _ _ _ _ _ h
  | ldv => exact goesOn_execLdv _ _ _ _ _ h
  | recl => exact goesOn_execRecl _ _ _ _ h
  | fenceLd c sc => exact goesOn_execFenceLd c sc s h
  | fenceSt c sc => exact goesOn_execFenceSt c sc s h
  | fenceAll c sc => exact goesOn_execFenceAll c sc s h
  | vadd | vsub | vmul | vdiv | vaddSat | vsubSat | vmulSat | vaddNSat | vsubNSat | vmin | vmax | vminN | vmaxN | vand | vor | vxor
    | vshl | vshr | vsra => exact goesOn_quiet h (quiet_elemOp2 _ _ _ _ _ _ _ _)
  | vfma | vfms | vfmaSat => exact goesOn_quiet h (quiet_elemOp3 _ _ _ _ _ _)
  | vsqrt | vabs | vneg => exact goesOn_quiet h (quiet_elemOp1 _ _ _ _ _ _ _)
  | vmov => exact goesOn_execVmov _ _ _ _ _ h
  | vtag => exact goesOn_execVtag _ _ _ _ _ h
  | vbcast => exact goesOn_execVbcast _ _ _ _ _ _ h
  | vcmpEq | vcmpNe | vcmpLt | vcmpGe | vcmpLe | vcmpGt | vcmpUn | vcmpOrd | vcmpLtN | vcmpGeN | vcmpLeN | vcmpGtN
    => exact goesOn_quiet h (quiet_compare _ _ _ _ _)
  | vcvt => exact goesOn_execVcvt _ _ _ _ _ _ _ h
  | vredSum | vredMinN | vredMaxN => exact goesOn_quiet h (quiet_reduce _ _ _ _ _ _ _ _ _)
  | vredMin => exact goesOn_execVredMin _ _ _ _ _ h
  | vredMax => exact goesOn_execVredMax _ _ _ _ _ h
  | vredAnd => exact goesOn_execVredAnd _ _ _ _ _ h
  | vredOr => exact goesOn_execVredOr _ _ _ _ _ h
  | vperm => exact goesOn_execVperm _ _ _ _ _ _ h
  | vslide => exact goesOn_execVslide _ _ _ _ _ _ h
  | vcompress => exact goesOn_execVcompress _ _ _ _ _ h
  | vgl => exact goesOn_execVgl _ _ _ _ _ h
  | vsel => exact goesOn_execVsel _ _ _ _ _ _ h
  | vcx => exact goesOn_execVcx _ _ _ _ _ h
  | vdistDot | vdistL2 => exact goesOn_quiet h (quiet_distance _ _ _ _ _)
  | vchol8 => exact goesOn_execVchol8 _ _ _ _ _ h
  | vtrs8 => exact goesOn_execVtrs8 _ _ _ _ _ h
  | pand | por | pxor => exact goesOn_quiet h (quiet_predOp _ _ _ _)
  | pnot => exact goesOn_execPnot _ _ _ _ h
  | pcnt => exact goesOn_execPcnt _ _ _ _ h
  | pfirst => exact goesOn_execPfirst _ _ _ _ h
  | xreq => exact goesOn_execXreq _ _ _ _ _ h
  | xget => exact goesOn_execXget _ _ _ h
  | kinit => exact goesOn_execKinit _ _ _ _ _ h
  | kadd => exact goesOn_execKadd _ _ _ _ _ _ h
  | kdrain => exact goesOn_execKdrain _ _ _ _ _ h
  | mlease => exact goesOn_execMlease _ _ h
  | mfree => exact goesOn_execMfree _ _ h
  | mstat => exact goesOn_execMstat _ _ _ h
  | mcheck => exact goesOn_execMcheck _ _ _ _ h
  | mload | mscale | mmul | mdrain => exact goesOn_quiet h (quiet_command _ _ _ _)
  | mswap => exact goesOn_execMswap _ _ h
  | nalloc => exact goesOn_execNalloc _ _ _ h
  | nfree => exact goesOn_execNfree _ _ _ _ h
  | nld => exact goesOn_execNld _ _ _ _ _ h
  | nst => exact goesOn_execNst _ _ _ _ _ h
  | link => exact goesOn_execLink _ _ _ _ h
  | nrun => exact goesOn_execNrun _ _ h
  | npush => exact goesOn_execNpush _ _ _ _ h
  | nmove => exact goesOn_execNmove _ _ _ _ h
  | nbal => exact goesOn_execNbal _ _ _ h
  | snap => exact goesOn_execSnap _ _ _ _ h
  | eret => exact goesOn_execEret _ _ _ h
  | cfgrd => exact goesOn_execCfgrd _ _ _ _ h
  | cfgwr => exact goesOn_execCfgwr _ _ _ _ _ h
  | sleep => exact goesOn_execSleep _ _ _ _ h
  | wake => exact goesOn_execWake _ _ _ h
  | sopen => exact goesOn_execSopen _ _ _ _ h
  | sclose => exact goesOn_execSclose _ _ _ h
  | alignTimeout => exact goesOn_execAlignTimeout _ _ _ h
  | waitvWake => exact goesOn_execWaitvWake _ _ _ h
  | xuCompute => exact goesOn_execXuCompute _ _ h
  | kuTakePair => exact goesOn_execKuTakePair _ _ _ h
  | kdrainWrite => exact goesOn_execKdrainWrite _ _ _ h
  | sleepDeadline => exact goesOn_execSleepDeadline _ _ _ h
  | closeMarkerArrival => exact goesOn_execCloseMarkerArrival _ _ _ h
  | rawWordArrival => exact goesOn_execRawWordArrival _ _ _ h
  | instructionFetch => exact goesOn_execInstructionFetch _ _ _ h
  | resultLands => exact goesOn_execResultLands _ _ _ _ h
  | messageArrival => exact goesOn_execMessageArrival _ _ h
  | acceptance => exact goesOn_execAcceptance _ _ h
  | refusal => exact goesOn_execRefusal _ _ h
  | depositDataWrite => exact goesOn_execDepositDataWrite _ _ _ h
  | dispatch => exact goesOn_execDispatch _ _ h
  | retirement => exact goesOn_execRetirement _ _ h
  | phaseClose => exact goesOn_execPhaseClose _ _ _ h
  | phaseCloseDelivery => exact goesOn_execPhaseCloseDelivery _ _ h
  | faultNotice => exact goesOn_execFaultNotice _ _ h
  | amoRequest => exact goesOn_execAmoRequest _ _ h
  | amoResult => exact goesOn_execAmoResult _ _ h
  | nodeStep => exact goesOn_execNodeStep _ _ _ h
  | churnPush => exact goesOn_execChurnPush _ _ _ h
  | autoBalance => exact goesOn_execAutoBalance _ _ h
  | trapEntry => exact goesOn_execTrapEntry _ _ _ h
  | stewardRecord => exact goesOn_execStewardRecord _ _ h
  | coreResume => exact goesOn_execCoreResume _ _ h
  | coreRestart => exact goesOn_execCoreRestart _ _ h
  | spareColumnRemap => exact goesOn_execSpareColumnRemap _ _ h
  | markBankFailed => exact goesOn_execMarkBankFailed _ _ _ h
  | gangAllocation => exact goesOn_execGangAllocation _ h
  | bandPromotion => exact goesOn_execBandPromotion _ _ _ _ h
  | gangStart => exact goesOn_execGangStart _ _ _ h
  | segmentArrival => exact goesOn_execSegmentArrival _ _ h
  | launchContextStart => exact goesOn_execLaunchContextStart _ _ h
  | gangCompletion => exact goesOn_execGangCompletion _ _ h
  | preemptionRequest => exact goesOn_execPreemptionRequest _ _ h
  | preemptDistribution => exact goesOn_execPreemptDistribution _ _ h
  | rtcLateHalt => exact goesOn_execRtcLateHalt _ _ h
  | imageWrite => exact goesOn_execImageWrite _ _ h
  | gangRestore => exact goesOn_execGangRestore _ _ _ _ h
  | timeSliceSwitch => exact goesOn_execTimeSliceSwitch _ _ _ h
  | ptpMessage => exact goesOn_execPtpMessage _ _ _ h
  | engineUnit => exact goesOn_execEngineUnit _ _ h
  | pftNoticeInjection => exact goesOn_execPftNoticeInjection _ _ h
  | translationWalk => exact goesOn_execTranslationWalk _ _ h
  | leaseGrant => exact goesOn_execLeaseGrant _ _ h
  | leaseLimit => exact goesOn_execLeaseLimit _ _ h
  | leaseHandover => exact goesOn_execLeaseHandover _ _ h
  | suspensionTimeout => exact goesOn_execSuspensionTimeout _ _ h
  | leaseRelease => exact goesOn_execLeaseRelease _ _ h
  | matrixStep => exact goesOn_execMatrixStep _ _ _ _ _ h
  | mswapEffect => exact goesOn_execMswapEffect _ _ h
  | kvWriteRequest => exact goesOn_execKvWriteRequest _ _ _ h
  | relayoutSlotGrant => exact goesOn_execRelayoutSlotGrant _ _ h
  | relayoutDequantise => exact goesOn_execRelayoutDequantise _ _ _ h
  | relayoutApply => exact goesOn_execRelayoutApply _ _ _ h
  | relayoutFlip => exact goesOn_execRelayoutFlip _ _ _ h
  | kvReadRequest => exact goesOn_execKvReadRequest _ _ _ h
  | kvTick => exact goesOn_execKvTick _ _ h
  | skimmerBegin => exact goesOn_execSkimmerBegin _ _ h
  | skimmerQuantise => exact goesOn_execSkimmerQuantise _ _ h
  | skimmerFlip => exact goesOn_execSkimmerFlip _ _ h
  | fshipPerform => exact goesOn_execFshipPerform _ _ _ h
  | bankRefresh => exact goesOn_execBankRefresh _ _ _ _ h
  | layerOverheat => exact goesOn_execLayerOverheat _ _ _ _ h
  | refreshDue => exact goesOn_execRefreshDue _ _ _ h
  | allBankRefresh => exact goesOn_execAllBankRefresh _ _ _ h
  | remapTableError => exact goesOn_execRemapTableError _ _ _ h
  | remapReload => exact goesOn_execRemapReload _ _ _ _ h
  | frameStart => exact goesOn_execFrameStart _ h
  | flitForward => exact goesOn_execFlitForward _ _ _ h
  | linkFlitReceive => exact goesOn_execLinkFlitReceive _ _ _ _ _ h
  | replayRequest => exact goesOn_execReplayRequest _ _ _ h
  | laneRepair => exact goesOn_execLaneRepair _ _ _ _ h
  | snapshotTrigger source word => exact goesOn_execSnapshotTrigger source word s h
  | snapshotLatch => exact goesOn_execSnapshotLatch _ h
  | snapshotRelease => exact goesOn_execSnapshotRelease _ h
  | snapin => exact goesOn_execSnapin _ h
  | perst => exact goesOn_execPerst _ h
  | pwrgood => exact goesOn_execPwrgood _ h
  | blockCalibration => exact goesOn_execBlockCalibration _ _ _ h
  | firmwareVerify => exact goesOn_execFirmwareVerify _ _ _ h
  | valeLoad => exact goesOn_execValeLoad _ _ _ h
  | doorbell => exact goesOn_execDoorbell _ _ h
  | completionEntry => exact goesOn_execCompletionEntry _ _ h
  | attestationQuote => exact goesOn_execAttestationQuote _ _ h
  | islandDvfs => exact goesOn_execIslandDvfs _ _ _ _ _ h
  | thermtrip => exact goesOn_execThermtrip _ _ h
  | systemCallReturn => exact goesOn_execSystemCallReturn _ _ _ h
  | time => exact goesOn_execTime _ _ h
  | post => exact goesOn_execPost _ _ h
  | waitjob => exact goesOn_execWaitjob _ _ h
  | xutable => exact goesOn_execXutable _ _ h
  | routine => exact goesOn_execRoutine _ _ h
  | map => exact goesOn_execMap _ _ h
  | mapSub => exact goesOn_execMapSub _ _ h
  | unmapSub => exact goesOn_execUnmapSub _ _ h
  | realloc => exact goesOn_execRealloc _ _ h
  | kvalloc => exact goesOn_execKvalloc _ _ h
  | kvfree => exact goesOn_execKvfree _ _ h
  | kvslots => exact goesOn_execKvslots _ _ h
  | pooladd => exact goesOn_execPooladd _ _ h
  | unassignedCall => exact goesOn_execUnassignedCall _ _ h
  | registerWrite => exact goesOn_execRegisterWrite _ _ _ h
  | hostBarAccess => exact goesOn_execHostBarAccess _ _ _ _ _ h

theorem goesOn_execute (i : Instr) (s : State) (h : Canonical s) : GoesOn (execute i s) := by
  unfold execute
  split
  · exact goesOn_next (keeps_of_sameMem (sameMem_notEligible s) h)
  · exact goesOn_exec i s h

/-- What a fetch reads, it reads in a state with the same memories. -/
def FetchedSame (s : State) : Fetched → Prop
  | .bytes t _ => SameMem s t
  | _ => True

theorem fetchedSame_fetchN (s : State) (c pc n : Nat) : FetchedSame s (s.fetchN c pc n) := by
  fun_cases State.fetchN s c pc n with
  | case1 | case2 | case3 | case4 | case6 => trivial
  | case5 => exact ⟨rfl, rfl⟩
  | case7 => exact sameMem_fill s c pc

theorem fetchedSame_fetch (s : State) (c pc : Nat) : FetchedSame s (s.fetch c pc) := by
  have h2 := fetchedSame_fetchN s c pc 2
  unfold State.fetch
  revert h2
  cases s.fetchN c pc 2 with
  | bytes t b =>
    intro h2
    have h4 := fetchedSame_fetchN t c pc 4
    revert h4
    dsimp only
    split
    · cases t.fetchN c pc 4 with
      | bytes u r => exact fun h4 => sameMem_chain.trans h2 h4
      | trap i => exact id
      | segment x => exact id
    · exact fun _ => h2
  | trap i => exact id
  | segment x => exact id

/-- The state in which a core's cycle issues, or idles, has canonical memories. -/
def CanonicalIssue : Issue → Prop
  | .idle t => Canonical t
  | .run _ t => Canonical t

theorem canonicalIssue_issue (s : State) (c l : Nat) (h : Canonical s) : CanonicalIssue (s.issue c l) := by
  unfold State.issue
  extract_lets src s0
  have h0 : Canonical s0 := keeps_of_sameMem (s := s) ⟨rfl, rfl⟩ h
  have hf := fetchedSame_fetch s0 c (s0.ctx c l).pc.toNat
  clear_value s0 src
  revert hf
  cases s0.fetch c (s0.ctx c l).pc.toNat with
  | trap t => exact fun _ => keeps_of_sameMem (sameMem_afterTrap s0 t false) h0
  | segment a => exact fun _ => keeps_of_sameMem (sameMem_modCtx s0 c l _) h0
  | bytes t b =>
    intro hf
    have ht : Canonical t := keeps_of_sameMem hf h0
    dsimp only
    split
    · exact keeps_of_sameMem (sameMem_afterTrap t _ false) ht
    · split
      · exact keeps_of_sameMem (sameMem_afterTrap t _ false) ht
      · exact ht

theorem canonicalIssue_pick (s : State) (c : Nat) (h : Canonical s) : CanonicalIssue (s.pick c) := by
  unfold State.pick
  split
  · exact canonicalIssue_issue _ _ _ h
  · exact h

theorem canonical_endAlign (s : State) (c l : Nat) (h : Canonical s) : Canonical (s.endAlign c l) :=
  keeps_of_sameMem (sameMem_endAlign s c l) h

theorem canonicalIssue_coreTurn (s : State) (c : Nat) (h : Canonical s) : CanonicalIssue (s.coreTurn c) := by
  unfold State.coreTurn
  split
  · extract_lets s1 s2
    have hn : Canonical s1 := keeps_of_sameMem (sameMem_nextCycle s c) h
    have h2 : Canonical s2 := canonical_endAlign _ c 0 (canonical_endAlign _ c 1 (canonical_endAlign _ c 2 (canonical_endAlign s1 c 3 hn)))
    clear_value s2
    clear_value s1
    split
    · exact hn
    · split
      · exact canonical_takeFirst _ _ _ h2 ‹_›
      · exact canonicalIssue_pick _ _ h2
  · exact h

theorem goesOn_issueLoop (n c : Nat) (j : Issue) (h : CanonicalIssue j) : GoesOn (issueLoop n c j) := by
  induction n generalizing j with
  | zero => cases j <;> exact goesOn_next h
  | succ n ih =>
    cases j with
    | idle s => exact goesOn_next h
    | run i s =>
      obtain ⟨t, e, ht⟩ := goesOn_execute i s h
      simp only [issueLoop, e]
      split
      · exact ih _ (canonicalIssue_pick t c ht)
      · exact goesOn_next ht

theorem goesOn_turn (a : Turn) (s : State) (h : Canonical s) : GoesOn (turn a s) := by
  cases a with
  | core c => exact goesOn_issueLoop 4 c _ (canonicalIssue_coreTurn s c h)
  | event e =>
    unfold turn
    dsimp only
    split
    · exact goesOn_next h
    · exact goesOn_exec e s h
  | symbolUpset core row bank lane flagged => exact goesOn_next (keeps_of_sameMem (sameMem_upsetSymbol s _) h)
  | granuleUpset n => exact goesOn_next (keeps_of_sameMem (sameMem_upsetGranule s n) h)

theorem goesOn_step (s : State) (h : Canonical s) (ht : s.mod.therm = false) : GoesOn (step s) := by
  have ha : Canonical s.afterTake := keeps_of_sameMem (sameMem_closePhases _) h
  simpa [step, ht] using goesOn_turn s.nextTurn _ ha

end Sys2Proof.Laws.MemoryForm

namespace Sys2Proof
open Sys2Proof.Machine Sys2Proof.Laws.MemoryForm

/-- Settles O58: by the canonical form kept through every turn. -/
theorem stepKeepsMemoryCanonical : Obligations.StepKeepsMemoryCanonical := by
  unfold Obligations.StepKeepsMemoryCanonical
  intro s hs
  refine ⟨fun ht => ?_, fun ht => by simp [step, ht]⟩
  obtain ⟨t, e, hc⟩ := goesOn_step s ((canonical_iff s).mp hs) ht
  exact ⟨t, e, (canonical_iff t).mpr hc⟩

end Sys2Proof
end

section
/-! PROOF. The machine at reset (R8, R67): a core that no gang holds, a context at its level, a memory that lists no byte. -/
namespace Sys2Proof.Laws.AtReset
open Sys2Proof.Machine

theorem reset_core (c : Nat) : State.reset.core c = Core.idle := rfl
theorem reset_ctx (c l : Nat) : State.reset.ctx c l = Ctx.start l := rfl

theorem reset_memories_zero (a : Nat) : Mem.read State.reset.cmem a = 0 ∧ Mem.read State.reset.phys a = 0 := ⟨rfl, rfl⟩

theorem start_registers (l r : Nat) : (Ctx.start l).sreg r = 0 ∧ (Ctx.start l).vreg r = { val := 0, tag := .raw }
    ∧ (Ctx.start l).preg r = (if r = 0 then BitVec.allOnes 256 else 0) :=
  ⟨by unfold Ctx.sreg; split <;> rfl, rfl, rfl⟩

/-- Nobody holds a core's array, and nobody waits for it. -/
theorem reset_leaseWord (c : Nat) : State.reset.leaseWord c = 0 := by
  have hq : State.reset.quad (quadOf c) = {} := rfl
  simp [State.leaseWord, hq, findIdxFrom, w64]

theorem reset_snapctl (c : Nat) : State.reset.snapctl c = 0 := by
  have hm : State.reset.mod = {} := rfl
  simp [State.snapctl, hm, reset_core, Core.idle, w64]

theorem reset_cr_lease (c l : Nat) : State.reset.cr c l 0x051 = 0 := by simp [State.cr, reset_leaseWord]
theorem reset_cr_snapctl (c l : Nat) : State.reset.cr c l 0x110 = 0 := by simp [State.cr, reset_snapctl]

/-- The control registers whose Reset column holds no zero (R67). -/
theorem reset_cr_set (c l : Nat) (hl : l < 4) : State.reset.cr c l 0x000 = BitVec.ofNat 64 l ∧ State.reset.cr c l 0x001 = BitVec.ofNat 64 l
    ∧ State.reset.cr c l 0x049 = 2048 * 2 ^ 16 + 16 ∧ State.reset.cr c l 0x101 = 64 := by
  refine ⟨?_, ?_, ?_, ?_⟩
  · interval_cases l <;> rfl
  · simp [State.cr, reset_core]
    rfl
  · simp [State.cr, reset_core]
    rfl
  · simp [State.cr, reset_core]
    rfl

/-- The control registers whose Reset column holds zero. -/
theorem reset_cr_zero (c l : Nat) : ∀ n ∈ [0x002, 0x005, 0x008, 0x009, 0x00A, 0x00B, 0x00C, 0x020, 0x021, 0x022, 0x023, 0x024, 0x025, 0x026,
    0x027, 0x028, 0x030, 0x031, 0x032, 0x033, 0x034, 0x048, 0x050, 0x051, 0x058, 0x059, 0x060, 0x110], State.reset.cr c l n = 0 := by
  simp only [List.forall_mem_cons, List.not_mem_nil, false_imp_iff, implies_true, and_true]
  refine ⟨?_, ?_, ?_, ?_, ?_, ?_, ?_, ?_, ?_, ?_, ?_, ?_, ?_, ?_, ?_, ?_, ?_, ?_, ?_, ?_, ?_, ?_, ?_, reset_cr_lease c l, ?_, ?_, ?_,
    reset_cr_snapctl c l⟩
  all_goals
    simp [State.cr, reset_core]
    rfl

end Sys2Proof.Laws.AtReset

namespace Sys2Proof
open Sys2Proof.Machine Sys2Proof.Laws.AtReset

/-- Settles O57. -/
theorem resetState : Obligations.ResetState := by
  unfold Obligations.ResetState
  exact ⟨rfl, fun a => (reset_memories_zero a).1, fun a => (reset_memories_zero a).2, ⟨rfl, rfl, rfl, rfl, rfl⟩, fun c => ⟨rfl, rfl, rfl⟩,
    fun c l r _ => start_registers l r, reset_cr_set, fun c l n _ hn => reset_cr_zero c l n hn, ⟨rfl, rfl, rfl⟩⟩

end Sys2Proof
end

section
/-! PROOF. An access to cluster memory: the order of its checks (R177), the bytes that it reads and writes (R4, R179), a guarded one (R199) and
one that meets an uncorrectable word (R219). -/
namespace Sys2Proof.Laws.ClusterAccess
open Sys2Proof.Machine

/-! ### The checks, in their order -/

section
variable {A : Word} {n align : Nat} {store : Bool} {s : State}

theorem checkRange_past (h : Config.clusterBytes ≤ A.toNat) :
    checkRange A n align store s = .error (.trap { cause := cLOCAL_RANGE, val := A }) s := by
  simp [checkRange, get_bind, h]

theorem checkRange_unaligned (h : A.toNat < Config.clusterBytes) (ha : A.toNat % align ≠ 0) :
    checkRange A n align store s = .error (.trap { cause := cALIGN, val := A }) s := by
  simp [checkRange, get_bind, Nat.not_le.mpr h, ha]

theorem checkRange_over (h : A.toNat < Config.clusterBytes) (ha : A.toNat % align = 0)
    (hn : Config.clusterBytes < A.toNat + n ∨ s.inMailbox (clusterOf s.cur.1) A.toNat n = true) :
    checkRange A n align store s = .error (.trap { cause := cLOCAL_RANGE, val := A }) s := by
  by_cases hc : Config.clusterBytes < A.toNat + n
  · simp [checkRange, get_bind, Nat.not_le.mpr h, ha, hc]
  · simp [checkRange, get_bind, Nat.not_le.mpr h, ha, hc, hn.resolve_left hc]

theorem checkRange_locked (h : A.toNat < Config.clusterBytes) (ha : A.toNat % align = 0) (hn : A.toNat + n ≤ Config.clusterBytes)
    (hm : s.inMailbox (clusterOf s.cur.1) A.toNat n = false) (hl : s.lockedLocal (clusterOf s.cur.1) A.toNat n store = true) :
    checkRange A n align store s = .error (.trap { cause := cRANGE_LOCKED, val := A }) s := by
  simp [checkRange, get_bind, Nat.not_le.mpr h, ha, Nat.not_lt.mpr hn, hm, hl]

theorem checkRange_passes (h : A.toNat < Config.clusterBytes) (ha : A.toNat % align = 0) (hn : A.toNat + n ≤ Config.clusterBytes)
    (hm : s.inMailbox (clusterOf s.cur.1) A.toNat n = false) (hl : s.lockedLocal (clusterOf s.cur.1) A.toNat n store = false)
    (hp : s.firstAbsent (clusterOf s.cur.1) A.toNat n = none) : checkRange A n align store s = .ok A.toNat s := by
  simp [checkRange, get_bind, Nat.not_le.mpr h, ha, Nat.not_lt.mpr hn, hm, hl, hp]

theorem afterOwnAmo_passes {a : Nat} (h : s.ownAmo a n = false) : afterOwnAmo a n s = .ok ⟨⟩ s := by
  simp [afterOwnAmo, get_bind, h]

theorem checkLocal_of_error {e : Exc} (h : checkRange A n align store s = .error e s) : checkLocal A n align store s = .error e s := bind_error h

theorem checkLocal_passes {a : Nat} (h : checkRange A n align store s = .ok a s) (hw : s.ownAmo a n = false) :
    checkLocal A n align store s = .ok a s := by
  rw [checkLocal, bind_ok h, bind_ok (afterOwnAmo_passes hw)]
  rfl

end

/-! ### The bytes -/

theorem readN_lt (m : List Host.Cell) (a n : Nat) : Mem.readN m a n < 256 ^ n := by
  induction n generalizing a with
  | zero => simp [Mem.readN]
  | succ n ih =>
    have hb := (Mem.read m a).isLt
    have hr := ih (a + 1)
    rw [Mem.readN, Nat.pow_succ]
    omega

/-- Byte i of a number read is the byte at i (R4). -/
theorem byte_readN (m : List Host.Cell) (a n i : Nat) (h : i < n) : Mem.readN m a n / 256 ^ i % 256 = (Mem.read m (a + i)).toNat := by
  induction n generalizing a i with
  | zero => omega
  | succ n ih =>
    have hb := (Mem.read m a).isLt
    cases i with
    | zero =>
      simp only [Mem.readN, Nat.pow_zero, Nat.div_one, Nat.add_zero]
      omega
    | succ i =>
      rw [Mem.readN, Nat.pow_succ', ← Nat.div_div_eq_div_mul, show a + (i + 1) = a + 1 + i by omega, ← ih (a + 1) i (by omega)]
      congr 2
      omega

/-- A number written leaves its byte i at i. -/
theorem read_writeN (m : List Host.Cell) (a n x i : Nat) (hm : Mem.wf m = true) (h : i < n) :
    (Mem.read (Mem.writeN m a n x) (a + i)).toNat = x / 256 ^ i % 256 := by
  rw [← byte_readN _ a n i h, readN_writeN m a n x hm]
  have e : 256 ^ n = 256 ^ i * (256 * 256 ^ (n - i - 1)) := by
    rw [← Nat.pow_succ', ← Nat.pow_add]
    congr 1
    omega
  rw [e, Nat.mod_mul_right_div_self, Nat.mod_mul_right_mod]

/-! ### Loads and stores of one number -/

section
variable {a n x : Nat} {s : State}

/-- A guarded access is recorded in GUARDREC and leaves memory alone (R199). -/
theorem noteGuard_run (store : Bool) (a : Nat) (s : State) : ∃ t, noteGuard store a s = .ok ⟨⟩ t
    ∧ t.here.guardrec = guardRecord s.here.guardrec store false s.cur.2 a s.me.pc.toNat ∧ t.cmem = s.cmem := by
  refine ⟨s.modCore s.cur.1 fun k => { k with guardrec := guardRecord k.guardrec store false s.cur.2 a s.me.pc.toNat }, rfl, ?_, rfl⟩
  exact congrArg Core.guardrec (core_modCore s s.cur.1 _)

theorem scalarLoad_plain (hg : s.guarded (clusterOf s.cur.1) a = false) (hb : s.badLocal (clusterOf s.cur.1) a n = false) :
    scalarLoad a n s = .ok (s.cread (clusterOf s.cur.1) a n) (s.scrub (clusterOf s.cur.1) a n) := by
  simp [scalarLoad, get_bind, hg, hb]
  rfl

theorem scalarLoad_guarded (hg : s.guarded (clusterOf s.cur.1) a = true) : ∃ t, scalarLoad a n s = .ok 0 t
    ∧ t.here.guardrec = guardRecord s.here.guardrec false false s.cur.2 a s.me.pc.toNat ∧ t.cmem = s.cmem := by
  obtain ⟨t, e, hr⟩ := noteGuard_run false a s
  refine ⟨t, ?_, hr⟩
  simp only [scalarLoad, get_bind, hg, if_true]
  exact bind_ok e

theorem scalarLoad_bad (hg : s.guarded (clusterOf s.cur.1) a = false) (hb : s.badLocal (clusterOf s.cur.1) a n = true) :
    scalarLoad a n s = .error (.trap { cause := cPOISON, val := w64 a, event := some a }) s := by
  simp [scalarLoad, get_bind, hg, hb]

theorem scalarStore_plain (hg : s.guarded (clusterOf s.cur.1) a = false) :
    scalarStore a n x s = .ok ⟨⟩ (s.cwrite (clusterOf s.cur.1) a n x) := by
  simp [scalarStore, get_bind, hg]

theorem scalarStore_guarded (hg : s.guarded (clusterOf s.cur.1) a = true) : ∃ t, scalarStore a n x s = .ok ⟨⟩ t
    ∧ t.cmem = s.cmem ∧ t.here.guardrec = guardRecord s.here.guardrec true false s.cur.2 a s.me.pc.toNat := by
  obtain ⟨t, e, hr, hm⟩ := noteGuard_run true a s
  refine ⟨t, ?_, hm, hr⟩
  simp [scalarStore, get_bind, hg, e]

end

end Sys2Proof.Laws.ClusterAccess

namespace Sys2Proof
open Sys2Proof.Machine Sys2Proof.Laws Sys2Proof.Laws.ClusterAccess

/-- Settles O14: each check in its turn, then the bytes. -/
theorem clusterMemoryAccess : Obligations.ClusterMemoryAccess := by
  unfold Obligations.ClusterMemoryAccess
  refine ⟨?_, ?_, ?_, ?_, ?_, ?_, ?_, ?_, ?_, ?_⟩
  · exact fun A n align store s h => checkLocal_of_error (checkRange_past h)
  · exact fun A n align store s h ha => checkLocal_of_error (checkRange_unaligned h ha)
  · exact fun A n align store s h ha hn => checkLocal_of_error (checkRange_over h ha hn)
  · exact fun A n align store s h ha hn hm hl => checkLocal_of_error (checkRange_locked h ha hn hm hl)
  · exact fun A n align store s h ha hn hm hl hp hw => checkLocal_passes (checkRange_passes h ha hn hm hl hp) hw
  · intro a n s hg hb
    exact ⟨_, scalarLoad_plain hg hb, readN_lt _ _ _, fun i hi => byte_readN _ _ _ _ hi⟩
  · exact fun a n s hg => scalarLoad_guarded hg
  · exact fun a n s hg hb => scalarLoad_bad hg hb
  · intro a n x s hg
    refine ⟨_, scalarStore_plain hg, ?_⟩
    rw [cwrite_cmem]
    exact ⟨fun hm i hi => read_writeN _ _ _ _ _ hm hi, fun b hb => read_writeN_ne _ _ _ _ _ hb, cwrite_eq _ _ _ _ _⟩
  · exact fun a n x s hg => scalarStore_guarded hg

end Sys2Proof
end

section
/-! PROOF. Control registers: the moves (R69, R112) and the fields that a write keeps (R67, R97, R105, R199, R225). -/
namespace Sys2Proof.Laws.ControlRegister
open Sys2Proof.Machine

/-! ### The moves -/

/-- A write to a register that is not LC, LS or LE takes effect at once. -/
theorem writeCr_at_once {n : BitVec 12} {v : Word} {s : State} (h : n.toNat < 0x20 ∨ 0x28 < n.toNat) :
    writeCr n v s = .ok .seq (s.setCr s.cur.1 s.cur.2 n.toNat v) := by
  rw [writeCr, get_bind, if_neg (by omega)]
  rfl

/-- A write to LC, LS or LE is left to the end check (R112). -/
theorem writeCr_later {n : BitVec 12} {v : Word} {s : State} (h1 : 0x20 ≤ n.toNat) (h2 : n.toNat ≤ 0x28) :
    writeCr n v s = .ok (.loopReg n.toNat v) s := by
  rw [writeCr, get_bind, if_pos ⟨h1, h2⟩]
  rfl

section
variable {d a : BitVec 5} {n : BitVec 12} {sc : BitVec 3} {s s1 t u : State} {v : Word} {f : Flow}

theorem exec_mtc (hr : readS a s = .ok v t) (hw : writeCr n v t = .ok f u) :
    exec (.mtc a n sc) s = .next (settle 4 sc.toNat s (.ok f u)) :=
  instrJ_ok (by rw [bind_ok hr, hw])

theorem exec_mxc (hr : readS a s = .ok v s1) (hd : writeSL d (s.cr s.cur.1 s.cur.2 n.toNat) 1 s1 = .ok ⟨⟩ t) (hw : writeCr n v t = .ok f u) :
    exec (.mxc d a n sc) s = .next (settle 4 sc.toNat s (.ok f u)) :=
  instrJ_ok (by rw [bind_ok hr, bind_ok hd, hw])

end

/-! ### The fields -/

/-- A 22-bit address without its lowest bit, as a word. -/
theorem address_field (x : Nat) : (BitVec.ofNat 22 (x / 2 * 2)).toNat = x % 2 ^ 22 / 2 * 2 := by
  rw [BitVec.toNat_ofNat]
  omega

theorem address_word (x : Nat) : (BitVec.ofNat 22 (x / 2 * 2)).setWidth 64 = BitVec.ofNat 64 (x % 2 ^ 22 / 2 * 2) := by
  apply BitVec.eq_of_toNat_eq
  rw [BitVec.toNat_setWidth, address_field, BitVec.toNat_ofNat]

/-- The low bits of a word, as a word. -/
theorem low_word (v : Word) (n : Nat) : (v.setWidth n).setWidth 64 = BitVec.ofNat 64 (v.toNat % 2 ^ n) := by
  apply BitVec.eq_of_toNat_eq
  simp

/-- The two halves of BALCFG, as they are read. -/
theorem balance_halves (x : Nat) : x / 2 ^ 16 % 2 ^ 16 * 2 ^ 16 + x % 2 ^ 16 = x % 2 ^ 32 := by omega

theorem status_sbc (x : Ctx) (l : Nat) (v : Word) (h : l < 4) :
    ({ x with sbc := v.getLsbD 2 } : Ctx).status l
      = BitVec.ofNat 64 ((if x.td then 16 else 0) + (if x.rtc then 8 else 0) + v.toNat / 4 % 2 * 4 + l) := by
  have hb : (if v.getLsbD 2 then 4 else 0) = v.toNat / 4 % 2 * 4 := by
    rw [BitVec.getLsbD, Nat.testBit, Nat.shiftRight_eq_div_pow]
    split <;> simp_all
  simp only [Ctx.status, hb, Nat.mod_eq_of_lt h, w64]

/-! ### What a core shows besides its contexts -/

section
variable (k : Core) (l : Nat) (x : Ctx)

@[simp] theorem setBank_cycle : (k.setBank l x).cycle = k.cycle := rfl
@[simp] theorem setBank_churnDepth : (k.setBank l x).churnDepth = k.churnDepth := rfl
@[simp] theorem setBank_rowprog : (k.setBank l x).rowprog = k.rowprog := rfl
@[simp] theorem setBank_frameq : (k.setBank l x).frameq = k.frameq := rfl
@[simp] theorem setBank_dispbase : (k.setBank l x).dispbase = k.dispbase := rfl
@[simp] theorem setBank_mbxcfg : (k.setBank l x).mbxcfg = k.mbxcfg := rfl
@[simp] theorem setBank_rulebase : (k.setBank l x).rulebase = k.rulebase := rfl
@[simp] theorem setBank_snapAllow : (k.setBank l x).snapAllow = k.snapAllow := rfl

end

/-! ### What is read after a write -/

section
variable (s : State) (c l n : Nat) (v : Word)

/-- What a write keeps is read back. -/
theorem cr_setCr (h : l < 4) :
    (s.setCr c l 0x000 v).cr c l 0x000 = BitVec.ofNat 64 ((if (s.ctx c l).td then 16 else 0) + (if (s.ctx c l).rtc then 8 else 0)
        + v.toNat / 4 % 2 * 4 + l)
    ∧ (s.setCr c l 0x001 v).cr c l 0x001 = BitVec.ofNat 64 (min (v.toNat % 4) l)
    ∧ (s.setCr c l 0x002 v).cr c l 0x002 = BitVec.ofNat 64 (min (v.toNat % 512) 256)
    ∧ (s.setCr c l 0x008 v).cr c l 0x008 = BitVec.ofNat 64 (v.toNat % 2 ^ 22 / 2 * 2)
    ∧ (s.setCr c l 0x009 v).cr c l 0x009 = BitVec.ofNat 64 (v.toNat % 2 ^ 16)
    ∧ (s.setCr c l 0x00A v).cr c l 0x00A = v
    ∧ (s.setCr c l 0x00B v).cr c l 0x00B = BitVec.ofNat 64 (v.toNat % 2 ^ 22 / 2 * 2)
    ∧ (s.setCr c l 0x030 v).cr c l 0x030 = v ∧ (s.setCr c l 0x031 v).cr c l 0x031 = v
    ∧ (s.setCr c l 0x032 v).cr c l 0x032 = BitVec.ofNat 64 (min (v.toNat % 256) 128)
    ∧ (s.setCr c l 0x033 v).cr c l 0x033 = BitVec.ofNat 64 (v.toNat % 2 ^ 22)
    ∧ (s.setCr c l 0x034 v).cr c l 0x034 = BitVec.ofNat 64 (v.toNat % 2 ^ 22)
    ∧ (s.setCr c l 0x040 v).cr c l 0x040 = BitVec.ofNat 64 (v.toNat % 16)
    ∧ (s.setCr c l 0x049 v).cr c l 0x049 = BitVec.ofNat 64 (v.toNat % 2 ^ 32)
    ∧ (s.setCr c l 0x058 v).cr c l 0x058 = BitVec.ofNat 64 (v.toNat % 2 ^ 32)
    ∧ (s.setCr c l 0x059 v).cr c l 0x059 = BitVec.ofNat 64 (v.toNat % 2 ^ 32)
    ∧ (s.setCr c l 0x060 v).cr c l 0x060 = s.cr c l 0x060 &&& ~~~(v &&& 0xC000000000000000) := by
  refine ⟨?_, ?_, ?_, ?_, ?_, ?_, ?_, ?_, ?_, ?_, ?_, ?_, ?_, ?_, ?_, ?_, ?_⟩
  · rw [← status_sbc _ _ _ h]
    simp [State.cr, State.setCr, Ctx.setCr]
  · simp [State.cr, State.setCr, Ctx.setCr, w64]
  · simp [State.cr, State.setCr, Ctx.setCr, w64]
  · rw [← address_word]
    simp [State.cr, State.setCr, Ctx.setCr]
  · rw [← low_word]
    simp [State.cr, State.setCr, Ctx.setCr]
  · simp [State.cr, State.setCr, Ctx.setCr]
  · rw [← address_word]
    simp [State.cr, State.setCr, Ctx.setCr]
  · simp [State.cr, State.setCr, Ctx.setCr]
  · simp [State.cr, State.setCr, Ctx.setCr]
  · simp [State.cr, State.setCr, Ctx.setCr, w64]
  · rw [← low_word]
    simp [State.cr, State.setCr, Ctx.setCr]
  · rw [← low_word]
    simp [State.cr, State.setCr, Ctx.setCr]
  · rw [show 16 = 2 ^ 4 from rfl, ← low_word]
    simp [State.cr, State.setCr, Ctx.setCr]
  · rw [← balance_halves]
    simp [State.cr, State.setCr, Core.setBalcfg, w64]
  · rw [← low_word]
    simp [State.cr, State.setCr, Ctx.setCr]
  · rw [← low_word]
    simp [State.cr, State.setCr, Ctx.setCr]
  · simp [State.cr, State.setCr, Core.clearGuard, w64]

theorem gangOf_modCtx (f : Ctx → Ctx) : (s.modCtx c l f).gangOf c = s.gangOf c := by simp [State.gangOf, Core.setBank]

/-- A read-only register keeps its value. -/
theorem cr_setCr_readOnly : ∀ n ∈ [0x003, 0x004, 0x005, 0x00C, 0x010, 0x011, 0x012, 0x013, 0x014, 0x015, 0x016, 0x017, 0x048, 0x050, 0x051,
      0x070, 0x100, 0x101, 0x102, 0x110], (s.setCr c l n v).cr c l n = s.cr c l n := by
  simp only [List.forall_mem_cons, List.not_mem_nil, false_imp_iff, implies_true, and_true]
  and_intros
  all_goals
    simp [State.cr, State.setCr, Ctx.setCr, State.coreId, State.gangWord, State.leaseWord, State.snapctl, gangOf_modCtx, State.ctx]

end

/-- A loop register holds what was written: LC the word, LS and LE an even address. -/
theorem setLoop_fields (x : Ctx) (n : Nat) (v : Word) (h : n < 3) : Map.getD (x.setLoop (0x20 + n) v).lc n 0 = v
    ∧ (Map.getD (x.setLoop (0x23 + n) v).ls n 0).toNat = v.toNat % 2 ^ 22 / 2 * 2
    ∧ (Map.getD (x.setLoop (0x26 + n) v).le n 0).toNat = v.toNat % 2 ^ 22 / 2 * 2 := by
  refine ⟨?_, ?_, ?_⟩
  · simp [Ctx.setLoop, show 0x20 + n < 0x23 by omega]
  · simp only [Ctx.setLoop, show ¬ 0x23 + n < 0x23 by omega, show 0x23 + n < 0x26 by omega, if_true, if_false, Nat.add_sub_cancel_left, getD_set,
      address_field]
  · simp only [Ctx.setLoop, show ¬ 0x26 + n < 0x23 by omega, show ¬ 0x26 + n < 0x26 by omega, if_false, Nat.add_sub_cancel_left, getD_set,
      address_field]

end Sys2Proof.Laws.ControlRegister

namespace Sys2Proof
open Sys2Proof.Machine Sys2Proof.Laws Sys2Proof.Laws.ControlRegister

theorem controlRegisters_hold : Claims.controlRegisters := by
  unfold Claims.controlRegisters
  refine ⟨?_, ?_, ?_, ?_, ?_⟩
  · exact fun d n sc s t h => instr_ok h
  · exact fun a n sc s t v hr hn => exec_mtc hr (writeCr_at_once hn)
  · exact fun a n sc s t v hr h1 h2 => exec_mtc hr (writeCr_later h1 h2)
  · exact fun d a n sc s s1 t v hr hd hn => exec_mxc hr hd (writeCr_at_once hn)
  · exact fun d a n sc s s1 t v hr hd h1 h2 => exec_mxc hr hd (writeCr_later h1 h2)

/-- Settles O12: the moves, then the fields. -/
theorem controlRegisterAccess : Obligations.ControlRegisterAccess := by
  unfold Obligations.ControlRegisterAccess Claims.controlFields
  exact ⟨controlRegisters_hold, fun s c l v h => cr_setCr s c l v h, fun s c l n v hn => cr_setCr_readOnly s c l v n hn, setLoop_fields⟩

end Sys2Proof
end

section
/-! PROOF. Pre-emption, images, restore and time slices (R49, R236 to R239, R386). -/
namespace Sys2Proof.Laws.Preemption
open Sys2Proof.Machine

/-! ### Maps whose values change -/

theorem get_map {α β : Type} (m : Map α) (f : Nat → α → β) (i : Nat) :
    Map.get? (m.map fun e => (e.1, f e.1 e.2)) i = (Map.get? m i).map (f i) := by
  induction m with
  | nil => rfl
  | cons e r ih =>
    obtain ⟨k, v⟩ := e
    simp only [List.map_cons, Map.get?]
    split
    · next h => rw [h, Option.map_some]
    · exact ih

theorem getD_map {α β : Type} (m : Map α) (f : Nat → α → β) (i : Nat) (d : α) :
    Map.getD (m.map fun e => (e.1, f e.1 e.2)) i (f i d) = f i (Map.getD m i d) := by
  rw [Map.getD, get_map, Map.getD]
  cases Map.get? m i <;> rfl

/-- A change of some of a map's values. -/
theorem get_mapIf {α : Type} (m : Map α) (p : Nat × α → Bool) (f : α → α) (i : Nat) :
    Map.get? (m.map fun e => if p e then (e.1, f e.2) else e) i = (Map.get? m i).map fun x => if p (i, x) then f x else x := by
  rw [← get_map m (fun k x => if p (k, x) then f x else x) i]
  congr 1
  refine List.map_congr_left fun e _ => ?_
  obtain ⟨k, v⟩ := e
  dsimp only
  split <;> rfl

/-! ### The request (R236) -/

/-- The gangs that a request to gang gi, g, reaches: it, and those of its job when it is one of an XGANG. -/
def asked (gi : Nat) (g : Gang) (e : Nat × Gang) : Bool :=
  (decide (e.1 = gi) || (g.xgang && decide (e.2.job = g.job))) && decide (e.2.st = .running)

theorem get_preempt (s : State) (gi k : Nat) {g : Gang} (hg : Map.get? s.gangs gi = some g) : Map.get? (s.preempt gi).gangs k
    = (Map.get? s.gangs k).map fun x => if asked gi g (k, x) then { x with st := .preempting } else x := by
  rw [← get_mapIf s.gangs (asked gi g) (fun x => { x with st := .preempting }) k]
  simp only [State.preempt, hg]
  rfl

/-- A running gang that is asked is to halt. -/
theorem get_preempt_self (s : State) (gi : Nat) {g : Gang} (hg : Map.get? s.gangs gi = some g) (hr : g.st = .running) :
    Map.get? (s.preempt gi).gangs gi = some { g with st := .preempting } := by
  rw [get_preempt s gi gi hg, hg, Option.map_some, if_pos (by simp [asked, hr])]

/-- A request lets no gang run that did not. -/
theorem runs_preempt (s : State) (gi k : Nat) (h : s.runs k = false) : (s.preempt gi).runs k = false := by
  cases hg : Map.get? s.gangs gi with
  | none => simpa only [State.preempt, hg] using h
  | some g =>
    rw [State.runs] at h
    rw [State.runs, get_preempt s gi k hg]
    cases hk : Map.get? s.gangs k with
    | none => rfl
    | some x =>
      rw [hk] at h
      simp only [Option.map_some, Option.getD_some]
      split
      · rfl
      · exact h

theorem not_runs_preempt_self (s : State) (gi : Nat) : (s.preempt gi).runs gi = false := by
  by_cases hr : s.runs gi = true
  · have hr' := hr
    unfold State.runs at hr'
    cases hg : Map.get? s.gangs gi with
    | none => simp [hg] at hr'
    | some g =>
      rw [hg] at hr'
      rw [State.runs, get_preempt_self s gi hg (by simpa using hr')]
      rfl
  · exact runs_preempt s gi gi (Bool.eq_false_iff.mpr hr)

theorem preempt_mod (s : State) (gi : Nat) : (s.preempt gi).mod = s.mod := by
  unfold State.preempt
  split <;> rfl

/-- A time slice parks every gang that it names (R239). -/
theorem foldl_preempt (l : List Nat) (s : State) : (l.foldl (fun t g => t.preempt g) s).mod = s.mod
    ∧ ∀ k, s.runs k = false ∨ k ∈ l → (l.foldl (fun t g => t.preempt g) s).runs k = false := by
  induction l generalizing s with
  | nil => exact ⟨rfl, fun k hk => hk.resolve_right (List.not_mem_nil)⟩
  | cons g r ih =>
    obtain ⟨hm, hr⟩ := ih (s.preempt g)
    refine ⟨hm.trans (preempt_mod s g), fun k hk => hr k ?_⟩
    rcases hk with hk | hk
    · exact .inl (runs_preempt s g k hk)
    · rcases List.mem_cons.mp hk with rfl | hk
      · exact .inl (not_runs_preempt_self s k)
      · exact .inr hk

/-! ### The halt of a core (R237) -/

/-- A rewrite that ends leaves what a core shows besides its contexts. -/
theorem halting_stopLinks (s : State) (c : Nat) (p : Ctx → Bool) : ((s.stopLinks c p).core c).halting = (s.core c).halting
    ∧ ((s.stopLinks c p).core c).haltLeft = (s.core c).haltLeft ∧ ((s.stopLinks c p).core c).lateHalt = (s.core c).lateHalt := by
  unfold State.stopLinks
  generalize count 0 4 = l
  induction l generalizing s with
  | nil => exact ⟨rfl, rfl, rfl⟩
  | cons l r ih =>
    simp only [List.foldl_cons]
    obtain ⟨h1, h2, h3⟩ := ih (if p (s.ctx c l) then s.stopLink c l else s)
    have hk : ∀ t, t = (if p (s.ctx c l) then s.stopLink c l else s) → (t.core c).halting = (s.core c).halting
        ∧ (t.core c).haltLeft = (s.core c).haltLeft ∧ (t.core c).lateHalt = (s.core c).lateHalt := by
      rintro t rfl
      split
      · unfold State.stopLink
        split
        · simp [Core.setBank]
        · exact ⟨rfl, rfl, rfl⟩
      · exact ⟨rfl, rfl, rfl⟩
    obtain ⟨k1, k2, k3⟩ := hk _ rfl
    exact ⟨h1.trans k1, h2.trans k2, h3.trans k3⟩

/-- The cycles of the late halt are the least whose time is not less than what is left (R49, R236). -/
theorem rtcHaltCycles_bounds (s : State) (c : Nat) : (s.core c).haltLeft * s.mhzOf c ≤ s.rtcHaltCycles c * 1000000
    ∧ s.rtcHaltCycles c * 1000000 < (s.core c).haltLeft * s.mhzOf c + 1000000 := by
  unfold State.rtcHaltCycles
  generalize (s.core c).haltLeft * s.mhzOf c = n
  omega

/-- A clock change re-times every core that is halting. -/
theorem core_retune (s : State) (f : Module → Module) (c : Nat) :
    (s.retune f).core c = (s.core c).retuned (s.mhzOf c) ((s.modMod f).mhzOf c) :=
  getD_map s.cores (fun i k => k.retuned (s.mhzOf i) ((s.modMod f).mhzOf i)) c Core.idle

theorem retuned_halting {k : Core} {h old new : Nat} (hk : k.halting = some h) (hn : old ≠ new) :
    k.retuned old new = { k with halting := some k.cycle, haltLeft := k.haltLeft - (k.cycle - h) * 1000000 / old } := by
  simp [Core.retuned, hk, hn]

/-- Below the power limit, an island gets the point that it is given (R401). -/
theorem mhz_of_point (s : State) (i : Nat) (point : DvfsPoint) (w temp c : Nat) (hw : w < 4200) (hc : quadOf c = i) :
    (s.modMod fun m => { m with islands := Map.set m.islands i (point.mhz, point.mv) }.measured w temp).mhzOf c = point.mhz := by
  subst hc
  simp [State.mhzOf, State.modMod, Module.measured, hw]

theorem mem_count {l a n : Nat} : l ∈ count a n ↔ a ≤ l ∧ l < a + n := by
  induction n generalizing a with
  | zero => simp [count]
  | succ n ih =>
    rw [count, List.mem_cons, ih]
    omega

/-- A run-to-completion routine that is still under way lets the late halt come (R237). -/
theorem any_rtc {k : Core} {l : Nat} (hl : l < 4) (hr : (k.bank l).rtc = true) (hs : (k.bank l).st = .ready) :
    ((count 0 4).any fun l => (k.bank l).rtc && k.active l) = true := by
  rw [List.any_eq_true]
  exact ⟨l, mem_count.mpr (by omega), by simp [hr, Core.active, hs]⟩

/-! ### The image (R238) -/

/-- The books of the module: its gangs, and what the VALE holds. -/
def SameBooks (s t : State) : Prop := t.gangs = s.gangs ∧ t.vale = s.vale

theorem SameBooks.trans {s t u : State} (h : SameBooks s t) (g : SameBooks t u) : SameBooks s u := ⟨g.1.trans h.1, g.2.trans h.2⟩

theorem sameBooks_foldl {β : Type} {f : State → β → State} (h : ∀ s b, SameBooks s (f s b)) (l : List β) (s : State) :
    SameBooks s (l.foldl f s) := by
  induction l generalizing s with
  | nil => exact ⟨rfl, rfl⟩
  | cons b r ih => exact (h s b).trans (ih _)

theorem sameBooks_heal (s : State) (k a n : Nat) : SameBooks s (s.heal k a n) := by
  unfold State.heal
  split <;> exact ⟨rfl, rfl⟩

theorem sameBooks_noteWrite (s : State) (k a n : Nat) : SameBooks s (s.noteWrite k a n) := by
  unfold State.noteWrite
  split <;> exact ⟨rfl, rfl⟩

theorem sameBooks_cmem (s : State) (m : List Host.Cell) : SameBooks s { s with cmem := m } := ⟨rfl, rfl⟩
theorem sameBooks_phys (s : State) (m : List Host.Cell) : SameBooks s { s with phys := m } := ⟨rfl, rfl⟩
theorem sameBooks_badPhys (s : State) (l : List Nat) : SameBooks s { s with badPhys := l } := ⟨rfl, rfl⟩
theorem sameBooks_sectors (s : State) (m : Map Nat) : SameBooks s { s with sectors := m } := ⟨rfl, rfl⟩
theorem sameBooks_freeCtr (s : State) (n : Nat) : SameBooks s { s with freeCtr := n } := ⟨rfl, rfl⟩
theorem sameBooks_modSlice (s : State) (n : Nat) (f : Slice → Slice) : SameBooks s (s.modSlice n f) := ⟨rfl, rfl⟩

theorem sameBooks_writeDispatch (s : State) (c : Nat) : SameBooks s (s.writeDispatch c) := by
  unfold State.writeDispatch State.cwriteBytes
  exact ((sameBooks_cmem s _).trans (sameBooks_heal _ _ _ _)).trans (sameBooks_noteWrite _ _ _ _)

theorem sameBooks_freshSector (s : State) (x : Loc) : SameBooks s (s.freshSector x) := by
  fun_cases State.freshSector s x with
  | case1 => exact ⟨rfl, rfl⟩
  | case2 n _ s1 =>
    refine SameBooks.trans (t := s1) ?_ (sameBooks_sectors _ _)
    subst s1
    split
    · exact ((sameBooks_phys s _).trans (sameBooks_badPhys _ _)).trans (sameBooks_modSlice _ _ _)
    · exact ⟨rfl, rfl⟩

theorem sameBooks_putObjectByte (s : State) (asid : Nat) (t : Word) (b : Nat) (v : Byte) : SameBooks s (s.putObjectByte asid t b v) := by
  fun_cases State.putObjectByte s asid t b v with
  | case1 | case2 | case3 | case4 => exact ⟨rfl, rfl⟩
  | case5 => exact sameBooks_freshSector s _

theorem sameBooks_putImageBytes (s : State) (g : Gang) : SameBooks s (s.putImageBytes g) := by
  unfold State.putImageBytes
  extract_lets l
  clear_value l
  have h := sameBooks_foldl (f := fun t (q : Nat × Byte) => t.putObjectByte g.asid g.imageTA q.1 q.2)
    (fun t q => sameBooks_putObjectByte t g.asid g.imageTA q.1 q.2) ((count 0 l.length).zip l) s
  exact h.trans (sameBooks_freeCtr _ _)

/-- A gang whose image names its cores anew. -/
def renamed (f : Nat → Nat) (g : Gang) : Gang := { g with image := g.image.map (Image.rn f) }

theorem get_rn (s : State) (f : Nat → Nat) (gi : Nat) : Map.get? (s.rn f).gangs gi = (Map.get? s.gangs gi).map (renamed f) :=
  get_map s.gangs (fun _ => renamed f) gi

theorem get_modGang (s : State) (gi : Nat) (f : Gang → Gang) {x : Gang} (h : Map.get? s.gangs gi = some x) :
    Map.get? (s.modGang gi f).gangs gi = some (f x) := by
  simp only [State.modGang, h, get_set]

/-- The cores that a gang leaves are free. -/
theorem gang_freed (l : List Nat) (s : State) (c : Nat) (h : (s.core c).gang = none ∨ c ∈ l) :
    ((l.foldl (fun t c => t.modCore c Core.freed) s).core c).gang = none := by
  induction l generalizing s with
  | nil => exact h.resolve_right (List.not_mem_nil)
  | cons d r ih =>
    refine ih _ ?_
    by_cases hd : c = d
    · subst hd
      exact .inl (by rw [core_modCore]; rfl)
    · rw [core_modCore_ne _ _ _ _ hd]
      exact h.imp_right fun hm => (List.mem_cons.mp hm).resolve_left hd

theorem cores_freeClusters (l : List Nat) (s : State) (c : Nat) : (l.foldl (fun t k => t.modCluster k Cluster.freed) s).core c = s.core c := by
  induction l generalizing s with
  | nil => rfl
  | cons k r ih => exact ih _

theorem gang_vacate (s : State) (g : Gang) {c : Nat} (h : c ∈ g.cores) : ((s.vacate g).core c).gang = none := by
  have hc : (s.vacate g).core c = (g.cores.foldl (fun t c => t.modCore c Core.freed) s).core c := cores_freeClusters _ _ c
  rw [hc]
  exact gang_freed _ s c (.inr h)

theorem sameBooks_freed (s : State) (g : Gang) :
    SameBooks s (g.clusters.foldl (fun t k => t.modCluster k Cluster.freed) (g.cores.foldl (fun t c => t.modCore c Core.freed) s)) :=
  (sameBooks_foldl (f := fun t c => t.modCore c Core.freed) (fun _ _ => ⟨rfl, rfl⟩) g.cores s).trans
    (sameBooks_foldl (f := fun t k => t.modCluster k Cluster.freed) (fun _ _ => ⟨rfl, rfl⟩) g.clusters _)

theorem gangs_vacate (s : State) (g : Gang) : (s.vacate g).gangs = s.gangs := (sameBooks_freed s g).1
theorem told_vacate (s : State) (g : Gang) : (s.vacate g).vale.told = s.vale.told :=
  Eq.trans (b := (g.clusters.foldl (fun t k => t.modCluster k Cluster.freed) (g.cores.foldl (fun t c => t.modCore c Core.freed) s)).vale.told)
    rfl (congrArg Vale.told (sameBooks_freed s g).2)
theorem told_rn (s : State) (f : Nat → Nat) : (s.rn f).vale.told = s.vale.told := rfl

/-- A gang's state once its image is written: it has left its cores, and its gang is parked with the image. -/
def imageWritten (s : State) (gi : Nat) (g : Gang) : State :=
  let s1 := ((g.cores.foldl (fun t c => t.writeDispatch c) s).putImageBytes g).rn (parkName gi g)
  (((s1.dropParked gi).vacate g).modVale fun v => { v with told := v.told ++ [gi] }).modGang gi fun x =>
    { x with st := .parked, image := some (s1.imageOf gi g) }

theorem imageWritten_spec (s : State) (gi : Nat) (g : Gang) (hg : Map.get? s.gangs gi = some g) :
    (∃ h, Map.get? (imageWritten s gi g).gangs gi = some h ∧ h.st = .parked ∧ h.image.isSome = true)
      ∧ (∀ c ∈ g.cores, ((imageWritten s gi g).core c).gang = none) ∧ (imageWritten s gi g).vale.told = s.vale.told ++ [gi] := by
  unfold imageWritten
  extract_lets s1
  have hb := (sameBooks_foldl sameBooks_writeDispatch g.cores s).trans (sameBooks_putImageBytes _ g)
  have h1 : Map.get? s1.gangs gi = some (renamed (parkName gi g) g) := by
    rw [get_rn, hb.1, hg]
    rfl
  have h2 : Map.get? (((s1.dropParked gi).vacate g).modVale fun v => { v with told := v.told ++ [gi] }).gangs gi
      = some (renamed (parkName gi g) g) := (congrArg (Map.get? · gi) (gangs_vacate _ g)).trans h1
  refine ⟨⟨_, get_modGang _ gi _ h2, rfl, rfl⟩, fun c hc => ?_, ?_⟩
  · rw [core_modGang, core_modVale]
    exact gang_vacate _ g hc
  · rw [modGang_vale]
    have ht : s1.vale.told = s.vale.told := (told_rn _ _).trans (congrArg Vale.told hb.2)
    exact (congrArg (· ++ [gi]) (told_vacate (s1.dropParked gi) g)).trans (congrArg (· ++ [gi]) ht)

/-! ### The restore (R239) -/

/-- A gang that its job resumes with runs, or waits for the others. -/
theorem get_resumeJob (s : State) (gi : Nat) (g : Gang) {h : Gang} (hg : Map.get? s.gangs gi = some h) (hs : h.st = .restored) :
    Map.get? (s.resumeJob gi g).gangs gi = some h ∨ Map.get? (s.resumeJob gi g).gangs gi = some { h with st := .running } := by
  unfold State.resumeJob
  split
  · right
    have e := get_mapIf s.gangs (fun e => (decide (e.1 = gi) || (g.xgang && decide (e.2.job = g.job))) && decide (e.2.st = .restored))
      (fun x => { x with st := .running }) gi
    rw [hg, Option.map_some, if_pos (by simp [hs])] at e
    exact e
  · exact .inl hg

end Sys2Proof.Laws.Preemption

namespace Sys2Proof
open Sys2Proof.Machine Sys2Proof.Laws Sys2Proof.Laws.Preemption

/-- Settles O50: each event in its turn. -/
theorem gangPreemption : Obligations.GangPreemption := by
  unfold Obligations.GangPreemption Leads
  refine ⟨?_, ?_, ?_, ?_, ?_, ?_, ?_, ?_⟩
  · intro s gi g hg hr
    refine ⟨s.preempt gi, ?_, get_preempt_self s gi hg hr⟩
    change execPreemptionRequest gi s = _
    simp [execPreemptionRequest, State.runs, hg, hr, happen]
  · intro s c g hg hp hn
    obtain ⟨h1, h2, -⟩ := halting_stopLinks (s.setCore c { s.core c with halting := some (s.core c).cycle, haltLeft := haltWindow }) c
      fun x => !x.rtc
    rw [core_setCore] at h1 h2
    refine ⟨_, ?_, h1, h2⟩
    change execPreemptDistribution c s = _
    simp [execPreemptDistribution, State.preempting, hg, hp, hn, happen]
  · exact fun s c => rtcHaltCycles_bounds s c
  · intro s i mhz mv w temp c h hi h1 h2 hw _ hh hc hn
    refine ⟨s.retune fun m => { m with islands := Map.set m.islands i (mhz, mv) }.measured w temp, ?_, ?_⟩
    · change execIslandDvfs i ⟨mhz, mv⟩ w temp s = _
      simp only [execIslandDvfs]
      rw [if_pos ⟨hi, h1, h2, .inr hw⟩]
      rfl
    · rw [core_retune, mhz_of_point s i ⟨mhz, mv⟩ w temp c hw hc, retuned_halting hh (by rwa [State.mhzOf, hc])]
      exact ⟨rfl, by rw [State.mhzOf, hc]⟩
  · intro s c h l hh ht hl0 hl hr hs
    obtain ⟨-, -, h3⟩ := halting_stopLinks (s.setCore c { s.core c with lateHalt := true }) c fun x => x.rtc
    rw [core_setCore] at h3
    refine ⟨_, ?_, h3⟩
    change execRtcLateHalt c s = _
    simp only [execRtcLateHalt, hh]
    rw [if_pos ⟨ht, hl0, any_rtc hl hr hs⟩]
    rfl
  · intro s gi g hg hs ho
    refine ⟨imageWritten s gi g, ?_, imageWritten_spec s gi g hg⟩
    change execImageWrite gi s = _
    simp only [execImageWrite, hg, hs, ho]
    rfl
  · intro s gi g m cx cy hg hm hp hf hj hs
    have ha : (m.cores.any fun q => q.2.stop.isSome) = false := by simpa [List.any_eq_false] using hs
    obtain ⟨h, e⟩ : ∃ h : Gang, h = { g with px := 4 * cx, py := 2 * cy, st := .restored, image := none } := ⟨_, rfl⟩
    obtain ⟨u, hu⟩ : ∃ u : State, u = (s.rn (placeName gi h)).loadImage gi h (m.rn (placeName gi h)) := ⟨_, rfl⟩
    refine ⟨({ u with gangs := Map.set u.gangs gi h } : State).resumeJob gi h, ?_, ?_⟩
    · subst hu e
      change execGangRestore gi cx cy s = _
      simp [execGangRestore, hg, hm, hp, hf, hj, ha, happen]
    · rcases get_resumeJob { u with gangs := Map.set u.gangs gi h } gi h (get_set _ _ _) (by rw [e]) with h1 | h1
      · exact ⟨_, h1, by rw [e], by rw [e], by rw [e], by rw [e], by rw [e], .inr (by rw [e])⟩
      · exact ⟨_, h1, by rw [e], by rw [e], by rw [e], by rw [e], by rw [e], .inl rfl⟩
  · intro s instant gs ht
    obtain ⟨hm, hr⟩ := foldl_preempt gs (s.modMod fun m => { m with time := max m.time instant })
    refine ⟨_, ?_, congrArg Module.time hm, fun g hg _ => hr g (.inr hg)⟩
    change execTimeSliceSwitch instant gs s = _
    simp only [execTimeSliceSwitch, ht, if_true]
    rfl

end Sys2Proof
end

section
/-! PROOF. The module's events (R240, R377, R383 to R388, R398 to R401, R335, R340): the scale-out ports, snapshots, the host, bring-up and
attestation, power, and the registers that Vale and the stewards write. -/
namespace Sys2Proof.Laws.ModuleEvent
open Sys2Proof.Machine Sys2Proof.Laws.Preemption

/-! ### Lists -/

/-- The first element that meets a test, behind those that do not. -/
theorem findIdxFrom_append {α : Type} (p : α → Bool) (l r : List α) (x : α) (i : Nat) (hl : ∀ y ∈ l, p y = false) (hx : p x = true) :
    findIdxFrom p (l ++ x :: r) i = some (i + l.length) := by
  induction l generalizing i with
  | nil => simp [findIdxFrom, hx]
  | cons y l ih =>
    have hy := hl y List.mem_cons_self
    rw [List.cons_append, findIdxFrom, hy, if_neg (by decide), ih (i + 1) fun z hz => hl z (List.mem_cons_of_mem y hz), List.length_cons]
    congr 1
    omega

theorem mem_insert {l : List Nat} {x y : Nat} : y ∈ NatSet.insert l x ↔ y = x ∨ y ∈ l := by
  induction l with
  | nil => simp [NatSet.insert]
  | cons z r ih =>
    rw [NatSet.insert]
    split
    · simp
    · split
      · next h => simp [h]
      · simp only [List.mem_cons, ih]
        tauto

/-! ### Ports (R383, R384, R386) -/

/-- What an error of a lane leaves as it was. -/
def SameTraffic (p q : SoPort) : Prop :=
  q.delivered = p.delivered ∧ q.expect = p.expect ∧ q.crcerr = p.crcerr ∧ q.unacked = p.unacked ∧ q.asked = p.asked

theorem sameTraffic_laneErrors (l : List Nat) (now : Nat) (p : SoPort) : SameTraffic p (l.foldl (fun z k => z.laneError k now) p) := by
  induction l generalizing p with
  | nil => exact ⟨rfl, rfl, rfl, rfl, rfl⟩
  | cons k r ih => exact ih (p.laneError k now)

/-- An acknowledgement takes flits out of the replay buffer only. -/
theorem acked_traffic (p : SoPort) (n : Nat) : (p.acked n).delivered = p.delivered ∧ (p.acked n).expect = p.expect
    ∧ (p.acked n).crcerr = p.crcerr := by
  unfold SoPort.acked
  split <;> exact ⟨rfl, rfl, rfl⟩

theorem acked_found (p : SoPort) {n : Nat} {l r : List (Nat × BitVec 16 × BitVec 512)} {x : Nat × BitVec 16 × BitVec 512}
    (hp : p.unacked = l ++ x :: r) (hx : x.1 = n) (hl : ∀ y ∈ l, y.1 ≠ n) :
    p.acked n = { p with unacked := r, replaying := p.replaying.filter fun q => r.any fun y => decide (y.1 = q.2) } := by
  have hd : (l ++ x :: r).drop (l.length + 1) = r := by
    rw [← List.drop_drop, List.drop_left]
    rfl
  have hf := findIdxFrom_append (fun q : Nat × BitVec 16 × BitVec 512 => decide (q.1 = n)) l r x 0 (fun y hy => decide_eq_false (hl y hy))
    (decide_eq_true hx)
  simp only [SoPort.acked, hp, hf, Nat.zero_add, hd]

/-- A replay is over once no flit is left in it. -/
theorem filter_none_iff {a b : Nat} (r : List (Nat × BitVec 16 × BitVec 512)) :
    (some (a, b)).filter (fun q => r.any fun y => decide (y.1 = q.2)) = none ↔ ∀ y ∈ r, y.1 ≠ b := by
  simp only [Option.filter_some, ite_eq_right_iff, reduceCtorEq, imp_false, Bool.not_eq_true, List.any_eq_false, decide_eq_true_eq, ne_eq]

/-- The fields of a header (R383). -/
theorem header_fields (p : SoPort) (n : Nat) (k : BitVec 16) : flitSeq (p.header n k) = n % 2 ^ 24
    ∧ flitAck (p.header n k) = (p.expect + 2 ^ 24 - 1) % 2 ^ 24 ∧ flitType (p.header n k) = k := by
  have hk := k.isLt
  have hv : (p.header n k).toNat = n % 2 ^ 24 + (p.expect + 2 ^ 24 - 1) % 2 ^ 24 * 2 ^ 24 + k.toNat * 2 ^ 48 := by
    rw [SoPort.header, BitVec.toNat_ofNat, Nat.mod_eq_of_lt]
    omega
  refine ⟨?_, ?_, ?_⟩
  · rw [flitSeq, hv]
    omega
  · rw [flitAck, hv]
    omega
  · apply BitVec.eq_of_toNat_eq
    rw [flitType, BitVec.extractLsb'_toNat, hv, Nat.shiftRight_eq_div_pow]
    omega

theorem sent_congr {p q : SoPort} (he : q.expect = p.expect) (hw : q.width = p.width) : q.sent = p.sent := by
  funext x
  simp only [SoPort.sent, SoPort.header, he, hw]

/-- A replay sends its flits again, and remembers the first and the last of them. -/
theorem replay_spec (p : SoPort) (l : List (Nat × BitVec 16 × BitVec 512)) : (p.replay l).wire = p.wire ++ l.map p.sent
    ∧ (p.replay l).unacked = p.unacked ∧ (p.replay l).replays = p.replays ∧ (p.replay l).bad = p.bad ∧ (p.replay l).width = p.width
    ∧ (∀ a b, l.head? = some a → l.getLast? = some b → (p.replay l).replaying = some (a.1, b.1)) := by
  unfold SoPort.replay
  split
  · next a b ha hb =>
    refine ⟨rfl, rfl, rfl, rfl, rfl, fun c d hc hd => ?_⟩
    rw [ha] at hc
    rw [hb] at hd
    rw [Option.some.inj hc, Option.some.inj hd]
  · next h =>
    cases l with
    | nil => exact ⟨(List.append_nil _).symm, rfl, rfl, rfl, rfl, fun a b ha => by simp at ha⟩
    | cons x r => exact absurd List.getLast?_cons (h x _ rfl)

/-- A repaired lane is marked, and the port narrows (R384). -/
theorem repair_spec (p : SoPort) {k : Nat} (hk : k < 8) : (p.repair k).bad.getLsbD k = true ∧ (p.repair k).width = narrower p.width := by
  have hb : (p.bad ||| BitVec.ofNat 8 (2 ^ k)).getLsbD k = true := by
    rw [BitVec.getLsbD_or, BitVec.getLsbD_ofNat]
    simp [hk]
  unfold SoPort.repair
  dsimp only
  split
  · obtain ⟨-, -, -, h1, h2, -⟩ := replay_spec { p with width := narrower p.width, bad := p.bad ||| BitVec.ofNat 8 (2 ^ k),
                                                            due := NatSet.erase p.due k } p.unacked
    rw [h1, h2]
    exact ⟨hb, rfl⟩
  · exact ⟨hb, rfl⟩

/-! ### Snapshots (R240) -/

/-- The first trigger word of a source whose turn it is reaches the fabric. -/
theorem snapshotTrigger_first (s : State) {n : Nat} (w : BitVec 64) {l r : List SnapWord} {x : SnapWord} (hn : n ≠ 0)
    (hw : s.mod.snapWords = l ++ x :: r) (hl : ∀ y ∈ l, y.source ≠ n) (hx : x.source = n) (ho : ∀ y ∈ s.mod.snapWords, n ≤ y.source) :
    execSnapshotTrigger n w s = .next ((s.modMod fun m => { m with snapWords := removeAt m.snapWords l.length }).fabric x) := by
  have ha : (s.mod.snapWords.any fun y => decide (y.source < n)) = false := by
    simpa [List.any_eq_false] using ho
  have hf := findIdxFrom_append (fun y : SnapWord => decide (y.source = n)) l r x 0 (fun y hy => decide_eq_false (hl y hy)) (decide_eq_true hx)
  have hg : (l ++ x :: r)[l.length]? = some x := by simp
  rw [execSnapshotTrigger, if_neg hn, if_neg (by simp [ha]), hw, hf]
  simp only [Nat.zero_add, hg]
  rfl

theorem nodup_count (a n : Nat) : (count a n).Nodup := by
  induction n generalizing a with
  | zero => exact List.nodup_nil
  | succ n ih =>
    rw [count, List.nodup_cons, mem_count]
    exact ⟨by omega, ih (a + 1)⟩

/-- A change of each core of a list, once. -/
theorem core_foldl_modCore (f : Core → Core) (l : List Nat) (hl : l.Nodup) (s : State) (c : Nat) :
    (l.foldl (fun t c => t.modCore c f) s).core c = if c ∈ l then f (s.core c) else s.core c := by
  induction l generalizing s with
  | nil => rfl
  | cons d r ih =>
    obtain ⟨hd, hr⟩ := List.nodup_cons.mp hl
    rw [List.foldl_cons, ih hr]
    by_cases hc : c = d
    · subst hc
      rw [if_neg hd, if_pos List.mem_cons_self, core_modCore]
    · simp only [core_modCore_ne _ _ _ _ hc, List.mem_cons, hc, false_or]

theorem mod_foldl_modCore (f : Core → Core) (l : List Nat) (s : State) : (l.foldl (fun t c => t.modCore c f) s).mod = s.mod := by
  induction l generalizing s with
  | nil => rfl
  | cons c r ih => exact ih _

/-- What a change that is made to other blocks leaves. -/
def SameCores (s t : State) : Prop := t.cores = s.cores ∧ t.mod = s.mod

theorem sameCores_foldl {β : Type} {f : State → β → State} (h : ∀ s b, SameCores s (f s b)) (l : List β) (s : State) :
    SameCores s (l.foldl f s) := by
  induction l generalizing s with
  | nil => exact ⟨rfl, rfl⟩
  | cons b r ih => exact ⟨(ih _).1.trans (h s b).1, (ih _).2.trans (h s b).2⟩

/-- Every block latches; the cores show what they held (R240). -/
theorem snapshotLatch_spec (s : State) {d : Nat} (hd : s.mod.snapDue = some d) (hf : d < nextFrame s.mod.frame) :
    ∃ t : State, execSnapshotLatch s = .next t ∧ t.mod.snapDue = none ∧ t.mod.frame = max s.mod.frame d
      ∧ t.mod.snapSeq = (s.mod.snapSeq + 1) % 2 ^ 16
      ∧ ∀ c, c < Config.numCores → (t.core c).snap = some ((s.core c).latch (max s.mod.frame d)) := by
  unfold execSnapshotLatch
  rw [hd]
  dsimp -zeta only
  rw [if_neg (Nat.not_le.mpr hf)]
  extract_lets f s1 s2 s3 s4 s5
  have h1 := core_foldl_modCore (fun k => { k with snap := some (k.latch f) }) (count 0 Config.numCores) (nodup_count _ _) s
  have hm : s1.mod = s.mod := mod_foldl_modCore _ _ _
  have h2 : SameCores s1 s2 := sameCores_foldl (f := fun t c => t.modCluster c _) (fun _ _ => ⟨rfl, rfl⟩) _ _
  have h3 : SameCores s2 s3 := sameCores_foldl (f := fun t c => t.modQuad c _) (fun _ _ => ⟨rfl, rfl⟩) _ _
  have h4 : SameCores s3 s4 := sameCores_foldl (f := fun t c => t.modSlice c _) (fun _ _ => ⟨rfl, rfl⟩) _ _
  have h5 : SameCores s4 s5 := sameCores_foldl (f := fun t c => t.modPort c _) (fun _ _ => ⟨rfl, rfl⟩) _ _
  have hc : s5.cores = s1.cores := h5.1.trans (h4.1.trans (h3.1.trans h2.1))
  have hm5 : s5.mod = s.mod := h5.2.trans (h4.2.trans (h3.2.trans (h2.2.trans hm)))
  clear_value s5
  refine ⟨_, rfl, rfl, rfl, congrArg (fun m : Module => (m.snapSeq + 1) % 2 ^ 16) hm5, fun c hlt => ?_⟩
  have hk : s5.core c = s1.core c := congrArg (Map.getD · c Core.idle) hc
  rw [core_modMod, hk, h1, if_pos (mem_count.mpr ⟨by omega, by omega⟩)]

/-! ### Events of a port (R383, R384, R386) -/

/-- A lane's errors are not traffic, so what a port has received and keeps is that before the flit. -/
theorem linkFlitReceive_spec (s : State) (p : Nat) (h : BitVec 64) (x : BitVec 512) (crc : BitVec 32) (b : BitVec 8) (hw : (s.soPort p).width ≠ 0) :
    ∃ t : State, Leads (.linkFlitReceive p ⟨h, x⟩ crc b) s t
      ∧ (crc = flitCrc h x → flitSeq h = (s.soPort p).expect →
        (t.soPort p).delivered = (s.soPort p).delivered ++ [(flitSeq h, flitType h, x)]
        ∧ (t.soPort p).expect = (flitSeq h + 1) % 2 ^ 24 ∧ (t.soPort p).crcerr = (s.soPort p).crcerr)
      ∧ (crc = flitCrc h x → flitSeq h ≠ (s.soPort p).expect →
        (t.soPort p).delivered = (s.soPort p).delivered ∧ (t.soPort p).expect = (s.soPort p).expect)
      ∧ (crc ≠ flitCrc h x → (t.soPort p).delivered = (s.soPort p).delivered ∧ (t.soPort p).unacked = (s.soPort p).unacked
        ∧ (t.soPort p).asked = (s.soPort p).asked ++ [(s.soPort p).expect] ∧ (t.soPort p).awaited = some (s.soPort p).expect
        ∧ (t.soPort p).crcerr = min ((s.soPort p).crcerr + 1) (2 ^ 32 - 1)) := by
  change ∃ t, execLinkFlitReceive p ⟨h, x⟩ crc b s = .next t ∧ _
  simp only [execLinkFlitReceive, if_neg hw]
  obtain ⟨h1, h2, h3, h4, h5⟩ := sameTraffic_laneErrors ((count 0 8).filter fun k => b.getLsbD k) s.mod.frame (s.soPort p)
  generalize hq : ((count 0 8).filter fun k => b.getLsbD k).foldl (fun z k => z.laneError k s.mod.frame) (s.soPort p) = q at *
  obtain ⟨k1, k2, k3⟩ := acked_traffic q (flitAck h)
  by_cases hc : crc = flitCrc h x
  · simp only [if_pos hc]
    refine ⟨_, rfl, ?_, ?_, fun hn => absurd hc hn⟩
    · intro _ he
      simp only [soPort_modPort, hq, k2, h2, he, if_true, k1, h1, k3, h3]
      exact ⟨trivial, trivial, trivial⟩
    · intro _ he
      simp only [soPort_modPort, hq, k2, h2, he, if_false, k1, h1]
      exact ⟨trivial, trivial⟩
  · simp only [if_neg hc]
    refine ⟨_, rfl, fun hn => absurd hn hc, fun hn => absurd hn hc, fun _ => ?_⟩
    simp only [soPort_modPort, hq, h1, h2, h3, h4, h5]
    exact ⟨trivial, trivial, trivial, trivial, trivial⟩

/-- A repair that is due and has no replay to wait for is made (R384). -/
theorem laneRepair_spec (s : State) {p k : Nat} {f : Bool} (hw : (s.soPort p).width ≠ 0) (hd : k ∈ (s.soPort p).due)
    (hr : (s.soPort p).replaying = none ∧ (s.soPort p).awaited = none ∨ f = true) (hk : k < 8) :
    ∃ t : State, Leads (.laneRepair p k f) s t ∧ (t.soPort p).bad.getLsbD k = true ∧ (t.soPort p).width = narrower (s.soPort p).width := by
  have hg : ¬ ((s.soPort p).width = 0 ∨ (s.soPort p).due.contains k = false
      ∨ (((s.soPort p).replaying.isSome || (s.soPort p).awaited.isSome) && !f) = true) := by
    rcases hr with ⟨h1, h2⟩ | h1 <;> simp [*]
  have hp := repair_spec (s.soPort p) hk
  change ∃ t, execLaneRepair p k f s = .next t ∧ _
  simp only [execLaneRepair, if_neg hg]
  refine ⟨_, rfl, ?_⟩
  split
  · rw [soPort_modVale, soPort_modPort]
    exact hp
  · rw [soPort_modPort]
    exact hp

/-! ### Bring-up (R398, R399) -/

/-- A channel that fails to train is in the list of them. -/
theorem exists_bad {ch : BitVec 2} (h : ch ≠ 0) : ∃ k, k ∈ (count 0 2).filter fun k => ch.getLsbD k := by
  by_contra hn
  refine h (BitVec.eq_of_getLsbD_eq fun k hk => ?_)
  have hk2 : k ∉ (count 0 2).filter fun k => ch.getLsbD k := fun he => hn ⟨k, he⟩
  rw [List.mem_filter, mem_count] at hk2
  have hc : ch.getLsbD k = false := Bool.eq_false_iff.mpr fun he => hk2 ⟨by omega, he⟩
  rw [hc]
  exact BitVec.getLsbD_zero.symm

/-- A block that has calibrated is READY; it failed when it says so, and so has a slice a channel of which does not train (R398). -/
theorem blockCalibration_spec (s : State) {b : Nat} (f : Bool) (ch : BitVec 2) (hl : s.mod.locked = true) (hb : b < 7162) (hr : b ∉ s.mod.ready) :
    ∃ t : State, Leads (.blockCalibration b ⟨f, ch⟩) s t ∧ b ∈ t.mod.ready ∧ (f = true → b ∈ t.mod.fails)
      ∧ (6720 ≤ b → b < 6976 → (∀ k, k < 2 → (k ∈ (t.slice (b - 6720)).retired ↔ ch.getLsbD k = true)) ∧ (ch ≠ 0 → b ∈ t.mod.fails)) := by
  have hg : (s.mod.locked && decide (b < Config.numBlocks) && !s.mod.ready.contains b) = true := by
    have h : b < Config.numBlocks := hb
    simp [hl, h, hr]
  have hm (x : List Nat) (p : Bool) (hp : p = true) : b ∈ (if p then NatSet.insert x b else x) := by
    rw [if_pos hp]
    exact mem_insert.mpr (.inl rfl)
  change ∃ t, execBlockCalibration b ⟨f, ch⟩ s = .next t ∧ _
  simp only [execBlockCalibration, if_pos hg, blockSlice]
  by_cases hs : 6720 ≤ b ∧ b < 6976
  · simp only [if_pos hs]
    refine ⟨_, rfl, mem_insert.mpr (.inl rfl), fun h => hm _ _ (by simp [h]), fun _ _ => ⟨fun k hk => ?_, fun h => hm _ _ ?_⟩⟩
    · rw [slice_modSlice]
      simp only [Option.isSome_some, if_true, List.mem_filter, mem_count]
      exact ⟨fun h => h.2, fun h => ⟨by omega, h⟩⟩
    · obtain ⟨k, hk⟩ := exists_bad h
      simp [List.ne_nil_of_mem hk]
  · simp only [if_neg hs]
    exact ⟨_, rfl, mem_insert.mpr (.inl rfl), fun h => hm _ _ (by simp [h]), fun h1 h2 => absurd ⟨h1, h2⟩ hs⟩

/-- A firmware image is measured, and accepted or rejected (R398 step 4). -/
theorem firmwareVerify_spec (s : State) (m : List (BitVec 8)) (v : Nat) (hl : s.mod.locked = true) (hr : s.mod.ready.length = 7162)
    (hk : s.mod.fwok = false) (hf : s.mod.fwfail = false) : ∃ t : State, Leads (.firmwareVerify m v) s t
      ∧ t.mod.fwok = s.mod.accepts m v ∧ t.mod.fwfail = !s.mod.accepts m v
      ∧ t.mod.measure 0 = sha512 (digestBytes (s.mod.measure 0) ++ digestBytes (sha512 m)) := by
  refine ⟨s.modMod fun x => if x.accepts m v then { x.extend 0 (sha512 m) with fwok := true } else { x.extend 0 (sha512 m) with fwfail := true },
    ?_, ?_⟩
  · change execFirmwareVerify m v s = _
    have hn : s.mod.ready.length = Config.numBlocks := hr
    simp only [execFirmwareVerify, hl, hn, hk, hf]
    rfl
  · simp only [State.modMod]
    cases h : s.mod.accepts m v
    · exact ⟨hk, rfl, getD_set _ _ _ _⟩
    · exact ⟨rfl, hf, getD_set _ _ _ _⟩

/-- Vale's image is measured, and started or rejected (R398 step 6). -/
theorem valeLoad_spec (s : State) (m : List (BitVec 8)) (v : Nat) (hp : s.mod.pkg = true) (hv : s.mod.vale = false) (hf : s.mod.fwfail = false) :
    ∃ t : State, Leads (.valeLoad m v) s t ∧ t.mod.vale = s.mod.accepts m v ∧ t.mod.fwfail = !s.mod.accepts m v
      ∧ t.mod.measure 1 = sha512 (digestBytes (s.mod.measure 1) ++ digestBytes (sha512 m)) := by
  refine ⟨s.modMod fun x => if x.accepts m v then { x.extend 1 (sha512 m) with vale := true } else { x.extend 1 (sha512 m) with fwfail := true },
    ?_, ?_⟩
  · change execValeLoad m v s = _
    simp only [execValeLoad, hp, hv, hf]
    rfl
  · simp only [State.modMod]
    cases h : s.mod.accepts m v
    · exact ⟨hv, rfl, getD_set _ _ _ _⟩
    · exact ⟨rfl, hf, getD_set _ _ _ _⟩

/-! ### Power (R401) -/

/-- What a measurement leaves of the islands' frequencies. -/
theorem islands_measured (m : Module) (w temp : Nat) (hw : 4200 ≤ w) : ∀ e ∈ (m.measured w temp).islands, e.2.1 ≤ 1400 := by
  intro e he
  simp only [Module.measured, if_neg (Nat.not_lt.mpr hw), List.mem_map] at he
  obtain ⟨x, -, rfl⟩ := he
  exact min_le_right _ _

/-- An island keeps the point that it is given, at the power that this point may have. -/
theorem getD_islands_measured (m : Module) {i mhz mv w : Nat} (temp : Nat) (h : mhz = 1400 ∨ w < 4200) :
    Map.getD (({ m with islands := Map.set m.islands i (mhz, mv) } : Module).measured w temp).islands i (1400, 0) = (mhz, mv) := by
  unfold Module.measured
  split
  · exact getD_set _ _ _ _
  · next hw =>
    obtain rfl := h.resolve_right hw
    exact (getD_map (Map.set m.islands i (1400, mv)) (fun _ x => (min x.1 1400, x.2)) i (1400, 0)).trans (by simp [getD_set])

/-- The watts and the temperature of MODPOWER. -/
theorem powerWord_fields (m : Module) (w temp : Nat) : (m.powerWord w temp).toNat / 2 ^ 48 = w % 2 ^ 16
    ∧ (m.powerWord w temp).toNat / 2 ^ 40 % 256 = temp % 2 ^ 8 := by
  simp only [Module.powerWord, w64, BitVec.toNat_ofNat]
  omega

/-! ### Written registers (R8, R335, R340) -/

/-- A write to a register that has no unit to wait for. -/
theorem registerWrite_next (s : State) {r : RegSel} (v : BitVec 64) (h : s.regWaits r = false) :
    Leads (.registerWrite r v) s (s.writeReg r v) := by
  change execRegisterWrite r v s = _
  rw [execRegisterWrite, h]
  rfl

theorem registerWrite_waits (s : State) {r : RegSel} (v : BitVec 64) (h : s.regWaits r = true) : Leads (.registerWrite r v) s s := by
  change execRegisterWrite r v s = _
  rw [execRegisterWrite, h]
  rfl

/-- MAXPOST and MAXPULL of a refresh record are cleared by writing 1 (R340). -/
theorem refresh_write (y : Slice) {k : Nat} (v : Word) (hk : k < 2) : let r := Map.getD y.refresh k {}
    (y.write (0x20 + 8 * k) v).refresh = Map.set y.refresh k { r with
      maxPost := r.maxPost - (r.maxPost &&& v.toNat / 2 ^ 12 % 16), maxPull := r.maxPull - (r.maxPull &&& v.toNat / 2 ^ 8 % 16) } := by
  have hd : (0x20 + 8 * k - 0x20) / 8 = k := by omega
  rw [Slice.write, if_neg (by omega), if_neg (by omega), if_pos (by omega)]
  simp only [hd]

/-- Which accesses of the host are served (R388, R398). -/
theorem serves_iff (m : Module) (bar off : Nat) : m.serves bar off = true ↔
    ((if m.fwfail = true then bar = 0 else m.pkg = true) ∧ (bar = 0 ∧ off + 8 ≤ 2 ^ 16 ∨ bar = 2 ∧ off + 8 ≤ 2 ^ 24)) := by
  have hs : off + 8 ≤ barSize bar ↔ bar = 0 ∧ off + 8 ≤ 2 ^ 16 ∨ bar = 2 ∧ off + 8 ≤ 2 ^ 24 := by
    unfold barSize
    split
    · omega
    · split <;> omega
  rw [Module.serves, Bool.and_eq_true, decide_eq_true_iff, hs]
  cases m.fwfail <;> simp

end Sys2Proof.Laws.ModuleEvent

namespace Sys2Proof
open Sys2Proof.Machine Sys2Proof.Laws Sys2Proof.Laws.ModuleEvent

/-- Settles O51: each event and each register in its turn. -/
theorem moduleEvents : Obligations.ModuleEvents := by
  unfold Obligations.ModuleEvents
  refine ⟨?ptp, ?send, fun p n k x => ?_, linkFlitReceive_spec, ?replay, ?acked, fun s p k f hw hd hr hk => laneRepair_spec s hw hd hr hk,
    ?waits, fun s w => ⟨rfl, rfl⟩, ?trigger, fun s d hd hf => snapshotLatch_spec s hd hf, ?release, fun s => ⟨_, rfl, rfl, rfl, rfl, rfl⟩, ?pwrgood,
    fun s b f ch hl hb hr => blockCalibration_spec s f ch hl hb hr, fun s m v hl hr hk hf => firmwareVerify_spec s m v hl hr hk hf,
    fun s m v hp hv hf => valeLoad_spec s m v hp hv hf, ?doorbell, ?completion, ?quote, ?dvfs, ?therm, ?tick, ?allow, ?period, ?badPeriod, ?priv,
    ?refresh, ?others, ?root, ?rootWaits, ?record, ?control, ?power, serves_iff, ?unserved, ?bar0, ?bar2, ?free⟩
  case ptp =>
    intro s p x hw
    refine ⟨?_, ?_, fun y hy => ?_, ?_⟩
    · change execPtpMessage p ⟨0, x⟩ s = _
      simp only [execPtpMessage, if_neg hw]
      rfl
    · change execPtpMessage p ⟨1, x⟩ s = _
      simp only [execPtpMessage, if_neg hw]
      rfl
    · change execPtpMessage p ⟨2, x⟩ s = _
      simp only [execPtpMessage, if_neg hw, hy]
      rfl
    · change ∃ t, execPtpMessage p ⟨3, x⟩ s = .next t ∧ _
      simp only [execPtpMessage, if_neg hw]
      exact ⟨_, rfl, rfl⟩
  case send =>
    intro p x
    refine ⟨fun h => if_pos h, fun hw hl => if_neg ?_⟩
    omega
  · obtain ⟨h1, h2, h3⟩ := header_fields p n k
    exact ⟨h1, h2, h3, rfl, rfl, rfl⟩
  case replay =>
    intro s p n hw
    obtain ⟨h1, h2, h3, -, -, h4⟩ := replay_spec { s.soPort p with replays := min ((s.soPort p).replays + 1) (2 ^ 20 - 1) }
      (fromSeq n (s.soPort p).unacked)
    refine ⟨s.modPort p fun p => { p with replays := min (p.replays + 1) (2 ^ 20 - 1) }.replay (fromSeq n p.unacked), ?_, ?_⟩
    · change execReplayRequest p n s = _
      rw [execReplayRequest, if_neg hw]
      rfl
    · rw [soPort_modPort]
      exact ⟨h1, h2, h3, h4⟩
  case acked =>
    intro p n l x r hp hx hl
    rw [acked_found p hp hx hl]
    refine ⟨rfl, fun a b hr => ?_⟩
    rw [hr]
    exact filter_none_iff r
  case waits =>
    intro s p k h
    change execLaneRepair p k false s = _
    have hg : ((s.soPort p).replaying.isSome || (s.soPort p).awaited.isSome) = true := by
      simpa only [Bool.or_eq_true, Option.isSome_iff_ne_none] using h
    simp only [execLaneRepair, hg]
    rw [if_pos (.inr (.inr rfl))]
    rfl
  case trigger =>
    intro s n w l x r hn hw hl hx ho
    have h := snapshotTrigger_first s w hn hw hl hx ho
    refine ⟨fun ha => h.trans ?_, fun c k i ha => h.trans ?_⟩
    · simp only [State.fabric, ha]
    · simp only [State.fabric, ha]
      rfl
  case release =>
    intro s h1 h2
    refine ⟨s.modMod fun m => { m with snapHeld := false }, ?_, rfl⟩
    change execSnapshotRelease s = _
    simp only [execSnapshotRelease, h1, h2]
    rfl
  case pwrgood =>
    intro s h
    refine ⟨s.modMod fun m => { m with powered := true, locked := true, frame := 0 }, ?_, rfl, rfl, rfl⟩
    change execPwrgood s = _
    simp only [execPwrgood, h]
    rfl
  case doorbell =>
    intro s r
    refine ⟨fun h1 h2 => ⟨s.modVale fun v => { v with doorbells := v.doorbells ++ [r] }, ?_, rfl⟩, fun h => ?_⟩
    · change execDoorbell r s = _
      rw [execDoorbell, h1, h2]
      rfl
    · change execDoorbell r s = _
      rw [execDoorbell, if_neg (by rcases h with h | h <;> simp [h])]
      rfl
  case completion =>
    intro s r off e hv hr h8 ho
    have hg : (s.mod.vale && s.vale.doorbells.contains r && decide (off + 8 ≤ barSize 2) && decide (off % 8 = 0)) = true := by
      have h : off + 8 ≤ barSize 2 := ho
      simp [hv, hr, h8, h]
    change ∃ t, execCompletionEntry ⟨r, off, e⟩ s = .next t ∧ _
    rw [execCompletionEntry, if_pos hg]
    exact ⟨_, rfl, rfl, mem_insert.mpr (.inl rfl), get_set _ _ _⟩
  case quote =>
    intro s x hp
    change ∃ t, execAttestationQuote x s = .next t ∧ _
    rw [execAttestationQuote, if_pos hp]
    exact ⟨_, rfl, rfl⟩
  case dvfs =>
    intro s i mhz mv w temp hi h1 h2 hw
    change ∃ t, execIslandDvfs i ⟨mhz, mv⟩ w temp s = .next t ∧ _
    rw [execIslandDvfs, if_pos ⟨hi, h1, h2, hw⟩]
    exact ⟨_, rfl, getD_islands_measured _ _ hw, islands_measured _ _ _⟩
  case therm =>
    intro s temp ht
    change ∃ t, execThermtrip temp s = .next t ∧ _
    rw [execThermtrip, if_pos ht]
    exact ⟨_, rfl, rfl⟩
  case tick =>
    intro s n v
    refine ⟨_, registerWrite_next s v rfl, ?_⟩
    rw [State.writeReg, slice_modSlice]
    rfl
  case allow =>
    intro s c v
    refine ⟨_, registerWrite_next s v rfl, ?_⟩
    rw [State.writeReg, core_modCore]
  case period =>
    intro s v h1 h2
    refine ⟨_, registerWrite_next s v rfl, ?_⟩
    rw [State.writeReg, if_pos ⟨h1, h2⟩]
    rfl
  case badPeriod =>
    intro s v h
    refine (registerWrite_next s v rfl).trans ?_
    rw [State.writeReg, if_neg (by omega)]
  case priv => exact fun s n v => registerWrite_next s v rfl
  case refresh =>
    intro s n k v hk
    refine ⟨_, registerWrite_next s v rfl, ?_⟩
    rw [State.writeReg, slice_modSlice, refresh_write _ _ hk]
    exact get_set _ _ _
  case others =>
    intro s n off v h0 h1 h2 h3
    rw [Slice.write, if_neg h0, if_neg h1, if_neg (by omega)]
  case root =>
    intro s asid r v h
    exact ⟨registerWrite_next s v h, registerWrite_next s v h, registerWrite_next s v h, registerWrite_next s v h⟩
  case rootWaits => exact fun s asid r w v h => registerWrite_waits s v h
  case record => exact fun s asid r v => ⟨registerWrite_next s v rfl, registerWrite_next s v rfl⟩
  case control => exact fun s c l n v => registerWrite_next s v rfl
  case power =>
    intro s v
    refine ⟨_, registerWrite_next s v rfl, ?_, ?_, rfl, rfl⟩
    · refine (powerWord_fields _ _ _).1.trans ?_
      have hv := v.isLt
      omega
    · refine (powerWord_fields _ _ _).2.trans ?_
      omega
  case unserved =>
    intro s bar off v h
    refine ⟨?_, ?_⟩
    · change execHostBarAccess true bar off v s = _
      simp only [execHostBarAccess, h]
      rfl
    · change execHostBarAccess false bar off v s = _
      simp only [execHostBarAccess, h]
      rfl
  case bar0 =>
    intro s off v h
    change execHostBarAccess true 0 off v s = _
    simp only [execHostBarAccess, h]
    rfl
  case bar2 =>
    intro s off v h
    refine ⟨?_, fun x hx => ?_⟩
    · change execHostBarAccess true 2 off v s = _
      simp only [execHostBarAccess, h]
      rfl
    · change execHostBarAccess false 2 off v s = _
      simp only [execHostBarAccess, h, hx]
      rfl
  case free =>
    intro s bar off v h hb
    have hn : (if bar = 2 then Map.get? s.mod.bar2 (off / 8 * 8) else none) = none := by
      rcases hb with rfl | hb
      · rfl
      · rw [hb, ite_self]
    refine ⟨_, Config.hostRead s.freeCtr bar (off / 8 * 8), ?_, rfl⟩
    change execHostBarAccess false bar off v s = _
    simp only [execHostBarAccess, h, hn]
    rfl

end Sys2Proof
end

section
/-! PROOF. A core's cycle runs the instruction that the bytes at the PC decode to (R18, R31, R32, R39, R41, R50, R57). -/
namespace Sys2Proof.Laws.CoreStep
open Sys2Proof.Machine

/-! ### The turn of a core -/

/-- A core that has a context to issue begins its issue loop with that context. -/
theorem step_of_issuesNext {s : State} {c l : Nat} (h : IssuesNext s c l) : step s = issueLoop 4 c ((s.begun c).issue c l) := by
  obtain ⟨hlive, hturn, hcount, hrun, hdue, hlevel⟩ := h
  have hcycle : s.afterTake.coreTurn c = (s.begun c).issue c l := by
    simp only [State.begun] at hdue hlevel ⊢
    simp only [State.coreTurn, hcount, hrun, hdue, State.pick, hlevel, if_true, Option.isSome_none, Bool.false_eq_true, if_false]
  simp only [step, hlive, hturn, turn, hcycle, Bool.false_eq_true, if_false]

section
variable {s s1 : State} {c l : Nat} {b : List Byte} (hf : (s.running c l).fetch c ((s.running c l).ctx c l).pc.toNat = .bytes s1 b)
include hf

/-- An instruction within the budget of its handler is the candidate (R31). -/
theorem issue_run {i : Instr} {r : List Byte} (hd : decode b = .ok (i, r)) (hb : s1.me.rtc = true → s1.me.rtcCount < Config.rtcBudget) :
    s.issue c l = .run i s1 := by
  have hbudget : (s1.me.rtc && decide (Config.rtcBudget ≤ s1.me.rtcCount)) = false := by
    cases hr : s1.me.rtc with
    | false => rfl
    | true => simpa using hb hr
  unfold State.running at hf
  simp only [State.issue, hf, hd, hbudget, Bool.false_eq_true, if_false]

/-- Past the budget of its handler no instruction runs (R31). -/
theorem issue_overrun {i : Instr} {r : List Byte} (hd : decode b = .ok (i, r)) (hr : s1.me.rtc = true)
    (hb : Config.rtcBudget ≤ s1.me.rtcCount) : s.issue c l = .idle (s1.afterTrap { cause := cRTC_OVERRUN, val := s1.me.handler.setWidth 64 }) := by
  have hbudget : (s1.me.rtc && decide (Config.rtcBudget ≤ s1.me.rtcCount)) = true := by simp [hr, hb]
  unfold State.running at hf
  simp only [State.issue, hf, hd, hbudget, if_true]

/-- Bytes that decode to no instruction raise ILLEGAL (R57). -/
theorem issue_illegal {e : DecodeError} (hd : decode b = .error e) :
    s.issue c l = .idle (s1.afterTrap { cause := cILLEGAL, val := BitVec.ofNat 64 (Decode.leNat b) }) := by
  unfold State.running at hf
  simp only [State.issue, hf, hd]

end

/-! ### The candidate -/

theorem execute_free {i : Instr} {s : State} (h : s.heldBack i = false) : execute i s = exec i s := by
  rw [execute, h, if_neg (by decide)]

theorem execute_held {i : Instr} {s : State} (h : s.heldBack i = true) : execute i s = .next s.notEligible := by
  rw [execute, h, if_pos rfl]

theorem tried_notEligible (s : State) : s.notEligible.me.tried = true := by
  show (s.notEligible.ctx s.cur.1 s.cur.2).tried = true
  rw [State.notEligible, ctx_modCtx]

section
variable {i : Instr} {s : State} (n c : Nat)

theorem issueLoop_done {t : State} (h : execute i s = .next t) (ht : t.me.tried = false) : issueLoop (n + 1) c (.run i s) = .next t := by
  simp only [issueLoop, h, ht, Bool.false_eq_true, if_false]

theorem issueLoop_tried {t : State} (h : execute i s = .next t) (ht : t.me.tried = true) :
    issueLoop (n + 1) c (.run i s) = issueLoop n c (t.pick c) := by
  simp only [issueLoop, h, ht, if_true]

theorem issueLoop_fault {f : Fault} (h : execute i s = .fault f) : issueLoop (n + 1) c (.run i s) = .fault f := by
  simp only [issueLoop, h]

theorem issueLoop_refused {f : Refusal} (h : execute i s = .refused f) : issueLoop (n + 1) c (.run i s) = .refused f := by
  simp only [issueLoop, h]

end

/-! ### Parts of a range of cluster memory -/

section
variable {s : State} {k a n b m : Nat}

theorem inMailbox_part (h : s.inMailbox k a n = false) (ha : a ≤ b) (hn : b + m ≤ a + n) : s.inMailbox k b m = false := by
  simp only [State.inMailbox, Bool.and_eq_false_iff, decide_eq_false_iff_not, List.any_eq_false, Bool.and_eq_true, decide_eq_true_eq] at h ⊢
  by_cases hm : 0 < m
  · have hi := h.resolve_left (by omega)
    exact .inr fun i hc => by have := hi i hc; omega
  · exact .inl hm

theorem firstAbsent_part (h : s.firstAbsent k a n = none) (ha : a ≤ b) (hn : b + m ≤ a + n) : s.firstAbsent k b m = none := by
  simp only [State.firstAbsent, Option.map_eq_none_iff, List.find?_eq_none, Bool.and_eq_true, decide_eq_true_eq] at h ⊢
  exact fun g hg => by have := h g hg; omega

theorem mem_wordsOf {w : Nat} : w ∈ wordsOf a n ↔ 0 < n ∧ w % 8 = 0 ∧ a / 8 ≤ w / 8 ∧ w / 8 ≤ (a + n - 1) / 8 := by
  unfold wordsOf
  by_cases hn : n = 0
  · simp [hn]
  · simp only [hn, if_false, List.mem_map, Preemption.mem_count]
    constructor
    · rintro ⟨q, hq, rfl⟩
      omega
    · exact fun hw => ⟨w / 8, by omega, by omega⟩

theorem badLocal_part (h : s.badLocal k a n = false) (ha : a ≤ b) (hn : b + m ≤ a + n) : s.badLocal k b m = false := by
  simp only [State.badLocal, Bool.and_eq_false_iff, List.any_eq_false] at h ⊢
  refine h.imp id fun hw w hm => hw w ?_
  rw [mem_wordsOf] at hm ⊢
  omega

end

/-! ### The fetch (R41) -/

theorem take_readBytes (m : List Host.Cell) (a : Nat) {n i : Nat} (h : i ≤ n) : (Mem.readBytes m a n).take i = Mem.readBytes m a i := by
  induction i generalizing a n with
  | zero => simp [Mem.readBytes]
  | succ i ih =>
    cases n with
    | zero => omega
    | succ n => simp only [Mem.readBytes, List.take_succ_cons, ih (a + 1) (Nat.le_of_succ_le_succ h)]

theorem length_readBytes (m : List Host.Cell) (a n : Nat) : (Mem.readBytes m a n).length = n := by
  induction n generalizing a with
  | zero => rfl
  | succ n ih => simp [Mem.readBytes, ih]

/-- A fill of the buffer is a read: the cluster's record stays. -/
theorem cluster_fill (s : State) (c pc k : Nat) : (s.fill c pc).cluster k = s.cluster k := by
  have h : (s.scrub (clusterOf c) pc 64).clusters = s.clusters := (congrArg State.clusters (scrub_same s (clusterOf c) pc 64).1 : _)
  simp only [State.cluster, State.fill, modCore_clusters, h]

section
variable {s : State} {c pc n : Nat} (hn : pc + n ≤ Config.clusterBytes) (hm : s.inMailbox (clusterOf c) pc n = false)
  (ha : s.firstAbsent (clusterOf c) pc n = none)
include hn hm ha

/-- A fetch from an empty buffer fills it. -/
theorem fetchN_fills (hb : s.badLocal (clusterOf c) pc n = false) (hi : (s.core c).ibuf = none) :
    s.fetchN c pc n = .bytes (s.fill c pc) (Mem.readBytes s.cmem (cellKey (clusterOf c) pc) n) := by
  have hbuf : (s.core c).fromBuffer pc n = none := by rw [Core.fromBuffer, hi]
  simp only [State.fetchN, Nat.not_lt.mpr hn, hm, ha, hbuf, hb, Bool.false_eq_true, if_false]

/-- A fetch of bytes that the buffer holds reads no memory. -/
theorem fetchN_buffered {b : List Byte} (hbuf : (s.core c).fromBuffer pc n = some (b, false)) : s.fetchN c pc n = .bytes s b := by
  simp only [State.fetchN, Nat.not_lt.mpr hn, hm, ha, hbuf, Bool.false_eq_true, if_false]

end

/-- A filled buffer holds the bytes at its start, none of them read uncorrectable. -/
theorem fromBuffer_fill {s : State} {c pc n : Nat} (h64 : n ≤ 64) (hb : s.badLocal (clusterOf c) pc n = false) :
    ((s.fill c pc).core c).fromBuffer pc n = some (Mem.readBytes s.cmem (cellKey (clusterOf c) pc) n, false) := by
  have hbyte : ∀ i < n, s.badLocal (clusterOf c) (pc + i) 1 = false := fun i hi => badLocal_part hb (by omega) (by omega)
  simp only [State.fill, core_modCore, Core.fromBuffer, length_readBytes, Nat.sub_self, List.drop_zero, take_readBytes _ _ h64]
  rw [if_pos (by omega)]
  congr 2
  simp only [List.any_eq_false, Bool.and_eq_true, decide_eq_true_eq, not_and]
  intro i hi hp hlt
  split at hi
  · have := hbyte i (by omega)
    simp [this] at hi
  · cases hi

/-- The instruction at the PC of a core with an empty buffer (R41, R50). -/
theorem fetch_fills {s : State} {c pc : Nat} (hn : pc + 4 ≤ Config.clusterBytes) (hm : s.inMailbox (clusterOf c) pc 4 = false)
    (ha : s.firstAbsent (clusterOf c) pc 4 = none) (hb : s.badLocal (clusterOf c) pc 4 = false) (hi : (s.core c).ibuf = none) :
    s.fetch c pc = .bytes (s.fill c pc)
      (Mem.readBytes s.cmem (cellKey (clusterOf c) pc) (if (Mem.read s.cmem (cellKey (clusterOf c) pc)).getLsbD 0 then 4 else 2)) := by
  have hfirst := fetchN_fills (n := 2) (by omega) (inMailbox_part hm le_rfl (by omega)) (firstAbsent_part ha le_rfl (by omega))
    (badLocal_part hb le_rfl (by omega)) hi
  have hwhole : (s.fill c pc).fetchN c pc 4 = .bytes (s.fill c pc) (Mem.readBytes s.cmem (cellKey (clusterOf c) pc) 4) := by
    refine fetchN_buffered hn ?_ ?_ (fromBuffer_fill (by decide) hb)
    · simpa only [State.inMailbox, cluster_fill] using hm
    · simpa only [State.firstAbsent, cluster_fill] using ha
  rw [State.fetch, hfirst]
  change (if (Mem.read s.cmem (cellKey (clusterOf c) pc)).getLsbD 0 then _ else _) = _
  split
  · exact hwhole
  · rfl

end Sys2Proof.Laws.CoreStep

namespace Sys2Proof
open Sys2Proof.Machine Sys2Proof.Laws Sys2Proof.Laws.CoreStep

/-- Settles O56: the issue loop begins with the chosen context, whose candidate is what the fetched bytes decode to. -/
theorem stepRunsDecodedInstruction : Obligations.StepRunsDecodedInstruction := by
  unfold Obligations.StepRunsDecodedInstruction
  refine ⟨?runs, ?illegal, ?overrun, ?event, ?fetch⟩
  case runs =>
    intro s c l s1 b i r h hf hd hb
    rw [step_of_issuesNext h, issue_run hf hd hb]
    refine ⟨fun hfree => ?_, fun hheld => issueLoop_tried 3 c (execute_held hheld) (tried_notEligible s1)⟩
    rw [← execute_free hfree]
    exact ⟨fun t => issueLoop_done 3 c, fun t => issueLoop_tried 3 c, fun f => issueLoop_fault 3 c, fun f => issueLoop_refused 3 c⟩
  case illegal =>
    intro s c l s1 b e h hf hd
    rw [step_of_issuesNext h, issue_illegal hf hd]
    rfl
  case overrun =>
    intro s c l s1 b i r h hf hd hr hb
    rw [step_of_issuesNext h, issue_overrun hf hd hr hb]
    rfl
  case event =>
    intro s e hlive hturn he
    simp only [step, hlive, hturn, turn, he, Bool.false_eq_true, if_false]
  case fetch => exact fun s c pc hn hm ha hb hi => ⟨_, fetch_fills hn hm ha hb hi, rfl⟩

end Sys2Proof
end

section
/-! PROOF. trap, the returns from trap handlers, isync, align and prio (R40, R109, R110, R111, R227, R229). -/
namespace Sys2Proof.Laws.PipeControl
open Sys2Proof.Machine

/-! ### How the work of an instruction ends -/

section
variable {sc : BitVec 3} {m : M Flow} {s t : State}

theorem instrJ_stays (h : m s = .ok .stay t) : instrJ sc m s = .next t := instrJ_ok h

theorem instrJ_trap {i : TrapInfo} (h : m s = .error (.trap i) t) : instrJ sc m s = .next (s.afterTrap i) := by
  simp only [instrJ, h, settle]

theorem instrJ_stall (h : m s = .error .stall t) : instrJ sc m s = .next s.notEligible := by simp only [instrJ, h, settle]

end

theorem instr16J_stall {m : M Flow} {s t : State} (h : m s = .error .stall t) : instr16J m s = .next s.notEligible := by
  simp only [instr16J, h, settle]

/-! ### Transfer targets (R51) -/

section
variable {t : Int} {s : State}

theorem checkTarget_legal (h : LegalTarget t) : checkTarget t s = .ok (BitVec.ofInt 22 t) s := by
  obtain ⟨h0, h1, h2⟩ := h
  rw [checkTarget, if_neg (by omega), if_neg (by omega)]
  rfl

theorem checkTarget_outside (h : t < 0 ∨ 0x3FFFFE < t) :
    checkTarget t s = .error (.trap { cause := cLOCAL_RANGE, val := BitVec.ofInt 64 t }) s := by
  rw [checkTarget, if_pos h]
  rfl

theorem checkTarget_odd (h : ¬ (t < 0 ∨ 0x3FFFFE < t)) (ho : t % 2 ≠ 0) :
    checkTarget t s = .error (.trap { cause := cALIGN, val := BitVec.ofInt 64 t }) s := by
  rw [checkTarget, if_neg h, if_pos ho]
  rfl

end

theorem ofInt_toNat (x : Word) : BitVec.ofInt 64 (x.toNat : Int) = x := by
  rw [BitVec.ofInt_natCast, BitVec.ofNat_toNat, BitVec.setWidth_eq]

/-! ### The entry of a trap (R227) -/

section
variable {s : State} {c l : Nat} (ht : TrapInfo) (pc : BitVec 22)

/-- A trap that does not stop the core enters the handler. -/
theorem takeTrap_enters (h : (s.ctx c l).trapStops = false) : s.takeTrap c l ht pc = s.setCore c
    { (s.core c).setBank l { (s.ctx c l).enterTrap ht pc with
        nextIssue := max (s.ctx c l).nextIssue ((s.core c).cycle + 1), rtcCount := (s.ctx c l).rtcCount + 1 } with ibuf := none } := by
  have h' : ((s.core c).bank l).trapStops = false := h
  simp only [State.takeTrap, h', Bool.false_eq_true, if_false]
  rfl

end

theorem me_setCore (s : State) (k : Core) : (s.setCore s.cur.1 k).me = k.bank s.cur.2 := congrArg (Core.bank · s.cur.2) (core_setCore s s.cur.1 k)

theorem here_setCore (s : State) (k : Core) : (s.setCore s.cur.1 k).here = k := core_setCore s s.cur.1 k

/-- A trap of a context with nothing pending is taken at once (R64). -/
theorem afterTrap_of_idle {s : State} (t : TrapInfo) (he : t.event = none) (hp : s.me.pend = []) :
    s.afterTrap t = s.takeTrap s.cur.1 s.cur.2 t s.me.pc := by
  simp [State.afterTrap, he, hp]

/-- BREAK is entered as R227 says (R111). -/
theorem exec_trap {s : State} (k : BitVec 8) (sc : BitVec 3) (hp : s.me.pend = []) (hs : s.me.trapStops = false) :
    ∃ t, exec (.trap k sc) s = .next t ∧ t.here.ibuf = none
      ∧ t.me = { s.me.enterTrap { cause := cBREAK, val := k.setWidth 64 } s.me.pc with
        nextIssue := max s.me.nextIssue (s.here.cycle + 1), rtcCount := s.me.rtcCount + 1 } := by
  refine ⟨_, (instr_trap (raise_run _ _ _)).trans (congrArg _ ((afterTrap_of_idle _ rfl hp).trans (takeTrap_enters _ _ hs))), ?_, ?_⟩
  · rw [here_setCore]
  · exact (me_setCore _ _).trans (bank_setBank _ _ _)

/-! ### Returns (R110, R229) -/

section
variable {s : State} {c l : Nat} (target : BitVec 22) (sc : Nat)

theorem ctx_returnFromTrap : (s.returnFromTrap c l target sc).ctx c l =
    { s.ctx c l with td := false, pc := target, nextIssue := (s.core c).cycle + sc + 1, rtcCount := (s.ctx c l).rtcCount + 1 } := by
  simp only [State.returnFromTrap, State.ctx, core_setCore]
  exact bank_setBank _ _ _

theorem ibuf_returnFromTrap : ((s.returnFromTrap c l target sc).core c).ibuf = none := by
  simp only [State.returnFromTrap, core_setCore]

end

theorem leaveTrap_run {s : State} (target : BitVec 22) (sc : BitVec 3) (hp : s.me.pend = []) :
    leaveTrap target sc s = .ok .stay (s.returnFromTrap s.cur.1 s.cur.2 target sc.toNat) := by
  simp only [leaveTrap, get_bind, hp, List.isEmpty_nil, if_true]
  rfl

/-! ### The end of a routine (R21, R64) -/

section
variable {s : State} (sc : Nat)

theorem endHere_ends (h : s.mayEnd s.cur.1 s.cur.2 = true) : endHere sc s = .ok .stay
    ((s.endRoutine s.cur.1 s.cur.2).modCtx s.cur.1 s.cur.2 fun x => { x with nextIssue := s.here.cycle + sc + 1 }) := by
  simp only [endHere, get_bind, h, if_true]
  rfl

theorem endHere_waits (h : s.mayEnd s.cur.1 s.cur.2 = false) : endHere sc s = .error .stall s := by
  simp [endHere, get_bind, h]

end

/-! ### Release points (R211) -/

theorem releasePoint_passes {s : State} (h : s.performed s.cur.1 s.cur.2 = true) : releasePoint s = .ok ⟨⟩ s := by
  simp [releasePoint, get_bind, h]

theorem releasePoint_waits {s : State} (h : s.performed s.cur.1 s.cur.2 = false) : releasePoint s = .error .stall s := by
  simp [releasePoint, get_bind, h]

/-- An event that is enabled happens. -/
theorem happen_some {s t : State} {o : Option State} (h : o = some t) : happen s o = .next t := by
  rw [h]
  rfl

end Sys2Proof.Laws.PipeControl

namespace Sys2Proof
open Sys2Proof.Machine Sys2Proof.Laws Sys2Proof.Laws.PipeControl

/-- trap k raises BREAK (R111). -/
theorem trapInstruction : Claims.trapInstruction := by
  intro k sc s hp htd hrtc htvec
  have hs : s.me.trapStops = false := by simp only [Ctx.trapStops, htd, hrtc, decide_eq_false htvec, Bool.or_false]
  obtain ⟨t, ht, hbuf, hme⟩ := exec_trap k sc hp hs
  exact ⟨t, ht, by simp [hme, Ctx.enterTrap, cBREAK, hbuf]⟩

/-- rft and eret leave a handler, or trap outside one (R110, R229). -/
theorem trapReturns : Claims.returns := by
  refine ⟨?places, ?rft, ?rftOutside, ?eret, ?eretTarget, ?eretEnd, ?eretOutside⟩
  case places => exact fun s c l target k => ⟨ctx_returnFromTrap target k, ibuf_returnFromTrap target k⟩
  case rft =>
    intro sc s htd hp
    change execRft sc s = _
    rw [execRft, if_pos htd, instrJ_stays (leaveTrap_run _ _ hp)]
  case rftOutside =>
    intro sc s htd
    change execRft sc s = _
    rw [execRft, htd, if_neg (by decide), instrJ_trap (raise_run _ _ _)]
    rfl
  case eret =>
    intro a sc s x htd hp hx h0 hl
    refine instrJ_stays ?_
    rw [if_pos htd, bind_ok hx, if_neg h0, bind_ok (checkTarget_legal hl), BitVec.ofInt_natCast, leaveTrap_run _ _ hp]
  case eretTarget =>
    intro a sc s x htd hx
    refine ⟨fun h => ?_, fun h ho => ?_⟩
    · have h0 : x ≠ 0 := by rintro rfl; simp at h
      refine instrJ_trap (t := s) ?_
      rw [if_pos htd, bind_ok hx, if_neg h0, bind_error (checkTarget_outside (.inr (by omega))), ofInt_toNat]
      rfl
    · have h0 : x ≠ 0 := by rintro rfl; simp at ho
      refine instrJ_trap (t := s) ?_
      rw [if_pos htd, bind_ok hx, if_neg h0, bind_error (checkTarget_odd (by omega) (by omega)), ofInt_toNat]
      rfl
  case eretEnd =>
    intro a sc s htd hx hend
    refine instrJ_stays ?_
    rw [if_pos htd, bind_ok hx, if_pos rfl, bind_ok (modMe_run _ _)]
    exact endHere_ends _ hend
  case eretOutside =>
    intro a sc s htd
    refine instrJ_trap (t := s) ?_
    rw [htd, if_neg (by decide), raise_run]
    rfl

/-- isync, align and prio (R40, R109, R111). -/
theorem pipeControl : Claims.pipeControl := by
  refine ⟨?isync, ?isyncWaits, ?align, ?alignStalls, ?timeout, ?prio⟩
  case isync =>
    intro sc s h
    exact instr_ok ((bind_ok (releasePoint_passes h)).trans (modHere_run _ _))
  case isyncWaits => exact fun sc s h => instr_stall (bind_error (releasePoint_waits h))
  case align =>
    intro k sc s h
    refine (instrJ_ok (f := .seq) ?_).trans rfl
    rw [bind_ok (modMe_run _ _)]
    by_cases hk : k = 0
    · rw [if_pos hk, pure_run]
    · rw [if_neg hk, if_pos (h.resolve_left hk), pure_run]
  case alignStalls =>
    intro k sc s hk hm
    have hrun : exec (.align k sc) s = .next ((s.modCtx s.cur.1 s.cur.2 fun x => { x with aligned := some (k.toNat, s.me.pc) }).modCtx s.cur.1
        s.cur.2 fun x =>
          { x with st := .ready, alignUntil := some (s.here.cycle + 8 * k.toNat), nextIssue := s.here.cycle + sc.toNat + 1 }) := by
      refine instrJ_stays ?_
      rw [bind_ok (modMe_run _ _), if_neg hk, hm, if_neg (by decide), bind_ok (modMe_run _ _)]
      rfl
    refine ⟨_, hrun, ?_⟩
    simp only [State.me, modCtx_cur, ctx_modCtx, and_self]
  case timeout =>
    intro c l s n hu hn
    refine happen_some ?_
    rw [hu]
    exact if_pos hn
  case prio => exact fun c sc s => instr_ok (modMe_run _ _)

/-- Settles O9: each instruction by the way its work ends. -/
theorem trapReturnAndPipeControl : Obligations.TrapReturnAndPipeControl := ⟨trapInstruction, trapReturns, pipeControl⟩

end Sys2Proof
end

section
/-! PROOF. loop, jt and halt (R21, R104, R106, R107, R110). -/
namespace Sys2Proof.Laws.LoopAndTable
open Sys2Proof.Machine Sys2Proof.Laws.ClusterAccess

/-! ### The reads of a jump table (R104, R116, R219) -/

/-- What a table read makes of a trap of its load. -/
def tableTrap (s : State) (e : Nat) (t : TrapInfo) : TrapInfo :=
  if (decide (e + 4 ≤ Config.clusterBytes) && s.inMailbox (clusterOf s.cur.1) e 4) || decide (t.cause = cRANGE_LOCKED) then t
  else { cause := cJT_FETCH, val := w64 e, event := t.event }

theorem tableLoad_of_trap {s : State} {e : Nat} {t : TrapInfo} (h : checkRange (w64 e) 4 4 false s = .error (.trap t) s) :
    ∃ u, tableLoad e s = .error (.trap (tableTrap s e t)) u := by
  have hload : (checkLocal (w64 e) 4 4 false >>= fun a => scalarLoad a 4) s = .error (.trap t) s := bind_error (checkLocal_of_error h)
  unfold tableLoad tableTrap
  rw [get_bind]
  simp only [tryCatch, tryCatchThe, MonadExceptOf.tryCatch, EStateM.tryCatch, hload]
  split <;> exact ⟨_, rfl⟩

theorem toNat_w64 {n : Nat} (h : n < 2 ^ 64) : (w64 n).toNat = n := by
  rw [w64, BitVec.toNat_ofNat, Nat.mod_eq_of_lt h]

section
variable {e : Nat} {s : State}

theorem tableLoad_mailbox (h4 : e % 4 = 0) (he : e < 2 ^ 22) (hm : s.inMailbox (clusterOf s.cur.1) e 4 = true) :
    ∃ u, tableLoad e s = .error (.trap { cause := cLOCAL_RANGE, val := w64 e }) u := by
  have hw : (w64 e).toNat = e := toNat_w64 (by omega)
  obtain ⟨u, hu⟩ := tableLoad_of_trap (checkRange_over (A := w64 e) (n := 4) (align := 4) (store := false) (s := s)
    (by rw [hw]; exact he) (by rw [hw]; exact h4) (.inr (by rw [hw]; exact hm)))
  have hc : e + 4 ≤ Config.clusterBytes := by show e + 4 ≤ 2 ^ 22; omega
  exact ⟨u, by rw [hu, tableTrap, if_pos (by simp [hc, hm])]⟩

theorem tableLoad_locked (h4 : e % 4 = 0) (he : e < 2 ^ 22) (hm : s.inMailbox (clusterOf s.cur.1) e 4 = false)
    (hl : s.lockedLocal (clusterOf s.cur.1) e 4 false = true) :
    ∃ u, tableLoad e s = .error (.trap { cause := cRANGE_LOCKED, val := w64 e }) u := by
  have hw : (w64 e).toNat = e := toNat_w64 (by omega)
  have hc : e + 4 ≤ Config.clusterBytes := by show e + 4 ≤ 2 ^ 22; omega
  obtain ⟨u, hu⟩ := tableLoad_of_trap (checkRange_locked (A := w64 e) (n := 4) (align := 4) (store := false) (s := s)
    (by rw [hw]; exact he) (by rw [hw]; exact h4) (by rw [hw]; exact hc) (by rw [hw]; exact hm) (by rw [hw]; exact hl))
  exact ⟨u, by rw [hu, tableTrap, if_pos (by simp)]⟩

theorem tableLoad_past (he : 2 ^ 22 ≤ e) (h64 : e < 2 ^ 64) : ∃ u, tableLoad e s = .error (.trap { cause := cJT_FETCH, val := w64 e }) u := by
  obtain ⟨u, hu⟩ := tableLoad_of_trap (checkRange_past (A := w64 e) (n := 4) (align := 4) (store := false) (s := s)
    (by rw [toNat_w64 h64]; exact he))
  have hc : ¬ e + 4 ≤ Config.clusterBytes := by show ¬ e + 4 ≤ 2 ^ 22; omega
  exact ⟨u, by rw [hu, tableTrap, if_neg (by simp [hc, cLOCAL_RANGE, cRANGE_LOCKED])]⟩

end

end Sys2Proof.Laws.LoopAndTable

namespace Sys2Proof
open Sys2Proof.Machine Sys2Proof.Laws Sys2Proof.Laws.PipeControl Sys2Proof.Laws.LoopAndTable

/-- loop and jt (R104, R106). -/
theorem loopAndTable : Claims.loopAndTable := by
  refine ⟨?loop, ?loopTraps, ?jtOn, ?jtTaken, ?jtMisaligned, fun e s => tableLoad_mailbox, fun e s => tableLoad_locked,
    fun e s _ => tableLoad_past⟩
  case loop =>
    intro a l e sc s t n hn hl le ls
    refine (instrJ_ok (f := .loop (if n = 0 then le else ls)) ?_).trans rfl
    rw [Nat.cast_add, Nat.cast_mul, Nat.cast_ofNat] at hl
    have hle : BitVec.ofInt 22 ((s.me.pc.toNat : Int) + e.toNat * 2) = le := by
      rw [show le = BitVec.ofNat 22 (s.me.pc.toNat + e.toNat * 2) from rfl, ← BitVec.ofInt_natCast, Nat.cast_add, Nat.cast_mul, Nat.cast_ofNat]
    rw [bind_ok hn, bind_ok (checkTarget_legal hl), hle]
    exact bind_ok (modMe_run _ _)
  case loopTraps =>
    intro a l e sc s t n hn hl
    refine instrJ_trap (t := t) ?_
    rw [bind_ok hn, bind_error (checkTarget_outside (.inr (by omega)))]
    rw [← BitVec.ofInt_natCast, Nat.cast_add, Nat.cast_mul, Nat.cast_ofNat]
    rfl
  case jtOn =>
    intro a b sc s s1 s2 t x i n hx hi h4 hn hle
    refine (instrJ_ok (f := .seq) ?_).trans rfl
    rw [bind_ok hx, bind_ok hi, if_neg (by omega), bind_ok hn, if_pos hle, pure_run]
  case jtTaken =>
    intro a b sc s s1 s2 s3 t x i n v hx hi h4 hn hlt hv h64 hl
    refine (instrJ_ok (f := .goto (BitVec.ofNat 22 v)) ?_).trans rfl
    rw [bind_ok hx, bind_ok hi, if_neg (by omega), bind_ok hn, if_neg (by omega), bind_ok hv, regTarget, toNat_w64 h64,
      bind_ok (checkTarget_legal hl), BitVec.ofInt_natCast, pure_run]
  case jtMisaligned =>
    intro a b sc s s1 t x i hx hi h4
    refine instrJ_trap (t := t) ?_
    rw [bind_ok hx, bind_ok hi, if_pos (by omega), raise_run]
    rfl

/-- halt (R110). -/
theorem haltEndsRoutine : Claims.halts := by
  refine ⟨fun sc s h => instrJ_stays (endHere_ends _ h), fun s h => instr16J_ok (endHere_ends _ h),
    fun sc s h => instrJ_stall (endHere_waits _ h), fun s h => instr16J_stall (endHere_waits _ h), ?_⟩
  intro s c l h
  simp [State.mayEnd, h]

/-- Settles O11: each instruction by the way its work ends. -/
theorem loopsTablesHalts : Obligations.LoopsTablesHalts := ⟨loopAndTable, haltEndsRoutine⟩

end Sys2Proof
end

section
/-! PROOF. send (R16, R28, R29, R113, R118, R136, R378). -/
namespace Sys2Proof.Laws.MessageSend
open Sys2Proof.Machine Sys2Proof.Laws.PipeControl

/-! ### The checks of a send, in their order -/

section
variable {s : State} {dw : Word}

theorem receiverOf_found {r : Nat × Nat × Nat} (h : s.receiver s.cur.1 dw = some r) : receiverOf dw s = .ok r s := by
  simp [receiverOf, get_bind, h]

theorem receiverOf_none (h : s.receiver s.cur.1 dw = none) :
    receiverOf dw s = .error (.trap { cause := cTREE_PROT, val := w64 (dw.toNat % 2 ^ 13) }) s := by
  simp [receiverOf, get_bind, h]

variable {tc f : Nat}

theorem waitInject_passes (ha : s.here.acks < Config.maxAcks) (hq : s.here.mayInject tc f = true) : waitInject dw tc f s = .ok ⟨⟩ s := by
  simp [waitInject, get_bind, Nat.ne_of_lt ha, hq]

/-- With 16 acknowledgements outstanding a message waits (R29). -/
theorem waitInject_full (ha : s.here.acks = Config.maxAcks) (hr : s.me.rtc = false ∨ s.here.refusals = []) :
    waitInject dw tc f s = .error .stall s := by
  have h : ¬ (s.me.rtc = true ∧ s.here.refusals ≠ []) := by
    rintro ⟨h1, h2⟩
    rcases hr with h | h
    · exact absurd h1 (by simp [h])
    · exact h2 h
  rw [waitInject, get_bind, if_pos ha, if_neg h]
  rfl

/-- A message whose flits exceed the frame quota waits (R378). -/
theorem waitInject_quota (ha : s.here.acks < Config.maxAcks) (hq : s.here.mayInject tc f = false) :
    waitInject dw tc f s = .error .stall s := by
  simp [waitInject, get_bind, Nat.ne_of_lt ha, hq]

end

/-- A release that is asked for when a condition holds. -/
theorem releaseIf_passes {α : Type} {s : State} {p : Prop} [Decidable p] {f : Unit → M α} (h : p → s.performed s.cur.1 s.cur.2 = true) :
    (if p then releasePoint >>= f else f ⟨⟩) s = f ⟨⟩ s := by
  split
  · next hp => exact bind_ok (releasePoint_passes (h hp))
  · rfl

/-- Whether an injection proceeds under the frame quota (R378). -/
theorem mayInject_iff (k : Core) (tc f : Nat) : k.mayInject tc f = true ↔
    k.frameq.toNat / 2 ^ (16 * tc) % 2 ^ 16 = 0 ∨ Map.getD k.frameCount tc 0 + f ≤ k.frameq.toNat / 2 ^ (16 * tc) % 2 ^ 16
      ∨ Map.getD k.frameCount tc 0 = 0 := by
  simp only [Core.mayInject, Bool.or_eq_true, decide_eq_true_eq, or_assoc]
  rfl

/-! ### The injection (R29, R136) -/

/-- An injection adds one message, one acknowledgement to come and one to the count of the message's phase. -/
theorem injectMine_run (hdr : Word) (w : List Word) (data : List Byte) (dst f : Nat) (s : State) : ∃ (t : State) (m : Msg),
    injectMine hdr w data dst f s = .ok ⟨⟩ t ∧ t.net.msgs = s.net.msgs ++ [m] ∧ m.hdr = hdr ∧ m.w = w ∧ m.data = data ∧ m.src = s.cur.1
      ∧ m.dst = dst ∧ t.here.acks = s.here.acks + 1
      ∧ t.phaseOf s.cur.1 (hdrPhase hdr) = (s.phaseOf s.cur.1 (hdrPhase hdr) + 1) % 2 ^ 24 := by
  refine ⟨_, _, rfl, rfl, rfl, rfl, rfl, rfl, rfl, ?_, ?_⟩
  · change (State.core _ s.cur.1).acks = _
    simp only [State.countUp, core_modCore]
    rfl
  · simp only [State.phaseOf, State.countUp, core_modCore, Core.charge, getD_set]
    rfl

/-! ### The header (R113) -/

theorem msgHeader_toNat (dg sg f n rel rtc dep l tc ph d src cls : Nat) : (msgHeader dg sg f n rel rtc dep l tc ph d src cls).toNat =
    dg % 16 * 2 ^ 56 + sg % 16 * 2 ^ 52 + f % 16 * 2 ^ 48 + n % 8 * 2 ^ 45 + rel % 2 * 2 ^ 44 + rtc % 2 * 2 ^ 43
      + dep % 2 * 2 ^ 42 + l % 4 * 2 ^ 40 + tc % 4 * 2 ^ 38 + ph % 16 * 2 ^ 34 + d % 2 ^ 13 * 2 ^ 21 + src % 2 ^ 13 * 2 ^ 8 + cls % 256 := by
  rw [msgHeader, w64, BitVec.toNat_ofNat, Nat.mod_eq_of_lt]
  omega

theorem msgHeader_fields (dg sg f n rel rtc dep l tc ph d src cls : Nat) : let h := (msgHeader dg sg f n rel rtc dep l tc ph d src cls).toNat
    h % 256 = cls % 256 ∧ h / 2 ^ 8 % 2 ^ 13 = src % 2 ^ 13 ∧ h / 2 ^ 21 % 2 ^ 13 = d % 2 ^ 13
      ∧ h / 2 ^ 34 % 16 = ph % 16 ∧ h / 2 ^ 38 % 4 = tc % 4 ∧ h / 2 ^ 40 % 4 = l % 4 ∧ h / 2 ^ 45 % 8 = n % 8
      ∧ h / 2 ^ 48 % 16 = f % 16 ∧ h / 2 ^ 52 % 16 = sg % 16 ∧ h / 2 ^ 56 = dg % 16 := by
  simp only [msgHeader_toNat]
  refine ⟨?_, ?_, ?_, ?_, ?_, ?_, ?_, ?_, ?_, ?_⟩ <;> omega

end Sys2Proof.Laws.MessageSend

namespace Sys2Proof
open Sys2Proof.Machine Sys2Proof.Laws Sys2Proof.Laws.PipeControl Sys2Proof.Laws.MessageSend

/-- Settles O21: the checks of a send in their order, then the injection. -/
theorem messageSends : Obligations.MessageSends := by
  unfold Obligations.MessageSends
  refine ⟨?sends, ?priv, ?undeliverable, ?full, ?quota, fun k tc f => mayInject_iff k tc f, ?header⟩
  case sends =>
    intro r a b c n sc s s1 s2 dw dst dg sg w hdw hc hr ha hq hp hw hdr
    obtain ⟨t, m, ht, hm⟩ := injectMine_run hdr w [] dst 1 s2
    refine ⟨t, m, instr_ok (u := ⟨⟩) ?_, hm⟩
    rw [bind_ok hdw, if_neg (by omega)]
    exact (bind_ok (receiverOf_found hr)).trans ((bind_ok (waitInject_passes ha hq)).trans ((releaseIf_passes hp).trans
      ((bind_ok hw).trans ht)))
  case priv =>
    intro r a b c n sc s t dw hdw hc
    refine instr_trap (t := t) ?_
    rw [bind_ok hdw, if_pos hc, raise_run]
    simp [cPRIV, w64]
  case undeliverable =>
    intro r a b c n sc s t dw hdw hc hr
    refine instr_trap (t := t) ?_
    rw [bind_ok hdw, if_neg (by omega)]
    exact bind_error (receiverOf_none hr)
  case full =>
    intro r a b c n sc s t dw x hdw hc hr ha hrtc
    refine instr_stall (t := t) ?_
    rw [bind_ok hdw, if_neg (by omega)]
    exact (bind_ok (receiverOf_found hr)).trans (bind_error (waitInject_full ha hrtc))
  case quota =>
    intro r a b c n sc s t dw x hdw hc hr ha hq
    refine instr_stall (t := t) ?_
    rw [bind_ok hdw, if_neg (by omega)]
    exact (bind_ok (receiverOf_found hr)).trans (bind_error (waitInject_quota ha hq))
  case header =>
    rintro h dg sg f n rel rtc dep l tc ph d src cls rfl
    exact msgHeader_fields dg sg f n rel rtc dep l tc ph d src cls

end Sys2Proof
end

section
/-! PROOF. amo: the request, its performance at the owner, and its result (R28, R123, R124). -/
namespace Sys2Proof.Laws.Atomic
open Sys2Proof.Machine Sys2Proof.Laws.PipeControl

/-! ### The request (R28) -/

/-- The compare value is read when there is one. -/
theorem readIf_bind {α : Type} {cas : Bool} {d : BitVec 5} {f : Word → M α} {s t : State} {c : Word}
    (h : (if cas then readS d else pure 0 : M Word) s = .ok c t) : (if cas then readS d >>= f else pure 0 >>= f) s = f c t := by
  cases cas with
  | true => exact bind_ok h
  | false => exact bind_ok h

section
variable {fn : Nat} {cas : Bool} {d a b : BitVec 5} {z : BitVec 1} {s s1 s2 s3 s4 : State} {A v c : Word} {addr : Nat}
  (hA : readS a s = .ok A s1) (hv : readS b s1 = .ok v s2) (hc : (if cas then readS d else pure 0 : M Word) s2 = .ok c s3)
  (hr : checkRange A (if z = 0 then 8 else 4) (if z = 0 then 8 else 4) true s3 = .ok addr s4)
include hA hv hc hr

/-- A request waits for one of the 16 entries of the owner's queue. -/
theorem issueAmo_full (ho : 16 ≤ s4.amoCredits (ownerCore (clusterOf s4.cur.1) addr)) : issueAmo fn cas d a b z s = .error .stall s4 := by
  rw [issueAmo, bind_ok hA, bind_ok hv]
  refine (readIf_bind hc).trans ((bind_ok hr).trans ?_)
  rw [get_bind]
  exact congrFun (if_pos ho) s4

/-- A request sets out, its result pending. -/
theorem issueAmo_sends {t : State} {id : Nat} (ho : s4.amoCredits (ownerCore (clusterOf s4.cur.1) addr) < 16)
    (hd : deferS d 0 1 s4 = .ok id t) : issueAmo fn cas d a b z s = .ok ⟨⟩ (t.sendLoad s4.cur.1 s4.cur.2 (ownerCore (clusterOf s4.cur.1) addr)
      (.amo { core := s4.cur.1, level := s4.cur.2, id := if d.toNat = 0 then none else some id, addr := addr, size := if z = 0 then 8 else 4
              fn := fn, y := v, c := c, pc := s4.me.pc })) := by
  rw [issueAmo, bind_ok hA, bind_ok hv]
  refine (readIf_bind hc).trans ((bind_ok hr).trans ?_)
  rw [get_bind]
  exact (congrFun (if_neg (Nat.not_le.mpr ho)) s4).trans ((bind_ok hd).trans rfl)

end

/-- The ten forms of amo issue alike. -/
theorem completesAmo {mk : BitVec 5 → BitVec 5 → BitVec 5 → BitVec 1 → BitVec 3 → Instr} {fn : Nat} {cas : Bool}
    (hmk : ∀ d a b z sc s, exec (mk d a b z sc) s = instr sc (issueAmo fn cas d a b z) s) : CompletesAmo mk fn cas := by
  intro d a b z sc s s1 s2 s3 s4 t A v c addr id hA hv hcas hplain n hr o
  have hc : (if cas then readS d else pure 0 : M Word) s2 = .ok c s3 := by
    cases cas with
    | true => exact hcas rfl
    | false =>
      obtain ⟨rfl, rfl⟩ := hplain rfl
      rfl
  refine ⟨fun ho => ?_, fun ho hd => ?_⟩
  · exact (hmk d a b z sc s).trans (instr_stall (issueAmo_full hA hv hc hr ho))
  · exact (hmk d a b z sc s).trans (instr_ok (issueAmo_sends hA hv hc hr ho hd))

/-! ### The new value (R123) -/

/-- The signed reading of the low bits is the balanced remainder. -/
theorem signedOf_eq_bmod {w : Nat} (hw : 0 < w) (x : Nat) : signedOf w x = Int.bmod x (2 ^ w) := by
  obtain ⟨k, rfl⟩ : ∃ k, w = k + 1 := ⟨w - 1, by omega⟩
  have hp : 2 ^ (k + 1) = 2 * 2 ^ k := by rw [Nat.pow_succ, Nat.mul_comm]
  have hhalf : ((2 ^ (k + 1) : Nat) : Int) + 1 = 2 * (2 ^ k : Nat) + 1 := by rw [hp, Nat.cast_mul]; rfl
  have hdiv : (((2 ^ (k + 1) : Nat) : Int) + 1) / 2 = (2 ^ k : Nat) := by omega
  simp only [signedOf, Int.bmod, Nat.add_sub_cancel, hdiv, ← Int.natCast_emod, Nat.cast_lt]

/-! ### The performance at the owner (R123, R124) -/

/-- Whether words read uncorrectable depends on the symbols and the failed banks only. -/
theorem badLocal_congr {s t : State} (hw : t.wrong = s.wrong) (hr : t.restored = s.restored)
    (hf : ∀ c, (t.core c).failedBanks = (s.core c).failedBanks) (k a n : Nat) : t.badLocal k a n = s.badLocal k a n := by
  have hin : ∀ c row lane, t.wrongIn c row lane = s.wrongIn c row lane := fun c row lane => by simp only [State.wrongIn, hw, hf]
  have hcode : ∀ c row, t.codeBad c row = s.codeBad c row := fun c row => by funext lane; simp only [State.codeBad, hin, hf]
  have hword : t.wordBad k = s.wordBad k := by funext w; simp only [State.wordBad, hr, hcode]
  simp only [State.badLocal, hw, hword]

/-- A read leaves the machine as it was but for what it corrects and counts. -/
theorem scrub_sysq (s : State) (k a n c : Nat) : ((s.scrub k a n).core c).sysq = (s.core c).sysq :=
  (congrArg Core.sysq ((scrub_same s k a n).2 c) : _)

theorem scrub_cmem (s : State) (k a n : Nat) : (s.scrub k a n).cmem = s.cmem := (congrArg State.cmem (scrub_same s k a n).1 : _)

theorem scrub_net (s : State) (k a n : Nat) : (s.scrub k a n).net = s.net := (congrArg State.net (scrub_same s k a n).1 : _)

/-- The owner's sequencer at its oldest request. -/
def popped (s : State) (c : Nat) (r : List AmoReq) : State := s.modCore c fun k => { k with sysq := r }

/-- An amo on a word that reads correct writes the new value of its function and hands back the old one. -/
theorem performAmo_plain {s : State} {c : Nat} {q : AmoReq} {r : List AmoReq} (hg : s.guarded (clusterOf q.core) q.addr = false)
    (hb : s.badLocal (clusterOf q.core) q.addr q.size = false) :
    (popped s c r).performAmo q = (((popped s c r).scrub (clusterOf q.core) q.addr q.size).cwrite (clusterOf q.core) q.addr q.size
      (amoNew q.fn q.size (s.cread (clusterOf q.core) q.addr q.size) (q.y.toNat % 2 ^ (8 * q.size)) (q.c.toNat % 2 ^ (8 * q.size))),
      s.cread (clusterOf q.core) q.addr q.size) := by
  have hg' : (popped s c r).guarded (clusterOf q.core) q.addr = false := hg
  have hb' : (popped s c r).badLocal (clusterOf q.core) q.addr q.size = false := by
    refine (badLocal_congr (by rw [popped, modCore_wrong]) (by rw [popped, modCore_restored]) (fun d => ?_) _ _ _).trans hb
    by_cases h : d = c
    · subst h
      rw [popped, core_modCore]
    · rw [popped, core_modCore_ne _ _ _ _ h]
  simp only [State.performAmo, hg', hb', Bool.false_eq_true, if_false]
  rfl

/-- What a performed amo shows: the queue without it, the word with its new value, no message yet. -/
theorem performed_shows (s : State) (c k a n x : Nat) (r : List AmoReq) : let t := ((popped s c r).scrub k a n).cwrite k a n x
    (t.core c).sysq = r ∧ t.cmem = (s.cwrite k a n x).cmem ∧ t.net = s.net := by
  refine ⟨?_, ?_, ?_⟩
  · simp only [State.core, cwrite_cores]
    exact (scrub_sysq _ k a n c).trans (by rw [popped, core_modCore])
  · rw [cwrite_cmem, cwrite_cmem, scrub_cmem, popped, modCore_cmem]
  · rw [cwrite_net, scrub_net, popped, modCore_net]

section
variable {s : State} {c : Nat} {q : AmoReq} {r : List AmoReq} (hq : (s.core c).sysq = q :: r)
include hq

theorem amoRequest_posted (hid : q.id = none) : exec (.amoRequest c) s = .next ((popped s c r).performAmo q).1 := by
  refine happen_some ?_
  simp only [hq, hid]
  rfl

theorem amoRequest_answers {i : Nat} (hid : q.id = some i) : exec (.amoRequest c) s = .next
    (((popped s c r).performAmo q).1.sendLoad c q.level q.core (.result q.level i (w64 ((popped s c r).performAmo q).2))) := by
  refine happen_some ?_
  simp only [hq, hid]
  rfl

end

/-! ### The result -/

/-- The result of an amo lands in its scalar register. -/
theorem landId_sreg {x : Ctx} {i r : Nat} {q : Pend} (v : Word) (hq : x.pend.find? (fun q => decide (q.id = i)) = some q)
    (hd : q.dest = .scalar r) (hr : 0 < r) : (x.landId i v).sreg r = v := by
  have h0 : r ≠ 0 := by omega
  simp only [Ctx.landId, hq, Ctx.land, hd, Ctx.setSreg, Ctx.sreg, h0, if_false, getD_set]
  simp

end Sys2Proof.Laws.Atomic

namespace Sys2Proof
open Sys2Proof.Machine Sys2Proof.Laws Sys2Proof.Laws.PipeControl Sys2Proof.Laws.Atomic

/-- Settles O24: the ten forms issue alike; the owner's sequencer performs its oldest request; the result lands. -/
theorem atomicOperations : Obligations.AtomicOperations := by
  unfold Obligations.AtomicOperations
  refine ⟨⟨?_, ?_, ?_, ?_, ?_, ?_, ?_, ?_, ?_, ?_⟩, ?new, ?performs, ?arrives, fun x i v q r hq hd hr => landId_sreg v hq hd hr⟩
  iterate 10 exact completesAmo fun d a b z sc s => rfl
  case new =>
    intro n old y c hn _ _
    have hw : 0 < 8 * n := by omega
    refine ⟨rfl, ?_, ?_, rfl, rfl, rfl, rfl, rfl, rfl, rfl⟩
    · rw [← signedOf_eq_bmod hw, ← signedOf_eq_bmod hw]
      rfl
    · rw [← signedOf_eq_bmod hw, ← signedOf_eq_bmod hw]
      rfl
  case performs =>
    intro c s q r hq hg hb k old
    obtain ⟨hsysq, hmem, hnet⟩ := performed_shows s c k q.addr q.size
      (amoNew q.fn q.size old (q.y.toNat % 2 ^ (8 * q.size)) (q.c.toNat % 2 ^ (8 * q.size))) r
    have hdone := performAmo_plain (c := c) (r := r) hg hb
    cases hid : q.id with
    | none =>
      refine ⟨_, amoRequest_posted hq hid, ?_⟩
      rw [hdone]
      exact ⟨hsysq, hmem, fun _ => by rw [hnet], fun i hi => nomatch hi⟩
    | some i =>
      refine ⟨_, amoRequest_answers hq hid, ?_⟩
      rw [hdone]
      refine ⟨hsysq, hmem, (nomatch ·), fun j hj => ?_⟩
      cases hj
      exact ⟨_, congrArg (fun n : Net => n.msgs ++ _) hnet, rfl, rfl, rfl, rfl⟩
  case arrives =>
    intro idx s m l i v hm hl
    refine happen_some ?_
    simp only [hm, hl]

end Sys2Proof
end

section
/-! PROOF. waitv and the phase instructions (R31, R135, R137, R138, R200). -/
namespace Sys2Proof.Laws.WaitAndPhase
open Sys2Proof.Machine Sys2Proof.Laws.PipeControl

/-! ### What the read of an operand leaves alone -/

theorem readS_rest {r : BitVec 5} {s t : State} {x : Word} (h : readS r s = .ok x t) : stateRest t = stateRest s := by
  have hw := rw_readS {} r s
  rw [h] at hw
  exact hw.rest

theorem readS_cur {r : BitVec 5} {s t : State} {x : Word} (h : readS r s = .ok x t) : t.cur = s.cur := cur_of_rest (readS_rest h)

theorem scalarLoad_cur {a n x : Nat} {s t : State} (h : scalarLoad a n s = .ok x t) : t.cur = s.cur := by
  have hw := rw_scalarLoad {} a n s
  rw [h] at hw
  exact cur_of_rest hw.rest

/-- Which segments are absent is a matter of the clusters' records. -/
theorem firstAbsent_congr {s t : State} (h : t.clusters = s.clusters) (k a n : Nat) : t.firstAbsent k a n = s.firstAbsent k a n := by
  simp only [State.firstAbsent, State.cluster, h]

/-! ### Watched words (R135) -/

theorem heal_watch (s : State) (k a n : Nat) : (s.heal k a n).watch = s.watch := by
  unfold State.heal
  split <;> rfl

/-- A write marks every watched word of the cluster that it reaches. -/
theorem noteWrite_watch {s : State} {k a n c l w : Nat} {f : Bool} (h : Map.get? s.watch (4 * c + l) = some (w, f)) (hl : l < 4)
    (hc : clusterOf c = k) (hw : w < a + n) (ha : a < w + 8) : Map.get? (s.noteWrite k a n).watch (4 * c + l) = some (w, true) := by
  have hcore : (4 * c + l) / 4 = c := by omega
  have hne : s.watch ≠ [] := by
    intro e
    rw [e] at h
    cases h
  have hget := Preemption.get_map s.watch (fun i (e : Nat × Bool) => if clusterOf (i / 4) = k ∧ e.1 < a + n ∧ a < e.1 + 8 then (e.1, true) else e)
    (4 * c + l)
  rw [State.noteWrite, if_neg hne]
  refine Eq.trans ?_ (hget.trans ?_)
  · congr 1
    refine List.map_congr_left fun e _ => ?_
    split <;> rfl
  · rw [h, Option.map_some, hcore]
    simp only [hc, hw, ha, and_self, if_true]

section
variable {s : State} {c l a : Nat} {v : Word}

/-- A context whose word a write has reached compares again, unless a trap is due or a pre-emption request has reached its core. -/
theorem waitvWake_compares (hst : (s.ctx c l).st = .waiting) (hw : (s.ctx c l).wait = .waitv a v)
    (hm : Map.get? s.watch (4 * c + l) = some (a, true)) (ht : (s.ctx c l).takeable = none) (hh : (s.core c).halting = none) :
    exec (.waitvWake c l) s = .next (match s.watchLoad c l a with
      | .ok (t, y) => if y = v then t.watchWord c l a else t.finishWait c l
      | .error t => s.wakeTrap c l t) := by
  have hn : ¬ (Map.get? s.watch (watchKey c l) ≠ some (a, true) ∨ (s.ctx c l).takeable ≠ none ∨ (s.core c).halting ≠ none) := by
    simp [watchKey, hm, ht, hh]
  change execWaitvWake c l s = _
  simp only [execWaitvWake, hst, hw, if_neg hn]
  cases s.watchLoad c l a <;> rfl

theorem watchLoad_plain (hg : s.guarded (clusterOf c) a = false) (hb : s.badLocal (clusterOf c) a 8 = false) :
    s.watchLoad c l a = .ok (s.scrub (clusterOf c) a 8, w64 (s.cread (clusterOf c) a 8)) := by
  simp only [State.watchLoad, hg, hb, Bool.false_eq_true, if_false]

theorem watchLoad_guarded (hg : s.guarded (clusterOf c) a = true) : s.watchLoad c l a =
    .ok (s.modCore c fun y => { y with guardrec := guardRecord y.guardrec false false l a (s.ctx c l).pc.toNat }, 0) := by
  simp only [State.watchLoad, hg, if_true]

theorem watchLoad_bad (hg : s.guarded (clusterOf c) a = false) (hb : s.badLocal (clusterOf c) a 8 = true) :
    s.watchLoad c l a = .error { cause := cPOISON, val := w64 a, event := some a } := by
  simp only [State.watchLoad, hg, hb, Bool.false_eq_true, if_false, if_true]

theorem scrub_watch (s : State) (k a n : Nat) : (s.scrub k a n).watch = s.watch := (congrArg State.watch (scrub_same s k a n).1 : _)

end

/-! ### Waits -/

/-- An instruction that must wait for an event leaves its context waiting, at its own address. -/
theorem instr_block {sc : BitVec 3} {m : M Unit} {s t : State} {w : Wait} (h : m s = .error (.block w) t) (hc : t.cur = s.cur) :
    ∃ u, instr sc m s = .next u ∧ u.me.st = .waiting ∧ u.me.wait = w ∧ u.me.pc = t.me.pc ∧ u.watch = t.watch := by
  refine ⟨t.modCtx s.cur.1 s.cur.2 fun x => { x with st := .waiting, wait := w, nextIssue := (s.core s.cur.1).cycle + sc.toNat + 1 }, ?_, ?_⟩
  · simp only [instr, instrJ, bind_error h, settle]
  · simp only [State.me, modCtx_cur, hc, ctx_modCtx, modCtx_watch, and_self]

/-! ### Sets of phases -/

theorem getLsbD_putBit (x : BitVec 16) (on : Bool) {p i : Nat} (hi : i < 16) :
    (putBit x p on).getLsbD i = if i = p then on else x.getLsbD i := by
  have hm : (BitVec.ofNat 16 (2 ^ p)).getLsbD i = decide (p = i) := by
    rw [BitVec.getLsbD_ofNat, Nat.testBit_two_pow]
    simp [hi]
  cases on with
  | true =>
    simp only [putBit, if_true, BitVec.getLsbD_or, hm]
    by_cases h : i = p
    · simp [h]
    · simp [h, Ne.symm h]
  | false =>
    simp only [putBit, Bool.false_eq_true, if_false, BitVec.getLsbD_and, BitVec.getLsbD_not, hm]
    by_cases h : i = p
    · simp [h]
    · simp [h, Ne.symm h, hi]

/-! ### GUARD at phwait (R200) -/

theorem guardPoint_clear {s : State} (h : s.here.guardrec.getLsbD 63 = false) : guardPoint s = .ok false s := by
  simp only [guardPoint, get_bind, h, Bool.false_eq_true, if_false, pure_run]

theorem guardPoint_raises {s : State} (h : s.here.guardrec.getLsbD 63 = true) (ht : s.me.td = false) :
    guardPoint s = .error (.trap { cause := cGUARD, val := s.here.guardrec }) s := by
  simp only [guardPoint, get_bind, h, ht, Bool.false_eq_true, if_false, if_true, raise_run]

/-! ### Phases armed (R137, R138) -/

/-- The end of phend: the phase is armed when every core of the gang has ended it. -/
def armEnded (p : Nat) : M Unit := do
  let s ← get
  match s.here.gang, s.gangOf s.cur.1 with
  | some gi, some g =>
    if (g.cores.all fun c => (s.core c).ended.getLsbD p) = true then set (s.modGang gi fun y => { y with armed := putBit y.armed p true })
    else pure ()
  | _, _ => pure ()

theorem armEnded_run (p : Nat) (s : State) : ∃ t, armEnded p s = .ok ⟨⟩ t ∧ t.core = s.core := by
  rw [armEnded, get_bind]
  rcases s.here.gang with _ | gi
  · exact ⟨s, rfl, rfl⟩
  rcases s.gangOf s.cur.1 with _ | g
  · exact ⟨s, rfl, rfl⟩
  by_cases h : (g.cores.all fun c => (s.core c).ended.getLsbD p) = true
  · exact ⟨_, congrFun (if_pos h) s, by funext c; simp only [State.core, modGang_cores]⟩
  · exact ⟨s, congrFun (if_neg h) s, rfl⟩

end Sys2Proof.Laws.WaitAndPhase

namespace Sys2Proof
open Sys2Proof.Machine Sys2Proof.Laws Sys2Proof.Laws.PipeControl Sys2Proof.Laws.WaitAndPhase

/-- Settles O26: each instruction by the way its work ends, and the comparison of a watched word by its load. -/
theorem waitsAndPhaseInstructions : Obligations.WaitsAndPhaseInstructions := by
  unfold Obligations.WaitsAndPhaseInstructions
  refine ⟨?waitv, ?note, ?wake, ?phopenFree, ?phopenGang, ?phset, ?phendAgain, ?phend, ?phwait, ?phwaitGuard, ?bits⟩
  case waitv =>
    intro a b sc s s1 s2 t A v x hA hv h22 h8 hrtc hab how hx
    have hcur : s2.cur = s.cur := (readS_cur hv).trans (readS_cur hA)
    have hclusters : s2.clusters = s.clusters := (congrArg State.clusters ((readS_rest hv).trans (readS_rest hA)) : _)
    have habs : s.firstAbsent (clusterOf s.cur.1) A.toNat 8 = none := by rw [← firstAbsent_congr hclusters, ← hcur, hab]
    have hload : ∀ f : Nat → M Unit, (afterOwnAmo A.toNat 8 >>= fun _ => scalarLoad A.toNat 8 >>= f) s2 = f x t := fun f =>
      (bind_ok (ClusterAccess.afterOwnAmo_passes how)).trans (bind_ok hx)
    have hin : ¬ Config.clusterBytes ≤ A.toNat := Nat.not_le.mpr h22
    refine ⟨fun hne => instr_ok (u := ⟨⟩) ?_, fun heq => ?_⟩
    · rw [bind_ok hA, bind_ok hv, if_neg hin, if_neg (not_not.mpr h8), if_neg (by rw [hrtc]; decide), habs]
      exact (hload _).trans (congrFun (if_neg hne) t)
    · refine Exists.imp (fun u ⟨hu, hst, hw, hpc, hm⟩ => ⟨hu, hst, hw, hm ▸ get_set _ _ _, hpc⟩)
        (instr_block (t := t.watchWord s.cur.1 s.cur.2 A.toNat) ?_ ((scalarLoad_cur hx).trans hcur))
      rw [bind_ok hA, bind_ok hv, if_neg hin, if_neg (not_not.mpr h8), if_neg (by rw [hrtc]; decide), habs]
      exact (hload _).trans (congrFun (if_pos heq) t)
  case note =>
    intro s k a n x c l w f h hl hc hw ha
    exact noteWrite_watch (by rw [heal_watch]; exact h) hl hc hw ha
  case wake =>
    intro s c l a v hst hw hm ht hh now
    have hrun := waitvWake_compares hst hw hm ht hh
    refine ⟨fun hg hb => ?_, fun hg => ?_, fun hg hb => ?_⟩
    · rw [watchLoad_plain hg hb] at hrun
      refine ⟨fun hne => hrun.trans (congrArg _ (if_neg hne)), fun heq => hrun.trans (congrArg _ ((if_pos heq).trans ?_))⟩
      rw [State.watchWord, scrub_watch]
      rfl
    · rw [watchLoad_guarded hg] at hrun
      refine ⟨fun hne => hrun.trans (congrArg _ (if_neg (Ne.symm hne))), fun heq => hrun.trans (congrArg _ (if_pos heq.symm))⟩
    · rw [watchLoad_bad hg hb] at hrun
      exact hrun
  case phopenFree =>
    intro a sc s t x hx hcl hg
    refine instr_ok (u := ⟨⟩) ?_
    rw [bind_ok hx, if_neg (by rw [hcl]; decide), bind_ok (modHere_run _ _), hg]
    rfl
  case phopenGang =>
    intro a sc s t x g hx hcl hg
    refine instr_ok (u := ⟨⟩) ?_
    rw [bind_ok hx, if_neg (by rw [hcl]; decide), bind_ok (modHere_run _ _), hg]
    rfl
  case phset => exact fun a sc s t x hx => instr_ok (u := ⟨⟩) ((bind_ok hx).trans (modMe_run _ _))
  case phendAgain =>
    intro a sc s t x hx hp he
    refine instr_ok (u := ⟨⟩) ?_
    rw [bind_ok hx, bind_ok (releasePoint_passes hp)]
    exact (bind_ok (modify_run _ _)).trans (congrFun (if_pos he) _)
  case phend =>
    intro a sc s t x hx hp he
    obtain ⟨u, hu, hcore⟩ := armEnded_run (x.toNat % 16)
      ((t.endMarks t.cur.1 t.cur.2).modCore (t.endMarks t.cur.1 t.cur.2).cur.1 fun k => { k with ended := putBit k.ended (x.toNat % 16) true })
    refine ⟨u, instr_ok (u := ⟨⟩) ?_, ?_⟩
    · rw [bind_ok hx, bind_ok (releasePoint_passes hp)]
      exact (bind_ok (modify_run _ _)).trans ((congrFun (if_neg (by rw [he]; decide)) _).trans ((bind_ok (modHere_run _ _)).trans hu))
    · rw [hcore, core_modCore]
      rfl
  case phwait =>
    intro a sc s t x hx hrtc hg
    refine ⟨fun hcl => instr_ok (u := ⟨⟩) ?_, fun hcl => ?_⟩
    · rw [bind_ok hx, if_neg (by rw [hrtc]; decide), bind_ok (guardPoint_clear hg), if_neg (by decide), if_pos hcl]
      rfl
    · refine Exists.imp (fun u ⟨hu, hst, hw, hpc, _⟩ => ⟨hu, hst, hw, hpc⟩) (instr_block ?_ (readS_cur hx))
      rw [bind_ok hx, if_neg (by rw [hrtc]; decide), bind_ok (guardPoint_clear hg), if_neg (by decide), if_neg (by rw [hcl]; decide)]
      rfl
  case phwaitGuard =>
    intro a sc s t x hx hrtc hg ht
    refine instr_trap (t := t) ?_
    rw [bind_ok hx, if_neg (by rw [hrtc]; decide), bind_error (guardPoint_raises hg ht)]
    rfl
  case bits => exact fun x p on i hi _ => getLsbD_putBit x on hi

end Sys2Proof
end

section
/-! PROOF. Flits that go first, arrive and are forwarded (R22, R26, R28, R29, R376 to R379). -/
namespace Sys2Proof.Laws.FlitOrder
open Sys2Proof.Machine

/-! ### The flit that an output serves (R379) -/

section
variable {waits : Nat → Msg → Bool} {frame last : Nat}

/-- A flit goes before one of an age and a turn: it is older, or as old and nearer in turn. -/
def Beats (frame last : Nat) (m : Msg) (age turn : Nat) : Prop :=
  age < m.age frame ∨ age = m.age frame ∧ turnDistance last m.input < turn

/-- One flit considered: the best so far, after it. -/
def serve (waits : Nat → Msg → Bool) (frame last n : Nat) (m : Msg) (best : Option (Nat × Nat × Nat)) : Option (Nat × Nat × Nat) :=
  if waits n m then
    match best with
    | some (_, a, d) =>
      if a < m.age frame ∨ (a = m.age frame ∧ turnDistance last m.input < d) then some (n, m.age frame, turnDistance last m.input) else best
    | none => some (n, m.age frame, turnDistance last m.input)
  else best

theorem oldestFor_cons (m : Msg) (r : List Msg) (n : Nat) (best : Option (Nat × Nat × Nat)) :
    oldestFor waits frame last (m :: r) n best = oldestFor waits frame last r (n + 1) (serve waits frame last n m best) := rfl

section
variable {n : Nat} {m : Msg} {best : Option (Nat × Nat × Nat)}

theorem serve_takes (hw : waits n m = true) (h : ∀ k a d, best = some (k, a, d) → Beats frame last m a d) :
    serve waits frame last n m best = some (n, m.age frame, turnDistance last m.input) := by
  refine (if_pos hw).trans ?_
  rcases best with _ | ⟨k, a, d⟩
  · rfl
  · exact if_pos (h k a d rfl)

theorem serve_keeps {k a d : Nat} (h : waits n m = true → ¬ Beats frame last m a d) :
    serve waits frame last n m (some (k, a, d)) = some (k, a, d) := by
  by_cases hw : waits n m = true
  · exact (if_pos hw).trans (if_neg (h hw))
  · exact if_neg hw

/-- The best flit is a new one that waits, or the one before. -/
theorem serve_cases : waits n m = true ∧ serve waits frame last n m best = some (n, m.age frame, turnDistance last m.input)
    ∨ serve waits frame last n m best = best := by
  by_cases hw : waits n m = true
  · by_cases h : ∀ k a d, best = some (k, a, d) → Beats frame last m a d
    · exact .inl ⟨hw, serve_takes hw h⟩
    · simp only [not_forall] at h
      obtain ⟨k, a, d, rfl, h⟩ := h
      exact .inr (serve_keeps fun _ => h)
  · exact .inr (if_neg hw)

end

/-- The best flit so far stays while none that waits goes before it. -/
theorem oldestFor_keep {l : List Msg} {n k a d : Nat}
    (h : ∀ j x, l[j]? = some x → waits (n + j) x = true → ¬ Beats frame last x a d) :
    oldestFor waits frame last l n (some (k, a, d)) = some (k, a, d) := by
  induction l generalizing n with
  | nil => rfl
  | cons x r ih =>
    have hx : serve waits frame last n x (some (k, a, d)) = some (k, a, d) := serve_keeps (h 0 x rfl)
    rw [oldestFor_cons, hx]
    exact ih fun j y hy hw => h (j + 1) y hy (by rw [show n + (j + 1) = n + 1 + j by omega]; exact hw)

/-- A flit that goes before every earlier one that waits, and that no later one goes before, is served. -/
theorem oldestFor_pick {l : List Msg} {n i : Nat} {m : Msg} {best : Option (Nat × Nat × Nat)}
    (hbest : ∀ k a d, best = some (k, a, d) → Beats frame last m a d) (hm : l[i]? = some m) (hw : waits (n + i) m = true)
    (hearlier : ∀ j x, j < i → l[j]? = some x → waits (n + j) x = true → Beats frame last m (x.age frame) (turnDistance last x.input))
    (hlater : ∀ j x, i < j → l[j]? = some x → waits (n + j) x = true → ¬ Beats frame last x (m.age frame) (turnDistance last m.input)) :
    oldestFor waits frame last l n best = some (n + i, m.age frame, turnDistance last m.input) := by
  induction l generalizing n i best with
  | nil => cases hm
  | cons x r ih =>
    have hshift : ∀ j, n + (j + 1) = n + 1 + j := fun j => by omega
    cases i with
    | zero =>
      obtain rfl : x = m := Option.some.inj hm
      have hx : serve waits frame last n x best = some (n, x.age frame, turnDistance last x.input) := serve_takes hw hbest
      rw [oldestFor_cons, hx]
      exact oldestFor_keep fun j y hy hwy => hlater (j + 1) y (by omega) hy (by rw [hshift]; exact hwy)
    | succ i =>
      rw [oldestFor_cons, hshift i]
      refine ih ?_ hm (by rw [← hshift]; exact hw) (fun j y hj hy hwy => hearlier (j + 1) y (by omega) hy (by rw [hshift]; exact hwy))
        fun j y hj hy hwy => hlater (j + 1) y (by omega) hy (by rw [hshift]; exact hwy)
      intro k a d he
      rcases serve_cases (waits := waits) (frame := frame) (last := last) (n := n) (m := x) (best := best) with ⟨hwx, hs⟩ | hs
      · rw [hs] at he
        cases he
        exact hearlier 0 x (by omega) rfl hwx
      · exact hbest k a d (hs ▸ he)

/-- The flit served waits. -/
theorem oldestFor_waits {l : List Msg} {n k a d : Nat} {best : Option (Nat × Nat × Nat)}
    (h : oldestFor waits frame last l n best = some (k, a, d)) :
    best = some (k, a, d) ∨ ∃ j x, l[j]? = some x ∧ k = n + j ∧ waits k x = true := by
  induction l generalizing n best with
  | nil => exact .inl h
  | cons x r ih =>
    rcases ih ((oldestFor_cons x r n best).symm.trans h) with hb | ⟨j, y, hy, rfl, hw⟩
    · rcases serve_cases (waits := waits) (frame := frame) (last := last) (n := n) (m := x) (best := best) with ⟨hw, hs⟩ | hs
      · rw [hs] at hb
        cases hb
        exact .inr ⟨0, x, rfl, rfl, hw⟩
      · exact .inl (hs ▸ hb)
    · exact .inr ⟨j + 1, y, hy, by omega, hw⟩

end

end Sys2Proof.Laws.FlitOrder
end


section
/-! PROOF. Messages, notices, results and instruction blocks on their way (R20, R22, R24, R29, R30, R41, R122, R136, R138, R235, R376, R377). -/
namespace Sys2Proof.Laws.MessageEvent
open Sys2Proof.Machine Sys2Proof.Laws.PipeControl Sys2Proof.Laws.FlitOrder

/-! ### Flits that leave the mesh (R22, R26, R376) -/

section
variable {s : State} {i : Nat} {m : Msg} (hm : s.net.msgs[i]? = some m)
include hm

/-- The oldest flit of an output that may leave is the next to leave by it. -/
theorem leaving_oldest (hmay : s.mayLeave i m = true)
    (hold : ∀ j q, s.net.msgs[j]? = some q → j ≠ i → q.exitKey = m.exitKey → s.mayLeave j q = true → q.age s.mod.frame < m.age s.mod.frame) :
    s.leaving i = some m := by
  have hpick := oldestFor_pick (waits := fun i q => decide (q.exitKey = m.exitKey) && s.mayLeave i q) (frame := s.mod.frame)
    (last := Map.getD s.net.lastIn m.exitKey 6) (n := 0) (best := none) (fun _ _ _ h => nomatch h) hm (by simp [hmay])
    (fun j q hj hq hw => ?earlier) (fun j q hj hq hw => ?later)
  case earlier =>
    simp only [Nat.zero_add, Bool.and_eq_true, decide_eq_true_eq] at hw
    exact .inl (hold j q hq (by omega) hw.1 hw.2)
  case later =>
    simp only [Nat.zero_add, Bool.and_eq_true, decide_eq_true_eq] at hw
    have := hold j q hq (by omega) hw.1 hw.2
    unfold Beats
    omega
  simp [State.leaving, hm, State.leavesNext, hpick]

theorem leaving_held (hmay : s.mayLeave i m = false) : s.leaving i = none := by
  have hnext : s.leavesNext i m = false := by
    rw [State.leavesNext, decide_eq_false_iff_not, Option.map_eq_some_iff]
    rintro ⟨⟨k, a, d⟩, hk, rfl⟩
    rcases oldestFor_waits hk with h | ⟨j, q, hq, hj, hw⟩
    · cases h
    · obtain rfl : k = j := by rw [hj, Nat.zero_add]
      obtain rfl : m = q := Option.some.inj (hm.symm.trans hq)
      simp [hmay] at hw
  simp [State.leaving, hm, hnext]

end

theorem mayLeave_message {s : State} {i : Nat} {m : Msg} (hl : m.load = none) : s.mayLeave i m = true ↔
    m.pos = m.dst ∧ overtakes m (s.net.msgs.take i) = false ∧ s.counting m.dst = true := by
  simp only [State.mayLeave, hl, Bool.and_eq_true, decide_eq_true_eq, Bool.not_eq_true', and_assoc]

/-! ### What a flit brings (R22, R28, R166, R336) -/

section
variable {s : State} {i : Nat} {m : Msg} (hm : s.leaving i = some m)
include hm

theorem messageArrival_message (hl : m.load = none) : exec (.messageArrival i) s = .next ((s.leave i m).receive m) := by
  refine happen_some ?_
  simp only [hm, hl]

theorem messageArrival_page {q : PageReq} (hl : m.load = some (.page q)) : exec (.messageArrival i) s = .next
    ((s.leave i m).modSlice (homeSlice (q.page * 64)) fun y => { y with reqs := y.reqs ++ [{ q with frame := m.frame }] }) := by
  refine happen_some ?_
  simp only [hm, hl]

theorem messageArrival_ship {q : Ship} (hl : m.load = some (.ship q)) : exec (.messageArrival i) s = .next { s.leave i m with
    bdps := Map.set s.bdps (homeSlice (s.shipLoc q).phys / 2)
      (Map.getD s.bdps (homeSlice (s.shipLoc q).phys / 2) [] ++ [{ q with phys := (s.shipLoc q).phys, frame := m.frame }]) } := by
  refine happen_some ?_
  simp only [hm, hl]
  rfl

theorem messageArrival_amo {q : AmoReq} (hl : m.load = some (.amo q)) : exec (.messageArrival i) s = .next
    ((s.leave i m).modCore m.dst fun k => { k with sysq := k.sysq ++ [q] }) := by
  refine happen_some ?_
  simp only [hm, hl]

theorem acceptance_run (hl : m.load = some .accept) : exec (.acceptance i) s = .next
    ((s.leave i m).modCore m.dst fun k => { k with acks := k.acks - 1 }) := by
  refine happen_some ?_
  simp only [hm, hl, if_true]

theorem refusal_run (hl : m.load = some .refused) : exec (.refusal i) s = .next
    ((s.leave i m).modCore m.dst fun k => { k with refusals := k.refusals ++ [m.back] }) := by
  refine happen_some ?_
  simp only [hm, hl, if_true]

end

theorem messageArrival_idle {s : State} {i : Nat} (h : s.leaving i = none) : exec (.messageArrival i) s = .next s := by
  change execMessageArrival i s = _
  simp only [execMessageArrival, h]
  rfl

theorem core_sendLoad (s : State) (c l d : Nat) (q : Load) (tc : Nat) : (s.sendLoad c l d q tc).core = s.core := rfl

theorem core_sendRetire (s : State) (r : Retire) : (s.sendRetire r).core = s.core := rfl

/-- A message takes a free mailbox entry, and an acceptance goes back. -/
theorem receive_accepts {s : State} {m : Msg} (h : (s.core m.dst).mailbox.length < (s.core m.dst).mbxcfg) : ∃ q : Msg,
    (s.receive m).net.msgs = s.net.msgs ++ [q] ∧ q.load = some .accept ∧ q.src = m.dst ∧ q.dst = m.src ∧ q.pos = m.dst ∧ q.tc = m.tc
      ∧ ((s.receive m).core m.dst).mailbox = (s.core m.dst).mailbox ++ [{ msg := m, written := !hdrDep m.hdr }] := by
  rw [State.receive, if_pos h]
  refine ⟨_, rfl, rfl, rfl, rfl, rfl, rfl, ?_⟩
  rw [core_sendLoad, core_modCore]

/-- A message that finds no free entry goes back itself. -/
theorem receive_refuses {s : State} {m : Msg} (h : (s.core m.dst).mbxcfg ≤ (s.core m.dst).mailbox.length) : ∃ q : Msg,
    (s.receive m).net.msgs = s.net.msgs ++ [q] ∧ q.load = some .refused ∧ q.src = m.dst ∧ q.dst = m.src ∧ q.pos = m.dst ∧ q.data = []
      ∧ q.hdr = m.hdr ∧ q.w = m.w ∧ q.retire = m.retire ∧ ((s.receive m).core m.dst).mailbox = (s.core m.dst).mailbox := by
  rw [State.receive, if_neg (Nat.not_lt.mpr h)]
  exact ⟨_, rfl, rfl, rfl, rfl, rfl, rfl, rfl, rfl, rfl, rfl⟩

/-! ### Deposit data (R122) -/

theorem length_count (a n : Nat) : (count a n).length = n := by
  induction n generalizing a with
  | zero => rfl
  | succ n ih => simp [count, ih]

theorem freeFlits_all {s : State} {k : Nat} {e : MailEntry} (hf : e.flits = [])
    (hl : ∀ j, j < e.msg.data.length / 64 → s.lockedLocal k (cwDblk e.msg.cw * 64 + 64 * j) 64 true = false) :
    s.freeFlits k e = count 0 (e.msg.data.length / 64) := by
  rw [State.freeFlits, List.filter_eq_self]
  intro j hj
  have hj' := (Preemption.mem_count.mp hj).2
  simp [hf, hl j (by omega)]

theorem writeFlit_keeps (s : State) (k : Nat) (m : Msg) (i : Nat) : (s.writeFlit k m i).cores = s.cores ∧ (s.writeFlit k m i).net = s.net := by
  unfold State.writeFlit
  dsimp only
  split
  · exact ⟨rfl, rfl⟩
  · exact ⟨cwrite_cores _ _ _ _ _, cwrite_net _ _ _ _ _⟩

theorem foldl_writeFlit_keeps (k : Nat) (m : Msg) (l : List Nat) (s : State) :
    (l.foldl (fun t i => t.writeFlit k m i) s).cores = s.cores ∧ (l.foldl (fun t i => t.writeFlit k m i) s).net = s.net := by
  induction l generalizing s with
  | nil => exact ⟨rfl, rfl⟩
  | cons i r ih =>
    obtain ⟨hc, hn⟩ := writeFlit_keeps s k m i
    exact ⟨(ih _).1.trans hc, (ih _).2.trans hn⟩

/-- The flits written leave the mailbox and the messages under way alone, and stand in the entry. -/
theorem writeFlits_shows (s : State) (c : Nat) (e : MailEntry) (l : List Nat) :
    ((s.writeFlits c e l).1.core c).mailbox = (s.core c).mailbox ∧ (s.writeFlits c e l).1.net = s.net
      ∧ (s.writeFlits c e l).2.msg = e.msg ∧ (s.writeFlits c e l).2.flits = e.flits ++ l := by
  obtain ⟨hc, hn⟩ := foldl_writeFlit_keeps (clusterOf c) e.msg l s
  have hcore : (l.foldl (fun t i => t.writeFlit (clusterOf c) e.msg i) s).core c = s.core c := by simp only [State.core, hc]
  unfold State.writeFlits
  dsimp only
  split
  · split
    · exact ⟨by rw [hcore], hn, rfl, rfl⟩
    · exact ⟨by rw [core_modCore, hcore], hn, rfl, rfl⟩
  · exact ⟨by rw [hcore], hn, rfl, rfl⟩

/-- A deposit whose data are all in place, and that carries no stamp, is done. -/
theorem depositDataWrite_done {s : State} {c i : Nat} {e : MailEntry} (he : (s.core c).mailbox[i]? = some e) (hw : e.written = false)
    (hv : cwVstamp e.msg.cw = false)
    (hl : (s.writeFlits c e (s.freeFlits (clusterOf c) e)).2.flits.length = e.msg.data.length / 64) :
    exec (.depositDataWrite c i) s = .next
      (((s.writeFlits c e (s.freeFlits (clusterOf c) e)).1.modCore c fun k =>
        k.putEntry i (s.writeFlits c e (s.freeFlits (clusterOf c) e)).2).deposited c i (s.writeFlits c e (s.freeFlits (clusterOf c) e)).2) := by
  refine happen_some ?_
  simp only [he, hw, hl, Nat.lt_irrefl, if_false, Bool.false_eq_true, State.stamp, hv, Bool.not_false, if_true]

theorem getElem_putEntry {k : Core} {i : Nat} {e e' : MailEntry} (h : k.mailbox[i]? = some e') : (k.putEntry i e).mailbox[i]? = some e := by
  obtain ⟨hi, -⟩ := List.getElem?_eq_some_iff.mp h
  have hlen : (k.mailbox.take i).length = i := by rw [List.length_take]; omega
  simp only [Core.putEntry]
  rw [List.getElem?_append_right (by omega), hlen, Nat.sub_self]
  rfl

theorem removeAt_putEntry {k : Core} {i : Nat} {e e' : MailEntry} (h : k.mailbox[i]? = some e') :
    removeAt (k.putEntry i e).mailbox i = removeAt k.mailbox i := by
  obtain ⟨hi, -⟩ := List.getElem?_eq_some_iff.mp h
  have hlen : (k.mailbox.take i).length = i := by rw [List.length_take]; omega
  simp only [removeAt, Core.putEntry]
  congr 1
  · rw [List.take_append_of_le_length (by omega), List.take_of_length_le (by omega)]
  · rw [List.drop_append, List.drop_of_length_le (by omega), hlen, Nat.add_sub_cancel_left]
    rfl

/-- A deposit with a handler becomes pending in its mailbox entry. -/
theorem deposited_pending {s : State} {c i : Nat} {e e0 : MailEntry} (hh : cwHandler e.msg.cw ≠ 0) (h : (s.core c).mailbox[i]? = some e0) :
    ∃ e', ((s.deposited c i e).core c).mailbox[i]? = some e' ∧ e'.written = true ∧ e'.msg = e.msg := by
  refine ⟨{ e with written := true }, ?_, rfl, rfl⟩
  rw [State.deposited, if_neg hh, core_modCore]
  exact getElem_putEntry h

/-! ### Dispatch (R20, R24) -/

theorem bestArrival_max (l : List (From × Arrival)) (b : From × Arrival) : ∃ y, bestArrival l (some b) = some y ∧ (y = b ∨ y ∈ l)
    ∧ b.2.level ≤ y.2.level ∧ ∀ x ∈ l, x.2.level ≤ y.2.level := by
  induction l generalizing b with
  | nil => exact ⟨b, rfl, .inl rfl, le_rfl, fun _ h => nomatch h⟩
  | cons a r ih =>
    obtain ⟨y, hy, hmem, hb, hr⟩ := ih (if b.2.level < a.2.level then a else b)
    have hpair : b.2.level ≤ y.2.level ∧ a.2.level ≤ y.2.level := by split at hb <;> omega
    refine ⟨y, ?_, ?_, hpair.1, List.forall_mem_cons.mpr ⟨hpair.2, hr⟩⟩
    · rw [bestArrival, ← hy]
      split <;> rfl
    · rcases hmem with h | h
      · split at h
        · exact .inr (h ▸ List.mem_cons_self)
        · exact .inl h
      · exact .inr (List.mem_cons_of_mem _ h)

/-- The arrival that dispatches has the highest level (R24). -/
theorem bestArrival_highest {l : List (From × Arrival)} {x : From × Arrival} (hx : x ∈ l) :
    ∃ y, bestArrival l none = some y ∧ y ∈ l ∧ x.2.level ≤ y.2.level := by
  cases l with
  | nil => cases hx
  | cons a r =>
    obtain ⟨y, hy, hmem, ha, hr⟩ := bestArrival_max r a
    refine ⟨y, hy, ?_, ?_⟩
    · exact hmem.elim (fun h => h ▸ List.mem_cons_self) (List.mem_cons_of_mem _)
    · rcases List.mem_cons.mp hx with rfl | hx
      · exact ha
      · exact hr x hx

theorem startHandler_mb (x : Ctx) (a : Arrival) (n i : Nat) (hi : i < 7) : Map.getD (x.startHandler a n).mb i 0 = a.w.getD i 0 := by
  change Map.getD ((count 0 7).map fun i => (i, a.w.getD i 0)) i 0 = _
  interval_cases i <;> rfl

theorem startHandler_s1 (x : Ctx) (a : Arrival) (n : Nat) : (x.startHandler a n).sreg 1 = 0 := by
  change (x.setSreg 1 0).sreg 1 = 0
  simp [Ctx.setSreg, Ctx.sreg]

theorem bank_unbuffered (k : Core) (l : Nat) : Core.bank { k with ibuf := none } l = k.bank l := rfl

theorem dispatch_starts {s : State} {c : Nat} {f : From} {a : Arrival}
    (hb : bestArrival ((s.arrivals c).filter fun q => (s.core c).mayStart q.2.level) none = some (f, a)) (hc : s.counting c = true) :
    exec (.dispatch c) s = .next (s.setCore c { ((s.core c).takeArrival f).setBank a.level
      ((((s.core c).takeArrival f).bank a.level).startHandler a (s.core c).cycle) with ibuf := none }) := by
  refine happen_some ?_
  simp only [hb, hc, if_true]

/-! ### Phases and notices (R136, R138, R235) -/

section
variable {s : State} {c l : Nat}

theorem st_endCheck (x : Ctx) (next : BitVec 22) : (endCheck x next).st = x.st := by
  have hlevel : ∀ k xn, (endLevel k xn).1.st = xn.1.st := by
    intro k xn
    unfold endLevel
    dsimp only
    split <;> rfl
  simp only [endCheck, hlevel]

/-- The end of a wait changes the context's bank, which is READY, and at most the instruction buffer. -/
theorem core_finishWait (s : State) (c l : Nat) : ∃ x : Ctx, x.st = .ready ∧
    ((s.finishWait c l).core c = (s.core c).setBank l x ∨ (s.finishWait c l).core c = ((s.core c).setBank l x).transfer x.pc) := by
  unfold State.finishWait State.goOnAt
  dsimp only
  rw [core_setCore]
  generalize hx : endCheck _ _ = x
  refine ⟨x, by rw [← hx, st_endCheck], ?_⟩
  split
  · exact .inl rfl
  · exact .inr rfl

theorem closed_transfer (k : Core) (pc : BitVec 22) : (k.transfer pc).closed = k.closed := by
  unfold Core.transfer
  split <;> rfl

theorem st_finishWait : ((s.finishWait c l).ctx c l).st = .ready := by
  obtain ⟨x, hx, h | h⟩ := core_finishWait s c l
  · rw [State.ctx, h, bank_setBank, hx]
  · rw [State.ctx, h, bank_transfer, bank_setBank, hx]

theorem ctx_finishWait_ne {i : Nat} (hi : i ≠ l) : (s.finishWait c l).ctx c i = s.ctx c i := by
  obtain ⟨x, -, h | h⟩ := core_finishWait s c l
  · rw [State.ctx, h, bank_setBank_ne _ _ _ _ hi, State.ctx]
  · rw [State.ctx, h, bank_transfer, bank_setBank_ne _ _ _ _ hi, State.ctx]

theorem closed_finishWait : ((s.finishWait c l).core c).closed = (s.core c).closed := by
  obtain ⟨x, -, h | h⟩ := core_finishWait s c l
  · rw [h]
    rfl
  · rw [h, closed_transfer]
    rfl

end

theorem retirement_run {s : State} {i : Nat} {r : Retire} (h : s.net.retires[i]? = some r) : exec (.retirement i) s = .next
    ((s.modNet fun n => { n with retires := removeAt n.retires i }).countDown r.router r.phase) := by
  refine happen_some ?_
  simp only [h]

/-- An armed phase of a placed gang closes when every router reads 0 for it. -/
theorem phaseClose_run {s : State} {gi p : Nat} {g : Gang} (hg : Map.get? s.gangs gi = some g) (hp : p < 16) (ha : g.armed.getLsbD p = true)
    (hi : g.image = none) (hz : ∀ c ∈ g.cores, s.phaseOf c p = 0) : exec (.phaseClose gi p) s = .next
      ((s.modGang gi fun x => { x with armed := putBit x.armed p false }).modNet fun n =>
        { n with closes := n.closes ++ g.cores.map fun c => (c, p) }) := by
  have hall : (g.armed.getLsbD p && decide (p < 16) && g.image.isNone && g.cores.all fun c => decide (s.phaseOf c p = 0)) = true := by
    simp only [ha, hp, hi, decide_true, Option.isNone_none, Bool.and_self, Bool.true_and, List.all_eq_true, decide_eq_true_eq]
    exact hz
  refine happen_some ?_
  simp only [State.closePhase, hg, hall, if_true]

/-- A close at its core: CLOSED is set, and the bit is left pending while a handler is bound. -/
def closeReaches (s : State) (i c p : Nat) : State :=
  (s.modNet fun n => { n with closes := removeAt n.closes i }).modCore c fun k =>
    { k with
      closed := putBit k.closed p true
      closes := if (k.entry 0xFC).isSome && !k.closes.contains p then k.closes ++ [p] else k.closes }

theorem phaseCloseDelivery_run {s : State} {i c p : Nat} (h : s.net.closes[i]? = some (c, p)) :
    exec (.phaseCloseDelivery i) s = .next ((closeReaches s i c p).wakePhase c p [0, 1, 2, 3]) := by
  refine happen_some ?_
  simp only [h]
  rfl

theorem faultNotice_run {s : State} {i c : Nat} {w : Word × Word × Word} (h : s.net.notices[i]? = some (c, w)) (hc : c < Config.numCores)
    (h8 : (s.core c).notices.length < 8) : exec (.faultNotice i) s = .next
      ((s.modNet fun n => { n with notices := removeAt n.notices i }).modCore c fun k => { k with notices := k.notices ++ [w] }) := by
  refine happen_some ?_
  simp only [h, hc, h8, and_self, if_true]

/-- The contexts that wait for a phase go on; a context that is READY stays so, and CLOSED stays. -/
theorem wakePhase_shows (c p : Nat) (ls : List Nat) (s : State) : ((s.wakePhase c p ls).core c).closed = (s.core c).closed
    ∧ (∀ l, (s.ctx c l).st = .ready → ((s.wakePhase c p ls).ctx c l).st = .ready)
    ∧ ∀ l ∈ ls, (s.ctx c l).st = .waiting → (s.ctx c l).wait = .phwait p → ((s.wakePhase c p ls).ctx c l).st = .ready := by
  induction ls generalizing s with
  | nil => exact ⟨rfl, fun _ h => h, fun _ h => nomatch h⟩
  | cons l r ih =>
    rw [State.wakePhase]
    by_cases hw : (s.ctx c l).st = .waiting ∧ (s.ctx c l).wait = .phwait p
    · simp only [if_pos hw]
      obtain ⟨h1, h2, h3⟩ := ih (s.finishWait c l)
      refine ⟨h1.trans closed_finishWait, fun i hi => ?_, fun i hi hst hwait => ?_⟩
      · have hne : i ≠ l := by
          rintro rfl
          rw [hw.1] at hi
          cases hi
        exact h2 i (by rw [ctx_finishWait_ne hne, hi])
      · by_cases hil : i = l
        · subst hil
          exact h2 i st_finishWait
        · refine h3 i ((List.mem_cons.mp hi).resolve_left hil) ?_ ?_
          · rw [ctx_finishWait_ne hil, hst]
          · rw [ctx_finishWait_ne hil, hwait]
    · simp only [if_neg hw]
      obtain ⟨h1, h2, h3⟩ := ih s
      refine ⟨h1, h2, fun i hi hst hwait => h3 i ((List.mem_cons.mp hi).resolve_left ?_) hst hwait⟩
      rintro rfl
      exact hw ⟨hst, hwait⟩

/-! ### Forwarding (R379) -/

/-- An output serves its flit: it stands at the next router, and the output has served its input. -/
theorem flitForward_serves {s : State} {r d a e : Nat} {l q : List Msg} {m : Msg} (hl : s.net.msgs = l ++ m :: q)
    (h : oldestFor (fun _ m => decide (m.nextChannel = some (r, d))) s.mod.frame (Map.getD s.net.lastIn (outputKey r d) 6) s.net.msgs 0 none
      = some (l.length, a, e)) : exec (.flitForward r d) s = .next (s.modNet fun n => { n with
        msgs := l ++ { m with pos := channelEnd (r, d), input := channelInput d } :: q
        lastIn := Map.set n.lastIn (outputKey r d) m.input }) := by
  refine happen_some ?_
  have hone : (s.net.msgs.drop l.length).take 1 = [m] := by rw [hl, List.drop_left]; rfl
  have hhead : s.net.msgs.take l.length = l := by rw [hl, List.take_left]
  have htail : s.net.msgs.drop (l.length + 1) = q := by rw [hl, ← List.drop_drop, List.drop_left]; rfl
  simp only [h, State.modNet, hone, hhead, htail, List.map_cons, List.map_nil, List.append_assoc, List.singleton_append, List.foldl_cons,
    List.foldl_nil]

/-! ### Blocks fetched (R39, R41) -/

/-- A fold in which only one element has an effect. -/
theorem foldl_only {α β : Type} (f : α → β → α) {l : List β} {c : β} (hl : l.Nodup) (hc : c ∈ l) (h : ∀ i ∈ l, i ≠ c → ∀ t, f t i = t) (s : α) :
    l.foldl f s = f s c := by
  have hid : ∀ (r : List β) (t : α), (∀ i ∈ r, ∀ t, f t i = t) → r.foldl f t = t := by
    intro r
    induction r with
    | nil => exact fun _ _ => rfl
    | cons i r ih =>
      intro t hr
      rw [List.foldl_cons, hr i List.mem_cons_self, ih t fun j hj => hr j (List.mem_cons_of_mem _ hj)]
  induction l generalizing s with
  | nil => cases hc
  | cons i r ih =>
    obtain ⟨hi, hr⟩ := List.nodup_cons.mp hl
    rw [List.foldl_cons]
    by_cases hic : i = c
    · subst hic
      exact hid r _ fun j hj => h j (List.mem_cons_of_mem _ hj) fun e => hi (e ▸ hj)
    · rw [h i List.mem_cons_self hic]
      exact ih hr ((List.mem_cons.mp hc).resolve_left (Ne.symm hic)) (fun j hj => h j (List.mem_cons_of_mem _ hj)) s

theorem wantsBlock_correct {s : State} {c b pc : Nat} (h : s.wantsBlock c b = some pc) : s.badLocal (clusterOf c) pc 64 = false := by
  unfold State.wantsBlock at h
  dsimp only at h
  split at h
  · cases h
  · split at h
    · next hc =>
      obtain rfl := Option.some.inj h
      simp only [Bool.and_eq_true, Bool.not_eq_true'] at hc
      exact hc.1.2
    · cases h

theorem ibuf_fill {s : State} {c pc : Nat} (h : s.badLocal (clusterOf c) pc 64 = false) :
    ((s.fill c pc).core c).ibuf = some (pc, Mem.readBytes s.cmem (cellKey (clusterOf c) pc) 64, []) := by
  simp only [State.fill, core_modCore, h, Bool.false_eq_true, if_false]

/-- A block that one core of the cluster wants fills that core's buffer. -/
theorem instructionFetch_one {s : State} {k b c pc : Nat} (hc : c < 8) (hw : s.wantsBlock (coreIn k c) b = some pc)
    (hother : ∀ i, i < 8 → i ≠ c → s.wantsBlock (coreIn k i) b = none) :
    exec (.instructionFetch k b) s = .next (s.fill (coreIn k c) pc) := by
  refine happen_some (s := s) (congrArg some ?_)
  refine (foldl_only _ (ModuleEvent.nodup_count 0 8) (Preemption.mem_count.mpr ⟨Nat.zero_le c, by omega⟩) (fun i hi hne t => ?_) s).trans ?_
  · rw [hother i (by have := (Preemption.mem_count.mp hi).2; omega) hne]
  · rw [hw]

/-! ### Results that land (R63) -/

theorem resultLands_register {s : State} {c l i r : Nat} {q : Pend} (hq : (s.ctx c l).pend[i]? = some q) (hr : q.ready = none)
    (ho : q.open_ = 0) (hd : q.dest = .scalar r) (h28 : r < 28) : exec (.resultLands c l i) s = .next
      ((s.modCtx c l fun x => x.land q).modCtx c l fun x => { x with pend := removeAt x.pend i }) := by
  have hlink : s.landLink c q = none := by simp only [State.landLink, hd, h28, if_true]
  refine happen_some ?_
  simp only [hq, hr, ho, hlink]
  rfl

theorem land_scalar {x : Ctx} {q : Pend} {r : Nat} (hd : q.dest = .scalar r) (h0 : 0 < r) :
    (x.land q).sreg r = q.val.setWidth 64 ∧ (x.land q).pend = x.pend := by
  have hne : r ≠ 0 := by omega
  simp only [Ctx.land, hd, Ctx.setSreg, Ctx.sreg, hne, if_false, getD_set, and_self]

end Sys2Proof.Laws.MessageEvent

namespace Sys2Proof
open Sys2Proof.Machine Sys2Proof.Laws Sys2Proof.Laws.PipeControl Sys2Proof.Laws.FlitOrder Sys2Proof.Laws.MessageEvent

/-- Messages, deposits, dispatch, retirements, closes and notices. -/
theorem messageEvents : Claims.messageEvents := by
  refine ⟨?leaves, ?message, ?page, ?ship, ?amo, ?accepted, ?refused, ?deposit, ?dispatch, fun l x => bestArrival_highest, ?retired, ?close,
    ?closeDelivered, ?notice⟩
  case leaves =>
    intro s i m hm
    refine ⟨leaving_oldest hm, fun h => ?_, mayLeave_message⟩
    exact ⟨leaving_held hm h, messageArrival_idle (leaving_held hm h)⟩
  case message =>
    intro s i m hm hl
    refine ⟨fun h => ?_, fun h => ?_⟩
    · obtain ⟨q, hnet, hq, hsrc, hdst, hpos, htc, hbox⟩ := receive_accepts (s := s.leave i m) h
      exact ⟨_, q, messageArrival_message hm hl, hnet, hq, hsrc, hdst, hpos, htc, _, rfl, rfl, hbox⟩
    · obtain ⟨q, hnet, hq⟩ := receive_refuses (s := s.leave i m) h
      exact ⟨_, q, messageArrival_message hm hl, hnet, hq⟩
  case page =>
    intro s i m q hm hl
    refine ⟨_, messageArrival_page hm hl, rfl, ?_⟩
    rw [slice_modSlice]
    rfl
  case ship =>
    intro s i m q hm hl
    exact ⟨_, messageArrival_ship hm hl, rfl, getD_set _ _ _ _⟩
  case amo =>
    intro s i m q hm hl
    refine ⟨_, messageArrival_amo hm hl, rfl, ?_⟩
    rw [core_modCore]
    rfl
  case accepted =>
    intro s i m hm hl
    refine ⟨_, acceptance_run hm hl, rfl, ?_⟩
    rw [core_modCore]
    rfl
  case refused =>
    intro s i m hm hl
    refine ⟨_, refusal_run hm hl, rfl, ?_⟩
    rw [core_modCore]
    exact ⟨rfl, rfl⟩
  case deposit =>
    intro s c i e he hw hf hv hl
    obtain ⟨hbox, hnet, hmsg, hflits⟩ := writeFlits_shows s c e (s.freeFlits (clusterOf c) e)
    have hrun := depositDataWrite_done he hw hv (by rw [hflits, hf, freeFlits_all hf hl, List.nil_append, length_count])
    have he1 : (((s.writeFlits c e (s.freeFlits (clusterOf c) e)).1.core c).mailbox)[i]? = some e := by rw [hbox, he]
    refine ⟨_, hrun, fun hh => ?_, fun hh => ?_⟩
    · obtain ⟨e', hget, hwritten, he'⟩ := deposited_pending (s := (s.writeFlits c e (s.freeFlits (clusterOf c) e)).1.modCore c fun k =>
        k.putEntry i (s.writeFlits c e (s.freeFlits (clusterOf c) e)).2) (c := c) (i := i) (by rw [hmsg]; exact hh)
        (by rw [core_modCore]; exact getElem_putEntry he1)
      exact ⟨e', hget, hwritten, he'.trans hmsg⟩
    · rw [State.deposited, hmsg, if_pos hh]
      refine ⟨?_, ?_⟩
      · rw [core_sendRetire, core_modCore, core_modCore]
        exact (removeAt_putEntry he1).trans (by rw [hbox])
      · exact congrArg (fun n : Net => n.retires ++ [e.msg.retire]) hnet
  case dispatch =>
    intro s c f a hb hc
    refine ⟨_, dispatch_starts hb hc, ?_⟩
    simp only [State.ctx, core_setCore, bank_unbuffered, bank_setBank]
    exact ⟨rfl, rfl, rfl, rfl, rfl, rfl, startHandler_s1 _ _ _, startHandler_mb _ _ _, trivial⟩
  case retired =>
    intro s i r hr
    refine ⟨_, retirement_run hr, rfl, ?_⟩
    rw [State.phaseOf, State.countDown, core_modCore]
    exact getD_set _ _ _ _
  case close =>
    intro s gi p g hg hp ha hi hz
    refine ⟨_, phaseClose_run hg hp ha hi hz, ?_, _, Preemption.get_modGang s gi _ hg, ?_⟩
    · exact congrArg (fun n : Net => n.closes ++ _) (modGang_net _ _ _)
    · rw [WaitAndPhase.getLsbD_putBit _ _ hp, if_pos rfl]
  case closeDelivered =>
    intro s i c p hc hp
    obtain ⟨hcl, -, hwake⟩ := wakePhase_shows c p [0, 1, 2, 3] (closeReaches s i c p)
    have hctx : ∀ l, (closeReaches s i c p).ctx c l = s.ctx c l := fun l => by
      rw [closeReaches, State.ctx, core_modCore]
      rfl
    refine ⟨_, phaseCloseDelivery_run hc, ?_, fun l hl hst hw => hwake l ?_ ((hctx l).symm ▸ hst) ((hctx l).symm ▸ hw)⟩
    · rw [hcl, closeReaches, core_modCore, WaitAndPhase.getLsbD_putBit _ _ hp, if_pos rfl]
    · simp only [List.mem_cons, List.not_mem_nil, or_false]
      omega
  case notice =>
    intro s i c w hn hc h8
    refine ⟨_, faultNotice_run hn hc h8, ?_, rfl⟩
    rw [core_modCore]
    rfl

/-- Forwarding, frames, results that land and blocks fetched. -/
theorem fabricEvents : Claims.fabricEvents := by
  refine ⟨?forward, ?frame, ?lands, ?fetch⟩
  case forward =>
    intro s r d l m q hl hch last hbefore hbehind
    have hm : (l ++ m :: q)[l.length]? = some m := by simp
    have hpick := oldestFor_pick (waits := fun _ m => decide (m.nextChannel = some (r, d))) (frame := s.mod.frame) (last := last) (n := 0)
      (best := none) (fun _ _ _ h => nomatch h) hm (by simp [hch]) (fun j x hj hx hw => ?earlier) (fun j x hj hx hw => ?later)
    case earlier =>
      rw [List.getElem?_append_left hj] at hx
      exact hbefore x (List.mem_of_getElem? hx) (by simpa using hw)
    case later =>
      rw [List.getElem?_append_right (by omega), List.getElem?_cons, if_neg (by omega)] at hx
      have := hbehind x (List.mem_of_getElem? hx) (by simpa using hw)
      unfold Beats
      omega
    rw [Nat.zero_add] at hpick
    exact ⟨_, flitForward_serves hl (hl ▸ hpick), rfl, getD_set _ _ _ _⟩
  case frame =>
    intro s h
    refine ⟨_, happen_some (by simp only [h]; rfl), rfl, ?_⟩
    exact List.length_map _
  case lands =>
    intro s c l i q r hq hr ho hd h0 h28
    refine ⟨_, resultLands_register hq hr ho hd h28, ?_⟩
    simp only [ctx_modCtx]
    obtain ⟨hs, hp⟩ := land_scalar (x := s.ctx c l) hd h0
    exact ⟨hs, by rw [hp]⟩
  case fetch =>
    intro s k b c pc hc hw hother
    exact ⟨_, instructionFetch_one hc hw hother, ibuf_fill (wantsBlock_correct hw)⟩

/-- Settles O47: what the mesh brings to a core, a slice or a queue, and what moves in the fabric itself. -/
theorem messageAndFabricEvents : Obligations.MessageAndFabricEvents := ⟨messageEvents, fabricEvents⟩

end Sys2Proof
end

section
/-! PROOF. Gangs from allocation to completion (R44 to R48, R391 to R396). -/
namespace Sys2Proof.Laws.GangLife
open Sys2Proof.Machine Sys2Proof.Laws.PipeControl

/-! ### Changes made along a list -/

/-- What every change of a fold keeps, the fold keeps. -/
theorem foldl_keeps {α β γ : Type} {f : α → β → α} (p : α → γ) (h : ∀ s b, p (f s b) = p s) (l : List β) (s : α) : p (l.foldl f s) = p s := by
  induction l generalizing s with
  | nil => rfl
  | cons b r ih => exact (ih _).trans (h s b)

theorem foldl_modCore_keeps {γ : Type} (p : State → γ) (h : ∀ s c f, p (State.modCore s c f) = p s) (c : Nat → Nat) (f : Core → Core)
    (l : List Nat) (s : State) : p (l.foldl (fun t i => t.modCore (c i) f) s) = p s :=
  foldl_keeps p (fun t i => h t (c i) f) l s

/-- A change of the cores of a list establishes what it establishes of each. -/
theorem core_foldl_modCore_mem {P : Core → Prop} {f : Core → Core} (hf : ∀ k, P (f k)) (l : List Nat) (s : State) (c : Nat)
    (h : c ∈ l ∨ P (s.core c)) : P ((l.foldl (fun t c => t.modCore c f) s).core c) := by
  induction l generalizing s with
  | nil => exact h.resolve_left List.not_mem_nil
  | cons d r ih =>
    refine ih _ ?_
    by_cases hd : c = d
    · subst hd
      exact .inr (by rw [core_modCore]; exact hf _)
    · rw [core_modCore_ne _ _ _ _ hd]
      exact h.imp_left fun hm => (List.mem_cons.mp hm).resolve_left hd

/-! ### Allocation (R44 to R46) -/

/-- The gangs, and the cores of a gang, once it is placed. -/
theorem place_shows (s : State) (gi : Nat) (g : Gang) : Map.get? (s.place gi g).gangs gi = some g ∧ (s.place gi g).vale = s.vale
    ∧ ∀ c ∈ g.cores, ((s.place gi g).core c).gang = some gi := by
  refine ⟨get_set _ _ _, ?_, fun c hc => ?_⟩
  · exact (foldl_keeps (f := fun t k => t.modCluster k Cluster.freed) State.vale (fun _ _ => rfl) _ _).trans
      (foldl_keeps (f := fun t c => t.modCore c fun k => { k.freed with gang := some gi }) State.vale (fun _ _ => rfl) _ _)
  · refine (congrArg Core.gang (Preemption.cores_freeClusters g.clusters _ c)).trans ?_
    exact core_foldl_modCore_mem (P := fun k => k.gang = some gi) (fun _ => rfl) g.cores s c (.inl hc)

/-- The allocation of the first job that is able (R44). -/
theorem gangAllocation_run {s : State} {i cx cy : Nat} {j : Job}
    (h : firstJob (s.queued.filterMap fun q =>
      if s.needsMet q.2 && decide (0 < q.2.toPlace) then (s.originFor q.2).map fun o => (q.1, q.2, o.1, o.2) else none) = some (i, j, cx, cy)) :
    exec .gangAllocation s = .next ((s.place s.vale.nextGang (j.gang i cx cy)).modVale fun v =>
      { v with
        nextGang := s.vale.nextGang + 1
        jobs := Map.set v.jobs i { j with toPlace := j.toPlace - 1 }
        queue := if j.toPlace - 1 = 0 then v.queue.filter fun x => decide (x ≠ i) else v.queue }) := by
  refine happen_some ?_
  simp only [h]

/-- The order of R44: band, age, queue. -/
theorem before_iff (a b : Job) : a.before b = true ↔ b.band < a.band ∨ a.band = b.band ∧ (a.order < b.order ∨ a.order = b.order ∧ a.queue < b.queue) := by
  simp only [Job.before, Bool.or_eq_true, Bool.and_eq_true, decide_eq_true_eq]

theorem before_irrefl (a : Job) : a.before a = false := by
  rw [← Bool.not_eq_true, before_iff]
  omega

theorem before_asymm {a b : Job} (h : a.before b = true) : b.before a = false := by
  rw [before_iff] at h
  rw [← Bool.not_eq_true, before_iff]
  omega

theorem before_trans_false {a b c : Job} (hab : a.before b = false) (hbc : b.before c = false) : a.before c = false := by
  rw [← Bool.not_eq_true, before_iff] at *
  omega

theorem firstJob_none {l : List (Nat × Job × Nat × Nat)} (h : firstJob l = none) : l = [] := by
  cases l with
  | nil => rfl
  | cons x r =>
    rw [firstJob] at h
    rcases hr : firstJob r with _ | y
    · simp [hr] at h
    · simp only [hr] at h
      split at h <;> cases h

/-- The first job goes before none that another of the list goes before. -/
theorem firstJob_first {l : List (Nat × Job × Nat × Nat)} {x : Nat × Job × Nat × Nat} (hx : x ∈ l) :
    ∃ y, firstJob l = some y ∧ y ∈ l ∧ x.2.1.before y.2.1 = false := by
  induction l generalizing x with
  | nil => cases hx
  | cons a r ih =>
    rcases hr : firstJob r with _ | y
    · obtain rfl := firstJob_none hr
      obtain rfl := List.mem_singleton.mp hx
      exact ⟨x, by simp [firstJob], hx, before_irrefl _⟩
    · have hrest : ∀ z ∈ r, z.2.1.before y.2.1 = false := fun z hz => by
        obtain ⟨w, hw, -, hb⟩ := ih hz
        obtain rfl : y = w := Option.some.inj (hr.symm.trans hw)
        exact hb
      have hy : y ∈ r := by
        cases r with
        | nil => cases hr
        | cons b q =>
          obtain ⟨w, hw, hmem, -⟩ := ih (List.mem_cons_self (a := b) (l := q))
          obtain rfl : y = w := Option.some.inj (hr.symm.trans hw)
          exact hmem
      cases hya : y.2.1.before a.2.1 with
      | true =>
        refine ⟨y, by simp [firstJob, hr, hya], List.mem_cons_of_mem _ hy, ?_⟩
        rcases List.mem_cons.mp hx with rfl | hx
        · exact before_asymm hya
        · exact hrest x hx
      | false =>
        refine ⟨a, by simp [firstJob, hr, hya], List.mem_cons_self, ?_⟩
        rcases List.mem_cons.mp hx with rfl | hx
        · exact before_irrefl _
        · exact before_trans_false (hrest x hx) hya

/-- A job's origin lies on a die of its mask, and its gang fits there (R46). -/
theorem originFor_fits {s : State} {j : Job} {cx cy : Nat} (h : s.originFor j = some (cx, cy)) :
    s.fits cx cy j.width j.height = true ∧ j.diemask / 2 ^ (cx / 8) % 2 = 1 := by
  have hp := List.find?_some h
  simp only [Bool.and_eq_true, decide_eq_true_eq] at hp
  exact ⟨hp.2, hp.1⟩

/-- A job that has waited eight periods rises one band (R44). -/
theorem bandPromotion_run {s : State} {a q n i : Nat} {j : Job}
    (hj : (s.queued.filter fun x => decide (x.2.asid = a) && decide (x.2.queue = q))[n]? = some (i, j)) (hb : j.band < 3)
    (hw : max j.posted j.promoted + promotionCounts s.vale.period ≤ s.mod.frame) : exec (.bandPromotion a q n) s = .next
      (s.modVale fun v => { v with jobs := Map.set v.jobs i { j with band := j.band + 1, promoted := s.mod.frame } }) := by
  refine happen_some ?_
  simp only [hj, hb, hw, and_self, if_true]

/-! ### Bytes written to a cluster -/

/-- A write of bytes changes cluster memory, restores codes and is noted at the words that contexts watch. -/
theorem cwriteBytes_eq (s : State) (k a : Nat) (b : List Byte) : s.cwriteBytes k a b = { s with
    cmem := Mem.writeBytes s.cmem (cellKey k a) b, wrong := (s.cwriteBytes k a b).wrong, restored := (s.cwriteBytes k a b).restored
    watch := (s.cwriteBytes k a b).watch } := by
  unfold State.cwriteBytes State.heal State.noteWrite
  split <;> split <;> rfl

theorem cwriteBytes_cmem (s : State) (k a : Nat) (b : List Byte) :
    (s.cwriteBytes k a b).cmem = Mem.writeBytes s.cmem (cellKey k a) b := by rw [cwriteBytes_eq]
theorem cwriteBytes_cores (s : State) (k a : Nat) (b : List Byte) : (s.cwriteBytes k a b).cores = s.cores := by rw [cwriteBytes_eq]
theorem cwriteBytes_clusters (s : State) (k a : Nat) (b : List Byte) : (s.cwriteBytes k a b).clusters = s.clusters := by rw [cwriteBytes_eq]
theorem cwriteBytes_gangs (s : State) (k a : Nat) (b : List Byte) : (s.cwriteBytes k a b).gangs = s.gangs := by rw [cwriteBytes_eq]

/-- A write of bytes is read back. -/
theorem read_writeBytes (m : List Host.Cell) (a : Nat) (b : List Byte) (hm : Mem.wf m = true) {i : Nat} (hi : i < b.length) :
    Mem.read (Mem.writeBytes m a b) (a + i) = b[i] := by
  induction b generalizing m a i with
  | nil => cases hi
  | cons x r ih =>
    rw [Mem.writeBytes]
    cases i with
    | zero =>
      rw [read_writeBytes_ne _ _ _ _ (by omega)]
      exact read_write m a x (lo := 0) hm
    | succ i =>
      rw [show a + (i + 1) = a + 1 + i by omega]
      exact ih _ _ (wf_write m a x hm) (Nat.lt_of_succ_lt_succ hi)

/-! ### Start (R47) -/

/-- What a launch leaves in each core of a cluster. -/
structure Launched (g : Gang) (k : Core) : Prop where
  pc : (k.bank 0).pc = g.hdr.entry / 2 * 2
  mbxcfg : k.mbxcfg = 64
  freeLen : k.freeLen = g.poolN
  mb : ∀ n, n < 7 → Map.getD (k.bank 0).mb n 0 = g.args.getD n 0

theorem threadPool_keeps {γ : Type} (p : State → γ) (h : ∀ s k a n x, p (State.cwrite s k a n x) = p s) (s : State) (k a n : Nat) :
    p (s.threadPool k a n) = p s := by
  induction n generalizing s a with
  | zero => rfl
  | succ n ih =>
    rw [State.threadPool]
    exact (ih _ _).trans (h _ _ _ _ _)

/-- A core as its start leaves it. -/
def startedCore (g : Gang) (code : List Byte) (i : Nat) (y : Core) : Core :=
  { y.setBank 0 { Ctx.start 0 with mb := (count 0 7).map fun n => (n, g.args.getD n 0), pc := g.hdr.entry / 2 * 2 } with
    dispatch := objectStore code
    dispbase := BitVec.ofNat 22 (i * 2 ^ 19 + g.hdr.dispoff)
    mbxcfg := 64
    mailbox := []
    refusals := []
    rulebase := w64 ((i * 2 ^ 19 + g.hdr.ringoff) % 2 ^ 22 * 2 ^ 32 + g.hdr.table % 2 ^ 22)
    frameq := g.frameq
    freeHead := if g.poolN = 0 then 0 else i * 2 ^ 19 + g.poolOff
    freeLen := g.poolN }

theorem launched_startedCore (g : Gang) (code : List Byte) (i : Nat) (y : Core) : Launched g (startedCore g code i y) := by
  have hmb : ∀ n, n < 7 → Map.getD ((count 0 7).map fun n => (n, g.args.getD n 0)) n 0 = g.args.getD n 0 := by
    intro n hn
    interval_cases n <;> rfl
  refine ⟨congrArg Ctx.pc (bank_setBank _ _ _), rfl, rfl, fun n hn => ?_⟩
  exact (congrArg (fun x : Ctx => Map.getD x.mb n 0) (bank_setBank _ _ _)).trans (hmb n hn)

section
variable (s : State) (g : Gang) (code : List Byte) (k i : Nat)

/-- A core's start is a change of the core, and then writes to its cluster's memory. -/
theorem startCore_eq : s.startCore g code k i =
    ((s.modCore (coreIn k i) (startedCore g code i)).writeDispatch (coreIn k i)).threadPool k (i * 2 ^ 19 + g.poolOff) g.poolN := rfl

theorem startCore_cores : (s.startCore g code k i).cores = (s.modCore (coreIn k i) (startedCore g code i)).cores := by
  rw [startCore_eq, threadPool_keeps State.cores cwrite_cores, State.writeDispatch, cwriteBytes_cores]

theorem startCore_clusters : (s.startCore g code k i).clusters = s.clusters := by
  rw [startCore_eq, threadPool_keeps State.clusters cwrite_clusters, State.writeDispatch, cwriteBytes_clusters, modCore_clusters]

theorem startCore_gangs : (s.startCore g code k i).gangs = s.gangs := by
  rw [startCore_eq, threadPool_keeps State.gangs cwrite_gangs, State.writeDispatch, cwriteBytes_gangs, modCore_gangs]

end

/-- Every core of the list is launched. -/
theorem launched_foldl_startCore (g : Gang) (code : List Byte) (k i : Nat) (l : List Nat) (s : State)
    (h : i ∈ l ∨ Launched g (s.core (coreIn k i))) : Launched g ((l.foldl (fun t i => t.startCore g code k i) s).core (coreIn k i)) := by
  induction l generalizing s with
  | nil => exact h.resolve_left List.not_mem_nil
  | cons j r ih =>
    refine ih _ ?_
    have hcore : (s.startCore g code k j).core (coreIn k i) = (s.modCore (coreIn k j) (startedCore g code j)).core (coreIn k i) := by
      simp only [State.core, startCore_cores]
    by_cases hij : coreIn k i = coreIn k j
    · rw [hcore, hij, core_modCore]
      exact .inr (launched_startedCore g code j _)
    · rw [hcore, core_modCore_ne _ _ _ _ hij]
      refine h.imp_left fun hm => (List.mem_cons.mp hm).resolve_left ?_
      rintro rfl
      exact hij rfl

/-- The cluster of a start: its first segment in place, the others to come. -/
def clusterLaunched (s : State) (k : Nat) (g : Gang) (seg : Segment) (later : List Segment) (tables : Map XuTable) : State :=
  let s1 := s.writeSegment k seg
  s1.modCluster k fun y => { y with hdr := { g.hdr with routines := s1.routineTable k g.hdr }, segments := later, tables := tables }

theorem gangStart_run {s : State} {gi k : Nat} {g : Gang} {seg : Segment} {later : List Segment} {tables : Map XuTable}
    (hg : Map.get? s.gangs gi = some g) (hst : g.st = .allocated) (hb : k ∉ g.begun) (hk : k ∈ g.clusters)
    (hl : s.launchStalls g.asid g.code g.hdr g.xumask = false)
    (hs : (s.segmentTable g.asid g.code g.hdr.nseg).bind (fun b => s.objectSegments g.asid g.code b 0 g.hdr.nseg) = some (seg :: later))
    (ht : s.objectTables g.asid g.code g.hdr g.xumask (count 0 16) = some tables) : exec (.gangStart gi k) s = .next
      (((count 0 8).foldl (fun t i => t.startCore g seg.bytes k i) (clusterLaunched s k g seg later tables)).modGang gi fun x =>
        { x with begun := x.begun ++ [k] }) := by
  have hgo : ¬ (g.st ≠ .allocated ∨ g.begun.contains k = true ∨ g.clusters.contains k = false
      ∨ s.launchStalls g.asid g.code g.hdr g.xumask = true) := by
    simp [hst, hb, hk, hl]
  refine happen_some ?_
  simp only [hg, if_neg hgo, hs, ht]
  rfl

theorem gangStart_waits {s : State} {gi k : Nat} {g : Gang} (hg : Map.get? s.gangs gi = some g)
    (hl : s.launchStalls g.asid g.code g.hdr g.xumask = true) : exec (.gangStart gi k) s = .next s := by
  change execGangStart gi k s = _
  simp only [execGangStart, hg, hl, or_true, if_true]
  rfl

/-! ### Segments (R396) -/

/-- The contexts that go on change no record of a cluster, and no memory. -/
theorem wakeSegment_keeps (k : Nat) (l : List (Nat × Nat)) (s : State) :
    (s.wakeSegment k l).clusters = s.clusters ∧ (s.wakeSegment k l).cmem = s.cmem := by
  induction l generalizing s with
  | nil => exact ⟨rfl, rfl⟩
  | cons e r ih =>
    rw [State.wakeSegment]
    refine ⟨(ih _).1.trans ?_, (ih _).2.trans ?_⟩
    all_goals
      split
      · split <;> rfl
      · rfl

theorem segmentArrival_run {s : State} {k : Nat} {x : Segment} {r : List Segment} (h : (s.cluster k).segments = x :: r) :
    exec (.segmentArrival k) s = .next (((count 0 8).foldl (fun t i => t.modCore (coreIn k i) fun y => y.dropSegment x)
      ((s.writeSegment k x).modCluster k fun y => { y with segments := r })).wakeSegment k (contextsOf k)) := by
  refine happen_some ?_
  simp only [h]

/-- A segment's bytes stand in cluster memory, up to its end. -/
theorem read_writeSegment {s : State} {k i : Nat} {x : Segment} (hm : Mem.wf s.cmem = true) (hi : i < x.bytes.length)
    (ha : x.addr + i < Config.clusterBytes) : Mem.read (s.writeSegment k x).cmem (cellKey k (x.addr + i)) = x.bytes.getD i 0 := by
  have hcut : i < (x.bytes.take (Config.clusterBytes - x.addr)).length := by
    rw [List.length_take]
    omega
  rw [State.writeSegment, cwriteBytes_eq, show cellKey k (x.addr + i) = cellKey k x.addr + i by simp only [cellKey]; omega]
  refine (read_writeBytes _ _ _ hm hcut).trans ?_
  rw [List.getElem_take, List.getD_eq_getElem _ _ hi]

/-! ### The launch contexts (R47) -/

theorem launchContextStart_run {s : State} {gi : Nat} {g : Gang} (hg : Map.get? s.gangs gi = some g) (hst : g.st = .allocated)
    (hb : ∀ k ∈ g.clusters, k ∈ g.begun) : exec (.launchContextStart gi) s = .next
      ((g.cores.foldl (fun t c => t.modCore c fun k =>
        { k.setBank 0 { k.bank 0 with st := .ready } with balNext := some (k.cycle + k.balInterval) }) s).modGang gi fun x => { x with st := .running }) := by
  have hall : (g.clusters.all g.begun.contains) = true := by
    rw [List.all_eq_true]
    exact fun k hk => List.contains_iff_mem.mpr (hb k hk)
  refine happen_some ?_
  simp only [hg, hst, hall, and_self, if_true]

/-! ### Completion (R48) -/

theorem mem_del {α : Type} {m : Map α} {j : Nat} {e : Nat × α} (hm : (m.map (·.1)).Nodup) (h : e ∈ Map.del m j) : e ∈ m ∧ e.1 ≠ j := by
  induction m with
  | nil => cases h
  | cons a r ih =>
    obtain ⟨k, v⟩ := a
    obtain ⟨hk, hr⟩ := List.nodup_cons.mp hm
    have hkey : ∀ x ∈ r, x.1 ≠ k := fun x hx hxk => hk (List.mem_map.mpr ⟨x, hx, hxk⟩)
    simp only [Map.del] at h
    split at h
    · next hkj =>
      subst hkj
      exact ⟨List.mem_cons_of_mem _ h, hkey e h⟩
    · next hkj =>
      rcases List.mem_cons.mp h with rfl | h
      · exact ⟨List.mem_cons_self, hkj⟩
      · exact ⟨List.mem_cons_of_mem _ (ih hr h).1, (ih hr h).2⟩

theorem get_mem {α : Type} {m : Map α} {j : Nat} {v : α} (h : Map.get? m j = some v) : (j, v) ∈ m := by
  induction m with
  | nil => cases h
  | cons a r ih =>
    obtain ⟨k, w⟩ := a
    simp only [Map.get?] at h
    split at h
    · next hk =>
      obtain rfl := Option.some.inj h
      subst hk
      exact List.mem_cons_self
    · exact List.mem_cons_of_mem _ (ih h)

theorem get_del {α : Type} {m : Map α} (hm : (m.map (·.1)).Nodup) (j : Nat) : Map.get? (Map.del m j) j = none := by
  cases h : Map.get? (Map.del m j) j with
  | none => rfl
  | some v => exact absurd rfl (mem_del hm (get_mem h)).2

section
variable {s : State} {gi : Nat} {g : Gang}

theorem removeGang_resident (hi : g.image = none) : s.removeGang gi g = { s.vacate g with gangs := Map.del s.gangs gi } := by
  simp only [State.removeGang, hi, Option.isSome_none, Bool.false_eq_true, if_false, Preemption.gangs_vacate]

theorem jobs_vacate (s : State) (g : Gang) : (s.vacate g).vale.jobs = s.vale.jobs :=
  Eq.trans (b := (g.clusters.foldl (fun t k => t.modCluster k Cluster.freed) (g.cores.foldl (fun t c => t.modCore c Core.freed) s)).vale.jobs)
    rfl (congrArg Vale.jobs (Preemption.sameBooks_freed s g).2)

/-- A gang that runs completes when its cores are complete and nothing of it is in flight. -/
theorem gangCompletion_run (hg : Map.get? s.gangs gi = some g) (hf : s.jobFailed g = false) (hst : g.st = .running)
    (hc : ∀ c ∈ g.cores, (s.core c).complete = true) (hn : s.inFlight g = false) : exec (.gangCompletion gi) s = .next
      ((s.removeGang gi g).gangEnded g.job ((g.cores.map fun c => (s.core c).mailbox.length).foldr (· + ·) 0)) := by
  have hall : (g.cores.all fun c => (s.core c).complete) = true := List.all_eq_true.mpr hc
  refine happen_some ?_
  simp only [hg, hf, hst, hall, hn, and_self, Bool.false_eq_true, if_false, if_true]

theorem gangCompletion_failed (hg : Map.get? s.gangs gi = some g) (hf : s.jobFailed g = true) (hi : g.image = none)
    (hw : s.writesLeft g = false) : exec (.gangCompletion gi) s = .next ((s.removeGang gi g).gangEnded g.job 0) := by
  refine happen_some ?_
  simp only [hg, hf, hi, hw, Bool.and_false, Bool.false_eq_true, if_false, if_true]

theorem gangCompletion_waits (hg : Map.get? s.gangs gi = some g) (hf : s.jobFailed g = true) (hi : g.image = none)
    (hw : s.writesLeft g = true) : exec (.gangCompletion gi) s = .next s := by
  change execGangCompletion gi s = _
  simp only [execGangCompletion, hg, hf, hi, hw, Option.isNone_none, Bool.and_self, if_true]
  rfl

end

/-- The end of a gang is noted in Vale's books alone; with the last gang of a job that has no more to place, the job has its status. -/
theorem gangEnded_last {s : State} {i parked : Nat} {j : Job} (hj : Map.get? s.vale.jobs i = some j) (hp : j.toPlace = 0)
    (hl : ∀ e ∈ s.gangs, e.2.job ≠ i) : (s.gangEnded i parked).gangs = s.gangs ∧ (s.gangEnded i parked).core = s.core
      ∧ ∃ j', Map.get? (s.gangEnded i parked).vale.jobs i = some j' ∧ j'.status.isSome = true := by
  have hnone : (s.gangs.any fun e => decide (e.2.job = i)) = false := by
    simpa [List.any_eq_false] using hl
  have hrun : s.gangEnded i parked = s.completeJob i { j with live := j.live - 1, parked := j.parked + parked }
      (if j.fault then 3 else if 0 < j.parked + parked then 1 else 0) := by
    simp [State.gangEnded, hj, hnone, hp]
  rw [hrun]
  exact ⟨rfl, rfl, _, get_set _ _ _, rfl⟩

end Sys2Proof.Laws.GangLife

namespace Sys2Proof
open Sys2Proof.Machine Sys2Proof.Laws Sys2Proof.Laws.PipeControl Sys2Proof.Laws.GangLife

/-- Settles O49: each event in its turn. -/
theorem gangLifeCycle : Obligations.GangLifeCycle := by
  unfold Obligations.GangLifeCycle
  refine ⟨?allocation, fun l x => firstJob_first, fun s j cx cy => originFor_fits, ?promotion, ?start, fun s gi k g => gangStart_waits, ?segment,
    ?launch, ?completes, ?failed⟩
  case allocation =>
    intro s i j cx cy h
    obtain ⟨hgang, hvale, hcores⟩ := place_shows s s.vale.nextGang (j.gang i cx cy)
    exact ⟨_, gangAllocation_run h, hgang, rfl, hcores, get_set _ _ _⟩
  case promotion =>
    intro s a q n i j hj hb hw
    exact ⟨_, bandPromotion_run hj hb hw, get_set _ _ _⟩
  case start =>
    intro s gi k g seg later tables hg hst hb hk hl hs ht
    have hclusters : ((count 0 8).foldl (fun t i => t.startCore g seg.bytes k i) (clusterLaunched s k g seg later tables)).clusters
        = (clusterLaunched s k g seg later tables).clusters :=
      foldl_keeps State.clusters (fun t i => startCore_clusters t g seg.bytes k i) _ _
    have hgangs : ((count 0 8).foldl (fun t i => t.startCore g seg.bytes k i) (clusterLaunched s k g seg later tables)).gangs = s.gangs :=
      (foldl_keeps State.gangs (fun t i => startCore_gangs t g seg.bytes k i) _ _).trans (cwriteBytes_gangs _ _ _ _)
    refine ⟨_, gangStart_run hg hst hb hk hl hs ht, ?_, ?_, ⟨_, Preemption.get_modGang _ gi _ (by rw [hgangs]; exact hg), rfl⟩, fun i hi => ?_⟩
    · rw [State.cluster, modGang_clusters, hclusters]
      exact congrArg Cluster.segments (cluster_modCluster _ _ _)
    · rw [State.cluster, modGang_clusters, hclusters]
      exact congrArg Cluster.tables (cluster_modCluster _ _ _)
    · obtain ⟨hpc, hbox, hfree, hmb⟩ := launched_foldl_startCore g seg.bytes k i (count 0 8) (clusterLaunched s k g seg later tables)
        (.inl (Preemption.mem_count.mpr ⟨Nat.zero_le i, by omega⟩))
      rw [State.ctx, core_modGang]
      exact ⟨hpc, hbox, hfree, hmb⟩
  case segment =>
    intro s k x r hm hseg
    obtain ⟨hclusters, hcmem⟩ := wakeSegment_keeps k (contextsOf k) ((count 0 8).foldl (fun t i => t.modCore (coreIn k i) fun y => y.dropSegment x)
      ((s.writeSegment k x).modCluster k fun y => { y with segments := r }))
    refine ⟨_, segmentArrival_run hseg, ?_, fun i hi ha => ?_⟩
    · rw [State.cluster, hclusters, foldl_modCore_keeps State.clusters modCore_clusters]
      exact congrArg Cluster.segments (cluster_modCluster _ _ _)
    · rw [hcmem, foldl_modCore_keeps State.cmem modCore_cmem]
      have hwf : Mem.wf s.cmem = true := by
        rw [State.memWf, Bool.and_eq_true] at hm
        exact hm.1
      exact read_writeSegment hwf hi ha
  case launch =>
    intro s gi g hg hst hb
    refine ⟨_, launchContextStart_run hg hst hb, ⟨_, Preemption.get_modGang _ gi _ (x := g) ?_, rfl⟩, fun c hc => ?_⟩
    · rw [foldl_modCore_keeps State.gangs modCore_gangs (fun c => c)]
      exact hg
    · rw [State.ctx, core_modGang]
      exact core_foldl_modCore_mem (P := fun k => (k.bank 0).st = .ready) (fun k => congrArg Ctx.st (bank_setBank k 0 _)) g.cores s c (.inl hc)
  case completes =>
    intro s gi g j hkeys hg hf hst hi hc hn hj hp hothers
    have hrun := gangCompletion_run hg hf hst hc hn
    rw [removeGang_resident hi] at hrun
    obtain ⟨hgangs, hcore, hjob⟩ := gangEnded_last (s := { s.vacate g with gangs := Map.del s.gangs gi }) (i := g.job)
      (parked := (g.cores.map fun c => (s.core c).mailbox.length).foldr (· + ·) 0) (by rw [← hj]; exact congrArg (Map.get? · g.job) (jobs_vacate s g)) hp
      fun e he => hothers e (mem_del hkeys he).1 (mem_del hkeys he).2
    refine ⟨_, hrun, ?_, fun c hc' => ?_, hjob⟩
    · rw [hgangs]
      exact get_del hkeys gi
    · rw [hcore]
      exact Preemption.gang_vacate s g hc'
  case failed =>
    intro s gi g hg hf hi
    exact ⟨gangCompletion_waits hg hf hi, gangCompletion_failed hg hf hi⟩

end Sys2Proof
end

section
/-! PROOF. The decoder reads exactly the encodings: it reads back what the encoder writes, and nothing else decodes (R50, R53 to R60). -/
namespace Sys2Proof.Laws.Decoder
open Sys2Proof Decode

/-! ### Instructions of two and of four bytes (R50) -/

theorem decode_two {w : Nat} (hw : w < 2 ^ 16) (he : w % 2 = 0) (r : List Byte) :
    decode (leBytes 2 w ++ r) = (restrict (decode16 w)).map (·, r) := by
  have hb : (BitVec.ofNat 8 w).toNat % 2 = 0 := by rw [BitVec.toNat_ofNat]; omega
  have hd : decodeBits w = restrict (decode16 w) := by rw [decodeBits, if_pos he, Nat.mod_eq_of_lt hw]
  simp only [leBytes, List.cons_append, List.nil_append, decode, hb, if_true, RoundTrip.leNat_two w hw, hd]

theorem decode_four {w : Nat} (hw : w < 2 ^ 32) (ho : w % 2 = 1) (r : List Byte) :
    decode (leBytes 4 w ++ r) = (restrict (decode32 w)).map (·, r) := by
  have hb : ¬ (BitVec.ofNat 8 w).toNat % 2 = 0 := by rw [BitVec.toNat_ofNat]; omega
  have hd : decodeBits w = restrict (decode32 w) := by rw [decodeBits, if_neg (by omega), Nat.mod_eq_of_lt hw]
  simp only [leBytes, List.cons_append, List.nil_append, decode, hb, if_false, RoundTrip.leNat_four w hw, hd]

/-! ### What a table reads -/

theorem toNat_bits (w lo n : Nat) : (bits w lo n).toNat = fld w lo n := BitVec.toNat_ofNat ..

theorem fld_add (w lo n m : Nat) : fld w lo (n + m) = fld w lo n + 2 ^ n * fld w (lo + n) m := by
  simp only [fld]
  rw [pow_add, Nat.mod_mul, Nat.div_div_eq_div_mul, ← pow_add]

theorem fld_class (w : Nat) : fld w 6 4 = fld w 4 6 / 4 := by
  have hlow : fld w 4 2 < 4 := Nat.mod_lt _ (by decide)
  have hmode : fld w 4 6 = fld w 4 2 + 2 ^ 2 * fld w 6 4 := fld_add w 4 2 4
  omega

/-- What decodes is an instruction of n bytes whose encoding is w, under a condition c on w. -/
def Reads (c : Prop) (n w : Nat) : Except DecodeError Instr → Prop
  | .ok i => c ∧ i.len = n ∧ i.word = w
  | .error _ => True

/-- A major's table reads only its first k functions, each from its own encoding (R53, R57). -/
abbrev Table (k w : Nat) : Except DecodeError Instr → Prop := Reads (fld w 28 4 < k) 4 w

/-- The functions that R59 lists for each major: 0 for a reserved one, 16 where bits 31:28 are no function. -/
def assigned (m : Nat) : Nat :=
  [15, 16, 8, 16, 15, 16, 16, 16, 16, 16, 16, 16, 6, 3, 0, 16, 16, 16, 16, 16, 16, 16, 16, 12, 16, 4, 10, 8, 4, 3, 3, 0, 13, 13, 13, 13,
    15, 12, 16, 12, 3, 2, 6, 0, 0, 0, 0, 0, 4, 3, 1, 1, 0, 0, 4, 5, 0, 0, 2, 3, 5, 0, 8, 0].getD m 0

theorem reads_must {q : Prop} {n w : Nat} {c : Prop} [Decidable c] {i : Instr} (h : c → Reads q n w (.ok i)) :
    Reads q n w (must c i) := by
  unfold must
  split
  · exact h ‹_›
  · trivial

/-- An entry of a table, its encoding written as a sum: the fields make up the word. -/
theorem entry {c : Prop} {n w a b : Nat} {i : Instr} (hc : c) (hl : i.len = n) (hi : i.word = a + b) (hw : a + b = w) :
    Reads c n w (.ok i) := ⟨hc, hl, hi.trans hw⟩

theorem restrict_ok {x : Except DecodeError Instr} {i : Instr} (h : restrict x = .ok i) : x = .ok i ∧ i.wf = true := by
  unfold restrict at h
  split at h
  next j =>
    split at h
    · cases h
      exact ⟨rfl, ‹_›⟩
    · cases h
  next => cases h

theorem map_ok {x : Except DecodeError Instr} {i : Instr} {r t : List Byte} (h : x.map (·, r) = .ok (i, t)) : x = .ok i ∧ r = t := by
  cases x with
  | ok j =>
    cases h
    exact ⟨rfl, rfl⟩
  | error e => cases h

theorem refused_of_not {c : Prop} {n w : Nat} {x : Except DecodeError Instr} (h : Reads c n w x) (hc : ¬ c) (r : List Byte) :
    ∃ e, (restrict x).map (·, r) = .error e := by
  cases x with
  | ok i => exact absurd h.1 hc
  | error e => exact ⟨e, rfl⟩

theorem encoding_of_reads {c : Prop} {n w : Nat} {x : Except DecodeError Instr} {i : Instr} {r t : List Byte} (h : Reads c n w x)
    (hn : n ≠ 0) (hx : (restrict x).map (·, r) = .ok (i, t)) :
    leBytes n w ++ r = encode i ++ t ∧ i.wf = true ∧ i.encoded = true := by
  obtain ⟨hread, rfl⟩ := map_ok hx
  obtain ⟨rfl, hwf⟩ := restrict_ok hread
  obtain ⟨-, rfl, rfl⟩ := h
  exact ⟨rfl, hwf, bne_iff_ne.mpr hn⟩

theorem leBytes_leNat_cons (n : Nat) (b : Byte) (l : List Byte) : leBytes (n + 1) (leNat (b :: l)) = b :: leBytes n (leNat l) := by
  have hb : BitVec.ofNat 8 (b.toNat + 256 * leNat l) = b := by
    apply BitVec.eq_of_toNat_eq
    rw [BitVec.toNat_ofNat]
    omega
  rw [leBytes, leNat, hb, show (b.toNat + 256 * leNat l) / 256 = leNat l by omega]

theorem leBytes_leNat (l : List Byte) : leBytes l.length (leNat l) = l := by
  induction l with
  | nil => rfl
  | cons b l ih => rw [List.length_cons, leBytes_leNat_cons, ih]

theorem leNat_lt (l : List Byte) : leNat l < 2 ^ (8 * l.length) := by
  induction l with
  | nil => decide
  | cons b l ih =>
    rw [leNat, List.length_cons, show 8 * (l.length + 1) = 8 + 8 * l.length by omega, pow_add]
    omega

theorem leNat_cons_parity (b : Byte) (l : List Byte) : leNat (b :: l) % 2 = b.toNat % 2 := by
  rw [leNat]
  omega

/-! ### The tables of the majors (R59)

Each entry takes the word apart along the fields of its encoding; a field that crosses a boundary of the general fields is cut there. -/

section
variable {w : Nat} (hw : w < 2 ^ 32) (ho : w % 2 = 1)
include hw ho

theorem word_fields : w = 1 + fld w 1 3 * 2 + fld w 4 6 * 16 + fld w 10 5 * 2 ^ 10 + fld w 15 5 * 2 ^ 15 + fld w 20 5 * 2 ^ 20 +
    fld w 25 3 * 2 ^ 25 + fld w 28 4 * 2 ^ 28 ∧ fld w 28 4 < 16 := by
  simp only [fld]
  omega

theorem table_major00 (h : fld w 4 6 = 0) : Table 15 w (major00 w) := by
  have hsum := word_fields hw ho
  unfold major00
  split
  case h_16 => trivial
  all_goals exact entry (by omega) rfl rfl (by simp only [toNat_bits]; omega)

theorem table_major01 (h : fld w 4 6 = 1) : Table 16 w (major01 w) := by
  have hsum := word_fields hw ho
  unfold major01
  split
  case h_17 => trivial
  case h_7 | h_8 | h_9 | h_11 | h_12 => exact reads_must fun hz => entry (by omega) rfl rfl (by simp only [toNat_bits]; omega)
  all_goals exact entry (by omega) rfl rfl (by simp only [toNat_bits]; omega)

theorem table_major02 (h : fld w 4 6 = 2) : Table 8 w (major02 w) := by
  have hsum := word_fields hw ho
  unfold major02
  split
  case h_9 => trivial
  all_goals exact entry (by omega) rfl rfl (by simp only [toNat_bits]; omega)

theorem table_major03 (h : fld w 4 6 = 3) : Table 16 w (major03 w) := by
  have hsum := word_fields hw ho
  have h20_12 : fld w 20 12 = fld w 20 5 + 2 ^ 5 * fld w 25 7 := fld_add w 20 5 7
  have h25_7 : fld w 25 7 = fld w 25 3 + 2 ^ 3 * fld w 28 4 := fld_add w 25 3 4
  unfold major03
  exact entry (by omega) rfl rfl (by simp only [toNat_bits]; omega)

theorem table_major04 (h : fld w 4 6 = 4) : Table 15 w (major04 w) := by
  have hsum := word_fields hw ho
  have h20_5 : fld w 20 5 = fld w 20 2 + 2 ^ 2 * fld w 22 3 := fld_add w 20 2 3
  have h20_6 : fld w 20 6 = fld w 20 2 + 2 ^ 2 * fld w 22 4 := fld_add w 20 2 4
  have h22_4 : fld w 22 4 = fld w 22 3 + 2 ^ 3 * fld w 25 1 := fld_add w 22 3 1
  have h20_8 : fld w 20 8 = fld w 20 2 + 2 ^ 2 * fld w 22 6 := fld_add w 20 2 6
  have h22_6 : fld w 22 6 = fld w 22 3 + 2 ^ 3 * fld w 25 3 := fld_add w 22 3 3
  have h25_3 : fld w 25 3 = fld w 25 1 + 2 ^ 1 * fld w 26 2 := fld_add w 25 1 2
  unfold major04
  split
  case h_16 => trivial
  case h_5 | h_6 | h_7 | h_8 | h_15 => exact reads_must fun hz => entry (by omega) rfl rfl (by simp only [toNat_bits]; omega)
  all_goals exact entry (by omega) rfl rfl (by simp only [toNat_bits]; omega)

theorem table_major05 (h : fld w 4 6 = 5) : Table 16 w (major05 w) := by
  have hsum := word_fields hw ho
  have h25_5 : fld w 25 5 = fld w 25 3 + 2 ^ 3 * fld w 28 2 := fld_add w 25 3 2
  have h28_4 : fld w 28 4 = fld w 28 2 + 2 ^ 2 * fld w 30 2 := fld_add w 28 2 2
  unfold major05
  split
  case h_5 => trivial
  all_goals exact entry (by omega) rfl rfl (by simp only [toNat_bits]; omega)

theorem table_major06 (h : fld w 4 6 = 6) : Table 16 w (major06 w) := by
  have hsum := word_fields hw ho
  have h20_6 : fld w 20 6 = fld w 20 5 + 2 ^ 5 * fld w 25 1 := fld_add w 20 5 1
  have h25_3 : fld w 25 3 = fld w 25 1 + 2 ^ 1 * fld w 26 2 := fld_add w 25 1 2
  have h26_6 : fld w 26 6 = fld w 26 2 + 2 ^ 2 * fld w 28 4 := fld_add w 26 2 4
  unfold major06
  exact entry (by omega) rfl rfl (by simp only [toNat_bits]; omega)

theorem table_major07 (h : fld w 4 6 = 7) : Table 16 w (major07 w) := by
  have hsum := word_fields hw ho
  have h15_17 : fld w 15 17 = fld w 15 5 + 2 ^ 5 * fld w 20 12 := fld_add w 15 5 12
  have h20_12 : fld w 20 12 = fld w 20 5 + 2 ^ 5 * fld w 25 7 := fld_add w 20 5 7
  have h25_7 : fld w 25 7 = fld w 25 3 + 2 ^ 3 * fld w 28 4 := fld_add w 25 3 4
  unfold major07
  exact entry (by omega) rfl rfl (by simp only [toNat_bits]; omega)

theorem table_major08 (h : fld w 4 6 = 8) : Table 16 w (major08 w) := by
  have hsum := word_fields hw ho
  have h10_22 : fld w 10 22 = fld w 10 5 + 2 ^ 5 * fld w 15 17 := fld_add w 10 5 17
  have h15_17 : fld w 15 17 = fld w 15 5 + 2 ^ 5 * fld w 20 12 := fld_add w 15 5 12
  have h20_12 : fld w 20 12 = fld w 20 5 + 2 ^ 5 * fld w 25 7 := fld_add w 20 5 7
  have h25_7 : fld w 25 7 = fld w 25 3 + 2 ^ 3 * fld w 28 4 := fld_add w 25 3 4
  unfold major08
  exact entry (by omega) rfl rfl (by simp only [toNat_bits]; omega)

theorem table_major09 (h : fld w 4 6 = 9) : Table 16 w (major09 w) := by
  have hsum := word_fields hw ho
  have h10_22 : fld w 10 22 = fld w 10 5 + 2 ^ 5 * fld w 15 17 := fld_add w 10 5 17
  have h15_17 : fld w 15 17 = fld w 15 5 + 2 ^ 5 * fld w 20 12 := fld_add w 15 5 12
  have h20_12 : fld w 20 12 = fld w 20 5 + 2 ^ 5 * fld w 25 7 := fld_add w 20 5 7
  have h25_7 : fld w 25 7 = fld w 25 3 + 2 ^ 3 * fld w 28 4 := fld_add w 25 3 4
  unfold major09
  exact entry (by omega) rfl rfl (by simp only [toNat_bits]; omega)

theorem table_major0A (h : fld w 4 6 = 10) : Table 16 w (major0A w) := by
  have hsum := word_fields hw ho
  have h20_5 : fld w 20 5 = fld w 20 3 + 2 ^ 3 * fld w 23 2 := fld_add w 20 3 2
  have h23_9 : fld w 23 9 = fld w 23 2 + 2 ^ 2 * fld w 25 7 := fld_add w 23 2 7
  have h25_7 : fld w 25 7 = fld w 25 3 + 2 ^ 3 * fld w 28 4 := fld_add w 25 3 4
  unfold major0A
  split
  case h_9 => trivial
  all_goals exact entry (by omega) rfl rfl (by simp only [toNat_bits]; omega)

theorem table_major0B (h : fld w 4 6 = 11) : Table 16 w (major0B w) := by
  have hsum := word_fields hw ho
  have h10_5 : fld w 10 5 = fld w 10 2 + 2 ^ 2 * fld w 12 3 := fld_add w 10 2 3
  have h20_12 : fld w 20 12 = fld w 20 5 + 2 ^ 5 * fld w 25 7 := fld_add w 20 5 7
  have h25_7 : fld w 25 7 = fld w 25 3 + 2 ^ 3 * fld w 28 4 := fld_add w 25 3 4
  unfold major0B
  exact reads_must fun hz => entry (by omega) rfl rfl (by simp only [toNat_bits]; omega)

theorem table_major0C (h : fld w 4 6 = 12) : Table 6 w (major0C w) := by
  have hsum := word_fields hw ho
  have h10_18 : fld w 10 18 = fld w 10 5 + 2 ^ 5 * fld w 15 13 := fld_add w 10 5 13
  have h15_13 : fld w 15 13 = fld w 15 5 + 2 ^ 5 * fld w 20 8 := fld_add w 15 5 8
  have h20_8 : fld w 20 8 = fld w 20 5 + 2 ^ 5 * fld w 25 3 := fld_add w 20 5 3
  unfold major0C
  split
  case h_7 => trivial
  all_goals exact reads_must fun hz => entry (by omega) rfl rfl (by simp only [toNat_bits]; omega)

theorem table_major0D (h : fld w 4 6 = 13) : Table 3 w (major0D w) := by
  have hsum := word_fields hw ho
  have h10_10 : fld w 10 10 = fld w 10 5 + 2 ^ 5 * fld w 15 5 := fld_add w 10 5 5
  have h20_5 : fld w 20 5 = fld w 20 2 + 2 ^ 2 * fld w 22 3 := fld_add w 20 2 3
  have h20_8 : fld w 20 8 = fld w 20 2 + 2 ^ 2 * fld w 22 6 := fld_add w 20 2 6
  have h22_6 : fld w 22 6 = fld w 22 3 + 2 ^ 3 * fld w 25 3 := fld_add w 22 3 3
  unfold major0D
  split
  case h_4 => trivial
  all_goals exact reads_must fun hz => entry (by omega) rfl rfl (by simp only [toNat_bits]; omega)

theorem table_major0F (h : fld w 4 6 = 15) : Table 16 w (major0F w) := by
  have hsum := word_fields hw ho
  have h20_12 : fld w 20 12 = fld w 20 5 + 2 ^ 5 * fld w 25 7 := fld_add w 20 5 7
  have h25_7 : fld w 25 7 = fld w 25 3 + 2 ^ 3 * fld w 28 4 := fld_add w 25 3 4
  unfold major0F
  split
  · exact entry (by omega) rfl rfl (by simp only [toNat_bits]; omega)
  split
  · exact entry (by omega) rfl rfl (by simp only [toNat_bits]; omega)
  · exact entry (by omega) rfl rfl (by simp only [toNat_bits]; omega)

theorem table_major10 (h : fld w 4 6 = 16) : Table 16 w (major10 w) := by
  have hsum := word_fields hw ho
  have h20_10 : fld w 20 10 = fld w 20 5 + 2 ^ 5 * fld w 25 5 := fld_add w 20 5 5
  have h25_5 : fld w 25 5 = fld w 25 3 + 2 ^ 3 * fld w 28 2 := fld_add w 25 3 2
  have h28_4 : fld w 28 4 = fld w 28 2 + 2 ^ 2 * fld w 30 2 := fld_add w 28 2 2
  unfold major10
  exact entry (by omega) rfl rfl (by simp only [toNat_bits]; omega)

theorem table_major11 (h : fld w 4 6 = 17) : Table 16 w (major11 w) := by
  have hsum := word_fields hw ho
  have h20_10 : fld w 20 10 = fld w 20 5 + 2 ^ 5 * fld w 25 5 := fld_add w 20 5 5
  have h25_5 : fld w 25 5 = fld w 25 3 + 2 ^ 3 * fld w 28 2 := fld_add w 25 3 2
  have h28_4 : fld w 28 4 = fld w 28 2 + 2 ^ 2 * fld w 30 2 := fld_add w 28 2 2
  unfold major11
  exact entry (by omega) rfl rfl (by simp only [toNat_bits]; omega)

theorem table_major12 (h : fld w 4 6 = 18) : Table 16 w (major12 w) := by
  have hsum := word_fields hw ho
  have h20_10 : fld w 20 10 = fld w 20 5 + 2 ^ 5 * fld w 25 5 := fld_add w 20 5 5
  have h25_5 : fld w 25 5 = fld w 25 3 + 2 ^ 3 * fld w 28 2 := fld_add w 25 3 2
  have h28_4 : fld w 28 4 = fld w 28 2 + 2 ^ 2 * fld w 30 2 := fld_add w 28 2 2
  unfold major12
  exact entry (by omega) rfl rfl (by simp only [toNat_bits]; omega)

theorem table_major13 (h : fld w 4 6 = 19) : Table 16 w (major13 w) := by
  have hsum := word_fields hw ho
  have h20_6 : fld w 20 6 = fld w 20 5 + 2 ^ 5 * fld w 25 1 := fld_add w 20 5 1
  have h25_3 : fld w 25 3 = fld w 25 1 + 2 ^ 1 * fld w 26 2 := fld_add w 25 1 2
  have h28_4 : fld w 28 4 = fld w 28 3 + 2 ^ 3 * fld w 31 1 := fld_add w 28 3 1
  unfold major13
  split
  case h_3 => trivial
  all_goals exact entry (by omega) rfl rfl (by simp only [toNat_bits]; omega)

theorem table_major14 (h : fld w 4 6 = 20) : Table 16 w (major14 w) := by
  have hsum := word_fields hw ho
  have h20_10 : fld w 20 10 = fld w 20 5 + 2 ^ 5 * fld w 25 5 := fld_add w 20 5 5
  have h25_5 : fld w 25 5 = fld w 25 3 + 2 ^ 3 * fld w 28 2 := fld_add w 25 3 2
  have h28_4 : fld w 28 4 = fld w 28 2 + 2 ^ 2 * fld w 30 2 := fld_add w 28 2 2
  unfold major14
  split
  case h_3 => trivial
  all_goals exact entry (by omega) rfl rfl (by simp only [toNat_bits]; omega)

theorem table_major15 (h : fld w 4 6 = 21) : Table 16 w (major15 w) := by
  have hsum := word_fields hw ho
  have h25_4 : fld w 25 4 = fld w 25 3 + 2 ^ 3 * fld w 28 1 := fld_add w 25 3 1
  have h28_4 : fld w 28 4 = fld w 28 1 + 2 ^ 1 * fld w 29 3 := fld_add w 28 1 3
  have h29_3 : fld w 29 3 = fld w 29 1 + 2 ^ 1 * fld w 30 2 := fld_add w 29 1 2
  unfold major15
  split
  case h_2 => trivial
  all_goals exact reads_must fun hz => entry (by omega) rfl rfl (by simp only [toNat_bits]; omega)

theorem table_major16 (h : fld w 4 6 = 22) : Table 16 w (major16 w) := by
  have hsum := word_fields hw ho
  have h20_9 : fld w 20 9 = fld w 20 5 + 2 ^ 5 * fld w 25 4 := fld_add w 20 5 4
  have h25_4 : fld w 25 4 = fld w 25 3 + 2 ^ 3 * fld w 28 1 := fld_add w 25 3 1
  have h28_4 : fld w 28 4 = fld w 28 1 + 2 ^ 1 * fld w 29 3 := fld_add w 28 1 3
  unfold major16
  split
  case h_9 => trivial
  case h_2 | h_4 | h_6 | h_8 => exact reads_must fun hz => entry (by omega) rfl rfl (by simp only [toNat_bits]; omega)
  all_goals exact entry (by omega) rfl rfl (by simp only [toNat_bits]; omega)

theorem table_major17 (h : fld w 4 6 = 23) : Table 12 w (major17 w) := by
  have hsum := word_fields hw ho
  have h10_5 : fld w 10 5 = fld w 10 4 + 2 ^ 4 * fld w 14 1 := fld_add w 10 4 1
  have h20_5 : fld w 20 5 = fld w 20 4 + 2 ^ 4 * fld w 24 1 := fld_add w 20 4 1
  have h20_8 : fld w 20 8 = fld w 20 4 + 2 ^ 4 * fld w 24 4 := fld_add w 20 4 4
  have h24_4 : fld w 24 4 = fld w 24 1 + 2 ^ 1 * fld w 25 3 := fld_add w 24 1 3
  unfold major17
  split
  case h_13 => trivial
  all_goals exact reads_must fun hz => entry (by omega) rfl rfl (by simp only [toNat_bits]; omega)

theorem table_major18 (h : fld w 4 6 = 24) : Table 16 w (major18 w) := by
  have hsum := word_fields hw ho
  have h20_8 : fld w 20 8 = fld w 20 5 + 2 ^ 5 * fld w 25 3 := fld_add w 20 5 3
  have h28_4 : fld w 28 4 = fld w 28 3 + 2 ^ 3 * fld w 31 1 := fld_add w 28 3 1
  unfold major18
  exact entry (by omega) rfl rfl (by simp only [toNat_bits]; omega)

theorem table_major19 (h : fld w 4 6 = 25) : Table 4 w (major19 w) := by
  have hsum := word_fields hw ho
  have h20_8 : fld w 20 8 = fld w 20 5 + 2 ^ 5 * fld w 25 3 := fld_add w 20 5 3
  have h25_3 : fld w 25 3 = fld w 25 2 + 2 ^ 2 * fld w 27 1 := fld_add w 25 2 1
  unfold major19
  split
  case h_5 => trivial
  all_goals exact reads_must fun hz => entry (by omega) rfl rfl (by simp only [toNat_bits]; omega)

theorem table_major1A (h : fld w 4 6 = 26) : Table 10 w (major1A w) := by
  have hsum := word_fields hw ho
  have h25_3 : fld w 25 3 = fld w 25 1 + 2 ^ 1 * fld w 26 2 := fld_add w 25 1 2
  unfold major1A
  split
  case h_11 => trivial
  all_goals exact reads_must fun hz => entry (by omega) rfl rfl (by simp only [toNat_bits]; omega)

theorem table_major1B (h : fld w 4 6 = 27) : Table 8 w (major1B w) := by
  have hsum := word_fields hw ho
  have h15_13 : fld w 15 13 = fld w 15 5 + 2 ^ 5 * fld w 20 8 := fld_add w 15 5 8
  have h20_8 : fld w 20 8 = fld w 20 5 + 2 ^ 5 * fld w 25 3 := fld_add w 20 5 3
  unfold major1B
  split
  case h_9 => trivial
  all_goals exact reads_must fun hz => entry (by omega) rfl rfl (by simp only [toNat_bits]; omega)

theorem table_major1C (h : fld w 4 6 = 28) : Table 4 w (major1C w) := by
  have hsum := word_fields hw ho
  have h20_8 : fld w 20 8 = fld w 20 5 + 2 ^ 5 * fld w 25 3 := fld_add w 20 5 3
  unfold major1C
  split
  case h_5 => trivial
  all_goals exact reads_must fun hz => entry (by omega) rfl rfl (by simp only [toNat_bits]; omega)

theorem table_major1D (h : fld w 4 6 = 29) : Table 3 w (major1D w) := by
  have hsum := word_fields hw ho
  unfold major1D
  split
  case h_4 => trivial
  all_goals exact reads_must fun hz => entry (by omega) rfl rfl (by simp only [toNat_bits]; omega)

theorem table_major1E (h : fld w 4 6 = 30) : Table 3 w (major1E w) := by
  have hsum := word_fields hw ho
  have h10_15 : fld w 10 15 = fld w 10 5 + 2 ^ 5 * fld w 15 10 := fld_add w 10 5 10
  have h15_10 : fld w 15 10 = fld w 15 5 + 2 ^ 5 * fld w 20 5 := fld_add w 15 5 5
  unfold major1E
  split
  case h_4 => trivial
  all_goals exact reads_must fun hz => entry (by omega) rfl rfl (by simp only [toNat_bits]; omega)

theorem table_major20 (h : fld w 6 4 = 8) : Table 13 w (major20 w) := by
  have hsum := word_fields hw ho
  have hmode : fld w 4 6 = fld w 4 2 + 2 ^ 2 * fld w 6 4 := fld_add w 4 2 4
  unfold major20
  split
  case h_14 => trivial
  case h_7 => exact reads_must fun hz => entry (by omega) rfl rfl (by simp only [toNat_bits]; omega)
  all_goals exact entry (by omega) rfl rfl (by simp only [toNat_bits]; omega)

theorem table_major24 (h : fld w 4 6 = 36) : Table 15 w (major24 w) := by
  have hsum := word_fields hw ho
  unfold major24
  split
  case h_16 => trivial
  case h_5 | h_6 | h_13 | h_14 => exact reads_must fun hz => entry (by omega) rfl rfl (by simp only [toNat_bits]; omega)
  all_goals exact entry (by omega) rfl rfl (by simp only [toNat_bits]; omega)

theorem table_major25 (h : fld w 4 6 = 37) : Table 12 w (major25 w) := by
  have hsum := word_fields hw ho
  unfold major25
  split
  case h_13 => trivial
  all_goals exact entry (by omega) rfl rfl (by simp only [toNat_bits]; omega)

theorem table_major26 (h : fld w 4 6 = 38) : Table 16 w (major26 w) := by
  have hsum := word_fields hw ho
  have h28_4 : fld w 28 4 = fld w 28 3 + 2 ^ 3 * fld w 31 1 := fld_add w 28 3 1
  unfold major26
  split
  case h_2 => trivial
  all_goals exact entry (by omega) rfl rfl (by simp only [toNat_bits]; omega)

theorem table_major27 (h : fld w 4 6 = 39) : Table 12 w (major27 w) := by
  have hsum := word_fields hw ho
  unfold major27
  split
  case h_13 => trivial
  case h_1 | h_2 | h_3 | h_4 | h_5 | h_6 | h_7 | h_10 | h_11 =>
    exact reads_must fun hz => entry (by omega) rfl rfl (by simp only [toNat_bits]; omega)
  all_goals exact entry (by omega) rfl rfl (by simp only [toNat_bits]; omega)

theorem table_major28 (h : fld w 4 6 = 40) : Table 3 w (major28 w) := by
  have hsum := word_fields hw ho
  unfold major28
  split
  case h_4 => trivial
  case h_1 => exact reads_must fun hz => entry (by omega) rfl rfl (by simp only [toNat_bits]; omega)
  all_goals exact entry (by omega) rfl rfl (by simp only [toNat_bits]; omega)

theorem table_major29 (h : fld w 4 6 = 41) : Table 2 w (major29 w) := by
  have hsum := word_fields hw ho
  unfold major29
  split
  case h_3 => trivial
  all_goals exact reads_must fun hz => entry (by omega) rfl rfl (by simp only [toNat_bits]; omega)

theorem table_major2A (h : fld w 4 6 = 42) : Table 6 w (major2A w) := by
  have hsum := word_fields hw ho
  have h20_8 : fld w 20 8 = fld w 20 5 + 2 ^ 5 * fld w 25 3 := fld_add w 20 5 3
  unfold major2A
  split
  case h_7 => trivial
  all_goals exact reads_must fun hz => entry (by omega) rfl rfl (by simp only [toNat_bits]; omega)

theorem table_major30 (h : fld w 4 6 = 48) : Table 4 w (major30 w) := by
  have hsum := word_fields hw ho
  have h10_18 : fld w 10 18 = fld w 10 5 + 2 ^ 5 * fld w 15 13 := fld_add w 10 5 13
  have h15_13 : fld w 15 13 = fld w 15 5 + 2 ^ 5 * fld w 20 8 := fld_add w 15 5 8
  have h20_8 : fld w 20 8 = fld w 20 5 + 2 ^ 5 * fld w 25 3 := fld_add w 20 5 3
  unfold major30
  split
  case h_5 => trivial
  all_goals exact reads_must fun hz => entry (by omega) rfl rfl (by simp only [toNat_bits]; omega)

theorem table_major31 (h : fld w 4 6 = 49) : Table 3 w (major31 w) := by
  have hsum := word_fields hw ho
  have h10_18 : fld w 10 18 = fld w 10 5 + 2 ^ 5 * fld w 15 13 := fld_add w 10 5 13
  have h15_13 : fld w 15 13 = fld w 15 4 + 2 ^ 4 * fld w 19 9 := fld_add w 15 4 9
  have h19_9 : fld w 19 9 = fld w 19 1 + 2 ^ 1 * fld w 20 8 := fld_add w 19 1 8
  have h20_8 : fld w 20 8 = fld w 20 5 + 2 ^ 5 * fld w 25 3 := fld_add w 20 5 3
  have h15_5 : fld w 15 5 = fld w 15 4 + 2 ^ 4 * fld w 19 1 := fld_add w 15 4 1
  unfold major31
  split
  case h_4 => trivial
  all_goals exact reads_must fun hz => entry (by omega) rfl rfl (by simp only [toNat_bits]; omega)

theorem table_major32 (h : fld w 4 6 = 50) : Table 1 w (major32 w) := by
  have hsum := word_fields hw ho
  have h15_5 : fld w 15 5 = fld w 15 4 + 2 ^ 4 * fld w 19 1 := fld_add w 15 4 1
  have h20_5 : fld w 20 5 = fld w 20 2 + 2 ^ 2 * fld w 22 3 := fld_add w 20 2 3
  have h22_6 : fld w 22 6 = fld w 22 3 + 2 ^ 3 * fld w 25 3 := fld_add w 22 3 3
  unfold major32
  split
  case h_2 => trivial
  all_goals exact reads_must fun hz => entry (by omega) rfl rfl (by simp only [toNat_bits]; omega)

theorem table_major33 (h : fld w 4 6 = 51) : Table 1 w (major33 w) := by
  have hsum := word_fields hw ho
  have h15_5 : fld w 15 5 = fld w 15 4 + 2 ^ 4 * fld w 19 1 := fld_add w 15 4 1
  have h20_5 : fld w 20 5 = fld w 20 1 + 2 ^ 1 * fld w 21 4 := fld_add w 20 1 4
  have h21_7 : fld w 21 7 = fld w 21 4 + 2 ^ 4 * fld w 25 3 := fld_add w 21 4 3
  unfold major33
  split
  case h_2 => trivial
  all_goals exact reads_must fun hz => entry (by omega) rfl rfl (by simp only [toNat_bits]; omega)

theorem table_major36 (h : fld w 4 6 = 54) : Table 4 w (major36 w) := by
  have hsum := word_fields hw ho
  have h15_13 : fld w 15 13 = fld w 15 5 + 2 ^ 5 * fld w 20 8 := fld_add w 15 5 8
  have h20_8 : fld w 20 8 = fld w 20 2 + 2 ^ 2 * fld w 22 6 := fld_add w 20 2 6
  have h22_6 : fld w 22 6 = fld w 22 3 + 2 ^ 3 * fld w 25 3 := fld_add w 22 3 3
  have h20_5 : fld w 20 5 = fld w 20 2 + 2 ^ 2 * fld w 22 3 := fld_add w 20 2 3
  unfold major36
  split
  case h_5 => trivial
  all_goals exact reads_must fun hz => entry (by omega) rfl rfl (by simp only [toNat_bits]; omega)

theorem table_major37 (h : fld w 4 6 = 55) : Table 5 w (major37 w) := by
  have hsum := word_fields hw ho
  have h10_18 : fld w 10 18 = fld w 10 5 + 2 ^ 5 * fld w 15 13 := fld_add w 10 5 13
  have h15_13 : fld w 15 13 = fld w 15 5 + 2 ^ 5 * fld w 20 8 := fld_add w 15 5 8
  have h20_8 : fld w 20 8 = fld w 20 5 + 2 ^ 5 * fld w 25 3 := fld_add w 20 5 3
  unfold major37
  split
  case h_6 => trivial
  all_goals exact reads_must fun hz => entry (by omega) rfl rfl (by simp only [toNat_bits]; omega)

theorem table_major3A (h : fld w 4 6 = 58) : Table 2 w (major3A w) := by
  have hsum := word_fields hw ho
  have h15_13 : fld w 15 13 = fld w 15 5 + 2 ^ 5 * fld w 20 8 := fld_add w 15 5 8
  have h20_8 : fld w 20 8 = fld w 20 5 + 2 ^ 5 * fld w 25 3 := fld_add w 20 5 3
  unfold major3A
  split
  case h_3 => trivial
  all_goals exact reads_must fun hz => entry (by omega) rfl rfl (by simp only [toNat_bits]; omega)

theorem table_major3B (h : fld w 4 6 = 59) : Table 3 w (major3B w) := by
  have hsum := word_fields hw ho
  unfold major3B
  split
  case h_4 => trivial
  case h_1 | h_3 => exact reads_must fun hz => entry (by omega) rfl rfl (by simp only [toNat_bits]; omega)
  all_goals exact entry (by omega) rfl rfl (by simp only [toNat_bits]; omega)

theorem table_major3C (h : fld w 4 6 = 60) : Table 5 w (major3C w) := by
  have hsum := word_fields hw ho
  have h10_18 : fld w 10 18 = fld w 10 5 + 2 ^ 5 * fld w 15 13 := fld_add w 10 5 13
  have h15_13 : fld w 15 13 = fld w 15 5 + 2 ^ 5 * fld w 20 8 := fld_add w 15 5 8
  have h20_8 : fld w 20 8 = fld w 20 5 + 2 ^ 5 * fld w 25 3 := fld_add w 20 5 3
  unfold major3C
  split
  case h_6 => trivial
  all_goals exact reads_must fun hz => entry (by omega) rfl rfl (by simp only [toNat_bits]; omega)

theorem table_major3E (h : fld w 4 6 = 62) : Table 8 w (major3E w) := by
  have hsum := word_fields hw ho
  have h10_10 : fld w 10 10 = fld w 10 5 + 2 ^ 5 * fld w 15 5 := fld_add w 10 5 5
  have h20_5 : fld w 20 5 = fld w 20 2 + 2 ^ 2 * fld w 22 3 := fld_add w 20 2 3
  have h20_8 : fld w 20 8 = fld w 20 2 + 2 ^ 2 * fld w 22 6 := fld_add w 20 2 6
  have h22_6 : fld w 22 6 = fld w 22 3 + 2 ^ 3 * fld w 25 3 := fld_add w 22 3 3
  unfold major3E
  split
  case h_9 => trivial
  all_goals exact reads_must fun hz => entry (by omega) rfl rfl (by simp only [toNat_bits]; omega)

theorem table_decode32 {m : Nat} (h : fld w 4 6 = m) : Table (assigned m) w (decode32 w) := by
  have hclass : fld w 6 4 = m / 4 := by rw [fld_class, h]
  unfold decode32
  rw [h]
  split
  exacts [
    table_major00 hw ho h, table_major01 hw ho h, table_major02 hw ho h, table_major03 hw ho h, table_major04 hw ho h,
    table_major05 hw ho h, table_major06 hw ho h, table_major07 hw ho h, table_major08 hw ho h, table_major09 hw ho h,
    table_major0A hw ho h, table_major0B hw ho h, table_major0C hw ho h, table_major0D hw ho h, table_major0F hw ho h,
    table_major10 hw ho h, table_major11 hw ho h, table_major12 hw ho h, table_major13 hw ho h, table_major14 hw ho h,
    table_major15 hw ho h, table_major16 hw ho h, table_major17 hw ho h, table_major18 hw ho h, table_major19 hw ho h,
    table_major1A hw ho h, table_major1B hw ho h, table_major1C hw ho h, table_major1D hw ho h, table_major1E hw ho h,
    table_major20 hw ho hclass, table_major20 hw ho hclass, table_major20 hw ho hclass, table_major20 hw ho hclass,
    table_major24 hw ho h, table_major25 hw ho h, table_major26 hw ho h, table_major27 hw ho h, table_major28 hw ho h,
    table_major29 hw ho h, table_major2A hw ho h, table_major30 hw ho h, table_major31 hw ho h, table_major32 hw ho h,
    table_major33 hw ho h, table_major36 hw ho h, table_major37 hw ho h, table_major3A hw ho h, table_major3B hw ho h,
    table_major3C hw ho h, table_major3E hw ho h, trivial]

end

/-- The operations 1 to 14 of the 16-bit forms, and no other, decode (R60). -/
theorem reads_decode16 {w : Nat} (hw : w < 2 ^ 16) (he : w % 2 = 0) : Reads (0 < fld w 1 5 ∧ fld w 1 5 < 15) 2 w (decode16 w) := by
  have hsum : w = fld w 1 5 * 2 + fld w 6 5 * 2 ^ 6 + fld w 11 5 * 2 ^ 11 := by
    simp only [fld]
    omega
  have h6_10 : fld w 6 10 = fld w 6 5 + 2 ^ 5 * fld w 11 5 := fld_add w 6 5 5
  unfold decode16
  split
  case h_15 => trivial
  case h_12 => exact reads_must fun hz => entry (by omega) rfl rfl (by simp only [toNat_bits]; omega)
  case h_13 | h_14 => exact reads_must fun hz => ⟨by omega, rfl, show _ = w by simp only [Instr.word]; omega⟩
  all_goals exact entry (by omega) rfl rfl (by simp only [toNat_bits]; omega)

theorem encoding_of_decode {b : List Byte} {i : Instr} {t : List Byte} (h : decode b = .ok (i, t)) :
    b = encode i ++ t ∧ i.wf = true ∧ i.encoded = true := by
  match b with
  | [] => cases h
  | [_] => cases h
  | b0 :: b1 :: r =>
    by_cases hp : b0.toNat % 2 = 0
    · have he : leNat [b0, b1] % 2 = 0 := (leNat_cons_parity b0 [b1]).trans hp
      have hb : leBytes 2 (leNat [b0, b1]) ++ r = b0 :: b1 :: r := congrArg (· ++ r) (leBytes_leNat [b0, b1])
      rw [← hb, decode_two (leNat_lt [b0, b1]) he] at h
      rw [← hb]
      exact encoding_of_reads (reads_decode16 (leNat_lt [b0, b1]) he) (by decide) h
    · match r with
      | [] | [_] => simp [decode, hp] at h
      | b2 :: b3 :: r =>
        have ho : leNat [b0, b1, b2, b3] % 2 = 1 := (leNat_cons_parity b0 [b1, b2, b3]).trans (by omega)
        have hb : leBytes 4 (leNat [b0, b1, b2, b3]) ++ r = b0 :: b1 :: b2 :: b3 :: r :=
          congrArg (· ++ r) (leBytes_leNat [b0, b1, b2, b3])
        rw [← hb, decode_four (leNat_lt [b0, b1, b2, b3]) ho] at h
        rw [← hb]
        exact encoding_of_reads (table_decode32 (leNat_lt [b0, b1, b2, b3]) ho rfl) (by decide) h

/-- A function that the major's table does not list does not decode. -/
theorem unlisted_refused {w : Nat} (hw : w < 2 ^ 32) (ho : w % 2 = 1) {m : Nat} (hm : w / 16 % 64 = m)
    (hf : assigned m ≤ w / 2 ^ 28) (r : List Byte) : ∃ e, decode (leBytes 4 w ++ r) = .error e := by
  rw [decode_four hw ho]
  refine refused_of_not (table_decode32 hw ho hm) ?_ r
  have hfn : fld w 28 4 = w / 2 ^ 28 := Nat.mod_eq_of_lt (by omega)
  omega

/-! ### The round trip, one statement for each constructor -/

section
open RoundTrip

/-- The round trip of each constructor, put together by the cases of `Instr`. -/
theorem roundTrip (i : Instr) : Statement i :=
  Instr.casesOn (motive := Statement) i
    add sub mul mulh mulhN div divN rem remN and or xor andn min max minN maxN shl shr sra rot clz ctz popc taz tax tadepth tanb taup
    tadown sel cmpEq cmpNe cmpLt cmpGe cmpLtu cmpGeu cmpAny cmpNone addImm12 andImm orImm xorImm andnImm shlImm shrImm sraImm rotImm
    mulImm minImm maxImm minNImm maxNImm taupImm tadownImm fsh bfx bfxs bfi bfxImm lui bra call bcEq bcNe bcLt bcGe bcLtu bcGeu bcAny
    bcNone loop ret callr jt isync halt rft align prio trap mfc mtc mxc mov add16 sub16 and16 or16 xor16 li addImm5 shl16 shr16 sra16
    ret16 nop halt16 bbinit bbpeek bbtake bbskip bbfill ld ldSx st ldAcq stRel vld vst vldtRaw ldtMap ldtTa sttMap sttTa vldtMap vldtTa
    vsttMap vsttTa bcopy bfill bzero pftLift pftDrop fship vgath vscat guard unguard tmld tmst send deposit dset dget mbxcfg amoAdd
    amoMin amoMax amoAnd amoOr amoXor amoSwap amoCas amoMinN amoMaxN salloc sfree bar barrive bcancel lock unlock waitv phopen phset
    phend phwait stv ldv recl fenceLd fenceSt fenceAll vadd vsub vmul vfma vfms vdiv vsqrt vaddSat vsubSat vmulSat vfmaSat vaddNSat
    vsubNSat vmin vmax vminN vmaxN vabs vneg vand vor vxor vshl vshr vsra vmov vtag vbcast vcmpEq vcmpNe vcmpLt vcmpGe vcmpLe vcmpGt
    vcmpUn vcmpOrd vcmpLtN vcmpGeN vcmpLeN vcmpGtN vcvt vredSum vredMin vredMax vredAnd vredOr vredMinN vredMaxN vperm vslide vcompress
    vgl vsel vcx vdistDot vdistL2 vchol8 vtrs8 pand por pxor pnot pcnt pfirst xreq xget kinit kadd kdrain mlease mfree mstat mcheck
    mload mscale mswap mmul mdrain nalloc nfree nld nst link nrun npush nmove nbal snap eret cfgrd cfgwr sleep wake sopen sclose
    alignTimeout waitvWake xuCompute kuTakePair kdrainWrite sleepDeadline closeMarkerArrival rawWordArrival instructionFetch resultLands
    messageArrival acceptance refusal depositDataWrite dispatch retirement phaseClose phaseCloseDelivery faultNotice amoRequest
    amoResult nodeStep churnPush autoBalance trapEntry stewardRecord coreResume coreRestart spareColumnRemap markBankFailed
    gangAllocation bandPromotion gangStart segmentArrival launchContextStart gangCompletion preemptionRequest preemptDistribution
    rtcLateHalt imageWrite gangRestore timeSliceSwitch ptpMessage engineUnit pftNoticeInjection translationWalk leaseGrant leaseLimit
    leaseHandover suspensionTimeout leaseRelease matrixStep mswapEffect kvWriteRequest relayoutSlotGrant relayoutDequantise
    relayoutApply relayoutFlip kvReadRequest kvTick skimmerBegin skimmerQuantise skimmerFlip fshipPerform bankRefresh layerOverheat
    refreshDue allBankRefresh remapTableError remapReload frameStart flitForward linkFlitReceive replayRequest laneRepair
    snapshotTrigger snapshotLatch snapshotRelease snapin perst pwrgood blockCalibration firmwareVerify valeLoad doorbell completionEntry
    attestationQuote islandDvfs thermtrip systemCallReturn time post waitjob xutable routine map mapSub unmapSub realloc kvalloc kvfree
    kvslots pooladd unassignedCall registerWrite hostBarAccess

end

end Sys2Proof.Laws.Decoder

namespace Sys2Proof

/-- Settles O54, by the round trip of each constructor. -/
theorem decodeEncodeRoundTrip : Obligations.DecodeEncodeRoundTrip := Laws.Decoder.roundTrip

/-- Settles O53: each word is the encoding of the instruction named, so that the round trip reads it. -/
theorem wordsDecode : Obligations.WordsDecode := by
  unfold Obligations.WordsDecode
  intro r
  exact ⟨Laws.Decoder.roundTrip (.vfma 0 10 4 11 0 0) rfl rfl r, Laws.Decoder.roundTrip (.vcmpLt 0 2 4 9 0) rfl rfl r,
    Laws.Decoder.roundTrip (.kadd 2 6 12 13 0) rfl rfl r, Laws.Decoder.roundTrip (.kdrain 7 5 6 0) rfl rfl r,
    Laws.Decoder.roundTrip (.mload 13 1 0) rfl rfl r, Laws.Decoder.roundTrip (.mmul 2 13 0 0) rfl rfl r,
    Laws.Decoder.roundTrip (.tmld 0 5 0) rfl rfl r, Laws.Decoder.roundTrip (.mlease 0) rfl rfl r, Laws.Decoder.roundTrip .nop rfl rfl r⟩

/-- Settles O55: each table reads an instruction only from its own encoding (`Laws.Decoder.Reads`), and only its listed functions. -/
theorem reservedEncodingsRefused : Obligations.ReservedEncodingsRefused := by
  unfold Obligations.ReservedEncodingsRefused
  refine ⟨fun b i r h => Laws.Decoder.encoding_of_decode h, ?reserved, ?unlisted, ?halfwords⟩
  case reserved =>
    intro w r hw ho hm
    have hnone : Laws.Decoder.assigned (w / 16 % 64) = 0 := by
      revert hm
      generalize w / 16 % 64 = m
      revert m
      decide
    exact Laws.Decoder.unlisted_refused hw ho rfl (hnone.trans_le (Nat.zero_le _)) r
  case unlisted =>
    intro w r q hw ho hq
    have hlisted : Laws.Decoder.assigned q.1 = q.2 := by
      revert q
      decide
    exact fun hm hf => Laws.Decoder.unlisted_refused hw ho hm (hlisted.trans_le hf) r
  case halfwords =>
    intro w r hw he ho
    rw [Laws.Decoder.decode_two hw he]
    refine Laws.Decoder.refused_of_not (Laws.Decoder.reads_decode16 hw he) ?_ r
    simp only [Decode.fld]
    omega

end Sys2Proof
end

section
/-! PROOF. The scoreboard at a read and at a write (R63). -/
namespace Sys2Proof.Laws.Scoreboard
open Sys2Proof.Machine

section
variable {d : Dest} {s : State} {q : Pend} {n : Nat}

theorem readReady_clear (h : s.me.pendingTo d = none) : readReady d s = .ok ⟨⟩ s := by
  simp only [readReady, get_bind, h, pure_run]

theorem readReady_waits (h : s.me.pendingTo d = some q) (hq : q.ready = none) : readReady d s = .error .stall s := by
  simp only [readReady, get_bind, h, hq, throw_run]

theorem readReady_short (h : s.me.pendingTo d = some q) (hq : q.ready = some n) (hs : s.me.sbc = true) :
    readReady d s = .error (.trap { cause := 0x04, val := BitVec.ofNat 64 d.code }) s := by
  simp only [readReady, get_bind, h, hq, hs, if_true, raise_run, cSTALL_SHORT]

/-- Without STATUS.SBC the old value of a register with a fixed-latency result under way is read. -/
theorem readReady_early (h : s.me.pendingTo d = some q) (hq : q.ready = some n) (hs : s.me.sbc = false) : readReady d s = .ok ⟨⟩ s := by
  simp only [readReady, get_bind, h, hq, hs, Bool.false_eq_true, if_false, pure_run]

theorem writeReady_clear (h : s.me.pendingTo d = none) : writeReady d s = .ok ⟨⟩ s := by
  simp only [writeReady, get_bind, h, pure_run]

theorem writeReady_waits (h : s.me.pendingTo d = some q) : writeReady d s = .error .stall s := by
  simp only [writeReady, get_bind, h, throw_run]

/-- A read that the scoreboard admits changes nothing. -/
theorem readReady_state {t : State} {u : Unit} (h : readReady d s = .ok u t) : t = s := by
  cases hp : s.me.pendingTo d with
  | none =>
    rw [readReady_clear hp] at h
    cases h
    rfl
  | some q =>
    cases hq : q.ready with
    | none =>
      rw [readReady_waits hp hq] at h
      cases h
    | some n =>
      cases hs : s.me.sbc with
      | true =>
        rw [readReady_short hp hq hs] at h
        cases h
      | false =>
        rw [readReady_early hp hq hs] at h
        cases h
        rfl

end

end Sys2Proof.Laws.Scoreboard
end

section
/-! PROOF. Predicated-off scalar instructions and the 16-bit forms (R55, R56, R60). -/
namespace Sys2Proof.Laws.ShortForm
open Sys2Proof.Machine

/-! ### Predicated off (R56) -/

/-- The read of a predicate changes nothing. -/
theorem readP_state {n : Nat} {v : BitVec 256} {s t : State} (h : readP n s = .ok v t) : t = s := by
  unfold readP at h
  split at h
  · cases h
    rfl
  · rcases bind_cases (readReady (.pred n)) (fun _ => do return (← get).me.preg n) s with ⟨a, u, hu, e⟩ | ⟨x, u, hu, e⟩
    · rw [e, get_bind] at h
      cases h
      exact Scoreboard.readReady_state hu
    · rw [e] at h
      cases h

theorem instr_predicatedOff {p sc : BitVec 3} {body : M Unit} {s t : State} {v : BitVec 256} (h : readP p.toNat s = .ok v t)
    (hv : predBit v 0 = false) : instr sc (guardP p body) s = .next (t.goOn s.cur.1 s.cur.2 (s.me.pc + 4) sc.toNat) := by
  refine instr_ok (u := ⟨⟩) ?_
  rw [guardP_ok h, hv]
  rfl

theorem skipsRR {mk : BitVec 3 → BitVec 5 → BitVec 5 → BitVec 5 → BitVec 3 → Instr} {f : Word → Word → Word} {lat : Nat}
    (hx : ∀ p d a b sc s, exec (mk p d a b sc) s = opRR f lat p d a b sc s) : SkipsRR mk := fun p d a b sc s _ _ h hv =>
  (hx p d a b sc s).trans (instr_predicatedOff h hv)

theorem skipsR {mk : BitVec 3 → BitVec 5 → BitVec 5 → BitVec 3 → Instr} {f : Word → Word}
    (hx : ∀ p d a sc s, exec (mk p d a sc) s = opR f p d a sc s) : SkipsR mk := fun p d a sc s _ _ h hv =>
  (hx p d a sc s).trans (instr_predicatedOff h hv)

/-! ### The 16-bit forms (R60) -/

theorem completes16 {mk : BitVec 5 → BitVec 5 → Instr} {f : Word → Word → Word} (hx : ∀ d a s, exec (mk d a) s = op16 f d a s) :
    Completes16 mk f := fun d a s _ _ _ _ _ hd ha hw =>
  (hx d a s).trans (instr16_ok ((bind_ok hd).trans ((bind_ok ha).trans hw)))

/-- A 16-bit form with an immediate, whose function the statement may write as another that agrees on extended immediates. -/
theorem completes16I {mk : BitVec 5 → BitVec 5 → Instr} {e : BitVec 5 → Word} {f g : Word → Word → Word}
    (hx : ∀ d i s, exec (mk d i) s = op16I g d (e i) s) (hf : ∀ x i, g x (e i) = f x (e i)) : Completes16I mk e f := by
  intro d i s s1 t x hd hw
  rw [← hf] at hw
  exact (hx d i s).trans (instr16_ok ((bind_ok hd).trans hw))

/-- A 5-bit count is below 64. -/
theorem shiftBy_imm5 (i : BitVec 5) : shiftBy (i.setWidth 64) = (i.setWidth 64).toNat := by
  unfold shiftBy
  rw [BitVec.toNat_setWidth]
  omega

end Sys2Proof.Laws.ShortForm

namespace Sys2Proof
open Sys2Proof.Machine Sys2Proof.Laws Sys2Proof.Laws.ShortForm

/-- The forms of kind P, by operand count. -/
theorem predicatedOff : Claims.predicatedOff := by
  refine ⟨⟨?_, ?_, ?_, ?_, ?_, ?_, ?_, ?_, ?_, ?_, ?_, ?_, ?_, ?_, ?_, ?_, ?_, ?_, ?_, ?_, ?_, ?clz, ?ctz, ?popc⟩,
    ⟨?_, ?tax, ?tadepth, ?_, ?_, ?_⟩, ⟨?_, ?_, ?_, ?_, ?_, ?_, ?_, ?_, ?vgl⟩, fun _ _ _ _ => readP_state⟩
  case clz | ctz | popc | tax | tadepth => exact skipsR fun _ _ _ _ _ => rfl
  case vgl => exact fun _ _ _ _ _ _ _ => instr_predicatedOff
  all_goals exact skipsRR fun _ _ _ _ _ _ => rfl

/-- The 16-bit forms. -/
theorem shortForms : Claims.shortForms :=
  ⟨fun _ _ _ _ _ _ ha hw => instr16_ok ((bind_ok ha).trans hw), completes16 fun _ _ _ => rfl, completes16 fun _ _ _ => rfl,
    completes16 fun _ _ _ => rfl, completes16 fun _ _ _ => rfl, completes16 fun _ _ _ => rfl, fun _ _ _ _ hw => instr16_ok hw,
    completes16I (fun _ _ _ => rfl) fun _ _ => rfl,
    completes16I (fun _ _ _ => rfl) fun x i => congrArg (x <<< ·) (shiftBy_imm5 i),
    completes16I (fun _ _ _ => rfl) fun x i => congrArg (x >>> ·) (shiftBy_imm5 i),
    completes16I (fun _ _ _ => rfl) fun x i => congrArg (x.sshiftRight ·) (shiftBy_imm5 i), fun _ => instr16_ok (u := ⟨⟩) rfl⟩

/-- Settles O4: both halves are the operation of each form read off its arm of `exec`. -/
theorem predicatedOffAndShortForms : Obligations.PredicatedOffAndShortForms := ⟨predicatedOff, shortForms⟩

end Sys2Proof
end

section
/-! PROOF. What a scalar source reads and where a scalar result goes (R62, R63, R65, R66, R73, R202, R380). -/
namespace Sys2Proof.Laws.ScalarOperand
open Sys2Proof.Machine Scoreboard

/-! ### A scalar source (R65, R73, R202) -/

section
variable {r : BitVec 5} {s : State}

theorem sreg_eq (x : Ctx) (r : BitVec 5) : x.sreg r.toNat = if r = 0 then 0 else Map.getD x.s r.toNat 0 := by
  have h : r.toNat = 0 ↔ r = 0 := by rw [← BitVec.toNat_inj]; rfl
  simp only [Ctx.sreg, h]

theorem readS_register (h28 : r.toNat < 28) (hr : readReady (.scalar r.toNat) s = .ok ⟨⟩ s) (hp : Map.get? s.me.poisoned r.toNat = none) :
    readS r s = .ok (s.me.sreg r.toNat) s := by
  simp only [readS, if_pos h28, bind_ok hr, get_bind, hp, pure_run]

theorem readS_held {e : Exc} (h28 : r.toNat < 28) (hr : readReady (.scalar r.toNat) s = .error e s) : readS r s = .error e s := by
  simp only [readS, if_pos h28, bind_error hr]

/-- The mark of a failed fship: POISON, which a trap handler notes as pending. -/
theorem readS_poisoned {ta : Word} (h28 : r.toNat < 28) (hr : readReady (.scalar r.toNat) s = .ok ⟨⟩ s)
    (hp : Map.get? s.me.poisoned r.toNat = some ta) :
    (s.me.td = false → readS r s = .error (.poisonRead r.toNat { cause := 0x10, val := ta }) s)
    ∧ (s.me.td = true → readS r s = .ok (s.me.sreg r.toNat) (s.modCtx s.cur.1 s.cur.2 fun x =>
        { x with poisoned := Map.del x.poisoned r.toNat, pendTraps := x.pendTraps ++ [{ cause := 0x10, val := ta }] })) := by
  constructor <;> intro htd
  · simp only [readS, if_pos h28, bind_ok hr, get_bind, hp, htd, Bool.false_eq_true, if_false, throw_run, cPOISON]
  · simp only [readS, if_pos h28, bind_ok hr, get_bind, hp, htd, if_true, cPOISON]
    rfl

end

/-! ### Pops (R66) -/

section
variable {r : BitVec 5} {s : State}

theorem readS_pops {f : LinkFlit} {q : List LinkFlit} (h28 : 28 ≤ r.toNat) (hq : Map.getD s.here.inq (r.toNat - 28) [] = f :: q) :
    readS r s = .ok (f.data.setWidth 64) (s.modCore s.cur.1 fun k => { k with inq := Map.set k.inq (r.toNat - 28) q }) := by
  have hpop : popFlits (r.toNat - 28) 1 s = .ok [f] (s.modCore s.cur.1 fun k => { k with inq := Map.set k.inq (r.toNat - 28) q }) := by
    simp only [popFlits, get_bind, hq, List.length_cons, Nat.le_add_left, if_true]
    rfl
  have hword : BitVec.ofNat 64 (joinChunks [f]) = f.data.setWidth 64 := by
    simp only [joinChunks, Nat.mul_zero, Nat.add_zero, BitVec.ofNat_toNat]
  simp only [readS, if_neg (Nat.not_lt.mpr h28), bind_ok hpop, hword, pure_run]

theorem readS_empty_waits (h28 : 28 ≤ r.toNat) (hq : Map.getD s.here.inq (r.toNat - 28) [] = [])
    (hw : s.popWaits s.cur.1 (r.toNat - 28) = true) : readS r s = .error .stall s := by
  have hpop : popFlits (r.toNat - 28) 1 s = .error .stall s := by
    simp [popFlits, get_bind, hq, hw]
  simp only [readS, if_neg (Nat.not_lt.mpr h28), bind_error hpop]

theorem readS_empty_traps (h28 : 28 ≤ r.toNat) (hq : Map.getD s.here.inq (r.toNat - 28) [] = [])
    (hw : s.popWaits s.cur.1 (r.toNat - 28) = false) :
    readS r s = .error (.trap { cause := 0x09, val := BitVec.ofNat 64 r.toNat }) s := by
  have hpop : popFlits (r.toNat - 28) 1 s = .error (.trap { cause := 0x09, val := BitVec.ofNat 64 r.toNat }) s := by
    simp [popFlits, get_bind, hq, hw, cTREE_PROT, Nat.add_sub_cancel' h28]
  simp only [readS, if_neg (Nat.not_lt.mpr h28), bind_error hpop]

end

section
variable {s : State} {c dir n : Nat} {g : Gang}

theorem popWaits_neighbour (hn : neighbour c dir = some n) (hg : s.gangOf c = some g) (hh : g.holds n = true) : s.popWaits c dir = true := by
  simp only [State.popWaits, hn, hg, hh, Bool.or_true]

theorem popWaits_stream {id : Nat} (h : Map.getD (s.core c).ports dir .closed = .open id) : s.popWaits c dir = true := by
  simp only [State.popWaits, h, Bool.true_or]

/-- No core of the gang lies in the direction. -/
def NoNeighbour (s : State) (c dir : Nat) : Prop :=
  neighbour c dir = none ∨ ∃ n g, neighbour c dir = some n ∧ s.gangOf c = some g ∧ g.holds n = false

theorem popWaits_none (h : NoNeighbour s c dir) (hp : ∀ id, Map.getD (s.core c).ports dir .closed ≠ .open id) : s.popWaits c dir = false := by
  rw [State.popWaits, Bool.or_eq_false_iff]
  constructor
  · split
    · next id h => exact absurd h (hp id)
    · rfl
  · rcases h with h | ⟨n, g, hn, hg, hh⟩
    · simp only [h]
    · simp only [hn, hg, hh]

/-! ### Pushes (R66, R380) -/

theorem linkTarget_neighbour (hp : Map.getD (s.core c).ports dir .closed = .closed) (hn : neighbour c dir = some n) (hg : s.gangOf c = some g)
    (hh : g.holds n = true) : s.linkTarget c dir = some (n, opposite dir, false) := by
  simp only [State.linkTarget, hp, hn, hg, hh, if_true]

theorem linkTarget_none (hp : Map.getD (s.core c).ports dir .closed = .closed) (h : NoNeighbour s c dir) : s.linkTarget c dir = none := by
  rcases h with h | ⟨n, g, hn, hg, hh⟩
  · simp only [State.linkTarget, hp, h]
  · simp only [State.linkTarget, hp, hn, hg, hh, Bool.false_eq_true, if_false]

theorem linkTarget_stream {id : Nat}
    (hp : Map.getD (s.core c).ports dir .closed = .armed id ∨ Map.getD (s.core c).ports dir .closed = .open id) (hg : s.gangOf c = some g)
    (hi : g.toPhys id = some n) : s.linkTarget c dir = some (n, opposite (lastDir c n), true) := by
  rcases hp with hp | hp <;> simp only [State.linkTarget, hp, hg, hi, Option.map_some]

end

section
variable {s : State} {dir dst inDir : Nat} {stream : Bool} {data : List (BitVec 512)} {vtag : Option Tag}

/-- The words of a push as they leave (R66). -/
def outbound (data : List (BitVec 512)) (vtag : Option Tag) (stream : Bool) (dst inDir : Nat) : List LinkFlit :=
  data.map fun x => { data := x, vtag := vtag, stream := stream, dst := dst, inDir := inDir : LinkFlit }

theorem pushFlits_pushes (ht : s.linkTarget s.cur.1 dir = some (dst, inDir, stream))
    (hroom : (Map.getD s.here.outq dir []).length + data.length ≤ 16) :
    ∃ t, pushFlits dir data vtag s = .ok ⟨⟩ t
      ∧ t.here.outq = Map.set s.here.outq dir (Map.getD s.here.outq dir [] ++ outbound data vtag stream dst inDir)
      ∧ ∀ id, (Map.getD s.here.ports dir .closed = .armed id ∨ Map.getD s.here.ports dir .closed = .open id) →
          Map.getD t.here.ports dir .closed = .open id := by
  refine ⟨s.modCore s.cur.1 fun k =>
    { k with
      outq := Map.set k.outq dir (Map.getD s.here.outq dir [] ++ outbound data vtag stream dst inDir)
      ports := match Map.getD k.ports dir .closed with
        | .armed id => Map.set k.ports dir (.open id)
        | _ => k.ports }, ?run, ?queue, ?port⟩
  case run =>
    simp only [pushFlits, get_bind, ht, hroom, if_true]
    rfl
  case queue => exact congrArg Core.outq (core_modCore s s.cur.1 _)
  case port =>
    intro id hp
    rw [State.here, show (s.modCore s.cur.1 _).cur = s.cur from rfl, core_modCore]
    rw [State.here] at hp
    rcases hp with hp | hp
    · simp only [hp, getD_set]
    · simp only [hp]

theorem pushFlits_waits (ht : s.linkTarget s.cur.1 dir = some (dst, inDir, stream))
    (hfull : 16 < (Map.getD s.here.outq dir []).length + data.length) : pushFlits dir data vtag s = .error .stall s := by
  simp only [pushFlits, get_bind, ht, if_neg (Nat.not_le.mpr hfull), throw_run]

theorem pushFlits_traps (ht : s.linkTarget s.cur.1 dir = none) :
    pushFlits dir data vtag s = .error (.trap { cause := 0x09, val := BitVec.ofNat 64 (28 + dir) }) s := by
  simp only [pushFlits, get_bind, ht, raiseTree_run, cTREE_PROT]

end

/-! ### Where a scalar result goes (R62, R63, R65, R66) -/

section
variable {r : BitVec 5} {v : Word} {lat : Nat} {s : State} {q : Pend}

theorem writeSL_zero : writeSL 0 v lat s = .ok ⟨⟩ s := by
  have h : lat ≤ 1 ∨ (0 : BitVec 5).toNat = 0 ∨ 28 ≤ (0 : BitVec 5).toNat := .inr (.inl rfl)
  rw [writeSL, if_pos h]
  rfl

theorem writeSL_link (h28 : 28 ≤ r.toNat) : writeSL r v lat s = pushFlits (r.toNat - 28) [v.setWidth 512] none s := by
  have h : lat ≤ 1 ∨ r.toNat = 0 ∨ 28 ≤ r.toNat := .inr (.inr h28)
  rw [writeSL, if_pos h, writeS, if_neg (by omega)]

theorem writeSL_waits (h0 : 0 < r.toNat) (h28 : r.toNat < 28) (hp : s.me.pendingTo (.scalar r.toNat) = some q) :
    writeSL r v lat s = .error .stall s := by
  rw [writeSL]
  split
  · rw [writeS, if_pos h28, if_neg (by omega), bind_error (writeReady_waits hp)]
  · have hadd : addPend (.scalar r.toNat) (v.setWidth 2048) .raw (some (s.here.cycle + lat)) 0 s = .error .stall s :=
      bind_error (writeReady_waits hp)
    simp only [get_bind, bind_error hadd]

theorem writeSL_now (h0 : 0 < r.toNat) (h28 : r.toNat < 28) (hp : s.me.pendingTo (.scalar r.toNat) = none) :
    writeSL r v 1 s = .ok ⟨⟩ (s.modCtx s.cur.1 s.cur.2 fun x =>
      { x with s := Map.set x.s r.toNat v, poisoned := Map.del x.poisoned r.toNat }) := by
  have hne : ¬ r.toNat = 0 := by omega
  rw [writeSL, if_pos (.inl le_rfl), writeS, if_pos h28, if_neg hne, bind_ok (writeReady_clear hp), modMe_run]
  simp only [Ctx.setSreg, hne, if_false]

/-- The result of a later cycle, left behind. -/
def laterResult (s : State) (r : BitVec 5) (v : Word) (lat : Nat) : Pend :=
  { id := s.vale.nextId, dest := .scalar r.toNat, val := v.setWidth 2048, tag := .raw, ready := some (s.here.cycle + lat), open_ := 0 }

theorem writeSL_later (h0 : 0 < r.toNat) (h28 : r.toNat < 28) (hl : 1 < lat) (hp : s.me.pendingTo (.scalar r.toNat) = none) :
    writeSL r v lat s = .ok ⟨⟩ ({ s with vale := { s.vale with nextId := s.vale.nextId + 1 } }.modCtx s.cur.1 s.cur.2 fun x =>
      { x with pend := x.pend ++ [laterResult s r v lat] }) := by
  have hadd := bind_ok (f := fun _ => do
    let i ← freshId
    modMe fun x => { x with pend := x.pend ++ [{ laterResult s r v lat with id := i }] }
    return i) (writeReady_clear hp)
  rw [writeSL, if_neg (by omega), get_bind]
  exact bind_ok (hadd.trans rfl)

/-- A pending result lands in its register at the cycle in which it is due, and not before (R62). -/
theorem atCycle_lands {x : Ctx} {m : Nat} (hx : x.pend = [q]) (hd : q.dest = .scalar r.toNat) (h0 : 0 < r.toNat) (hq : q.ready = some m) :
    ((x.atCycle m).sreg r.toNat = q.val.setWidth 64 ∧ (x.atCycle m).pend = [])
    ∧ ∀ n < m, (x.atCycle n).sreg r.toNat = x.sreg r.toNat ∧ (x.atCycle n).pend = [q] := by
  refine ⟨?_, fun n hn => ?_⟩
  · have hdue : q.due m = true := by simp only [Pend.due, hq, le_refl, decide_true]
    refine ⟨?_, by simp only [Ctx.atCycle, hx, List.filter_cons, hdue, Bool.not_true, Bool.false_eq_true, if_false, List.filter_nil]⟩
    have hland := (MessageEvent.land_scalar (x := x) hd h0).1
    simp only [Ctx.atCycle, hx, List.filter_cons, hdue, if_true, List.filter_nil, Ctx.landAll]
    exact hland
  · have hdue : q.due n = false := by simp only [Pend.due, hq, decide_eq_false_iff_not, Nat.not_le.mpr hn, not_false_iff]
    simp only [Ctx.atCycle, hx, List.filter_cons, hdue, Bool.not_false, if_true, List.filter_nil, Bool.false_eq_true, if_false, Ctx.landAll]
    exact ⟨rfl, trivial⟩

end
end Sys2Proof.Laws.ScalarOperand

namespace Sys2Proof
open Sys2Proof.Machine Sys2Proof.Laws Sys2Proof.Laws.Scoreboard Sys2Proof.Laws.ScalarOperand

/-- What a scalar source reads. -/
theorem scalarSource : Claims.scalarSource := by
  refine ⟨?now, ?short, ?early, ?waits, fun r s f q => readS_pops, ?gang, ?stream, ?edge, ?outside, ?poisoned⟩
  case now =>
    intro r s h28 hp hm
    rw [← sreg_eq]
    exact readS_register h28 (readReady_clear hp) hm
  case short => exact fun r s q n h28 hp hq hs => readS_held h28 (readReady_short hp hq hs)
  case early =>
    intro r s q n h28 hp hq hs hm
    rw [← sreg_eq]
    exact readS_register h28 (readReady_early hp hq hs) hm
  case waits => exact fun r s q h28 hp hq => readS_held h28 (readReady_waits hp hq)
  case gang => exact fun r s g n h28 hq hg hn hh => readS_empty_waits h28 hq (popWaits_neighbour hn hg hh)
  case stream => exact fun r s id h28 hq hp => readS_empty_waits h28 hq (popWaits_stream hp)
  case edge => exact fun r s h28 hq hn hp => readS_empty_traps h28 hq (popWaits_none (.inl hn) hp)
  case outside => exact fun r s n g h28 hq hn hg hh hp => readS_empty_traps h28 hq (popWaits_none (.inr ⟨n, g, hn, hg, hh⟩) hp)
  case poisoned => exact fun r s ta h28 hp hm => readS_poisoned h28 (readReady_clear hp) hm

/-- Where a scalar result goes. -/
theorem scalarResultPlace : Claims.scalarResultPlace := by
  refine ⟨fun _ _ _ => writeSL_zero, fun r v s => writeSL_now, ?later, fun r v lat s q => writeSL_waits, ?pushed, ?full, ?stream, ?noCore⟩
  case later =>
    intro r v lat s h0 h28 hl hp
    refine ⟨_, laterResult s r v lat, writeSL_later h0 h28 hl hp, ?_, rfl, rfl, ?_, fun x hx => ?_⟩
    · exact congrArg Ctx.pend (ctx_modCtx _ s.cur.1 s.cur.2 _)
    · exact (congrArg (Ctx.sreg · r.toNat) (ctx_modCtx _ s.cur.1 s.cur.2 _) :)
    · have hval : (laterResult s r v lat).val.setWidth 64 = v := BitVec.setWidth_setWidth_of_le v (by decide) |>.trans (BitVec.setWidth_eq v)
      have hland := atCycle_lands hx rfl h0 rfl
      rwa [hval] at hland
  case pushed =>
    intro r v lat s n g h28 hp hn hg hh hroom
    obtain ⟨t, hrun, hout, -⟩ := pushFlits_pushes (data := [v.setWidth 512]) (vtag := none) (linkTarget_neighbour hp hn hg hh) hroom
    exact ⟨t, _, (writeSL_link h28).trans hrun, hout, rfl, rfl, rfl, rfl⟩
  case full =>
    intro r v lat s n g h28 hp hn hg hh hfull
    exact (writeSL_link h28).trans (pushFlits_waits (linkTarget_neighbour hp hn hg hh) (Nat.lt_succ_of_le hfull))
  case stream =>
    intro r v lat s n g id h28 hp hg hi hroom
    obtain ⟨t, hrun, hout, hport⟩ := pushFlits_pushes (data := [v.setWidth 512]) (vtag := none) (linkTarget_stream hp hg hi) hroom
    exact ⟨t, _, (writeSL_link h28).trans hrun, hout, rfl, rfl, rfl, rfl, hport id hp⟩
  case noCore =>
    intro r v lat s h28 hp hn
    rw [writeSL_link h28, pushFlits_traps (linkTarget_none hp hn), Nat.add_sub_cancel' h28]

/-- Settles O5: the scoreboard, the links and the ports decide each case. -/
theorem scalarSourcesAndResults : Obligations.ScalarSourcesAndResults := ⟨scalarSource, scalarResultPlace⟩

end Sys2Proof
end

section
/-! PROOF. The register pair of vldt.raw is checked before its map is read (R186). -/
namespace Sys2Proof.Laws.TreeVector
open Sys2Proof.Machine PipeControl

/-- A destination without the register after it: ILLEGAL, whatever the map is. -/
theorem exec_vldtRaw_noPair {d a b : BitVec 5} {k : BitVec 4} {sc : BitVec 3} {s : State} (hd : 27 ≤ d.toNat) :
    Traps (.vldtRaw d a b k sc) s { cause := 0x01, val := BitVec.ofNat 64 (Instr.vldtRaw d a b k sc).word } := by
  refine instr_trap (t := s) ?_
  rw [if_pos hd]
  rfl

theorem afterTrap_trapcause {s : State} {t : TrapInfo} (he : t.event = none) (hp : s.me.pend = []) (hs : s.me.trapStops = false) :
    (s.afterTrap t).me.trapcause = BitVec.ofNat 16 (t.detail * 256 + t.cause) := by
  have hbank : (s.afterTrap t).me = _ :=
    (congrArg State.me ((afterTrap_of_idle t he hp).trans (takeTrap_enters t _ hs))).trans ((me_setCore _ _).trans (bank_setBank _ _ _))
  rw [hbank]
  rfl

/-- The module at reset, with a trap handler at address 64 in the issuing context: its maps are not headed. -/
def handlerSet : State := State.reset.modCtx 0 0 fun x => { x with tvec := 64 }

end Sys2Proof.Laws.TreeVector

namespace Sys2Proof
open Sys2Proof.Machine Sys2Proof.Laws.TreeVector

/-- Refutes O19: its fourth claim on headed maps has vldt.raw through a map that is not headed raise FORMAT for every destination, but with
d = 27, which has no register after it, ILLEGAL comes first. -/
theorem not_treeVectors : ¬ Obligations.TreeVectors := by
  unfold Obligations.TreeVectors
  rintro ⟨-, -, -, -, hclaim, -⟩
  have hformat := (hclaim 27 0 0 0 0 handlerSet handlerSet handlerSet 0 0 rfl rfl).1 rfl
  have hillegal : Traps (.vldtRaw 27 0 0 0 0) handlerSet _ := exec_vldtRaw_noPair (by decide)
  injection hillegal.symm.trans hformat with hstate
  have hsame : (0x01 : BitVec 16) = 0x03 :=
    (afterTrap_trapcause rfl rfl rfl).symm.trans ((congrArg (fun s : State => s.me.trapcause) hstate).trans (afterTrap_trapcause rfl rfl rfl))
  exact absurd hsame (by decide)

end Sys2Proof
end

section
/-! PROOF. The scalar loads and stores and their ordered forms (R62, R179, R180). -/
namespace Sys2Proof.Laws.ScalarAccess
open Sys2Proof.Machine

/-- The address of a form is the model's. -/
theorem formAddress_eq {n : Nat} (x : Word) (o : BitVec n) (unit : Nat) : formAddress x o unit = address x o unit := rfl

/-- A load, by what its form does and how it extends the value. -/
theorem completesLoad {n : Nat} {mk : BitVec 5 → BitVec 5 → BitVec 2 → BitVec n → BitVec 3 → Instr} {signed fixed : Bool}
    {e : Nat → Nat → Word} (hx : ∀ d a z o sc s, exec (mk d a z o sc) s = instr sc (loadTo signed fixed d a z o) s)
    (he : ∀ z v, (if signed then signLoad (2 ^ z) v else w64 v) = e (2 ^ z) v) : CompletesLoad mk fixed e := by
  intro d a z o sc s s1 s2 s3 t x v addr i hx1 haddr hv
  rw [formAddress_eq] at haddr
  constructor <;> intro hf hw <;>
    refine (hx d a z o sc s).trans (instr_ok (u := ⟨⟩) ((bind_ok hx1).trans ((bind_ok haddr).trans ((bind_ok hv).trans ?_))))
  · simp only [he, get_bind, hf, if_true]
    exact hw
  · simp only [he, get_bind, hf, Bool.false_eq_true, if_false, bind_ok hw, pure_run]

theorem signLoad_eq_bmod (z v : Nat) : signLoad (2 ^ z) v = BitVec.ofInt 64 (Int.bmod v (2 ^ (8 * 2 ^ z))) := by
  rw [signLoad, Atomic.signedOf_eq_bmod (Nat.mul_pos (by decide) (Nat.two_pow_pos z))]

theorem storeFrom_ok {n : Nat} {d a : BitVec 5} {z : BitVec 2} {o : BitVec n} {s s1 s2 s3 t : State} {x v : Word} {addr : Nat}
    (hx : readS a s = .ok x s1)
    (haddr : checkLocal (formAddress x o (2 ^ z.toNat)) (2 ^ z.toNat) (2 ^ z.toNat) true s1 = .ok addr s2) (hv : readS d s2 = .ok v s3)
    (hst : scalarStore addr (2 ^ z.toNat) (v.toNat % 2 ^ (8 * 2 ^ z.toNat)) s3 = .ok ⟨⟩ t) : storeFrom d a z o s = .ok ⟨⟩ t := by
  rw [formAddress_eq] at haddr
  exact (bind_ok hx).trans ((bind_ok haddr).trans ((bind_ok hv).trans hst))

end Sys2Proof.Laws.ScalarAccess

namespace Sys2Proof
open Sys2Proof.Machine Sys2Proof.Laws Sys2Proof.Laws.ScalarAccess

/-- Settles O15: the five forms are a load, or a store, with one ending each. -/
theorem loadsAndStoresComplete : Obligations.LoadsAndStoresComplete := by
  unfold Obligations.LoadsAndStoresComplete
  refine ⟨?ld, ?ldSx, fun c => ?ldAcq, ?st, fun c => ?stRel⟩
  case ld => exact completesLoad (signed := false) (fun _ _ _ _ _ _ => rfl) fun _ _ => rfl
  case ldSx => exact completesLoad (signed := true) (fun _ _ _ _ _ _ => rfl) signLoad_eq_bmod
  case ldAcq => exact completesLoad (signed := false) (fun _ _ _ _ _ _ => rfl) fun _ _ => rfl
  case st => exact fun d a z o sc s s1 s2 s3 t x v addr hx haddr hv hst _ => instr_ok (storeFrom_ok hx haddr hv hst)
  case stRel =>
    intro d a z o sc s s1 s2 s3 t x v addr hx haddr hv hst hp
    exact instr_ok ((bind_ok (storeFrom_ok hx haddr hv hst)).trans (PipeControl.releasePoint_passes (hp rfl)))

end Sys2Proof
end

section
/-! PROOF. Element-wise vector instructions: the registers they write and the tags they refuse (R72, R267, R268, R271, R272). -/
namespace Sys2Proof.Laws.VectorElement
open Sys2Proof.Machine

/-! ### A register as its lanes -/

theorem lane_lt (v w k : Nat) : lane v w k < 2 ^ w := Nat.mod_lt _ (Nat.two_pow_pos w)

theorem packLanes_congr {w : Nat} {l : List Nat} {f g : Nat → Nat} (h : ∀ e ∈ l, f e % 2 ^ w = g e % 2 ^ w) :
    packLanes w (l.map f) = packLanes w (l.map g) := by
  induction l with
  | nil => rfl
  | cons e l ih =>
    simp only [List.map_cons, packLanes]
    rw [h e (List.mem_cons_self ..), ih fun i hi => h i (List.mem_cons_of_mem _ hi)]

/-- The lanes of a number, packed again. -/
theorem packLanes_lane (x w j n : Nat) : packLanes w ((count j n).map (lane x w)) = x / 2 ^ (w * j) % 2 ^ (w * n) := by
  induction n generalizing j with
  | zero => simp only [count, List.map_nil, packLanes, Nat.mul_zero, pow_zero, Nat.mod_one]
  | succ n ih =>
    rw [count, List.map_cons, packLanes, ih, lane, Nat.mod_mod, Nat.mul_succ w j, Nat.pow_add, ← Nat.div_div_eq_div_mul, Nat.mul_succ w n,
      Nat.add_comm (w * n) w, Nat.pow_add, Nat.mod_mul]

theorem width_mul (t : Tag) : t.width * (2048 / t.width) = 2048 := by cases t <;> rfl

theorem activeAt_iff {vl w e : Nat} {p : BitVec 256} : activeAt vl p w e = true ↔ Active vl p w e :=
  (Bool.and_eq_true ..).to_iff.trans (and_congr decide_eq_true_iff .rfl)

/-- The elements fix the register: it is the one that `writeElems` writes. -/
theorem eq_mapElems {w vl : Nat} {p : BitVec 256} {old r : BitVec 2048} {f g : Nat → Nat} (hw : w * (2048 / w) = 2048)
    (hfg : ∀ e, f e % 2 ^ w = g e % 2 ^ w) (h : HoldsElems w old r (Active vl p w) g) :
    BitVec.ofNat 2048 (mapElems w (2048 / w) old.toNat (activeAt vl p w) f) = r := by
  have hlanes : mapElems w (2048 / w) old.toNat (activeAt vl p w) f = packLanes w ((count 0 (2048 / w)).map (lane r.toNat w)) := by
    refine packLanes_congr fun e he => ?_
    obtain ⟨hkept, hold⟩ := h e (by have := Preemption.mem_count.1 he; omega)
    by_cases hactive : Active vl p w e
    · rw [if_pos (activeAt_iff.2 hactive), hkept hactive, hfg, Nat.mod_mod]
    · rw [if_neg (mt activeAt_iff.1 hactive), hold hactive]
  rw [hlanes, packLanes_lane, hw, Nat.mul_zero, Nat.pow_zero, Nat.div_one, Nat.mod_eq_of_lt r.isLt, BitVec.ofNat_toNat, BitVec.setWidth_eq]

theorem writeElems_ok {d : BitVec 5} {p : BitVec 256} {k : Tag} {f g : Nat → Nat} {old r : BitVec 2048} {lat : Nat} {s t : State}
    (hfg : ∀ e, f e % 2 ^ k.width = g e % 2 ^ k.width) (h : HoldsElems k.width old r (Active s.me.vl p k.width) g)
    (hw : writeVL d { val := r, tag := k } lat s = .ok ⟨⟩ t) : writeElems d p k.width f old k lat s = .ok ⟨⟩ t := by
  rw [writeElems, get_bind, eq_mapElems (width_mul k) hfg h, hw]

/-! ### Vector sources (R72, R268) -/

theorem readV_pc {r : BitVec 5} {x : VReg} {s t : State} (h : readV r s = .ok x t) : t.me.pc = s.me.pc := by
  have hw := rw_readV {} r s
  rw [h] at hw
  exact (congrArg Ctx.pc hw.me :)

theorem notPoison_ok {k : Tag} (s : State) (h : k ≠ .poison) : notPoison k s = .ok ⟨⟩ s := by
  rw [notPoison, if_neg h, pure_run]

theorem notPoison_traps {k : Tag} (s : State) (h : k = .poison) :
    notPoison k s = .error (.trap { cause := 0x10, val := s.me.pc.setWidth 64 }) s := by
  rw [notPoison, if_pos h]
  rfl

section
variable {ok : Tag → Bool} {a b : BitVec 5} {x y : VReg} {s s1 s2 : State}

theorem oneVector_ok (hx : readV a s = .ok x s1) (hp : x.tag ≠ .poison) (hok : ok x.tag = true) : oneVector ok a s = .ok x s1 := by
  rw [oneVector, bind_ok hx, bind_ok (notPoison_ok s1 hp), if_pos hok, pure_run]

theorem oneVector_poison (hx : readV a s = .ok x s1) (hp : x.tag = .poison) :
    oneVector ok a s = .error (.trap { cause := 0x10, val := s.me.pc.setWidth 64 }) s1 := by
  rw [oneVector, bind_ok hx, bind_error (notPoison_traps s1 hp), readV_pc hx]

theorem oneVector_format (hx : readV a s = .ok x s1) (hp : x.tag ≠ .poison) (hok : ok x.tag = false) :
    oneVector ok a s = .error (.trap { cause := 0x03, val := BitVec.ofNat 64 x.tag.code }) s1 := by
  rw [oneVector, bind_ok hx, bind_ok (notPoison_ok s1 hp), if_neg (by rw [hok]; decide)]
  rfl

theorem twoVectors_ok (hx : readV a s = .ok x s1) (hy : readV b s1 = .ok y s2) (hp : x.tag ≠ .poison) (ht : y.tag = x.tag)
    (hok : ok x.tag = true) : twoVectors ok a b s = .ok (x, y) s2 := by
  rw [twoVectors, bind_ok hx, bind_ok hy, bind_ok (notPoison_ok s2 hp), bind_ok (notPoison_ok s2 (ht ▸ hp)), if_pos ⟨ht.symm, hok⟩, pure_run]

theorem twoVectors_poison (hx : readV a s = .ok x s1) (hy : readV b s1 = .ok y s2) (hp : x.tag = .poison ∨ y.tag = .poison) :
    twoVectors ok a b s = .error (.trap { cause := 0x10, val := s.me.pc.setWidth 64 }) s2 := by
  rw [← readV_pc hx, ← readV_pc hy, twoVectors, bind_ok hx, bind_ok hy]
  by_cases hpx : x.tag = .poison
  · rw [bind_error (notPoison_traps s2 hpx)]
  · rw [bind_ok (notPoison_ok s2 hpx), bind_error (notPoison_traps s2 (hp.resolve_left hpx))]

theorem twoVectors_format (hx : readV a s = .ok x s1) (hy : readV b s1 = .ok y s2) (hpx : x.tag ≠ .poison) (hpy : y.tag ≠ .poison)
    (h : x.tag ≠ y.tag ∨ ok x.tag = false) :
    twoVectors ok a b s = .error (.trap { cause := 0x03, val := BitVec.ofNat 64 (x.tag.code + 16 * y.tag.code) }) s2 := by
  have hne : ¬ (x.tag = y.tag ∧ ok x.tag = true) := by
    rintro ⟨ht, hok⟩
    rw [hok] at h
    simp [ht] at h
  rw [twoVectors, bind_ok hx, bind_ok hy, bind_ok (notPoison_ok s2 hpx), bind_ok (notPoison_ok s2 hpy), if_neg hne]
  rfl

end

/-! ### Instructions on elements (R267) -/

theorem completesElem2 {mk : BitVec 3 → BitVec 5 → BitVec 5 → BitVec 5 → BitVec 3 → Instr} {ok : Tag → Bool} {F : ElemFn}
    {f : Tag → Nat → Nat → Nat} {lat : Tag → Nat} {mode : RoundMode}
    (hexec : ∀ p d a b sc s, exec (mk p d a b sc) s = instr sc (elemOp2 ok F lat mode p d a b) s)
    (hF : ∀ (t : Tag) (x y : Nat), x < 2 ^ t.width → F t mode x y 0 % 2 ^ t.width = f t x y % 2 ^ t.width) :
    CompletesElem2 mk ok f lat := by
  intro p d a b sc s s1 s2 s3 pr x y hpr hx hy
  obtain rfl := ShortForm.readP_state hpr
  have htraps {i : TrapInfo} (h : twoVectors ok a b s1 = .error (.trap i) s3) : Traps (mk p d a b sc) s1 i :=
    (hexec ..).trans (instr_trap ((bind_ok hpr).trans (bind_error h)))
  refine ⟨fun s4 t old r hp ht hok hold hr hw => ?_, fun hp => htraps (twoVectors_poison hx hy hp),
    fun hpx hpy h => htraps (twoVectors_format hx hy hpx hpy h)⟩
  exact (hexec ..).trans (instr_ok ((bind_ok hpr).trans ((bind_ok (twoVectors_ok hx hy hp ht hok)).trans ((bind_ok hold).trans
    (writeElems_ok (fun e => hF _ _ _ (lane_lt ..)) hr hw)))))

theorem completesElem1 {mk : BitVec 3 → BitVec 5 → BitVec 5 → BitVec 3 → Instr} {ok : Tag → Bool} {F : ElemFn} {f : Tag → Nat → Nat}
    {lat : Tag → Nat} {mode : RoundMode} (hexec : ∀ p d a sc s, exec (mk p d a sc) s = instr sc (elemOp1 ok F lat mode p d a) s)
    (hF : ∀ (t : Tag) (x : Nat), F t mode x 0 0 % 2 ^ t.width = f t x % 2 ^ t.width) : CompletesElem1 mk ok f lat := by
  intro p d a sc s s1 s2 pr x hpr hx
  obtain rfl := ShortForm.readP_state hpr
  have htraps {i : TrapInfo} (h : oneVector ok a s1 = .error (.trap i) s2) : Traps (mk p d a sc) s1 i :=
    (hexec ..).trans (instr_trap ((bind_ok hpr).trans (bind_error h)))
  refine ⟨fun s4 t old r hp hok hold hr hw => ?_, fun hp => htraps (oneVector_poison hx hp),
    fun hp hok => htraps (oneVector_format hx hp hok)⟩
  exact (hexec ..).trans (instr_ok ((bind_ok hpr).trans ((bind_ok (oneVector_ok hx hp hok)).trans ((bind_ok hold).trans
    (writeElems_ok (fun e => hF _ _) hr hw)))))

/-! ### What the functions give (R271) -/

/-- An operation on values: floating-point, or integer modulo 2 to the width. -/
theorem elemResult_wraps (m : BitVec 2) (ff : RoundMode → Fp → Fp → Fp) (fi : Int → Int → Int) (t : Tag) (x y c : Nat) :
    elemResult false (fun r x y _ => ff r x y) (fun x y _ => fi x y) t (.ofCode m.toNat) x y c = byClass m false ff fi t x y := by
  simp only [elemResult, byClass, wrap, Bool.false_eq_true, if_false]
  push_cast
  rfl

theorem shl_mod (w x y : Nat) : (if y < w then x * 2 ^ y % 2 ^ w else 0) % 2 ^ w = (x <<< y) % 2 ^ w := by
  rw [Nat.shiftLeft_eq]
  split
  · exact Nat.mod_mod _ _
  · next h => rw [Nat.zero_mod, Nat.mod_eq_zero_of_dvd (Dvd.dvd.mul_left (pow_dvd_pow 2 (not_lt.1 h)) x)]

theorem shr_eq {w x y : Nat} (hx : x < 2 ^ w) : (if y < w then x / 2 ^ y else 0) = x >>> y := by
  rw [Nat.shiftRight_eq_div_pow]
  split
  · rfl
  · next h => exact (Nat.div_eq_of_lt (hx.trans_le (Nat.pow_le_pow_right (by decide) (not_lt.1 h)))).symm

theorem signedOf_bounds (w x : Nat) : -((2 ^ w : Nat) : Int) ≤ signedOf w x ∧ signedOf w x < (2 ^ w : Nat) := by
  have hlt : x % 2 ^ w < 2 ^ w := Nat.mod_lt _ (Nat.two_pow_pos w)
  unfold signedOf
  split <;> omega

/-- A count of the width or more leaves copies of the sign. -/
theorem shiftSigned_eq (w x y : Nat) : shiftSigned w x y =
    if y < w then ((signedOf w x / 2 ^ y) % (2 ^ w : Int)).toNat else if signedOf w x < 0 then 2 ^ w - 1 else 0 := by
  obtain ⟨hlow, hhigh⟩ := signedOf_bounds w x
  have hpos : 0 < 2 ^ w := Nat.two_pow_pos w
  unfold shiftSigned wrap
  split
  · next hy =>
    rw [Nat.min_eq_left hy.le]
    push_cast
    rfl
  · next hy =>
    rw [Nat.min_eq_right (not_lt.1 hy)]
    generalize 2 ^ w = n at hlow hhigh hpos
    split
    · next hneg =>
      have hquot : signedOf w x / (n : Int) = -1 := 
        ((Int.ediv_emod_unique (r := signedOf w x + n) (by omega)).2 ⟨by omega, by omega, by omega⟩).1
      have hrem : (-1 : Int) % (n : Int) = n - 1 :=
        ((Int.ediv_emod_unique (q := -1) (by omega)).2 ⟨by omega, by omega, by omega⟩).2
      rw [hquot, hrem]
      omega
    · next hnonneg => rw [Int.ediv_eq_zero_of_lt (not_lt.1 hnonneg) hhigh, Int.zero_emod, Int.toNat_zero]

end Sys2Proof.Laws.VectorElement

namespace Sys2Proof
open Sys2Proof.Machine Sys2Proof.Laws Sys2Proof.Laws.VectorElement

/-- Settles O30: an element-wise instruction is its function of lanes, and its register is fixed by its lanes. -/
theorem vectorLogicMovesTags : Obligations.VectorLogicMovesTags := by
  unfold Obligations.VectorLogicMovesTags
  refine ⟨⟨?vmin, ?vmax, ?vminN, ?vmaxN, ?vabs, ?vneg, ?vand, ?vor, ?vxor, ?vshl, ?vshr, ?vsra⟩, ?vmov, ?vtag, ?vtagFormat, ?vtagPoison,
    ?vbcast, ?unlisted⟩
  case vmin | vmax =>
    exact completesElem2 (fun _ _ _ _ _ _ => rfl) fun t x y _ => congrArg (· % 2 ^ t.width) (elemResult_wraps 0 _ _ t x y 0)
  case vminN | vmaxN | vand | vor | vxor => exact completesElem2 (fun _ _ _ _ _ _ => rfl) fun _ _ _ _ => rfl
  case vabs =>
    refine completesElem1 (fun _ _ _ _ _ => rfl) fun t x => congrArg (· % 2 ^ t.width) ?_
    simp only [← Int.natCast_natAbs]
    exact elemResult_wraps 0 (fun _ x _ => x.abs) (fun x _ => x.natAbs) t x 0 0
  case vneg =>
    exact completesElem1 (fun _ _ _ _ _ => rfl) fun t x =>
      congrArg (· % 2 ^ t.width) (elemResult_wraps 0 (fun _ x _ => x.neg) (fun x _ => -x) t x 0 0)
  case vshl => exact completesElem2 (fun _ _ _ _ _ _ => rfl) fun t x y _ => shl_mod t.width x y
  case vshr => exact completesElem2 (fun _ _ _ _ _ _ => rfl) fun t x y hx => congrArg (· % 2 ^ t.width) (shr_eq hx)
  case vsra => exact completesElem2 (fun _ _ _ _ _ _ => rfl) fun t x y _ => congrArg (· % 2 ^ t.width) (shiftSigned_eq t.width x y)
  case vmov =>
    intro p d a sc s s1 s2 s3 t pr x old r hpr hx hold hr hw
    exact instr_ok ((bind_ok hpr).trans ((bind_ok hx).trans ((bind_ok hold).trans (writeElems_ok (fun _ => rfl) hr hw))))
  case vtag =>
    intro d a k sc s s1 t x hx hraw hw
    exact instr_ok ((bind_ok (oneVector_ok hx (by rw [hraw]; decide) (decide_eq_true hraw))).trans hw)
  case vtagFormat =>
    intro d a k sc s s1 x hx hraw hp
    exact instr_trap (bind_error (oneVector_format hx hp (decide_eq_false hraw)))
  case vtagPoison =>
    intro d a k sc s s1 x hx hp
    exact instr_trap (bind_error (oneVector_poison hx hp))
  case vbcast =>
    intro p d a k sc s s1 s2 s3 t pr x old r hpr hx hold hr hw
    exact instr_ok ((bind_ok hpr).trans ((bind_ok hx).trans ((bind_ok hold).trans (writeElems_ok (fun _ => Nat.mod_mod _ _) hr hw))))
  case unlisted => exact fun w r hw ho hm hf => Decoder.unlisted_refused hw ho hm hf r

end Sys2Proof
end

section
/-! PROOF. vld and vst, and the codewords of cluster memory (R174, R175, R178, R181, R199). -/
namespace Sys2Proof.Laws.VectorAccess
open Sys2Proof.Machine

/-! ### Free bits (R175) -/

theorem add_eq_or {a b : Nat} (h : a &&& b = 0) : a + b = a ||| b := by
  have hlt : a + b < 2 ^ (a + b) := Nat.lt_two_pow_self
  have ha : a % 2 ^ (a + b) = a := Nat.mod_eq_of_lt (by omega)
  have hb : b % 2 ^ (a + b) = b := Nat.mod_eq_of_lt (by omega)
  have hand : BitVec.ofNat (a + b) a &&& BitVec.ofNat (a + b) b = 0#(a + b) := by
    apply BitVec.eq_of_toNat_eq
    rw [BitVec.toNat_and, BitVec.toNat_ofNat, BitVec.toNat_ofNat, ha, hb, h, BitVec.toNat_ofNat, Nat.zero_mod]
  have hsum := congrArg BitVec.toNat (BitVec.add_eq_or_of_and_eq_zero _ _ hand)
  rwa [BitVec.toNat_add, BitVec.toNat_or, BitVec.toNat_ofNat, BitVec.toNat_ofNat, ha, hb, Nat.mod_eq_of_lt hlt] at hsum

/-- A number outside a mask. -/
theorem or_sub_mask (x m : Nat) : (x ||| m) - ((x ||| m) &&& m) = x ^^^ (x &&& m) := by
  have hdisjoint : (x ^^^ (x &&& m)) &&& m = 0 := by
    apply Nat.eq_of_testBit_eq
    intro i
    simp only [Nat.testBit_and, Nat.testBit_xor, Nat.zero_testBit]
    cases x.testBit i <;> cases m.testBit i <;> rfl
  have hjoin : (x ^^^ (x &&& m)) ||| m = x ||| m := by
    apply Nat.eq_of_testBit_eq
    intro i
    simp only [Nat.testBit_and, Nat.testBit_xor, Nat.testBit_or]
    cases x.testBit i <;> cases m.testBit i <;> rfl
  have habsorb : (x ||| m) &&& m = m := by
    apply Nat.eq_of_testBit_eq
    intro i
    simp only [Nat.testBit_and, Nat.testBit_or]
    cases x.testBit i <;> cases m.testBit i <;> rfl
  rw [habsorb, ← hjoin, ← add_eq_or hdisjoint, Nat.add_sub_cancel]

theorem blurred_testBit (x m f : Nat) {i : Nat} (h : m.testBit i = false) :
   ((x ||| m) - ((x ||| m) &&& m) + (f &&& m)).testBit i = x.testBit i := by
  have hdisjoint : (x ^^^ (x &&& m)) &&& (f &&& m) = 0 := by
    apply Nat.eq_of_testBit_eq
    intro i
    simp only [Nat.testBit_and, Nat.testBit_xor, Nat.zero_testBit]
    cases x.testBit i <;> cases m.testBit i <;> simp
  rw [or_sub_mask, add_eq_or hdisjoint]
  simp [Nat.testBit_or, Nat.testBit_and, Nat.testBit_xor, h]

theorem blur_zero (x : Nat) (s : State) : blur x 0 s = .ok x s := by rw [blur, if_pos rfl, pure_run]

theorem blur_free (x : Nat) {m : Nat} (s : State) (hm : m ≠ 0) : ∃ y, blur x m s = .ok y { s with freeCtr := s.freeCtr + 1 }
    ∧ ∀ i, m.testBit i = false → y.testBit i = x.testBit i := by
  refine ⟨(x ||| m) - ((x ||| m) &&& m) + ((Config.uncorrectable s.freeCtr).toNat &&& m), ?_, fun i hi => ?_⟩
  · rw [blur, if_neg hm]
    rfl
  · exact blurred_testBit x m _ hi

/-! ### Uncorrectable words (R174, R175) -/

theorem wordsOf_word {a : Nat} (h : a % 8 = 0) : wordsOf a 8 = [a] := by
  have hone : (a + 8 - 1) / 8 - a / 8 + 1 = 1 := by omega
  have ha : 8 * (a / 8) = a := by omega
  rw [wordsOf, if_neg (by decide), hone]
  simp only [count, List.map_cons, List.map_nil, ha]

theorem wholeWords_word {a : Nat} (h : a % 8 = 0) : wholeWords a 8 = [a] := by
  simp [wholeWords, wordsOf_word h]

theorem badMask_byte (s : State) (k a : Nat) {n i : Nat} (h : i < n) : s.badMask k a n / 256 ^ i % 256 =
    if s.guarded k (a + i) = false ∧ s.badLocal k (a + i) 1 = true then 255 else 0 := by
  induction n generalizing a i with
  | zero => omega
  | succ n ih =>
    cases i with
    | zero =>
      simp only [State.badMask, Bool.and_eq_true, Bool.not_eq_true', Nat.add_zero]
      split <;> omega
    | succ i =>
      have hlow : (if !s.guarded k a && s.badLocal k a 1 then 255 else 0) < 256 := by split <;> omega
      have hdiv : s.badMask k a (n + 1) / 256 = s.badMask k (a + 1) n := by
        rw [State.badMask]
        omega
      rw [Nat.pow_succ', ← Nat.div_div_eq_div_mul, hdiv, ih (a + 1) (by omega), show a + 1 + i = a + (i + 1) by omega]

theorem countRead_good {s : State} {k a n : Nat} (h : ∀ w ∈ wordsOf a n, s.wordBad k w = false) : s.countRead k a n = s := by
  have hnone : (wordsOf a n).filter (fun w => s.wordBad k w && !NatSet.mem s.guards (cellKey k w / 64)) = [] :=
    List.filter_eq_nil_iff.2 fun w hw => by simp [h w hw]
  rw [State.countRead, hnone, List.foldl_nil]

theorem countRead_bad {s : State} {k a : Nat} (ha : a % 8 = 0) (hb : s.wordBad k a = true) (hg : s.guarded k a = false) :
    s.countRead k a 8 = s.modCore (ownerCore k a) fun y => { y with uncorrectable := y.uncorrectable + 1 } := by
  have hg' : NatSet.mem s.guards (cellKey k a / 64) = false := hg
  simp only [State.countRead, wordsOf_word ha, List.filter_cons, hb, hg', Bool.not_false, Bool.and_self, if_true, List.filter_nil,
    List.foldl_cons, List.foldl_nil]
  rfl

/-- A word noted as restored where it would be uncorrectable is not. -/
theorem wordBad_restored (t : State) (k a : Nat) :
    { t with restored := ([a].filter (t.wordBad k)).map (wordPlace k) ++ t.restored }.wordBad k a = false := by
  cases h : t.wordBad k a with
  | false =>
    rw [List.filter_cons, h]
    exact h
  | true =>
    rw [List.filter_cons, h]
    simp [State.wordBad]

/-- A write of a whole word restores it: its own symbols are right, and where others leave it uncorrectable it is noted as restored. -/
theorem badLocal_heal (s : State) {k a : Nat} (ha : a % 8 = 0) : (s.heal k a 8).badLocal k a 8 = false := by
  unfold State.heal
  split
  · next hw => rw [State.badLocal, decide_eq_false (not_not_intro hw), Bool.false_and]
  · simp only [wholeWords_word ha, State.badLocal, wordsOf_word ha, List.any_cons, List.any_nil, Bool.or_false]
    rw [Bool.and_eq_false_iff]
    right
    exact wordBad_restored _ k a

theorem badLocal_noteWrite (s : State) (k a n j b m : Nat) : (s.noteWrite k a n).badLocal j b m = s.badLocal j b m := by
  unfold State.noteWrite
  split <;> rfl

theorem badLocal_cwrite (s : State) {k a : Nat} (x : Nat) (ha : a % 8 = 0) : (s.cwrite k a 8 x).badLocal k a 8 = false := by
  rw [State.cwrite, badLocal_noteWrite, badLocal_heal _ ha]

/-! ### Granules (R178) -/

theorem cellKey_add (k a m : Nat) : cellKey k (a + m) = cellKey k a + m := (Nat.add_assoc ..).symm

theorem guarded_granule (s : State) {k a i : Nat} (ha : a % 64 = 0) (hi : i < 64) : s.guarded k (a + i) = s.guarded k a := by
  have h : cellKey k (a + i) / 64 = cellKey k a / 64 := by
    simp only [cellKey, Config.clusterBytes]
    omega
  rw [State.guarded, State.guarded, h]

/-- Byte i of a number of m bytes with another above it. -/
theorem byte_join {m x i : Nat} (y : Nat) (hx : x < 256 ^ m) :
    (x + 2 ^ (8 * m) * y) / 256 ^ i % 256 = if i < m then x / 256 ^ i % 256 else y / 256 ^ (i - m) % 256 := by
  rw [Nat.pow_mul]
  split
  · next h =>
    obtain ⟨j, rfl⟩ := Nat.exists_eq_add_of_lt h
    have hsplit : (2 ^ 8) ^ (i + j + 1) * y = 256 ^ i * (256 * (256 ^ j * y)) := by ring
    rw [hsplit, Nat.add_mul_div_left _ _ (by positivity), Nat.add_mul_mod_self_left]
  · next h =>
    obtain ⟨j, rfl⟩ := Nat.exists_eq_add_of_le (not_lt.1 h)
    rw [Nat.pow_add, ← Nat.div_div_eq_div_mul, Nat.add_mul_div_left _ _ (by positivity), Nat.div_eq_of_lt hx, Nat.zero_add,
      Nat.add_sub_cancel_left]

theorem loadGranules_byte (s : State) (k a n f : Nat) (ha : a % 64 = 0) (hn : n ≤ 64 * f) (hg : ∀ i < n, s.guarded k (a + i) = false) :
    ∀ i < n, s.loadGranules k a n f / 256 ^ i % 256 = (Mem.read s.cmem (cellKey k a + i)).toNat := by
  induction f generalizing a n with
  | zero => omega
  | succ f ih =>
    intro i hi
    have hn0 : n ≠ 0 := by omega
    have hga : s.guarded k a = false := hg 0 (by omega)
    rw [State.loadGranules, if_neg hn0, hga, ha]
    simp only [Bool.false_eq_true, if_false, Nat.sub_zero]
    have hlt : s.cread k a (min n 64) < 256 ^ min n 64 := ClusterAccess.readN_lt ..
    rw [byte_join _ hlt]
    split
    · next h => exact ClusterAccess.byte_readN _ _ _ _ h
    · next h =>
      have h64 : min n 64 = 64 := by omega
      have hkey : cellKey k (a + 64) + (i - 64) = cellKey k a + i := by
        rw [cellKey_add]
        omega
      rw [h64, ih (a + 64) (n - 64) (by omega) (by omega) (fun j hj => by rw [Nat.add_assoc]; exact hg _ (by omega)) _ (by omega), hkey]

/-- A store into one granule: a guarded one keeps its bytes. -/
def storedGranule (s : State) (k a m x : Nat) : State := if s.guarded k a then s else s.cwrite k a m x

theorem storeGranules_succ (s : State) (k a x f : Nat) {n : Nat} (hn : n ≠ 0) : s.storeGranules k a n x (f + 1) =
    (storedGranule s k a (min n (64 - a % 64)) x).storeGranules k (a + min n (64 - a % 64)) (n - min n (64 - a % 64))
      (x / 2 ^ (8 * min n (64 - a % 64))) f := by
  rw [State.storeGranules, if_neg hn]
  rfl

section
variable (s : State) {k a m : Nat} (x : Nat)

theorem wf_storedGranule (h : Mem.wf s.cmem = true) : Mem.wf (storedGranule s k a m x).cmem = true := by
  unfold storedGranule
  split
  · exact h
  · exact wf_cwrite _ _ _ _ _ h

theorem guarded_storedGranule (b : Nat) : (storedGranule s k a m x).guarded k b = s.guarded k b := by
  unfold storedGranule
  split
  · rfl
  · rw [State.guarded, cwrite_guards, State.guarded]

theorem read_storedGranule_outside {b : Nat} (h : b < cellKey k a ∨ cellKey k a + m ≤ b) :
    Mem.read (storedGranule s k a m x).cmem b = Mem.read s.cmem b := by
  unfold storedGranule
  split
  · rfl
  · rw [cwrite_cmem, read_writeN_ne _ _ _ _ _ h]

theorem read_storedGranule {i : Nat} (ha : a % 64 = 0) (hm : m ≤ 64) (hi : i < m) (hwf : Mem.wf s.cmem = true) :
    Mem.read (storedGranule s k a m x).cmem (cellKey k a + i) =
      if s.guarded k (a + i) then Mem.read s.cmem (cellKey k a + i) else BitVec.ofNat 8 (x / 256 ^ i) := by
  rw [storedGranule, guarded_granule s ha (by omega)]
  split
  · rfl
  · apply BitVec.eq_of_toNat_eq
    rw [cwrite_cmem, ClusterAccess.read_writeN _ _ _ _ _ hwf hi, BitVec.toNat_ofNat]

end

theorem storeGranules_outside (s : State) (k a n x f : Nat) {b : Nat} (h : b < cellKey k a ∨ cellKey k a + n ≤ b) :
    Mem.read (s.storeGranules k a n x f).cmem b = Mem.read s.cmem b := by
  induction f generalizing s a n x with
  | zero => rfl
  | succ f ih =>
    by_cases hn : n = 0
    · rw [State.storeGranules, if_pos hn]
    · rw [storeGranules_succ _ _ _ _ _ hn, ih _ _ _ _ (by rw [cellKey_add]; omega), read_storedGranule_outside _ _ (by omega)]

theorem storeGranules_byte (s : State) (k a n x f : Nat) (ha : a % 64 = 0) (hn : n ≤ 64 * f) (hwf : Mem.wf s.cmem = true) :
    ∀ i < n, Mem.read (s.storeGranules k a n x f).cmem (cellKey k a + i) =
      if s.guarded k (a + i) then Mem.read s.cmem (cellKey k a + i) else BitVec.ofNat 8 (x / 256 ^ i) := by
  induction f generalizing s a n x with
  | zero => omega
  | succ f ih =>
    intro i hi
    rw [storeGranules_succ _ _ _ _ _ (by omega), ha, Nat.sub_zero]
    by_cases h : i < min n 64
    · rw [storeGranules_outside _ _ _ _ _ _ (by rw [cellKey_add]; omega), read_storedGranule _ _ ha (by omega) h hwf]
    · rw [show min n 64 = 64 by omega]
      have hrest := ih (storedGranule s k a 64 x) (a + 64) (n - 64) (x / 2 ^ (8 * 64)) (by omega) (by omega) (wf_storedGranule s x hwf)
        (i - 64) (by omega)
      have hi64 : 64 + (i - 64) = i := by omega
      have hbyte : x / 2 ^ (8 * 64) / 256 ^ (i - 64) = x / 256 ^ i := by
        rw [Nat.pow_mul, Nat.div_div_eq_div_mul, show (2 ^ 8 : Nat) = 256 from rfl, ← Nat.pow_add, hi64]
      rw [cellKey_add, Nat.add_assoc, Nat.add_assoc, hi64, guarded_storedGranule, read_storedGranule_outside _ _ (by omega), hbyte] at hrest
      exact hrest

/-! ### The destination and the guard record -/

theorem oldV_register {d : BitVec 5} (s : State) (h : d.toNat < 28) : oldV d s = .ok (s.me.vreg d.toNat).val s := by
  rw [oldV, get_bind, if_pos h, pure_run]

theorem oldV_link {d : BitVec 5} (s : State) (h : 28 ≤ d.toNat) : ∃ x, oldV d s = .ok x { s with freeCtr := s.freeCtr + 1 } := by
  refine ⟨Config.linkRest s.freeCtr, ?_⟩
  rw [oldV, get_bind, if_neg (by omega)]
  rfl

/-- The state once the first guarded granule, if there is one, is recorded in GUARDREC (R199). -/
def noted (store : Bool) (g : Option Nat) (s : State) : State :=
  match g with
  | some b => s.modCore s.cur.1 fun y => { y with guardrec := guardRecord y.guardrec store false s.cur.2 b s.me.pc.toNat }
  | none => s

theorem noteGuard_then {β : Type} (store : Bool) (g : Option Nat) (f : Unit → M β) (s : State) :
    (match g with
      | some b => noteGuard store b >>= f
      | none => f ⟨⟩) s = f ⟨⟩ (noted store g s) := by
  cases g <;> rfl

end Sys2Proof.Laws.VectorAccess

namespace Sys2Proof
open Sys2Proof.Machine Sys2Proof.Laws Sys2Proof.Laws.VectorAccess

/-- Settles O16: what vld and vst do step by step, and what each of these steps does to the bytes, the codewords and the counts. -/
theorem vectorClusterMemory : Obligations.VectorClusterMemory := by
  unfold Obligations.VectorClusterMemory
  refine ⟨?vld, fun d s => ⟨oldV_register s, oldV_link s⟩, blur_zero, fun x m s => blur_free x s, fun s k a n i => badMask_byte s k a,
    fun s k a n => countRead_good, fun s k a => countRead_bad, ?codes, fun s k a x => badLocal_cwrite s x, ?vst, ?vstPoison,
    ?loads, ?stores⟩
  case vld =>
    intro d a o sc s s1 s3 s4 t x addr old got i hx haddr k s2 bad hold hblur r own
    constructor
    · intro hown hw
      exact instr_ok (u := ⟨⟩) ((bind_ok hx).trans ((bind_ok haddr).trans ((noteGuard_then false _ _ s1).trans ((bind_ok hold).trans
        ((bind_ok (modify_run _ _)).trans ((bind_ok hblur).trans ((congrFun (if_pos hown) s4).trans hw)))))))
    · intro hother hw
      exact instr_ok (u := ⟨⟩) ((bind_ok hx).trans ((bind_ok haddr).trans ((noteGuard_then false _ _ s1).trans ((bind_ok hold).trans
        ((bind_ok (modify_run _ _)).trans ((bind_ok hblur).trans ((congrFun (if_neg hother) s4).trans (bind_ok hw))))))))
  case codes =>
    intro s c row lane
    unfold State.codeBad State.wrongIn
    generalize s.wrong.filter _ = l
    rcases l with _ | ⟨e, _ | ⟨e', l⟩⟩ <;> rfl
  case vst =>
    intro d a o sc s s1 s2 x addr v hx haddr hv hp s3
    exact instr_ok (u := ⟨⟩) ((bind_ok hx).trans ((bind_ok haddr).trans ((bind_ok hv).trans
      ((bind_ok (VectorElement.notPoison_ok s2 hp)).trans (noteGuard_then true _ _ s2)))))
  case vstPoison =>
    intro d a o sc s s1 s2 x addr v hx haddr hv hp
    exact instr_trap ((bind_ok hx).trans ((bind_ok haddr).trans ((bind_ok hv).trans (bind_error (VectorElement.notPoison_traps s2 hp)))))
  case loads => exact fun s k a n ha hn hg => loadGranules_byte s k a n 4 ha hn hg
  case stores =>
    exact fun s k a n x ha hn => ⟨fun hwf => storeGranules_byte s k a n x 4 ha hn hwf, fun b hb => storeGranules_outside s k a n x 4 hb⟩

end Sys2Proof
end

section
/-! PROOF. Scalar instructions: the shapes of their work (R55, R62, R84, R85) and the results of the integer operations (R87, R88). -/
namespace Sys2Proof.Laws.ScalarResult
open Sys2Proof.Machine

/-! ### The shapes -/

/-- An instruction of kind P whose predicate bit is 1 completes as its body does (R55). -/
theorem instr_predicatedOn {p sc : BitVec 3} {body : M Unit} {s s1 t : State} {u : Unit} (h : Enabled p s s1) (hb : body s1 = .ok u t) :
    instr sc (guardP p body) s = .next (t.goOn s.cur.1 s.cur.2 (s.me.pc + 4) sc.toNat) := by
  obtain ⟨v, hv, h1⟩ := h
  refine instr_ok (u := u) ?_
  rw [guardP_ok hv, h1]
  exact hb

/-- The statement may write the function of a form in its own way: it has to agree with the model's. -/
theorem completesRR {mk : BitVec 3 → BitVec 5 → BitVec 5 → BitVec 5 → BitVec 3 → Instr} {f g : Word → Word → Word} {lat : Nat}
    (hx : ∀ p d a b sc s, exec (mk p d a b sc) s = opRR g lat p d a b sc s) (hf : ∀ x y, g x y = f x y) : CompletesRR mk f lat := by
  intro p d a b sc s s1 s2 s3 t x y hp ha hb hw
  rw [← hf] at hw
  exact (hx p d a b sc s).trans (instr_predicatedOn hp ((bind_ok ha).trans ((bind_ok hb).trans hw)))

theorem completesR {mk : BitVec 3 → BitVec 5 → BitVec 5 → BitVec 3 → Instr} {f g : Word → Word}
    (hx : ∀ p d a sc s, exec (mk p d a sc) s = opR g p d a sc s) (hf : ∀ x, g x = f x) : CompletesR mk f := by
  intro p d a sc s s1 s2 t x hp ha hw
  rw [← hf] at hw
  exact (hx p d a sc s).trans (instr_predicatedOn hp ((bind_ok ha).trans hw))

theorem completesRI {n lat : Nat} {mk : BitVec 5 → BitVec 5 → BitVec n → BitVec 3 → Instr} {e : BitVec n → Word} {f : Word → Word → Word}
    (hx : ∀ d a i sc s, exec (mk d a i sc) s = opRI f lat d a (e i) sc s) : CompletesRI mk e f lat :=
  fun d a i sc s _ _ _ ha hw => (hx d a i sc s).trans (instr_ok ((bind_ok ha).trans hw))

theorem completesRX {mk : BitVec 5 → BitVec 5 → BitVec 5 → BitVec 5 → BitVec 3 → Instr} {f g : Word → Word → Word → Word}
    (hx : ∀ d a b c sc s, exec (mk d a b c sc) s = opRX g d a b c sc s) (hf : ∀ x y z, g x y z = f x y z) : CompletesRX mk f := by
  intro d a b c sc s s1 s2 s3 t x y z ha hb hc hw
  rw [← hf] at hw
  exact (hx d a b c sc s).trans (instr_ok ((bind_ok ha).trans ((bind_ok hb).trans ((bind_ok hc).trans hw))))

/-! ### Counts of bits (R87) -/

/-- The run of first places with a property, by whether the first has it. -/
theorem length_takeWhile_range_succ (p : Nat → Bool) (n : Nat) :
    ((List.range (n + 1)).takeWhile p).length = if p 0 then 1 + ((List.range n).takeWhile fun i => p (i + 1)).length else 0 := by
  rw [List.range_succ_eq_map, List.takeWhile_cons, List.takeWhile_map]
  split
  · rw [List.length_cons, List.length_map, Nat.add_comm]
    rfl
  · rfl

/-- The zeros from the top are the first places, counted down, without a one. -/
theorem leading_eq_takeWhile (x : Word) (n : Nat) :
    leading x n = ((List.range n).takeWhile fun i => !x.getLsbD (n - 1 - i)).length := by
  induction n with
  | zero => rfl
  | succ n ih =>
    have hnext : (fun i => !x.getLsbD (n + 1 - 1 - (i + 1))) = fun i => !x.getLsbD (n - 1 - i) :=
      funext fun i => by rw [show n + 1 - 1 - (i + 1) = n - 1 - i by omega]
    rw [length_takeWhile_range_succ, hnext, ← ih, leading]
    cases h : x.getLsbD n <;> simp [h]

/-- The zeros from bit 64 − n up are the first places, counted up, without a one. -/
theorem trailing_eq_takeWhile (x : Word) (n : Nat) (hn : n ≤ 64) :
    trailing x n = ((List.range n).takeWhile fun i => !x.getLsbD (64 - n + i)).length := by
  induction n with
  | zero => rfl
  | succ n ih =>
    have hnext : (fun i => !x.getLsbD (64 - (n + 1) + (i + 1))) = fun i => !x.getLsbD (64 - n + i) :=
      funext fun i => by rw [show 64 - (n + 1) + (i + 1) = 64 - n + i by omega]
    rw [length_takeWhile_range_succ, hnext, ← ih (by omega), trailing]
    cases h : x.getLsbD (63 - n) <;> simp [h]

theorem ones_eq_countP (x n : Nat) : ones x n = (List.range n).countP fun i => x.testBit i := by
  induction n generalizing x with
  | zero => rfl
  | succ n ih =>
    have hshift : ((fun i => x.testBit i) ∘ Nat.succ) = fun i => (x / 2).testBit i := by
      funext i
      rw [Function.comp_apply, Nat.testBit_succ]
    have hlow : (if x.testBit 0 then 1 else 0) = x % 2 := by
      rw [Nat.testBit_zero]
      split <;> simp_all
    rw [ones, ih, List.range_succ_eq_map, List.countP_cons, List.countP_map, hshift, hlow, Nat.add_comm]

/-! ### Rotation and division (R87, R88) -/

theorem rotR_eq_rotateRight (x y : Word) : rotR x y = x.rotateRight (y.toNat % 64) := by
  rw [BitVec.rotateRight_def, rotR, shiftBy, Nat.mod_mod]

/-- The corner −2^63 by −1 has the truncated quotient too, wrapped to a word. -/
theorem divS_quotient (x y : Word) : (divS x y).1 = if y = 0 then BitVec.allOnes 64 else BitVec.ofInt 64 (x.toInt.tdiv y.toInt) := by
  unfold divS
  split
  · rfl
  · split
    next h =>
      obtain ⟨rfl, rfl⟩ := h
      decide
    next => rfl

theorem divS_remainder (x y : Word) : (divS x y).2 = if y = 0 then x else BitVec.ofInt 64 (x.toInt.tmod y.toInt) := by
  unfold divS
  split
  · rfl
  · split
    next h =>
      obtain ⟨rfl, rfl⟩ := h
      decide
    next => rw [Int.tmod_def, Int.mul_comm]

theorem divU_remainder (x y : Word) : (divU x y).2 = if y = 0 then x else BitVec.ofNat 64 (x.toNat % y.toNat) := by
  unfold divU
  split
  · rfl
  · rw [Nat.mod_eq_sub_div_mul]
    rfl

theorem divU_quotient (x y : Word) : (divU x y).1 = if y = 0 then BitVec.allOnes 64 else BitVec.ofNat 64 (x.toNat / y.toNat) := by
  unfold divU
  split <;> rfl

end Sys2Proof.Laws.ScalarResult

namespace Sys2Proof
open Sys2Proof.Machine Sys2Proof.Laws.ScalarResult

/-- Integer and logical operations, by their operands. -/
theorem scalarResults : Claims.scalarResults := by
  refine ⟨⟨?_, ?_, ?_, ?_, ?_, ?_, ?_, ?_, ?_, ?_, ?_, ?_, ?_, ?_, ?_, ?_, ?rot, ?clz, ?ctz, ?popc⟩,
    ⟨?_, ?_, ?_, ?_, ?_, ?_, ?_, ?_, ?rotImm, ?_, ?_, ?_, ?_, ?_⟩⟩
  case rot => exact completesRR (fun _ _ _ _ _ _ => rfl) rotR_eq_rotateRight
  case clz => exact completesR (fun _ _ _ _ _ => rfl) fun x => congrArg w64 (leading_eq_takeWhile x 64)
  case ctz =>
    refine completesR (fun _ _ _ _ _ => rfl) fun x => (congrArg w64 (trailing_eq_takeWhile x 64 le_rfl)).trans ?_
    simp only [Nat.sub_self, Nat.zero_add, w64]
  case popc => exact completesR (fun _ _ _ _ _ => rfl) fun x => congrArg w64 (ones_eq_countP x.toNat 64)
  case rotImm =>
    refine completesRI fun d a i sc s => ?_
    rw [← funext₂ rotR_eq_rotateRight]
    rfl
  iterate 16 exact completesRR (fun _ _ _ _ _ _ => rfl) fun _ _ => rfl
  all_goals exact completesRI fun _ _ _ _ _ => rfl

/-- Division, by its four functions. -/
theorem divisionResults : Claims.division :=
  ⟨completesRR (fun _ _ _ _ _ _ => rfl) divS_quotient, completesRR (fun _ _ _ _ _ _ => rfl) divS_remainder,
    completesRR (fun _ _ _ _ _ _ => rfl) divU_quotient, completesRR (fun _ _ _ _ _ _ => rfl) divU_remainder⟩

/-- Settles O1: each form is its shape with the function of its table row. -/
theorem scalarOperationResults : Obligations.ScalarOperationResults := ⟨scalarResults, divisionResults⟩

end Sys2Proof
end

section
/-! PROOF. Comparisons, selection, upper immediates, the funnel shift and bit fields (R89 to R94). -/
namespace Sys2Proof.Laws.BitField
open Sys2Proof.Machine

/-! ### Conditions as results (R89) -/

theorem bool64_decide (p : Prop) [Decidable p] : bool64 (decide p) = if p then 1 else 0 := by
  simp only [bool64, decide_eq_true_eq]

theorem bool64_decide_not {p q : Prop} [Decidable p] [Decidable q] (h : q ↔ ¬ p) : bool64 (decide q) = if p then 0 else 1 := by
  simp only [bool64, decide_eq_true_eq, h, ite_not]

/-! ### Constants and the funnel shift (R91, R92) -/

theorem upper_immediate (i : BitVec 17) : BitVec.ofInt 64 (i.toInt * 4096 + 2048) = i.signExtend 64 * 4096 + 2048 := by
  rw [BitVec.ofInt_add, BitVec.ofInt_mul, BitVec.signExtend]
  rfl

/-- The joined 128 bits are the number x·2⁶⁴ + y. -/
theorem funnel_shift (x y : Word) (k : Nat) : w64 ((x.toNat * 2 ^ 64 + y.toNat) / 2 ^ k) = ((x ++ y) >>> k).setWidth 64 := by
  apply BitVec.eq_of_toNat_eq
  rw [BitVec.toNat_setWidth, BitVec.toNat_ushiftRight, BitVec.toNat_append, ← Nat.shiftLeft_add_eq_or_of_lt y.isLt, Nat.shiftLeft_eq,
    Nat.shiftRight_eq_div_pow, w64, BitVec.toNat_ofNat]

/-! ### Fields (R93, R94) -/

/-- A field is empty when its width is 0 or it starts from offset 64 on. -/
theorem field_empty_iff (y z : Word) : (min z.toNat 64 = 0 ∨ 64 ≤ y.toNat) ↔ (z = 0 ∨ 64 ≤ y.toNat) := by
  have hz : z = 0 ↔ z.toNat = 0 := BitVec.toNat_eq
  rw [hz, Nat.min_eq_zero_iff, or_iff_left (by decide : ¬ 64 = 0)]

theorem fieldOf_toNat (x : Word) (off w : Nat) :
    (fieldOf x off w).1.toNat = x.toNat / 2 ^ off % 2 ^ (min (off + w) 64 - off) := by
  have hle : x.toNat / 2 ^ off % 2 ^ (min (off + w) 64 - off) < 2 ^ 64 :=
    (Nat.mod_le _ _).trans_lt ((Nat.div_le_self _ _).trans_lt x.isLt)
  rw [fieldOf, w64, BitVec.toNat_ofNat, Nat.mod_eq_of_lt hle]

theorem extract_unsigned (x y z : Word) : extract false x y z =
    if z = 0 ∨ 64 ≤ y.toNat then 0 else BitVec.ofNat 64 (x.toNat / 2 ^ y.toNat % 2 ^ (min (y.toNat + min z.toNat 64) 64 - y.toNat)) := by
  simp only [extract, field_empty_iff, fieldOf, w64, Bool.false_eq_true, if_false]

/-- Sign extension of the low n bits is the residue around 0. -/
theorem signedOf_eq_bmod {n : Nat} (hn : 0 < n) (x : Nat) : signedOf n x = Int.bmod x (2 ^ n) := by
  obtain ⟨k, rfl⟩ : ∃ k, n = k + 1 := ⟨n - 1, by omega⟩
  rw [signedOf, Int.bmod, Nat.add_sub_cancel, pow_succ, ← Int.natCast_emod]
  generalize x % (2 ^ k * 2) = r
  generalize 2 ^ k = m
  simp only [show (((m * 2 : Nat) : Int) + 1) / 2 = m by omega, Int.ofNat_lt]

theorem signedOf_mod (n x : Nat) : signedOf n (x % 2 ^ n) = signedOf n x := by rw [signedOf, Nat.mod_mod, signedOf]

theorem extract_signed (x y z : Word) : extract true x y z =
    if z = 0 ∨ 64 ≤ y.toNat then 0
    else BitVec.ofInt 64 (Int.bmod (x.toNat / 2 ^ y.toNat) (2 ^ (min (y.toNat + min z.toNat 64) 64 - y.toNat))) := by
  simp only [extract, if_true, fieldOf_toNat]
  by_cases he : z = 0 ∨ 64 ≤ y.toNat
  · rw [if_pos he, if_pos ((field_empty_iff y z).2 he)]
  · have hw := mt (field_empty_iff y z).1 he
    rw [if_neg he, if_neg hw]
    have hn : 0 < min (y.toNat + min z.toNat 64) 64 - y.toNat := by omega
    rw [fieldOf, signedOf_mod, signedOf_eq_bmod hn, Int.natCast_ediv, Nat.cast_pow, Nat.cast_ofNat]

/-- A number whose bits off to off + n − 1 are replaced, bit by bit. -/
theorem testBit_replaced (u v n off i : Nat) (hv : v < 2 ^ n) :
    (u % 2 ^ off + v * 2 ^ off + u / 2 ^ (off + n) * 2 ^ (off + n)).testBit i =
      if i < off then u.testBit i else if i < off + n then v.testBit (i - off) else u.testBit i := by
  have hsum : u % 2 ^ off + v * 2 ^ off + u / 2 ^ (off + n) * 2 ^ (off + n) =
      2 ^ off * (2 ^ n * (u / 2 ^ (off + n)) + v) + u % 2 ^ off := by
    rw [pow_add]
    ring
  rw [hsum, Nat.testBit_two_pow_mul_add _ (Nat.mod_lt _ (by positivity)), Nat.testBit_two_pow_mul_add _ hv, Nat.testBit_mod_two_pow]
  by_cases h : i < off
  · simp [h]
  · by_cases h' : i < off + n
    · simp [h, h', show i - off < n by omega]
    · simp [h, h', show ¬ i - off < n by omega, Nat.testBit_div_two_pow, show i - off - n + (off + n) = i by omega]

theorem insert_field (u x y z : Word) (hz : z ≠ 0) (hy : y.toNat < 64) :
    Machine.insert u x y z = BitVec.ofNat 64
      (u.toNat % 2 ^ y.toNat + x.toNat % 2 ^ (min (y.toNat + min z.toNat 64) 64 - y.toNat) * 2 ^ y.toNat
        + u.toNat / 2 ^ min (y.toNat + min z.toNat 64) 64 * 2 ^ min (y.toNat + min z.toNat 64) 64) := by
  have he : ¬ (min z.toNat 64 = 0 ∨ 64 ≤ y.toNat) := mt (field_empty_iff y z).1 (not_or.2 ⟨hz, by omega⟩)
  obtain ⟨n, hn⟩ : ∃ n, min (y.toNat + min z.toNat 64) 64 = y.toNat + n := ⟨min (y.toNat + min z.toNat 64) 64 - y.toNat, by omega⟩
  simp only [Machine.insert, if_neg he, hn, Nat.add_sub_cancel_left]
  apply BitVec.eq_of_getLsbD_eq
  intro i hi
  simp only [w64, BitVec.getLsbD_or, BitVec.getLsbD_and, BitVec.getLsbD_not, BitVec.getLsbD_ofNat, hi, decide_true, Bool.true_and,
    testBit_replaced _ _ _ _ _ (Nat.mod_lt x.toNat (Nat.two_pow_pos n)), Nat.testBit_mul_two_pow, Nat.testBit_mod_two_pow]
  by_cases h : i < y.toNat
  · simp [h, show ¬ y.toNat ≤ i by omega, BitVec.getLsbD]
  · by_cases h' : i < y.toNat + n
    · simp [h, h', show y.toNat ≤ i by omega, show i - y.toNat < n by omega]
    · simp [h, h', show ¬ i - y.toNat < n by omega, BitVec.getLsbD]

/-- A field inside the word that an instruction names by constants. -/
theorem extract_constant (x : Word) (w o : BitVec 6) (h : o.toNat + w.toNat ≤ 64) :
    extract false x (o.setWidth 64) (w.setWidth 64) = BitVec.ofNat 64 (x.toNat / 2 ^ o.toNat % 2 ^ w.toNat) := by
  have ho : (o.setWidth 64).toNat = o.toNat := BitVec.toNat_setWidth_of_le (by decide)
  have hw : (w.setWidth 64).toNat = w.toNat := BitVec.toNat_setWidth_of_le (by decide)
  rw [extract_unsigned, ho, hw]
  by_cases h0 : w.setWidth 64 = 0
  · have hw0 : w.toNat = 0 := by rw [← hw, h0]; rfl
    rw [if_pos (.inl h0), hw0, pow_zero, Nat.mod_one]
    rfl
  · rw [if_neg (by simp only [h0, false_or]; omega), show min (o.toNat + min w.toNat 64) 64 - o.toNat = w.toNat by omega]

end Sys2Proof.Laws.BitField

namespace Sys2Proof
open Sys2Proof.Machine Sys2Proof.Laws Sys2Proof.Laws.ScalarResult Sys2Proof.Laws.BitField

/-- Comparisons by their conditions; sel and lui by their work. -/
theorem compareSelect : Claims.compareSelect := by
  refine ⟨⟨?eq, ?ne, ?lt, ?ge, ?ltu, ?geu, ?any, ?none⟩, ?sel, ?lui, ?unlisted⟩
  case eq | lt | ltu | none => exact completesRR (fun _ _ _ _ _ _ => rfl) fun _ _ => bool64_decide _
  case ne | any => exact completesRR (fun _ _ _ _ _ _ => rfl) fun _ _ => bool64_decide_not Iff.rfl
  case ge | geu => exact completesRR (fun _ _ _ _ _ _ => rfl) fun _ _ => bool64_decide_not (not_lt.symm)
  case sel => exact fun d a b k sc s s1 s2 s3 t x y v ha hb hk hw => instr_ok ((bind_ok ha).trans ((bind_ok hb).trans ((bind_ok hk).trans hw)))
  case lui =>
    intro d i sc s t hw
    rw [← upper_immediate] at hw
    exact instr_ok hw
  case unlisted => exact fun w r hw ho hm hf => Decoder.unlisted_refused hw ho hm hf r

/-- Fields by the bits that they take. -/
theorem bitFields : Claims.bitFields := by
  refine ⟨completesRX (fun _ _ _ _ _ _ => rfl) fun x y z => funnel_shift x y _, completesRX (fun _ _ _ _ _ _ => rfl) extract_unsigned,
    completesRX (fun _ _ _ _ _ _ => rfl) extract_signed, ?bfi, ?bfiEmpty, ?bfxImm⟩
  case bfi =>
    intro d a b c sc s s1 s2 s3 s4 t x y z u ha hb hc hd hz hy hw
    have he : ¬ (min z.toNat 64 = 0 ∨ 64 ≤ y.toNat) := mt (field_empty_iff y z).1 (not_or.2 ⟨hz, by omega⟩)
    refine instr_ok (u := ⟨⟩) ?_
    rw [bind_ok ha, bind_ok hb, bind_ok hc, bind_ok hd, if_neg he, insert_field u x y z hz hy, hw]
  case bfiEmpty =>
    intro d a b c sc s s1 s2 s3 t x y z u ha hb hc hd he
    refine instr_ok (u := ⟨⟩) ?_
    rw [bind_ok ha, bind_ok hb, bind_ok hc, bind_ok hd, if_pos ((field_empty_iff y z).2 he), pure_run]
  case bfxImm =>
    intro d a w o sc s s1 t x ha hf hw
    rw [← extract_constant x w o hf] at hw
    exact instr_ok ((bind_ok ha).trans hw)

/-- Settles O2: results by the conditions and by the bits of a field. -/
theorem comparisonsSelectionFields : Obligations.ComparisonsSelectionFields := ⟨compareSelect, bitFields⟩

end Sys2Proof
end

section
/-! PROOF. Tree-address instructions (R86, R95, R96). -/
namespace Sys2Proof.Laws.TreeAddress
open Sys2Proof.Machine

/-- The block that contains a block, some levels up; the root contains every block. -/
theorem taupOf_eq (x y : Word) : taupOf x y =
    let k := (canon x).2.1 - y.toNat
    BitVec.ofNat 64 (makeTA (canon x).1 k (blockRow (canon x).2.2 k) (blockCol (canon x).2.2 k)) := by
  have hk : (canon x).2.1 - min y.toNat (canon x).2.1 = (canon x).2.1 - y.toNat := by omega
  simp only [taupOf, hk, w64]

/-- An element is its own lowest block. -/
theorem tadownOf_element {x y : Word} (h : (canon x).2.1 = 24) :
    tadownOf x y = BitVec.ofNat 64 (makeTA (canon x).1 24 (rowOf (canon x).2.2) (colOf (canon x).2.2)) := by
  simp only [tadownOf, h, if_true, w64]

theorem toNat_getLsbD (y : Word) (i : Nat) : (y.getLsbD i).toNat = y.toNat / 2 ^ i % 2 := by
  rw [BitVec.getLsbD, Nat.toNat_testBit]

/-- Bit 1 of the quadrant is added to the row, bit 0 to the column. -/
theorem tadownOf_block {x y : Word} (h : (canon x).2.1 < 24) : tadownOf x y = BitVec.ofNat 64 (makeTA (canon x).1 ((canon x).2.1 + 1)
    (blockRow (canon x).2.2 (canon x).2.1 * 2 + y.toNat / 2 % 2) (blockCol (canon x).2.2 (canon x).2.1 * 2 + y.toNat % 2)) := by
  simp only [tadownOf, if_neg (Nat.ne_of_lt h), toNat_getLsbD, pow_one, pow_zero, Nat.div_one, w64]

/-! ### Neighbours (R96) -/

/-- The carry is set unless the stepped block lies in the square. -/
theorem carry_eq (m nr nc : Int) : (if nr < 0 ∨ m ≤ nr ∨ nc < 0 ∨ m ≤ nc then 1 else 0) * 2 ^ 48 =
    if 0 ≤ nr ∧ nr < m ∧ 0 ≤ nc ∧ nc < m then 0 else 2 ^ 48 := by
  split
  · rw [if_neg (by omega), one_mul]
  · rw [if_pos (by omega), zero_mul]

/-- Directions 0 and 2 step along the rows, 1 and 3 along the columns. -/
theorem tanbOf_eq (x y : Word) : tanbOf x y =
    let dep := (canon x).2.1
    let nr : Int := (blockRow (canon x).2.2 dep : Int) + (if y.toNat % 4 = 0 then -1 else if y.toNat % 4 = 2 then 1 else 0)
    let nc : Int := (blockCol (canon x).2.2 dep : Int) + (if y.toNat % 4 = 1 then 1 else if y.toNat % 4 = 3 then -1 else 0)
    BitVec.ofNat 64 (makeTA (canon x).1 dep (nr % 2 ^ dep).toNat (nc % 2 ^ dep).toNat
      + (if 0 ≤ nr ∧ nr < 2 ^ dep ∧ 0 ≤ nc ∧ nc < 2 ^ dep then 0 else 2 ^ 48)) := by
  obtain h | h | h | h : y.toNat % 4 = 0 ∨ y.toNat % 4 = 1 ∨ y.toNat % 4 = 2 ∨ y.toNat % 4 = 3 := by omega
  all_goals simp only [tanbOf, ← carry_eq, w64, h, Int.sub_eq_add_neg, Int.add_zero, if_true, if_false, Nat.reduceEqDiff, one_ne_zero]

end Sys2Proof.Laws.TreeAddress

namespace Sys2Proof
open Sys2Proof.Machine Sys2Proof.Laws.ScalarResult Sys2Proof.Laws.TreeAddress

/-- Settles O3: each form is its shape with its pseudocode. -/
theorem treeAddressArithmetic : Obligations.TreeAddressArithmetic := by
  unfold Obligations.TreeAddressArithmetic
  refine ⟨?_, ?tax, ?tadepth, ?taup, ?taupImm, ?_, ?_, ?_, fun _ _ => tadownOf_element, fun _ _ => tadownOf_block, tanbOf_eq⟩
  case tax | tadepth => exact completesR (fun _ _ _ _ _ => rfl) fun _ => rfl
  case taup => exact completesRR (fun _ _ _ _ _ _ => rfl) taupOf_eq
  case taupImm =>
    refine completesRI fun d a i sc s => ?_
    rw [← funext₂ taupOf_eq]
    rfl
  · exact completesRR (fun _ _ _ _ _ _ => rfl) fun _ _ => rfl
  · exact completesRR (fun _ _ _ _ _ _ => rfl) fun _ _ => rfl
  · exact completesRI fun _ _ _ _ _ => rfl
  · exact completesRR (fun _ _ _ _ _ _ => rfl) fun _ _ => rfl

end Sys2Proof
end

section
/-! PROOF. The end check and where a context goes on (R41, R61, R107). -/
namespace Sys2Proof.Laws.EndCheck
open Sys2Proof.Machine

/-! ### The levels (R107) -/

/-- One level of the end check on the counts and the next address alone; the bounds of the loops stay as they are. -/
def levelStep (le ls : Map (BitVec 22)) (q : Map Word × BitVec 22) (k : Nat) : Map Word × BitVec 22 :=
  if Map.getD q.1 k 0 ≠ 0 ∧ q.2 = Map.getD le k 0 then
    (Map.set q.1 k (Map.getD q.1 k 0 - 1), if Map.getD q.1 k 0 - 1 ≠ 0 then Map.getD ls k 0 else q.2)
  else q

/-- A level writes LC only, so that the levels chain on what they change. -/
theorem endLevel_eq (x : Ctx) (q : Map Word × BitVec 22) (k : Nat) :
    endLevel k ({ x with lc := q.1 }, q.2) = ({ x with lc := (levelStep x.le x.ls q k).1 }, (levelStep x.le x.ls q k).2) := by
  simp only [endLevel, levelStep]
  split <;> rfl

theorem endCheck_eq (x : Ctx) (next : BitVec 22) : endCheck x next =
    { x with lc := ([2, 1, 0].foldl (levelStep x.le x.ls) (x.lc, next)).1, pc := ([2, 1, 0].foldl (levelStep x.le x.ls) (x.lc, next)).2 } := by
  have h2 := endLevel_eq x (x.lc, next) 2
  have h1 := endLevel_eq x (levelStep x.le x.ls (x.lc, next) 2) 1
  have h0 := endLevel_eq x (levelStep x.le x.ls (levelStep x.le x.ls (x.lc, next) 2) 1) 0
  change endLevel 2 (x, next) = _ at h2
  rw [endCheck, h2, h1, h0]
  rfl

/-- Where the end check leads depends on the loop registers only. -/
theorem endCheck_pc_congr {x y : Ctx} (next : BitVec 22) (hc : y.lc = x.lc) (hs : y.ls = x.ls) (he : y.le = x.le) :
    (endCheck y next).pc = (endCheck x next).pc := by
  rw [endCheck_eq, endCheck_eq, hc, hs, he]

/-! ### Going on -/

/-- The bank of a context that goes on, before its end check. -/
def goingOn (x : Ctx) (issue : Nat) : Ctx :=
  { x with st := .ready, wait := .none, op := .none, nextIssue := issue, rtcCount := x.rtcCount + 1, alignUntil := none }

section
variable (s : State) (c l : Nat) (k : Nat)

/-- The core of a context that goes on. -/
theorem goOn_core (next : BitVec 22) :
    let x := endCheck (goingOn (s.ctx c l) ((s.core c).cycle + k + 1)) next
    (s.goOn c l next k).core c =
      if x.pc = next then (s.core c).setBank l x else ((s.core c).setBank l x).transfer x.pc := core_setCore _ _ _

theorem goOn_ctx (next : BitVec 22) :
    (s.goOn c l next k).ctx c l = endCheck (goingOn (s.ctx c l) ((s.core c).cycle + k + 1)) next := by
  rw [State.ctx, goOn_core]
  split
  · exact bank_setBank _ _ _
  · exact (bank_transfer _ _ _).trans (bank_setBank _ _ _)

theorem jumpTo_ctx (target : BitVec 22) : (s.jumpTo c l target k).ctx c l =
    { s.ctx c l with st := .ready, wait := .none, op := .none, pc := target
                     nextIssue := max (s.ctx c l).nextIssue ((s.core c).cycle + k + 1), rtcCount := (s.ctx c l).rtcCount + 1 } := by
  simp [State.jumpTo, State.ctx]

/-! ### The instruction buffer (R41) -/

/-- A transfer keeps the buffer when it holds the target. -/
theorem transfer_ibuf (b : Core) (pc : BitVec 22) : (b.transfer pc).ibuf = if b.buffered pc = true then b.ibuf else none := by
  unfold Core.transfer
  split <;> rfl

/-- Going on keeps the buffer unless a level sends the context to an address outside it. -/
theorem goOn_ibuf (next : BitVec 22) : ((s.goOn c l next k).core c).ibuf =
    if (endCheck (s.ctx c l) next).pc = next ∨ (s.core c).buffered (endCheck (s.ctx c l) next).pc = true then (s.core c).ibuf else none := by
  have hpc : (endCheck (goingOn (s.ctx c l) ((s.core c).cycle + k + 1)) next).pc = (endCheck (s.ctx c l) next).pc :=
    endCheck_pc_congr next rfl rfl rfl
  rw [goOn_core, hpc]
  by_cases h : (endCheck (s.ctx c l) next).pc = next
  · rw [if_pos h, if_pos (.inl h)]
    rfl
  · rw [if_neg h, transfer_ibuf]
    simp only [h, false_or]
    rfl

end

theorem buffered_iff {k : Core} {base : Nat} {bytes : List Byte} {bad : List Nat} (pc : BitVec 22) (h : k.ibuf = some (base, bytes, bad)) :
    k.buffered pc = true ↔ base ≤ pc.toNat ∧ pc.toNat < base + 64 := by
  simp [Core.buffered, h]

end Sys2Proof.Laws.EndCheck

namespace Sys2Proof
open Sys2Proof.Machine Sys2Proof.Laws.EndCheck

/-- Settles O6: the levels chain on LC and the next address; the rest is where the context goes on. -/
theorem endCheckAfterEachInstruction : Obligations.EndCheckAfterEachInstruction := by
  unfold Obligations.EndCheckAfterEachInstruction
  refine ⟨fun x next => endCheck_eq x next, fun s c l next k => goOn_ctx s c l k next, fun s c l target k => jumpTo_ctx s c l k target, ?buffer,
    fun k pc base bytes bad => buffered_iff pc⟩
  case buffer =>
    intro s c l next k pc b
    have hb : b = if pc = next ∨ (s.core c).buffered pc = true then (s.core c).ibuf else none := goOn_ibuf s c l k next
    exact ⟨fun h1 h2 => by rw [hb, if_neg (by simp [h1, h2])], fun h => by rw [hb, if_pos h]⟩

end Sys2Proof
end

section
/-! PROOF. Branches, calls and returns, with the checks of their targets (R51, R102, R103). -/
namespace Sys2Proof.Laws.Branch
open Sys2Proof.Machine Sys2Proof.Laws.PipeControl

/-! ### How a transfer ends -/

section
variable {sc : BitVec 3} {m : M Flow} {s t : State} {target : BitVec 22}

/-- A taken transfer goes on at its target. -/
theorem instrJ_goto (h : m s = .ok (.goto target) t) : instrJ sc m s = .next (t.jumpTo s.cur.1 s.cur.2 target sc.toNat) := instrJ_ok h

theorem instr16J_goto (h : m s = .ok (.goto target) t) : instr16J m s = .next (t.jumpTo s.cur.1 s.cur.2 target 0) := instr16J_ok h

/-- A branch that is not taken goes on behind itself. -/
theorem instrJ_seq (h : m s = .ok .seq t) : instrJ sc m s = .next (t.goOn s.cur.1 s.cur.2 (s.me.pc + 4) sc.toNat) := instrJ_ok h

theorem instr16J_trap {i : TrapInfo} (h : m s = .error (.trap i) t) : instr16J m s = .next (s.afterTrap i) := by
  simp only [instr16J, h, settle]

end

/-! ### Targets in registers (R51) -/

section
variable {x : Word} {s : State}

theorem regTarget_legal (h : LegalTarget x.toNat) : regTarget x s = .ok (.goto (BitVec.ofNat 22 x.toNat)) s := by
  rw [regTarget, bind_ok (checkTarget_legal h), BitVec.ofInt_natCast]
  rfl

theorem regTarget_outside (h : 0x3FFFFE < x.toNat) : regTarget x s = .error (.trap { cause := cLOCAL_RANGE, val := x }) s := by
  rw [regTarget, bind_error (checkTarget_outside (.inr (by omega))), ofInt_toNat]

theorem regTarget_odd (h : x.toNat ≤ 0x3FFFFE) (ho : x.toNat % 2 = 1) : regTarget x s = .error (.trap { cause := cALIGN, val := x }) s := by
  rw [regTarget, bind_error (checkTarget_odd (by omega) (by omega)), ofInt_toNat]

end

/-! ### Returns (R103) -/

section
variable {a : BitVec 5} {s t : State} {x : Word} {sc : Nat}

theorem retTo_target (ha : readS a s = .ok x t) (h0 : x ≠ 0) : retTo a sc s = regTarget x t := by
  rw [retTo, bind_ok ha, if_neg h0]

/-- Target 0 ends the routine without the checks of a target. -/
theorem retTo_end (ha : readS a s = .ok 0 t) : retTo a sc s = endHere sc t := by
  rw [retTo, bind_ok ha, if_pos rfl]

end

/-! ### Conditional branches (R102) -/

/-- What a branch on a condition does, once the statement's condition is the model's. -/
theorem completesBranch {mk : BitVec 5 → BitVec 5 → BitVec 9 → BitVec 3 → Instr} {k : CondCode} {c : Word → Word → Prop}
    (hx : ∀ a b o sc s, exec (mk a b o sc) s = branchIf k a b o sc s) (hc : ∀ x y, cond k x y = true ↔ c x y) : CompletesBranch mk c := by
  intro a b o sc s s1 t x y ha hb
  refine ⟨fun hn => (hx a b o sc s).trans (instrJ_seq ?_), fun hy hl => (hx a b o sc s).trans (instrJ_goto ?_),
    fun hy hl => (hx a b o sc s).trans (instrJ_trap (t := t) ?_)⟩
  · rw [bind_ok ha, bind_ok hb, if_neg (mt (hc x y).1 hn), pure_run]
  · rw [bind_ok ha, bind_ok hb, if_pos ((hc x y).2 hy), relTarget, bind_ok (checkTarget_legal hl), pure_run]
  · rw [bind_ok ha, bind_ok hb, if_pos ((hc x y).2 hy), relTarget, bind_error (checkTarget_outside hl), cLOCAL_RANGE]

end Sys2Proof.Laws.Branch

namespace Sys2Proof
open Sys2Proof.Machine Sys2Proof.Laws Sys2Proof.Laws.PipeControl Sys2Proof.Laws.Branch

/-- Settles O10: each instruction by the check of its target and the order of its reads and writes. -/
theorem branchesAndCalls : Obligations.BranchesAndCalls := by
  unfold Obligations.BranchesAndCalls
  refine ⟨?bra, ?call, ?eq, ?ne, ?lt, ?ge, ?ltu, ?geu, ?any, ?none, ?callr, ?ret, ?ret16, ?retEnd, ?ret16End, ?relative, ?callrTarget,
    ?callrWrite, ?retTarget⟩
  case bra =>
    intro o sc s hl
    exact instrJ_goto (bind_ok (checkTarget_legal hl))
  case call =>
    intro o sc s t hl hw
    exact instrJ_goto ((bind_ok (checkTarget_legal hl)).trans (bind_ok hw))
  case eq | ne | lt | ge | ltu | geu | any | none => exact completesBranch (fun _ _ _ _ _ => rfl) fun _ _ => decide_eq_true_iff
  case callr =>
    intro d a sc s s1 t x ha hl hw
    exact instrJ_goto ((bind_ok ha).trans ((bind_ok hw).trans (regTarget_legal hl)))
  case ret => exact fun a sc s t x ha h0 hl => instrJ_goto ((retTo_target ha h0).trans (regTarget_legal hl))
  case ret16 => exact fun a s t x ha h0 hl => instr16J_goto ((retTo_target ha h0).trans (regTarget_legal hl))
  case retEnd => exact fun a sc s t ha hend => instrJ_stays ((retTo_end ha).trans (endHere_ends _ hend))
  case ret16End => exact fun a s t ha hend => instr16J_ok ((retTo_end ha).trans (endHere_ends _ hend))
  case relative =>
    intro o sc s y hy
    exact ⟨instrJ_trap (bind_error (checkTarget_outside hy)), instrJ_trap (bind_error (checkTarget_outside hy))⟩
  case callrTarget =>
    intro d a sc s s1 t x ha hw
    exact ⟨fun h => instrJ_trap ((bind_ok ha).trans ((bind_ok hw).trans (regTarget_outside h))),
      fun h ho => instrJ_trap ((bind_ok ha).trans ((bind_ok hw).trans (regTarget_odd h ho)))⟩
  case callrWrite => exact fun d a sc s s1 u x f ha hw => instrJ_trap ((bind_ok ha).trans (bind_error hw))
  case retTarget =>
    intro a sc s t x ha h0
    have htarget : ∀ n, retTo a n s = regTarget x t := fun n => retTo_target ha h0
    exact ⟨fun h => ⟨instrJ_trap ((htarget _).trans (regTarget_outside h)), instr16J_trap ((htarget _).trans (regTarget_outside h))⟩,
      fun h ho => ⟨instrJ_trap ((htarget _).trans (regTarget_odd h ho)), instr16J_trap ((htarget _).trans (regTarget_odd h ho))⟩⟩

end Sys2Proof
end

section
/-! PROOF. Bit streams (R97 to R99). -/
namespace Sys2Proof.Laws.BitStream
open Sys2Proof.Machine

/-! ### Refills (R98) -/

theorem tryCatch_ok {α : Type} {m : M α} {f : Exc → M α} {s t : State} {a : α} (h : m s = .ok a t) : (tryCatch m f : M α) s = .ok a t := by
  simp only [tryCatch, tryCatchThe, MonadExceptOf.tryCatch, EStateM.tryCatch, h]

section
variable {s0 : State} {n : Nat} {s : State}

/-- A refill with room for a byte appends the next byte of the stream and goes on. -/
theorem refill_byte {a v : Nat} {u : State} (hp : s.me.bbpos ≤ 120) (he : s.me.bbptr.toNat < s.me.bbend.toNat)
    (ha : checkLocal (s.me.bbptr.setWidth 64) 1 1 false s = .ok a s) (hv : scalarLoad a 1 s = .ok v u) :
    refill s0 (n + 1) s = refill s0 n (u.modCtx u.cur.1 u.cur.2 fun y => y.append v) := by
  rw [refill, get_bind, if_pos ⟨hp, he⟩, bind_ok (tryCatch_ok ((bind_ok ha).trans hv)), bind_ok (modMe_run _ _)]

/-- A refill is over when no byte fits or the stream has ended. -/
theorem refill_over (h : 120 < s.me.bbpos ∨ s.me.bbend.toNat ≤ s.me.bbptr.toNat) : refill s0 n s = .ok ⟨⟩ s := by
  cases n with
  | zero => rfl
  | succ n => rw [refill, get_bind, if_neg (by omega), pure_run]

end

/-! ### bbpeek and bbtake (R99) -/

/-- What is left of the buffer after bbpeek or bbtake. -/
def afterPeek (take : Bool) (n : Nat) (s : State) : State := if take then s.modCtx s.cur.1 s.cur.2 fun z => z.consume n else s

section
variable {take : Bool} {d a : BitVec 5} {s s1 s2 t : State} {x : Word}

/-- With enough valid bits nothing is refilled. -/
theorem peek_valid (ha : readS a s = .ok x s1) (hn : min x.toNat 64 ≤ s1.me.bbpos)
    (hw : writeS d (BitVec.ofNat 64 (s1.me.bits % 2 ^ min x.toNat 64)) (afterPeek take (min x.toNat 64) s1) = .ok ⟨⟩ t) :
    peek take d a s s = .ok ⟨⟩ t := by
  rw [peek, bind_ok ha, get_bind, if_neg (by omega)]
  beta_reduce
  rw [get_bind, Nat.min_eq_left hn]
  cases take <;> exact hw

/-- With too few valid bits the buffer is refilled first, and what is still missing reads as 0. -/
theorem peek_refilled (ha : readS a s = .ok x s1) (hn : s1.me.bbpos < min x.toNat 64) (hr : refill s 17 s1 = .ok ⟨⟩ s2)
    (hw : writeS d (BitVec.ofNat 64 (s2.me.bits % 2 ^ min (min x.toNat 64) s2.me.bbpos)) (afterPeek take (min x.toNat 64) s2) = .ok ⟨⟩ t) :
    peek take d a s s = .ok ⟨⟩ t := by
  rw [peek, bind_ok ha, get_bind, if_pos hn, bind_ok hr]
  beta_reduce
  rw [get_bind]
  cases take <;> exact hw

end

end Sys2Proof.Laws.BitStream

namespace Sys2Proof
open Sys2Proof.Machine Sys2Proof.Laws Sys2Proof.Laws.BitStream

/-- Settles O13: each instruction by what is valid in the buffer, and a refill byte by byte. -/
theorem bitStreamBuffer : Obligations.BitStreamBuffer := by
  unfold Obligations.BitStreamBuffer
  refine ⟨?bbinit, fun sc s t hr => instr_ok hr, ?peekValid, ?peekRefilled, ?takeValid, ?takeRefilled, ?skipBeyond, ?skip,
    fun s0 n s a v u => refill_byte, fun s0 n s => refill_over⟩
  case bbinit => exact fun a b sc s s1 t x y ha hb => instr_ok ((bind_ok ha).trans ((bind_ok hb).trans (modMe_run _ _)))
  case peekValid => exact fun d a sc s s1 t x ha hn hw => instr_ok (peek_valid (take := false) ha hn hw)
  case peekRefilled => exact fun d a sc s s1 s2 t x ha hn hr hw => instr_ok (peek_refilled (take := false) ha hn hr hw)
  case takeValid => exact fun d a sc s s1 t x ha hn hw => instr_ok (peek_valid (take := true) ha hn hw)
  case takeRefilled => exact fun d a sc s s1 s2 t x ha hn hr hw => instr_ok (peek_refilled (take := true) ha hn hr hw)
  case skipBeyond =>
    intro a sc s s1 s2 x ha hn rest hr
    refine instr_ok (u := ⟨⟩) ?_
    rw [bind_ok ha, get_bind, if_neg (by omega), bind_ok (modMe_run _ _)]
    exact (bind_ok hr).trans (modMe_run _ _)
  case skip =>
    intro a sc s t x ha hn
    refine instr_ok (u := ⟨⟩) ?_
    rw [bind_ok ha, get_bind, if_pos hn, modMe_run]
    rfl

end Sys2Proof
end

section
/-! PROOF. What statements about instructions that wait share. -/
namespace Sys2Proof.Laws.SyncWork
open Sys2Proof.Machine

/-- An instruction depends on its work at its own state only. -/
theorem instr_congr {sc : BitVec 3} {m n : M Unit} {s : State} (h : m s = n s) : instr sc m s = instr sc n s := by
  simp only [instr, instrJ]
  have hbind : (m >>= fun _ => (pure .seq : M Flow)) s = (n >>= fun _ => (pure .seq : M Flow)) s := by
    show EStateM.bind m _ s = EStateM.bind n _ s
    simp only [EStateM.bind, h]
  rw [hbind]

/-- A context that must wait is left waiting with its wait, at its own address. -/
theorem instr_waits {sc : BitVec 3} {m : M Unit} {s t : State} {w : Wait} (h : m s = .error (.block w) t) : ∃ f : Ctx → Ctx,
    instr sc m s = .next (t.modCtx s.cur.1 s.cur.2 f) ∧ ∀ x, (f x).st = .waiting ∧ (f x).wait = w ∧ (f x).pc = x.pc := by
  refine ⟨fun x => { x with st := .waiting, wait := w, nextIssue := (s.core s.cur.1).cycle + sc.toNat + 1 }, ?_, fun x => ⟨rfl, rfl, rfl⟩⟩
  simp only [instr, instrJ, bind_error h, settle]

/-- What must not be asked for while it is busy may be asked for. -/
theorem not_and_busy {p : Prop} {b : Bool} (h : ¬ p ∨ b = false) : ¬ (p ∧ b = true) :=
  not_and_or.mpr (h.imp_right fun hb => by rw [hb]; decide)

end Sys2Proof.Laws.SyncWork
end

section
/-! PROOF. deposit (R113, R118, R120, R121, R142, R378). -/
namespace Sys2Proof.Laws.Deposit
open Sys2Proof.Machine Sys2Proof.Laws.PipeControl Sys2Proof.Laws.MessageSend Sys2Proof.Laws.SyncWork

/-! ### Bytes and header fields -/

theorem getElem?_bytesOf (x : Nat) {n i : Nat} (h : i < n) : (bytesOf x n)[i]? = some (BitVec.ofNat 8 (x / 256 ^ i)) := by
  induction n generalizing x i with
  | zero => omega
  | succ n ih =>
    cases i with
    | zero => simp [bytesOf]
    | succ i => rw [bytesOf, List.getElem?_cons_succ, ih _ (by omega), Nat.pow_succ', Nat.div_div_eq_div_mul]

theorem cwFlits_lt (cw : Word) : cwFlits cw < 16 := Nat.mod_lt _ (by decide)
theorem cwLevel_lt (cw : Word) : cwLevel cw < 4 := Nat.mod_lt _ (by decide)
theorem cwClass_lt (cw : Word) : cwClass cw < 256 := Nat.mod_lt _ (by decide)

section
variable (dg sg f n rel rtc dep l tc ph d src cls : Nat)

theorem hdrDep_msgHeader (h : dep = 1) : hdrDep (msgHeader dg sg f n rel rtc dep l tc ph d src cls) = true := by
  rw [hdrDep, BitVec.getLsbD, msgHeader_toNat, Nat.testBit_eq_decide_div_mod_eq, decide_eq_true_eq]
  omega

theorem hdrFlits_msgHeader (h : f < 16) : hdrFlits (msgHeader dg sg f n rel rtc dep l tc ph d src cls) = f := by
  obtain ⟨-, -, -, -, -, -, -, hf, -⟩ := msgHeader_fields dg sg f n rel rtc dep l tc ph d src cls
  exact hf.trans (Nat.mod_eq_of_lt h)

theorem hdrLevel_msgHeader (h : l < 4) : hdrLevel (msgHeader dg sg f n rel rtc dep l tc ph d src cls) = l := by
  obtain ⟨-, -, -, -, -, hl, -⟩ := msgHeader_fields dg sg f n rel rtc dep l tc ph d src cls
  exact hl.trans (Nat.mod_eq_of_lt h)

theorem hdrClass_msgHeader (h : cls < 256) : hdrClass (msgHeader dg sg f n rel rtc dep l tc ph d src cls) = cls := by
  obtain ⟨hc, -⟩ := msgHeader_fields dg sg f n rel rtc dep l tc ph d src cls
  exact hc.trans (Nat.mod_eq_of_lt h)

theorem hdrPhase_msgHeader (h : ph < 16) : hdrPhase (msgHeader dg sg f n rel rtc dep l tc ph d src cls) = ph := by
  obtain ⟨-, -, -, hp, -⟩ := msgHeader_fields dg sg f n rel rtc dep l tc ph d src cls
  exact hp.trans (Nat.mod_eq_of_lt h)

end

/-! ### The reads of a deposit (R121, R219) -/

/-- A read that meets an absent segment waits for it, before anything is read (R219). -/
theorem depositRead_awaits {a n m x : Nat} {s : State} (hm : s.inMailbox (clusterOf s.cur.1) a n = false)
    (hl : s.lockedLocal (clusterOf s.cur.1) a n false = false) (hp : s.firstAbsent (clusterOf s.cur.1) a n = some x) :
    depositRead a n m s = .error (.await x) s := by
  simp [depositRead, get_bind, hm, hl, hp]

/-! ### What follows the checks -/

/-- Word i of a descriptor. -/
abbrev word (head i : Nat) : Word := w64 (execDeposit.mapWord' head i)

/-- The header of a deposit issued at s (R113). -/
def depositHeader (s : State) (dw cw : Word) (dg sg : Nat) : Word :=
  msgHeader dg sg (cwFlits cw) 6 0 (if cwRtc cw then 1 else 0) 1 (cwLevel cw) (dw.toNat / 2 ^ 16 % 4) s.me.phase.toNat dw.toNat
    (s.coreId s.cur.1) (cwClass cw)

/-- A deposit issued at s, once its descriptor is checked and its receiver known: the wait for an injection, the reads, the wait of a stamped
one, the injection (R121). -/
def finishDeposit (s : State) (dw D : Word) (head dst dg sg : Nat) : M Unit := do
  let cw := word head 0
  let f := cwFlits cw
  waitInject dw (dw.toNat / 2 ^ 16 % 4) (1 + f)
  depositBad (D.toNat + 16) 48
  let data ← depositRead (word head 1).toNat (64 * f) (64 * f)
  if cwVstamp cw then releasePoint else pure ()
  injectMine (depositHeader s dw cw dg sg) [word head 2, word head 3, word head 4, word head 5, word head 6, word head 7, cw]
    (bytesOf data (64 * f)) dst (1 + f)

section
variable {a b : BitVec 5} {sc : BitVec 3} {s s1 s2 s3 : State} {dw D : Word} (hdw : readS a s = .ok dw s1) (hD : readS b s1 = .ok D s2)
include hdw hD

theorem deposit_outside (h : Config.clusterBytes ≤ D.toNat) : Traps (.deposit a b sc) s { cause := cLOCAL_RANGE, val := D } := by
  refine instr_trap (t := s2) ?_
  rw [bind_ok hdw, bind_ok hD, if_pos h, raise_run]

theorem deposit_unaligned (h : D.toNat < Config.clusterBytes) (ha : D.toNat % 64 ≠ 0) :
    Traps (.deposit a b sc) s { cause := cALIGN, val := D } := by
  refine instr_trap (t := s2) ?_
  rw [bind_ok hdw, bind_ok hD, if_neg (Nat.not_le.mpr h), if_pos ha, raise_run]

/-- A deposit whose descriptor passes the checks and whose receiver is found goes on with the injection. -/
theorem deposit_checked {head dst dg sg : Nat} (h : D.toNat < Config.clusterBytes) (ha : D.toNat % 64 = 0)
    (hhead : depositRead D.toNat 64 16 s2 = .ok head s3) (hc : cwClass (word head 0) < 0xF0)
    (hb : s.badDescriptor (clusterOf s.cur.1) (word head 0) (word head 1) = false)
    (hr : s3.receiver s3.cur.1 dw = some (dst, dg, sg)) :
    exec (.deposit a b sc) s = instr sc (fun _ => finishDeposit s dw D head dst dg sg s3) s := by
  refine instr_congr ?_
  rw [bind_ok hdw, bind_ok hD, if_neg (Nat.not_le.mpr h), if_neg (not_not.mpr ha)]
  rw [bind_ok hhead]
  refine (congrFun (if_neg (Nat.not_le.mpr hc)) s3).trans ?_
  refine (congrFun (if_neg (by rw [hb]; decide)) s3).trans ?_
  exact (bind_ok (receiverOf_found hr)).trans rfl

end

section
variable {s s3 s4 s5 : State} {dw D : Word} {head dst dg sg : Nat}

/-- With 16 acknowledgements outstanding a deposit waits (R29). -/
theorem finishDeposit_full (ha : s3.here.acks = Config.maxAcks) (hr : s3.me.rtc = false ∨ s3.here.refusals = []) :
    finishDeposit s dw D head dst dg sg s3 = .error .stall s3 := bind_error (waitInject_full ha hr)

variable (ha : s3.here.acks < Config.maxAcks)
include ha

/-- A deposit whose flits exceed the frame quota waits (R378). -/
theorem finishDeposit_quota (hq : s3.here.mayInject (dw.toNat / 2 ^ 16 % 4) (1 + cwFlits (word head 0)) = false) :
    finishDeposit s dw D head dst dg sg s3 = .error .stall s3 := bind_error (waitInject_quota ha hq)

variable {data : Nat} (hq : s3.here.mayInject (dw.toNat / 2 ^ 16 % 4) (1 + cwFlits (word head 0)) = true)
  (hbad : depositBad (D.toNat + 16) 48 s3 = .ok ⟨⟩ s4)
  (hdata : depositRead (word head 1).toNat (64 * cwFlits (word head 0)) (64 * cwFlits (word head 0)) s4 = .ok data s5)
include hq hbad hdata

/-- A stamped deposit waits for its context's earlier accesses (R142, log 70). -/
theorem finishDeposit_unperformed (hv : cwVstamp (word head 0) = true) (hp : s5.performed s5.cur.1 s5.cur.2 = false) :
    finishDeposit s dw D head dst dg sg s3 = .error .stall s5 := by
  refine (bind_ok (waitInject_passes ha hq)).trans ((bind_ok hbad).trans ((bind_ok hdata).trans ?_))
  exact (congrFun (if_pos hv) s5).trans (bind_error (releasePoint_waits hp))

theorem finishDeposit_injects (hp : cwVstamp (word head 0) = true → s5.performed s5.cur.1 s5.cur.2 = true) :
    finishDeposit s dw D head dst dg sg s3 = injectMine (depositHeader s dw (word head 0) dg sg)
      [word head 2, word head 3, word head 4, word head 5, word head 6, word head 7, word head 0] (bytesOf data (64 * cwFlits (word head 0)))
      dst (1 + cwFlits (word head 0)) s5 :=
  (bind_ok (waitInject_passes ha hq)).trans ((bind_ok hbad).trans ((bind_ok hdata).trans (releaseIf_passes hp)))

end

end Sys2Proof.Laws.Deposit

namespace Sys2Proof
open Sys2Proof.Machine Sys2Proof.Laws Sys2Proof.Laws.MessageSend Sys2Proof.Laws.Deposit

/-- Settles O22: the checks of the descriptor, then the waits and the injection. -/
theorem depositInjection : Obligations.DepositInjection := by
  unfold Obligations.DepositInjection
  refine ⟨?injects, ?waits, ?address, fun a n m s x hm hl hp => depositRead_awaits hm hl hp, fun x n i hi => getElem?_bytesOf x hi⟩
  case injects =>
    intro a b sc s s1 s2 s3 s4 s5 dw D head dst dg sg data hdw hD hin hal hhead word cw f hc hb hr ha hq hbad hdata hp
    obtain ⟨t, m, ht, hmsgs, hhdr, hw, hmdata, -, hdst, hacks, -⟩ := injectMine_run (depositHeader s dw cw dg sg)
      [word 2, word 3, word 4, word 5, word 6, word 7, cw] (bytesOf data (64 * f)) dst (1 + f) s5
    refine ⟨t, m, ?_, hmsgs, hw, hmdata, hdst, ?_, ?_, ?_, ?_, ?_, hacks⟩
    · exact (deposit_checked hdw hD hin hal hhead hc hb hr).trans
        (instr_ok (u := ⟨⟩) ((finishDeposit_injects ha hq hbad hdata hp).trans ht))
    · exact hhdr ▸ hdrDep_msgHeader _ _ _ _ _ _ _ _ _ _ _ _ _ rfl
    · exact hhdr ▸ hdrFlits_msgHeader _ _ _ _ _ _ _ _ _ _ _ _ _ (cwFlits_lt cw)
    · exact hhdr ▸ hdrLevel_msgHeader _ _ _ _ _ _ _ _ _ _ _ _ _ (cwLevel_lt cw)
    · exact hhdr ▸ hdrClass_msgHeader _ _ _ _ _ _ _ _ _ _ _ _ _ (cwClass_lt cw)
    · exact hhdr ▸ hdrPhase_msgHeader _ _ _ _ _ _ _ _ _ _ _ _ _ s.me.phase.isLt
  case waits =>
    rintro a b sc s s1 s2 s3 dw D head ⟨dst, dg, sg⟩ hdw hD hin hal hhead word cw f hc hb hr
    have hrun := deposit_checked (sc := sc) hdw hD hin hal hhead hc hb hr
    refine ⟨fun ha hrtc => ?_, fun ha hq => ?_, fun s4 s5 data ha hq hbad hdata hv hp => ?_⟩
    · exact hrun.trans (instr_stall (finishDeposit_full ha hrtc))
    · exact hrun.trans (instr_stall (finishDeposit_quota ha hq))
    · exact hrun.trans (instr_stall (finishDeposit_unperformed ha hq hbad hdata hv hp))
  case address =>
    intro a b sc s s1 s2 dw D hdw hD
    exact ⟨deposit_outside hdw hD, deposit_unaligned hdw hD⟩

end Sys2Proof
end

section
/-! PROOF. The fences (R144). -/
namespace Sys2Proof.Laws.Fence
open Sys2Proof.Machine

theorem unbound_eq_false {x : Ctx} (h : ∀ q ∈ x.pend, q.open_ = 0) : x.unbound = false :=
  List.any_eq_false.mpr fun q hq => by simp [h q hq]

theorem unbound_of_mem {x : Ctx} {q : Pend} (hq : q ∈ x.pend) (ho : q.open_ ≠ 0) : x.unbound = true :=
  List.any_eq_true.mpr ⟨q, hq, decide_eq_true ho⟩

/-- A message on its way to its receiver holds back its sender's fence. -/
theorem messagesDone_eq_false {s : State} {c l : Nat} {m : Msg} (hm : m ∈ s.net.msgs) (hload : m.load = none) (hsrc : m.src = c)
    (hlevel : m.level = l) : s.messagesDone c l = false := by
  have hmine : m.messageOf c l = true := by simp [Msg.messageOf, hload, hsrc, hlevel]
  rw [State.messagesDone, List.any_eq_true.mpr ⟨m, hm, hmine⟩]
  rfl

section
variable {s : State} {c sc : BitVec 3}

theorem fenceLd_waits (h : s.me.unbound = true) : Waits (.fenceLd c sc) s := instr_stall (congrFun (if_pos h) s)

theorem fenceSt_waits (h : s.storesDone s.cur.1 s.cur.2 = false) : Waits (.fenceSt c sc) s :=
  instr_stall (congrFun (if_neg (by rw [h]; decide)) s)

/-- fence.all waits while anything that it orders is left. -/
theorem fenceAll_waits (h : s.me.unbound = true ∨ s.storesDone s.cur.1 s.cur.2 = false ∨ s.messagesDone s.cur.1 s.cur.2 = false) :
    Waits (.fenceAll c sc) s := by
  refine instr_stall (congrFun (if_pos ?_) s)
  rcases h with h | h | h <;> simp [h]

theorem fenceAll_completes (hu : s.me.unbound = false) (hs : s.storesDone s.cur.1 s.cur.2 = true)
    (hm : s.messagesDone s.cur.1 s.cur.2 = true) : Completes 4 (.fenceAll c sc) sc.toNat s s := by
  refine instr_ok (u := ⟨⟩) (congrFun (if_neg ?_) s)
  simp [hu, hs, hm]

end

end Sys2Proof.Laws.Fence

namespace Sys2Proof
open Sys2Proof.Machine Sys2Proof.Laws Sys2Proof.Laws.Fence

/-- Settles O28: each fence by what it finds left. -/
theorem fencesComplete : Obligations.FencesComplete := by
  unfold Obligations.FencesComplete
  refine ⟨?ld, ?ldWaits, ?st, ?stWaits, ?all, ?allWaits⟩
  case ld => exact fun c sc s h => instr_ok (u := ⟨⟩) (congrFun (if_neg (by rw [unbound_eq_false h]; decide)) s)
  case ldWaits =>
    intro c sc s q hq ho
    have hu := unbound_of_mem hq ho
    exact ⟨fenceLd_waits hu, fenceAll_waits (.inl hu)⟩
  case st => exact fun c sc s h => instr_ok (u := ⟨⟩) (congrFun (if_pos h) s)
  case stWaits => exact fun c sc s h => ⟨fenceSt_waits h, fenceAll_waits (.inr (.inl h))⟩
  case all => exact fun c sc s hp hs hm => fenceAll_completes (unbound_eq_false hp) hs hm
  case allWaits => exact fun c sc s m hm hl hs hv => fenceAll_waits (.inr (.inr (messagesDone_eq_false hm hl hs hv)))

end Sys2Proof
end

section
/-! PROOF. dset, dget and mbxcfg (R114, R125 to R127). -/
namespace Sys2Proof.Laws.DispatchStore
open Sys2Proof.Machine

/-- An entry by its fields (R114). -/
theorem dispatchEntry_eq (r : BitVec 1) (l : BitVec 2) {h : Nat} (hh : h < 2 ^ 22) : dispatchEntry (decide (r = 1)) l.toNat h =
    BitVec.ofNat 32 (2 ^ 31 + r.toNat * 2 ^ 30 + l.toNat * 2 ^ 28 + h) := by
  have hr : (if decide (r = 1) = true then 2 ^ 30 else 0) = r.toNat * 2 ^ 30 := by
    have hlt := r.isLt
    have h1 : r = 1 ↔ r.toNat = 1 := BitVec.toNat_inj.symm
    simp only [decide_eq_true_eq, h1]
    split <;> omega
  rw [dispatchEntry, hr, Nat.mod_eq_of_lt l.isLt, Nat.mod_eq_of_lt hh]

/-- The classes that software may not bind (R125). -/
abbrev Reserved (k : Nat) : Prop := 0xF0 ≤ k ∧ k ≠ 0xFC ∧ k ≠ 0xFD ∧ k ≠ 0xFE

section
variable {r : BitVec 1} {a b : BitVec 5} {l : BitVec 2} {sc : BitVec 3} {s s1 t : State} {x h : Word}
  (hx : readS a s = .ok x s1) (hh : readS b s1 = .ok h t)
include hx hh

theorem dset_reserved (hk : Reserved (x.toNat % 256)) : Traps (.dset r a b l sc) s { cause := cPRIV, val := w64 (x.toNat % 256) } := by
  refine instr_trap (t := t) ?_
  rw [bind_ok hx, bind_ok hh, if_pos hk, raise_run]

variable (hk : ¬ Reserved (x.toNat % 256))
include hk

theorem dset_unbinds (hl : l = 0) : Completes 4 (.dset r a b l sc) sc.toNat s
    (t.modCore t.cur.1 fun k => { k with dispatch := Map.set k.dispatch (x.toNat % 256) 0 }) := by
  refine instr_ok (u := ⟨⟩) ?_
  rw [bind_ok hx, bind_ok hh, if_neg hk, if_pos hl, modHere_run]

theorem dset_binds (hl : l ≠ 0) (hin : h.toNat < Config.clusterBytes) (he : h.toNat % 2 = 0) : Completes 4 (.dset r a b l sc) sc.toNat s
    (t.modCore t.cur.1 fun k =>
      { k with dispatch := Map.set k.dispatch (x.toNat % 256) (dispatchEntry (decide (r = 1)) l.toNat h.toNat) }) := by
  refine instr_ok (u := ⟨⟩) ?_
  rw [bind_ok hx, bind_ok hh, if_neg hk, if_neg hl, if_neg (Nat.not_le.mpr hin), if_neg (by omega), modHere_run]

theorem dset_outside (hl : l ≠ 0) (ho : Config.clusterBytes ≤ h.toNat) : Traps (.dset r a b l sc) s { cause := cLOCAL_RANGE, val := h } := by
  refine instr_trap (t := t) ?_
  rw [bind_ok hx, bind_ok hh, if_neg hk, if_neg hl, if_pos ho, raise_run]

theorem dset_odd (hl : l ≠ 0) (hin : h.toNat < Config.clusterBytes) (ho : h.toNat % 2 = 1) :
    Traps (.dset r a b l sc) s { cause := cALIGN, val := h } := by
  refine instr_trap (t := t) ?_
  rw [bind_ok hx, bind_ok hh, if_neg hk, if_neg hl, if_neg (Nat.not_le.mpr hin), if_pos ho, raise_run]

end

end Sys2Proof.Laws.DispatchStore

namespace Sys2Proof
open Sys2Proof.Machine Sys2Proof.Laws Sys2Proof.Laws.DispatchStore

/-- Settles O23: the checks of dset in their order, then each instruction by the way its work ends. -/
theorem dispatchStoreBinding : Obligations.DispatchStoreBinding := by
  unfold Obligations.DispatchStoreBinding
  refine ⟨?dset, ?priv, ?dget, ?mbxcfg⟩
  case dset =>
    intro r a b l sc s s1 t x h hx hh hclass
    have hk : ¬ Reserved (x.toNat % 256) := by
      unfold Reserved
      omega
    refine ⟨dset_unbinds hx hh hk, fun hl hin he => ?_, dset_outside hx hh hk, dset_odd hx hh hk⟩
    rw [← dispatchEntry_eq r l hin]
    exact dset_binds hx hh hk hl hin he
  case priv => exact fun r a b l sc s s1 t x h hx hh h0 h1 h2 h3 => dset_reserved hx hh ⟨h0, h1, h2, h3⟩
  case dget => exact fun d a sc s s1 t x hx ht => instr_ok (u := ⟨⟩) ((bind_ok hx).trans ht)
  case mbxcfg => exact fun a sc s t n hn => instr_ok (u := ⟨⟩) ((bind_ok hn).trans (modHere_run _ _))

end Sys2Proof
end

section
/-! PROOF. Versioned words: stv, ldv and recl (R31, R140, R141, log 70). -/
namespace Sys2Proof.Laws.VersionedWord
open Sys2Proof.Machine Sys2Proof.Laws.PipeControl Sys2Proof.Laws.WaitAndPhase Sys2Proof.Laws.SyncWork

/-! ### The checks that the three share, in their order -/

/-- An aligned address of the versioned region and a version number. -/
structure Versioned (A : Word) (n : Nat) : Prop where
  inside : A.toNat < 2 ^ 22
  region : A.toNat / 2 ^ 16 % 8 = 7
  aligned : A.toNat % 8 = 0
  positive : 0 < n

theorem not_outside {A : Word} (hin : A.toNat < 2 ^ 22) (hreg : A.toNat / 2 ^ 16 % 8 = 7) :
    ¬ (Config.clusterBytes ≤ A.toNat ∨ A.toNat / 2 ^ 16 % 8 ≠ 7) := not_or.mpr ⟨Nat.not_le.mpr hin, not_not.mpr hreg⟩

section
variable {A : Word} {n : Nat} {s : State}

theorem versionAddr_passes (h : Versioned A n) : versionAddr A n s = .ok A.toNat s := by
  rw [versionAddr, if_neg (not_outside h.inside h.region), if_neg (not_not.mpr h.aligned), if_neg (Nat.ne_of_gt h.positive), pure_run]

theorem versionAddr_outside (h : 2 ^ 22 ≤ A.toNat ∨ A.toNat / 2 ^ 16 % 8 ≠ 7) :
    versionAddr A n s = .error (.trap { cause := cVERSION, val := A }) s := congrFun (if_pos h) s

variable (hin : A.toNat < 2 ^ 22) (hreg : A.toNat / 2 ^ 16 % 8 = 7)
include hin hreg

theorem versionAddr_unaligned (h : A.toNat % 8 ≠ 0) : versionAddr A n s = .error (.trap { cause := cALIGN, val := A }) s := by
  rw [versionAddr, if_neg (not_outside hin hreg), if_pos h, raise_run]

theorem versionAddr_zero (h : A.toNat % 8 = 0) (h0 : n = 0) : versionAddr A n s = .error (.trap { cause := cVERSION, val := A }) s := by
  rw [versionAddr, if_neg (not_outside hin hreg), if_neg (not_not.mpr h), if_pos h0, raise_run]

end

/-- An instruction that comes to the checks traps as they say. -/
theorem traps_of_versionAddr {i : Instr} {sc : BitVec 3} {m : M Unit} {s t : State} {A : Word} {n : Nat} {f : Nat → M Unit}
    (hi : exec i s = instr sc m s) (hm : m s = (versionAddr A n >>= f) t) :
    ((2 ^ 22 ≤ A.toNat ∨ A.toNat / 2 ^ 16 % 8 ≠ 7) → Traps i s { cause := 0x14, val := A })
    ∧ (A.toNat < 2 ^ 22 → A.toNat / 2 ^ 16 % 8 = 7 → A.toNat % 8 ≠ 0 → Traps i s { cause := 0x05, val := A })
    ∧ (A.toNat < 2 ^ 22 → A.toNat / 2 ^ 16 % 8 = 7 → A.toNat % 8 = 0 → n = 0 → Traps i s { cause := 0x14, val := A }) := by
  have htrap : ∀ x, versionAddr A n t = .error (.trap x) t → Traps i s x := fun x hx =>
    hi.trans (instr_trap (hm.trans (bind_error hx)))
  exact ⟨fun h => htrap _ (versionAddr_outside h), fun hin hreg h => htrap _ (versionAddr_unaligned hin hreg h),
    fun hin hreg h h0 => htrap _ (versionAddr_zero hin hreg h h0)⟩

/-! ### stv -/

/-- The core that owns a cluster address of the issuing cluster (R173). -/
abbrev owner (s : State) (A : Word) : Core := s.core (ownerCore (clusterOf s.cur.1) A.toNat)

section
variable {d a b : BitVec 5} {sc : BitVec 3} {s s1 s2 s3 : State} {A v n : Word} (hA : readS a s = .ok A s1) (hv : readS b s1 = .ok v s2)
  (hn : readS d s2 = .ok n s3) (h : Versioned A (n.toNat % 2 ^ 32))
include hA hv hn h

/-- A version that is not above every earlier one (R141). -/
theorem stv_stale {r : Version} (hr : (owner s A).version A.toNat = some r) (hle : n.toNat % 2 ^ 32 ≤ r.h) :
    Traps (.stv d a b sc) s { cause := cVERSION, val := A } := by
  refine instr_trap (t := s3) ?_
  rw [bind_ok hA, bind_ok hv, bind_ok hn, bind_ok (versionAddr_passes h)]
  simp only [hr, hle, decide_true, if_true]
  rfl

variable (hnew : ∀ r, (owner s A).version A.toNat = some r → r.h < n.toNat % 2 ^ 32)
include hnew

/-- A version above every earlier one waits for room, then for its context's earlier accesses, and is made (R141, log 70). -/
theorem stv_above : exec (.stv d a b sc) s = instr sc (fun _ =>
    (if !(owner s A).versionRoom A.toNat then throw .stall
     else releasePoint >>= fun _ => modify (fun t => t.makeVersion (clusterOf s.cur.1) A.toNat (n.toNat % 2 ^ 32) v) >>= fun _ =>
       scalarStore A.toNat 8 v.toNat : M Unit) s3) s := by
  refine instr_congr ?_
  rw [bind_ok hA, bind_ok hv, bind_ok hn, bind_ok (versionAddr_passes h)]
  cases hr : (owner s A).version A.toNat with
  | none => simp only [Bool.false_eq_true, if_false]
  | some r => simp only [Nat.not_le.mpr (hnew r hr), decide_false, Bool.false_eq_true, if_false]

theorem stv_full (hroom : (owner s A).versionRoom A.toNat = false) : Waits (.stv d a b sc) s :=
  (stv_above hA hv hn h hnew).trans (instr_stall (congrFun (if_pos (by rw [hroom]; rfl)) s3))

variable (hroom : (owner s A).versionRoom A.toNat = true)
include hroom

theorem stv_unperformed (hp : s3.performed s3.cur.1 s3.cur.2 = false) : Waits (.stv d a b sc) s :=
  (stv_above hA hv hn h hnew).trans (instr_stall ((congrFun (if_neg (by rw [hroom]; decide)) s3).trans (bind_error (releasePoint_waits hp))))

theorem stv_makes {t : State} (hp : s3.performed s3.cur.1 s3.cur.2 = true)
    (hs : scalarStore A.toNat 8 v.toNat (s3.makeVersion (clusterOf s.cur.1) A.toNat (n.toNat % 2 ^ 32) v) = .ok ⟨⟩ t) :
    Completes 4 (.stv d a b sc) sc.toNat s t :=
  (stv_above hA hv hn h hnew).trans (instr_ok (u := ⟨⟩) ((congrFun (if_neg (by rw [hroom]; decide)) s3).trans
    ((bind_ok (releasePoint_passes hp)).trans ((bind_ok (modify_run _ _)).trans hs))))

end

/-- Four live versions of a word, or a table with no free entry, leave no room. -/
theorem versionRoom_eq_false {k : Core} {a : Nat}
    (h : (∃ r, k.version a = some r ∧ 4 ≤ r.live.length) ∨ Config.versionMax ≤ k.versionsUsed) :
    k.versionRoom a = false := by
  rcases h with ⟨r, hr, hl⟩ | h
  · simp [Core.versionRoom, hr, Nat.not_lt.mpr hl]
  · simp [Core.versionRoom, Nat.not_lt.mpr h]

/-! ### ldv -/

/-- The wait of ldv for a version, which a run-to-completion routine may not make (R31, R141). -/
def awaitVersion (s : State) (A : Word) (n d : Nat) : M Unit :=
  if s.me.rtc then raise cSYNC_INVALID A else throw (.block (.ldv A.toNat n d))

theorem awaitVersion_blocks {s t : State} {A : Word} {n d : Nat} (h : s.me.rtc = false) :
    awaitVersion s A n d t = .error (.block (.ldv A.toNat n d)) t := congrFun (if_neg (by rw [h]; decide)) t

theorem awaitVersion_refused {s t : State} {A : Word} {n d : Nat} (h : s.me.rtc = true) :
    awaitVersion s A n d t = .error (.trap { cause := cSYNC_INVALID, val := A }) t := congrFun (if_pos h) t

section
variable {d a b : BitVec 5} {sc : BitVec 3} {s s1 s2 : State} {A n : Word} (hd : claimDest d s = .ok ⟨⟩ s) (hA : readS a s = .ok A s1)
  (hn : readS b s1 = .ok n s2) (h : Versioned A (n.toNat % 2 ^ 32))
include hd hA hn h

/-- A word without a record has no live version. -/
theorem ldv_unrecorded (hr : (owner s A).version A.toNat = none) :
    exec (.ldv d a b sc) s = instr sc (fun _ => awaitVersion s A (n.toNat % 2 ^ 32) d.toNat s2) s := by
  refine instr_congr ?_
  rw [bind_ok hd, bind_ok hA, bind_ok hn, bind_ok (versionAddr_passes h)]
  simp only [hr, awaitVersion]

section
variable {r : Version} (hr : (owner s A).version A.toNat = some r)
include hr

theorem ldv_live {t : State} {e : Nat × Word} {i : Nat} (he : r.live.find? (fun e => decide (e.1 = n.toNat % 2 ^ 32)) = some e)
    (ht : deferS d e.2 0 s2 = .ok i t) : Completes 4 (.ldv d a b sc) sc.toNat s t := by
  refine instr_ok (u := ⟨⟩) ?_
  rw [bind_ok hd, bind_ok hA, bind_ok hn, bind_ok (versionAddr_passes h)]
  simp only [hr, he]
  exact bind_ok ht

variable (hnone : r.live.find? (fun e => decide (e.1 = n.toNat % 2 ^ 32)) = none)
include hnone

/-- A version that has retired, or that a later one has passed over (R141). -/
theorem ldv_passed (hle : n.toNat % 2 ^ 32 ≤ r.f ∨ n.toNat % 2 ^ 32 ≤ r.h) : Traps (.ldv d a b sc) s { cause := cVERSION, val := A } := by
  refine instr_trap (t := s2) ?_
  rw [bind_ok hd, bind_ok hA, bind_ok hn, bind_ok (versionAddr_passes h)]
  simp only [hr, hnone, hle, if_true]
  rfl

theorem ldv_unmade (hgt : r.f < n.toNat % 2 ^ 32 ∧ r.h < n.toNat % 2 ^ 32) :
    exec (.ldv d a b sc) s = instr sc (fun _ => awaitVersion s A (n.toNat % 2 ^ 32) d.toNat s2) s := by
  have hnle : ¬ (n.toNat % 2 ^ 32 ≤ r.f ∨ n.toNat % 2 ^ 32 ≤ r.h) := by omega
  refine instr_congr ?_
  rw [bind_ok hd, bind_ok hA, bind_ok hn, bind_ok (versionAddr_passes h)]
  simp only [hr, hnone, hnle, if_false, awaitVersion]

end

end

/-- ldv waits for a version not made yet. -/
theorem ldv_waits {d a b : BitVec 5} {sc : BitVec 3} {s s1 s2 : State} {A n : Word} (hA : readS a s = .ok A s1) (hn : readS b s1 = .ok n s2)
    (hrun : exec (.ldv d a b sc) s = instr sc (fun _ => awaitVersion s A (n.toNat % 2 ^ 32) d.toNat s2) s) (hrtc : s.me.rtc = false) :
    ∃ u, exec (.ldv d a b sc) s = .next u ∧ u.me.st = .waiting ∧ u.me.wait = .ldv A.toNat (n.toNat % 2 ^ 32) d.toNat := by
  obtain ⟨u, hu, hst, hw, -⟩ := instr_block (sc := sc) (m := fun _ => awaitVersion s A (n.toNat % 2 ^ 32) d.toNat s2) (s := s)
    (awaitVersion_blocks hrtc) ((readS_cur hn).trans (readS_cur hA))
  exact ⟨u, hrun.trans hu, hst, hw⟩

/-! ### recl -/

/-- A record without its versions up to n; none when no version is left (R140, R141). -/
def retireVersions (k : Core) (a n : Nat) : Core :=
  match k.version a with
  | none => k
  | some r =>
    let live := r.live.filter fun e => decide (n < e.1)
    if live.isEmpty then { k with versions := Map.del k.versions a }
    else { k with versions := Map.set k.versions a { r with f := max r.f n, live := live } }

section
variable {k : Core} {a n : Nat} {r : Version} (hr : k.version a = some r)
include hr

/-- Versions above n stay in the record. -/
theorem version_retireVersions (h : ∃ e ∈ r.live, n < e.1) : (retireVersions k a n).version a =
    some { h := r.h, f := max r.f n, live := r.live.filter fun e => decide (n < e.1) } := by
  obtain ⟨e, he, hlt⟩ := h
  have hne : (r.live.filter fun e => decide (n < e.1)).isEmpty = false :=
    List.isEmpty_eq_false_iff_exists_mem.mpr ⟨e, List.mem_filter.mpr ⟨he, decide_eq_true hlt⟩⟩
  simp only [retireVersions, hr, hne, Bool.false_eq_true, if_false]
  exact get_set _ _ _

/-- A record left with no live version is dropped (R140). -/
theorem retireVersions_drops (h : ∀ e ∈ r.live, e.1 ≤ n) : retireVersions k a n = { k with versions := Map.del k.versions a } := by
  have he : (r.live.filter fun e => decide (n < e.1)).isEmpty = true := by
    rw [List.isEmpty_iff, List.filter_eq_nil_iff]
    exact fun e hm => by simpa using h e hm
  simp only [retireVersions, hr, he, if_true]

end

theorem recl_retires {a b : BitVec 5} {sc : BitVec 3} {s s1 t : State} {A n : Word} (hA : readS a s = .ok A s1) (hn : readS b s1 = .ok n t)
    (h : Versioned A (n.toNat % 2 ^ 32)) : Completes 4 (.recl a b sc) sc.toNat s
      (t.modCore (ownerCore (clusterOf s.cur.1) A.toNat) fun k => retireVersions k A.toNat (n.toNat % 2 ^ 32)) := by
  refine instr_ok (u := ⟨⟩) ?_
  rw [bind_ok hA, bind_ok hn, bind_ok (versionAddr_passes h)]
  rfl

end Sys2Proof.Laws.VersionedWord

namespace Sys2Proof
open Sys2Proof.Machine Sys2Proof.Laws Sys2Proof.Laws.VersionedWord

/-- Settles O27: the checks that the three share, then each instruction by what its word's record holds. -/
theorem versionedWords : Obligations.VersionedWords := by
  unfold Obligations.VersionedWords
  refine ⟨?makes, ?stale, ?live, ?unrecorded, ?unmade, ?stvWaits, ?retires, ?passed, ?drops, ?stvTraps, ?ldvTraps, ?reclTraps⟩
  case makes =>
    intro d a b sc s s1 s2 s3 t A v n hA hv hn h1 h2 h3 h4 k o hnew hroom hp hs
    exact stv_makes hA hv hn ⟨h1, h2, h3, h4⟩ hnew hroom hp hs
  case stale => exact fun d a b sc s s1 s2 s3 A v n r hA hv hn h1 h2 h3 h4 hr hle => stv_stale hA hv hn ⟨h1, h2, h3, h4⟩ hr hle
  case live =>
    exact fun d a b sc s s1 s2 t A n r e i hd hA hn h1 h2 h3 h4 hr he ht => ldv_live hd hA hn ⟨h1, h2, h3, h4⟩ hr he ht
  case unrecorded =>
    intro d a b sc s s1 s2 A n hd hA hn h1 h2 h3 h4 hrtc hr
    exact ldv_waits hA hn (ldv_unrecorded hd hA hn ⟨h1, h2, h3, h4⟩ hr) hrtc
  case unmade =>
    intro d a b sc s s1 s2 A n r hd hA hn h1 h2 h3 h4 hr hlive hf hh
    have hnone : r.live.find? (fun e => decide (e.1 = n.toNat % 2 ^ 32)) = none :=
      List.find?_eq_none.mpr fun e he => by simpa using hlive e he
    have hrun := ldv_unmade (sc := sc) hd hA hn ⟨h1, h2, h3, h4⟩ hr hnone ⟨hf, hh⟩
    exact ⟨ldv_waits hA hn hrun, fun hrtc => hrun.trans (instr_trap (awaitVersion_refused hrtc))⟩
  case stvWaits =>
    intro d a b sc s s1 s2 s3 A v n hA hv hn h1 h2 h3 h4 o hnew
    exact ⟨fun hfull => stv_full hA hv hn ⟨h1, h2, h3, h4⟩ hnew (versionRoom_eq_false hfull),
      fun hroom hp => stv_unperformed hA hv hn ⟨h1, h2, h3, h4⟩ hnew hroom hp⟩
  case retires =>
    intro a b sc s s1 t A n hA hn h1 h2 h3 h4
    refine ⟨_, recl_retires hA hn ⟨h1, h2, h3, h4⟩, fun r hr hlive => ?_⟩
    rw [core_modCore]
    exact version_retireVersions hr hlive
  case passed =>
    exact fun d a b sc s s1 s2 A n r hd hA hn h1 h2 h3 h4 hr hnone hle => ldv_passed hd hA hn ⟨h1, h2, h3, h4⟩ hr hnone hle
  case drops =>
    intro a b sc s s1 t A n r hA hn h1 h2 h3 h4 hr hall
    have hdone := recl_retires (sc := sc) hA hn ⟨h1, h2, h3, h4⟩
    rw [State.modCore, retireVersions_drops hr hall] at hdone
    exact hdone
  case stvTraps =>
    exact fun d a b sc s s1 s2 s3 A v n hA hv hn =>
      traps_of_versionAddr (sc := sc) rfl ((bind_ok hA).trans ((bind_ok hv).trans (bind_ok hn)))
  case ldvTraps =>
    exact fun d a b sc s s1 s2 A n hd hA hn => traps_of_versionAddr (sc := sc) rfl ((bind_ok hd).trans ((bind_ok hA).trans (bind_ok hn)))
  case reclTraps => exact fun a b sc s s1 s2 A n hA hn => traps_of_versionAddr (sc := sc) rfl ((bind_ok hA).trans (bind_ok hn))

end Sys2Proof
end

section
/-! PROOF. Slots and locks (R31, R128 to R130, R134). -/
namespace Sys2Proof.Laws.SlotAndLock
open Sys2Proof.Machine Sys2Proof.Laws.PipeControl Sys2Proof.Laws.WaitAndPhase Sys2Proof.Laws.SyncWork

/-! ### What the read of a handle leaves alone -/

/-- The read of an operand leaves every context in its state. -/
theorem readS_st {r : BitVec 5} {s t : State} {x : Word} (h : readS r s = .ok x t) (c l : Nat) : (t.ctx c l).st = (s.ctx c l).st := by
  have hw := rw_readS {} r s
  rw [h] at hw
  have hcur := readS_cur h
  by_cases hc : c = s.cur.1
  · subst hc
    by_cases hl : l = s.cur.2
    · subst hl
      have hme := congrArg Ctx.st hw.me
      rw [State.me, hcur] at hme
      exact hme
    · have hbank := hw.banks l hl
      rw [State.here, hcur] at hbank
      exact congrArg Ctx.st hbank
  · exact (congrArg (fun k : Core => (k.bank l).st) (hw.cores c hc) : _)

section
variable {s : State} {h : Word}

theorem handle_names {o : Nat} (ho : s.handleKey (clusterOf s.cur.1) h = some o) : handle h s = .ok o s := by
  simp only [handle, get_bind, ho, pure_run]

theorem handle_invalid (ho : s.handleKey (clusterOf s.cur.1) h = none) :
    handle h s = .error (.trap { cause := cSYNC_INVALID, val := h }) s := by
  simp only [handle, get_bind, ho, raise_run]

end

/-! ### Objects (R129) -/

section
variable (s : State) (k o : Nat) (w : Word × Word)

@[simp] theorem setObj_cur : (s.setObj k o w).cur = s.cur := by
  unfold State.setObj
  split
  · rfl
  · rw [cwrite_cur, cwrite_cur]

@[simp] theorem setObj_ctx (c l : Nat) : (s.setObj k o w).ctx c l = s.ctx c l := by
  unfold State.setObj
  split
  · rfl
  · rw [ctx_cwrite, ctx_cwrite]

end

/-! ### Slots (R130) -/

/-- The lowest free number of a range. -/
theorem lowestFree_spec {α : Type} {m : Map α} {f n k : Nat} (h : lowestFree m f n = some k) :
    k < n + f ∧ Map.get? m k = none ∧ ∀ i, n ≤ i → i < k → (Map.get? m i).isSome = true := by
  induction f generalizing n with
  | zero => cases h
  | succ f ih =>
    rw [lowestFree] at h
    by_cases hn : (Map.get? m n).isSome = true
    · rw [if_pos hn] at h
      obtain ⟨hk, hfree, hbelow⟩ := ih h
      refine ⟨by omega, hfree, fun i hi hik => ?_⟩
      rcases Nat.eq_or_lt_of_le hi with rfl | hlt
      · exact hn
      · exact hbelow i hlt hik
    · rw [if_neg hn] at h
      cases h
      exact ⟨by omega, by simpa using hn, fun i hi hik => by omega⟩

/-- The end of the holder's unlock: the head of the queue gets the lock, or it becomes free (R134). -/
def passLock (s : State) (o : Nat) : M Unit := do
  let w := s.obj (clusterOf s.cur.1) o
  match Map.getD s.home.lockQ o [] with
  | [] => modify fun t => t.setObj (clusterOf s.cur.1) o (w.1, 0)
  | (c, l) :: r =>
    modHome fun y => { y with lockQ := Map.set y.lockQ o r }
    modify fun t =>
      let u := t.setObj (clusterOf s.cur.1) o (w.1, lockWord l (t.coreId c))
      if (u.ctx c l).st = .waiting then u.finishWait c l else u

section
variable {a : BitVec 5} {sc : BitVec 3} {s t : State} {h : Word} (hh : readS a s = .ok h t)
include hh

/-- A handle that names no object. -/
theorem handle_traps (ho : t.handleKey (clusterOf t.cur.1) h = none) :
    Traps (.sfree a sc) s { cause := cSYNC_INVALID, val := h } ∧ Traps (.lock a sc) s { cause := cSYNC_INVALID, val := h }
      ∧ Traps (.unlock a sc) s { cause := cSYNC_INVALID, val := h } := by
  have hbad : ∀ f : Word → Nat → M Unit, (readS a >>= fun h => handle h >>= f h) s = .error (.trap { cause := cSYNC_INVALID, val := h }) t :=
    fun f => (bind_ok hh).trans (bind_error (handle_invalid ho))
  exact ⟨instr_trap (hbad _), instr_trap (hbad _), instr_trap (hbad _)⟩

variable {o : Nat} (ho : t.handleKey (clusterOf t.cur.1) h = some o)
include ho

theorem sfree_busy (hb : s.objBusy (clusterOf s.cur.1) o = true) : Traps (.sfree a sc) s { cause := cSYNC_INVALID, val := h } := by
  refine instr_trap (t := t) ?_
  rw [bind_ok hh, bind_ok (handle_names ho), if_pos hb, raise_run]

theorem sfree_slot (hb : s.objBusy (clusterOf s.cur.1) o = false) (hs : o < 64) : Completes 4 (.sfree a sc) sc.toNat s
    (t.modCluster (clusterOf t.cur.1) fun k => { k with slots := Map.del k.slots o }) := by
  refine instr_ok (u := ⟨⟩) ?_
  rw [bind_ok hh, bind_ok (handle_names ho), if_neg (by rw [hb]; decide), if_pos hs, modHome_run]

theorem sfree_memory (hb : s.objBusy (clusterOf s.cur.1) o = false) (hs : 64 ≤ o) : Completes 4 (.sfree a sc) sc.toNat s t := by
  refine instr_ok (u := ⟨⟩) ?_
  rw [bind_ok hh, bind_ok (handle_names ho), if_neg (by rw [hb]; decide), if_neg (Nat.not_lt.mpr hs), pure_run]

/-! ### Locks (R134) -/

/-- A lock asked for on a busy barrier (R134). -/
theorem lock_barrier (hk : objKind (s.obj (clusterOf s.cur.1) o) = 1) (hb : s.objBusy (clusterOf s.cur.1) o = true) :
    Traps (.lock a sc) s { cause := cSYNC_INVALID, val := h } := by
  refine instr_trap (t := t) ?_
  rw [bind_ok hh, bind_ok (handle_names ho)]
  exact congrFun (if_pos ⟨hk, hb⟩) t

section
variable (hn : ¬ (objKind (s.obj (clusterOf s.cur.1) o) = 1 ∧ s.objBusy (clusterOf s.cur.1) o = true))
include hn

theorem lock_takes (hheld : objHeld (s.obj (clusterOf s.cur.1) o) = false) : Completes 4 (.lock a sc) sc.toNat s
    (t.setObj (clusterOf s.cur.1) o (objWord 2 (objGen (s.obj (clusterOf s.cur.1) o)) (objExpect (s.obj (clusterOf s.cur.1) o))
      (objArrived (s.obj (clusterOf s.cur.1) o)), lockWord s.cur.2 (s.coreId s.cur.1))) := by
  refine instr_ok (u := ⟨⟩) ?_
  rw [bind_ok hh, bind_ok (handle_names ho)]
  exact (congrFun (if_neg hn) t).trans (congrFun (if_neg (by rw [hheld]; decide)) t)

variable (hheld : objHeld (s.obj (clusterOf s.cur.1) o) = true)
include hheld

/-- A lock held by the context itself, or by another while a run-to-completion routine asks for it (R31). -/
theorem lock_refused (hr : s.holdsLock (clusterOf s.cur.1) o s.cur.1 s.cur.2 = true ∨ s.me.rtc = true) :
    Traps (.lock a sc) s { cause := cSYNC_INVALID, val := h } := by
  refine instr_trap (t := t) ?_
  rw [bind_ok hh, bind_ok (handle_names ho)]
  exact (congrFun (if_neg hn) t).trans ((congrFun (if_pos hheld) t).trans (congrFun (if_pos hr) t))

/-- Another's lock is waited for, in the order of the requests. -/
theorem lock_queues (hr : ¬ (s.holdsLock (clusterOf s.cur.1) o s.cur.1 s.cur.2 = true ∨ s.me.rtc = true)) :
    ∃ u, exec (.lock a sc) s = .next u ∧ u.me.st = .waiting ∧ u.me.wait = .lock o ∧ u.me.pc = t.me.pc
      ∧ Map.getD u.home.lockQ o [] = Map.getD t.home.lockQ o [] ++ [s.cur] := by
  obtain ⟨f, hf, hctx⟩ := instr_waits (sc := sc) (m := fun _ => .error (.block (.lock o)) (t.modCluster (clusterOf t.cur.1) fun y =>
    { y with lockQ := Map.set y.lockQ o (Map.getD y.lockQ o [] ++ [s.cur]) })) (s := s) rfl
  have hcur := readS_cur hh
  refine ⟨_, (instr_congr ?_).trans hf, ?_⟩
  · rw [bind_ok hh, bind_ok (handle_names ho)]
    exact (congrFun (if_neg hn) t).trans ((congrFun (if_pos hheld) t).trans (congrFun (if_neg hr) t))
  · obtain ⟨hst, hw, hpc⟩ := hctx (t.ctx s.cur.1 s.cur.2)
    simp only [State.me, State.home, modCtx_cur, modCluster_cur, hcur, ctx_modCtx, ctx_modCluster, cluster_modCtx, cluster_modCluster, getD_set]
    exact ⟨hst, hw, hpc, trivial⟩

end

theorem unlock_refused (hr : objKind (s.obj (clusterOf s.cur.1) o) ≠ 2 ∨ s.holdsLock (clusterOf s.cur.1) o s.cur.1 s.cur.2 = false) :
    Traps (.unlock a sc) s { cause := cSYNC_INVALID, val := h } := by
  refine instr_trap (t := t) ?_
  rw [bind_ok hh, bind_ok (handle_names ho)]
  exact congrFun (if_pos (hr.imp id fun hf => by rw [hf]; decide)) t

section
variable (hk : objKind (s.obj (clusterOf s.cur.1) o) = 2) (hl : s.holdsLock (clusterOf s.cur.1) o s.cur.1 s.cur.2 = true)
include hk hl

/-- What the holder's unlock does once its context's earlier accesses are performed: the head of the queue gets the lock, or it becomes free. -/
theorem unlock_release : exec (.unlock a sc) s = instr sc (fun _ => (releasePoint >>= fun _ => passLock s o) t) s := by
  refine instr_congr ?_
  rw [bind_ok hh, bind_ok (handle_names ho)]
  exact congrFun (if_neg (not_or.mpr ⟨not_not.mpr hk, not_not.mpr hl⟩)) t

theorem unlock_waits (hp : t.performed t.cur.1 t.cur.2 = false) : Waits (.unlock a sc) s :=
  (unlock_release hh ho hk hl).trans (instr_stall (bind_error (releasePoint_waits hp)))

variable (hp : t.performed t.cur.1 t.cur.2 = true)
include hp

theorem unlock_frees (hq : Map.getD s.home.lockQ o [] = []) : Completes 4 (.unlock a sc) sc.toNat s
    (t.setObj (clusterOf s.cur.1) o ((s.obj (clusterOf s.cur.1) o).1, 0)) := by
  refine (unlock_release hh ho hk hl).trans (instr_ok (u := ⟨⟩) ((bind_ok (releasePoint_passes hp)).trans ?_))
  simp only [passLock, hq, modify_run]

theorem unlock_passes {c l : Nat} {r : List (Nat × Nat)} (hq : Map.getD s.home.lockQ o [] = (c, l) :: r) (hst : (s.ctx c l).st = .waiting) :
    let u := t.modCluster (clusterOf t.cur.1) fun y => { y with lockQ := Map.set y.lockQ o r }
    Completes 4 (.unlock a sc) sc.toNat s
      ((u.setObj (clusterOf s.cur.1) o ((s.obj (clusterOf s.cur.1) o).1, lockWord l (u.coreId c))).finishWait c l) := by
  intro u
  have hu : ((u.setObj (clusterOf s.cur.1) o ((s.obj (clusterOf s.cur.1) o).1, lockWord l (u.coreId c))).ctx c l).st = .waiting := by
    rw [setObj_ctx, ctx_modCluster, readS_st hh, hst]
  refine (unlock_release hh ho hk hl).trans (instr_ok (u := ⟨⟩) ((bind_ok (releasePoint_passes hp)).trans ?_))
  simp only [passLock, hq]
  exact congrArg (EStateM.Result.ok PUnit.unit) (if_pos hu)

end

end

end Sys2Proof.Laws.SlotAndLock

namespace Sys2Proof
open Sys2Proof.Machine Sys2Proof.Laws Sys2Proof.Laws.SyncWork Sys2Proof.Laws.SlotAndLock

/-- Slots and locks, each instruction by what it finds in the object. -/
theorem slotsAndLocks : Claims.slotsAndLocks := by
  refine ⟨?salloc, ?sallocFull, ?lowest, ?sfree, ?sfreeMemory, ?sfreeBusy, ?lock, ?lockWaits, ?unlock, ?unlockPasses, ?invalid, ?refused⟩
  case salloc =>
    intro d sc s t n i hn hd
    refine instr_ok (u := ⟨⟩) ?_
    simp only [hn]
    exact (bind_ok (modHome_run _ _)).trans (bind_ok hd)
  case sallocFull =>
    intro d sc s t i hn hd
    refine instr_ok (u := ⟨⟩) ?_
    simp only [hn]
    exact bind_ok hd
  case lowest =>
    intro m n h
    obtain ⟨hlt, hfree, hbelow⟩ := lowestFree_spec h
    exact ⟨by omega, hfree, fun i hi => hbelow i (Nat.zero_le i) hi⟩
  case sfree => exact fun a sc s t h o hh ho hb hs => sfree_slot hh ho hb hs
  case sfreeMemory => exact fun a sc s t h o hh ho hb hs => sfree_memory hh ho hb hs
  case sfreeBusy => exact fun a sc s t h o hh ho hb => sfree_busy hh ho hb
  case lock =>
    intro a sc s t h o hh ho hheld hfree
    exact lock_takes hh ho (not_and_busy hfree) hheld
  case lockWaits =>
    intro a sc s t h o hh ho hk hheld hl hrtc
    exact lock_queues hh ho (fun hb => absurd (hk.symm.trans hb.1) (by decide)) hheld (by rw [hl, hrtc]; decide)
  case unlock => exact fun a sc s t h o hh ho hk hl hp hq => unlock_frees hh ho hk hl hp hq
  case unlockPasses => exact fun a sc s t h o c l r hh ho hk hl hp hq hst => unlock_passes hh ho hk hl hp hq hst
  case invalid => exact fun a sc s t h hh ho => handle_traps hh ho
  case refused =>
    intro a sc s t h o hh ho w
    exact ⟨lock_barrier hh ho, fun hheld hfree => lock_refused hh ho (not_and_busy hfree) hheld, unlock_refused hh ho, unlock_waits hh ho⟩

end Sys2Proof
end

section
/-! PROOF. Barriers over a handle and the gang barrier (R31, R131 to R133, R200, log 82). -/
namespace Sys2Proof.Laws.Barrier
open Sys2Proof.Machine Sys2Proof.Laws.PipeControl Sys2Proof.Laws.WaitAndPhase Sys2Proof.Laws.SyncWork Sys2Proof.Laws.SlotAndLock

/-! ### The end of claims and holds (R352) -/

/-- Two states with the same cores and the same acting context. -/
abbrev SameCores (s t : State) : Prop := t.cores = s.cores ∧ t.cur = s.cur

theorem endClaim_cores (s : State) (c l : Nat) (p : Word) : SameCores s (s.endClaim c l p) := by
  unfold State.endClaim
  split
  · exact ⟨rfl, rfl⟩
  · dsimp only
    split
    · exact ⟨cwrite_cores _ _ _ _ _, cwrite_cur _ _ _ _ _⟩
    · exact ⟨rfl, rfl⟩

theorem endClaims_cores (c l : Nat) (ps : List Word) (s : State) : SameCores s (ps.foldl (fun t p => t.endClaim c l p) s) := by
  induction ps generalizing s with
  | nil => exact ⟨rfl, rfl⟩
  | cons p r ih =>
    obtain ⟨h1, h2⟩ := endClaim_cores s c l p
    obtain ⟨h3, h4⟩ := ih (s.endClaim c l p)
    exact ⟨h3.trans h1, h4.trans h2⟩

theorem endHolds_cores (c l : Nat) (as : List Nat) (s : State) : SameCores s (s.endHolds c l as) := by
  induction as generalizing s with
  | nil => exact ⟨rfl, rfl⟩
  | cons a r ih =>
    rw [State.endHolds]
    split
    · obtain ⟨h1, h2⟩ := ih (s.cwrite (clusterOf c) a 8 (headerWithout (BitVec.ofNat 64 (s.cread (clusterOf c) a 8)) false true).toNat)
      exact ⟨h1.trans (cwrite_cores _ _ _ _ _), h2.trans (cwrite_cur _ _ _ _ _)⟩
    · exact ih s

/-- The end of a context's marks leaves the cores as they are but for its list of holds. -/
theorem endMarks_eq (s : State) (c l : Nat) : ∃ t, SameCores s t ∧ s.endMarks c l = t.modCtx c l fun y => { y with holds := [] } := by
  obtain ⟨h1, h2⟩ := endClaims_cores c l ((s.ctx c l).claims.filter fun p => !([] : List Word).any (sameNode p)) s
  obtain ⟨h3, h4⟩ := endHolds_cores c l (s.ctx c l).holds
    (((s.ctx c l).claims.filter fun p => !([] : List Word).any (sameNode p)).foldl (fun t p => t.endClaim c l p) s)
  exact ⟨_, ⟨h3.trans h1, h4.trans h2⟩, rfl⟩

theorem endMarks_cur (s : State) (c l : Nat) : (s.endMarks c l).cur = s.cur := by
  obtain ⟨t, ⟨-, hcur⟩, ht⟩ := endMarks_eq s c l
  rw [ht, modCtx_cur, hcur]

theorem endMarks_guardrec (s : State) (l : Nat) : (s.endMarks s.cur.1 l).here.guardrec = s.here.guardrec := by
  obtain ⟨t, ⟨hcores, hcur⟩, ht⟩ := endMarks_eq s s.cur.1 l
  have hcore : t.core s.cur.1 = s.core s.cur.1 := by simp only [State.core, hcores]
  rw [State.here, State.here, ht, modCtx_cur, hcur, core_modCtx, ← hcore]
  rfl

/-! ### The expected count -/

section
variable {b : BitVec 5} {s t : State} {n : Word}

theorem expected_default (hb : b.toNat = 0) : expected b s = .ok 8 s := congrFun (if_pos hb) s

theorem expected_count (hb : b.toNat ≠ 0) (hn : readS b s = .ok n t) (h1 : 1 ≤ n.toNat) (h2 : n.toNat ≤ 65535) :
    expected b s = .ok n.toNat t := by
  rw [expected, if_neg hb, bind_ok hn, if_neg (by omega), pure_run]

theorem expected_refused (hb : b.toNat ≠ 0) (hn : readS b s = .ok n t) (h : n.toNat = 0 ∨ 65535 < n.toNat) :
    expected b s = .error (.trap { cause := cSYNC_INVALID, val := n }) t := by
  rw [expected, if_neg hb, bind_ok hn, if_pos h, raise_run]

theorem expected_cur {k : Nat} (h : expected b s = .ok k t) : t.cur = s.cur := by
  have hw : Within (RegWork {}) (expected b) := by
    unfold expected
    exact within_ite (fun _ => within_pure (regWork_chain {}) _) fun _ => within_bind (regWork_chain {}) (rw_readS {} b) fun _ =>
      within_ite (fun _ => within_raise (regWork_chain {}) _ _) fun _ => within_pure (regWork_chain {}) _
  have hs := hw s
  rw [h] at hs
  exact cur_of_rest hs.rest

end

/-! ### Arrivals at a handle barrier (R131) -/

section
variable (s : State) (k o n : Nat)

/-- An object after one more arrival. -/
abbrev arrivedObj : State := s.setObj k o (objWord 1 (objGen (s.obj k o)) n (objArrived (s.obj k o) + 1), (s.obj k o).2)

theorem arrive_counts (hfree : ¬ (objKind (s.obj k o) = 2 ∧ s.objBusy k o = true))
    (hfit : ¬ (objArrived (s.obj k o) ≠ 0 ∧ objExpect (s.obj k o) ≠ n)) : s.arrive k o n =
      some (if objArrived (s.obj k o) + 1 = n then ((arrivedObj s k o n).endBar k o 0, true) else (arrivedObj s k o n, false)) := by
  simp only [State.arrive]
  rw [if_neg hfree, if_neg hfit]
  split <;> rfl

theorem arrive_refused (h : (objKind (s.obj k o) = 2 ∧ s.objBusy k o = true) ∨ (objArrived (s.obj k o) ≠ 0 ∧ objExpect (s.obj k o) ≠ n)) :
    s.arrive k o n = none := by
  simp only [State.arrive]
  by_cases hl : objKind (s.obj k o) = 2 ∧ s.objBusy k o = true
  · rw [if_pos hl]
  · rw [if_neg hl, if_pos (h.resolve_left hl)]

/-- An arrival that does not complete the generation is counted only. -/
theorem arrive_incomplete {t : State} (h : s.arrive k o n = some (t, false)) : t = arrivedObj s k o n := by
  by_cases hr : (objKind (s.obj k o) = 2 ∧ s.objBusy k o = true) ∨ (objArrived (s.obj k o) ≠ 0 ∧ objExpect (s.obj k o) ≠ n)
  · rw [arrive_refused s k o n hr] at h
    cases h
  · obtain ⟨hfree, hfit⟩ := not_or.mp hr
    rw [arrive_counts s k o n hfree hfit] at h
    split at h
    · cases h
    · cases h
      rfl

end

/-- What SYNC_INVALID reports of a refused arrival: the handle of a busy lock, or else the count. -/
def refusedArrival (s : State) (h : Word) (o n : Nat) : Word :=
  if objKind (s.obj (clusterOf s.cur.1) o) = 2 ∧ s.objBusy (clusterOf s.cur.1) o = true then h else BitVec.ofNat 64 n

section
variable {s : State} {h : Word} {o n : Nat}

theorem arriveAt_counts {t : State} {done : Bool} (ha : s.arrive (clusterOf s.cur.1) o n = some (t, done)) :
    arriveAt h o n s = .ok done t := by
  simp only [arriveAt, get_bind, ha]
  rfl

theorem arriveAt_refused (ha : s.arrive (clusterOf s.cur.1) o n = none) :
    arriveAt h o n s = .error (.trap { cause := cSYNC_INVALID, val := refusedArrival s h o n }) s := by
  simp only [arriveAt, get_bind, ha, refusedArrival]
  split <;> rfl

end

/-! ### bar and barrive over a handle -/

/-- The rest of bar over a handle, its claims and holds ended. -/
def barAt (d b : BitVec 5) (h : Word) : M Unit := do
  let o ← handle h
  let n ← expected b
  releasePoint
  let done ← arriveAt h o n
  if done then
    let _ ← deferS d 0 0
    pure ()
  else waitBar o d.toNat

/-- The rest of barrive over a handle. -/
def barriveAt (b : BitVec 5) (h : Word) : M Unit := do
  let o ← handle h
  let n ← expected b
  let _ ← arriveAt h o n
  pure ()

theorem guardPoint_pends {s : State} (h : s.here.guardrec.getLsbD 63 = true) (ht : s.me.td = true) : guardPoint s =
    .ok true (s.modCtx s.cur.1 s.cur.2 fun x => { x with pendTraps := x.pendTraps ++ [{ cause := cGUARD, val := s.here.guardrec }] }) := by
  simp only [guardPoint, get_bind, h, ht, if_true]
  rfl

section
variable {d a b : BitVec 5} {sc : BitVec 3} {s s1 : State} {h : Word} (ha : a.toNat ≠ 0) (hd : claimDest d s = .ok ⟨⟩ s)
  (hh : readS a s = .ok h s1)
include ha hd hh

theorem bar_rtc (hrtc : s.me.rtc = true) : Traps (.bar d a b sc) s { cause := cSYNC_INVALID, val := h } := by
  refine instr_trap (t := s1) ?_
  rw [bind_ok hd, if_neg ha, bind_ok hh, if_pos hrtc, raise_run]

variable (hrtc : s.me.rtc = false)
include hrtc

theorem bar_guard (hg : s1.here.guardrec.getLsbD 63 = true) (ht : s1.me.td = false) :
    Traps (.bar d a b sc) s { cause := cGUARD, val := s1.here.guardrec } := by
  refine instr_trap (t := s1) ?_
  rw [bind_ok hd, if_neg ha, bind_ok hh, if_neg (by rw [hrtc]; decide), bind_error (guardPoint_raises hg ht)]

/-- A trap handler goes on behind a bar that raises GUARD (log 82). -/
theorem bar_guardPends (hg : s1.here.guardrec.getLsbD 63 = true) (ht : s1.me.td = true) : Completes 4 (.bar d a b sc) sc.toNat s
    (s1.modCtx s1.cur.1 s1.cur.2 fun x => { x with pendTraps := x.pendTraps ++ [{ cause := cGUARD, val := s1.here.guardrec }] }) := by
  refine instr_ok (u := ⟨⟩) ?_
  rw [bind_ok hd, if_neg ha, bind_ok hh, if_neg (by rw [hrtc]; decide), bind_ok (guardPoint_pends hg ht), if_pos rfl, pure_run]

theorem bar_handle (hg : s1.here.guardrec.getLsbD 63 = false) :
    exec (.bar d a b sc) s = instr sc (fun _ => barAt d b h (s1.endMarks s1.cur.1 s1.cur.2)) s := by
  refine instr_congr ?_
  rw [bind_ok hd, if_neg ha, bind_ok hh, if_neg (by rw [hrtc]; decide), bind_ok (guardPoint_clear hg), if_neg (by decide)]
  rfl

end

section
variable {a b : BitVec 5} {sc : BitVec 3} {s s1 : State} {h : Word}

theorem barrive_handle (ha : a.toNat ≠ 0) (hp : s.performed s.cur.1 s.cur.2 = true) (hh : readS a s = .ok h s1) :
    exec (.barrive a b sc) s = instr sc (fun _ => barriveAt b h s1) s := by
  refine instr_congr ?_
  rw [bind_ok (releasePoint_passes hp), if_neg ha, bind_ok hh]
  rfl

end

section
variable {d b : BitVec 5} {s : State} {h : Word}

theorem barAt_invalid (ho : s.handleKey (clusterOf s.cur.1) h = none) :
    barAt d b h s = .error (.trap { cause := cSYNC_INVALID, val := h }) s := bind_error (handle_invalid ho)

theorem barriveAt_invalid (ho : s.handleKey (clusterOf s.cur.1) h = none) :
    barriveAt b h s = .error (.trap { cause := cSYNC_INVALID, val := h }) s := bind_error (handle_invalid ho)

variable {o : Nat} (ho : s.handleKey (clusterOf s.cur.1) h = some o)
include ho

section
variable {n : Word} {t : State} (hb : b.toNat ≠ 0) (hn : readS b s = .ok n t) (hout : n.toNat = 0 ∨ 65535 < n.toNat)
include hb hn hout

theorem barAt_outOfRange : barAt d b h s = .error (.trap { cause := cSYNC_INVALID, val := n }) t :=
  (bind_ok (handle_names ho)).trans (bind_error (expected_refused hb hn hout))

theorem barriveAt_outOfRange : barriveAt b h s = .error (.trap { cause := cSYNC_INVALID, val := n }) t :=
  (bind_ok (handle_names ho)).trans (bind_error (expected_refused hb hn hout))

end

section
variable {n : Nat} {t : State} (hn : expected b s = .ok n t)
include hn

theorem barriveAt_refused (hr : t.arrive (clusterOf t.cur.1) o n = none) :
    barriveAt b h s = .error (.trap { cause := cSYNC_INVALID, val := refusedArrival t h o n }) t :=
  (bind_ok (handle_names ho)).trans ((bind_ok hn).trans (bind_error (arriveAt_refused hr)))

theorem barriveAt_counts {u : State} {done : Bool} (hr : t.arrive (clusterOf t.cur.1) o n = some (u, done)) : barriveAt b h s = .ok ⟨⟩ u :=
  (bind_ok (handle_names ho)).trans ((bind_ok hn).trans (bind_ok (arriveAt_counts hr)))

variable (hp : t.performed t.cur.1 t.cur.2 = true)
include hp

theorem barAt_refused (hr : t.arrive (clusterOf t.cur.1) o n = none) :
    barAt d b h s = .error (.trap { cause := cSYNC_INVALID, val := refusedArrival t h o n }) t :=
  (bind_ok (handle_names ho)).trans ((bind_ok hn).trans ((bind_ok (releasePoint_passes hp)).trans (bind_error (arriveAt_refused hr))))

theorem barAt_completes {u v : State} {i : Nat} (hr : t.arrive (clusterOf t.cur.1) o n = some (u, true)) (hd : deferS d 0 0 u = .ok i v) :
    barAt d b h s = .ok ⟨⟩ v :=
  (bind_ok (handle_names ho)).trans ((bind_ok hn).trans ((bind_ok (releasePoint_passes hp)).trans ((bind_ok (arriveAt_counts hr)).trans
    (bind_ok hd))))

/-- The context waits in the queue of the object. -/
theorem barAt_waits {u : State} (hr : t.arrive (clusterOf t.cur.1) o n = some (u, false)) : barAt d b h s = .error (.block (.bar o d.toNat))
    (u.modCluster (clusterOf u.cur.1) fun y => { y with barQ := Map.set y.barQ o (Map.getD y.barQ o [] ++ [(u.cur.1, u.cur.2, d.toNat)]) }) :=
  (bind_ok (handle_names ho)).trans ((bind_ok hn).trans ((bind_ok (releasePoint_passes hp)).trans ((bind_ok (arriveAt_counts hr)).trans rfl)))

end

end

/-! ### The gang barrier -/

/-- A gang with the arrival of a core. -/
abbrev arrivedGang (s : State) (g : Gang) : Gang := { g with barArrived := NatSet.insert g.barArrived (g.indexOf s.cur.1) }

theorem gangBarDone_iff (s : State) (g : Gang) : s.gangBarDone g = true ↔ GangArrived s g := by
  simp [State.gangBarDone, GangArrived]

theorem arriveGang_refused {s : State} (h : s.cur.2 ≠ 0) : arriveGang s = .error (.trap { cause := cSYNC_INVALID }) s := by
  rw [arriveGang, get_bind, if_pos h]
  rfl

section
variable {s : State} {gi : Nat} {g : Gang} (h0 : s.cur.2 = 0) (hgi : s.here.gang = some gi) (hg : s.gangOf s.cur.1 = some g)
include h0 hgi hg

theorem arriveGang_completes (h : GangArrived (s.modGang gi fun _ => arrivedGang s g) (arrivedGang s g)) :
    arriveGang s = .ok true ((s.modGang gi fun _ => arrivedGang s g).endGangBar gi 0) := by
  rw [arriveGang, get_bind, if_neg (not_not.mpr h0)]
  simp only [hgi, hg]
  rw [if_pos ((gangBarDone_iff _ _).mpr h)]
  rfl

theorem arriveGang_counts (h : ¬ GangArrived (s.modGang gi fun _ => arrivedGang s g) (arrivedGang s g)) :
    arriveGang s = .ok false (s.modGang gi fun _ => arrivedGang s g) := by
  rw [arriveGang, get_bind, if_neg (not_not.mpr h0)]
  simp only [hgi, hg]
  rw [if_neg (mt (gangBarDone_iff _ _).mp h)]
  rfl

end

section
variable {s : State} {gi : Nat} {g : Gang}

theorem get_gang_of_gangOf (hgi : s.here.gang = some gi) (hg : s.gangOf s.cur.1 = some g) : Map.get? s.gangs gi = some g := by
  have hc : (s.core s.cur.1).gang = some gi := hgi
  simpa only [State.gangOf, hc] using hg

/-- A context that waits at the gang barrier is recorded with its gang. -/
theorem waitGang_blocks {d : Nat} (hgi : s.here.gang = some gi) (hg : Map.get? s.gangs gi = some g) : waitGang d s =
    .error (.block (.gangBar d)) (s.modGang gi fun x => { x with barWait := x.barWait ++ [(g.indexOf s.cur.1, d)] }) := by
  have hof : s.gangOf s.cur.1 = some g := by
    have hc : (s.core s.cur.1).gang = some gi := hgi
    simp only [State.gangOf, hc, hg]
  rw [waitGang, get_bind]
  simp only [hgi, hof]
  rfl

end

/-- The rest of bar at the gang barrier, its claims and holds ended. -/
def barGang (d : BitVec 5) : M Unit := do
  releasePoint
  let done ← arriveGang
  if done then
    let _ ← deferS d 0 0
    pure ()
  else waitGang d.toNat

theorem bar_gang {d b : BitVec 5} {sc : BitVec 3} {s : State} (hd : claimDest d s = .ok ⟨⟩ s) (hrtc : s.me.rtc = false)
    (hg : s.here.guardrec.getLsbD 63 = false) :
    exec (.bar d 0 b sc) s = instr sc (fun _ => barGang d (s.endMarks s.cur.1 s.cur.2)) s := by
  refine instr_congr ?_
  rw [bind_ok hd, if_pos (show (0 : BitVec 5).toNat = 0 from rfl), if_neg (by rw [hrtc]; decide), bind_ok (guardPoint_clear hg), if_neg (by decide)]
  rfl

/-- The generation of the gang barrier ends: its arrivals and waiters are gone, and the waiters go on. -/
theorem endGangBar_eq {s : State} {gi : Nat} {g : Gang} (status : Word) (hg : Map.get? s.gangs gi = some g) : s.endGangBar gi status =
    (s.modGang gi fun _ => { g with barGen := (g.barGen + 1) % 2 ^ 16, barArrived := [], barWait := [] }).releaseAll status
      (g.barWait.map fun w => (g.coreAt w.1, 0, w.2)) := by
  simp only [State.endGangBar, State.modGang, hg]

/-! ### Waiters that are released (R131, R133) -/

theorem endCheck_keeps (x : Ctx) (next : BitVec 22) :
    (endCheck x next).st = x.st ∧ (endCheck x next).wait = x.wait ∧ (endCheck x next).s = x.s ∧ (endCheck x next).pend = x.pend := by
  rw [EndCheck.endCheck_eq]
  exact ⟨rfl, rfl, rfl, rfl⟩

section
variable (s : State) (c l : Nat)

theorem goOnAt_core (next : BitVec 22) (issue : Nat) : let x := endCheck (EndCheck.goingOn (s.ctx c l) issue) next
    (s.goOnAt c l next issue).core c =
      if x.pc = next then (s.core c).setBank l x else ((s.core c).setBank l x).transfer x.pc := core_setCore _ _ _

theorem goOnAt_ctx (next : BitVec 22) (issue : Nat) :
    (s.goOnAt c l next issue).ctx c l = endCheck (EndCheck.goingOn (s.ctx c l) issue) next := by
  rw [State.ctx, goOnAt_core]
  split
  · exact bank_setBank _ _ _
  · exact (bank_transfer _ _ _).trans (bank_setBank _ _ _)

/-- A wait that is over leaves its context READY, with its registers and its results under way. -/
theorem finishWait_keeps : let x := (s.finishWait c l).ctx c l
    x.st = .ready ∧ x.wait = .none ∧ x.s = (s.ctx c l).s ∧ x.pend = (s.ctx c l).pend := by
  rw [State.finishWait, goOnAt_ctx]
  exact endCheck_keeps _ _

theorem ctx_finishWait_other {i j : Nat} (h : (i, j) ≠ (c, l)) : (s.finishWait c l).ctx i j = s.ctx i j := by
  by_cases hi : i = c
  · subst hi
    exact MessageEvent.ctx_finishWait_ne fun hj => h (by rw [hj])
  · simp only [State.ctx, State.finishWait, State.goOnAt, core_setCore_ne _ _ _ _ hi]

variable (d : Nat) (v : Word)

/-- The result of a wait that is to be pushed into a link. -/
def lateResult : Pend := { id := s.vale.nextId, dest := .scalar d, val := v.setWidth 2048, ready := none }

theorem giveS_link (hd : 28 ≤ d) : s.giveS c l d v =
    (s.modCtx c l fun x => { x with pend := x.pend ++ [lateResult s d v] }).modVale fun y => { y with nextId := s.vale.nextId + 1 } := by
  rw [State.giveS, if_neg (Nat.not_lt.mpr hd)]
  rfl

theorem ctx_giveS_other {i j : Nat} (h : (i, j) ≠ (c, l)) : (s.giveS c l d v).ctx i j = s.ctx i j := by
  by_cases hd : d < 28
  · rw [State.giveS, if_pos hd, ctx_modCtx_ne _ _ _ _ _ _ h]
  · rw [giveS_link s c l d v (Nat.not_lt.mp hd), ctx_modVale, ctx_modCtx_ne _ _ _ _ _ _ h]

theorem giveS_register (h0 : 0 < d) (hd : d < 28) : ((s.giveS c l d v).ctx c l).sreg d = v := by
  rw [State.giveS, if_pos hd, ctx_modCtx]
  simp only [Ctx.setSreg, Ctx.sreg, Nat.ne_of_gt h0, if_false, getD_set]

theorem giveS_pends (hd : 28 ≤ d) : ∃ p ∈ ((s.giveS c l d v).ctx c l).pend, p.dest = .scalar d ∧ p.val = v.setWidth 2048 := by
  refine ⟨lateResult s d v, ?_, rfl, rfl⟩
  rw [giveS_link s c l d v hd, ctx_modVale, ctx_modCtx]
  exact List.mem_append_right _ (List.mem_singleton_self _)

end

/-- The release of one waiter. -/
def release (s : State) (status : Word) (e : Nat × Nat × Nat) : State :=
  if (s.ctx e.1 e.2.1).st = .waiting then (s.giveS e.1 e.2.1 e.2.2 status).finishWait e.1 e.2.1 else s

theorem releaseAll_cons (s : State) (status : Word) (e : Nat × Nat × Nat) (r : List (Nat × Nat × Nat)) :
    s.releaseAll status (e :: r) = (release s status e).releaseAll status r := rfl

/-- A waiter as its release leaves it: READY, with the status in its destination. -/
def Released (x : Ctx) (d : Nat) (status : Word) : Prop :=
  x.st = .ready ∧ x.wait = .none ∧ (0 < d → d < 28 → x.sreg d = status)
    ∧ (28 ≤ d → ∃ p ∈ x.pend, p.dest = .scalar d ∧ p.val = status.setWidth 2048)

section
variable (s : State) (status : Word)

theorem release_waiter {c l : Nat} (d : Nat) (h : (s.ctx c l).st = .waiting) : Released ((release s status (c, l, d)).ctx c l) d status := by
  have hr : release s status (c, l, d) = (s.giveS c l d status).finishWait c l := if_pos h
  obtain ⟨hst, hw, hregs, hpend⟩ := finishWait_keeps (s.giveS c l d status) c l
  rw [hr]
  refine ⟨hst, hw, fun h0 hd => ?_, fun hd => ?_⟩
  · rw [Ctx.sreg, hregs]
    exact giveS_register s c l d status h0 hd
  · rw [hpend]
    exact giveS_pends s c l d status hd

theorem release_other {c l : Nat} {e : Nat × Nat × Nat} (h : (c, l) ≠ (e.1, e.2.1)) : (release s status e).ctx c l = s.ctx c l := by
  unfold release
  split
  · rw [ctx_finishWait_other _ _ _ h, ctx_giveS_other _ _ _ _ _ h]
  · rfl

theorem release_rest (e : Nat × Nat × Nat) : (release s status e).gangs = s.gangs ∧ (release s status e).clusters = s.clusters := by
  unfold release State.giveS
  split
  · split <;> exact ⟨rfl, rfl⟩
  · exact ⟨rfl, rfl⟩

end

/-- A release changes none but its waiters. -/
theorem releaseAll_other (status : Word) {q : List (Nat × Nat × Nat)} {c l : Nat} (h : ∀ d, (c, l, d) ∉ q) (s : State) :
    (s.releaseAll status q).ctx c l = s.ctx c l := by
  induction q generalizing s with
  | nil => rfl
  | cons e r ih =>
    have hne : (c, l) ≠ (e.1, e.2.1) := by
      intro he
      obtain ⟨rfl, rfl⟩ := Prod.mk.inj he
      exact h e.2.2 List.mem_cons_self
    rw [releaseAll_cons, ih (fun d hd => h d (List.mem_cons_of_mem _ hd)), release_other s status hne]

/-- Each waiter of a generation is released once. -/
theorem releaseAll_waiter (status : Word) {q : List (Nat × Nat × Nat)} {c l d : Nat} (hm : (c, l, d) ∈ q)
    (hq : (q.map fun w : Nat × Nat × Nat => (w.1, w.2.1)).Nodup) (s : State) (hst : (s.ctx c l).st = .waiting) :
    Released ((s.releaseAll status q).ctx c l) d status := by
  induction q generalizing s with
  | nil => cases hm
  | cons e r ih =>
    obtain ⟨hfirst, hrest⟩ := List.nodup_cons.mp hq
    rw [releaseAll_cons]
    rcases List.mem_cons.mp hm with rfl | hr
    · rw [releaseAll_other status fun d' hd' => hfirst (List.mem_map.mpr ⟨_, hd', rfl⟩)]
      exact release_waiter s status d hst
    · have hne : (c, l) ≠ (e.1, e.2.1) := fun he => hfirst (List.mem_map.mpr ⟨(c, l, d), hr, he⟩)
      exact ih hr hrest _ (by rw [release_other s status hne]; exact hst)

theorem releaseAll_rest (status : Word) (q : List (Nat × Nat × Nat)) (s : State) :
    (s.releaseAll status q).gangs = s.gangs ∧ (s.releaseAll status q).clusters = s.clusters := by
  induction q generalizing s with
  | nil => exact ⟨rfl, rfl⟩
  | cons e r ih =>
    obtain ⟨h1, h2⟩ := release_rest s status e
    obtain ⟨h3, h4⟩ := ih (release s status e)
    exact ⟨h3.trans h1, h4.trans h2⟩

/-! ### The object after its generation -/

theorem obj_congr {s t : State} {k : Nat} (hs : (t.cluster k).slots = (s.cluster k).slots) (hm : t.cmem = s.cmem) (o : Nat) :
    t.obj k o = s.obj k o := by
  simp only [State.obj, State.cread, hs, hm]

/-- An object reads back as it was written. -/
theorem obj_setObj (s : State) (k o : Nat) (w : Word × Word) (h : o < 64 ∨ Mem.wf s.cmem = true) : (s.setObj k o w).obj k o = w := by
  by_cases ho : o < 64
  · simp only [State.obj, State.setObj, if_pos ho, cluster_modCluster, getD_set]
  · have hwf := h.resolve_left ho
    have hsecond : cellKey k (o - 56) = cellKey k (o - 64) + 8 := by
      unfold cellKey
      omega
    have hlt : ∀ x : Word, BitVec.ofNat 64 (x.toNat % 256 ^ 8) = x := fun x => by
      rw [Nat.mod_eq_of_lt (by simpa using x.isLt), BitVec.ofNat_toNat, BitVec.setWidth_eq]
    simp only [State.obj, State.setObj, if_neg ho, State.cread, cwrite_cmem]
    rw [readN_writeN _ _ _ _ (wf_writeN _ _ _ _ hwf), readN_writeN_ne _ _ _ _ _ _ (.inl (by omega)), readN_writeN _ _ _ _ hwf, hlt, hlt]

theorem obj_endBar (s : State) (k o : Nat) (status : Word) (h : o < 64 ∨ Mem.wf s.cmem = true) :
    (s.endBar k o status).obj k o = (objWord 1 (objGen (s.obj k o) + 1) (objExpect (s.obj k o)) 0, (s.obj k o).2) := by
  refine Eq.trans (obj_congr ?_ ?_ o) (obj_setObj s k o _ h)
  · rw [State.endBar, State.cluster, (releaseAll_rest _ _ _).2]
    exact (congrArg Cluster.slots (cluster_modCluster _ _ _)).trans rfl
  · exact (MemoryForm.sameMem_releaseAll _ _ _).1

end Sys2Proof.Laws.Barrier

namespace Sys2Proof
open Sys2Proof.Machine Sys2Proof.Laws Sys2Proof.Laws.PipeControl Sys2Proof.Laws.WaitAndPhase Sys2Proof.Laws.SyncWork
  Sys2Proof.Laws.SlotAndLock Sys2Proof.Laws.Barrier

/-- Barriers: the instructions by the way their work ends, then the generation's end and its waiters. -/
theorem barriers : Claims.barriers := by
  refine ⟨?completes, ?waits, ?refused, ?barriveRefused, ?expected, fun s k o n h => arrive_refused s k o n h, ?guards, ?barrive, ?cancel,
    ?cancelRefused, ?gangLevel, ?gang, ?gangArrives, ?gangArriveLevel, ?gangCancel, ?gangEnds, fun s k o status => rfl,
    fun s status q c l d hm hq hst => releaseAll_waiter status hm hq s hst, fun s status q c l h => releaseAll_other status h s, ?arrives,
    fun s k o status h => obj_endBar s k o status h⟩
  case completes =>
    intro d a b sc s s1 s3 s4 t h o n i ha hd hh hrtc hg s2 ho hn hp har ht
    exact (bar_handle ha hd hh hrtc hg).trans (instr_ok (u := ⟨⟩) (barAt_completes ho hn hp har ht))
  case waits =>
    intro d a b sc s s1 s3 s4 h o n ha hd hh hrtc hg s2 ho hn hp har
    have hcur : s4.cur = s.cur := by
      rw [arrive_incomplete _ _ _ _ har, setObj_cur, expected_cur hn, endMarks_cur, readS_cur hh]
    obtain ⟨f, hf, hctx⟩ := instr_waits (sc := sc) (m := fun _ => barAt d b h s2) (s := s) (barAt_waits ho hn hp har)
    obtain ⟨hst, hw, hpc⟩ := hctx (s4.ctx s.cur.1 s.cur.2)
    refine ⟨_, (bar_handle ha hd hh hrtc hg).trans hf, ?_⟩
    simp only [hcur, ctx_modCtx, ctx_modCluster, cluster_modCtx, cluster_modCluster, getD_set]
    exact ⟨hst, hw, hpc, trivial⟩
  case refused =>
    intro d a b sc s s1 h ha hd hh hrtc hg s2
    have hrun := bar_handle (b := b) (sc := sc) ha hd hh hrtc hg
    exact ⟨fun ho => hrun.trans (instr_trap (barAt_invalid ho)),
      fun o n s3 ho hb hn hout => hrun.trans (instr_trap (barAt_outOfRange ho hb hn hout)),
      fun o n s3 ho hn hp har => hrun.trans (instr_trap (barAt_refused ho hn hp har))⟩
  case barriveRefused =>
    intro a b sc s s1 h ha hp hh
    have hrun := barrive_handle (b := b) (sc := sc) ha hp hh
    exact ⟨fun ho => hrun.trans (instr_trap (barriveAt_invalid ho)),
      fun o n s2 ho hb hn hout => hrun.trans (instr_trap (barriveAt_outOfRange ho hb hn hout)),
      fun o n s2 ho hn har => hrun.trans (instr_trap (barriveAt_refused ho hn har))⟩
  case expected => exact fun b s => ⟨expected_default, fun n t hb hn h1 h2 => expected_count hb hn h1 h2⟩
  case guards =>
    intro d a b sc s s1 h ha hd hh
    exact ⟨bar_rtc ha hd hh, bar_guard ha hd hh, bar_guardPends ha hd hh⟩
  case barrive =>
    intro a b sc s s1 s2 t h o n done ha hp hh ho hn har
    exact (barrive_handle ha hp hh).trans (instr_ok (u := ⟨⟩) (barriveAt_counts ho hn har))
  case cancel =>
    intro a sc s t h o ha hh ho hfree
    refine instr_ok (u := ⟨⟩) ?_
    rw [if_neg ha, bind_ok hh, bind_ok (handle_names ho)]
    exact congrFun (if_neg (not_and_busy hfree)) t
  case cancelRefused =>
    intro a sc s t h ha hh
    refine ⟨fun ho => instr_trap (t := t) ?_, fun o ho hk hb => instr_trap (t := t) ?_⟩
    · rw [if_neg ha, bind_ok hh, bind_error (handle_invalid ho)]
      rfl
    · rw [if_neg ha, bind_ok hh, bind_ok (handle_names ho)]
      exact congrFun (if_pos ⟨hk, hb⟩) t
  case gangLevel =>
    intro d b sc s hd hrtc hl s1 hg hp
    have hl1 : s1.cur.2 ≠ 0 := by rw [endMarks_cur]; exact hl
    exact (bar_gang hd hrtc hg).trans (instr_trap ((bind_ok (releasePoint_passes hp)).trans (bind_error (arriveGang_refused hl1))))
  case gang =>
    intro d b sc s gi g hd hrtc hl s1 hg hp hgi hof g1 s2
    have hcur : s1.cur = s.cur := endMarks_cur _ _ _
    have hl1 : s1.cur.2 = 0 := by rw [hcur]; exact hl
    have hrun := bar_gang (b := b) (sc := sc) hd hrtc (by rw [← endMarks_guardrec s s.cur.2]; exact hg)
    refine ⟨fun hall i t ht => ?_, fun hnot => ?_⟩
    · exact hrun.trans (instr_ok (u := ⟨⟩) ((bind_ok (releasePoint_passes hp)).trans ((bind_ok (arriveGang_completes hl1 hgi hof hall)).trans
        (bind_ok ht))))
    · have hg2 : Map.get? s2.gangs gi = some g1 := Preemption.get_modGang _ _ _ (get_gang_of_gangOf hgi hof)
      have hgi2 : s2.here.gang = some gi := by
        rw [State.here, modGang_cur, core_modGang]
        exact hgi
      obtain ⟨f, hf, hctx⟩ := instr_waits (sc := sc) (m := fun _ => barGang d s1) (s := s) ((bind_ok (releasePoint_passes hp)).trans
        ((bind_ok (arriveGang_counts hl1 hgi hof hnot)).trans (waitGang_blocks (d := d.toNat) hgi2 hg2)))
      obtain ⟨hst, hw, -⟩ := hctx (s2.ctx s.cur.1 s.cur.2)
      refine ⟨_, hrun.trans hf, ?_⟩
      rw [ctx_modCtx, ctx_modGang, modCtx_gangs, Preemption.get_modGang _ _ _ hg2, modGang_cur, hcur]
      exact ⟨hst, hw, rfl⟩
  case gangArrives =>
    intro b sc s gi g hp hl hgi hof g1 s2
    have hrun : ∀ done t, arriveGang s = .ok done t → Completes 4 (.barrive 0 b sc) sc.toNat s t := fun done t ht =>
      instr_ok (u := ⟨⟩) ((bind_ok (releasePoint_passes hp)).trans (bind_ok ht))
    exact ⟨fun hall => hrun _ _ (arriveGang_completes hl hgi hof hall), fun hnot => hrun _ _ (arriveGang_counts hl hgi hof hnot)⟩
  case gangArriveLevel =>
    exact fun b sc s hp hl => instr_trap ((bind_ok (releasePoint_passes hp)).trans (bind_error (arriveGang_refused hl)))
  case gangCancel =>
    intro sc s gi hgi
    refine instr_ok (u := ⟨⟩) ?_
    rw [if_pos (show (0 : BitVec 5).toNat = 0 from rfl), hgi]
    rfl
  case gangEnds =>
    intro s gi status g hg h
    refine ⟨?_, endGangBar_eq status hg⟩
    rw [endGangBar_eq status hg, (releaseAll_rest _ _ _).1]
    exact Preemption.get_modGang _ _ _ hg
  case arrives =>
    intro s k o n hfree hfit s1
    refine arrive_counts s k o n (not_and_busy hfree) ?_
    rintro ⟨ha, he⟩
    exact hfit.elim ha he

/-- Settles O25: slots and locks, then barriers. -/
theorem slotsLocksBarriers : Obligations.SlotsLocksBarriers := ⟨slotsAndLocks, barriers⟩

end Sys2Proof
end
